-- ==== Sys2Proof/Word.lean ====
section
/-! DEFINITION. The word types of the SP-6516 and the index types its commands name. -/

namespace Sys2Proof

/-- A byte of device memory, of a frame or of an octet string (R4, R5). -/
abbrev Byte := BitVec 8

/-- A 32-bit register value (R4). -/
abbrev Word := BitVec 32

/-- Octet strings and frame data, lowest address first. -/
abbrev Bytes := List (BitVec 8)

/-- One of the four host ports `HP_0` to `HP_3` (R14). -/
abbrev Port := Fin 4

/-- A sparse table: pairs of a key and a value, keys strictly rising; each use says what an unlisted key reads as. -/
abbrev Assoc (α : Type) := List (Nat × α)

end Sys2Proof
end

