-- ==== Sys2Proof/Syntax.lean ====
section
/-! DEFINITION. The commands of the block: one constructor per row of the table, with the row's operands. -/

namespace Sys2Proof

/-- How a frame arrived on the wire (R48 to R72): the parts of a frame the device judges besides its content.
A frame with every field at its default is whole, at the right width, read to the end of its trailer. -/
structure Link where
  /-- the second command byte is the complement of the first (R57, R78) -/
  cplOk : Bool := true
  /-- every phase the host drove occupies whole SCK cycles and whole units (R50, R65) -/
  whole : Bool := true
  /-- the CRC the host sent, if it sent one (R70) -/
  crc : Option (BitVec 16) := none
  /-- the select was released after the last trailer cycle (R68) -/
  trailerDone : Bool := true
  /-- the SCK rate in MHz (R60) -/
  sckMHz : Nat := 50
  /-- the memory port served a miss within the hold of R62, or within XIP READ's wait (DESIGN CHOICE, log entry 60) -/
  ready : Bool := true
  /-- the select fell within 1 µs after the port's last warm reset (R96) -/
  early : Bool := false
  deriving DecidableEq, Repr

/-- A Nymsy frame (R54), as the XIP escape carries it (R85) and as the select sentinel meets it (R80). -/
inductive NymsyFrame where
  | regRd (addr len : Nat)
  | regWr (addr : Nat) (data : Bytes)
  | memRd (addr len : Nat)
  | memWr (addr : Nat) (data : Bytes)
  | push (addr : Nat) (data : Bytes)
  | winRd (addr len : Nat)
  | winWr (addr : Nat) (data : Bytes)
  | winFetch (addr len : Nat)
  | status
  | roll (addr len : Nat)
  | setLanes (data : Bytes)
  | nop
  | other (opcode : Byte)
  deriving DecidableEq, Repr

/-- A physical fault that strikes the engines while an entry runs (R215, R223, R233, R240, R244, R268, R273). -/
inductive OpFault where
  | none
  | redundantMismatch
  | railsDisagree
  | selfCheck
  deriving DecidableEq, Repr

/-- What a full reset meets in the parts it tests and discovers (R118). -/
structure BootEnv where
  /-- the levels of RECOV_N and TEST_MODE at t = 0, where the board has changed them (R34, R136) -/
  recovN : Option Bool := none
  testMode : Option Bool := none
  /-- R40: the PLL locks -/
  pllLocks : Bool := true
  /-- step 2 -/
  aonBistOk : Bool := true
  /-- step 3: spare rows that fail their test, as bank and spare -/
  badSpares : List (Nat × Nat) := []
  /-- step 4, both attempts counted as one -/
  entropyOk : Bool := true
  /-- step 5: the Thermos records that fail their CRC or ECC, by offset -/
  badRecords : List Nat := []
  /-- step 7: banks found with a fault that their spare rows cannot hold -/
  badBanks : List Nat := []
  /-- steps 8 and 9: engine domains that fail their test -/
  badEngines : List Nat := []
  /-- step 10: the SFDP discovery of the flash succeeds -/
  sfdpOk : Bool := true
  /-- log2 of the flash density in bytes (R383) -/
  densityLog2 : Nat := 27
  /-- the read dummy count found (R384) -/
  readDummy : Nat := 20
  /-- the three ID bytes -/
  flashId : BitVec 24 := 0
  /-- SFDP maximum erase time, ms -/
  eraseMaxMs : Nat := 400
  /-- SFDP suspend latency, µs; none when it is not advertised -/
  suspendUs : Option Nat := some 30
  /-- the BFPT times copied into the synthesised SFDP (R84) -/
  sfdpTimes : BitVec 64 := 0
  /-- size of the PSRAM found in MB; 0 when none was found (R364) -/
  psramMB : Nat := 0
  deriving DecidableEq, Repr

/-- Where the loss of VDD_AON cuts an envelope's commit off (R304, R309, R326). -/
inductive PowerCut where
  | none
  /-- cells of the archive are programmed, the commit has not begun -/
  | cells
  /-- the journal is being written, its marker is not -/
  | journal
  /-- the marker is written, the copy is not finished -/
  | marked
  /-- the commit stands, what follows it has not been done -/
  | committed
  deriving DecidableEq, Repr

/-- What an envelope's processing meets outside the device: the flash under its archive change (R304, R398), the engines, the supply, a pin. -/
structure EnvelopeRun where
  /-- every program and erase of the change verifies -/
  flashOk : Bool := true
  /-- every program and erase of a compaction verifies -/
  compactOk : Bool := true
  fault : OpFault := .none
  cut : PowerCut := .none
  /-- the level of CLAIM_EN when the check begins, where the board has changed it (R127) -/
  claimEn : Option Bool := Option.none
  deriving DecidableEq, Repr

/-- A grant of an engine (R188): the engine that is free, and whether the copy of the key's shares meets an error (R312). -/
structure EngineGrant where
  engine : Nat
  slotErr : Bool := false
  deriving DecidableEq, Repr

/-- A step of the TAP (R46). -/
inductive TapOp where
  /-- one rising edge of TCK with these levels of TMS and TDI -/
  | clock (tms tdi : Bool)
  /-- TRST_N low -/
  | trst
  deriving DecidableEq, Repr

/-- Why a digest engine clears its contexts (R244). -/
inductive ClearCause where
  | alarm
  | busError
  | poison
  deriving DecidableEq, Repr

/-- The commands of the block, in the order of the table; the comment of each names its mnemonic. -/
inductive Instr where
  /-- REG_RD (R92) -/
  | regRd (p : Port) (k : Link) (addr len : Nat)
  /-- REGISTER_WRITE (R7) -/
  | registerWrite (p : Port) (k : Link) (addr : Nat) (data : Bytes)
  /-- MEM_RD (R60) -/
  | memRd (p : Port) (k : Link) (addr len : Nat)
  /-- MEM_WR (R65) -/
  | memWr (p : Port) (k : Link) (addr : Nat) (data : Bytes)
  /-- PUSH (R67) -/
  | push (p : Port) (k : Link) (addr : Nat) (data : Bytes)
  /-- WIN_RD (R62) -/
  | winRd (p : Port) (k : Link) (addr len : Nat)
  /-- WIN_WR (R395) -/
  | winWr (p : Port) (k : Link) (addr : Nat) (data : Bytes)
  /-- WIN_FETCH (R64) -/
  | winFetch (p : Port) (k : Link) (addr len : Nat)
  /-- STATUS (R74) -/
  | status (p : Port) (k : Link)
  /-- ROLL (R56) -/
  | roll (p : Port) (k : Link) (addr len : Nat)
  /-- SET_LANES (R75) -/
  | setLanes (p : Port) (k : Link) (data : Bytes)
  /-- NOP (R54) -/
  | nop (p : Port) (k : Link)
  /-- LANE_RESET (R77) -/
  | laneReset (p : Port)
  /-- GATED_PORT_FRAME (R80) -/
  | gatedPortFrame (p : Port) (k : Link) (f : NymsyFrame)
  /-- PORT_WAKE_DONE (R79) -/
  | portWakeDone (p : Port)
  /-- XIP_READ (R82) -/
  | xipRead (p : Port) (k : Link) (addr len : Nat)
  /-- XIP_READ_STATUS (R83) -/
  | xipReadStatus (p : Port) (k : Link) (len : Nat)
  /-- XIP_WRITE_ENABLE (R83) -/
  | xipWriteEnable (p : Port) (k : Link)
  /-- XIP_WRITE_DISABLE (R83) -/
  | xipWriteDisable (p : Port) (k : Link)
  /-- XIP_PAGE_PROGRAM (R397) -/
  | xipPageProgram (p : Port) (k : Link) (addr : Nat) (data : Bytes)
  /-- XIP_SECTOR_ERASE (R397) -/
  | xipSectorErase (p : Port) (k : Link) (addr : Nat)
  /-- XIP_READ_ID (R84) -/
  | xipReadId (p : Port) (k : Link) (len : Nat)
  /-- XIP_READ_SFDP (R84) -/
  | xipReadSfdp (p : Port) (k : Link) (addr len : Nat)
  /-- NYMSY_ESCAPE (R85) -/
  | nymsyEscape (p : Port) (k : Link) (f : NymsyFrame)
  /-- WARM_RESET (R96) -/
  | warmReset (p : Port) (k : Link) (scratch : BitVec 16)
  /-- FETCH_ABORT (R102) -/
  | fetchAbort (p : Port) (k : Link) (scratch : BitVec 16)
  /-- CREATE (R145) -/
  | create (p : Port) (k : Link)
  /-- PAUSE (R146) -/
  | pause (p : Port) (k : Link)
  /-- RESUME (R146) -/
  | resume (p : Port) (k : Link)
  /-- SHUTDOWN (R170) -/
  | shutdown (p : Port) (k : Link)
  /-- RELEASE (R146) -/
  | release (p : Port) (k : Link)
  /-- QUERY (R147) -/
  | query (p : Port) (k : Link)
  /-- RING_KICK (R163) -/
  | ringKick (p : Port) (k : Link) (ring : BitVec 16)
  /-- ROLL_ACK_RING (R169) -/
  | rollAckRing (p : Port) (k : Link) (ring : BitVec 16)
  /-- ROLL_ACK_WORD (R169) -/
  | rollAckWord (p : Port) (k : Link) (word : BitVec 11) (upper : Bool) (mask : BitVec 16)
  /-- RING_POLL (R160) -/
  | ringPoll (ring : BitVec 16)
  /-- PUSH_DEPOSIT (R164) -/
  | pushDeposit (p : Port)
  /-- DUP_HASH_DONE (R475) -/
  | dupHashDone (h : Nat)
  /-- HAMPER_ADMISSION (R183) -/
  | hamperAdmission
  /-- ENGINE_GRANT (R188) -/
  | engineGrant (e : EngineGrant)
  /-- AGE_PROMOTION (R187) -/
  | agePromotion (h : Nat)
  /-- CLAIM_WAIT (R201) -/
  | claimWait (p : Port)
  /-- PREEMPT_SUSPEND (R189) -/
  | preemptSuspend (h : Nat)
  /-- HAMPER_COMPLETE (R177) -/
  | hamperComplete (h : Nat)
  /-- NOP_ENTRY (R152) -/
  | nopEntry (h : Nat)
  /-- RANDOM (R287) -/
  | random (h : Nat) (flt : OpFault)
  /-- CIPHER (R212) -/
  | cipher (h : Nat) (flt : OpFault)
  /-- AEAD_SEAL (R214) -/
  | aeadSeal (h : Nat) (flt : OpFault)
  /-- AEAD_OPEN (R215) -/
  | aeadOpen (h : Nat) (flt : OpFault)
  /-- MAC_GEN (R216) -/
  | macGen (h : Nat) (flt : OpFault)
  /-- MAC_CHECK (R216) -/
  | macCheck (h : Nat) (flt : OpFault)
  /-- DIGEST (R236) -/
  | digest (h : Nat) (flt : OpFault)
  /-- HMAC_GEN (R238) -/
  | hmacGen (h : Nat) (flt : OpFault)
  /-- HMAC_CHECK (R238) -/
  | hmacCheck (h : Nat) (flt : OpFault)
  /-- COMPARE (R239) -/
  | compare (h : Nat) (flt : OpFault)
  /-- EXTEND (R249) -/
  | extend (h : Nat) (flt : OpFault)
  /-- QUOTE (R251) -/
  | quote (h : Nat) (flt : OpFault)
  /-- CTX_EXPORT (R246) -/
  | ctxExport (h : Nat) (flt : OpFault)
  /-- CTX_IMPORT (R247) -/
  | ctxImport (h : Nat) (flt : OpFault)
  /-- SIGN (R271) -/
  | sign (h : Nat) (flt : OpFault)
  /-- VERIFY (R272) -/
  | verify (h : Nat) (flt : OpFault)
  /-- AGREE (R273) -/
  | agree (h : Nat) (flt : OpFault)
  /-- RSA_DECRYPT (R274) -/
  | rsaDecrypt (h : Nat) (flt : OpFault)
  /-- MODMATH (R275) -/
  | modmath (h : Nat) (flt : OpFault)
  /-- ISSUE (R277) -/
  | issue (h : Nat) (flt : OpFault)
  /-- DERIVE_EXPORT (R283) -/
  | deriveExport (h : Nat) (flt : OpFault)
  /-- DERIVE_TEMP (R283) -/
  | deriveTemp (h : Nat) (flt : OpFault)
  /-- ATTEST (R288) -/
  | attest (h : Nat) (flt : OpFault)
  /-- METER_POST (R351) -/
  | meterPost (h : Nat) (flt : OpFault)
  /-- METER_POST_TIMEOUT (R351) -/
  | meterPostTimeout (h : Nat) (flt : OpFault)
  /-- CLAIM (R127) -/
  | claim (h : Nat) (run : EnvelopeRun)
  /-- OPERATOR_ROTATE (R328) -/
  | operatorRotate (h : Nat) (run : EnvelopeRun)
  /-- DOMAIN_CREATE (R329) -/
  | domainCreate (h : Nat) (run : EnvelopeRun)
  /-- DOMAIN_DESTROY (R310) -/
  | domainDestroy (h : Nat) (run : EnvelopeRun)
  /-- DOMAIN_OWNER_ROTATE (R328) -/
  | domainOwnerRotate (h : Nat) (run : EnvelopeRun)
  /-- PORT_GRANT (R330) -/
  | portGrant (h : Nat) (run : EnvelopeRun)
  /-- QUOTA_SET (R331) -/
  | quotaSet (h : Nat) (run : EnvelopeRun)
  /-- RATE_SCHEDULE (R347) -/
  | rateSchedule (h : Nat) (run : EnvelopeRun)
  /-- METER_CONFIG (R345) -/
  | meterConfig (h : Nat) (run : EnvelopeRun)
  /-- TIME_SET (R340) -/
  | timeSet (h : Nat) (run : EnvelopeRun)
  /-- FLASH_LAYOUT (R389) -/
  | flashLayout (h : Nat) (run : EnvelopeRun)
  /-- REFERENCE_SET (R333) -/
  | referenceSet (h : Nat) (run : EnvelopeRun)
  /-- KEY_IMPORT (R333) -/
  | keyImport (h : Nat) (run : EnvelopeRun)
  /-- KEY_GENERATE (R334) -/
  | keyGenerate (h : Nat) (run : EnvelopeRun)
  /-- KEY_REPLACE (R333) -/
  | keyReplace (h : Nat) (run : EnvelopeRun)
  /-- KEY_DESTROY (R310) -/
  | keyDestroy (h : Nat) (run : EnvelopeRun)
  /-- SEAL_POLICY (R333) -/
  | sealPolicy (h : Nat) (run : EnvelopeRun)
  /-- DEBUG_UNLOCK (R128) -/
  | debugUnlock (h : Nat) (run : EnvelopeRun)
  /-- RECOVERY_AUTH (R133) -/
  | recoveryAuth (h : Nat) (run : EnvelopeRun)
  /-- RE_ROOT (R137) -/
  | reRoot (h : Nat) (run : EnvelopeRun)
  /-- KEY_LOAD_DONE (R305) -/
  | keyLoadDone (d handle : Nat)
  /-- DEVICE_FULL_RESET (R123) -/
  | deviceFullReset (b : BootEnv)
  /-- POWER_ON_RESET (R32) -/
  | powerOnReset
  /-- POR_RELEASE (R34) -/
  | porRelease (b : BootEnv)
  /-- PLL_LOCK_RETRY (R40) -/
  | pllLockRetry (b : BootEnv)
  /-- BOOT_COMPLETE (R116) -/
  | bootComplete
  /-- HRST_RELEASE (R122) -/
  | hrstRelease (p : Port)
  /-- PFAIL_ASSERT (R353) -/
  | pfailAssert
  /-- PFAIL_RELEASE (R281) -/
  | pfailRelease
  /-- BROWNOUT_WARNING (R457) -/
  | brownoutWarning (completes : Bool)
  /-- BACKUP_SWITCHOVER (R26) -/
  | backupSwitchover (auxMv : Nat)
  /-- VDDIO_HP_LOSS (R33) -/
  | vddioHpLoss
  /-- VDDIO_HP_RETURN (R96) -/
  | vddioHpReturn
  /-- VDDIO_MP_LOSS (R406) -/
  | vddioMpLoss
  /-- VDDIO_MP_RETURN (R406) -/
  | vddioMpReturn (equalBytes wip reentryOk : Bool)
  /-- LOW_BATTERY_CHECK (R27) -/
  | lowBatteryCheck (vbatMv : Nat)
  /-- SPREAD_CFG_WRITE (R41) -/
  | spreadCfgWrite (p : Port) (k : Link) (depth : BitVec 2)
  /-- SPREAD_APPLIED (R41) -/
  | spreadApplied
  /-- SLEW_CFG_WRITE (R43) -/
  | slewCfgWrite (p : Port) (k : Link) (v : BitVec 20)
  /-- WIN_CACHE_INVALIDATE (R391) -/
  | winCacheInvalidate (p : Port) (k : Link) (xipWays depth : BitVec 4)
  /-- TIME_TRIM (R341) -/
  | timeTrim (p : Port) (k : Link) (delta : BitVec 18)
  /-- CKPT_NOW (R353) -/
  | ckptNow (p : Port) (k : Link)
  /-- TAMPER_ARM_WRITE (R430) -/
  | tamperArmWrite (p : Port) (k : Link) (v : BitVec 9)
  /-- PD_POLICY_WRITE (R438) -/
  | pdPolicyWrite (p : Port) (k : Link) (w : Fin 7) (v : Word)
  /-- EVENT_CLEAR (R415) -/
  | eventClear (p : Port) (k : Link) (b : Fin 21) (mask : BitVec 8)
  /-- FORCE_STOP (R419) -/
  | forceStop (p : Port) (k : Link) (on : Bool) (rate : BitVec 3)
  /-- WDT_ENABLE (R421) -/
  | wdtEnable (p : Port) (k : Link) (action : BitVec 2)
  /-- WDT_DISABLE (R421) -/
  | wdtDisable (p : Port) (k : Link) (action : BitVec 2)
  /-- WDT_SVC (R421) -/
  | wdtSvc (p : Port) (k : Link) (key : Word) (b : BootEnv)
  /-- WDT_TIMEOUT (R422) -/
  | wdtTimeout (p : Port) (b : BootEnv)
  /-- WDT_LOCK_SET (R424) -/
  | wdtLockSet (p : Port) (k : Link) (q : Port) (action : BitVec 2)
  /-- WDT_LOCK_CLEAR (R424) -/
  | wdtLockClear (p : Port) (k : Link) (q : Port) (action : BitVec 2)
  /-- SEQ_WDT_EXPIRE (R426) -/
  | seqWdtExpire (b : BootEnv)
  /-- REACTION_END (R417) -/
  | reactionEnd (blk : Fin 21)
  /-- CLOCK_GLITCH (R427) -/
  | clockGlitch (detail : Fin 3)
  /-- SUPPLY_GLITCH (R427) -/
  | supplyGlitch (detail : Fin 2)
  /-- PARITY_FAULT (R427) -/
  | parityFault (e : Fin 36)
  /-- RTC_STOP (R428) -/
  | rtcStop
  /-- MESH_TRIP (R431) -/
  | meshTrip (pin : Fin 4)
  /-- LID_TRIP (R431) -/
  | lidTrip (sw : Fin 2)
  /-- LIGHT_TRIP (R431) -/
  | lightTrip
  /-- TEMP_TAMPER_TRIP (R429) -/
  | tempTamperTrip (high : Bool)
  /-- VBAT_UV_TRIP (R431) -/
  | vbatUvTrip (nodeMv : Nat)
  /-- GLITCH_TAMPER_TRIP (R429) -/
  | glitchTamperTrip (stopped : Bool)
  /-- FI_FIRE (R433) -/
  | fiFire (p : Port) (k : Link) (react : Bool)
  /-- FI_ECC_GO (R433) -/
  | fiEccGo (p : Port) (k : Link) (bits : BitVec 2)
  /-- XSEL_FALL (R403) -/
  | xselFall
  /-- XSEL_BACKOFF_END (R403) -/
  | xselBackoffEnd (equalBytes wip reentryOk : Bool)
  /-- HOLD_LIMIT (R404) -/
  | holdLimit (overMs : Bool)
  /-- MP_TRANSACTION_DONE (R393) -/
  | mpTransactionDone
  /-- FLASH_STATUS_POLL (R398) -/
  | flashStatusPoll (equalBytes wip verifyOk reentryOk : Bool)
  /-- FLASH_OP_TIMEOUT (R398) -/
  | flashOpTimeout
  /-- TONGS_BACKFILL (R253) -/
  | tongsBackfill
  /-- ENGINE_STATE_CLEAR (R244) -/
  | engineStateClear (e : Fin 8) (cause : ClearCause)
  /-- SCRUB_PASS (R373) -/
  | scrubPass (errs : List (Nat × Nat))
  /-- SCRUB_LATE (R374) -/
  | scrubLate
  /-- CORRECTION_WRITEBACK (R371) -/
  | correctionWriteback (addr : Nat)
  /-- ROW_REMAP (R375) -/
  | rowRemap (bank row : Nat)
  /-- WHISK_PASS (R307) -/
  | whiskPass (shareOk : Bool) (slotErrs : List Nat) (ms : Nat)
  /-- WHISK_STALL (R307) -/
  | whiskStall
  /-- IDLE_FLUSH (R442) -/
  | idleFlush
  /-- DRBG_RESEED (R284) -/
  | drbgReseed
  /-- RNG_HEALTH_FAIL (R285) -/
  | rngHealthFail
  /-- RNG_RESTART_DONE (R285) -/
  | rngRestartDone (pass : Bool)
  /-- METER_BOUNDARY (R346) -/
  | meterBoundary
  /-- METER_COUNTER_WRITE (R353) -/
  | meterCounterWrite (d : Nat)
  /-- TJ_SAMPLE (R447) -/
  | tjSample (tj : Int)
  /-- IDLE_GATE (R439) -/
  | idleGate (pd : Fin 50)
  /-- DOMAIN_GATED (R440) -/
  | domainGated (pd : Fin 50)
  /-- HOLD_WAKE (R441) -/
  | holdWake (h : Nat)
  /-- BANK_PREWAKE (R441) -/
  | bankPrewake (ring : BitVec 16)
  /-- DOMAIN_WAKE_DONE (R445) -/
  | domainWakeDone (pd : Fin 50) (pass : Bool)
  /-- WAKE_TIMEOUT (R436) -/
  | wakeTimeout (pd : Fin 50)
  /-- FENCE_RETEST (R445) -/
  | fenceRetest (e : Fin 36)
  /-- CAP_WAIT (R446) -/
  | capWait (h : Nat)
  /-- UNKNOWN_OPCODE_FRAME (R57) -/
  | unknownOpcodeFrame (p : Port) (k : Link) (opcode : Byte)
  /-- XSEL_RISE (R403) -/
  | xselRise (heldUs : Nat) (foreign : List (Nat × Byte))
  /-- RTC_RESUME (R428) -/
  | rtcResume
  /-- BACKUP_NODE_POWER_UP (R338) -/
  | backupNodePowerUp (b : BootEnv)
  /-- JTAG_TAP_OPERATION (R46) -/
  | jtagTapOperation (op : TapOp)
  /-- QUEUED_WAKE_START (R436) -/
  | queuedWakeStart
  deriving DecidableEq, Repr

end Sys2Proof
end

