-- ==== Sys2Proof/Decode.lean ====
section
/-! DEFINITION. The words of the table: the table gives no row a bit, so no word spells a command. -/

namespace Sys2Proof

/-- The command a word spells by the bits of spec/opcode_table.json. Every row of that table has an empty list of
fields: a command of this block is no word of bits, so no word spells one (DESIGN CHOICE, log entry 2). -/
def decodeTableWord (_nbits _w : Nat) : Option Instr := none

end Sys2Proof
end

