-- ==== Sys2Proof/Machine/Bytes.lean ====
section
/-! DEFINITION. Byte order, bit fields, octet strings, checksums and sparse tables (R4, R5, R70, R295). -/

namespace Sys2Proof.Machine

/-- Little-endian value of an octet list (R5). -/
def leNat : Bytes → Nat
  | [] => 0
  | b :: t => b.toNat + 256 * leNat t

/-- The `n` octets of a value, least significant first (R5). -/
def toLe : Nat → Nat → Bytes
  | 0, _ => []
  | n + 1, v => BitVec.ofNat 8 v :: toLe n (v / 256)

/-- Big-endian value of an octet string. -/
def beNat (b : Bytes) : Nat := b.foldl (fun a x => a * 256 + x.toNat) 0

/-- The `n` octets of a value, most significant first. -/
def toBe (n v : Nat) : Bytes := (toLe n v).reverse

/-- `n` octets of `b` from place `o`, read as zero beyond its end. -/
def slice (b : Bytes) (o n : Nat) : Bytes :=
  let t := (b.drop o).take n
  t ++ List.replicate (n - t.length) 0

/-- The little-endian field of `n` octets at place `o`. -/
def leAt (b : Bytes) (o n : Nat) : Nat := leNat (slice b o n)

/-- The octet at place `o`. -/
def byteAt (b : Bytes) (o : Nat) : Nat := leAt b o 1

/-- `b` with `v` written over it from place `o`. -/
def overlay (b : Bytes) (o : Nat) (v : Bytes) : Bytes := b.take o ++ v ++ b.drop (o + v.length)

/-- `n` zero octets. -/
def zeros (n : Nat) : Bytes := List.replicate n 0

/-- All octets are zero. -/
def allZero (b : Bytes) : Bool := b.all (· == 0)

/-- `b` cut or padded with zero octets to `n`. -/
def fitTo (n : Nat) (b : Bytes) : Bytes := slice b 0 n

/-- Octetwise exclusive or, as long as the shorter. -/
def xorBytes (a b : Bytes) : Bytes := List.zipWith (· ^^^ ·) a b

/-- The ASCII octets of a label, with no terminator. -/
def ascii (t : String) : Bytes := t.toList.map (fun c => BitVec.ofNat 8 c.toNat)

/-- Octets of a list of numbers. -/
def octets (l : List Nat) : Bytes := l.map (BitVec.ofNat 8)

/-- Cut into pieces of `n` octets, the last one short; the first argument bounds the pieces. -/
def chunksFuel : Nat → Nat → Bytes → List Bytes
  | 0, _, _ => []
  | _ + 1, _, [] => []
  | f + 1, n, b => b.take n :: chunksFuel f n (b.drop n)

/-- Cut into pieces of `n` octets, the last one short. -/
def chunks (n : Nat) (b : Bytes) : List Bytes := chunksFuel b.length n b

/-- Bits `hi` to `lo` of a value. -/
def bits (v hi lo : Nat) : Nat := (v / 2 ^ lo) % 2 ^ (hi + 1 - lo)

/-- Bit `i` of a value. -/
def bit (v i : Nat) : Bool := v.testBit i

/-- 1 for true. -/
def b2n (b : Bool) : Nat := if b then 1 else 0

/-- `v` with bit `i` cleared. -/
def clearBit (v i : Nat) : Nat := if bit v i then v - 2 ^ i else v

/-- `v` with bit `i` set. -/
def setBit (v i : Nat) : Nat := if bit v i then v else v + 2 ^ i

/-- A value saturating at `m`. -/
def sat (m v : Nat) : Nat := min m v

/-- Signed value of an `n`-bit two's complement field. -/
def signedOf (n v : Nat) : Int := if v < 2 ^ (n - 1) then v else (v : Int) - 2 ^ n

/-- `n`-bit two's complement field of a signed value. -/
def unsignedOf (n : Nat) (v : Int) : Nat := (v % (2 ^ n : Int)).toNat

/-- One bit of CRC-16, polynomial 0x1021, not reflected (R70). -/
def crc16Bit (c : Nat) : Nat := if c ≥ 0x8000 then ((c * 2) ^^^ 0x1021) % 0x10000 else c * 2

/-- CRC-16 over frame bytes: initial value 0xFFFF, no final exclusive or (R70). -/
def crc16 (b : Bytes) : BitVec 16 :=
  BitVec.ofNat 16 (b.foldl (fun c x => Nat.repeat crc16Bit 8 (c ^^^ (x.toNat * 256))) 0xFFFF)

/-- One bit of CRC-32 (IEEE 802.3 polynomial, reflected). -/
def crc32Bit (c : Nat) : Nat := if c % 2 = 1 then (c / 2) ^^^ 0xEDB88320 else c / 2

/-- CRC-32 with the IEEE 802.3 polynomial (R295, R308, R348). PRESUMED, log entry 76. -/
def crc32 (b : Bytes) : Nat :=
  (b.foldl (fun c x => Nat.repeat crc32Bit 8 (c ^^^ x.toNat)) 0xFFFFFFFF) ^^^ 0xFFFFFFFF

/-- The value listed at a key. -/
def assocGet {α : Type} : Assoc α → Nat → Option α
  | [], _ => none
  | (k, v) :: t, a => if k = a then some v else assocGet t a

/-- The value at a key, `d` when it is not listed. -/
def assocGetD {α : Type} (d : α) (m : Assoc α) (a : Nat) : α := (assocGet m a).getD d

/-- List a value at a key, keys staying in rising order. -/
def assocPut {α : Type} : Assoc α → Nat → α → Assoc α
  | [], a, v => [(a, v)]
  | (k, w) :: t, a, v =>
    if a < k then (a, v) :: (k, w) :: t else if a = k then (a, v) :: t else (k, w) :: assocPut t a v

/-- Take a key off the list. -/
def assocDel {α : Type} (m : Assoc α) (a : Nat) : Assoc α := m.filter (fun c => c.1 != a)

/-- Write a value at a key, keeping no entry equal to the default `d`. -/
def assocSet {α : Type} [DecidableEq α] (d : α) (m : Assoc α) (a : Nat) (v : α) : Assoc α :=
  if v = d then assocDel m a else assocPut m a v

/-- Take every key of a range off the list. -/
def assocClear {α : Type} (m : Assoc α) (lo hi : Nat) : Assoc α :=
  m.filter (fun c => !(decide (lo ≤ c.1) && decide (c.1 < hi)))

/-- Keys strictly rising. -/
def assocRising {α : Type} : Assoc α → Bool
  | [] => true
  | [_] => true
  | (a, _) :: (b, w) :: t => decide (a < b) && assocRising ((b, w) :: t)

/-- The canonical form of a sparse table with default `d`: keys rising and no entry equal to the default. -/
def assocWf {α : Type} [DecidableEq α] (d : α) (m : Assoc α) : Bool :=
  assocRising m && m.all (fun c => decide (c.2 ≠ d))

/-- The canonical form of a memory whose unlisted byte reads `d`. -/
def Memory.wf (d : BitVec 8) (m : Assoc (BitVec 8)) : Bool := assocWf d m

/-- Bytes `a` to `a + n - 1` of a memory whose unlisted byte reads `d`. -/
def memRead (d : BitVec 8) (m : Assoc (BitVec 8)) (a n : Nat) : Bytes :=
  (List.range n).map (fun i => assocGetD d m (a + i))

/-- Write octets from address `a` on. -/
def memWrite (d : BitVec 8) : Assoc (BitVec 8) → Nat → Bytes → Assoc (BitVec 8)
  | m, _, [] => m
  | m, a, b :: t => memWrite d (assocSet d m a b) (a + 1) t

/-- Insert a number into a rising list without repeats. -/
def insertNat : List Nat → Nat → List Nat
  | [], a => [a]
  | k :: t, a => if a < k then a :: k :: t else if a = k then k :: t else k :: insertNat t a

end Sys2Proof.Machine
end

