-- ==== Sys2Proof/Machine/Aes.lean ====
section
/-! DEFINITION. AES (FIPS 197), its modes (SP 800-38A to 38E) and ChaCha20-Poly1305 (RFC 8439), as R205 names them. -/

namespace Sys2Proof.Machine

/-- Multiplication by x in GF(2^8). -/
def xtime (a : Nat) : Nat := if a ≥ 128 then ((a * 2) ^^^ 0x11B) % 256 else a * 2

/-- Multiplication in GF(2^8). -/
def gmul (a b : Nat) : Nat :=
  ((List.range 8).foldl (fun (s : Nat × Nat) i => (if bit b i then s.1 ^^^ s.2 else s.1, xtime s.2)) (0, a)).1

/-- Inverse in GF(2^8): the 254th power. -/
def ginv (a : Nat) : Nat :=
  let a2 := gmul a a; let a4 := gmul a2 a2; let a8 := gmul a4 a4
  let a16 := gmul a8 a8; let a32 := gmul a16 a16; let a64 := gmul a32 a32; let a128 := gmul a64 a64
  gmul a2 (gmul a4 (gmul a8 (gmul a16 (gmul a32 (gmul a64 a128)))))

/-- The S-box by its definition: inverse, then the affine map. -/
def sboxOf (a : Nat) : Nat :=
  let x := ginv a
  let r := fun n => (x * 2 ^ n + x / 2 ^ (8 - n)) % 256
  x ^^^ r 1 ^^^ r 2 ^^^ r 3 ^^^ r 4 ^^^ 0x63

/-- The S-box as a table. -/
def sbox : Array Nat := ((List.range 256).map sboxOf).toArray
/-- The inverse S-box as a table. -/
def sboxInv : Array Nat :=
  (List.range 256).foldl (fun t i => t.set! (sbox.getD i 0) i) (Array.replicate 256 0)

/-- The expanded key, newest word first; `nk` key words. -/
def aesExpand (nk : Nat) : Nat → Nat → Nat → List Bytes → List Bytes
  | 0, _, _, ws => ws
  | f + 1, i, rc, ws =>
    let prev := ws.getD 0 []
    let sub := fun (w : Bytes) => w.map (fun b => BitVec.ofNat 8 (sbox.getD b.toNat 0))
    let t := if i % nk = 0 then xorBytes (sub (prev.drop 1 ++ prev.take 1)) (octets [rc, 0, 0, 0])
             else if nk > 6 ∧ i % nk = 4 then sub prev else prev
    aesExpand nk f (i + 1) (if i % nk = 0 then xtime rc else rc) (xorBytes (ws.getD (nk - 1) []) t :: ws)

/-- Round keys of 16 octets. -/
def aesKeys (key : Bytes) : List Bytes :=
  let nk := key.length / 4
  let ws := (aesExpand nk (4 * (nk + 7) - nk) nk 1 (chunks 4 key).reverse).reverse
  chunks 16 ws.flatten

/-- Column mixing with the four coefficients. -/
def mixWith (c : List Nat) (st : Bytes) : Bytes :=
  (List.range 16).map (fun i =>
    let col := i / 4; let r := i % 4
    BitVec.ofNat 8 ((List.range 4).foldl (fun a j => a ^^^ gmul (c.getD ((j + 4 - r) % 4) 0) (byteAt st (4 * col + j))) 0))

/-- Row shift by a map of places. -/
def permute (f : Nat → Nat) (st : Bytes) : Bytes := (List.range 16).map (fun i => st.getD (f i) 0)

/-- One AES block encryption under expanded keys. -/
def aesEncWith (ks : List Bytes) (blk : Bytes) : Bytes :=
  let n := ks.length - 1
  let sub := fun (s : Bytes) => s.map (fun b => BitVec.ofNat 8 (sbox.getD b.toNat 0))
  let shift := permute (fun i => (i + 4 * (i % 4)) % 16)
  let mid := (List.range (n - 1)).foldl
    (fun s i => xorBytes (mixWith [2, 3, 1, 1] (shift (sub s))) (ks.getD (i + 1) [])) (xorBytes (fitTo 16 blk) (ks.getD 0 []))
  xorBytes (shift (sub mid)) (ks.getD n [])

/-- One AES block decryption under expanded keys. -/
def aesDecWith (ks : List Bytes) (blk : Bytes) : Bytes :=
  let n := ks.length - 1
  let sub := fun (s : Bytes) => s.map (fun b => BitVec.ofNat 8 (sboxInv.getD b.toNat 0))
  let shift := permute (fun i => (i + 12 * (i % 4)) % 16)
  let mid := (List.range (n - 1)).foldl
    (fun s i => mixWith [14, 11, 13, 9] (xorBytes (sub (shift s)) (ks.getD (n - 1 - i) []))) (xorBytes (fitTo 16 blk) (ks.getD n []))
  xorBytes (sub (shift mid)) (ks.getD 0 [])

/-- AES block encryption. PRESUMED, log entry 75. -/
def aesEnc (key blk : Bytes) : Bytes := aesEncWith (aesKeys key) blk
/-- AES block decryption. -/
def aesDec (key blk : Bytes) : Bytes := aesDecWith (aesKeys key) blk

/-- CBC over whole blocks from a chaining value: output and last ciphertext block. -/
def aesCbc (dec : Bool) (key iv m : Bytes) : Bytes × Bytes :=
  let ks := aesKeys key
  (chunks 16 m).foldl (fun (s : Bytes × Bytes) b =>
    if dec then (s.1 ++ xorBytes (aesDecWith ks b) s.2, b)
    else let c := aesEncWith ks (xorBytes b s.2); (s.1 ++ c, c)) ([], iv)

/-- A counter block plus one in its low `n` bits (R205). -/
def ctrNext (n : Nat) (c : Bytes) : Bytes :=
  let v := beNat c
  toBe 16 (v / 2 ^ n * 2 ^ n + (v + 1) % 2 ^ n)

/-- CTR: output and the counter block after the last used. -/
def aesCtr (n : Nat) (key c m : Bytes) : Bytes × Bytes :=
  let ks := aesKeys key
  (chunks 16 m).foldl (fun (s : Bytes × Bytes) b => (s.1 ++ xorBytes b (aesEncWith ks s.2), ctrNext n s.2)) ([], c)

/-- The keystream of R286: octets `pos` to `pos + n - 1` of AES-256-CTR from a counter block. -/
def ctrStream (key c : Bytes) (pos n : Nat) : Bytes :=
  ((aesCtr 64 key c (zeros (pos + n))).1.drop pos).take n

/-- Doubling of an XTS tweak. -/
def xtsDouble (t : Bytes) : Bytes :=
  let v := leNat t
  toLe 16 (if v ≥ 2 ^ 127 then ((v * 2) % 2 ^ 128) ^^^ 0x87 else v * 2)

/-- The tweaks of the blocks of one data unit. -/
def xtsTweaks : Nat → Bytes → List Bytes
  | 0, _ => []
  | n + 1, t => t :: xtsTweaks n (xtsDouble t)

/-- One XTS block. -/
def xtsBlock (dec : Bool) (ks : List Bytes) (t b : Bytes) : Bytes :=
  xorBytes (if dec then aesDecWith ks (xorBytes b t) else aesEncWith ks (xorBytes b t)) t

/-- One XTS data unit with ciphertext stealing; the key is the data key followed by the tweak key. -/
def xtsUnit (dec : Bool) (key tweak m : Bytes) : Bytes :=
  let h := key.length / 2
  let ks := aesKeys (key.take h)
  let n := m.length / 16; let r := m.length % 16
  let ts := xtsTweaks (n + 1) (aesEnc (key.drop h) tweak)
  let full := if r = 0 then n else n - 1
  let head := (List.range full).flatMap (fun i => xtsBlock dec ks (ts.getD i []) (slice m (16 * i) 16))
  if r = 0 then head
  else
    let t1 := ts.getD (n - 1) []; let t2 := ts.getD n []
    let cc := xtsBlock dec ks (if dec then t2 else t1) (slice m (16 * (n - 1)) 16)
    let tail := slice m (16 * n) r
    head ++ xtsBlock dec ks (if dec then t1 else t2) (tail ++ cc.drop r) ++ cc.take r

/-- XTS over whole data units, the tweak of each next unit one more (R212): output and next tweak. PRESUMED, log entry 75. -/
def aesXts (dec : Bool) (key tweak : Bytes) (du : Nat) (m : Bytes) : Bytes × Bytes :=
  (chunks du m).foldl
    (fun (s : Bytes × Bytes) u => (s.1 ++ xtsUnit dec key s.2 u, toLe 16 (leNat s.2 + 1))) ([], tweak)

/-- Multiplication in the field of GCM, on big-endian numbers with bit 0 first. -/
def ghashMul (x y : Nat) : Nat :=
  ((List.range 128).foldl (fun (s : Nat × Nat) i =>
    (if bit x (127 - i) then s.1 ^^^ s.2 else s.1,
     if s.2 % 2 = 1 then (s.2 / 2) ^^^ (0xE1 * 2 ^ 120) else s.2 / 2)) (0, y)).1

/-- GHASH over blocks, each piece padded to whole blocks. -/
def ghash (h : Nat) (pieces : List Bytes) : Bytes :=
  toBe 16 ((pieces.flatMap (fun b => (chunks 16 b).map (fitTo 16))).foldl
    (fun a b => ghashMul (a ^^^ beNat b) h) 0)

/-- The pre-counter block of GCM. -/
def gcmJ0 (key iv : Bytes) : Bytes :=
  if iv.length = 12 then iv ++ [0, 0, 0, 1]
  else ghash (beNat (aesEnc key (zeros 16))) [iv, toBe 8 0 ++ toBe 8 (8 * iv.length)]

/-- GCM keystream applied from block `skip` of the message on. -/
def gcmCrypt (key iv : Bytes) (skip : Nat) (m : Bytes) : Bytes :=
  let c := Nat.repeat (ctrNext 32) (skip + 1) (gcmJ0 key iv)
  (aesCtr 32 key c m).1

/-- The GCM tag over associated data and the whole ciphertext. PRESUMED, log entry 75. -/
def gcmTag (key iv aad c : Bytes) : Bytes :=
  let h := beNat (aesEnc key (zeros 16))
  xorBytes (aesEnc key (gcmJ0 key iv)) (ghash h [aad, c, toBe 8 (8 * aad.length) ++ toBe 8 (8 * c.length)])

/-- CMAC (SP 800-38B). PRESUMED, log entry 75. -/
def cmac (key m : Bytes) : Bytes :=
  let ks := aesKeys key
  let dbl := fun (b : Bytes) => let v := beNat b
    toBe 16 (if v ≥ 2 ^ 127 then ((v * 2) % 2 ^ 128) ^^^ 0x87 else v * 2)
  let k1 := dbl (aesEncWith ks (zeros 16))
  let blocks := chunks 16 m
  let last := blocks.getLastD []
  let fin := if last.length = 16 then xorBytes last k1 else xorBytes (fitTo 16 (last ++ [0x80])) (dbl k1)
  let a := blocks.dropLast.foldl (fun s b => aesEncWith ks (xorBytes s b)) (zeros 16)
  aesEncWith ks (xorBytes a fin)

/-- CCM (SP 800-38C): the tag over the plaintext, and the counter mode. PRESUMED, log entry 75. -/
def ccmTag (key nonce aad p : Bytes) (t : Nat) : Bytes :=
  let ks := aesKeys key
  let q := 15 - nonce.length
  let flags := (if aad = [] then 0 else 64) + 8 * ((t - 2) / 2) + (q - 1)
  let b0 := octets [flags] ++ nonce ++ toBe q p.length
  let a := if aad = [] then [] else toBe 2 aad.length ++ aad
  let blks := [b0] ++ (chunks 16 a).map (fitTo 16) ++ (chunks 16 p).map (fitTo 16)
  let mac := blks.foldl (fun s b => aesEncWith ks (xorBytes s b)) (zeros 16)
  (xorBytes mac (aesEncWith ks (octets [q - 1] ++ nonce ++ zeros q))).take t

/-- CCM payload encryption, the same both ways. -/
def ccmCrypt (key nonce m : Bytes) : Bytes :=
  let q := 15 - nonce.length
  (aesCtr (8 * q) key (octets [q - 1] ++ nonce ++ toBe q 1) m).1

/-- One ChaCha quarter round on places of the state. -/
def chachaQuarter (st : List Nat) (a b c d : Nat) : List Nat :=
  let m := 2 ^ 32
  let rot := fun (n x : Nat) => (x * 2 ^ n + x / 2 ^ (32 - n)) % m
  let g := fun i => st.getD i 0
  let a1 := (g a + g b) % m; let d1 := rot 16 (g d ^^^ a1)
  let c1 := (g c + d1) % m; let b1 := rot 12 (g b ^^^ c1)
  let a2 := (a1 + b1) % m; let d2 := rot 8 (d1 ^^^ a2)
  let c2 := (c1 + d2) % m; let b2 := rot 7 (b1 ^^^ c2)
  (((st.set a a2).set b b2).set c c2).set d d2

/-- One ChaCha double round. -/
def chachaDouble (s : List Nat) : List Nat :=
  let s := chachaQuarter s 0 4 8 12; let s := chachaQuarter s 1 5 9 13
  let s := chachaQuarter s 2 6 10 14; let s := chachaQuarter s 3 7 11 15
  let s := chachaQuarter s 0 5 10 15; let s := chachaQuarter s 1 6 11 12
  let s := chachaQuarter s 2 7 8 13; chachaQuarter s 3 4 9 14

/-- A ChaCha20 block. -/
def chachaBlock (key nonce : Bytes) (ctr : Nat) : Bytes :=
  let st := [0x61707865, 0x3320646e, 0x79622d32, 0x6b206574] ++ (chunks 4 key).map leNat ++ [ctr % 2 ^ 32] ++ (chunks 4 nonce).map leNat
  (List.zipWith (fun a b => (a + b) % 2 ^ 32) st (Nat.repeat chachaDouble 10 st)).flatMap (toLe 4)

/-- ChaCha20 from block `skip` of the message on; the message starts at counter 1. -/
def chachaCrypt (key nonce : Bytes) (skip : Nat) (m : Bytes) : Bytes :=
  (chunks 64 m).zipIdx.flatMap (fun q => xorBytes q.1 (chachaBlock key nonce (skip + 1 + q.2)))

/-- Poly1305. -/
def poly1305 (key m : Bytes) : Bytes :=
  let r := leNat (key.take 16) &&& 0x0ffffffc0ffffffc0ffffffc0fffffff
  let p := 2 ^ 130 - 5
  let a := (chunks 16 m).foldl (fun a b => ((a + leNat (b ++ [1])) * r) % p) 0
  toLe 16 (a + leNat (key.drop 16))

/-- The tag of ChaCha20-Poly1305 over associated data and the whole ciphertext. PRESUMED, log entry 75. -/
def chachaTag (key nonce aad c : Bytes) : Bytes :=
  let pad := fun (b : Bytes) => b ++ zeros ((16 - b.length % 16) % 16)
  poly1305 ((chachaBlock key nonce 0).take 32) (pad aad ++ pad c ++ toLe 8 aad.length ++ toLe 8 c.length)

end Sys2Proof.Machine
end

