-- ==== Sys2Proof/Machine/Hash.lean ====
section
/-! DEFINITION. SHA-2 (FIPS 180-4), SHA-3 and SHAKE (FIPS 202), HMAC (RFC 2104), the KDF of SP 800-108, HKDF (RFC 5869):
the standards R17 and R229 name. -/

namespace Sys2Proof.Machine

/-- Rotate a `w`-bit word right. -/
def rotr (w n x : Nat) : Nat := (x / 2 ^ n + x * 2 ^ (w - n)) % 2 ^ w

/-- The 80 constants of FIPS 180-4: the first 64 bits of the fractional parts of cube roots of primes. -/
def sha2K : List Nat :=
  [0x428a2f98d728ae22, 0x7137449123ef65cd, 0xb5c0fbcfec4d3b2f, 0xe9b5dba58189dbbc] ++
  [0x3956c25bf348b538, 0x59f111f1b605d019, 0x923f82a4af194f9b, 0xab1c5ed5da6d8118] ++
  [0xd807aa98a3030242, 0x12835b0145706fbe, 0x243185be4ee4b28c, 0x550c7dc3d5ffb4e2] ++
  [0x72be5d74f27b896f, 0x80deb1fe3b1696b1, 0x9bdc06a725c71235, 0xc19bf174cf692694] ++
  [0xe49b69c19ef14ad2, 0xefbe4786384f25e3, 0xfc19dc68b8cd5b5, 0x240ca1cc77ac9c65] ++
  [0x2de92c6f592b0275, 0x4a7484aa6ea6e483, 0x5cb0a9dcbd41fbd4, 0x76f988da831153b5] ++
  [0x983e5152ee66dfab, 0xa831c66d2db43210, 0xb00327c898fb213f, 0xbf597fc7beef0ee4] ++
  [0xc6e00bf33da88fc2, 0xd5a79147930aa725, 0x6ca6351e003826f, 0x142929670a0e6e70] ++
  [0x27b70a8546d22ffc, 0x2e1b21385c26c926, 0x4d2c6dfc5ac42aed, 0x53380d139d95b3df] ++
  [0x650a73548baf63de, 0x766a0abb3c77b2a8, 0x81c2c92e47edaee6, 0x92722c851482353b] ++
  [0xa2bfe8a14cf10364, 0xa81a664bbc423001, 0xc24b8b70d0f89791, 0xc76c51a30654be30] ++
  [0xd192e819d6ef5218, 0xd69906245565a910, 0xf40e35855771202a, 0x106aa07032bbd1b8] ++
  [0x19a4c116b8d2d0c8, 0x1e376c085141ab53, 0x2748774cdf8eeb99, 0x34b0bcb5e19b48a8] ++
  [0x391c0cb3c5c95a63, 0x4ed8aa4ae3418acb, 0x5b9cca4f7763e373, 0x682e6ff3d6b2b8a3] ++
  [0x748f82ee5defb2fc, 0x78a5636f43172f60, 0x84c87814a1f0ab72, 0x8cc702081a6439ec] ++
  [0x90befffa23631e28, 0xa4506cebde82bde9, 0xbef9a3f7b2c67915, 0xc67178f2e372532b] ++
  [0xca273eceea26619c, 0xd186b8c721c0c207, 0xeada7dd6cde0eb1e, 0xf57d4f7fee6ed178] ++
  [0x6f067aa72176fba, 0xa637dc5a2c898a6, 0x113f9804bef90dae, 0x1b710b35131c471b] ++
  [0x28db77f523047d84, 0x32caab7b40c72493, 0x3c9ebe0a15c9bebc, 0x431d67c49c100d4c] ++
  [0x4cc5d4becb3e42b6, 0x597f299cfc657e2a, 0x5fcb6fab3ad6faec, 0x6c44198c4a475817]

/-- Parameters of one SHA-2 width: word bits, block octets, rounds, length octets, rotation counts. -/
structure Sha2 where
  w : Nat
  block : Nat
  rounds : Nat
  lenBytes : Nat
  bigS0 : Nat × Nat × Nat
  bigS1 : Nat × Nat × Nat
  smallS0 : Nat × Nat × Nat
  smallS1 : Nat × Nat × Nat

/-- The 32-bit family. -/
def sha2x32 : Sha2 := ⟨32, 64, 64, 8, (2, 13, 22), (6, 11, 25), (7, 18, 3), (17, 19, 10)⟩
/-- The 64-bit family. -/
def sha2x64 : Sha2 := ⟨64, 128, 80, 16, (28, 34, 39), (14, 18, 41), (1, 8, 7), (19, 61, 6)⟩

/-- Round constant: the 32-bit family takes the upper halves of the 64-bit family's. -/
def sha2Const (p : Sha2) (i : Nat) : Nat := let k := sha2K.getD i 0; if p.w = 32 then k / 2 ^ 32 else k

/-- Upper-case sigma. -/
def sha2Big (w : Nat) (r : Nat × Nat × Nat) (x : Nat) : Nat := rotr w r.1 x ^^^ rotr w r.2.1 x ^^^ rotr w r.2.2 x
/-- Lower-case sigma: the last count is a shift. -/
def sha2Small (w : Nat) (r : Nat × Nat × Nat) (x : Nat) : Nat := rotr w r.1 x ^^^ rotr w r.2.1 x ^^^ (x / 2 ^ r.2.2)

/-- The message schedule, newest word first. -/
def sha2Schedule (p : Sha2) : Nat → List Nat → List Nat
  | 0, ws => ws
  | n + 1, ws =>
    let g := fun i => ws.getD i 0
    sha2Schedule p n (((sha2Small p.w p.smallS1 (g 1) + g 6 + sha2Small p.w p.smallS0 (g 14) + g 15) % 2 ^ p.w) :: ws)

/-- The rounds over the schedule. -/
def sha2Rounds (p : Sha2) : Nat → List Nat → List Nat → List Nat
  | _, [], st => st
  | i, wd :: ws, st =>
    let g := fun j => st.getD j 0
    let m := 2 ^ p.w
    let a := g 0; let b := g 1; let c := g 2; let e := g 4; let f := g 5; let h := g 6
    let ch := (e &&& f) ^^^ ((m - 1 - e) &&& h)
    let maj := (a &&& b) ^^^ (a &&& c) ^^^ (b &&& c)
    let t1 := g 7 + sha2Big p.w p.bigS1 e + ch + sha2Const p i + wd
    let t2 := sha2Big p.w p.bigS0 a + maj
    sha2Rounds p (i + 1) ws [(t1 + t2) % m, a, b, c, (g 3 + t1) % m, e, f, h]

/-- One compression. -/
def sha2Compress (p : Sha2) (st : List Nat) (blk : Bytes) : List Nat :=
  let ws := (chunks (p.w / 8) blk).map beNat
  let sched := (sha2Schedule p (p.rounds - 16) ws.reverse).reverse
  List.zipWith (fun x y => (x + y) % 2 ^ p.w) st (sha2Rounds p 0 sched st)

/-- Padding of FIPS 180-4. -/
def sha2Pad (p : Sha2) (m : Bytes) : Bytes :=
  let r := (m.length + 1 + p.lenBytes) % p.block
  m ++ [0x80] ++ zeros ((p.block - r) % p.block) ++ toBe p.lenBytes (8 * m.length)

/-- A SHA-2 hash from an initial value, cut to `out` octets. PRESUMED, log entry 75. -/
def sha2 (p : Sha2) (iv : List Nat) (out : Nat) (m : Bytes) : Bytes :=
  (((chunks p.block (sha2Pad p m)).foldl (sha2Compress p) iv).flatMap (toBe (p.w / 8))).take out

/-- Initial value of FIPS 180-4. -/
def ivSha224 : List Nat :=
  [0xc1059ed8, 0x367cd507, 0x3070dd17, 0xf70e5939] ++
  [0xffc00b31, 0x68581511, 0x64f98fa7, 0xbefa4fa4]

/-- Initial value of FIPS 180-4. -/
def ivSha256 : List Nat :=
  [0x6a09e667, 0xbb67ae85, 0x3c6ef372, 0xa54ff53a] ++
  [0x510e527f, 0x9b05688c, 0x1f83d9ab, 0x5be0cd19]

/-- Initial value of FIPS 180-4. -/
def ivSha384 : List Nat :=
  [0xcbbb9d5dc1059ed8, 0x629a292a367cd507, 0x9159015a3070dd17, 0x152fecd8f70e5939] ++
  [0x67332667ffc00b31, 0x8eb44a8768581511, 0xdb0c2e0d64f98fa7, 0x47b5481dbefa4fa4]

/-- Initial value of FIPS 180-4. -/
def ivSha512 : List Nat :=
  [0x6a09e667f3bcc908, 0xbb67ae8584caa73b, 0x3c6ef372fe94f82b, 0xa54ff53a5f1d36f1] ++
  [0x510e527fade682d1, 0x9b05688c2b3e6c1f, 0x1f83d9abfb41bd6b, 0x5be0cd19137e2179]

/-- Initial value of FIPS 180-4. -/
def ivSha512t256 : List Nat :=
  [0x22312194fc2bf72c, 0x9f555fa3c84c64c2, 0x2393b86b6f53b151, 0x963877195940eabd] ++
  [0x96283ee2a88effe3, 0xbe5e1e2553863992, 0x2b0199fc2c85b8aa, 0xeb72ddc81c52ca2]

/-- Rotation offsets and the round constants of Keccak are computed from their definitions in FIPS 202. -/
def rotl64 (n x : Nat) : Nat := if n % 64 = 0 then x else (x * 2 ^ (n % 64) + x / 2 ^ (64 - n % 64)) % 2 ^ 64

/-- The rho offsets, by the walk of FIPS 202. -/
def keccakRho : Nat → Nat → Nat → Assoc Nat → Assoc Nat
  | 0, _, _, acc => acc
  | n + 1, x, y, acc =>
    let t := 23 - n
    keccakRho n y ((2 * x + 3 * y) % 5) (assocPut acc (x + 5 * y) ((t + 1) * (t + 2) / 2))

/-- Offset of lane (x, y). -/
def rhoTable : Assoc Nat := keccakRho 24 1 0 []

/-- One step of the round-constant LFSR. -/
def keccakLfsr (r : Nat) : Nat := if r ≥ 128 then ((r * 2) ^^^ 0x171) % 256 else r * 2

/-- Round constant `i`. -/
def keccakRc (i : Nat) : Nat :=
  (List.range 7).foldl (fun a j => if (Nat.repeat keccakLfsr (7 * i + j) 1) % 2 = 1 then a ^^^ 2 ^ (2 ^ j - 1) else a) 0

/-- One round over 25 lanes. -/
def keccakRound (rc : Nat) (a : List Nat) : List Nat :=
  let l := fun i => a.getD i 0
  let c := (List.range 5).map (fun x => l x ^^^ l (x + 5) ^^^ l (x + 10) ^^^ l (x + 15) ^^^ l (x + 20))
  let d := (List.range 5).map (fun x => c.getD ((x + 4) % 5) 0 ^^^ rotl64 1 (c.getD ((x + 1) % 5) 0))
  let th := (List.range 25).map (fun i => l i ^^^ d.getD (i % 5) 0)
  let b := (List.range 25).map (fun i =>
    let x' := i % 5; let y' := i / 5
    let x := (x' + 3 * y') % 5; let y := x'
    rotl64 (assocGetD 0 rhoTable (x + 5 * y)) (th.getD (x + 5 * y) 0))
  let e := fun x y => b.getD (x % 5 + 5 * y) 0
  let ch := (List.range 25).map (fun i =>
    let x := i % 5; let y := i / 5
    e x y ^^^ ((2 ^ 64 - 1 - e (x + 1) y) &&& e (x + 2) y))
  ch.zipIdx.map (fun q => if q.2 = 0 then q.1 ^^^ rc else q.1)

/-- Keccak-f[1600]. -/
def keccakF (a : List Nat) : List Nat := (List.range 24).foldl (fun s i => keccakRound (keccakRc i) s) a

/-- Absorb one rate block. -/
def keccakAbsorb (st : List Nat) (blk : Bytes) : List Nat :=
  let ws := (chunks 8 blk).map leNat
  keccakF ((List.range 25).map (fun i => st.getD i 0 ^^^ ws.getD i 0))

/-- Squeeze `n` rate blocks. -/
def keccakSqueeze : Nat → Nat → List Nat → Bytes
  | 0, _, _ => []
  | n + 1, rate, st => (st.flatMap (toLe 8)).take rate ++ keccakSqueeze n rate (keccakF st)

/-- A sponge with a domain byte. PRESUMED, log entry 75. -/
def sponge (rate dom out : Nat) (m : Bytes) : Bytes :=
  let padLen := rate - m.length % rate
  let pad : Bytes := if padLen = 1 then [BitVec.ofNat 8 (dom ^^^ 0x80)]
    else BitVec.ofNat 8 dom :: zeros (padLen - 2) ++ [0x80]
  let st := (chunks rate (m ++ pad)).foldl keccakAbsorb (List.replicate 25 0)
  (keccakSqueeze (out / rate + 1) rate st).take out

/-- Output octets of an ALG (R229); SHAKE has none of its own. -/
def algOut (alg : Nat) : Nat := [28, 32, 48, 64, 32, 32, 48, 64].getD alg 0
/-- Block octets of an ALG (R229). -/
def algBlock (alg : Nat) : Nat := [64, 64, 128, 128, 128, 136, 104, 72, 168, 136].getD alg 64

/-- The hash an ALG names (R229), `outLen` for SHAKE. -/
def hashAlg (alg outLen : Nat) (m : Bytes) : Bytes :=
  match alg with
  | 0 => sha2 sha2x32 ivSha224 28 m
  | 1 => sha2 sha2x32 ivSha256 32 m
  | 2 => sha2 sha2x64 ivSha384 48 m
  | 3 => sha2 sha2x64 ivSha512 64 m
  | 4 => sha2 sha2x64 ivSha512t256 32 m
  | 5 => sponge 136 0x06 32 m
  | 6 => sponge 104 0x06 48 m
  | 7 => sponge 72 0x06 64 m
  | 8 => sponge 168 0x1F outLen m
  | _ => sponge 136 0x1F outLen m

/-- SHA-256. -/
def sha256 (m : Bytes) : Bytes := hashAlg 1 0 m
/-- SHA-384. -/
def sha384 (m : Bytes) : Bytes := hashAlg 2 0 m
/-- SHA-512. -/
def sha512 (m : Bytes) : Bytes := hashAlg 3 0 m

/-- HMAC (RFC 2104). PRESUMED, log entry 75. -/
def hmac (alg : Nat) (key m : Bytes) : Bytes :=
  let k := fitTo (algBlock alg) (if key.length > algBlock alg then hashAlg alg 0 key else key)
  let pad := fun (c : BitVec 8) => k.map (· ^^^ c)
  hashAlg alg 0 (pad 0x5C ++ hashAlg alg 0 (pad 0x36 ++ m))

/-- The counter-mode KDF of R282 over a PRF, `l` output octets. -/
def kdfWith (prf : Bytes → Bytes) (h l : Nat) (label ctx : Bytes) : Bytes :=
  ((List.range ((l + h - 1) / h)).flatMap
    (fun i => prf ([BitVec.ofNat 8 (i + 1)] ++ label ++ [0] ++ ctx ++ toBe 2 (8 * l)))).take l

/-- The KDF of R291: PRF HMAC-SHA-256. -/
def kdf (ki : Bytes) (label : String) (ctx : Bytes) (l : Nat) : Bytes :=
  kdfWith (hmac 1 ki) 32 l (ascii label) ctx

/-- HKDF with SHA-384 (R318), one block of output suffices. -/
def hkdf384 (salt ikm info : Bytes) (l : Nat) : Bytes :=
  (hmac 2 (hmac 2 salt ikm) (info ++ [1])).take l

end Sys2Proof.Machine
end

