-- ==== Sys2Proof/Machine/Ec.lean ====
section
/-! DEFINITION. Public-key arithmetic of R264: ECDSA with RFC 6979, Ed25519 (RFC 8032), ECDH, X25519 (RFC 7748), RSA (RFC 8017). -/

namespace Sys2Proof.Machine

/-- Modular power; the first argument bounds the bits. -/
def powModFuel : Nat → Nat → Nat → Nat → Nat
  | 0, _, _, m => 1 % m
  | f + 1, b, e, m =>
    let t := powModFuel f (b * b % m) (e / 2) m
    if e % 2 = 1 then b * t % m else t

/-- Modular power. -/
def powMod (b e m : Nat) : Nat := powModFuel (e.log2 + 1) (b % m) e m

/-- Inverse modulo a prime. -/
def invMod (a p : Nat) : Nat := powMod a (p - 2) p

/-- Extended Euclid: a coefficient of `a` modulo `m`, as an integer; the first argument bounds the steps. -/
def egcdFuel : Nat → Nat → Nat → Int → Int → Nat × Int
  | 0, a, _, x, _ => (a, x)
  | f + 1, a, b, x, y => if b = 0 then (a, x) else egcdFuel f b (a % b) y (x - (a / b : Nat) * y)

/-- The inverse of `a` modulo `m`, if there is one. -/
def inverseOf (a m : Nat) : Option Nat :=
  let r := egcdFuel (2 * m.log2 + 4) a m 1 0
  if r.1 = 1 then some ((r.2 % (m : Int)).toNat) else none

/-- A short Weierstrass curve with a = -3 and prime order (FIPS 186-5). -/
structure Curve where
  p : Nat
  b : Nat
  n : Nat
  gx : Nat
  gy : Nat
  size : Nat
  hashBits : Nat

/-- P-256. -/
def p256 : Curve := ⟨2^256 - 2^224 + 2^192 + 2^96 - 1, 0x5AC635D8AA3A93E7B3EBBD55769886BC651D06B0CC53B0F63BCE3C3E27D2604B,
  0xFFFFFFFF00000000FFFFFFFFFFFFFFFFBCE6FAADA7179E84F3B9CAC2FC632551,
  0x6B17D1F2E12C4247F8BCE6E563A440F277037D812DEB33A0F4A13945D898C296,
  0x4FE342E2FE1A7F9B8EE7EB4A7C0F9E162BCE33576B315ECECBB6406837BF51F5, 32, 256⟩
/-- P-384. -/
def p384 : Curve := ⟨2^384 - 2^128 - 2^96 + 2^32 - 1,
  0xB3312FA7E23EE7E4988E056BE3F82D19181D9C6EFE8141120314088F5013875AC656398D8A2ED19D2A85C8EDD3EC2AEF,
  0xFFFFFFFFFFFFFFFFFFFFFFFFFFFFFFFFFFFFFFFFFFFFFFFFC7634D81F4372DDF581A0DB248B0A77AECEC196ACCC52973,
  0xAA87CA22BE8B05378EB1C71EF320AD746E1D3B628BA79B9859F741E082542A385502F25DBF55296C3A545E3872760AB7,
  0x3617DE4A96262C6F5D9E98BF9292DC29F8F41DBD289A147CE9DA3113B5F0B8C00A60B1CE1D7E819D7A431D7C90EA0E5F, 48, 384⟩
/-- P-521. -/
def p521 : Curve := ⟨2^521 - 1,
  0x0051953EB9618E1C9A1F929A21A0B68540EEA2DA725B99B315F3B8B489918EF109E156193951EC7E937B1652C0BD3BB1BF073573DF883D2C34F1EF451FD46B503F00,
  0x1FFFFFFFFFFFFFFFFFFFFFFFFFFFFFFFFFFFFFFFFFFFFFFFFFFFFFFFFFFFFFFFFFA51868783BF2F966B7FCC0148F709A5D03BB5C9B8899C47AEBB6FB71E91386409,
  0x00C6858E06B70404E9CD9E3ECB662395B4429C648139053FB521F828AF606B4D3DBAA14B5E77EFE75928FE1DC127A2FFA8DE3348B3C1856A429BF97E7E31C2E5BD66,
  0x011839296A789A3BC0045C8A5FB42C7D1BD998F54449579B446817AFBD17273E662C97EE72995EF42640C550B9013FAD0761353C7086A272C24088BE94769FD16650, 66, 521⟩

/-- A point in Jacobian coordinates; Z = 0 is the point at infinity. -/
abbrev Jac := Nat × Nat × Nat

/-- Doubling. -/
def jDouble (p : Nat) (q : Jac) : Jac :=
  let (x, y, z) := q
  if z = 0 ∨ y = 0 then (1, 1, 0) else
  let s := 4 * x * (y * y % p) % p
  let z2 := z * z % p
  let m := 3 * ((x + p - z2) % p) * ((x + z2) % p) % p
  let x3 := (m * m + 2 * p - 2 * s % p) % p
  let y4 := y * y % p
  (x3, (m * ((s + p - x3) % p) + p - 8 * (y4 * y4 % p) % p) % p, 2 * y * z % p)

/-- Addition. -/
def jAdd (p : Nat) (a b : Jac) : Jac :=
  let (x1, y1, z1) := a
  let (x2, y2, z2) := b
  if z1 = 0 then b else if z2 = 0 then a else
  let z12 := z1 * z1 % p; let z22 := z2 * z2 % p
  let u1 := x1 * z22 % p; let u2 := x2 * z12 % p
  let s1 := y1 * z2 % p * z22 % p; let s2 := y2 * z1 % p * z12 % p
  if u1 = u2 then (if s1 = s2 then jDouble p a else (1, 1, 0)) else
  let h := (u2 + p - u1) % p; let r := (s2 + p - s1) % p
  let h2 := h * h % p; let h3 := h2 * h % p; let v := u1 * h2 % p
  let x3 := (r * r + 3 * p - h3 - 2 * v % p) % p
  (x3, (r * ((v + p - x3) % p) + p - s1 * h3 % p) % p, h * z1 % p * z2 % p)

/-- Scalar multiple, over the bits of the scalar. -/
def jMul (p : Nat) : Nat → Nat → Jac → Jac
  | 0, _, _ => (1, 1, 0)
  | f + 1, k, q =>
    let r := jMul p f (k / 2) (jDouble p q)
    if k % 2 = 1 then jAdd p q r else r

/-- Affine coordinates, none for the point at infinity. -/
def jAffine (p : Nat) (q : Jac) : Option (Nat × Nat) :=
  if q.2.2 = 0 then none else
  let zi := invMod q.2.2 p; let zi2 := zi * zi % p
  some (q.1 * zi2 % p, q.2.1 * zi2 % p * zi % p)

/-- Multiple of an affine point. -/
def ecMul (c : Curve) (k : Nat) (x y : Nat) : Option (Nat × Nat) := jAffine c.p (jMul c.p (k.log2 + 1) k (x, y, 1))

/-- A point of the curve, in range (R272). -/
def onCurve (c : Curve) (x y : Nat) : Bool :=
  decide (x < c.p) && decide (y < c.p) && decide ((y * y) % c.p = (x * x * x + (c.p - 3) * x + c.b) % c.p)

/-- Public point of a private scalar, X ‖ Y. -/
def ecPub (c : Curve) (d : Nat) : Bytes :=
  match ecMul c d c.gx c.gy with
  | some (x, y) => toBe c.size x ++ toBe c.size y
  | none => zeros (2 * c.size)

/-- The public key as numbers, when it is a valid point. -/
def ecPoint (c : Curve) (pub : Bytes) : Option (Nat × Nat) :=
  let x := beNat (pub.take c.size); let y := beNat (pub.drop c.size)
  if pub.length = 2 * c.size ∧ onCurve c x y then some (x, y) else none

/-- bits2int of RFC 6979. -/
def bits2int (c : Curve) (h : Bytes) : Nat := let v := beNat h; if 8 * h.length > c.hashBits then v / 2 ^ (8 * h.length - c.hashBits) else v

/-- T of RFC 6979: octets of the generator until the length of the order; the first argument bounds the rounds. -/
def rfcGen (alg : Nat) (k : Bytes) : Nat → Nat → Bytes → Bytes → Bytes × Bytes
  | 0, _, v, acc => (v, acc)
  | f + 1, n, v, acc => if acc.length ≥ n then (v, acc) else let v' := hmac alg k v; rfcGen alg k f n v' (acc ++ v')

/-- The nonce candidates of RFC 6979 until one is usable; the first argument bounds the rounds. -/
def rfcNonce (c : Curve) (alg : Nat) : Nat → Bytes → Bytes → Nat
  | 0, _, _ => 1
  | f + 1, k, v =>
    let (v1, t) := rfcGen alg k 8 c.size v []
    let cand := bits2int c (t.take c.size)
    if 0 < cand ∧ cand < c.n then cand
    else let k' := hmac alg k (v1 ++ [0]); rfcNonce c alg f k' (hmac alg k' v1)

/-- ECDSA over a digest with the RFC 6979 nonce, `extra` being the additional input of section 3.6: r and s. PRESUMED, log entry 75. -/
def ecdsaSign (c : Curve) (alg : Nat) (d : Nat) (digest extra : Bytes) : Nat × Nat :=
  let e := bits2int c digest % c.n
  let h := algOut alg
  let seed := toBe c.size d ++ toBe c.size e ++ extra
  let v0 : Bytes := List.replicate h 1
  let k1 := hmac alg (zeros h) (v0 ++ [0] ++ seed)
  let v1 := hmac alg k1 v0
  let k2 := hmac alg k1 (v1 ++ [1] ++ seed)
  let k := rfcNonce c alg 8 k2 (hmac alg k2 v1)
  match ecMul c k c.gx c.gy with
  | some (x, _) => let r := x % c.n; (r, invMod k c.n * ((e + r * d) % c.n) % c.n)
  | none => (0, 0)

/-- The ECDSA verification equation for r and s in range. PRESUMED, log entry 75. -/
def ecdsaVerify (c : Curve) (pub : Nat × Nat) (digest : Bytes) (r s : Nat) : Bool :=
  let e := bits2int c digest % c.n
  let w := invMod s c.n
  let a := jMul c.p 528 (e * w % c.n) (c.gx, c.gy, 1)
  let b := jMul c.p 528 (r * w % c.n) (pub.1, pub.2, 1)
  match jAffine c.p (jAdd c.p a b) with
  | some (x, _) => x % c.n == r
  | none => false

/-- A minimal DER INTEGER. -/
def derInt (v : Nat) : Bytes :=
  let raw := toBe (v.log2 / 8 + 1) v
  let body := if byteAt raw 0 ≥ 128 then 0 :: raw else raw
  octets [2, body.length] ++ body

/-- ECDSA-Sig-Value in DER (R271). -/
def derSig (r s : Nat) : Bytes :=
  let body := derInt r ++ derInt s
  octets (if body.length < 128 then [0x30, body.length] else [0x30, 0x81, body.length]) ++ body

/-- Read an ECDSA-Sig-Value: it must be exactly the minimal encoding of some r and s (R272). -/
def derParse (b : Bytes) : Option (Nat × Nat) :=
  let o := if byteAt b 1 = 0x81 then 3 else 2
  let lr := byteAt b (o + 1)
  let r := beNat (slice b (o + 2) lr)
  let ls := byteAt b (o + 3 + lr)
  let s := beNat (slice b (o + 4 + lr) ls)
  if derSig r s = b then some (r, s) else none

/-- The field prime of edwards25519. -/
def edP : Nat := 2 ^ 255 - 19
/-- The group order L. -/
def edL : Nat := 2 ^ 252 + 27742317777372353535851937790883648493
/-- The curve constant d. -/
def edD : Nat := (edP - 121665 * invMod 121666 edP % edP) % edP
/-- The square root of -1. -/
def edI : Nat := powMod 2 ((edP - 1) / 4) edP

/-- Extended coordinates X, Y, Z, T. -/
abbrev Ed := Nat × Nat × Nat × Nat

/-- Complete addition. -/
def edAdd (a b : Ed) : Ed :=
  let (x1, y1, z1, t1) := a
  let (x2, y2, z2, t2) := b
  let p := edP
  let aa := (y1 + p - x1) * (y2 + p - x2) % p
  let bb := (y1 + x1) * (y2 + x2) % p
  let cc := 2 * t1 * t2 % p * edD % p
  let dd := 2 * z1 * z2 % p
  let e := (bb + p - aa) % p; let f := (dd + p - cc) % p; let g := (dd + cc) % p; let h := (bb + aa) % p
  (e * f % p, g * h % p, f * g % p, e * h % p)

/-- Scalar multiple. -/
def edMul : Nat → Nat → Ed → Ed
  | 0, _, _ => (0, 1, 1, 0)
  | f + 1, k, q => let r := edMul f (k / 2) (edAdd q q); if k % 2 = 1 then edAdd q r else r

/-- Recover x from y and its sign bit. -/
def edX (y sign : Nat) : Option Nat :=
  let p := edP
  if y ≥ p then none else
  let u := (y * y + p - 1) % p
  let v := (edD * (y * y % p) + 1) % p
  let x2 := u * invMod v p % p
  let x := powMod x2 ((p + 3) / 8) p
  let x := if x * x % p = x2 then x else x * edI % p
  if x * x % p ≠ x2 then none
  else if x = 0 ∧ sign = 1 then none
  else some (if x % 2 = sign then x else p - x)

/-- Encode a point. -/
def edEncode (q : Ed) : Bytes :=
  let zi := invMod q.2.2.1 edP
  let x := q.1 * zi % edP; let y := q.2.1 * zi % edP
  toLe 32 (y + 2 ^ 255 * (x % 2))

/-- Decode a canonical point. -/
def edDecode (b : Bytes) : Option Ed :=
  let v := leNat b
  let y := v % 2 ^ 255
  (edX y (v / 2 ^ 255)).map (fun x => (x, y, 1, x * y % edP))

/-- The base point. -/
def edBase : Ed := (edDecode (toLe 32 (4 * invMod 5 edP % edP))).getD (0, 1, 1, 0)

/-- Clamp a secret scalar. -/
def edClamp (h : Bytes) : Nat := let v := leNat (h.take 32) % 2 ^ 254; v - v % 8 + 2 ^ 254

/-- Public key of a seed. -/
def edPub (seed : Bytes) : Bytes := edEncode (edMul 256 (edClamp (sha512 seed)) edBase)

/-- PureEdDSA signature. PRESUMED, log entry 75. -/
def edSign (seed m : Bytes) : Bytes :=
  let h := sha512 seed
  let a := edClamp h
  let pub := edEncode (edMul 256 a edBase)
  let r := leNat (sha512 (h.drop 32 ++ m)) % edL
  let rb := edEncode (edMul 256 r edBase)
  let k := leNat (sha512 (rb ++ pub ++ m)) % edL
  rb ++ toLe 32 ((r + k * a) % edL)

/-- The cofactored equation of R272, for S in range and points decoded. PRESUMED, log entry 75. -/
def edVerify (pub : Bytes) (a r : Ed) (rb : Bytes) (sv : Nat) (m : Bytes) : Bool :=
  let k := leNat (sha512 (rb ++ pub ++ m)) % edL
  let l := edMul 256 sv edBase
  let q := edAdd r (edMul 256 k a)
  edEncode (edMul 4 8 l) == edEncode (edMul 4 8 q)

/-- One ladder step of X25519 on (x2, z2, x3, z3). -/
def xStep (x1 : Nat) (s : Nat × Nat × Nat × Nat) (swap : Bool) : Nat × Nat × Nat × Nat :=
  let p := edP
  let (x2, z2, x3, z3) := if swap then (s.2.2.1, s.2.2.2, s.1, s.2.1) else s
  let a := (x2 + z2) % p; let aa := a * a % p
  let b := (x2 + p - z2) % p; let bb := b * b % p
  let e := (aa + p - bb) % p
  let c := (x3 + z3) % p; let d := (x3 + p - z3) % p
  let da := d * a % p; let cb := c * b % p
  let x5 := (da + cb) % p; let z5 := (da + p - cb) % p
  let r := (aa * bb % p, e * ((aa + 121665 * e) % p) % p, x5 * x5 % p, x1 * (z5 * z5 % p) % p)
  if swap then (r.2.2.1, r.2.2.2, r.1, r.2.1) else r

/-- X25519 (RFC 7748). PRESUMED, log entry 75. -/
def x25519 (k u : Bytes) : Bytes :=
  let kv := let v := leNat k % 2 ^ 254; v - v % 8 + 2 ^ 254
  let x1 := leNat u % 2 ^ 255 % edP
  let r := (List.range 255).foldl (fun s i => xStep x1 s (bit kv (254 - i))) (1, 0, x1, 1)
  toLe 32 (r.1 * invMod r.2.1 edP % edP)

/-- X25519 public key. -/
def xPub (k : Bytes) : Bytes := x25519 k (toLe 32 9)

/-- MGF1 (RFC 8017). -/
def mgf1 (alg : Nat) (seed : Bytes) (n : Nat) : Bytes :=
  ((List.range (n / algOut alg + 1)).flatMap (fun i => hashAlg alg 0 (seed ++ toBe 4 i))).take n

/-- DigestInfo of an ALG before the digest: the DER of its object identifier. -/
def digestInfo (alg : Nat) (h : Bytes) : Bytes :=
  let last := [4, 1, 2, 3, 6, 8, 9, 10].getD alg 0
  octets [0x30, 17 + h.length, 0x30, 0x0D, 0x06, 0x09, 0x60, 0x86, 0x48, 0x01, 0x65, 0x03, 0x04, 0x02, last, 0x05, 0x00,
    0x04, h.length] ++ h

/-- EMSA-PKCS1-v1_5. PRESUMED, log entry 75. -/
def emsaV15 (alg k : Nat) (digest : Bytes) : Bytes :=
  let t := digestInfo alg digest
  octets [0, 1] ++ List.replicate (k - 3 - t.length) 0xFF ++ [0] ++ t

/-- EMSA-PSS encoding for a modulus of `k` octets whose bits are 8k (R264: whole octets). PRESUMED, log entry 75. -/
def emsaPss (alg k : Nat) (digest salt : Bytes) : Bytes :=
  let h := hashAlg alg 0 (zeros 8 ++ digest ++ salt)
  let db := zeros (k - salt.length - h.length - 2) ++ [1] ++ salt
  let masked := xorBytes db (mgf1 alg h db.length)
  (BitVec.ofNat 8 (byteAt masked 0 % 128) :: masked.drop 1) ++ h ++ [0xBC]

/-- EMSA-PSS verification with a fixed salt length. -/
def pssVerify (alg saltLen : Nat) (digest em : Bytes) : Bool :=
  let k := em.length; let hl := algOut alg
  if k < hl + saltLen + 2 then false else
  let h := slice em (k - hl - 1) hl
  let masked := em.take (k - hl - 1)
  let db := xorBytes masked (mgf1 alg h masked.length)
  let db := BitVec.ofNat 8 (byteAt db 0 % 128) :: db.drop 1
  let salt := db.drop (db.length - saltLen)
  decide (byteAt em (k - 1) = 0xBC) && decide (byteAt masked 0 < 128) &&
    decide (db = zeros (db.length - saltLen - 1) ++ [1] ++ salt) &&
    decide (hashAlg alg 0 (zeros 8 ++ digest ++ salt) = h)

/-- RSA private power by the CRT values p, q, dP, dQ, qInv (R298). -/
def rsaCrt (p q dp dq qi x : Nat) : Nat :=
  let m1 := powMod x dp p; let m2 := powMod x dq q
  m2 + q * (qi * ((m1 + p - m2 % p) % p) % p)

/-- OAEP decoding of a k-octet block (R274). PRESUMED, log entry 75. -/
def oaepDecode (alg : Nat) (label em : Bytes) : Option Bytes :=
  let hl := algOut alg
  let seed := xorBytes (slice em 1 hl) (mgf1 alg (em.drop (1 + hl)) hl)
  let db := xorBytes (em.drop (1 + hl)) (mgf1 alg seed (em.length - 1 - hl))
  let rest := (db.drop hl).dropWhile (· == 0)
  if byteAt em 0 = 0 ∧ db.take hl = hashAlg alg 0 label ∧ rest.head? = some 1 then some (rest.drop 1) else none

end Sys2Proof.Machine
end

