-- ==== Sys2Proof/Machine/Flags.lean ====
section
/-! DEFINITION. The codes and flag bits of an entry: completion statuses, FLAGS, usage bits, protection classes
(R151, R156, R207, R299). -/

namespace Sys2Proof.Machine

/-- Completion statuses (R156). -/
abbrev stOk : Nat := 0x00
abbrev stReplayed : Nat := 0x01
abbrev stAborted : Nat := 0x10
abbrev stReclaim : Nat := 0x11
abbrev stChain : Nat := 0x12
abbrev stMode : Nat := 0x13
abbrev stWrongState : Nat := 0x20
abbrev stBadOpcode : Nat := 0x21
abbrev stBadParam : Nat := 0x22
abbrev stBadLength : Nat := 0x23
abbrev stBadAddress : Nat := 0x24
abbrev stTooBig : Nat := 0x25
abbrev stKeyMissing : Nat := 0x30
abbrev stKeyOrphaned : Nat := 0x31
abbrev stKeyUsage : Nat := 0x32
abbrev stKeySealed : Nat := 0x33
abbrev stKeyClass : Nat := 0x34
abbrev stKeyDomain : Nat := 0x35
abbrev stTagConflict : Nat := 0x40
abbrev stAuthFail : Nat := 0x41
abbrev stCompareFail : Nat := 0x42
abbrev stVerifyFail : Nat := 0x43
abbrev stPoison : Nat := 0x50
abbrev stEngineFault : Nat := 0x51
abbrev stAlarm : Nat := 0x52
abbrev stUnavailable : Nat := 0x53
abbrev stEnvRejected : Nat := 0x60
abbrev stEnvReplay : Nat := 0x61
abbrev stEnvApplied : Nat := 0x62
abbrev stQuota : Nat := 0x70
abbrev stTimeOrder : Nat := 0x71

/-- Part flags of FLAGS (R151). -/
def partFirst (f : Nat) : Bool := bit f 0
def partMid (f : Nat) : Bool := bit f 1
def partLast (f : Nat) : Bool := bit f 2
/-- A part flag is set: the entry is part of a multi-part message. -/
def isPart (f : Nat) : Bool := f % 8 != 0
/-- At most one part flag is set (R151). -/
def partsOk (f : Nat) : Bool := f % 8 == 0 || f % 8 == 1 || f % 8 == 2 || f % 8 == 4
/-- The entry opens its message: a whole message or the first part. -/
def opensMessage (f : Nat) : Bool := !isPart f || partFirst f
/-- The entry ends its message: a whole message or the last part. -/
def endsMessage (f : Nat) : Bool := !isPart f || partLast f

/-- Bits of USAGE (R299). -/
abbrev useSign : Nat := 0
abbrev useVerify : Nat := 1
abbrev useEncrypt : Nat := 2
abbrev useDecrypt : Nat := 3
abbrev useMac : Nat := 4
abbrev useDerive : Nat := 5
abbrev useExport : Nat := 6
abbrev useIssue : Nat := 7
abbrev useAgree : Nat := 8

/-- Protection classes (R299). -/
abbrev clsAny : Nat := 0
abbrev clsGuarded : Nat := 1
abbrev clsRedundant : Nat := 2

/-- The dual-rail pair of a match, of a mismatch, and of rails that disagree (R215, R240). -/
def pairMatch : Bytes := octets [0x5A, 0xA5]
def pairMismatch : Bytes := octets [0xA5, 0x5A]
def pairNone : Bytes := octets [0x00, 0x00]

end Sys2Proof.Machine
end

