-- ==== Sys2Proof/Config.lean ====
section
/-! DEFINITION. What one unit fixes, and the free values: constants without a body, of which nothing can be proved. -/

namespace Sys2Proof.Config

/-- FREE VALUE: the conditioned octet the noise source yields at a position (R284; DESIGN CHOICE, log entry 4). -/
opaque noiseByte : Nat → BitVec 8

/-- FREE VALUE: octet `j` of the mask share of a slot in a Whisk pass (R307; DESIGN CHOICE, log entry 5). -/
opaque whiskMask : Nat → Nat → Nat → BitVec 8

/-- FREE VALUE: octet `i` of the fused device UID (R99; DESIGN CHOICE, log entry 6). -/
opaque uidByte : Nat → BitVec 8

/-- FREE VALUE: octet `i` of the device root secret a shipped unit holds (R308; DESIGN CHOICE, log entry 3). -/
opaque drsByte : Nat → BitVec 8

/-- FREE VALUE: octet `i` of SHARE_B of that secret (R307, R308; DESIGN CHOICE, log entry 3). -/
opaque drsMaskByte : Nat → BitVec 8

/-- FREE VALUE: the level of `ALIVE` at a tick while it toggles: R419 gives its rate, not its phase (DESIGN CHOICE, log entry 90). -/
opaque aliveLevel : Nat → Bool

/-- FREE VALUE: octet `i` of the accumulators of an open message, by its opcode, its FLAGS and what it has absorbed: R245 names them and
gives no layout (DESIGN CHOICE, log entry 7). -/
opaque accumulatorByte : Nat → Nat → List (BitVec 8) → Nat → BitVec 8

/-- FREE VALUE: what a bit of an interrupted flash program or erase holds after a power loss (R399; DESIGN CHOICE, log entry 8). -/
opaque brokenFlashByte : Nat → Nat → BitVec 8

/-- FREE VALUE: how many octets of `DST` an entry of a hamper had written when an alarm or a clearing struck its engine;
those read zero afterwards (R211, R234, R269 give no count; DESIGN CHOICE, log entry 9). -/
opaque writtenBefore : Nat → Nat → Nat

/-- FREE VALUE: the boundary-scan cells the TAP captures in SAMPLE and drives out (R46 gives no cell order; DESIGN CHOICE, log entry 10). -/
opaque boundaryCell : Nat → Nat → Bool

/-- How many bits the TAP's instruction register has (R46 gives no length; DESIGN CHOICE, log entry 10). -/
opaque irLength : Nat
/-- The TAP instruction a code of the instruction register selects: 0 EXTEST, 1 IDCODE, 2 SAMPLE/PRELOAD, 3 BYPASS (R46 gives no
codes; DESIGN CHOICE, log entry 10). -/
opaque irDecode : Nat → Nat
/-- How many cells the boundary-scan register has (R46 gives none; DESIGN CHOICE, log entry 10). -/
opaque boundaryCells : Nat

/-- FREE VALUE: an octet of the parameter tables of the synthesised SFDP, for the bits that R84 does not give (PRESUMED, log entry 38). -/
opaque sfdpByte : Nat → BitVec 8

/-- FREE VALUE: what an event's DETAIL holds when its chapter gives the source none (R86, R381, R428, R454; DESIGN CHOICE, log entry 27). -/
opaque openDetail : Nat → Nat → Nat → Nat

/-- FREE VALUE: where in the model's arrangement the thing at a Pantry address lies, by the address and the tick, for the areas whose
arrangement the spec leaves open: the cups, the duplicate records and the device-reserved region (R179, R192, R360; DESIGN CHOICE, log
entries 12 and 13). -/
opaque placeOf : Nat → Nat → Nat

/-- FREE VALUE: an octet of the PSRAM where the device has left none, by its address and the tick (DESIGN CHOICE, log entry 99). -/
opaque psramByte : Nat → Nat → BitVec 8

/-- FREE VALUE: how far the pass of the scrubber in progress has come at a tick (R374; DESIGN CHOICE, log entry 92). -/
opaque scrubProgress : Nat → Nat

/-- FREE VALUE: INDEX of a spare row's retirement, which has one octet for a bank and a spare (R452; DESIGN CHOICE, log entry 28). -/
opaque spareIndex : Nat → Nat → Nat

end Sys2Proof.Config
end

