-- ==== Sys2Proof/Machine/State.lean ====
section
/-! DEFINITION. The state of the SP-6516 as plain data, its stops, and the state right after a power-on reset. -/

namespace Sys2Proof.Machine

/-- Why the block would stop with a fault. The spec names no such case: it gives every command an effect. -/
inductive Fault where
  /-- Raised by no meaning: kept because the interface asks for a type of faults. Safe. -/
  | noneDefined
  deriving DecidableEq, Repr

/-- Why the model gives a command no meaning. -/
inductive Refusal where
  /-- Raised by the dispatch for a command that has no meaning yet. Safe: the machine stops. -/
  | notModelled (mnemonic : String)
  deriving DecidableEq, Repr

/-- The modes of `MODE.MODE` (R107). -/
inductive Mode where
  | factory | boot | operational | debug | recovery | quarantine
  deriving DecidableEq, Repr

/-- The lifecycle of `LIFECYCLE.STATE` (R108, R115). -/
inductive Lifecycle where
  | factoryOpen | unclaimed | claimed | scrapped
  deriving DecidableEq, Repr

/-- The states of a switched power domain (R434). -/
inductive PdState where
  | off | retain | on | waking
  deriving DecidableEq, Repr

/-- The policies of a power domain (R437). -/
inductive Policy where
  | auto | forceOn | forceOff
  deriving DecidableEq, Repr

/-- The states of a ring (R141). -/
inductive RingState where
  | unbound | active | paused | draining | faulted
  deriving DecidableEq, Repr

/-- The trailer codes of R72. -/
inductive Trailer where
  | ok | busy | poison | denied | wake | crcFail
  deriving DecidableEq, Repr

/-- What the device drove in the last frame of a port (R58, R70, R72): nothing, or data, the CRC when it is enabled,
and the trailer; an XIP read has no trailer. -/
inductive Response where
  | silent
  | read (data : Bytes) (crc : Option (BitVec 16)) (trailer : Trailer)
  | xip (data : Bytes)
  deriving DecidableEq, Repr

/-- A committed WIN_FETCH (R64): its first byte, the range left to load, and whether it was abandoned or its port reset (R96, R102). -/
structure Fetch where
  first : Nat
  next : Nat
  stop : Nat
  announce : Bool := true
  abandoned : Bool := false
  deriving DecidableEq, Repr

/-- An entry in a push buffer (R66, R67, R166). -/
structure PushItem where
  ring : Nat
  entry : Bytes
  seq : Nat
  deriving DecidableEq, Repr

/-- A record of the push log (R166): RESULT, REASON, RING, INDEX, WR_SEQ. -/
structure PushLog where
  result : Nat := 0
  reason : Nat := 0
  ring : Nat := 0
  index : Nat := 0
  wrSeq : Nat := 0
  deriving DecidableEq, Repr

/-- The Egg timer of a port (R420, R421, R424). Times are kept in monotonic ticks. -/
structure Wdt where
  timeoutMs : Nat := 1000
  windowMs : Nat := 0
  en : Bool := false
  action : Nat := 0
  start : Nat := 0
  fails : Nat := 0
  cause : Nat := 0
  half : Bool := false
  acting : Bool := false
  /-- a QUIESCE hold is in force (R422) -/
  quiesced : Bool := false
  /-- WDT_LOCK_CFG_p and WDT_LOCK_p (R424) -/
  lockCfg : Word := 0
  lockAction : Nat := 0
  lock : Bool := false
  deriving DecidableEq, Repr

/-- A flash write in a window-write queue (R395 to R397). -/
inductive WinKind where
  | winWr | program | erase
  deriving DecidableEq, Repr

/-- A queued or running flash write. `expect` is what the touched range must hold once done; `steps` are the
flash commands left: none stands for the erase of the sector, some page for the program of that page. -/
structure WinOp where
  kind : WinKind
  /-- place in commit order (R395); DESIGN CHOICE, log entry 43 -/
  seq : Nat
  addr : Nat
  data : Bytes
  started : Bool := false
  steps : List (Option Nat) := []
  repeated : Bool := false
  deriving DecidableEq, Repr

/-- The grant of a port (R330). The maps list granted granules, domains and regions in rising order. -/
structure Grant where
  xip : Bool := false
  rings : Option (Nat × Nat) := none
  extendMask : Nat := 0
  winRd : Nat := 0
  winWr : Nat := 0
  pantry : List Nat := []
  larder : List Nat := []
  domains : List Nat := []
  deriving DecidableEq, Repr

/-- One host port: its registers, link, buffers and outputs. -/
structure PortState where
  lanes : Word := 0
  timing : Word := 0x00400108
  crcEn : Bool := false
  lwSeq : Nat := 0
  lwOpcode : Nat := 0
  lwOutcome : Nat := 0
  linkEvt : Bool := false
  fetchDone : Bool := false
  fetch : Option Fetch := none
  pushBuf : List PushItem := []
  xip : Bool := false
  wip : Bool := false
  wel : Bool := false
  err : Bool := false
  response : Response := .silent
  /-- write frames the sentinel discarded whose WAKE is not recorded yet (R80) -/
  wakeRecords : List Nat := []
  warmCause : Nat := 0
  scratch : Nat := 0
  arenaSel : Nat := 0
  lastRing : Nat := 0
  refusedAny : Bool := false
  lastResult : Nat := 0
  ringArg0 : Word := 0
  ringArg1 : Word := 0
  ringArg2 : Word := 0
  cmdSeq : Nat := 0
  cmdLast : Nat := 0
  cmdResult : Nat := 0
  queryId : Word := 0
  queryState : Word := 0
  pushLog : List PushLog := []
  pushLogPos : Nat := 0
  pushDeposited : Nat := 0
  pushRefused : Nat := 0
  measSel : Nat := 0
  histView : Nat := 0
  wdt : Wdt := {}
  grant : Grant := {}
  /-- the bootstrap view of R124 is this port's view -/
  bootstrap : Bool := false
  hrstReleased : Bool := false
  hrstPending : Bool := false
  winQueue : List WinOp := []
  slewApplied : Nat := 0xA
  deriving DecidableEq, Repr

/-- A ring context (R141), kept by its fields. -/
structure Ring where
  state : RingState := .unbound
  base : Nat := 0
  head : Nat := 0
  tail : Nat := 0
  headPhase : Bool := false
  tailPhase : Bool := false
  domain : Nat := 0
  port : Nat := 0
  cls : Nat := 0
  poll : Nat := 0
  sizeLog2 : Nat := 0
  faultDetail : Nat := 0
  /-- the walk of a drain has ended (R170) -/
  walked : Bool := false
  /-- the context line is poisoned (R377) -/
  poisoned : Bool := false
  deriving DecidableEq, Repr

/-- How an entry finished (R153, R156). -/
structure Done where
  status : Nat
  detail : Nat := 0
  len : Nat := 0
  issueNo : Nat := 0
  param : Option Bytes := none
  deriving DecidableEq, Repr

/-- A taken entry: the index it was taken from, the 64 bytes as taken, and how it finished. -/
structure TakenEntry where
  index : Nat
  bytes : Bytes
  done : Option Done := none
  /-- the meter it advances and by how much, from its cap check until its completion is written (R343, R344) -/
  share : Option (Nat × Nat) := none
  deriving DecidableEq, Repr

/-- A hamper-scoped temporary (R278). -/
structure Temp where
  typ : Nat
  cls : Nat
  usage : Nat
  value : Bytes
  deriving DecidableEq, Repr

/-- A record of the duplicate table (R192). -/
structure DupRec where
  tag : Nat
  hash : Bytes
  issueNo : Nat := 0
  wall : Nat := 0
  seed : Bytes
  domain : Nat
  closed : Bool := false
  admittedMs : Nat
  /-- place in the domain's admission order (R194); DESIGN CHOICE, log entry 43 -/
  order : Nat
  owner : Nat
  deriving DecidableEq, Repr

/-- A key in the key store (R297 to R299), under its first handle. Its shares are read through the Whisk's pass. -/
structure Key where
  typ : Nat
  span : Nat
  cls : Nat
  debug : Bool
  usage : Nat
  domain : Nat
  size : Nat
  sealRef : Nat
  sealMeas : Nat
  param : Nat
  value : Bytes
  deriving DecidableEq, Repr

/-- Why a key cannot be used: STATUS, DETAIL, and the event of block 12 it raises. -/
structure LoadFail where
  status : Nat
  detail : Nat
  event : Option Nat := none
  deriving DecidableEq, Repr

/-- What the key-store step finds when an entry is granted its engines (R300): the key whose value they hold, with the failure of its seal
if it fails, or why the handle gives none. -/
inductive Held where
  | key (k : Key) (sealed : Option LoadFail)
  | fail (f : LoadFail)
  deriving DecidableEq, Repr

/-- A taken hamper (R174 to R195). -/
structure Hamper where
  /-- MODEL'S OWN: which hamper (DESIGN CHOICE, log entry 43) -/
  id : Nat
  ring : Nat
  domain : Nat
  port : Nat
  /-- the ring's base: the scheduler holds its entries' addresses (R172) -/
  base : Nat := 0
  entries : List TakenEntry
  /-- its entry with CHAIN = 0 was taken, or R175 closed the run -/
  closedRun : Bool
  cls : Nat
  agedAt : Nat
  /-- the content hash, once R475 has computed it -/
  hash : Option Bytes := none
  admitted : Bool := false
  replay : Option DupRec := none
  /-- the seed of its random values, when idempotent (R286) -/
  seed : Option Bytes := none
  floorCups : Nat := 0
  sharedCups : Nat := 0
  cups : Assoc (BitVec 8) := []
  cupPoison : Bool := false
  temps : Assoc Temp := []
  /-- engine domains granted to the current entry -/
  engines : List Nat := []
  /-- the digest-engine phase of the current entry has run (R267) -/
  hashed : Bool := false
  /-- draw position in the current entry's stream (R286) -/
  streamPos : Nat := 0
  /-- the ISSUE draw of the current entry: number and wall time (R277) -/
  drawn : Option (Nat × Nat) := none
  suspensions : Nat := 0
  /-- the tick at which it became its port's claim (R183, R201) -/
  claimSince : Nat := 0
  /-- the staged copy of an ENVELOPE entry's envelope (R321) -/
  staged : Bytes := []
  /-- what the current entry's digest-engine phase has hashed: a message, a body, a spliced template (R263, R277) -/
  template : Bytes := []
  /-- place in the order of grants (R189); DESIGN CHOICE, log entry 43 -/
  startedAt : Nat := 0
  /-- a METER_POST is waiting for records (R351) -/
  waiting : Bool := false
  /-- the tick at which it began to wait -/
  waitSince : Nat := 0
  /-- SEQ of the records its METER_POSTs have delivered: they leave the backlog after the completion write (R352) -/
  posted : List Nat := []
  /-- place in the order of admission (R322, R351); DESIGN CHOICE, log entry 43 -/
  admitNo : Nat := 0
  /-- refused for cups, so it may become its port's claim (R183) -/
  refusedCups : Bool := false
  /-- a reclaim has struck it while its public-key operation runs on (R423); DEDUCED, log entry 67 -/
  reclaimed : Bool := false
  /-- what the key-store step found at the grant of the current entry's engines (R300, R311); DEDUCED, log entry 77 -/
  held : Option Held := none
  /-- its engines are granted and the key-store step waits for a load (R300) -/
  awaiting : Bool := false
  deriving DecidableEq, Repr

/-- One arbiter: per class the domain pointer and the grants it has had, per domain the ring pointer, and the count
of grants (R185, R186). -/
structure Arbiter where
  domPtr : Assoc Nat := []
  domGrants : Assoc Nat := []
  ringPtr : Assoc Nat := []
  grants : Nat := 0
  deriving DecidableEq, Repr

/-- What an engine context holds (R189, R258). -/
inductive Occupant where
  | hamper (id : Nat)
  | tongs (window : Nat)
  deriving DecidableEq, Repr

/-- One of the 50 switched domains (R434, R437, R448), with the engine contexts of an engine domain. -/
structure Pd where
  st : PdState := .off
  closed : Bool := false
  wakeWanted : Bool := false
  wakeQueued : Bool := false
  policy : Policy := .auto
  wakeBist : Bool := false
  fenced : Bool := false
  fences : Nat := 0
  retired : Bool := false
  tested : Bool := false
  running : Option Occupant := none
  suspended : Option Occupant := none
  deriving DecidableEq, Repr

/-- A multi-part message between its parts (R218, R242): what identifies it and all it has absorbed. -/
structure PartState where
  opcode : Nat
  flags : Nat
  slot : Nat
  port : Nat
  domain : Nat
  param : Bytes
  /-- chaining value, counter block or tweak reached -/
  chain : Bytes
  aad : Bytes
  /-- bytes absorbed so far: ciphertext of an AEAD message, the message of a MAC or digest -/
  acc : Bytes
  total : Nat
  /-- a CTR message has used the all-ones value of its counter field (R205, R212) -/
  spent : Bool := false
  deriving DecidableEq, Repr

/-- An exported message (R246): its number and the state as it stood. -/
structure CtxOut where
  seq : Nat
  state : PartState
  deriving DecidableEq, Repr

/-- A history entry of a health block (R412). -/
structure HistEntry where
  seq : Nat
  merged : Nat := 0
  sources : Nat
  detail : Nat
  stamp : Nat
  deriving DecidableEq, Repr

/-- An event kept until its reaction can run (R417): source, DETAIL, domain concerned, severity at capture. -/
structure MergedEvent where
  src : Nat
  detail : Nat
  sev : Nat
  domain : Option Nat
  deriving DecidableEq, Repr

/-- One health block (R411). -/
structure Health where
  wrongState : Nat := 0
  handling : Bool := false
  history : List HistEntry := []
  newest : Nat := 0
  nextSeq : Nat := 0
  /-- EVENT, one bit per source -/
  event : Nat := 0
  /-- severity at capture of each source whose bit is set (R415) -/
  stored : Assoc Nat := []
  /-- domains named by uncleared DOMAIN-severity captures, per source -/
  named : List (Nat × Nat) := []
  sevs : List Nat := []
  sticky : Bool := false
  merged : List MergedEvent := []
  deriving DecidableEq, Repr

/-- A domain-table entry (R295), with the meter fields of R357 by their parts. -/
structure DomRec where
  state : Nat := 0
  nondecTime : Bool := false
  timeSeen : Bool := false
  anchorAlg : Nat := 0
  suspend : Nat := 0
  epoch : Nat := 0
  envCounter : Nat := 0
  anchor : Bytes := []
  lastEnv : Bytes := []
  /-- MODEL'S OWN: the reply of the owner's last applied envelope (R325; DEDUCED, log entry 24) -/
  lastReply : Bytes := []
  issueMark : Nat := 0
  wLast : Nat := 0
  manifestDigest : Bytes := []
  manifestEntries : Nat := 0
  slotFirst : Nat := 0
  slotCount : Nat := 0
  dupShare : Nat := 0
  manifestCell : Nat := 0
  extendMask : Nat := 0
  weight : Nat := 0
  caps : List Nat := []
  rateClass : Nat := 0
  held : Bool := false
  unclean : Bool := false
  debugGap : Bool := false
  startMono : Nat := 0
  /-- OFFSET at START_MONO (R348; DEDUCED, log entry 18) -/
  startOffset : Int := 0
  /-- MODEL'S OWN: boundaries that have passed inside the open record (R348, R350; DEDUCED, log entry 46) -/
  inner : Nat := 0
  /-- the checkpointed counters (METERS) -/
  meters : List Nat := []
  /-- the entry fails its CHECK or ECC (cause 1 of R296) -/
  failed : Bool := false
  deriving DecidableEq, Repr

/-- A pending rate-class change (R347, R357): an entry of the schedule pool. -/
structure RateEntry where
  domain : Nat
  cls : Nat
  order : Nat
  epoch : Nat
  whenTicks : Nat
  deriving DecidableEq, Repr

/-- A closed meter record (R348), by its fields. -/
structure MeterRec where
  cls : Nat
  flags : Nat
  domain : Nat
  classMask : Nat
  epoch : Nat
  seq : Nat
  monoStart : Nat
  monoEnd : Nat
  wallStart : Nat
  wallEnd : Nat
  counts : List Nat
  intervals : Nat
  intervalS : Nat
  /-- MODEL'S OWN: MONO_END is a boundary (R350; DEDUCED, log entry 46) -/
  atBoundary : Bool := true
  deriving DecidableEq, Repr

/-- A retirement of the repair map (R452). -/
structure RetireRec where
  kind : Nat
  index : Nat
  cause : Nat
  stamp : Nat
  deriving DecidableEq, Repr

/-- The records of the Thermos (R308, R357, R452). -/
structure Thermos where
  valid : Bool := true
  /-- layout generation of the header (R308; DESIGN CHOICE, log entry 88) -/
  layoutGen : Nat := 1
  drs : Bytes := []
  /-- SHARE_B of the DRS record; SHARE_A is the DRS under it (R307, R308) -/
  drsMask : Bytes := []
  drsOk : Bool := true
  drsGeneration : Nat := 1
  claimed : Bool := false
  opPort : Nat := 0
  opAlg : Nat := 0
  quarantine : Bool := false
  debugPending : Bool := false
  reRooted : Bool := false
  sessions : Nat := 0
  opCounter : Nat := 0
  opAnchor : Option Bytes := none
  opLastEnv : Bytes := []
  /-- MODEL'S OWN: the reply of the operator's last applied envelope (R325; DEDUCED, log entry 24) -/
  opLastReply : Bytes := []
  /-- release policy per port: DELAY, HOLD, IN_RECOVERY (R122) -/
  release : List (Nat × Bool × Bool) := []
  qCause : Nat := 0
  epochFloor : Nat := 0
  /-- EPOCH of the entries that are not listed (R474; DEDUCED, log entry 89) -/
  epochBase : Nat := 0
  /-- the domain table has been zeroed: no EPOCH of it can be read (R313, R474) -/
  tableLost : Bool := false
  recoveryOk : Bool := true
  offset : Int := 0
  wallSet : Bool := false
  setPending : Bool := false
  lastStepMono : Option Nat := none
  lastTrimMono : Option Nat := none
  intervalS : Nat := 3600
  nextIntervalS : Nat := 0
  boundaryMono : Nat := 0
  recSeq : Nat := 0
  cleanStop : Bool := true
  debugSeen : Bool := false
  lastCkptMono : Nat := 0
  trimLog : List (Nat × Nat) := []
  pool : List RateEntry := []
  backlog : List MeterRec := []
  retirements : List RetireRec := []
  /-- field remaps: bank, spare, row -/
  remaps : List (Nat × Nat × Nat) := []
  badSpares : List (Nat × Nat) := []
  domains : Assoc DomRec := []
  tamperArm : Nat := 0
  deriving DecidableEq, Repr

/-- The commit journal (R308, R309), its new bytes by the records they make: whether marker and CRC are valid, and the DOMAIN field of
the envelope whose commit it holds (R337). DEDUCED, log entry 50. -/
structure Journal where
  after : Thermos
  marked : Bool
  detail : Nat
  deriving DecidableEq, Repr

/-- One snoop window (R252 to R258). -/
structure Snoop where
  state : Nat := 0
  base : Nat := 0
  length : Nat := 0
  eager : Bool := false
  /-- bytes hashed; the frontier is the base plus its length -/
  fed : Bytes := []
  restarts : Nat := 0
  taints : Nat := 0
  /-- bytes hashed when the 4 KB chunk on a digest engine ends (R258) -/
  chunk : Nat := 0
  deriving DecidableEq, Repr

/-- One measurement register (R248, R259). -/
structure Meas where
  value : Bytes := []
  extends_ : Nat := 0
  tainted : Bool := false
  deriving DecidableEq, Repr

/-- A line of the window cache (R391). -/
structure CacheLine where
  addr : Nat
  way : Nat
  data : Bytes
  deriving DecidableEq, Repr

/-- Who asked for a demand or background line (R391 to R393). -/
inductive LineFor where
  | host (p : Port)
  | entry
  | fetch (p : Port)
  | prefetch (p : Port)
  deriving DecidableEq, Repr

/-- A piece of queued memory-port work that MP_TRANSACTION_DONE finishes (R393). -/
inductive MpWork where
  | line (addr : Nat) (who : LineFor)
  deriving DecidableEq, Repr

/-- What a transaction of the memory port carries (R393). -/
inductive Transaction where
  | read (w : MpWork)
  | drain
  | flash
  deriving DecidableEq, Repr

/-- A region of the flash layout (R386). -/
structure Region where
  kind : Nat
  index : Nat
  attr : Nat
  base : Nat
  length : Nat
  deriving DecidableEq, Repr

/-- The memory port (R382 to R409). -/
structure Mp where
  flash : Assoc (BitVec 8) := []
  flashOk : Bool := false
  densityLog2 : Nat := 0
  readDummy : Nat := 0
  flashId : BitVec 24 := 0
  eraseMaxMs : Nat := 0
  suspendUs : Nat := 0
  suspendOk : Bool := false
  sfdpTimes : BitVec 64 := 0
  layout : List Region := []
  cache : List CacheLine := []
  work : List MpWork := []
  /-- the transaction the bus carries now (R43, R102, R393); DEDUCED, log entry 61 -/
  current : Option Transaction := none
  suspendEn : Bool := true
  xselInvalidate : Bool := true
  backoffUs : Nat := 2
  xipWays : Nat := 0
  prefetchDepth : Nat := 4
  collisions : Nat := 0
  longestUs : Nat := 0
  wfSource : Nat := 0
  wfPort : Nat := 0
  wfAddr : Nat := 0
  holdActive : Bool := false
  /-- the tick of the accepted fall of the hold that runs (R404) -/
  holdSince : Nat := 0
  /-- holds that have ended: the tick of the rise and the length in µs (R404) -/
  holds : List (Nat × Nat) := []
  backoffPending : Bool := false
  supplyLost : Bool := false
  /-- a flash program or erase was cut short and must be verified first (R403) -/
  interrupted : Bool := false
  statusDue : Bool := false
  rstReleased : Bool := false
  slewApplied : Nat := 0xA
  deriving DecidableEq, Repr

/-- Memory, integrity and scrubbing (R360 to R381). -/
structure MemState where
  /-- arena and cup-free Pantry bytes that are not zero -/
  pantry : List Host.Cell := []
  larder : List Host.Cell := []
  larderMB : Nat := 0
  /-- first bytes of poisoned units -/
  poison : List Nat := []
  /-- written-line map of the Larder: the lines whose bit is set (R367) -/
  written : List Nat := []
  /-- lines whose stored tag matches nothing (R366) -/
  badTags : List Nat := []
  /-- the Larder write buffer: the ranges written and not drained, oldest first (R368) -/
  buffer : List (Nat × Nat) := []
  /-- words that hold an error not met yet: address and number of wrong bits -/
  latent : Assoc Nat := []
  /-- corrected words whose write-back is due (R371) -/
  writeback : List Nat := []
  rowCounts : Assoc Nat := []
  factoryRemaps : List (Nat × Nat × Nat) := []
  sparesOut : List Nat := []
  ceCount : Nat := 0
  ueAddr : Nat := 0
  ueKind : Nat := 0
  ueSource : Nat := 0
  ueCount : Nat := 0
  scrubLarder : Bool := true
  scrubPeriod : Nat := 16
  scrubPasses : Nat := 0
  scrubProgress : Nat := 0
  /-- the tick at which PROGRESS had that value (R374; DESIGN CHOICE, log entry 92) -/
  scrubMark : Nat := 0
  /-- banks that have missed part of a pass (R374) -/
  missed : List Nat := []
  /-- rings whose poll state is lost, with the tick (R376, R377) -/
  pollLost : List (Nat × Nat) := []
  bankSel : Nat := 0
  tagFails : Nat := 0
  whiskPeriod : Nat := 50
  whiskLastMs : Nat := 0
  /-- MODEL'S OWN: the number of the pass (DESIGN CHOICE, log entry 43) -/
  whiskPass : Nat := 0
  /-- no slot has been re-masked since the whole key store was zeroed (R297, R307) -/
  allZeroed : Bool := true
  /-- slots zeroed since the last re-mask -/
  zeroed : List Nat := []
  deriving DecidableEq, Repr

/-- Power management (R434 to R454). -/
structure Power where
  pds : List Pd := []
  wakeQueue : List Nat := []
  wakesNow : Nat := 0
  capMw : Nat := 8000
  throttled : Bool := false
  capClaim : Option Nat := none
  /-- junction temperature, °C (DESIGN CHOICE, log entry 41) -/
  tj : Int := 25
  tjCritical : Bool := false
  idleGateUs : Nat := 100
  holdWakeUs : Nat := 10
  idleFlushMs : Nat := 0
  degraded : Bool := false
  /-- MODEL'S OWN: messages started so far (DESIGN CHOICE, log entry 43) -/
  starts : Nat := 0
  /-- factory retirements in OTP, as domain indices (R448) -/
  otpRetired : List Nat := []
  deriving DecidableEq, Repr

/-- Supplies, pins and clocks (R22 to R47). DESIGN CHOICE, log entry 41. -/
structure Board where
  vddioHpOk : Bool := true
  vddioMpOk : Bool := true
  onVbat : Bool := false
  porHigh : Bool := false
  recovN : Bool := true
  pfailN : Bool := true
  claimEn : Bool := false
  testMode : Bool := false
  recovSampled : Bool := true
  testSampled : Bool := false
  meshIntact : List Bool := []
  lidAsserted : List Bool := []
  xselN : Bool := true
  pllLocked : Bool := false
  rtcRunning : Bool := true
  /-- ticks of the glitch alarms, newest last (R428, R429) -/
  glitches : List Nat := []
  spreadDepth : Nat := 0
  spreadApplied : Nat := 0
  slew : Nat := 0x000AAAAA
  tap : Nat := 0
  tapIr : Nat := 1
  tapShift : Nat := 0
  tapBypass : Bool := false
  tapBoundary : List Bool := []
  tapPins : List Bool := []
  tapTdo : Option Bool := none
  openFuseIntact : Bool := false
  scrapFuse : Bool := false
  deriving DecidableEq, Repr

/-- Boot progress and the run of the mode (R107, R115 to R138). -/
structure Boot where
  mode : Mode := .boot
  resetCause : Nat := 0
  answering : Bool := false
  aonFailed : Bool := false
  entropyFailed : Bool := false
  resetPending : Bool := false
  /-- the hamper whose entry's completion begins that full reset (R123) -/
  resetBy : Option Nat := none
  /-- a watchdog failure with FATAL has begun a full reset (R422) -/
  fatal : Bool := false
  testRoot : Bool := false
  recoveryAuth : Bool := false
  bootId : Bytes := []
  aliveRate : Nat := 2
  forceStop : Bool := false
  aliveStopped : Bool := false
  /-- the tick at which `ALIVE` last stopped toggling; none while it has been low since the reset (R419) -/
  aliveMark : Option Nat := none
  faultLevel : Nat := 2
  deriving DecidableEq, Repr

/-- The DRBG and the entropy source (R284, R285). -/
structure Rng where
  /-- Key and V of the CTR_DRBG -/
  key : Bytes := []
  v : Bytes := []
  /-- MODEL'S OWN: the next position of the noise source's free octets (DESIGN CHOICE, log entry 4) -/
  noise : Nat := 0
  stopped : Bool := false
  /-- generate requests since the last reseed -/
  requests : Nat := 0
  restarting : Bool := false
  deriving DecidableEq, Repr

/-- A manifest checked under R305: its domain and its bytes. -/
structure KnownManifest where
  domain : Nat
  bytes : Bytes
  /-- its first cell; kept for a debug manifest, which no Thermos record locates (R314) -/
  cell : Nat := 0
  deriving DecidableEq, Repr

/-- The state of the SP-6516. -/
structure State where
  /-- MODEL'S OWN: commands waiting, first in first out (DESIGN CHOICE, log entry 1) -/
  pending : List Instr := []
  boot : Boot := {}
  board : Board := {}
  ports : List PortState := []
  rings : Assoc Ring := []
  leaf : Assoc (BitVec 32) := []
  hampers : List Hamper := []
  /-- MODEL'S OWN: the next hamper's number (DESIGN CHOICE, log entry 43) -/
  nextHamper : Nat := 0
  floorFree : List Nat := []
  sharedFree : Nat := 192
  claims : List (Option Nat) := []
  /-- the port whose turn came last (R183; DESIGN CHOICE, log entry 42) -/
  claimTurn : Nat := 3
  /-- the cup allocator's turns (R182); its start: DESIGN CHOICE, log entry 42 -/
  allocator : Arbiter := {}
  /-- the grants of each engine class (R186); its start: DESIGN CHOICE, log entry 42 -/
  dispatchers : List Arbiter := []
  dups : List DupRec := []
  /-- MODEL'S OWN: the next record's place (DESIGN CHOICE, log entry 43) -/
  dupOrder : Nat := 0
  ageLimit : Nat := 50
  domSel : Nat := 0
  power : Power := {}
  mem : MemState := {}
  mp : Mp := {}
  health : List Health := []
  thermos : Thermos := {}
  journal : Option Journal := none
  rng : Rng := {}
  keys : Assoc Key := []
  loads : List (Nat × Nat) := []
  manifests : List KnownManifest := []
  debugManifests : List KnownManifest := []
  usedCells : List Nat := []
  cellsKnown : Bool := false
  cipherParts : Assoc PartState := []
  digestParts : Assoc PartState := []
  cipherOut : Assoc CtxOut := []
  digestOut : Assoc CtxOut := []
  ctxSeq : Assoc Nat := []
  /-- rings whose cipher message lost its part-state record to an error (R376), and digest messages at 0x10000 + ring -/
  lostParts : List Nat := []
  meas : List Meas := []
  snoops : List Snoop := []
  /-- always-on issue counter of a domain (R280) -/
  issue : Assoc Nat := []
  drawsStopped : Bool := false
  /-- issue counters of the DEBUG mode (R130; DEDUCED, log entry 45) -/
  debugIssue : Assoc Nat := []
  mono : Nat := 0
  /-- live meter counters of a domain (R353) -/
  live : Assoc (List Nat) := []
  writeThrough : Bool := false
  trimRefused : Bool := false
  meterSel : Nat := 0
  fiTarget : Word := 0
  fiReact : Bool := false
  fiEccAddr : Nat := 0
  fiEccBits : Nat := 1
  deriving DecidableEq, Repr

/-- Default severities of the 21 health blocks, source 0 first (R86, R173, R201, R228, R262, R290, R316, R337, R359,
R381, R409, R425, R428, R432, R454). -/
def defaultSevs (b : Nat) : List Nat :=
  match b with
  | 0 | 1 | 2 | 3 => [0, 0, 0, 0, 1, 0, 1, 0]
  | 4 => [2, 0, 1, 1, 1, 0, 1, 0]
  | 5 => [0, 1, 0, 0, 0, 0, 0, 0]
  | 6 => [0, 0, 0, 0, 0, 0, 0, 0]
  | 7 => [0, 0, 1, 1, 0, 1, 0, 0]
  | 8 => [1, 0, 0, 0, 0, 0, 0, 0]
  | 9 => [2, 2, 2, 1, 2, 0, 0, 0]
  | 10 => [2, 2, 2, 2, 2, 0, 0, 0]
  | 11 => [2, 2, 2, 2, 2, 0, 0, 0]
  | 12 => [2, 3, 0, 1, 1, 3, 0, 0]
  | 13 => [1, 4, 0, 0, 0, 0, 0, 0]
  | 14 => [4, 4, 4, 4, 4, 4, 1, 0]
  | 15 => [2, 4, 0, 0, 0, 0, 0, 0]
  | 16 => [0, 4, 2, 2, 0, 4, 0, 0]
  | 17 => [2, 2, 2, 0, 0, 0, 0, 0]
  | 18 => [0, 1, 0, 0, 0, 0, 0, 0]
  | 19 => [0, 1, 0, 0, 0, 0, 0, 0]
  | _ => [0, 0, 0, 0, 0, 0, 0, 0]

/-- How many event sources a block defines (R410). -/
def sourceCount (b : Nat) : Nat :=
  match b with
  | 0 | 1 | 2 | 3 => 7
  | 4 => 8 | 5 => 3 | 6 => 4 | 7 => 7 | 8 => 2 | 9 => 5 | 10 => 5 | 11 => 6 | 12 => 6 | 13 => 2
  | 14 => 8 | 15 => 2 | 16 => 6 | 17 => 3 | 18 => 4 | 19 => 5 | _ => 3

/-- KS, WSK, TH and RNG capture in STICKY mode only (R411). -/
def stickyOnly (b : Nat) : Bool := b == 12 || b == 13 || b == 14 || b == 15

/-- A health block at its reset value (R411). -/
def healthReset (b : Nat) : Health := { sevs := defaultSevs b, sticky := stickyOnly b }

/-- The default host-reset release policy (R122): DELAY 0, HOLD 0, IN_RECOVERY 1 for `HP_0` alone. -/
def releaseDefault : List (Nat × Bool × Bool) :=
  [(0, false, true), (0, false, false), (0, false, false), (0, false, false)]

/-- A measurement register after a full reset: 48 zero octets (R248). -/
def measReset : Meas := { value := List.replicate 48 0 }

/-- The push log of a port after a full reset (R166). -/
def pushLogReset : List PushLog := List.replicate 16 {}

/-- A port after a full reset, with every register at the reset value its table gives. -/
def portReset : PortState := { pushLog := pushLogReset }

/-- The Thermos of a shipped unit: a DRS provisioned, no claim (DESIGN CHOICE, log entry 3). -/
def thermosReset : Thermos :=
  { drs := (List.range 32).map Config.drsByte, drsMask := (List.range 32).map Config.drsMaskByte, release := releaseDefault, boundaryMono := 3600 * 32768 }

/-- The machine right after a power-on reset with every rail valid and `POR_N` still low (R13, R22, R32): MODE is BOOT,
every output is in its reset state, nothing waits. DESIGN CHOICE, log entry 3. DESIGN CHOICE, log entry 41. -/
def State.reset : State :=
  { ports := List.replicate 4 portReset
    floorFree := [16, 16, 16, 16]
    claims := [none, none, none, none]
    dispatchers := List.replicate 4 {}
    power := { pds := List.replicate 50 {} }
    health := (List.range 21).map healthReset
    thermos := thermosReset
    board := { meshIntact := [true, true], lidAsserted := [false, false] }
    meas := List.replicate 32 measReset
    snoops := List.replicate 8 {} }

end Sys2Proof.Machine
end

