-- ==== Sys2Proof/Machine/Drbg.lean ====
section
/-! DEFINITION. The CTR_DRBG with AES-256 and a derivation function (SP 800-90A) on the noise source, and the source's health tests
(SP 800-90B) (R284, R285). -/

namespace Sys2Proof.Machine

/-- `n` blocks of the DRBG's counter mode: V is incremented before each (SP 800-90A, CTR_DRBG). -/
def drbgBlocks (ks : List Bytes) : Nat → Bytes → Bytes
  | 0, _ => []
  | n + 1, v => let w := toBe 16 ((beNat v + 1) % 2 ^ 128); aesEncWith ks w ++ drbgBlocks ks n w

/-- CTR_DRBG_Update: the new Key and V. -/
def drbgUpdate (key v data : Bytes) : Bytes × Bytes :=
  let t := xorBytes (drbgBlocks (aesKeys key) 3 v) data
  (t.take 32, t.drop 32)

/-- BCC under a key schedule (SP 800-90A). -/
def drbgBcc (ks : List Bytes) (m : Bytes) : Bytes := (chunks 16 m).foldl (fun a b => aesEncWith ks (xorBytes a b)) (zeros 16)
/-- The derivation function: 48 octets from an input (SP 800-90A, Block_Cipher_df). -/
def drbgDf (input : Bytes) : Bytes :=
  let s := toBe 4 input.length ++ toBe 4 48 ++ input ++ [0x80]
  let s := s ++ zeros ((16 - s.length % 16) % 16)
  let ks := aesKeys ((List.range 32).map (BitVec.ofNat 8))
  let t := (List.range 3).flatMap (fun i => drbgBcc ks (toBe 4 i ++ zeros 12 ++ s))
  let k := aesKeys (t.take 32)
  let x := aesEncWith k (t.drop 32)
  let y := aesEncWith k x
  x ++ y ++ aesEncWith k y

/-- Conditioned octets of the noise source: physical, so free values (R284; DESIGN CHOICE, log entry 4). -/
def noiseBytes (g : Rng) (n : Nat) : Bytes := (List.range n).map (fun i => Config.noiseByte (g.noise + i))
/-- The DRBG is instantiated with 512 bits of conditioned input (R284). -/
def instantiate (g : Rng) : Rng :=
  let u := drbgUpdate (zeros 32) (zeros 16) (drbgDf (noiseBytes g 64))
  { g with key := u.1, v := u.2, noise := g.noise + 64, requests := 0 }
/-- The DRBG is reseeded from the noise source (R284): with 512 bits, as at its instantiation (DESIGN CHOICE, log entry 4). -/
def reseeded (g : Rng) : Rng :=
  let u := drbgUpdate g.key g.v (drbgDf (noiseBytes g 64))
  { g with key := u.1, v := u.2, noise := g.noise + 64, requests := 0 }
/-- What a generate request of `n` octets yields (R284). -/
def generated (g : Rng) (n : Nat) : Bytes := (drbgBlocks (aesKeys g.key) ((n + 15) / 16) g.v).take n
/-- The DRBG after a generate request of `n` octets; after 65,536 of them it is reseeded (R284). -/
def afterGenerate (g : Rng) (n : Nat) : Rng :=
  let v := toBe 16 ((beNat g.v + (n + 15) / 16) % 2 ^ 128)
  let u := drbgUpdate g.key v (zeros 48)
  let g := { g with key := u.1, v := u.2, requests := g.requests + 1 }
  if 65536 ≤ g.requests then reseeded g else g

/-- A run of equal samples at the head of a list. -/
def leadingRun : List Bool → Nat
  | [] => 0
  | [_] => 1
  | a :: b :: t => if a = b then leadingRun (b :: t) + 1 else 1
/-- The repetition count test fails: 41 equal samples in a row (R284). -/
def repetitionFails (l : List Bool) : Bool := l.tails.any (fun t => decide (41 ≤ leadingRun t))
/-- Cutoff of the adaptive proportion test for 0.5 bits per sample, windows of 1,024 and α = 2^-20 (SP 800-90B section 4.4.2; R284;
PRESUMED, log entry 94). -/
abbrev proportionCutoff : Nat := 793
/-- The adaptive proportion test fails on a window of 1,024 samples (R284). -/
def proportionFails (window : List Bool) : Bool := decide (proportionCutoff ≤ (window.filter (· == window.headD false)).length)
/-- The start-up tests pass over 1,024 samples (R284). -/
def startupPasses (l : List Bool) : Bool := !repetitionFails l && !proportionFails l

end Sys2Proof.Machine
end

