-- ==== Sys2Proof/Machine/Ops.lean ====
section
/-! DEFINITION. The named operations over the parts of State: ports, rings, hampers, domains, power domains, live views. -/

namespace Sys2Proof.Machine

/-- The state of a port. -/
def portOf (s : State) (p : Nat) : PortState := s.ports.getD p portReset
/-- Change the state of a port. -/
def modPort (s : State) (p : Nat) (f : PortState → PortState) : State :=
  { s with ports := s.ports.set p (f (portOf s p)) }

/-- A switched power domain (R434). -/
def pdOf (s : State) (i : Nat) : Pd := s.power.pds.getD i {}
/-- Change a power domain. -/
def modPd (s : State) (i : Nat) (f : Pd → Pd) : State :=
  { s with power := { s.power with pds := s.power.pds.set i (f (pdOf s i)) } }

/-- A health block (R410). -/
def blockOf (s : State) (b : Nat) : Health := s.health.getD b {}
/-- Change a health block. -/
def modBlock (s : State) (b : Nat) (f : Health → Health) : State :=
  { s with health := s.health.set b (f (blockOf s b)) }

/-- A ring context; every field is 0 while the ring is UNBOUND (R141). -/
def ringOf (s : State) (r : Nat) : Ring := assocGetD {} s.rings r
/-- Write a ring context. -/
def setRing (s : State) (r : Nat) (v : Ring) : State := { s with rings := assocSet {} s.rings r v }
/-- Change a ring context. -/
def modRing (s : State) (r : Nat) (f : Ring → Ring) : State := setRing s r (f (ringOf s r))

/-- A leaf word of the Roll call (R167). -/
def leafWord (s : State) (w : Nat) : BitVec 32 := assocGetD 0 s.leaf w
/-- Set a ring's leaf bit (R167). -/
def setLeaf (s : State) (r : Nat) : State :=
  { s with leaf := assocSet 0 s.leaf (r / 32) (leafWord s (r / 32) ||| BitVec.ofNat 32 (2 ^ (r % 32))) }
/-- Clear the bits of a mask in a leaf word (R169). -/
def clearLeafMask (s : State) (w : Nat) (m : BitVec 32) : State :=
  { s with leaf := assocSet 0 s.leaf w (leafWord s w &&& ~~~ m) }
/-- Clear a ring's leaf bit (R167). -/
def clearLeaf (s : State) (r : Nat) : State := clearLeafMask s (r / 32) (BitVec.ofNat 32 (2 ^ (r % 32)))

/-- A taken hamper. -/
def hamperOf (s : State) (h : Nat) : Option Hamper := s.hampers.find? (fun x => x.id == h)
/-- Change a taken hamper. -/
def modHamper (s : State) (h : Nat) (f : Hamper → Hamper) : State :=
  { s with hampers := s.hampers.map (fun x => if x.id = h then f x else x) }

/-- A domain-table entry (R295). -/
def domOf (s : State) (d : Nat) : DomRec := assocGetD { epoch := s.thermos.epochBase } s.thermos.domains d
/-- Change the Thermos. DEDUCED, log entry 50. -/
def modThermos (s : State) (f : Thermos → Thermos) : State := { s with thermos := f s.thermos }
/-- Change a domain-table entry. -/
def modDom (s : State) (d : Nat) (f : DomRec → DomRec) : State :=
  modThermos s (fun t => { t with domains := assocPut t.domains d (f (domOf s d)) })
/-- The domain exists: its entry is not FREE (R295). -/
def domExists (s : State) (d : Nat) : Bool := (domOf s d).state != 0
/-- The domain is suspended by any cause (R296). -/
def suspended (s : State) (d : Nat) : Bool := (domOf s d).suspend != 0 || (domOf s d).failed

/-- The causes in force of a domain's suspension, with the STATE they make (R295, R296). -/
def setCauses (c : Nat) (r : DomRec) : DomRec :=
  { r with suspend := c, state := if r.state = 0 then 0 else if c = 0 then 1 else 2 }
/-- A cause is added (R296). -/
def addCause (i : Nat) (r : DomRec) : DomRec := setCauses (setBit r.suspend i) r
/-- A domain-table entry that fails its CHECK or its ECC: cause 1 (R296, R309). -/
def failedEntry (r : DomRec) : DomRec := { r with failed := true, state := 2, suspend := setBit r.suspend 0 }

/-- The lifecycle, derived (R115). -/
def lifecycle (s : State) : Lifecycle :=
  if s.board.scrapFuse then .scrapped
  else if s.board.openFuseIntact then .factoryOpen
  else if s.thermos.valid && s.thermos.claimed then .claimed
  else .unclaimed

/-- LIFECYCLE.STATE (R108). -/
def lifecycleCode : Lifecycle → Nat
  | .factoryOpen => 0 | .unclaimed => 1 | .claimed => 2 | .scrapped => 3

/-- MODE.MODE (R107). -/
def modeCode : Mode → Nat
  | .factory => 0 | .boot => 1 | .operational => 2 | .debug => 3 | .recovery => 4 | .quarantine => 5

/-- The operator port (R88). -/
def operatorPort (s : State) : Option Nat := if lifecycle s = .claimed then some s.thermos.opPort else none
/-- `HP_p` is the operator port. -/
def isOperator (s : State) (p : Nat) : Bool := operatorPort s == some p

/-- The bootstrap view of a port (R124). -/
def bootGrant (p : Nat) : Grant :=
  { rings := some (p, p), pantry := [4 * p, 4 * p + 1, 4 * p + 2, 4 * p + 3], domains := [0] }
/-- The bootstrap ring of a port (R124). -/
def bootRing (p : Nat) : Ring :=
  { state := .active, base := 0x00400000 + p * 0x00040000, headPhase := true, tailPhase := true, port := p, cls := 3, sizeLog2 := 4 }

/-- The ring is in the port's granted range (R139). -/
def ringGranted (s : State) (p r : Nat) : Bool :=
  match (portOf s p).grant.rings with
  | some (a, b) => decide (a ≤ r) && decide (r ≤ b)
  | none => false

/-- Entries are fetched in this mode (R125): not in BOOT or QUARANTINE, nor in RECOVERY from another port than `HP_0`. -/
def modeFetches (s : State) : Bool :=
  match s.boot.mode with
  | .factory | .operational | .debug | .recovery => true
  | .boot | .quarantine => false

/-- The ring is served: ACTIVE, its domain not suspended, its port not held by QUIESCE (R163, R296, R422). -/
def ringServed (s : State) (r : Nat) : Bool :=
  let g := ringOf s r
  decide (g.state = .active) && modeFetches s && !suspended s g.domain && !(portOf s g.port).wdt.quiesced

/-- Usable Larder granules (R364). -/
def larderGranules (s : State) : Nat := if s.boot.mode = .recovery then 0 else s.mem.larderMB * 31 / 2

/-- The bank of a Pantry address, 0 to 7 (R361). -/
def bankOf (a : Nat) : Nat := a / 0x00200000

/-- The address lies in an arena granule granted to the port (R55, R150, R360, R369, R449). -/
def arenaAt (s : State) (p a : Nat) : Bool :=
  let g := (portOf s p).grant
  if 0x00400000 ≤ a ∧ a < 0x01000000 then
    g.pantry.contains ((a - 0x00400000) / 0x10000) && !(pdOf s (36 + bankOf a)).retired
  else if 0x10000000 ≤ a ∧ a < 0x14000000 then
    g.larder.contains ((a - 0x10000000) / 0x10000) && decide ((a - 0x10000000) / 0x10000 < larderGranules s)
  else false

/-- The granule starts that a range touches. -/
def granuleStarts (a n : Nat) : List Nat :=
  if n = 0 then [] else (List.range ((a + n - 1) / 0x10000 - a / 0x10000 + 1)).map (fun i => max a ((a / 0x10000 + i) * 0x10000))

/-- The whole range lies in granules granted to the port. -/
def arenaGranted (s : State) (p a n : Nat) : Bool := (granuleStarts a n).all (arenaAt s p)

/-- The whole range lies in the Pantry arena, granted to the port (R140). -/
def pantryGranted (s : State) (p a n : Nat) : Bool :=
  arenaGranted s p a n && decide (0x00400000 ≤ a) && decide (a + n ≤ 0x01000000)

/-- Start the wake of a bank that an access finds gated (R61, R441); a closed bank wakes once it is gated (R440). -/
def wakeBank (s : State) (b : Nat) : State :=
  modPd s (36 + b) (fun d =>
    if d.closed then { d with wakeWanted := true }
    else match d.st with
      | .off | .retain => if d.retired then d else { d with st := .waking }
      | _ => d)

/-- Put octets into the arena of the Pantry: poison and errors of the words covered end (R371, R372). The range is whole
64-byte lines or its lines hold no poison. -/
def pantryPut (s : State) (a : Nat) (v : Bytes) : State :=
  let s := wakeBank s (bankOf a)
  { s with mem := { s.mem with
      pantry := memWrite 0 s.mem.pantry a v,
      poison := s.mem.poison.filter (fun u => !(decide (a ≤ u) && decide (u < a + v.length))),
      latent := assocClear s.mem.latent a (a + v.length) } }

/-- The address of a ring's entry. -/
def entryAddr (g : Ring) (i : Nat) : Nat := g.base + 64 * i

/-- The 64 bytes of a ring's entry as memory holds them. -/
def entryBytes (s : State) (g : Ring) (i : Nat) : Bytes := memRead 0 s.mem.pantry (entryAddr g i) 64

/-- HDR of an entry (R148). -/
def hdr (e : Bytes) : Nat := leAt e 0 4
/-- OPCODE of an entry. -/
def opcode (e : Bytes) : Nat := byteAt e 2
/-- FLAGS of an entry. -/
def flags (e : Bytes) : Nat := leAt e 0 2
/-- OWN, PHASE, CHAIN, URGENT, IDEMPOTENT (R148). -/
def ownBit (e : Bytes) : Bool := bit (hdr e) 31
def phaseBit (e : Bytes) : Bool := bit (hdr e) 30
def chainBit (e : Bytes) : Bool := bit (hdr e) 29
def urgentBit (e : Bytes) : Bool := bit (hdr e) 28
def idempBit (e : Bytes) : Bool := bit (hdr e) 27

/-- The entry as its completion writes it (R153). -/
def completedBytes (e : Bytes) (d : Done) (stamp : Nat) : Bytes :=
  toLe 4 ((hdr e / 0x10000 % 0x8000) * 0x10000 + d.status * 0x100 + d.detail) ++ slice e 4 12
    ++ toLe 4 d.len ++ toLe 4 stamp ++ toLe 8 d.issueNo ++ d.param.getD (slice e 0x20 32)

/-- Write the completion of an entry of ring `r` at its address, then the leaf bit (R154). An entry whose granule its port has lost is
dropped uncompleted (R172, GRANT_LOST). -/
def writeCompletion (s : State) (r p a : Nat) (e : Bytes) (d : Done) : State :=
  if arenaGranted s p a 64 then setLeaf (pantryPut s a (completedBytes e d s.mono)) r else s

/-- Entries between HEAD and TAIL: the ring is full when they are equal and the phases differ (R142). -/
def occupied (g : Ring) : Nat :=
  if g.head = g.tail then (if g.headPhase = g.tailPhase then 0 else 2 ^ g.sizeLog2)
  else if g.head < g.tail then g.tail - g.head else g.tail + 2 ^ g.sizeLog2 - g.head
/-- Entries of a ring from TAIL on before HEAD is reached (R142). -/
def ringRoom (g : Ring) : Nat := 2 ^ g.sizeLog2 - occupied g

/-- HEAD after hampers have left: the oldest entry taken and not completed, TAIL when there is none (R141, R142). -/
def settleHead (s : State) (r : Nat) : State :=
  modRing s r (fun g =>
    match s.hampers.find? (fun x => x.ring == r) with
    | none => { g with head := g.tail, headPhase := g.tailPhase }
    | some h =>
      let i := (h.entries.head?.map (·.index)).getD g.tail
      { g with head := i, headPhase := if i < g.tail then g.tailPhase else !g.tailPhase })

/-- A ring that becomes UNBOUND: its context is zero, its leaf bit and its part-state records are gone (R170, R220). -/
def unbindRing (s : State) (r : Nat) : State :=
  let s := clearLeaf (setRing s r {}) r
  { s with cipherParts := assocDel s.cipherParts r, digestParts := assocDel s.digestParts r,
           cipherOut := assocDel s.cipherOut r, digestOut := assocDel s.digestOut r }

/-- The end of a drain: the walk has stopped and no taken hamper is left (R170). -/
def endDrain (s : State) (r : Nat) : State :=
  let g := ringOf s r
  if g.state = .draining ∧ g.walked = true ∧ !(s.hampers.any (fun x => x.ring == r)) then unbindRing s r else s

/-- An engine domain after its running message ends: a suspended one resumes at once (R189, R221). -/
def engineNext (d : Pd) : Pd := { d with running := d.suspended, suspended := none }

/-- Free every engine a hamper holds, running or suspended. -/
def freeEngines (s : State) (h : Nat) : State :=
  let o := Occupant.hamper h
  { s with power := { s.power with pds := s.power.pds.map (fun d =>
      let d := if d.suspended = some o then { d with suspended := none } else d
      if d.running = some o then engineNext d else d) } }

/-- The first entry of a hamper that has not finished. -/
def currentEntry (h : Hamper) : Option TakenEntry := h.entries.find? (fun e => e.done.isNone)

/-- A status that stops the hamper: anything but OK and OK_REPLAYED (R178). -/
def failed (d : Done) : Bool := d.status != 0x00 && d.status != 0x01

/-- Some entry of the hamper has failed (R178). -/
def hamperFailed (h : Hamper) : Bool := h.entries.any (fun e => match e.done with | some d => failed d | none => false)

/-- The hamper has nothing left to execute (R177, R178); one struck by a reclaim ends with the operation its engines run (R423). -/
def hamperStopped (h : Hamper) : Bool :=
  hamperFailed h || (h.reclaimed && h.engines == []) || h.entries.all (fun e => e.done.isSome)

/-- Give the first unfinished entry of a list its completion. -/
def finishFirst (d : Done) : List TakenEntry → List TakenEntry
  | [] => []
  | e :: t => if e.done.isNone then { e with done := some d, share := if d.status = stOk then e.share else none } :: t else e :: finishFirst d t

/-- Give every unfinished entry of a list a completion. -/
def finishRest (d : Done) (l : List TakenEntry) : List TakenEntry :=
  l.map (fun e => if e.done.isNone then { e with done := some d } else e)

/-- The entry is a later part of a message: of a digest message where `dig` says so (R218, R242). -/
def laterPart (dig : Bool) (e : Bytes) : Bool :=
  let op := opcode e
  isPart (flags e) && !partFirst (flags e) && (if dig then 0x20 ≤ op && op ≤ 0x22 else 0x10 ≤ op && op ≤ 0x14)
/-- A completion leaves the message of its part open: OK before the last part, an inconsistent part, a part of no whole blocks (R218, R220). -/
def keepsPart (e : Bytes) (d : Done) : Bool :=
  (d.status == stOk && !partLast (flags e)) || (d.status == stBadParam && d.detail == 0x0B)
    || (d.status == stBadLength && d.detail == 1 && !partLast (flags e))
/-- The part-state record of a ring's open message is freed when a part of it completes so (R220). -/
def settlePart (r : Nat) (e : Bytes) (d : Done) (s : State) : State :=
  let ends := fun (m : Assoc PartState) => (assocGet m r).any (fun p => p.opcode == opcode e) && !keepsPart e d
  if laterPart false e && ends s.cipherParts then { s with cipherParts := assocDel s.cipherParts r }
  else if laterPart true e && ends s.digestParts then { s with digestParts := assocDel s.digestParts r }
  else s
/-- The same for the current entry of a hamper. -/
def settleCurrent (h : Nat) (d : Done) (s : State) : State :=
  match hamperOf s h with
  | some x => (match currentEntry x with | some t => settlePart x.ring t.bytes d s | none => s)
  | none => s

/-- Finish the current entry of a hamper: its engines are freed at once (R188), its own progress ends. DEDUCED, log entry 67. -/
def finishEntry (s : State) (h : Nat) (d : Done) : State :=
  freeEngines (modHamper (settleCurrent h d s) h (fun x =>
    { x with entries := finishFirst d x.entries, engines := [], held := none, awaiting := false, hashed := false, streamPos := 0, drawn := none,
             suspensions := 0, waiting := false, staged := [], template := [] })) h

/-- Return a hamper's cups to the parts of the pool they came from (R181). -/
def releaseCups (s : State) (x : Hamper) : State :=
  { s with floorFree := s.floorFree.set x.port (s.floorFree.getD x.port 0 + x.floorCups),
           sharedFree := s.sharedFree + x.sharedCups }

/-- Records a domain holds beyond its share (R331). -/
def overShare (s : State) (d : Nat) : Bool :=
  decide ((if domExists s d then (domOf s d).dupShare else 0) < (s.dups.filter (fun r => r.domain == d)).length)

/-- Close or free a hamper's OPEN duplicate record (R193); one in excess of its domain's share is freed (R331). -/
def settleDup (s : State) (x : Hamper) : State :=
  { s with dups := s.dups.filterMap (fun r =>
      if r.owner = x.id ∧ r.closed = false then
        (if hamperFailed x || overShare s r.domain then none else some { r with closed := true })
      else some r) }

/-- A hamper becomes its port's claim (R183, R201). -/
def setClaim (p : Nat) (c : Option Nat) (s : State) : State :=
  { s with claims := s.claims.set p c, hampers := s.hampers.map (fun x => if some x.id = c then { x with claimSince := s.mono } else x) }
/-- The port's claim after a hamper leaves: its oldest hamper still refused for cups (R183). -/
def nextClaim (s : State) (p h : Nat) : State :=
  let next := (s.hampers.find? (fun x => x.port == p && x.refusedCups && !x.admitted)).map (·.id)
  if s.claims.getD p none = some h then setClaim p next s else s

/-- The open record's counters of a domain (R353, R358). -/
def liveMeters (s : State) (d : Nat) : List Nat := (assocGet s.live d).getD (domOf s d).meters
/-- Write a domain's counters to METERS (R353). -/
def saveCounters (d : Nat) (s : State) : State :=
  match assocGet s.live d with
  | some l =>
    let s := { s with live := assocDel s.live d }
    if domExists s d then modDom s d (fun r => { r with meters := l }) else s
  | none => s
/-- A domain's live counters, five of them (R353). -/
def countersOf (s : State) (d : Nat) : List Nat := (List.range 5).map ((liveMeters s d).getD · 0)
/-- Count a completion in the domain's open record (R217, R235, R270, R343); meters stop in DEBUG (R130). At most 128 domains
hold unwritten changes, none after a PFAIL_N checkpoint (R353). -/
def countMeter (d k n : Nat) (s : State) : State :=
  if s.boot.mode = .debug ∨ domExists s d = false then s else
  let s := { s with live := assocPut s.live d ((countersOf s d).set k ((countersOf s d).getD k 0 + n)) }
  if s.writeThrough || 128 < s.live.length then saveCounters d s else s

/-- An entry completes: an OK counts in the record that is open now, then the completion is written (R343, R353). One whose granule its port
has lost leaves no completion to count (R172). -/
def completeEntry (s : State) (x : Hamper) (e : TakenEntry) (d : Done) : State :=
  let a := x.base + 64 * e.index
  let s := match e.share with
    | some c => if d.status = stOk ∧ arenaGranted s x.port a 64 = true then countMeter x.domain c.1 c.2 s else s
    | none => s
  writeCompletion s x.ring x.port a e.bytes d
/-- Every completion of a hamper in chain order, the entries not executed as `rest` (R177, R178). -/
def writeCompletions (s : State) (x : Hamper) (rest : Done) : State :=
  x.entries.foldl (fun s e => completeEntry s x e (e.done.getD rest)) s

/-- The records a hamper's METER_POSTs have delivered leave the backlog (R352). -/
def dropPosted (l : List Nat) (s : State) : State :=
  modThermos s (fun t => { t with backlog := t.backlog.filter (fun m => !l.contains m.seq) })

/-- A hamper leaves the device: completions, delivered meter records, cups, duplicate record, engines, HEAD, claim, drain (R170, R177,
R183, R193, R352). DEDUCED, log entry 65. -/
def closeHamper (s : State) (x : Hamper) (rest : Done) : State :=
  let x' := { x with entries := finishRest rest x.entries }
  let s := x.entries.foldl (fun s e => if e.done.isNone then settlePart x.ring e.bytes rest s else s) s
  let s := dropPosted x.posted (writeCompletions s x rest)
  let s := freeEngines s x.id
  let s := settleDup (releaseCups { s with hampers := s.hampers.filter (fun y => y.id != x.id) } x') x'
  endDrain (nextClaim (settleHead s x.ring) x.port x.id) x.ring

/-- Wall time in ticks: monotonic ticks plus OFFSET (R339). -/
def wallOf (s : State) : Nat := ((s.mono : Int) + s.thermos.offset).toNat

/-- `n` octets drawn from the DRBG (R284). -/
def drawn (s : State) (n : Nat) : Bytes := generated s.rng n
/-- The DRBG after a draw of `n` octets (R284). -/
def afterDraw (s : State) (n : Nat) : State := { s with rng := afterGenerate s.rng n }

/-- The device UID, 16 octets (R99). DESIGN CHOICE, log entry 6. -/
def uid : Bytes := (List.range 16).map Config.uidByte

/-- The TAP in Test-Logic-Reset, `TDO` high-Z (R46). -/
def tapHeld (b : Board) : Board := { b with tap := 0, tapIr := 1, tapTdo := none }

/-- `ALIVE` toggles (R419). -/
def aliveToggles (s : State) : Bool := decide (s.boot.mode ≠ .boot) && !s.boot.aliveStopped && !s.boot.forceStop
/-- `ALIVE` stops at its last level (R419). -/
def markAlive (s : State) : State :=
  if aliveToggles s then { s with boot := { s.boot with aliveMark := some s.mono } } else s
/-- The level of `ALIVE` while it does not toggle: low in reset, in BOOT and while the PLL has no lock, then the level it stopped at (R22, R40,
R419; DESIGN CHOICE, log entry 90). -/
def aliveHeld (s : State) : Option Bool :=
  if aliveToggles s then none else some (s.boot.mode != .boot && (s.boot.aliveMark.map Config.aliveLevel).getD false)

/-- The whole key store is zeroed (R297). -/
def emptyStore (s : State) : State := { s with keys := [], mem := { s.mem with allZeroed := true, zeroed := [] } }
/-- Slots are zeroed (R310, R312). -/
def zeroSlots (l : List Nat) (s : State) : State := { s with mem := { s.mem with zeroed := l.foldl insertNat s.mem.zeroed } }

/-- Highest stored severity among a block's uncleared events (R109). -/
def blockTop (h : Health) : Nat := h.stored.foldl (fun m c => max m c.2) 0

/-- `FAULT_N` is driven low (R418). -/
def faultLow (s : State) : Bool :=
  decide (s.boot.mode = .boot) || !s.board.pllLocked ||
    s.health.any (fun h => h.stored.any (fun c => decide (s.boot.faultLevel ≤ c.2)))

end Sys2Proof.Machine
end

