-- ==== Sys2Proof/Machine/Events.lean ====
section
/-! DEFINITION. Capturing an event and the reaction of its severity: suspension, fencing, retirement, QUARANTINE
(R135, R410 to R419, R448 to R452). -/

namespace Sys2Proof.Machine

/-- History after a capture: slots 0 to 7 in order, then the oldest is replaced (R412). -/
def historyPush (h : Health) (e : HistEntry) : Health :=
  if h.history.length < 8 then { h with history := h.history ++ [e], newest := h.history.length, nextSeq := h.nextSeq + 1 }
  else let k := (h.newest + 1) % 8
    { h with history := h.history.set k e, newest := k, nextSeq := h.nextSeq + 1 }

/-- The stored severity of a source: the one its bit was set with stays until the bit is cleared (R415). -/
def storeSev (h : Health) (src sev : Nat) : Health :=
  if bit h.event src then h else { h with event := setBit h.event src, stored := assocPut h.stored src sev }

/-- A capture while no reaction is in progress (R416). DESIGN CHOICE, log entry 79. -/
def captureFresh (h : Health) (src detail sev stamp : Nat) : Health :=
  let h := storeSev h src sev
  let h := if h.sticky then h else
    historyPush h { seq := h.nextSeq % 16, sources := 2 ^ src, detail := detail % 0x10000, stamp := stamp % 2 ^ 32 }
  { h with handling := decide (2 ≤ sev) }

/-- An error met while HANDLING is 1 merges into the entry of the event being handled (R417). DESIGN CHOICE, log entry 79. -/
def captureMerged (h : Health) (src detail sev : Nat) (dom : Option Nat) : Health :=
  let h := storeSev h src sev
  let e := h.history.getD h.newest { seq := 0, sources := 0, detail := 0, stamp := 0 }
  let h := if h.sticky then h else
    { h with history := h.history.set h.newest { e with sources := setBit e.sources src, merged := sat 7 (e.merged + 1) } }
  { h with merged := h.merged ++ [{ src := src, detail := detail, sev := sev, domain := dom }] }

/-- A chapter gives the source a DETAIL. None is given for R86's link events and the sources whose table has a dash, and CLASS_EMPTY has no
engine whose index it could hold (DESIGN CHOICE, log entry 27). -/
def hasDetail (b src : Nat) : Bool :=
  !((decide (b < 4) && decide (src < 6)) || (b == 7 && src == 6) || (b == 8 && src == 1) || (b == 16 && src == 3) || (b == 17 && src == 2)
    || (decide (9 ≤ b) && decide (b < 12) && src == 4))

/-- Record an event, with no reaction. DESIGN CHOICE, log entry 27. -/
def recordOnly (b src detail sev : Nat) (dom : Option Nat) (s : State) : State :=
  let d := if hasDetail b src then detail else Config.openDetail b src s.mono
  modBlock s b (fun h => if h.handling then captureMerged h src d sev dom else captureFresh h src d sev s.mono)

/-- Severity of a source as it stands. -/
def sevOf (s : State) (b src : Nat) : Nat := (blockOf s b).sevs.getD src 0

/-- The digest of a MEASURING window restarts from its base (R258). -/
def rewindWindow (s : State) (w : Nat) : State :=
  let n := s.snoops.getD w {}
  { s with snoops := s.snoops.set w { n with fed := [], chunk := 0, restarts := sat 15 (n.restarts + 1) } }
/-- The same at entry to QUARANTINE: WINDOW_RESTART is recorded, and DEVICE is the reaction already. -/
def recordRestart (s : State) (w : Nat) : State :=
  if (s.snoops.getD w {}).state = 2 then recordOnly 18 2 w (sevOf s 18 2) none (rewindWindow s w) else s

/-- The Tongs windows an engine domain holds. -/
def tongsOf (d : Pd) : List Nat :=
  [d.running, d.suspended].filterMap (fun o => match o with | some (.tongs w) => some w | _ => none)

/-- For every domain whose C is below M, M is written as C (R281). -/
def lowerMarks (s : State) : State :=
  s.issue.foldl (fun s c => if domExists s c.1 ∧ c.2 < (domOf s c.1).issueMark then modDom s c.1 (fun r => { r with issueMark := c.2 }) else s) s

/-- A checkpoint (R353): unwritten counters, issue marks, LAST_CKPT_MONO, the clean-stop marker. DESIGN CHOICE, log entry 17. DEDUCED, log entry 44. -/
def checkpoint (s : State) : State :=
  let s := lowerMarks (s.live.foldl (fun s c => saveCounters c.1 s) s)
  modThermos s (fun t => { t with lastCkptMono := s.mono, cleanStop := true })

/-- Erase the contexts of every engine (R135, R222, R244, R269). -/
def eraseEngines (s : State) : State :=
  let ws := s.power.pds.flatMap tongsOf
  let s := { s with power := { s.power with pds := s.power.pds.map (fun d => { d with running := none, suspended := none }) } }
  ws.foldl recordRestart s

/-- How an entry the device owns completes at QUARANTINE: DETAIL 1 tells an envelope whose commit marker has been written (R135). -/
def quarantineDone (e : TakenEntry) : Done :=
  { status := 0x13, detail := if opcode e.bytes = 0x50 ∧ (e.done.map (·.status)) = some 0 then 1 else 0 }
/-- A hamper at QUARANTINE: every entry completes ABORTED_MODE, finished ones too, and no delivered record leaves the backlog (R135, R352). -/
def quarantineHamper (s : State) (x : Hamper) : State :=
  closeHamper s { x with entries := x.entries.map (fun e => { e with done := some (quarantineDone e) }), posted := [] } { status := 0x13 }

/-- The quarantine flag is set, with its cause if it was not (R135, R136). -/
def flagQuarantine (b src : Nat) (s : State) : State :=
  modThermos s (fun t => { t with quarantine := true, qCause := if t.quarantine then t.qCause else b + 256 * src })
/-- Engines and key store are erased, no load goes on, and a checkpoint is written (R135). -/
def eraseWork (s : State) : State :=
  let s := emptyStore (eraseEngines (markAlive s))
  if s.boot.mode = .quarantine then { s with loads := [] } else checkpoint { s with loads := [] }
/-- The mode is QUARANTINE; the TAP is held (R46, R135). -/
def quarantined (s : State) : State :=
  { s with boot := { s.boot with mode := .quarantine, aliveStopped := true, recoveryAuth := false }, board := tapHeld s.board }

/-- Entry to QUARANTINE (R46, R135). In BOOT only the flag is set: the mode is decided at step 12 (R116). DEDUCED, log entry 65. -/
def enterQuarantine (b src : Nat) (s : State) : State :=
  let s := flagQuarantine b src s
  if s.boot.mode = .boot then { s with boot := { s.boot with aliveStopped := true } } else
  let s := eraseWork s
  quarantined (s.hampers.foldl quarantineHamper s)

/-- Suspension of a domain by an event at DOMAIN severity (R296, cause 2). -/
def suspendByEvent (b src d : Nat) (s : State) : State :=
  let s := if domExists s d then modDom s d (addCause 1) else s
  modBlock s b (fun h => { h with named := h.named ++ [(src, d)] })

/-- The reaction of levels DOMAIN and DEVICE (R413). -/
def reactBase (b src sev : Nat) (dom : Option Nat) (s : State) : State :=
  if sev = 4 then enterQuarantine b src s
  else match dom with
    | some d => if sev = 3 then suspendByEvent b src d s else s
    | none => s

/-- Capture an event, with the reaction of levels DOMAIN and DEVICE. -/
def captureSev (b src detail sev : Nat) (dom : Option Nat) (s : State) : State :=
  let busy := (blockOf s b).handling
  let s := recordOnly b src detail sev dom s
  if busy then s else reactBase b src sev dom s

/-- Capture an event at the severity its source has (R415), with the reaction of levels DOMAIN and DEVICE. -/
def capture (b src detail : Nat) (dom : Option Nat) (s : State) : State := captureSev b src detail (sevOf s b src) dom s

/-- Domains of one class in service: not retired (R448). -/
def inService (s : State) (lo n : Nat) : Nat := ((List.range n).filter (fun i => !(pdOf s (lo + i)).retired)).length

/-- The guaranteed complement is met (R451). -/
def complementMet (s : State) : Bool :=
  decide (7 ≤ inService s 0 8) && decide (7 ≤ inService s 8 8) && decide (7 ≤ inService s 16 8) &&
    decide (10 ≤ inService s 24 12) && inService s 36 8 == 8

/-- DEGRADED is raised when the complement is first not met (R451). -/
def noteDegraded (s : State) : State :=
  if complementMet s || s.power.degraded then s
  else capture 16 3 0 none { s with power := { s.power with degraded := true } }

/-- KIND and INDEX of a domain in the repair map (R452). -/
def repairKind (i : Nat) : Nat × Nat :=
  if i < 16 then (1, i) else if i < 24 then (2, i - 16) else if i < 36 then (3, i - 24) else (4, i - 36)

/-- Add an entry to the retirement log, which holds 64 (R452). DESIGN CHOICE, log entry 28. -/
def logRetirement (s : State) (kind index cause : Nat) : State :=
  if s.thermos.retirements.length < 64 then
    modThermos s (fun t => { t with retirements := t.retirements ++ [{ kind := kind, index := index, cause := cause, stamp := s.mono }] })
  else s

/-- Retire a domain: logged, switched off for good, RETIRE raised, and its consequences (R449 to R451). -/
def retire (i cause : Nat) (s : State) : State :=
  if (pdOf s i).retired then s else
  let k := repairKind i
  let s := logRetirement s k.1 k.2 cause
  let s := modPd s i (fun d => { d with retired := true, fenced := false, st := .off, closed := false, wakeWanted := false,
                                        wakeQueued := false, running := none, suspended := none })
  let s := noteDegraded (capture 16 2 i none s)
  if i = 36 ∨ i = 37 then capture 16 5 (i - 36) none s else s

/-- Fence an instance; its fourth fence retires it (R413, R449). An instance already fenced is not fenced twice. -/
def fence (i : Nat) (s : State) : State :=
  let d := pdOf s i
  if d.fenced || d.retired then s
  else if d.fences + 1 ≥ 4 then retire i 4 (modPd s i (fun d => { d with fences := d.fences + 1 }))
  else modPd s i (fun d => { d with fences := d.fences + 1, fenced := true })

/-- The domain an engine-block event fences: the instance its DETAIL names. MASK_STALL, CLASS_EMPTY and RESERVE_RESUMED
name no faulty instance (DEDUCED, log entry 11). -/
def fenceTarget (b src detail : Nat) : Option Nat :=
  if b = 9 ∧ src < 3 ∧ detail < 16 then some detail
  else if b = 10 ∧ src < 4 ∧ detail < 8 then some (16 + detail)
  else if b = 11 ∧ src < 4 ∧ detail < 12 then some (24 + detail)
  else none

/-- The reaction of level MAJOR, which a domainless event of level DOMAIN has too (R413). DEDUCED, log entry 11. -/
def reactMajor (b src detail sev : Nat) (dom : Option Nat) (s : State) : State :=
  if sev = 2 ∨ (sev = 3 ∧ dom = none) then
    match fenceTarget b src detail with
    | some i => fence i s
    | none => s
  else s

/-- Raise an event at a given severity: captured, with the reaction of its severity, at once or, when it merged, at the end of the
running reaction (R413, R417). DESIGN CHOICE, log entry 79. -/
def raiseSev (b src detail sev : Nat) (dom : Option Nat) (s : State) : State :=
  if (blockOf s b).handling then captureSev b src detail sev dom s
  else reactMajor b src detail sev dom (captureSev b src detail sev dom s)
/-- Raise an event at the severity its source has (R415). -/
def raise (b src detail : Nat) (dom : Option Nat) (s : State) : State := raiseSev b src detail (sevOf s b src) dom s

/-- A Tongs window whose chunk a clearing strikes: its digest restarts, WINDOW_RESTART is raised (R258). -/
def restartWindow (s : State) (w : Nat) : State :=
  if (s.snoops.getD w {}).state = 2 then raise 18 2 w none (rewindWindow s w) else s

/-- Reactions of the merged events, in the order of arrival (R417). -/
def reactMerged (b : Nat) : List MergedEvent → State → State
  | [], s => s
  | e :: t, s => reactMerged b t (reactMajor b e.src e.detail e.sev e.domain (reactBase b e.src e.sev e.domain s))

/-- The end of the reaction in progress: HANDLING clears, and the merged errors get theirs (R417). DESIGN CHOICE, log entry 79. -/
def endReaction (b : Nat) (s : State) : State :=
  let m := (blockOf s b).merged
  if (blockOf s b).handling then reactMerged b m (modBlock s b (fun h => { h with handling := false, merged := [] })) else s

/-- Count a refusal as wrong for the state at its owning block (R126). -/
def wrongState (b : Nat) (s : State) : State := modBlock s b (fun h => { h with wrongState := sat 0xFFFF (h.wrongState + 1) })

/-- REACTION_END (R417): the fencing, erasure or drain a capture triggered is complete. -/
def execReactionEnd (blk : Fin 21) (s : State) : Host.Outcome State Fault Refusal := .next (endReaction blk s)

end Sys2Proof.Machine
end

