-- ==== Sys2Proof/Machine/Interval.lean ====
section
/-! DEFINITION. The passing of time and the metering records it closes: intervals, boundaries, rate changes, the backlog (R343 to R350,
R356). -/

namespace Sys2Proof.Machine

/-- Multiples of `l` strictly between two ticks. -/
def multiplesInside (l a b : Nat) : Nat := if b ≤ a + 1 then 0 else (b - 1) / l - a / l
/-- Ticks of an interval. -/
def intervalTicks (n : Nat) : Nat := n * 32768
/-- The interval from the next boundary on (R345). -/
def nextInterval (s : State) : Nat := if s.thermos.nextIntervalS = 0 then s.thermos.intervalS else s.thermos.nextIntervalS

/-- A tick lies in the open record. -/
def within (m : Option Nat) (a b : Nat) : Bool := match m with | some t => decide (a ≤ t) && decide (t < b) | none => false

/-- FLAGS of a record that closes at `stop` (R348). -/
def recFlags (s : State) (r : DomRec) (stop extra : Nat) : Nat :=
  extra ||| (2 * b2n r.held + 4 * b2n r.unclean + 16 * b2n (within s.thermos.lastStepMono r.startMono stop)
    + 32 * b2n (within s.thermos.lastTrimMono r.startMono stop) + 64 * b2n (!s.thermos.wallSet) + 256 * b2n r.debugGap)

/-- Counters as a closed record reports them: CIPHER in KB (R343). -/
def reported (l : List Nat) : List Nat := l.take 4 ++ [l.getD 4 0 / 1024]
/-- Counters the next record opens with (R343). -/
def opening (l : List Nat) : List Nat := [0, 0, 0, 0, l.getD 4 0 % 1024]

/-- The record of a domain that closes at `stop`, a boundary or not (R346, R348). DEDUCED, log entry 18. DEDUCED, log entry 46. -/
def closingRecord (s : State) (d stop extra : Nat) (boundary : Bool) : MeterRec :=
  let r := domOf s d
  { cls := r.rateClass, flags := recFlags s r stop extra, domain := d, classMask := 2 ^ r.rateClass, epoch := r.epoch,
    seq := s.thermos.recSeq, monoStart := r.startMono, monoEnd := stop,
    wallStart := (((r.startMono : Int) + r.startOffset) / 256 * 256).toNat
    wallEnd := ((stop : Int) + s.thermos.offset).toNat
    counts := reported (countersOf s d), intervals := r.inner + 1,
    intervalS := if s.thermos.boundaryMono < stop then nextInterval s else s.thermos.intervalS, atBoundary := boundary }

/-- The 128 octets of a record (R348). -/
def recordBytes (m : MeterRec) : Bytes :=
  let b := octets [0x53, 0x4D, 0x52, 0x31, 0x01, m.cls] ++ toLe 2 m.flags ++ uid ++ toLe 2 m.domain ++ toLe 2 m.classMask ++ toLe 4 m.epoch
    ++ toLe 8 m.seq ++ toLe 8 m.monoStart ++ toLe 8 m.monoEnd ++ toLe 8 m.wallStart ++ toLe 8 m.wallEnd
    ++ (List.range 5).flatMap (fun i => toLe 8 (m.counts.getD i 0)) ++ toLe 4 m.intervals ++ toLe 4 m.intervalS ++ zeros 4
  b ++ toLe 4 (crc32 b)
/-- One record absorbs another (R350): boundaries inside either, and the one between them, are inside the sum. -/
def absorb (a m : MeterRec) : MeterRec :=
  { a with flags := a.flags ||| m.flags ||| 2, classMask := a.classMask ||| m.classMask, monoEnd := m.monoEnd, wallEnd := m.wallEnd,
           counts := List.zipWith (· + ·) a.counts m.counts, intervals := a.intervals + m.intervals - 1 + b2n a.atBoundary,
           intervalS := m.intervalS, atBoundary := m.atBoundary }

/-- The newest record of the backlog that can absorb one, by its place (R350). -/
def absorber (s : State) (m : MeterRec) : Option (MeterRec × Nat) :=
  (s.thermos.backlog.zipIdx.filter (fun c => c.1.domain == m.domain && c.1.epoch == m.epoch)).getLast?

/-- A record that has absorbed another is not the one a METER_POST has delivered: it does not leave the backlog (R350, R352; DEDUCED, log
entry 97). -/
def unpost (seq : Nat) (s : State) : State := { s with hampers := s.hampers.map (fun x => { x with posted := x.posted.filter (· != seq) }) }

/-- Write a closing record: into the backlog, or absorbed; none when it must be HELD (R350). -/
def putRecord (d : Nat) (m : MeterRec) (s : State) : Option State :=
  if s.thermos.backlog.length < 256 then
    let s' := modThermos s (fun t => { t with backlog := t.backlog ++ [m], recSeq := t.recSeq + 1 })
    some (if s.thermos.backlog.length = 191 then raise 19 0 d (some d) s' else s')
  else (absorber s m).map (fun c =>
    raise 19 1 d (some d) (unpost c.1.seq (modThermos s (fun t => { t with backlog := t.backlog.set c.2 (absorb c.1 m) }))))

/-- The record cannot close: it is HELD, and the boundary is inside it (R350). -/
def holdRecord (d : Nat) (s : State) : State :=
  let s' := modDom s d (fun r => { r with held := true, inner := r.inner + 1 })
  if (domOf s d).held then s' else raise 19 1 d (some d) s'

/-- Open a domain's next record (R346). DEDUCED, log entry 18. -/
def openRecord (d start cls : Nat) (s : State) : State :=
  let l := opening (countersOf s d)
  modDom { s with live := assocDel s.live d } d (fun r => { r with
    meters := l, rateClass := cls, held := false, unclean := false, debugGap := false, startMono := start,
    startOffset := s.thermos.offset, inner := 0 })

/-- Schedule entries of a domain due at a boundary (R347). -/
def dueAt (s : State) (d stop : Nat) : List RateEntry :=
  s.thermos.pool.filter (fun e => e.domain == d && (e.whenTicks == 0 || decide ((e.whenTicks : Int) ≤ (stop : Int) + s.thermos.offset)))
/-- The class the latest-listed due entry sets, or the one in force. -/
def dueClass (s : State) (d stop : Nat) : Nat := ((dueAt s d stop).getLast?.map (·.cls)).getD (domOf s d).rateClass
/-- Remove the entries a boundary applies. -/
def dropDue (d stop : Nat) (s : State) : State :=
  let due := dueAt s d stop
  modThermos s (fun t => { t with pool := t.pool.filter (fun e => !due.contains e) })

/-- Close a domain's record at a boundary, apply the changes due, open the next (R346, R347, R350, R356). -/
def boundaryDomain (stop extra d : Nat) (s : State) : State :=
  match putRecord d (closingRecord s d stop extra true) s with
  | some s' => dropDue d stop (openRecord d stop (dueClass s d stop) s')
  | none => holdRecord d s

/-- Domains that have an open record, in rising order. -/
def meterDomains (s : State) : List Nat := (s.thermos.domains.filter (fun c => c.2.state != 0 && !c.2.failed)).map (·.1)

/-- The boundaries move on from `at_` (R345). -/
def advanceBoundary (at_ : Nat) (s : State) : State :=
  let n := nextInterval s; let l := intervalTicks n
  modThermos s (fun t => { t with intervalS := n, nextIntervalS := 0, boundaryMono := (at_ / l + 1) * l })

/-- The tick of the next boundary (R346, R356): every open record closes, in domain order, and the changes due apply. -/
def closeBoundary (s : State) : State :=
  let b := s.thermos.boundaryMono
  advanceBoundary b ((meterDomains s).foldl (fun s d => boundaryDomain b 0 d s) s)
/-- A boundary is processed by a tick: only in OPERATIONAL (R346). -/
def boundaryDue (t : Nat) (s : State) : Bool := decide (s.boot.mode = .operational) && decide (s.thermos.boundaryMono ≤ t)

/-- The clock moves on to a tick, every boundary on the way being processed at its own; the count bounds them. -/
def passTime : Nat → Nat → State → State
  | 0, t, s => { s with mono := max s.mono t }
  | f + 1, t, s =>
    if boundaryDue t s then passTime f t (closeBoundary { s with mono := max s.mono s.thermos.boundaryMono }) else { s with mono := max s.mono t }
/-- Time passes up to a tick, never back (DESIGN CHOICE, log entry 33): an interval is 60 s at least (R345). -/
def elapseTo (t : Nat) (s : State) : State := passTime ((t - s.mono) / 1966080 + 2) t s

end Sys2Proof.Machine
end

