-- ==== Sys2Proof/Machine/Memory.lean ====
section
/-! DEFINITION. Reading and writing the Pantry and the Larder: errors met, poison, written lines, cups (R360 to R379). -/

namespace Sys2Proof.Machine

/-- The ring meets a fault cause (R172): its state by the state it is in, the first cause kept, RING_FAULTED raised. -/
def faultRing (r cause : Nat) (s : State) : State :=
  let g := ringOf s r
  let keep := if g.faultDetail = 0 then cause else g.faultDetail
  let s := match g.state with
    | .active | .paused => setLeaf (setRing s r { g with state := .faulted, faultDetail := keep }) r
    | .draining | .faulted => setRing s r { g with faultDetail := keep }
    | .unbound => s
  raise 5 1 r none s

/-- Count an error against its row (R375). -/
def countRow (a n : Nat) (s : State) : State :=
  { s with mem := { s.mem with rowCounts := assocPut s.mem.rowCounts (a / 2048) (assocGetD 0 s.mem.rowCounts (a / 2048) + n) } }

/-- KIND of a Pantry address (R376). -/
def kindOf (a : Nat) : Nat :=
  if a < 0x00100000 then 3 else if a < 0x00200000 then 4 else if a < 0x00300000 then 5 else if a < 0x00400000 then 6 else 1

/-- First byte of the poison unit of a Pantry address (R376). -/
def unitOf (a : Nat) : Nat :=
  match kindOf a with
  | 3 => a / 16 * 16
  | 4 => a / 4096 * 4096
  | 6 => a / 8 * 8
  | _ => a / 64 * 64

/-- Bytes of a poison unit (R376). -/
def unitLen (a : Nat) : Nat :=
  match kindOf a with
  | 3 => 16
  | 4 => 4096
  | 6 => 8
  | _ => 64

/-- Record an uncorrectable error in `MEM_UE_ADDR` and `MEM_UE_INFO` (R371, R380). DEDUCED, log entry 73. -/
def recordUe (a kind src : Nat) (s : State) : State :=
  { s with mem := { s.mem with ueAddr := a, ueKind := kind, ueSource := src, ueCount := sat 0xFFFF (s.mem.ueCount + 1) } }

/-- The hamper that holds the cup at place `k`, and its ordinal there, when cups are counted in the order their hampers were taken (DESIGN CHOICE, log entry 12). -/
def cupOwner : List Hamper → Nat → Option (Nat × Nat)
  | [], _ => none
  | x :: t, k =>
    let n := if x.admitted then x.floorCups + x.sharedCups else 0
    if k < n then some (x.id, k) else cupOwner t (k - n)
/-- The hamper and the ordinal of the cup that a Pantry address lies in. -/
def cupAt (s : State) (a : Nat) : Option (Nat × Nat) := cupOwner s.hampers (Config.placeOf (unitOf a) s.mono % 256)
/-- The record of the duplicate table that a Pantry address lies in. -/
def dupAt (s : State) (a : Nat) : Nat := Config.placeOf (unitOf a) s.mono % 16384
/-- The octet of the device-reserved region that a Pantry address stands for: R360 leaves the arrangement open (DESIGN CHOICE, log entry 13). -/
def reservedAt (s : State) (a : Nat) : Nat := Config.placeOf a s.mono % 0x00100000

/-- A unit of the Pantry reads zero. -/
def zeroUnit (a n : Nat) (s : State) : State := { s with mem := { s.mem with pantry := assocClear s.mem.pantry a (a + n) } }

/-- The leaf word of every bound ring set (R376, kind 6). DESIGN CHOICE, log entry 13. -/
def rebuildLeaf (w : Nat) (s : State) : State :=
  let v := (List.range 32).foldl (fun v i => if (ringOf s (32 * w + i)).state = .unbound then v else v + 2 ^ i) 0
  { s with leaf := assocSet 0 s.leaf w (BitVec.ofNat 32 v) }

/-- What an error in the device-reserved region strikes. R360 leaves its arrangement open, so the place in the list here is a free value
(DESIGN CHOICE, log entry 13): leaf words, poll state, staging, cipher and digest part-state records, checked manifests, debug manifest
digests, the written-line map. -/
def strikeReserved (a : Nat) (s : State) : State :=
  let o := reservedAt s a
  if o < 0x2000 then rebuildLeaf (o / 8 * 2 + 1) (rebuildLeaf (o / 8 * 2) s)
  else if o < 0x12000 then
    { s with mem := { s.mem with pollLost := (List.range 8).map (fun i => ((o - 0x2000) / 8 * 8 + i, s.mono)) ++ s.mem.pollLost } }
  else if o < 0x20000 then s
  else if o < 0x40000 then
    (s.hampers.filter (fun x => x.staged != [])).foldl (fun s x => finishEntry s x.id { status := 0x50, detail := 4 }) s
  else if o < 0x60000 then { s with cipherParts := s.cipherParts.eraseIdx ((o - 0x40000) / 128), lostParts := (s.cipherParts.drop ((o - 0x40000) / 128)).head?.elim s.lostParts (fun c => c.1 :: s.lostParts) }
  else if o < 0x80000 then { s with digestParts := s.digestParts.eraseIdx ((o - 0x60000) / 128), lostParts := (s.digestParts.drop ((o - 0x60000) / 128)).head?.elim s.lostParts (fun c => (0x10000 + c.1) :: s.lostParts) }
  else if o < 0xA0000 then { s with manifests := s.manifests.eraseIdx ((o - 0x80000) / 128) }
  else if o < 0xC0000 then { s with debugManifests := s.debugManifests.eraseIdx ((o - 0xA0000) / 128) }
  else
    let l := (o - 0xC0000) / 8 * 64
    let lines := ((List.range 64).map (fun i => 0x10000000 + 256 * (l + i))).filter (fun u => decide (u < 0x10000000 + larderGranules s * 0x10000))
    let fresh := lines.filter (fun u => !s.mem.written.contains u)
    { s with mem := { s.mem with written := fresh.foldl insertNat s.mem.written, badTags := fresh.foldl insertNat s.mem.badTags } }

/-- The poll state of a ring has been lost and cannot be rebuilt from its context yet: 1 ms (R376, R377). -/
def pollStateLost (s : State) (r : Nat) : Bool := s.mem.pollLost.any (fun c => c.1 == r && decide (s.mono ≤ c.2 + 32))
/-- A poisoned ring context (R377): FAULTED when the ring is bound, or when the poll state cannot tell; else it is zero again. -/
def strikeContext (r : Nat) (s : State) : State :=
  if (ringOf s r).state = .unbound then
    (if pollStateLost s r then
      let port := ((List.range 4).find? (fun p => ringGranted s p r)).getD 0
      raise 5 1 r none (setLeaf (setRing s r { state := .faulted, faultDetail := 2, port := port, poisoned := true }) r)
     else s)
  else faultRing r 2 (modRing s r (fun g => { g with poisoned := true }))

/-- The outcome of an uncorrectable Pantry error by the kind of data struck (R376, R377). DESIGN CHOICE, log entry 12. -/
def strikePantry (a : Nat) (s : State) : State :=
  match kindOf a with
  | 1 => { zeroUnit (unitOf a) 64 s with mem := { (zeroUnit (unitOf a) 64 s).mem with poison := insertNat s.mem.poison (unitOf a) } }
  | 3 => strikeContext (a / 16) s
  | 4 =>
    match cupAt s a with
    | some (h, k) => modHamper s h (fun x => { x with cupPoison := true, cups := assocClear x.cups (k * 4096) ((k + 1) * 4096) })
    | none => s
  | 5 =>
    match s.dups[dupAt s a]? with
    | some r => raise 7 4 r.domain (some r.domain) { s with dups := s.dups.eraseIdx (dupAt s a) }
    | none => s
  | _ => raise 7 5 6 none (strikeReserved a s)

/-- The word holds the poison pattern: it raises no new event (R370). -/
def wordPoisoned (s : State) (a : Nat) : Bool := s.mem.poison.contains (unitOf a) || (kindOf a == 3 && (ringOf s (a / 16)).poisoned)
/-- Errors and write-backs of a range are gone: every word of it has been written (R371). -/
def settleWords (a n : Nat) (s : State) : State :=
  { s with mem := { s.mem with latent := assocClear s.mem.latent a (a + n),
                               writeback := s.mem.writeback.filter (fun w => !(decide (a ≤ w) && decide (w < a + n))) } }

/-- Meet the error of one Pantry word (R370, R371): one wrong bit is corrected and its write-back is due; more poison the unit, every word
of which is rewritten. DEDUCED, log entry 31. DEDUCED, log entry 73. -/
def meetWord (a nbits src : Nat) (s : State) : State :=
  if wordPoisoned s a then settleWords a 8 s
  else if nbits = 1 then
    if s.mem.writeback.contains a then s else
    let s := countRow a 1 { s with mem := { s.mem with ceCount := sat 0xFFFFFFFF (s.mem.ceCount + 1), writeback := insertNat s.mem.writeback a } }
    raise 7 0 (bankOf a) none s
  else
    let s := settleWords (unitOf a) (unitLen a) s
    let s := recordUe (unitOf a) (kindOf a) src (countRow a 3 s)
    raise 7 3 (kindOf a) none (strikePantry a s)

/-- Meet every error of the Pantry words that a range touches. -/
def touchPantry (a n src : Nat) (s : State) : State :=
  (s.mem.latent.filter (fun c => decide (a < c.1 + 8) && decide (c.1 < a + n))).foldl (fun s c => meetWord c.1 c.2 src s) s

/-- Meet the errors of the Pantry words of one kind that a test finds among what is read (R370). -/
def touchKind (kind : Nat) (f : State → Nat → Bool) (s : State) : State :=
  (s.mem.latent.filter (fun c => kindOf c.1 == kind && f s c.1)).foldl (fun s c => meetWord c.1 c.2 0 s) s
/-- The cups of a hamper are read. -/
def touchCups (h : Nat) (s : State) : State := touchKind 4 (fun s a => (cupAt s a).any (fun c => c.1 == h)) s
/-- The duplicate records of a domain are read. -/
def touchDups (d : Nat) (s : State) : State := touchKind 5 (fun s a => (s.dups[dupAt s a]?).any (fun r => r.domain == d)) s
/-- Words of the device-reserved region are read: those between two places. -/
def touchReserved (lo hi : Nat) (s : State) : State := touchKind 6 (fun s a => decide (lo ≤ reservedAt s a) && decide (reservedAt s a < hi)) s

/-- The lines of the Larder that a range touches. -/
def linesOf (a n : Nat) : List Nat :=
  if n = 0 then [] else (List.range ((a + n - 1) / 256 - a / 256 + 1)).map (fun i => (a / 256 + i) * 256)

/-- A Larder line whose tag matches nothing: the poison tag is written, TAG_FAIL raised once (R366). DEDUCED, log entry 52. -/
def failLine (u : Nat) (s : State) : State :=
  let s := { s with mem := { s.mem with
    badTags := s.mem.badTags.filter (· != u), poison := insertNat s.mem.poison u,
    larder := assocClear s.mem.larder u (u + 256), tagFails := sat 0xFFFF (s.mem.tagFails + 1) } }
  raise 8 0 ((u - 0x10000000) / 0x10000) none (recordUe u 2 3 s)

/-- Check the tags of the lines that a range touches (R366). DEDUCED, log entry 52. -/
def touchLarder (a n : Nat) (s : State) : State :=
  (linesOf a n).foldl (fun s u => if s.mem.badTags.contains u then failLine u s else s) s

/-- The lines that a write covers only in part: it reads, checks and re-encrypts them (R366). -/
def partLines (a n : Nat) : List Nat := (linesOf a n).filter (fun u => decide (u < a) || decide (a + n < u + 256))
/-- The tags of the lines that a write covers in part are checked (R366). -/
def touchParts (a n : Nat) (s : State) : State :=
  (partLines a n).foldl (fun s u => if s.mem.badTags.contains u then failLine u s else s) s

/-- A range lies in the Larder. -/
def inLarder (a : Nat) : Bool := decide (0x10000000 ≤ a) && decide (a < 0x14000000)

/-- Meet the errors of an arena range before it is read. -/
def touch (a n : Nat) (s : State) : State :=
  if n = 0 then s
  else if inLarder a then touchLarder a n (touchReserved (0xC0000 + (a - 0x10000000) / 2048) (0xC0001 + (a + n - 1 - 0x10000000) / 2048) s)
  else touchPantry a n 0 s

/-- The arena bytes of a range; a poisoned unit and an unwritten line read zero. -/
def readArena (s : State) (a n : Nat) : Bytes :=
  if inLarder a then memRead 0 s.mem.larder a n else memRead 0 s.mem.pantry a n

/-- MEM_POISON's DETAIL for a range: 1 for a Pantry line, 2 for a Larder line (R379). -/
def poisonIn (s : State) (a n : Nat) : Option Nat :=
  let w := if inLarder a then 256 else 64
  if n ≠ 0 ∧ s.mem.poison.any (fun u => decide (u < a + n) && decide (a < u + w)) then
    some (if inLarder a then 2 else 1)
  else none

/-- Octets in a list of buffered ranges. -/
def bufferSize (l : List (Nat × Nat)) : Nat := (l.map (·.2)).sum
/-- Octets in the Larder's write buffer (R368). -/
def buffered (s : State) : Nat := bufferSize s.mem.buffer
/-- The oldest ranges leave a buffer until what is left fits (R368). -/
def bufferFit : List (Nat × Nat) → List (Nat × Nat)
  | [] => []
  | c :: t => if bufferSize (c :: t) ≤ 131072 then c :: t else bufferFit t
/-- A range enters the buffer; of an output longer than the buffer its end stands there (R368). DEDUCED, log entry 78. -/
def bufferPut (a n : Nat) (l : List (Nat × Nat)) : List (Nat × Nat) := bufferFit (l ++ [(a + (n - 131072), min n 131072)])
/-- Every octet of a range is in the buffer (R368). -/
def inBuffer (s : State) (a n : Nat) : Bool :=
  (List.range n).all (fun i => s.mem.buffer.any (fun c => decide (c.1 ≤ a + i) && decide (a + i < c.1 + c.2)))
/-- A Larder line that a read can be served from without the PSRAM: never written, or its octets read are in the write buffer (R367, R368). -/
def lineHeld (s : State) (a n u : Nat) : Bool :=
  !s.mem.written.contains u || inBuffer s (max a u) (min (a + n) (u + 256) - max a u)
/-- A Larder range needs no PSRAM access (R367, R368). -/
def larderHeld (s : State) (a n : Nat) : Bool := (linesOf a n).all (lineHeld s a n)

/-- Write octets into the Larder: the lines become written; poison of the lines touched ends, what the write does not cover
reading zero (R367, R372). The octets pass through the write buffer (R368). DEDUCED, log entry 78. -/
def larderPut (s : State) (a : Nat) (v : Bytes) : State :=
  let ls := linesOf a v.length
  { s with mem := { s.mem with
      larder := memWrite 0 s.mem.larder a v,
      written := ls.foldl insertNat s.mem.written,
      poison := s.mem.poison.filter (fun u => !ls.contains u),
      badTags := s.mem.badTags.filter (fun u => !ls.contains u),
      buffer := bufferPut a v.length s.mem.buffer } }

/-- The bytes of the words a write covers only in part are read first. -/
def touchEdges (a n : Nat) (s : State) : State :=
  let s := if a % 8 = 0 then s else touchPantry a 1 0 s
  if (a + n) % 8 = 0 then s else touchPantry (a + n) 1 0 s

/-- Put octets into the Pantry arena: a poisoned line touched loses its poison, all of it being rewritten (R372). DEDUCED, log entry 69. -/
def arenaPut (s : State) (a : Nat) (v : Bytes) : State :=
  let s := touchEdges a v.length s
  let gone := s.mem.poison.filter (fun u => decide (u < 0x01000000) && decide (a < u + 64) && decide (u < a + v.length))
  let s := (List.range (v.length / 0x00200000 + 2)).foldl
    (fun s i => let b := min (bankOf (a + i * 0x00200000)) (bankOf (a + v.length - 1)); wakeBank s b) s
  let s := gone.foldl (fun s u => settleWords u 64 s) (settleWords a v.length s)
  { s with mem := { s.mem with
      pantry := memWrite 0 s.mem.pantry a v,
      poison := s.mem.poison.filter (fun u => !gone.contains u) } }

/-- Write octets into the arena. -/
def writeArena (a : Nat) (v : Bytes) (s : State) : State :=
  if v = [] then s else if inLarder a then larderPut (touchParts a v.length s) a v else arenaPut s a v

/-- A granule leaves a grant: every byte of it reads zero from then on (R363). -/
def wipeRange (a n : Nat) (s : State) : State :=
  { s with mem := { s.mem with
      pantry := assocClear s.mem.pantry a (a + n), larder := assocClear s.mem.larder a (a + n),
      poison := s.mem.poison.filter (fun u => !(decide (a ≤ u) && decide (u < a + n))),
      written := s.mem.written.filter (fun u => !(decide (a ≤ u) && decide (u < a + n))),
      badTags := s.mem.badTags.filter (fun u => !(decide (a ≤ u) && decide (u < a + n))),
      buffer := s.mem.buffer.filter (fun c => !(decide (a ≤ c.1) && decide (c.1 < a + n))),
      writeback := s.mem.writeback.filter (fun u => !(decide (a ≤ u) && decide (u < a + n))),
      latent := assocClear s.mem.latent a (a + n) } }

/-- Free spare rows of a bank: SPARES_FREE, FACTORY and FIELD sum to 32 (R380); an unusable spare counts as a field remap. -/
def factoryRemaps (s : State) (b : Nat) : Nat := (s.mem.factoryRemaps.filter (fun c => c.1 == b)).length
def fieldRemaps (s : State) (b : Nat) : Nat :=
  (s.thermos.remaps.filter (fun c => c.1 == b)).length + (s.thermos.badSpares.filter (fun c => c.1 == b)).length
def sparesFree (s : State) (b : Nat) : Nat := 32 - factoryRemaps s b - fieldRemaps s b

/-- The lowest free spare of a bank. -/
def freeSpare (s : State) (b : Nat) : Option Nat :=
  (List.range 32).find? (fun j => !(s.mem.factoryRemaps.any (fun c => c.1 == b && c.2.1 == j)) &&
    !(s.thermos.remaps.any (fun c => c.1 == b && c.2.1 == j)) && !(s.thermos.badSpares.contains (b, j)))

/-- Copy a row into a spare (R375): correctable words are corrected, others poison their unit, poison is copied as it stands. -/
def copyRow (bank row : Nat) (s : State) : State :=
  let a := bank * 0x00200000 + row * 2048
  let s := (s.mem.latent.filter (fun c => decide (a ≤ c.1) && decide (c.1 < a + 2048))).foldl (fun s c => meetWord c.1 c.2 2 s) s
  { s with mem := { s.mem with
      latent := assocClear s.mem.latent a (a + 2048),
      writeback := s.mem.writeback.filter (fun w => !(decide (a ≤ w) && decide (w < a + 2048))),
      rowCounts := assocDel s.mem.rowCounts (a / 2048) } }

/-- Redirect a row to a spare and record it; a spare that held the row before is unusable from then on. -/
def remapRow (bank row j : Nat) (s : State) : State :=
  let old := s.thermos.remaps.filter (fun c => c.1 == bank && c.2.2 == row)
  modThermos s (fun t => { t with
    remaps := t.remaps.filter (fun c => !(c.1 == bank && c.2.2 == row)) ++ [(bank, j, row)],
    badSpares := t.badSpares ++ old.map (fun c => (c.1, c.2.1)) })

/-- The remap of a row whose count has reached 3; with no free spare the row stays and SPARES_OUT is raised once for the
bank (R375). -/
def remapEffect (bank row : Nat) (s : State) : State :=
  if assocGetD 0 s.mem.rowCounts (bank * 1024 + row) < 3 ∨ 8 ≤ bank ∨ 1024 ≤ row then s
  else match freeSpare s bank with
    | some j => raise 7 1 bank none (remapRow bank row j (copyRow bank row s))
    | none =>
      if s.mem.sparesOut.contains bank then s
      else raise 7 2 bank none { s with mem := { s.mem with sparesOut := insertNat s.mem.sparesOut bank } }

/-- ROW_REMAP (R375). -/
def execRowRemap (bank row : Nat) (s : State) : Host.Outcome State Fault Refusal := .next (remapEffect bank row s)

/-- The write-back of a corrected word, unless it was written in the meantime (R371). -/
def writebackEffect (a : Nat) (s : State) : State :=
  if s.mem.writeback.contains a then
    { s with mem := { s.mem with writeback := s.mem.writeback.filter (· != a), latent := assocDel s.mem.latent a } }
  else s

/-- CORRECTION_WRITEBACK (R371). -/
def execCorrectionWriteback (addr : Nat) (s : State) : Host.Outcome State Fault Refusal := .next (writebackEffect addr s)

end Sys2Proof.Machine
end

