-- ==== Sys2Proof/Machine/Queue.lean ====
section
/-! DEFINITION. Rings: taking hampers, pushes, ring commands, the drain walk and the Roll call (R139 to R175). -/

namespace Sys2Proof.Machine

/-- The index after `i`, and the lap phase expected there (R142). -/
def nextIndex (g : Ring) (i : Nat) (ph : Bool) : Nat × Bool :=
  if i + 1 = 2 ^ g.sizeLog2 then (0, !ph) else (i + 1, ph)

/-- How the reading of a run ends (R158, R162, R175). -/
inductive RunEnd where
  | complete
  | tooBig
  | incomplete
  | badPhase
  | poisoned
  deriving DecidableEq, Repr

/-- Read the entries of a run from an index on: `have_` entries are already in it and `room` entries of the ring lie
before HEAD. Each line read is met for errors first. -/
def examine (r : Nat) : Nat → Nat → Bool → Nat → Nat → List TakenEntry → State → State × RunEnd × List TakenEntry
  | 0, _, _, _, _, acc, s => (s, .incomplete, acc)
  | f + 1, i, ph, have_, room, acc, s =>
    let g := ringOf s r
    let a := entryAddr g i
    if room = 0 then (s, if have_ = 0 then .incomplete else .tooBig, acc) else
    let s := wakeBank (touchPantry a 64 0 s) (bankOf a)
    if (poisonIn s a 64).isSome then (s, .poisoned, acc) else
    let e := entryBytes s g i
    if !ownBit e then (s, .incomplete, acc)
    else if phaseBit e != ph then (s, .badPhase, acc)
    else
      let acc := acc ++ [{ index := i, bytes := e }]
      if !chainBit e then (s, .complete, acc)
      else if have_ + 1 = 16 ∨ room = 1 then (s, .tooBig, acc)
      else
        let n := nextIndex g i ph
        examine r f n.1 n.2 (have_ + 1) (room - 1) acc s

/-- The ring's hamper whose entry with CHAIN = 0 has not been taken (R165). -/
def openHamper (s : State) (r : Nat) : Option Hamper := s.hampers.find? (fun x => x.ring == r && !x.closedRun)

/-- Advance TAIL past `n` entries (R142). -/
def advanceTail (r n : Nat) (s : State) : State :=
  modRing s r (fun g =>
    let t := g.tail + n
    if t < 2 ^ g.sizeLog2 then { g with tail := t } else { g with tail := t - 2 ^ g.sizeLog2, tailPhase := !g.tailPhase })

/-- The effective class at taking (R184). -/
def classAtTaking (g : Ring) (first : Bytes) : Nat := if urgentBit first then 3 else g.cls

/-- Take entries into the ring's open hamper, or into a new one (R162, R165, R174). A pushed hamper of several entries counts as taken, for its
age and its place, at the first deposit (R187; DESIGN CHOICE, log entry 95). -/
def takeEntries (r : Nat) (es : List TakenEntry) (closed : Bool) (s : State) : State :=
  let g := ringOf s r
  let s' := advanceTail r es.length s
  match openHamper s r with
  | some h => modHamper s' h.id (fun x => { x with entries := x.entries ++ es, closedRun := closed })
  | none =>
    let first := (es.head?.map (·.bytes)).getD []
    let h : Hamper := { id := s.nextHamper, ring := r, domain := g.domain, port := g.port, base := g.base, entries := es, closedRun := closed,
                        cls := classAtTaking g first, agedAt := s.mono }
    { s' with hampers := s'.hampers ++ [h], nextHamper := s.nextHamper + 1 }

/-- The first entry completes with a status and the others ABORTED_CHAIN, nothing being executed (R175, R179, R191). -/
def rejectHamper (h : Nat) (d : Done) (s : State) : State :=
  match hamperOf s h with
  | some x => closeHamper s { x with entries := finishFirst d x.entries } { status := 0x12 }
  | none => s

/-- A run that reached 16 entries or fills the ring, every CHAIN bit 1 (R175). -/
def rejectTooBig (r : Nat) (s : State) : State :=
  match (s.hampers.filter (fun x => x.ring == r)).getLast? with
  | some x => rejectHamper x.id { status := 0x25 } s
  | none => s

/-- Take one hamper at TAIL, or find none; the flag says whether to look for another (R158, R162, R165, R172, R175). -/
def takeOne (r : Nat) (s : State) : State × Bool :=
  let g := ringOf s r
  let have_ := ((openHamper s r).map (fun x => x.entries.length)).getD 0
  let x := examine r 16 g.tail g.tailPhase have_ (ringRoom g) [] s
  match x.2.1 with
  | .complete => (takeEntries r x.2.2 true x.1, true)
  | .tooBig => (rejectTooBig r (takeEntries r x.2.2 true x.1), true)
  | .incomplete => (x.1, false)
  | .badPhase => (faultRing r 3 x.1, false)
  | .poisoned => (faultRing r 1 x.1, false)

/-- Take whole hampers in order until something stops it (R162). -/
def takeAll (r : Nat) : Nat → State → State
  | 0, s => s
  | f + 1, s => let x := takeOne r s; if x.2 then takeAll r f x.1 else x.1

/-- Read a ring's TAIL, as a poll, kick or RESUME does (R160, R162, R163): nothing happens in a ring that is not served. -/
def readRing (r : Nat) (s : State) : State :=
  let s := touchReserved (0x2000 + r / 8 * 8) (0x2008 + r / 8 * 8) (touchPantry (16 * r) 16 0 s)
  if ringServed s r then takeAll r (2 ^ (ringOf s r).sizeLog2) s else s

/-- RING_POLL (R160). -/
def execRingPoll (ring : BitVec 16) (s : State) : Host.Outcome State Fault Refusal :=
  .next (if (ringOf s ring.toNat).poll = 0 then s else readRing ring.toNat s)

/-- The device reads the TAIL of every ACTIVE ring that a test names, as if each had been kicked (R163). -/
def readRings (f : Ring → Bool) (s : State) : State :=
  (s.rings.filter (fun c => f c.2)).foldl (fun s c => readRing c.1 s) s

/-- Header-poll demand of a port in units of 2^-15 polls per second (R161). `POLL_DEMAND` shows it modulo 2^32 (DESIGN CHOICE, log
entry 93). -/
def pollDemand (s : State) (p : Nat) : Nat :=
  ((s.rings.filter (fun c => c.2.state == .active && c.2.port == p && c.2.poll != 0)).map (fun c => 1000000 * 2 ^ (15 - c.2.poll))).sum
/-- `POLL_FACTOR.F`: F_p in units of 1/256, at least 256 (R161, R166). -/
def pollFactor (s : State) (p : Nat) : Nat := sat 0xFFFF (max 256 (pollDemand s p * 256 / (10000000 * 2 ^ 15)))
/-- F_p exceeds 1. -/
def pollStretched (s : State) (p : Nat) : Bool := decide (10000000 * 2 ^ 15 < pollDemand s p)
/-- POLL_STRETCH is raised when F_p rises above 1 (R161). -/
def noteStretch (before : State) (p : Nat) (s : State) : State :=
  if pollStretched s p && !pollStretched before p then raise 5 0 p none s else s

/-- The reason a pushed entry is refused before the line at TAIL is read, 0 for none (R164, rows 1 to 6). -/
def pushReason (s : State) (it : PushItem) : Nat :=
  let g := ringOf s it.ring
  if g.state ≠ .active then 1
  else if suspended s g.domain then 2
  else if !modeFetches s then 3
  else if !ownBit it.entry then 4
  else if phaseBit it.entry != g.tailPhase then 5
  else if ringRoom g = 0 then 6
  else 0

/-- Record the outcome of a push (R110, R166). It is the port's last one when its buffer is empty after it. The first record fills k = 0
(DESIGN CHOICE, log entry 93). -/
def logPush (p : Nat) (it : PushItem) (reason index : Nat) (s : State) : State :=
  let ok := reason == 0
  let rec_ : PushLog := { result := if ok then 2 else 3, reason := reason, ring := it.ring, index := if ok then index else 0, wrSeq := it.seq }
  modPort s p (fun x =>
    let first := (x.pushLog.getD 0 {}).result == 0
    let k := if first then 0 else (x.pushLogPos + 1) % 16
    { x with
      pushLog := x.pushLog.set k rec_, pushLogPos := k,
      pushDeposited := if ok then (x.pushDeposited + 1) % 2 ^ 32 else x.pushDeposited,
      pushRefused := if ok then x.pushRefused else (x.pushRefused + 1) % 2 ^ 32,
      lastResult := if x.pushBuf = [] then (if ok then 2 else 3) else x.lastResult,
      refusedAny := x.refusedAny || !ok })

/-- Deposit a pushed entry at TAIL: it is taken (R164, R165, R175). -/
def depositEntry (it : PushItem) (s : State) : State :=
  let g := ringOf s it.ring
  let s := pantryPut s (entryAddr g g.tail) it.entry
  let have_ := ((openHamper s it.ring).map (fun x => x.entries.length)).getD 0
  let last := !chainBit it.entry
  let full := have_ + 1 == 16 || ringRoom g == 1
  let s := takeEntries it.ring [{ index := g.tail, bytes := it.entry }] (last || full) s
  if !last && full then rejectTooBig it.ring s else s

/-- The line at TAIL is read for a push that rows 1 to 6 let pass (R164, row 7): an unfetched entry refuses it. A poisoned line faults the
ring, and the push is refused as to a ring that is not ACTIVE (R172; DESIGN CHOICE, log entry 93). -/
def pushLine (r : Nat) (s : State) : State × Nat :=
  let g := ringOf s r
  let a := entryAddr g g.tail
  let s := wakeBank (touchPantry a 64 0 s) (bankOf a)
  if (poisonIn s a 64).isSome then (faultRing r 1 s, 1)
  else (s, if ownBit (entryBytes s g g.tail) then 7 else 0)

/-- The oldest entry leaves a port's push buffer (R164). -/
def pushDepositEffect (p : Nat) (s : State) : State :=
  match (portOf s p).pushBuf with
  | [] => s
  | it :: rest =>
    let s := touchPantry (16 * it.ring) 16 0 (modPort s p (fun x => { x with pushBuf := rest }))
    let g := ringOf s it.ring
    let early := pushReason s it
    let l := if early = 0 then pushLine it.ring s else (s, early)
    let reason := l.2
    let s := l.1
    let s := if reason = 0 then depositEntry it s else s
    let s := logPush p it reason g.tail s
    if reason = 0 then s
    else raise 5 2 it.ring (if g.state = .unbound then none else some g.domain) s

/-- PUSH_DEPOSIT (R164). -/
def execPushDeposit (p : Port) (s : State) : Host.Outcome State Fault Refusal := .next (pushDepositEffect p s)

/-- The walk over untaken entries (R170, R423): the entries with OWN = 1 and the expected phase from TAIL on, up to HEAD.
`run` holds the entries since the last one with CHAIN = 0. The second value says that a poisoned line stopped it. -/
def walkEntries (r : Nat) : Nat → Nat → Bool → List TakenEntry → List TakenEntry → State →
    State × Bool × List TakenEntry × List TakenEntry
  | 0, _, _, done, run, s => (s, false, done, run)
  | f + 1, i, ph, done, run, s =>
    let g := ringOf s r
    let a := entryAddr g i
    let s := wakeBank (touchPantry a 64 0 s) (bankOf a)
    if !arenaGranted s g.port a 64 then (s, false, done, run)
    else if (poisonIn s a 64).isSome then (s, true, done, run)
    else
      let e := entryBytes s g i
      if !ownBit e || phaseBit e != ph then (s, false, done, run)
      else
        let n := nextIndex g i ph
        let run := run ++ [{ index := i, bytes := e }]
        if chainBit e then walkEntries r f n.1 n.2 done run s else walkEntries r f n.1 n.2 (done ++ run) [] s

/-- Complete the untaken entries of a ring with a status: DETAIL 2, or 3 in a run that ends before any entry with CHAIN = 0. -/
def walkRing (r status : Nat) (s : State) : State :=
  let g := ringOf s r
  let x := walkEntries r (ringRoom g) g.tail g.tailPhase [] [] s
  let s := advanceTail r (x.2.2.1.length + x.2.2.2.length) x.1
  let s := x.2.2.1.foldl (fun s e => writeCompletion s r g.port (entryAddr g e.index) e.bytes { status := status, detail := 2 }) s
  let s := x.2.2.2.foldl (fun s e => writeCompletion s r g.port (entryAddr g e.index) e.bytes { status := status, detail := 3 }) s
  let s := settleHead s r
  if x.2.1 then faultRing r 1 s else s

/-- Complete whole every hamper of a ring that is not admitted. -/
def abortUnadmitted (r status : Nat) (detail : Hamper → Nat) (s : State) : State :=
  (s.hampers.filter (fun x => x.ring == r && !x.admitted)).foldl
    (fun s x => closeHamper s x { status := status, detail := detail x }) s

/-- SHUTDOWN: DRAINING, the entries not admitted aborted, the walk, and the end of the drain when nothing is left
(R170). A poisoned context is not walked: it becomes zero but for DRAINING and the port the poll state keeps (R172, R377; DEDUCED,
log entry 101). -/
def shutdownRing (r : Nat) (s : State) : State :=
  let lost := (ringOf s r).poisoned
  let s := modRing s r (fun g => if lost then { state := .draining, port := g.port } else { g with state := .draining, walked := false })
  let s := abortUnadmitted r 0x10 (fun _ => 1) s
  let s := if lost then s else walkRing r 0x10 s
  endDrain (modRing s r (fun g => if g.state = .draining then { g with walked := true } else g)) r

/-- Ring commands by code (R143). DEDUCED, log entry 34. -/
def cmdAllowedInMode (s : State) (p cmd : Nat) : Bool :=
  match s.boot.mode with
  | .boot => false
  | .recovery => cmd == 6
  | .quarantine => cmd == 6 || cmd == 2 || cmd == 4 || cmd == 5
  | .factory | .debug => true
  | .operational => cmd == 6 || !(portOf s p).bootstrap && decide (lifecycle s = .claimed)

/-- A ring command is allowed in a ring state (R144). -/
def cmdAllowedInState (st : RingState) (taken : Bool) (cmd : Nat) : Bool :=
  match cmd, st with
  | 6, _ => true
  | 1, .unbound => true
  | 2, .active => true
  | 3, .paused => true
  | 4, .active | 4, .paused | 4, .faulted => true
  | 5, .active | 5, .paused | 5, .faulted => !taken
  | _, _ => false

/-- The result of a ring command before it acts: 1 OK, 2 WRONG_STATE, 3 BAD_ARG, 4 NOT_GRANTED, 5 DOMAIN_DENIED (R143, R145). -/
def cmdResult (s : State) (p cmd r a1 a2 : Nat) : Nat :=
  let g := ringOf s r
  let n := bits a2 24 20
  if !ringGranted s p r then 4
  else if !cmdAllowedInMode s p cmd || !cmdAllowedInState (if g.poisoned then .faulted else g.state) (s.hampers.any (fun x => x.ring == r)) cmd then 2
  else if cmd ≠ 1 then 1
  else if !domExists s (bits a2 9 0) || !(portOf s p).grant.domains.contains (bits a2 9 0) then 5
  else if n = 0 ∨ 16 < n ∨ bits a2 11 10 ≠ 0 ∨ bits a2 15 14 ≠ 0 ∨ bits a2 31 25 ≠ 0 ∨ a1 % 64 ≠ 0 then 3
  else if !pantryGranted s p a1 (64 * 2 ^ n) then 3
  else 1

/-- The context CREATE writes (R142, R145). -/
def createdRing (p a1 a2 : Nat) : Ring :=
  { state := .active, base := a1, headPhase := true, tailPhase := true, domain := bits a2 9 0, port := p,
    cls := bits a2 13 12, poll := bits a2 19 16, sizeLog2 := bits a2 24 20 }

/-- The effect of a ring command whose result is OK (R145, R146, R170). -/
def cmdEffect (p cmd r a1 a2 : Nat) (s : State) : State :=
  match cmd with
  | 1 => noteStretch s p (setRing s r (createdRing p a1 a2))
  | 2 => modRing s r (fun g => { g with state := .paused })
  | 3 => readRing r (noteStretch s p (modRing s r (fun g => { g with state := .active })))
  | 4 => shutdownRing r s
  | 5 => unbindRing s r
  | _ => s

/-- STATE of a ring context (R141). -/
def ringStateCode : RingState → Nat
  | .unbound => 0 | .active => 1 | .paused => 2 | .draining => 3 | .faulted => 4

/-- A ring context as QUERY reports it while its line is poisoned (R377): every field but STATE, DETAIL and PORT reads 0. -/
def queryView (p : Nat) (g : Ring) : Ring :=
  if g.poisoned then { state := .faulted, faultDetail := 2, port := p, poisoned := true } else g

/-- `RING_QUERY_ID` of a snapshot (R147). -/
def queryIdWord (r : Nat) (g : Ring) : Word := BitVec.ofNat 32 (g.port * 2 ^ 26 + g.domain * 2 ^ 16 + r)
/-- `RING_QUERY_STATE` of a snapshot (R147); STRETCHED too reads 0 while the context is poisoned (R377). -/
def queryStateWord (s : State) (p : Nat) (g : Ring) : Word :=
  BitVec.ofNat 32 (g.faultDetail * 2 ^ 24 + g.sizeLog2 * 2 ^ 12 + g.poll * 2 ^ 8 + g.cls * 2 ^ 6 + b2n (!g.poisoned && pollStretched s p) * 32
    + b2n g.tailPhase * 16 + b2n g.headPhase * 8 + ringStateCode g.state)

/-- Refresh the query registers with the ring's state (R147). -/
def refreshQuery (p cmd r : Nat) (s : State) : State :=
  let g := queryView p (ringOf s r)
  modPort s p (fun x =>
    let x := { x with queryId := queryIdWord r g, queryState := queryStateWord s p g }
    if cmd = 6 then { x with ringArg1 := BitVec.ofNat 32 g.base, ringArg2 := BitVec.ofNat 32 (g.tail * 0x10000 + g.head) } else x)

/-- Run a ring command with the arguments in the port's registers (R143). -/
def ringCommand (p cmd : Nat) (s : State) : State :=
  let x := portOf s p
  let r := x.ringArg0.toNat % 0x10000
  let s := touchPantry (16 * r) 16 0 s
  let res := cmdResult s p cmd r x.ringArg1.toNat x.ringArg2.toNat
  let s := if res = 1 then refreshQuery p cmd r (cmdEffect p cmd r x.ringArg1.toNat x.ringArg2.toNat s)
           else if res = 2 ∨ res = 4 then wrongState 5 s else s
  modPort s p (fun x => { x with cmdSeq := (x.cmdSeq + 1) % 0x10000, cmdLast := cmd, cmdResult := res })

/-- A leaf word as a port sees it: bits of rings bound to it (R56, R167). -/
def leafSeen (s : State) (p w : Nat) : Nat :=
  let v := (leafWord s w).toNat
  if v = 0 then 0 else
  (List.range 32).foldl (fun a i => let g := ringOf s (32 * w + i)
    if bit v i ∧ g.state ≠ .unbound ∧ g.port = p then a + 2 ^ i else a) 0

/-- A mid word, computed live from the leaf words below it (R167). -/
def midWord (s : State) (p j : Nat) : Nat :=
  s.leaf.foldl (fun a c => if c.1 / 32 = j ∧ leafSeen s p c.1 ≠ 0 then a + 2 ^ (c.1 % 32) else a) 0

/-- The 64 top bits (R167). -/
def topBits (s : State) (p : Nat) : Nat :=
  (List.range 64).foldl (fun a k => if s.leaf.any (fun c => c.1 / 32 == k && leafSeen s p c.1 != 0) then a + 2 ^ k else a) 0

/-- The word form of ROLL_ACK: the bits of a mask that belong to rings bound to the port (R169). -/
def ackWord (p w m : Nat) (s : State) : State := clearLeafMask s w (BitVec.ofNat 32 (leafSeen s p w &&& m))

end Sys2Proof.Machine
end

