-- ==== Sys2Proof/Machine/Window.lean ====
section
/-! DEFINITION. The flash window: regions, forwarding, the cache, prefetch, window writes, and what the Tongs hash
(R248, R252 to R258, R386 to R400). -/

namespace Sys2Proof.Machine

/-- Flash bytes as the flash holds them; an erased byte reads 0xFF. -/
def flashRead (s : State) (a n : Nat) : Bytes := memRead 0xFF s.mp.flash a n
/-- Change flash bytes. -/
def flashPut (a : Nat) (v : Bytes) (s : State) : State := { s with mp := { s.mp with flash := memWrite 0xFF s.mp.flash a v } }

/-- The HOST region that holds a flash address. -/
def hostRegion (s : State) (a : Nat) : Option Region :=
  s.mp.layout.find? (fun r => r.kind == 1 && decide (r.base ≤ a) && decide (a < r.base + r.length))

/-- The 4 KB units that a flash range touches. -/
def unitsOf (a n : Nat) : List Nat :=
  if n = 0 then [] else (List.range ((a + n - 1) / 4096 - a / 4096 + 1)).map (fun i => (a / 4096 + i) * 4096)

/-- A byte's unit is granted to the port for reading or for writing (R390): regions are whole 4 KB units. -/
def winUnit (s : State) (p : Nat) (write : Bool) (u : Nat) : Bool :=
  let g := (portOf s p).grant
  match hostRegion s u with
  | some r => bit (if write then g.winWr else g.winRd) r.index
  | none => false

/-- A flash range is granted to the port (R55, R390); nothing is when discovery failed (R384). -/
def winGranted (s : State) (p : Nat) (write : Bool) (a n : Nat) : Bool := s.mp.flashOk && (unitsOf a n).all (winUnit s p write)

/-- Insert a write by its place in commit order. -/
def insertOp (x : Nat × WinOp) : List (Nat × WinOp) → List (Nat × WinOp)
  | [] => [x]
  | y :: t => if x.2.seq ≤ y.2.seq then x :: y :: t else y :: insertOp x t

/-- Every window write waiting or running, with its port, oldest commit first. -/
def winOps (s : State) : List (Nat × WinOp) :=
  (s.ports.zipIdx.flatMap (fun c => c.1.winQueue.map (fun o => (c.2, o)))).foldr insertOp []

/-- One octet string written over another where they overlap: `b` at `a`, `v` at `o`. -/
def overlapPut (a : Nat) (b : Bytes) (o : Nat) (v : Bytes) : Bytes :=
  b.zipIdx.map (fun c => if o ≤ a + c.2 ∧ a + c.2 < o + v.length then v.getD (a + c.2 - o) 0 else c.1)

/-- Forwarding: a queued or running WIN_WR answers for the bytes it covers (R395). -/
def forwardOver (s : State) (a : Nat) (b : Bytes) : Bytes :=
  (winOps s).foldl (fun b c => if c.2.kind = .winWr then overlapPut a b c.2.addr c.2.data else b) b

/-- The cached line at a flash line address. -/
def cachedLine (s : State) (u : Nat) : Option CacheLine := s.mp.cache.find? (fun l => l.addr == u)
/-- Every line of the range is cached. -/
def allCached (s : State) (a n : Nat) : Bool := (linesOf a n).all (fun u => (cachedLine s u).isSome)

/-- Bytes of the window as a read returns them: cached lines, else the flash, forwarding over both. -/
def windowBytes (s : State) (a n : Nat) : Bytes :=
  let ls := linesOf a n
  let whole := ls.flatMap (fun u => match cachedLine s u with | some l => fitTo 256 l.data | none => flashRead s u 256)
  forwardOver s a (slice whole (a % 256) n)

/-- The set of a line (R391). -/
def setOf (u : Nat) : Nat := u / 256 % 64

/-- Ways a fill may use: all 16 for an XIP port, the unreserved ones for every other fill (R391). -/
def waysFor (s : State) (xip : Bool) : List Nat := (List.range 16).filter (fun w => xip || decide (s.mp.xipWays ≤ w))

/-- Fill a line whole into the cache, replacing the least recently used line it may replace; a hit becomes the most
recently used. The list is in order of use, oldest first. -/
def fillLine (u : Nat) (xip : Bool) (s : State) : State :=
  let others := s.mp.cache.filter (fun l => l.addr != u)
  match cachedLine s u with
  | some l => { s with mp := { s.mp with cache := others ++ [l] } }
  | none =>
    let ws := waysFor s xip
    let used := others.filter (fun l => setOf l.addr == setOf u)
    let line := fun w => ({ addr := u, way := w, data := flashRead s u 256 } : CacheLine)
    match ws.find? (fun w => !(used.any (fun l => l.way == w))) with
    | some w => { s with mp := { s.mp with cache := others ++ [line w] } }
    | none =>
      match used.find? (fun l => ws.contains l.way) with
      | some v => { s with mp := { s.mp with cache := others.filter (fun l => l.addr != v.addr) ++ [line v.way] } }
      | none => s

/-- Empty the window cache (R391). -/
def emptyCache (s : State) : State := { s with mp := { s.mp with cache := [] } }

/-- Wake a domain when work needs it (R436, R440, R441): a closed one wakes once gated, a retired one and one under
FORCE_OFF never; at most four engine wakes start at a time, the rest queue. -/
def requestWake (i : Nat) (s : State) : State :=
  let d := pdOf s i
  if d.retired || decide (d.policy = .forceOff) then s
  else if d.closed then modPd s i (fun d => { d with wakeWanted := true })
  else match d.st with
    | .on | .waking => s
    | .off | .retain =>
      if 36 ≤ i then modPd s i (fun d => { d with st := .waking })
      else if s.power.wakesNow < 4 then
        let s := { s with power := { s.power with wakesNow := s.power.wakesNow + 1 } }
        modPd s i (fun d => { d with st := .waking })
      else if d.wakeQueued then s
      else
        let s := { s with power := { s.power with wakeQueue := s.power.wakeQueue ++ [i] } }
        modPd s i (fun d => { d with wakeQueued := true })

/-- The memory port can start a transaction: powered, not held by an external master, configuration known (R401, R403, R405). DEDUCED, log entry 25. -/
def mpReady (s : State) : Bool :=
  decide ((pdOf s 48).st = .on) && !s.mp.holdActive && !s.mp.backoffPending && !s.mp.statusDue && !s.mp.supplyLost


/-- The write that runs on the flash. -/
def runningOp (s : State) : Option (Nat × WinOp) := (winOps s).find? (fun c => c.2.started)
/-- A program or erase runs on the flash. -/
def flashBusy (s : State) : Bool := (runningOp s).isSome
/-- Suspend of programs and erases is in use (R385). -/
def suspendUsed (s : State) : Bool := s.mp.suspendOk && s.mp.suspendEn

/-- A queued or running XIP program or erase covers part of the range: reads of it wait (R397). -/
def xipBlocked (s : State) (a n : Nat) : Bool :=
  (winOps s).any (fun c => c.2.kind != .winWr && decide (a < c.2.addr + c.2.data.length) && decide (c.2.addr < a + n))

/-- A demand read (R393, class 1). -/
def isDemand (w : MpWork) : Bool :=
  match w with
  | .line _ (.host _) => true
  | .line _ .entry => true
  | .line _ (.fetch _) => false
  | .line _ (.prefetch _) => false
/-- The flash line of a piece of work. -/
def workLine (w : MpWork) : Nat := match w with | .line u _ => u
/-- A read can run beside the program or erase in progress: a demand read suspends it where suspend is used, others wait; a read of
the range of an XIP write waits (R385, R397). -/
def workOpen (s : State) (w : MpWork) : Bool :=
  (!flashBusy s || (isDemand w && suspendUsed s)) && !xipBlocked s (workLine w) 256

/-- The transaction that comes next, by the priority order of R393. Flash programs and erases end at their status polls. -/
def nextTransaction (s : State) : Option Transaction :=
  if !mpReady s then none else
  match s.mp.work.find? (fun w => isDemand w && workOpen s w) with
  | some w => some (.read w)
  | none =>
    if 98304 < buffered s then some .drain
    else if !flashBusy s && (winOps s) != [] && s.mp.flashOk then some .flash
    else if 0 < buffered s then some .drain
    else (s.mp.work.find? (fun w => !isDemand w && workOpen s w)).map .read

/-- An idle bus starts the transaction that comes next (R393). DEDUCED, log entry 61. -/
def beginNext (s : State) : State :=
  if s.mp.current.isSome then s else { s with mp := { s.mp with current := nextTransaction s } }
/-- The transaction on the bus ends, done or broken off: in the gap the memory port takes its slew (R43). -/
def endTransaction (s : State) : State :=
  { s with mp := { s.mp with current := none, slewApplied := bits s.board.slew 19 16 } }

/-- Queue memory-port work once; it wakes the memory port, and an idle bus starts it (R393, R407). -/
def queueWork (w : MpWork) (s : State) : State :=
  beginNext (requestWake 48 (if s.mp.work.contains w then s else { s with mp := { s.mp with work := s.mp.work ++ [w] } }))

/-- Queue a prefetch after a read of line `u` by port `p` (R392). -/
def queuePrefetch (p : Port) (u : Nat) (s : State) : State :=
  match hostRegion s u with
  | some r =>
    if bit r.attr 0 then
      (List.range s.mp.prefetchDepth).foldl (fun s i =>
        let v := u + 256 * (i + 1)
        if v < r.base + r.length ∧ (cachedLine s v).isNone then queueWork (.line v (.prefetch p)) s else s) s
    else s
  | none => s

/-- Extend a measurement register (R248). -/
def extendMeas (i : Nat) (v : Bytes) (s : State) : State :=
  let m := s.meas.getD i measReset
  { s with meas := s.meas.set i { m with value := sha384 (m.value ++ v), extends_ := sat 0xFFFF (m.extends_ + 1) } }

/-- A window whose frontier reaches its end extends its register and is DONE (R254). -/
def finishWindow (w : Nat) (s : State) : State :=
  let n := s.snoops.getD w {}
  if n.state = 2 ∧ n.length ≤ n.fed.length then
    raise 18 0 w none (extendMeas w (sha384 n.fed) { s with snoops := s.snoops.set w { n with state := 3 } })
  else s

/-- Bytes at the frontier of a MEASURING window enter its digest (R253). -/
def feedWindow (w a : Nat) (b : Bytes) (s : State) : State :=
  let n := s.snoops.getD w {}
  let f := n.base + n.fed.length
  if n.state = 2 ∧ a ≤ f ∧ f < a + b.length then
    let take := (b.drop (f - a)).take (n.length - n.fed.length)
    finishWindow w { s with snoops := s.snoops.set w { n with fed := n.fed ++ take } }
  else s

/-- A read of a byte of an ARMED window starts it (R252). -/
def armWindow (w a n : Nat) (s : State) : State :=
  let x := s.snoops.getD w {}
  if x.state = 1 ∧ a < x.base + x.length ∧ x.base < a + n then { s with snoops := s.snoops.set w { x with state := 2 } } else s

/-- What the Tongs do with bytes a host reads from the window (R252, R253). -/
def tongsRead (a : Nat) (b : Bytes) (s : State) : State :=
  (List.range 8).foldl (fun s w => feedWindow w a b (armWindow w a b.length s)) s

/-- The range holds bytes of a MEASURING or DONE window: write-locked (R255). -/
def measured (s : State) (a n : Nat) : Bool :=
  s.snoops.any (fun x => decide (2 ≤ x.state) && decide (a < x.base + x.length) && decide (x.base < a + n))

/-- The windows a refused write touches. -/
def lockedWindow (s : State) (a n : Nat) : Nat :=
  ((s.snoops.zipIdx.find? (fun c => decide (2 ≤ c.1.state) && decide (a < c.1.base + c.1.length) && decide (c.1.base < a + n))).map (·.2)).getD 0

/-- The lines of a range that are not cached are queued for a port's read (R63). -/
def queueMisses (p : Port) (a n : Nat) (s : State) : State :=
  (linesOf a n).foldl (fun s u => if (cachedLine s u).isSome then s else queueWork (.line u (.host p)) s) s

/-- A host read of the window: the bytes when every line is cached or the miss is served in time, with prefetch and Tongs;
none when it is not, the lines then being queued (R62, R63, R391 to R393). DESIGN CHOICE, log entry 60. -/
def windowRead (p : Port) (a n : Nat) (ready : Bool) (s : State) : State × Option Bytes :=
  let xip := (portOf s p).xip
  let ls := linesOf a n
  if (allCached s a n || (ready && mpReady s)) && !xipBlocked s a n then
    let s := ls.foldl (fun s u => queuePrefetch p u (fillLine u xip s)) s
    let b := windowBytes s a n
    (tongsRead a b s, some b)
  else (queueMisses p a n s, none)

/-- The pages a 4 KB sector's rewrite programs: each of the 16 that is not all 0xFF (R396). -/
def rewritePages (sector : Bytes) : List (Option Nat) :=
  (List.range 16).filterMap (fun i => if (slice sector (256 * i) 256).all (· == 0xFF) then none else some (some i))

/-- An accepted SECTOR ERASE drops the cached lines of its sector (the worked example of R409; DEDUCED, log entry 40). -/
def dropLines (a n : Nat) (s : State) : State :=
  { s with mp := { s.mp with cache := s.mp.cache.filter (fun l => !(linesOf a n).contains l.addr) } }

/-- Replace a window write of a port. -/
def setOp (p : Nat) (o : WinOp) (s : State) : State :=
  modPort s p (fun x => { x with winQueue := x.winQueue.map (fun y => if y.seq = o.seq then o else y) })
/-- Take a window write out of a port's queue. -/
def dropOp (p seq : Nat) (s : State) : State :=
  modPort s p (fun x => { x with winQueue := x.winQueue.filter (fun y => y.seq != seq) })

/-- The cache lines a write covers take the flash's content (R395). -/
def refreshLines (a n : Nat) (s : State) : State :=
  let ls := linesOf a n
  { s with mp := { s.mp with cache := s.mp.cache.map (fun l => if ls.contains l.addr then { l with data := flashRead s l.addr 256 } else l) } }

/-- The end of a write: its entry leaves the queue; an XIP port's WIP and WEL clear, ERR tells a failure (R83, R395). DEDUCED, log entry 40. -/
def endOp (p : Nat) (o : WinOp) (ok : Bool) (s : State) : State :=
  let s := refreshLines o.addr o.data.length (dropOp p o.seq s)
  if o.kind = .winWr then s else modPort s p (fun x => { x with wip := false, wel := false, err := x.err || !ok })

/-- Work out the flash commands of a write (R396, R397). A rewrite takes in its whole sector, so forwarding covers it. -/
def planOp (s : State) (o : WinOp) : WinOp :=
  match o.kind with
  | .erase => { o with started := true, steps := [none] }
  | .program => { o with started := true, steps := [some 0] }
  | .winWr =>
    let old := flashRead s o.addr o.data.length
    if old = o.data then { o with started := true, steps := [] }
    else if List.zipWith (· &&& ·) old o.data = o.data then { o with started := true, steps := [some 0] }
    else
      let base := o.addr / 4096 * 4096
      let merged := overlapPut base (flashRead s base 4096) o.addr o.data
      { o with started := true, addr := base, data := merged, steps := none :: rewritePages merged }

/-- Start the oldest write when none runs; writes that change nothing end at once. The count bounds the writes looked at. -/
def startOps : Nat → State → State
  | 0, s => s
  | f + 1, s =>
    if mpReady s && s.mp.flashOk then
      match winOps s with
      | [] => s
      | (p, o) :: _ =>
        if o.started then s else
        let o' := planOp s o
        if o'.steps = [] then startOps f (endOp p o' true (setOp p o' s)) else setOp p o' s
    else s

/-- A flash write enters its port's queue (R395). -/
def enqueueOp (p : Nat) (kind : WinKind) (a : Nat) (v : Bytes) (s : State) : State :=
  let seq := ((winOps s).map (fun c => c.2.seq + 1)).foldl max 0
  let s := modPort s p (fun x => { x with winQueue := x.winQueue ++ [{ kind := kind, seq := seq, addr := a, data := v }] })
  startOps 16 (requestWake 48 s)

/-- What a step of a write leaves in the flash when it verifies: place and octets (R396, R397). -/
def stepResult (s : State) (o : WinOp) (st : Option Nat) : Nat × Bytes :=
  match st with
  | none => (o.addr, List.replicate 4096 0xFF)
  | some i =>
    if o.data.length = 4096 ∧ o.kind = .winWr then (o.addr + 256 * i, slice o.data (256 * i) 256)
    else if o.kind = .program then (o.addr, List.zipWith (· &&& ·) (flashRead s o.addr o.data.length) o.data)
    else (o.addr, o.data)

/-- A write fails: WRITE_FAIL is raised, its address recorded, and what its range holds then is open (R398, R399). DESIGN CHOICE, log entry 8. -/
def failOp (p : Nat) (o : WinOp) (s : State) : State :=
  let r := stepResult s o (o.steps.head?.getD none)
  let bad := (List.range r.2.length).map (fun i => Config.brokenFlashByte s.mono (r.1 + i))
  let s := { s with mp := { s.mp with wfSource := if o.kind = .winWr then 0 else 1, wfPort := p, wfAddr := r.1 / 256 * 256, interrupted := false } }
  startOps 16 (endOp p o false (raise 4 2 p none (flashPut r.1 bad s)))

/-- The running step of the oldest write has verified: its content stands, and the next step or write begins (R398). -/
def stepDone (p : Nat) (o : WinOp) (s : State) : State :=
  match o.steps with
  | [] => startOps 16 (endOp p o true s)
  | st :: rest =>
    let r := stepResult s o st
    let s := flashPut r.1 r.2 { s with mp := { s.mp with interrupted := false } }
    if rest = [] then startOps 16 (endOp p o true s) else setOp p { o with steps := rest, repeated := false } s

/-- What a cut-off write may leave in any state (R399): the page of a program, the sector of an erase or of a rewrite. DESIGN CHOICE, log entry 8. -/
def tornRange (s : State) : Option (Nat × Nat) :=
  (runningOp s).map (fun c => if c.2.data.length = 4096 then (c.2.addr, 4096) else (c.2.addr / 256 * 256, 256))
/-- The flash after a power loss or a full reset: the target of a running program or erase holds free values (R399; DESIGN CHOICE, log entry 8). -/
def tornFlash (s : State) : Assoc Byte :=
  match tornRange s with
  | some r => memWrite 0xFF s.mp.flash r.1 ((List.range r.2).map (fun i => Config.brokenFlashByte s.mono (r.1 + i)))
  | none => s.mp.flash

end Sys2Proof.Machine
end

