-- ==== Sys2Proof/Machine/Regs.lean ====
section
/-! DEFINITION. What every register reads as, on every port and in every mode (R87 to R114 and the register tables). -/

namespace Sys2Proof.Machine

/-- The Egg timers count (R420). -/
def wdtCounts (s : State) : Bool := decide (s.boot.mode = .operational) || decide (s.boot.mode = .debug)
/-- ELAPSED_MS (R420). -/
def wdtElapsed (s : State) (p : Nat) : Nat :=
  let w := (portOf s p).wdt
  if w.en && wdtCounts s then sat 0xFFFF ((s.mono - w.start) * 1000 / 32768) else 0
/-- The service window is open (R421). -/
def wdtOpen (s : State) (p : Nat) : Bool :=
  let w := (portOf s p).wdt
  w.en && wdtCounts s && decide (w.windowMs ≤ wdtElapsed s p)

/-- Health groups a port sees (R89): its own, those of blocks 4 to 20, and on the operator port all. DEDUCED, log entry 35. -/
def groupSeen (s : State) (p b : Nat) : Bool := decide (b < 21) && (decide (4 ≤ b) || b == p || isOperator s p)

/-- `HEALTH_SUMMARY` as a port sees it (R109). -/
def healthSummary (s : State) (p : Nat) : Nat :=
  let bs := (List.range 21).filter (fun b => groupSeen s p b && (blockOf s b).event != 0)
  (bs.foldl (fun m b => max m (blockTop (blockOf s b))) 0) * 2 ^ 24 + (bs.map (2 ^ ·)).sum

/-- BLOCK_STATE of the TH block (R432). -/
def thState (s : State) : Nat :=
  b2n (s.board.meshIntact.getD 0 false) + 2 * b2n (s.board.meshIntact.getD 1 false) + 4 * b2n (s.board.lidAsserted.getD 0 false)
    + 8 * b2n (s.board.lidAsserted.getD 1 false) + 16 * b2n s.board.onVbat + 32 * b2n s.thermos.quarantine
    + 64 * b2n (bit s.thermos.tamperArm 8)
/-- Glitch alarms of the last 1 s (R428, R429). -/
def recentGlitches (s : State) : List Nat := s.board.glitches.filter (fun t => decide (s.mono < t + 32768))
/-- BLOCK_STATE of the CLK block (R428). -/
def clkState (s : State) : Nat :=
  b2n s.board.pllLocked + 2 * b2n s.board.rtcRunning + 4 * sat 3 (recentGlitches s).length
/-- BLOCK_STATE of a block (R411). -/
def blockState (s : State) (b : Nat) : Nat := if b = 14 then thState s else if b = 17 then clkState s else 0

/-- Block `STATUS` (R411). -/
def healthStatus (s : State) (b : Nat) : Nat :=
  let h := blockOf s b
  h.wrongState * 2 ^ 16 + b2n h.handling * 2 ^ 15 + h.newest * 2 ^ 12 + (if h.sticky then 0 else h.history.length) * 2 ^ 8 + blockState s b

/-- Block `SEV_CFG` as a port reads it (R411, R412). -/
def sevCfg (s : State) (p b : Nat) : Nat :=
  let h := blockOf s b
  (if b = p then (portOf s p).histView * 2 ^ 28 else 0) + b2n h.sticky * 2 ^ 24
    + ((List.range (sourceCount b)).map (fun k => h.sevs.getD k 0 * 2 ^ (3 * k))).sum

/-- `HIST` under the reading port's view (R412). -/
def histWord (s : State) (p b : Nat) : Nat :=
  let h := blockOf s b
  let v := (portOf s p).histView
  if h.sticky then 0 else
  match h.history[v % 8]? with
  | some e => if 8 ≤ v then e.stamp else e.seq * 2 ^ 28 + 2 ^ 27 + e.merged * 2 ^ 24 + e.sources * 2 ^ 16 + e.detail
  | none => 0

/-- Health groups a port may read: in RECOVERY `HP_0` has the whole health page (R89, R95; DEDUCED, log entry 35). -/
def groupRead (s : State) (p b : Nat) : Bool := groupSeen s p b || (decide (b < 21) && decide (s.boot.mode = .recovery) && p == 0)

/-- A health-page word (R87). -/
def healthWord (s : State) (p a : Nat) : Nat :=
  let b := (a - 0x600) / 16
  if !groupRead s p b then 0 else
  match a % 16 with
  | 0 => healthStatus s b
  | 4 => (blockOf s b).event
  | 8 => sevCfg s p b
  | _ => histWord s p b

/-- `PORT_STATUS` (R100). -/
def portStatus (s : State) (p : Nat) : Nat :=
  let x := portOf s p
  x.warmCause * 256 + b2n x.grant.rings.isSome * 8 + b2n x.fetch.isSome * 4 + b2n (isOperator s p) * 2 + b2n x.xip
/-- `HP_LAST_WR` (R106). -/
def lastWr (x : PortState) : Nat := x.lwSeq * 2 ^ 16 + x.lwOpcode * 256 + x.lwOutcome
/-- `WDT_STATUS` (R420). -/
def wdtStatus (s : State) (p : Nat) : Nat :=
  let w := (portOf s p).wdt
  wdtElapsed s p * 2 ^ 16 + w.fails * 2 ^ 12 + w.cause * 2 ^ 9 + b2n (w.half && wdtCounts s) * 256 + b2n (wdtOpen s p) * 128 + b2n w.lock * 64
    + b2n w.acting * 32 + w.action * 2 + b2n w.en
/-- `MODE` (R107). -/
def modeWord (s : State) : Nat := s.boot.resetCause * 2 ^ 12 + b2n (!complementMet s) * 256 + modeCode s.boot.mode
/-- `LIFECYCLE` (R108). While no valid Thermos exists RE_ROOTED reads 1 (R137). -/
def lifecycleWord (s : State) : Nat :=
  b2n s.thermos.debugPending * 2 ^ 16 + b2n s.board.claimEn * 256 + b2n (s.thermos.reRooted || !s.thermos.valid) * 16
    + lifecycleCode (lifecycle s)
/-- `PUSH_STATUS` (R110). -/
def pushStatus (x : PortState) : Nat :=
  x.lastRing * 2 ^ 16 + b2n x.refusedAny * 2 ^ 12 + x.lastResult * 256 + x.pushBuf.length
/-- `GRANT_ARENA_MAP` (R111, R112). -/
def arenaMap (s : State) (p : Nat) : Nat :=
  let x := portOf s p
  let w := x.arenaSel
  (List.range 32).foldl (fun a i =>
    let on := if w < 6 then x.grant.pantry.contains (32 * w + i)
              else x.grant.larder.contains (32 * (w - 6) + i) && decide (32 * (w - 6) + i < larderGranules s)
    if on then a + 2 ^ i else a) 0
/-- `GRANT_RINGS` (R111). -/
def grantRings (x : PortState) : Nat := match x.grant.rings with | some (a, b) => b * 2 ^ 16 + a | none => 0

/-- A port-page word (R97 to R111). -/
def portWord (s : State) (p a : Nat) : Nat :=
  let x := portOf s p
  match a with
  | 0x000 => 0x65160000 + p * 256 + 0x0B
  | 0x004 => portStatus s p
  | 0x008 => x.scratch * 2 ^ 16
  | 0x00C => x.lanes.toNat
  | 0x010 => x.timing.toNat
  | 0x014 => lastWr x
  | 0x018 => b2n x.crcEn
  | 0x020 => x.wdt.timeoutMs * 2 ^ 16 + x.wdt.windowMs
  | 0x028 => wdtStatus s p
  | 0x030 => modeWord s
  | 0x034 => lifecycleWord s
  | 0x038 => leAt uid 0 4
  | 0x03C => leAt uid 4 4
  | 0x040 => leAt uid 8 4
  | 0x044 => leAt uid 12 4
  | 0x050 => topBits s p % 2 ^ 32
  | 0x054 => topBits s p / 2 ^ 32
  | 0x060 => healthSummary s p
  | 0x084 => x.ringArg0.toNat
  | 0x088 => x.ringArg1.toNat
  | 0x08C => x.ringArg2.toNat
  | 0x090 => x.cmdSeq * 2 ^ 16 + x.cmdLast * 256 + x.cmdResult
  | 0x094 => x.queryId.toNat
  | 0x098 => x.queryState.toNat
  | 0x0B0 => pushStatus x
  | 0x0C0 => grantRings x
  | 0x0C8 => x.arenaSel
  | 0x0CC => arenaMap s p
  | 0x0D0 => x.grant.winRd
  | 0x0D4 => x.grant.winWr
  | _ => 0

/-- A word of the push buffer diagnostics page (R166). POLL_DEMAND shows its low 32 bits (DESIGN CHOICE, log entry 93). -/
def pushWord (s : State) (p a : Nat) : Nat :=
  let x := portOf s p
  if a < 0x280 then
    let r := x.pushLog.getD ((a - 0x200) / 8) {}
    if a % 8 = 0 then r.result * 2 ^ 24 + r.reason * 2 ^ 16 + r.ring else r.index * 2 ^ 16 + r.wrSeq
  else match a with
    | 0x280 => x.pushLogPos
    | 0x284 => x.pushDeposited
    | 0x288 => x.pushRefused
    | 0x290 => pollDemand s p / 2 ^ 15 % 2 ^ 32
    | 0x294 => pollFactor s p
    | _ => 0

/-- Trims accepted in the last 24 h (R341). -/
def recentTrims (s : State) : List (Nat × Nat) := s.thermos.trimLog.filter (fun c => decide (s.mono < c.1 + 2831155200))
/-- TRIM_LEFT (R342). -/
def trimLeft (s : State) : Nat := 1966080 - ((recentTrims s).map (·.2)).sum

/-- RSTATE byte (R357). -/
def rstateByte (r : DomRec) : Nat := r.rateClass + 16 * b2n r.held + 32 * b2n r.unclean + 64 * b2n r.debugGap
/-- Free schedule-pool entries (R357). -/
def poolFree (s : State) : Nat := 128 - s.thermos.pool.length

/-- A meter register, for the operator port (R358). -/
def meterWord (s : State) (a : Nat) : Nat :=
  let d := s.meterSel
  let r := domOf s d
  let ex := domExists s d
  match a with
  | 0x418 => d
  | 0x41C => (s.thermos.pool.filter (fun e => e.domain == d)).length * 256 + b2n ex * 128 + (if ex then rstateByte r else 0)
  | 0x448 => if ex then r.startMono % 2 ^ 32 else 0
  | 0x44C => if ex then r.startMono / 2 ^ 32 else 0
  | 0x450 => s.thermos.intervalS
  | 0x454 => s.thermos.nextIntervalS
  | 0x458 => s.thermos.boundaryMono % 2 ^ 32
  | 0x45C => s.thermos.boundaryMono / 2 ^ 32
  | 0x460 => s.thermos.recSeq % 2 ^ 32
  | 0x464 => s.thermos.recSeq / 2 ^ 32
  | 0x468 => poolFree s * 2 ^ 16 + s.thermos.backlog.length
  | _ =>
    if 0x420 ≤ a ∧ a < 0x448 then
      let c := if ex then (liveMeters s d).getD ((a - 0x420) / 8) 0 else 0
      if a % 8 = 0 then c % 2 ^ 32 else c / 2 ^ 32
    else 0

/-- A word of the time and meter page (R342, R358). -/
def timeWord (s : State) (p a : Nat) : Nat :=
  match a with
  | 0x400 => s.mono % 2 ^ 32
  | 0x404 => s.mono / 2 ^ 32 % 2 ^ 16
  | 0x408 => wallOf s % 2 ^ 32
  | 0x40C => wallOf s / 2 ^ 32 % 2 ^ 32
  | 0x414 => trimLeft s * 256 + b2n s.thermos.setPending * 4 + b2n s.trimRefused * 2 + b2n s.thermos.wallSet
  | _ => if isOperator s p then meterWord s a else 0

/-- `SNOOP_STATUS_w` (R259). -/
def snoopWord (s : State) (w : Nat) : Nat :=
  let n := s.snoops.getD w {}
  n.state * 2 ^ 30 + b2n n.eager * 2 ^ 29 + b2n (s.meas.getD w measReset).tainted * 2 ^ 28 + n.restarts * 2 ^ 20 + n.fed.length / 4096
/-- A word of the measurement read-back page (R259). -/
def measWord (s : State) (p a : Nat) : Nat :=
  let x := portOf s p
  let i := x.measSel
  let m := s.meas.getD i measReset
  let n := s.snoops.getD i {}
  if a = 0x500 then i
  else if a = 0x504 then
    m.extends_ * 2 ^ 16 + (if i < 8 then n.taints else 0) * 256 + (if i < 8 ∧ n.state = 3 then 2 else 0) + b2n m.tainted
  else if 0x510 ≤ a ∧ a < 0x540 then leAt m.value (a - 0x510) 4
  else if 0x540 ≤ a ∧ a < 0x560 then snoopWord s ((a - 0x540) / 4)
  else if a = 0x560 then x.grant.extendMask
  else 0

/-- A bank holds an allocation (R361). -/
def bankAllocated (s : State) (b : Nat) : Bool :=
  decide (b < 2) || s.ports.any (fun x => x.grant.pantry.any (fun g => g / 32 + 2 == b))
/-- An engine is active: it holds work, or it wakes (R444). -/
def engineActive (d : Pd) : Bool := d.running.isSome || d.suspended.isSome || decide (d.st = .waking)
/-- A domain is ON or WAKING. -/
def powered (d : Pd) : Bool := decide (d.st = .on) || decide (d.st = .waking)
/-- The charge of a switched domain in mW (R444). -/
def domainCharge (i : Nat) (d : Pd) : Nat :=
  if i < 16 then (if engineActive d then 140 else 0)
  else if i < 24 then (if engineActive d then 110 else 0)
  else if i < 36 then (if engineActive d then 160 else 0)
  else if i < 44 then (if powered d then 10 else if d.st = .retain then 1 else 0)
  else if i < 48 then (if powered d then 10 else 0)
  else if i = 48 then (if powered d then 40 else 0)
  else if powered d then 20 else 0
/-- The total charge (R444). -/
def totalCharge (s : State) : Nat := 100 + ((List.range 50).map (fun i => domainCharge i (pdOf s i))).sum
/-- The effective cap (R444, R446). -/
def effectiveCap (s : State) : Nat := if s.power.throttled then s.power.capMw / 2 else s.power.capMw

/-- STATE of a power domain (R453). -/
def pdStateCode : PdState → Nat
  | .off => 0 | .retain => 1 | .on => 2 | .waking => 3
/-- POLICY of a power domain (R453). -/
def policyCode : Policy → Nat
  | .auto => 0 | .forceOn => 1 | .forceOff => 2
/-- The eight fields of a `PD_POLICY` word. -/
def pdPolicyWord (s : State) (w : Nat) : Nat :=
  ((List.range 8).map (fun i => let d := pdOf s (8 * w + i)
    if 8 * w + i < 50 then (policyCode d.policy + 4 * b2n d.wakeBist) * 16 ^ i else 0)).sum
/-- The eight fields of a `PD_STATE` word. -/
def pdStateWord (s : State) (w : Nat) : Nat :=
  ((List.range 8).map (fun i => let d := pdOf s (8 * w + i)
    if 8 * w + i < 50 then (pdStateCode d.st + 4 * b2n d.fenced + 8 * b2n d.retired) * 16 ^ i else 0)).sum
/-- `COMPLEMENT` (R453). -/
def complementWord (s : State) : Nat :=
  b2n (!complementMet s) * 2 ^ 24 + inService s 36 8 * 2 ^ 16 + inService s 24 12 * 2 ^ 12 + inService s 16 8 * 256
    + inService s 8 8 * 16 + inService s 0 8
/-- A power register (R453). -/
def powerWord (s : State) (a : Nat) : Nat :=
  match a with
  | 0x800 => effectiveCap s * 2 ^ 16 + s.power.capMw
  | 0x804 => totalCharge s * 2 ^ 16 + unsignedOf 8 s.power.tj * 256 + b2n s.power.capClaim.isSome * 2 + b2n s.power.throttled
  | 0x808 => s.power.idleGateUs
  | 0x80C => s.power.holdWakeUs
  | 0x810 => s.power.idleFlushMs
  | 0x814 => complementWord s
  | _ =>
    if 0x820 ≤ a ∧ a < 0x83C then pdPolicyWord s ((a - 0x820) / 4)
    else if 0x840 ≤ a ∧ a < 0x85C then pdStateWord s ((a - 0x840) / 4)
    else 0

/-- `SCRUB_STATUS.PROGRESS` (R374): 100 when a pass has just ended, then what the pass in progress has visited or skipped, which the spec
does not tie to time: a free value of 0 to 100 (DESIGN CHOICE, log entry 92). -/
def scrubProgressOf (s : State) : Nat := if s.mono = s.mem.scrubMark then s.mem.scrubProgress else Config.scrubProgress s.mono % 101
/-- A memory register (R380). -/
def memWord (s : State) (a : Nat) : Nat :=
  let m := s.mem
  match a with
  | 0x900 => b2n m.scrubLarder * 512 + m.scrubPeriod
  | 0x904 => m.whiskLastMs * 2 ^ 16 + m.whiskPeriod
  | 0x908 => m.scrubPasses * 2 ^ 16 + scrubProgressOf s
  | 0x90C => m.ceCount
  | 0x910 => m.ueAddr
  | 0x914 => m.ueCount * 2 ^ 16 + m.ueKind * 16 + m.ueSource
  | 0x918 => m.bankSel
  | 0x91C => sparesFree s m.bankSel * 2 ^ 24 + factoryRemaps s m.bankSel * 256 + fieldRemaps s m.bankSel
  | 0x920 => b2n (m.larderMB != 0) * 2 ^ 31 + m.larderMB * 31 / 2 * 2 ^ 16 + m.tagFails
  | _ => 0

/-- A window write or archive change is in progress (R408). -/
def writeBusy (s : State) : Bool := (runningOp s).isSome
/-- The device drives the memory-port bus: work it can serve stands queued or in progress (R401; DEDUCED, log entry 25). -/
def mastering (s : State) : Bool := mpReady s && (s.mp.work != [] || (runningOp s).isSome || decide (0 < buffered s))
/-- A memory-port register (R408). -/
def mpWord (s : State) (a : Nat) : Nat :=
  let m := s.mp
  match a with
  | 0x940 => b2n m.suspendEn * 32 + b2n m.xselInvalidate * 16 + m.backoffUs
  | 0x944 => m.xipWays * 256 + m.prefetchDepth
  | 0x948 => b2n m.flashOk * 2 ^ 31 + b2n (m.suspendOk && m.suspendEn) * 2 ^ 29 + b2n m.holdActive * 2 ^ 28 + b2n (mastering s) * 2 ^ 27
      + b2n (writeBusy s) * 2 ^ 26 + m.densityLog2 * 2 ^ 16 + m.readDummy
  | 0x94C => m.flashId.toNat
  | 0x950 => (if m.suspendOk && m.suspendEn then m.suspendUs else 0) * 2 ^ 16 + m.eraseMaxMs
  | 0x954 => m.collisions * 2 ^ 16 + m.longestUs
  | 0x958 => m.wfSource * 2 ^ 30 + m.wfPort * 2 ^ 28 + m.wfAddr
  | _ => 0

/-- `CUP_STATUS` (R200). -/
def cupStatus (s : State) : Nat :=
  ((List.range 4).map (fun p => b2n (s.claims.getD p none).isSome * 2 ^ (28 + p) + s.floorFree.getD p 0 * 2 ^ (5 * p))).sum
    + s.sharedFree * 2 ^ 20
/-- A scheduling register (R200). -/
def schedWord (s : State) (a : Nat) : Nat :=
  let d := s.domSel
  match a with
  | 0x980 => s.ageLimit
  | 0x984 => cupStatus s
  | 0x988 => d
  | 0x98C => if domExists s d then (domOf s d).dupShare * 2 ^ 16 + (domOf s d).weight else 0
  | 0x990 => if !domExists s d then 0 else
    (s.dups.filter (fun r => r.domain == d && r.closed)).length * 2 ^ 16 + (s.dups.filter (fun r => r.domain == d && !r.closed)).length
  | _ => 0

/-- `WDT_LOCK_CFG_p` and `WDT_LOCK_p` (R424). -/
def lockWord (s : State) (a : Nat) : Nat :=
  let w := (portOf s ((a - 0x890) / 8)).wdt
  if a % 8 = 0 then w.lockCfg.toNat else b2n w.lock * 256 + w.lockAction

/-- An operator-page word, for the operator port (R113). `METER_CTL` reads 0: a checkpoint is one step here (DESIGN CHOICE, log entry 17). -/
def operatorWord (s : State) (a : Nat) : Nat :=
  if a < 0x880 then powerWord s a
  else if a < 0x8C0 then
    (if a = 0x880 then s.boot.faultLevel
     else if a = 0x884 then b2n s.boot.forceStop * 256 + s.boot.aliveRate
     else if a = 0x888 then s.thermos.tamperArm
     else if 0x890 ≤ a ∧ a < 0x8B0 then lockWord s a
     else 0)
  else if a = 0x8C0 then s.board.spreadApplied * 256 + s.board.spreadDepth
  else if a = 0x8C4 then s.board.slew
  else if a < 0x900 then 0
  else if a < 0x940 then memWord s a
  else if a < 0x980 then mpWord s a
  else if a < 0x9C0 then schedWord s a
  else 0

/-- JTAG boundary scan is available (R46, R131). -/
def jtagOpen (s : State) : Bool :=
  match s.boot.mode with
  | .factory | .debug | .recovery => true
  | .boot | .operational | .quarantine => false

/-- A word of the factory and debug page (R114, R131, R433). -/
def factoryWord (s : State) (p a : Nat) : Nat :=
  if a = 0xC00 then
    (if s.boot.mode = .factory ∨ (s.boot.mode = .debug ∧ isOperator s p = true) then
      s.thermos.sessions * 256 + b2n (jtagOpen s) * 2 + b2n s.boot.testRoot else 0)
  else if s.boot.mode = .factory then
    (match a with
     | 0xC40 => s.fiTarget.toNat
     | 0xC44 => b2n s.fiReact * 2
     | 0xC48 => s.fiEccAddr
     | 0xC4C => s.fiEccBits
     | _ => 0)
  else 0

/-- A register word as a port reads it; reserved and invisible words read zero (R89, R93). -/
def regWord (s : State) (p a : Nat) : Nat :=
  if a < 0x100 then portWord s p a
  else if a < 0x200 then midWord s p ((a - 0x100) / 4)
  else if a < 0x400 then pushWord s p a
  else if a < 0x500 then timeWord s p a
  else if a < 0x600 then measWord s p a
  else if a < 0x800 then healthWord s p a
  else if a < 0xC00 then (if isOperator s p then operatorWord s a else 0)
  else if a < 0x1000 then factoryWord s p a
  else 0

/-- Words `a` to `a + n - 4`, each least significant byte first (R52, R92). -/
def regBytes (s : State) (p a n : Nat) : Bytes := (List.range (n / 4)).flatMap (fun i => toLe 4 (regWord s p (a + 4 * i)))

/-- The port-health byte (R74). -/
def portHealth (s : State) (p : Nat) : Nat :=
  let x := portOf s p
  b2n (s.boot.mode != .operational) * 64 + b2n x.linkEvt * 32 + b2n (healthSummary s p % 2 ^ 21 != 0) * 16 + b2n (wdtOpen s p) * 8
    + b2n (x.pushBuf.length == 8) * 4 + b2n x.fetch.isSome * 2 + b2n x.fetchDone

end Sys2Proof.Machine
end

