-- ==== Sys2Proof/Machine/Operands.lean ====
section
/-! DEFINITION. The operand forms of an entry: fields, addresses, fragment lists, cups, sources and destinations
(R148 to R151, R155, R179, R210, R234). -/

namespace Sys2Proof.Machine

/-- Key handle, auxiliary handle, TAG, SRC, SRC_LEN, DST, DST_LEN and PARAM of an entry (R148). -/
def slotOf (e : Bytes) : Nat := leAt e 4 2
def auxOf (e : Bytes) : Nat := leAt e 6 2
def tagOf (e : Bytes) : Nat := leAt e 8 8
def srcOf (e : Bytes) : Nat := leAt e 0x10 4
def srcLenOf (e : Bytes) : Nat := leAt e 0x14 4
def dstOf (e : Bytes) : Nat := leAt e 0x18 4
def dstLenOf (e : Bytes) : Nat := leAt e 0x1C 4
def paramOf (e : Bytes) : Bytes := slice e 0x20 32

/-- The entry names a fragment list (R149). -/
def isFragList (e : Bytes) : Bool := bit (srcLenOf e) 31
/-- Fragment count (R149). -/
def fragCount (e : Bytes) : Nat := srcLenOf e % 128
/-- The fragment count and the list's alignment are legal (R149). -/
def fragHeadOk (e : Bytes) : Bool :=
  decide (1 ≤ fragCount e) && decide (fragCount e ≤ 64) && bits (srcLenOf e) 30 7 == 0 && srcOf e % 8 == 0

/-- A cup-relative address (R179). -/
def isCup (a : Nat) : Bool := a / 0x1000000 == 0xF0
/-- Its ordinal. -/
def cupOrdinal (a : Nat) : Nat := a / 0x10000 % 256
/-- Cups a hamper holds. -/
def cupCount (x : Hamper) : Nat := x.floorCups + x.sharedCups
/-- A flash-window address (R360). -/
def isWindow (a : Nat) : Bool := decide (0x20000000 ≤ a) && decide (a < 0x30000000)

/-- The whole range satisfies R150 for the hamper; `flash` says that the operation permits flash sources. -/
def addrOk (s : State) (x : Hamper) (flash : Bool) (a n : Nat) : Bool :=
  if n = 0 then true
  else if isCup a then decide (cupOrdinal a < cupCount x) && decide (a % 0x10000 + n ≤ 0x1000)
  else if isWindow a then flash && decide (a + n ≤ 0x30000000) && winGranted s x.port false (a - 0x20000000) n
  else arenaGranted s x.port a n

/-- Place of a cup-relative byte in the hamper's cups. -/
def cupPlace (a : Nat) : Nat := cupOrdinal a * 4096 + a % 0x10000

/-- The octets at an address, as an entry reads them. -/
def readAt (s : State) (x : Hamper) (a n : Nat) : Bytes :=
  if n = 0 then [] else if isCup a then memRead 0 x.cups (cupPlace a) n
  else if isWindow a then windowBytes s (a - 0x20000000) n
  else readArena s a n

/-- What a read of an entry meets: errors in memory; the window cache, the Tongs and prefetch for a flash source. -/
def noteRead (a n : Nat) (s : State) : State :=
  if n = 0 ∨ isCup a = true then s
  else if isWindow a then
    let o := a - 0x20000000
    let s := (linesOf o n).foldl (fun s u => fillLine u false s) s
    tongsRead o (windowBytes s o n) s
  else
    let s := if inLarder a then requestWake 48 s else wakeBank s (bankOf a)
    touch a n s

/-- A read of this range can be served now: flash and Larder need the memory port (R369, R397, R441). -/
def readReady (s : State) (a n : Nat) : Bool :=
  if n = 0 ∨ isCup a = true then true
  else if isWindow a then (allCached s (a - 0x20000000) n || mpReady s) && !xipBlocked s (a - 0x20000000) n
  else if inLarder a then mpReady s || (decide ((pdOf s 48).st = .on) && larderHeld s a n)
  else true

/-- The poison of a range for an entry (R376, R379). -/
def poisonAt (s : State) (a n : Nat) : Option Nat := if n = 0 || isCup a || isWindow a then none else poisonIn s a n

/-- The descriptors of a fragment list: addresses and lengths (R149). -/
def fragments (b : Bytes) : List (Nat × Nat) := (chunks 8 b).map (fun d => (leAt d 0 4, leAt d 4 4))

/-- The ranges of an entry's source: the one range, or the fragments of a nonzero length. -/
def srcRanges (s : State) (x : Hamper) (e : Bytes) : List (Nat × Nat) :=
  if isFragList e then (fragments (readAt s x (srcOf e) (8 * fragCount e))).filter (fun f => f.2 != 0)
  else if srcLenOf e = 0 then [] else [(srcOf e, srcLenOf e)]

/-- Every fragment length has bit 31 zero (R149). -/
def fragLensOk (s : State) (x : Hamper) (e : Bytes) : Bool :=
  !isFragList e || (fragments (readAt s x (srcOf e) (8 * fragCount e))).all (fun f => decide (f.2 < 2 ^ 31))

/-- Total source length. -/
def rangesLen (l : List (Nat × Nat)) : Nat := (l.map (·.2)).sum

/-- The source address rules of R150: the list itself and every range. -/
def srcOk (s : State) (x : Hamper) (flash : Bool) (e : Bytes) : Bool :=
  (if isFragList e then addrOk s x flash (srcOf e) (8 * fragCount e) else true) &&
    (srcRanges s x e).all (fun f => addrOk s x flash f.1 f.2)

/-- The ranges an entry reads for its source, the descriptors first. -/
def readRanges (s : State) (x : Hamper) (e : Bytes) : List (Nat × Nat) :=
  (if isFragList e then [(srcOf e, 8 * fragCount e)] else []) ++ srcRanges s x e

/-- Meet the errors of a list of ranges. -/
def noteReads (l : List (Nat × Nat)) (s : State) : State := l.foldl (fun s f => noteRead f.1 f.2 s) s
/-- The first poison of a list of ranges. -/
def poisonOf (s : State) (l : List (Nat × Nat)) : Option Nat := l.findSome? (fun f => poisonAt s f.1 f.2)
/-- Every range can be read now. -/
def readsReady (s : State) (l : List (Nat × Nat)) : Bool := l.all (fun f => readReady s f.1 f.2)
/-- The octets of a list of ranges, joined. -/
def readAll (s : State) (x : Hamper) (l : List (Nat × Nat)) : Bytes := l.flatMap (fun f => readAt s x f.1 f.2)

/-- Wake what a source needs and queue its missing window lines (R391, R393, R441). -/
def awaitReads (l : List (Nat × Nat)) (s : State) : State :=
  l.foldl (fun s f =>
    if f.2 = 0 ∨ isCup f.1 = true then s
    else if isWindow f.1 then
      (linesOf (f.1 - 0x20000000) f.2).foldl (fun s u => if (cachedLine s u).isSome then s else queueWork (.line u .entry) s) s
    else if inLarder f.1 then requestWake 48 s else s) s

/-- Two ranges share a byte. -/
def overlaps (a n b m : Nat) : Bool := decide (0 < n) && decide (0 < m) && decide (a < b + m) && decide (b < a + n)

/-- Write octets at a destination: a cup, or the arena while it is still granted (R177, R363). -/
def writeAt (h : Nat) (a : Nat) (v : Bytes) (s : State) : State :=
  match hamperOf s h with
  | none => s
  | some x =>
    if v = [] then s
    else if isCup a then modHamper s h (fun y => { y with cups := memWrite 0 y.cups (cupPlace a) v })
    else if arenaGranted s x.port a v.length then writeArena a v s
    else s

/-- The destination's write has room in the Larder's write buffer, or needs none (R368): an output longer than the buffer starts on an
empty one, which drains as it is filled. DEDUCED, log entry 78. -/
def dstReady (s : State) (a n : Nat) : Bool := !inLarder a || decide (buffered s + min n 131072 ≤ 131072)

/-- PARAM as an inline result leaves it (R153). -/
def inlineParam (v : Bytes) : Bytes := fitTo 32 v

/-- Finish the current entry with a failure: whatever it wrote to DST reads zero (R178, R211, R234). A poisoned cup takes the
first entry to finish after its discovery (R376, kind 4). -/
def failEntry (h : Nat) (status detail : Nat) (s : State) : State :=
  match hamperOf s h with
  | none => s
  | some x =>
    if x.cupPoison then finishEntry (modHamper s h (fun y => { y with cupPoison := false })) h { status := 0x50, detail := 3 }
    else finishEntry s h { status := status, detail := detail }

/-- BAD_LENGTH with the length required (R155). -/
def shortEntry (h : Nat) (detail need : Nat) (s : State) : State :=
  match hamperOf s h with
  | none => s
  | some x => if x.cupPoison then failEntry h 0x23 detail s else finishEntry s h { status := 0x23, detail := detail, len := need }

/-- Finish the current entry OK, or OK_REPLAYED in a replay, its output written to DST first (R154, R177, R195). The issue number in the completion
of an operation other than ISSUE is 0 in a replay too (R153, R195; DESIGN CHOICE, log entry 95). With a poisoned cup the entry completes MEM_POISON and its output reads zero. -/
def finishOk (h : Nat) (a : Nat) (out : Bytes) (d : Done) (s : State) : State :=
  match hamperOf s h with
  | none => s
  | some x =>
    if x.cupPoison then
      finishEntry (modHamper (writeAt h a (zeros out.length) s) h (fun y => { y with cupPoison := false })) h { status := 0x50, detail := 3 }
    else finishEntry (writeAt h a out s) h { d with status := if x.replay.isSome then 0x01 else 0x00 }

/-- An alarm, a bus error or another message's event ends the entry a hamper runs: the octets it had written read zero; how
many it had written is open (R211, R222, R234, R244, R269; DESIGN CHOICE, log entry 9). -/
def strikeHamper (h status detail : Nat) (s : State) : State :=
  match hamperOf s h with
  | none => s
  | some x =>
    match currentEntry x with
    | none => s
    | some e =>
      let n := min (Config.writtenBefore h e.index) (dstLenOf e.bytes)
      failEntry h status detail (writeAt h (dstOf e.bytes) (zeros n) s)

/-- An occupant of a struck engine: a hamper's entry ends, a Tongs window restarts (R222, R244, R258). -/
def strikeOccupant (status detail : Nat) (o : Occupant) (s : State) : State :=
  match o with
  | .hamper h => strikeHamper h status detail s
  | .tongs w => restartWindow s w

/-- Health block and index of an engine domain. -/
def engineBlock (i : Nat) : Nat × Nat := if i < 16 then (9, i) else if i < 24 then (10, i - 16) else (11, i - 24)

/-- The domain of an occupant's hamper. -/
def occupantDomain (s : State) (o : Option Occupant) : Option Nat :=
  match o with
  | some (.hamper h) => (hamperOf s h).map (·.domain)
  | _ => none

/-- What an engine's two contexts hold is erased: its messages complete with a status. -/
def eraseEngine (status detail : Nat) (i : Nat) (s : State) : State :=
  let d := pdOf s i
  let s := [d.running, d.suspended].foldl (fun s o => match o with | some q => strikeOccupant status detail q s | none => s) s
  modPd s i (fun d => { d with running := none, suspended := none })
/-- An alarm reaches engines (R222, R244, R269): what they hold completes ALARM_ERASED; then every engine that held work, each one of a pair, is
fenced, ALARM_ERASE being raised. DEDUCED, log entry 82. -/
def alarmOn (l : List Nat) (s : State) : State :=
  let busy := (l.filter (fun i => (pdOf s i).running.isSome)).map (fun i => (i, occupantDomain s (pdOf s i).running))
  let s := busy.foldl (fun s c => eraseEngine 0x52 0 c.1 s) s
  busy.foldl (fun s c => fence c.1 (raise (engineBlock c.1).1 0 (engineBlock c.1).2 c.2 s)) s
/-- An alarm reaches one engine. -/
def alarmEngine (i : Nat) (s : State) : State := alarmOn [i] s

/-- An alarm that reaches every engine (R427). -/
def alarmAll (s : State) : State := alarmOn (List.range 36) s

end Sys2Proof.Machine
end

