-- ==== Sys2Proof/Machine/Keys.lean ====
section
/-! DEFINITION. Keys: the hierarchy, the device keys, slots, manifests and blobs of the archive, loading, the resolution
of a handle, and seals (R129, R278, R291 to R306, R312). -/

namespace Sys2Proof.Machine

/-- The device uses the test root (R129). -/
def onTestRoot (s : State) : Bool := decide (s.boot.mode = .debug) || decide (s.boot.mode = .factory)
/-- The test root TR (R129). -/
def testRootKey : Bytes := sha256 (ascii "SEPTOA SP-6516 DEBUG TEST ROOT" ++ uid)
/-- The DRS is present (R116, R309). -/
def drsPresent (s : State) : Bool := s.thermos.valid && s.thermos.drsOk && s.thermos.drs != []
/-- The root in use (R291). -/
def rootOf (s : State) : Option Bytes :=
  if onTestRoot s then some testRootKey else if drsPresent s then some s.thermos.drs else none

/-- The device key-encryption key (R292). -/
def kekOf (root : Bytes) : Bytes := kdf root "SP6516 DEVICE KEK" uid 32
/-- The private scalar of a device key, by its label (R291, R292). -/
def deviceScalar (root : Bytes) (label : String) : Nat := beNat (kdf (kekOf root) label uid 56) % (p384.n - 1) + 1
/-- Labels of the device keys 0xFF00 to 0xFF03 (R292, R293). -/
def deviceLabel (i : Nat) : String :=
  match i with
  | 0 => "SP6516 IDENTITY"
  | 1 => "SP6516 ENVELOPE"
  | 2 => "SP6516 METER"
  | _ => "SP6516 ATTEST"
/-- Public key of a device key, X ‖ Y. -/
def devicePub (root : Bytes) (i : Nat) : Bytes := ecPub p384 (deviceScalar root (deviceLabel i))
/-- A signature by a device key: ECDSA P-384, RFC 6979 nonce, SHA-384 (R250, R288, R334, R350). -/
def deviceSign (root : Bytes) (i : Nat) (body : Bytes) : Bytes :=
  let g := ecdsaSign p384 2 (deviceScalar root (deviceLabel i)) (sha384 body) []
  toBe 48 g.1 ++ toBe 48 g.2
/-- The internal check of a signature by a device key (R268). -/
def deviceSigned (root : Bytes) (i : Nat) (body sig : Bytes) : Bool :=
  match ecPoint p384 (devicePub root i) with
  | some q => ecdsaVerify p384 q (sha384 body) (beNat (slice sig 0 48)) (beNat (slice sig 48 48))
  | none => false
/-- The device key block (R335). -/
def deviceBlock (root : Bytes) : Bytes := uid ++ (List.range 4).flatMap (devicePub root)
/-- The check value of the DRS record (R292, R308). -/
def drsCheck (drs : Bytes) : Bytes := kdf drs "SP6516 DRS CHECK" uid 16
/-- The boot key (R292). -/
def bootKey (root bootId : Bytes) : Bytes := kdf (kekOf root) "SP6516 BOOT" bootId 32
/-- The Larder key: the two XTS keys (R292, R365). -/
def larderKey (root bootId : Bytes) : Bytes := kdf (bootKey root bootId) "SP6516 LARDER" [] 64
/-- The context key of a ring (R292). -/
def contextKey (root bootId : Bytes) (d r : Nat) : Bytes := kdf (bootKey root bootId) "SP6516 CONTEXT" (toLe 2 d ++ toLe 2 r) 32
/-- The wrap key of a top-level key (R292). -/
def topWrapKey (root : Bytes) (d epoch h typ : Nat) : Bytes :=
  kdf (kdf (kekOf root) "SP6516 DOMAIN ROOT" (toLe 2 d ++ toLe 4 epoch) 32) "SP6516 KEY WRAP" (toLe 2 h ++ toLe 1 typ) 32
/-- The wrap key of a child key (R292): from its parent's whole slot value. -/
def childWrapKey (parent : Bytes) (d epoch h typ : Nat) : Bytes :=
  kdf (sha256 parent) "SP6516 KEY WRAP" (toLe 2 d ++ toLe 4 epoch ++ toLe 2 h ++ toLe 1 typ) 32

/-- Modulus length in bits of an RSA key from SIZE (R299). -/
def rsaBits (size : Nat) : Nat := 64 * (size + 32)
/-- Length in octets of a key's value (R298). -/
def keyLen (typ size param : Nat) : Nat :=
  match typ with
  | 0x01 => 16 | 0x02 => 24 | 0x03 => 32 | 0x04 => 32 | 0x05 => 64 | 0x06 => 32
  | 0x07 => param | 0x08 => param
  | 0x10 => 96 | 0x11 => 144 | 0x12 => 198 | 0x13 => 64 | 0x14 => 64
  | 0x18 => 64 | 0x19 => 96 | 0x1A => 132 | 0x1B => 32
  | 0x20 => 5 * (rsaBits size / 16) | 0x21 => rsaBits size / 8
  | 0x30 => 48
  | _ => 0
/-- The span of a key: whole slots of 64 octets (R298). -/
def keySpan (typ size param : Nat) : Nat := max 1 ((keyLen typ size param + 63) / 64)
/-- Usage bits a type permits (R298). -/
def usagePermitted (typ : Nat) : List Nat :=
  match typ with
  | 0x01 | 0x03 => [useEncrypt, useDecrypt, useMac, useDerive, useExport]
  | 0x02 => [useEncrypt, useDecrypt, useMac]
  | 0x04 | 0x05 | 0x06 => [useEncrypt, useDecrypt]
  | 0x07 => [useMac, useDerive]
  | 0x08 => [useDerive]
  | 0x10 | 0x11 => [useSign, useIssue, useVerify, useAgree]
  | 0x12 | 0x13 => [useSign, useIssue, useVerify]
  | 0x14 => [useAgree]
  | 0x18 | 0x19 | 0x1A | 0x1B | 0x21 => [useVerify]
  | 0x20 => [useSign, useIssue, useDecrypt, useVerify]
  | _ => []
/-- FORM of the attribute record (R299). -/
def formOf (span cls : Nat) (debug : Bool) : Nat := span % 32 + 32 * cls + 128 * b2n debug
/-- The octets of a key without its padding. -/
def keyOctets (k : Key) : Bytes := fitTo (keyLen k.typ k.size k.param) k.value

/-- A slot holds a key or part of one (R299): the first handle and the key. -/
def slotKey (s : State) (h : Nat) : Option (Nat × Key) := s.keys.find? (fun c => decide (c.1 ≤ h) && decide (h < c.1 + c.2.span))
/-- The handle lies in the domain's slot range (R295). -/
def inSlots (r : DomRec) (h : Nat) : Bool := decide (r.slotFirst ≤ h) && decide (h < r.slotFirst + r.slotCount)
/-- The domain is ACTIVE (R295, R296). -/
def domActive (s : State) (d : Nat) : Bool := domExists s d && !suspended s d

/-- An entry of a manifest (R302). -/
structure ManEntry where
  handle : Nat
  span : Nat
  orphan : Bool
  cell : Nat
  parent : Nat
  typ : Nat
  tag : Bytes
  deriving DecidableEq, Repr

/-- Read a manifest entry (R302). -/
def manEntryOf (b : Bytes) : ManEntry :=
  { handle := leAt b 0 2, span := leAt b 2 1, orphan := bit (leAt b 3 1) 0, cell := leAt b 4 4, parent := leAt b 8 2,
    typ := leAt b 10 1, tag := slice b 16 16 }
/-- Write a manifest entry (R302). -/
def manEntryBytes (e : ManEntry) : Bytes :=
  toLe 2 e.handle ++ toLe 1 e.span ++ toLe 1 (b2n e.orphan) ++ toLe 4 e.cell ++ toLe 2 e.parent ++ toLe 1 e.typ ++ zeros 5
    ++ fitTo 16 e.tag
/-- Entries of a manifest. -/
def manEntries (m : Bytes) : List ManEntry := (chunks 32 (m.drop 32)).map manEntryOf
/-- A whole manifest (R302). -/
def manBytes (d epoch : Nat) (l : List ManEntry) : Bytes :=
  octets [0x53, 0x4B, 0x4D, 0x31, 0x01, 0] ++ toLe 2 d ++ toLe 4 epoch ++ toLe 2 l.length ++ zeros 18 ++ l.flatMap manEntryBytes

/-- Flash address of an archive cell: the archive is the highest 16 MB (R388). -/
def cellAddr (s : State) (c : Nat) : Nat := 2 ^ s.mp.densityLog2 - 0x01000000 + 128 * c
/-- Octets of the archive from a cell on. -/
def readCells (s : State) (c n : Nat) : Bytes := flashRead s (cellAddr s c) n

/-- A manifest passes R302 for its domain-table entry. -/
def manifestOk (r : DomRec) (d : Nat) (m : Bytes) : Bool :=
  sha256 m == r.manifestDigest && slice m 0 5 == octets [0x53, 0x4B, 0x4D, 0x31, 0x01] && leAt m 6 2 == d && leAt m 8 4 == r.epoch
    && leAt m 12 2 == r.manifestEntries

/-- The checked production manifest of a domain (R302, R305). -/
def manifestFor (s : State) (d : Nat) : Except LoadFail Bytes :=
  match s.manifests.find? (fun k => k.domain == d) with
  | some k => .ok k.bytes
  | none =>
    if !s.mp.flashOk then .error ⟨stKeyMissing, 4, none⟩
    else if (domOf s d).failed then .error ⟨stKeyMissing, 3, none⟩ else
    let r := domOf s d
    let m := readCells s r.manifestCell (32 + 32 * r.manifestEntries)
    if manifestOk r d m then .ok m else .error ⟨stKeyMissing, 3, some 1⟩
/-- The debug manifest of a domain (R314). -/
def debugManifest (s : State) (d : Nat) : Bytes :=
  ((s.debugManifests.find? (fun k => k.domain == d)).map (·.bytes)).getD (manBytes d (domOf s d).epoch [])

/-- The manifest entry of a handle, or why there is none (R300, rule 6). -/
def lookupEntry (s : State) (d h : Nat) : Except LoadFail ManEntry :=
  let find := fun (m : Bytes) => (manEntries m).find? (fun e => e.handle == h)
  if onTestRoot s then
    match find (debugManifest s d) with
    | some e => if e.orphan then .error ⟨stKeyOrphaned, 1, none⟩ else .ok e
    | none =>
      match manifestFor s d with
      | .ok m => .error ⟨stKeyMissing, if (find m).isSome then 2 else 0, none⟩
      | .error f => .error f
  else
    match manifestFor s d with
    | .ok m =>
      match find m with
      | some e => if e.orphan then .error ⟨stKeyOrphaned, 1, none⟩ else .ok e
      | none => .error ⟨stKeyMissing, 0, none⟩
    | .error f => .error f

/-- The 48 octets of a blob's header (R301), from the key, its place and its IV. -/
def blobHeader (d h parent epoch : Nat) (k : Key) (iv : Bytes) : Bytes :=
  octets [0x53, 0x4B, 0x42, 0x31, 0x01] ++ toLe 1 k.typ ++ toLe 1 k.span ++ toLe 1 (formOf k.span k.cls k.debug) ++ toLe 2 d
    ++ toLe 2 h ++ toLe 2 parent ++ toLe 2 k.usage ++ toLe 4 epoch ++ toLe 4 k.sealMeas ++ toLe 2 k.sealRef ++ toLe 2 k.size
    ++ toLe 4 k.param ++ fitTo 12 iv ++ zeros 4
/-- A whole blob: the header, the value under AES-256-GCM, the tag (R301). -/
def blobBytes (wrap header value iv : Bytes) : Bytes :=
  let c := gcmCrypt wrap iv 0 value
  header ++ c ++ gcmTag wrap iv header c
/-- The key that a blob's header and value describe (R305, step 5). -/
def blobKey (b value : Bytes) : Key :=
  { typ := leAt b 5 1, span := leAt b 6 1, cls := bits (leAt b 7 1) 6 5, debug := bit (leAt b 7 1) 7, usage := leAt b 0x0E 2 % 512,
    domain := leAt b 8 2, size := leAt b 0x1A 2, sealRef := leAt b 0x18 2, sealMeas := leAt b 0x14 4, param := leAt b 0x1C 4,
    value := value }
/-- Steps 2 and 3 of R305: the header agrees with the manifest entry and the domain, and the tags agree. -/
def blobAgrees (r : DomRec) (d : Nat) (e : ManEntry) (b : Bytes) : Bool :=
  leAt b 8 2 == d && leAt b 0x0A 2 == e.handle && leAt b 5 1 == e.typ && leAt b 6 1 == e.span && leAt b 0x0C 2 == e.parent
    && leAt b 0x10 4 == r.epoch && slice b (48 + 64 * e.span) 16 == e.tag
/-- Step 4 of R305: the unwrapped value, if the tag holds. -/
def unwrapBlob (wrap b : Bytes) (span : Nat) : Option Bytes :=
  let iv := slice b 0x20 12
  let c := slice b 48 (64 * span)
  if gcmTag wrap iv (b.take 48) c = slice b (48 + 64 * span) 16 then some (gcmCrypt wrap iv 0 c) else none

/-- Load a key and the ancestors it still needs, the key first; the count bounds the chain at four keys (R303, R305). -/
def loadChain (s : State) (d : Nat) : Nat → Nat → Except LoadFail (List (Nat × Key))
  | 0, _ => .error ⟨stKeyOrphaned, 1, none⟩
  | f + 1, h =>
    match assocGet s.keys h with
    | some k => .ok [(h, k)]
    | none =>
      match lookupEntry s d h with
      | .error x => .error x
      | .ok e =>
        let up : Except LoadFail (List (Nat × Key)) := if e.parent = 0xFFFF then .ok [] else loadChain s d f e.parent
        match up with
        | .error x => .error ⟨stKeyOrphaned, 1, x.event⟩
        | .ok ks =>
          let r := domOf s d
          let b := readCells s e.cell (64 + 64 * e.span)
          let wrap := match ks.head? with
            | some p => childWrapKey p.2.value d r.epoch h e.typ
            | none => topWrapKey ((rootOf s).getD []) d r.epoch h e.typ
          if !blobAgrees r d e b then .error ⟨stKeyMissing, 3, some 0⟩
          else match unwrapBlob wrap b e.span with
            | some v => .ok ((h, blobKey b v) :: ks)
            | none => .error ⟨stKeyMissing, 3, some 0⟩

/-- The outcome of loading a handle as the archive stands. -/
def loadOutcome (s : State) (d h : Nat) : Except LoadFail (List (Nat × Key)) :=
  if !s.mp.flashOk then .error ⟨stKeyMissing, 4, none⟩
  else if (rootOf s).isNone then .error ⟨stKeyMissing, 3, none⟩
  else loadChain s d 4 h

/-- A manifest that has passed its check is kept until the next full reset or archive change (R305). -/
def keepManifest (d : Nat) (s : State) : State :=
  if s.manifests.any (fun k => k.domain == d) then s else
  match manifestFor s d with
  | .ok m => { s with manifests := s.manifests ++ [{ domain := d, bytes := m }] }
  | .error _ => s
/-- A failure that a lookup in a manifest gave (R300, rule 6). -/
def lookedUp (f : LoadFail) : Bool :=
  (f.status == stKeyMissing && (f.detail == 0 || f.detail == 2 || f.detail == 3)) || (f.status == stKeyOrphaned && f.detail == 1)

/-- What a failed load leaves (R305): a checked manifest is kept; ARCHIVE_AUTH is raised, or ROLLBACK with suspension cause 3. -/
def loadEvent (d : Nat) (f : LoadFail) (s : State) : State :=
  let s := if lookedUp f then keepManifest d s else s
  match f.event with
  | some 1 => raise 12 1 d (some d) (if domExists s d then modDom s d (addCause 2) else s)
  | some b => raise 12 b d (some d) s
  | none => s

/-- Put loaded keys into the key store and keep the checked manifest (R305). -/
def storeKeys (d : Nat) (ks : List (Nat × Key)) (s : State) : State :=
  keepManifest d { s with keys := ks.foldl (fun m c => assocPut m c.1 c.2) s.keys }

/-- The DRBG gives output: its domain is ON and no health failure stops it (R285, R439). -/
def rngReady (s : State) : Bool := decide ((pdOf s 49).st = .on) && !s.rng.stopped
/-- A load needs the memory port and fresh shares from the DRBG (R305, R439, R441). -/
def wakeForLoad (s : State) : State := requestWake 49 (if s.mp.flashOk then requestWake 48 s else s)

/-- Start the loads of handles that are EMPTY and in the domain's range (R305). -/
def requestLoads (d : Nat) (hs : List Nat) (s : State) : State :=
  let wanted := hs.filter (fun h => decide (0 < h) && decide (h < 0x4000) && inSlots (domOf s d) h && (slotKey s h).isNone
    && !s.loads.contains (d, h))
  if wanted = [] then s else wakeForLoad { s with loads := s.loads ++ (wanted.map (fun h => (d, h))).dedup }

/-- A load ends (R305): the key and its ancestors are LOADED, or its failure is raised. It waits while the memory port or the DRBG
is not ready. -/
def finishLoad (d h : Nat) (s : State) : State :=
  if !s.loads.contains (d, h) then s
  else if (s.mp.flashOk && !mpReady s) || !rngReady s then wakeForLoad s else
  let s := { s with loads := s.loads.filter (· != (d, h)) }
  if (slotKey s h).isSome || !domActive s d then s else
  match loadOutcome s d h with
  | .ok ks =>
    let s := storeKeys d ks s
    requestLoads d ((ks.filter (fun c => c.2.sealMeas != 0)).map (·.2.sealRef)) s
  | .error f => loadEvent d f s

/-- Drop a key whose shares or attribute record fail, with every slot of it (R312). -/
def dropKey (h : Nat) (s : State) : State :=
  match slotKey s h with
  | some c => raise 12 2 c.1 none (zeroSlots ((List.range c.2.span).map (c.1 + ·)) { s with keys := assocDel s.keys c.1 })
  | none => s

/-- The outcome of the key-store step of R300. -/
inductive KeyRes where
  /-- the key is used -/
  | key (k : Key)
  /-- the entry completes with this status -/
  | fail (f : LoadFail)
  /-- a load is awaited: these handles are EMPTY -/
  | wait (hs : List Nat)
  deriving DecidableEq, Repr

/-- A temporary as a key (R278). -/
def tempKey (d : Nat) (t : Temp) : Key :=
  { typ := t.typ, span := 1, cls := t.cls, debug := false, usage := t.usage, domain := d, size := 0, sealRef := 0, sealMeas := 0,
    param := t.value.length, value := fitTo 64 t.value }

/-- Resolve a handle (R278, R293, R300). -/
def resolve (s : State) (x : Hamper) (h : Nat) : KeyRes :=
  if 0xFE00 ≤ h ∧ h ≤ 0xFE07 then
    match assocGet x.temps (h - 0xFE00) with
    | some t => .key (tempKey x.domain t)
    | none => .fail ⟨stKeyMissing, 0x41, none⟩
  else if 0xFE08 ≤ h ∧ h ≤ 0xFEFF then .fail ⟨stBadParam, 0x33, none⟩
  else if 0xFF00 ≤ h ∧ h ≤ 0xFF0F then .fail ⟨stKeyUsage, 0x02, none⟩
  else if h = 0 ∨ 0x4000 ≤ h then .fail ⟨stKeyMissing, 0x01, none⟩
  else if !domActive s x.domain then .fail ⟨stKeyOrphaned, 0x00, none⟩
  else if !inSlots (domOf s x.domain) h then .fail ⟨stKeyDomain, 0x00, none⟩
  else match slotKey s h with
    | some c => if c.1 = h then .key c.2 else .fail ⟨stKeyMissing, 0x01, none⟩
    | none =>
      match loadOutcome s x.domain h with
      | .ok _ => .wait [h]
      | .error f => .fail f

/-- The measurement of a seal (R306). -/
def sealMeasure (s : State) (mask : Nat) : Bytes :=
  sha384 (((List.range 32).filter (bit mask)).flatMap (fun i => (s.meas.getD i measReset).value))

/-- The seal check (R306). -/
def sealCheck (s : State) (d : Nat) (k : Key) : KeyRes :=
  if k.sealMeas = 0 then .key k
  else if !inSlots (domOf s d) k.sealRef then .fail ⟨stKeySealed, 1, none⟩
  else match slotKey s k.sealRef with
    | some c =>
      if c.1 ≠ k.sealRef ∨ c.2.typ ≠ 0x30 then .fail ⟨stKeySealed, 1, none⟩
      else if keyOctets c.2 = sealMeasure s k.sealMeas then .key k
      else .fail ⟨stKeySealed, 0, none⟩
    | none =>
      match loadOutcome s d k.sealRef with
      | .ok _ => .wait [k.sealRef]
      | .error f => .fail ⟨stKeySealed, 1, f.event⟩

/-- The key-store step (R300): the handle, then usage, type and class as `judge` decides, then the seal. An entry whose engines hold the
outcome of the step completes with it (R311). DEDUCED, log entry 72. DEDUCED, log entry 77. -/
def keyStep (s : State) (x : Hamper) (h : Nat) (judge : Key → Option (Nat × Nat)) : KeyRes :=
  match x.held with
  | some (.fail f) => .fail f
  | some (.key k sealed) =>
    match judge k with
    | some c => .fail ⟨c.1, c.2, none⟩
    | none =>
      match sealed with
      | some f => .fail f
      | none => .key k
  | none =>
    match resolve s x h with
    | .key k =>
      match judge k with
      | some c => .fail ⟨c.1, c.2, none⟩
      | none => sealCheck s x.domain k
    | r => r

/-- The key-store step as it stands, for engines just granted: none while a load is awaited (R300). DEDUCED, log entry 77. -/
def heldKey (s : State) (x : Hamper) : Option Held :=
  match currentEntry x with
  | none => none
  | some t =>
    match resolve s x (slotOf t.bytes) with
    | .wait _ => none
    | .fail f => some (.fail f)
    | .key k =>
      match sealCheck s x.domain k with
      | .key _ => some (.key k none)
      | .fail f => some (.key k (some f))
      | .wait _ => none
/-- The entry whose engines await a load reaches the key-store step when the load ends (R300). The step of an entry in its digest-engine
phase comes at its public-key grant (R263). -/
def settleHeld (s : State) : State :=
  { s with hampers := s.hampers.map (fun x => if x.awaiting && x.held.isNone then { x with held := heldKey s x } else x) }

/-- KEY_LOAD_DONE (R305). -/
def execKeyLoadDone (d handle : Nat) (s : State) : Host.Outcome State Fault Refusal := .next (settleHeld (finishLoad d handle s))

end Sys2Proof.Machine
end

