-- ==== Sys2Proof/Machine/Sched.lean ====
section
/-! DEFINITION. From taking to running: the content hash, placement, admission, cups, arbitration, engine needs and grants,
aging, preemption, completion (R174 to R201, R263, R388). -/

namespace Sys2Proof.Machine

/-- The address fields of an entry's PARAM with the length read there: AAD, expected tag, second operand, signature, public
key, label, MODMATH operands (R179, R213, R238, R239, R272, R274, R275). -/
def paramSources (e : Bytes) : List (Nat × Nat) :=
  let p := paramOf e
  match opcode e with
  | 0x11 | 0x12 => [(leAt p 0x14 4, leAt p 0x18 4)]
  | 0x22 => [(leAt p 0 4, leAt p 4 1)]
  | 0x23 => if bit (flags e) 10 then [] else [(leAt p 0 4, srcLenOf e % 2 ^ 31)]
  | 0x31 => [(leAt p 0x08 4, leAt p 0x0C 2), (leAt p 0x10 4, leAt p 0x14 2)]
  | 0x33 => [(leAt p 4 4, leAt p 8 2)]
  | 0x34 => [(leAt p 4 4, leAt p 8 2), (leAt p 0x0C 4, leAt p 2 2)]
  | _ => []

/-- Cup ordinals a hamper's entries name (R179). -/
def namedCups (x : Hamper) : List Nat :=
  x.entries.flatMap (fun t => (([srcOf t.bytes, dstOf t.bytes] ++ (paramSources t.bytes).map (·.1)).filter isCup).map cupOrdinal)
/-- Cups a hamper declares (R179). -/
def declaredCups (x : Hamper) : Nat := (namedCups x).foldl (fun m o => max m (o + 1)) 0

/-- First entry of a hamper. -/
def firstEntry (x : Hamper) : Bytes := (x.entries.head?.map (·.bytes)).getD []
/-- The hamper asks to be idempotent: IDEMPOTENT with a nonzero TAG (R191). -/
def asksIdemp (x : Hamper) : Bool := idempBit (firstEntry x) && tagOf (firstEntry x) != 0
/-- The duplicate share of a domain (R194). -/
def dupShareOf (s : State) (d : Nat) : Nat := if domExists s d then (domOf s d).dupShare else 0

/-- An ISSUE entry uses a deterministic scheme (R191). -/
def issueDeterministic (e : Bytes) : Bool :=
  let p := paramOf e
  match leAt p 0 1 with
  | 1 | 2 | 3 => leAt p 2 1 == 0
  | 4 | 5 => true
  | 6 => leAt p 3 1 == 0
  | _ => false

/-- The entry may not stand in an idempotent hamper (R191, R218, R232, R267, R321, R351). -/
def bannedIdemp (last : Bool) (e : Bytes) : Bool :=
  let op := opcode e
  if op = 0x38 then !last || !issueDeterministic e
  else if op = 0x01 then bit (flags e) 9
  else if (0x10 ≤ op ∧ op ≤ 0x14) ∨ (0x20 ≤ op ∧ op ≤ 0x22) then isPart (flags e)
  else (0x24 ≤ op && op ≤ 0x27) || op == 0x50 || op == 0x51 || op == 0x60

/-- What refuses a hamper before anything of it runs: the completion of its first entry (R179, R191, R218, R232, R267, R321). -/
def hamperDefect (s : State) (x : Hamper) : Option Done :=
  if 16 < declaredCups x then some { status := stTooBig }
  else if asksIdemp x then
    if dupShareOf s x.domain = 0 then some { status := stQuota, detail := 1 }
    else if x.entries.zipIdx.any (fun c => bannedIdemp (c.2 + 1 == x.entries.length) c.1.bytes) then
      some { status := stBadParam, detail := 0x0C }
    else none
  else if 1 < x.entries.length ∧ x.entries.any (fun t => opcode t.bytes == 0x50) then some { status := stBadParam, detail := 0x60 }
  else none

/-- What a hole leaves of a range, in order. -/
def cutRange (h c : Nat × Nat) : List (Nat × Nat) :=
  if overlaps h.1 h.2 c.1 c.2 then
    [(c.1, h.1 - c.1), (h.1 + h.2, c.1 + c.2 - (h.1 + h.2))].filter (fun f => f.2 != 0)
  else [c]
/-- The part of a range outside earlier entries' DST ranges (R192). -/
def outside (holes : List (Nat × Nat)) (c : Nat × Nat) : List (Nat × Nat) := holes.foldl (fun l h => l.flatMap (cutRange h)) [c]

/-- The fragment list of an entry can be read by the hash unit: it stands in the arena or the flash window, legal under R150 (R149, R475). -/
def listLegal (s : State) (x : Hamper) (e : Bytes) : Bool :=
  fragHeadOk e && !isCup (srcOf e) && addrOk s x true (srcOf e) (8 * fragCount e)
/-- Source ranges that enter the content hash: arena and flash window, legal under R150; those of SRC before those PARAM names (R192, R475;
DESIGN CHOICE, log entry 95 for the order of the two). -/
def hashedRanges (s : State) (x : Hamper) (e : Bytes) : List (Nat × Nat) :=
  let src :=
    if isFragList e then (if listLegal s x e && fragLensOk s x e then srcRanges s x e else [])
    else srcRanges s x e
  (src ++ paramSources e).filter (fun f => f.2 != 0 && !isCup f.1 && addrOk s x true f.1 f.2)

/-- The octets of a hamper's entries that enter the hash: HDR[31:30], SRC and DST zero (R192). -/
def hashedEntry (e : Bytes) : Bytes :=
  toLe 4 (hdr e % 2 ^ 30) ++ slice e 4 12 ++ zeros 4 ++ slice e 0x14 4 ++ zeros 4 ++ slice e 0x1C 36

/-- Ranges of the entries in order, each outside the DST ranges of the entries before. -/
def openRanges (f : Bytes → List (Nat × Nat)) : List Bytes → List (Nat × Nat) → List (Nat × Nat)
  | [], _ => []
  | e :: t, holes => (f e).flatMap (outside holes) ++ openRanges f t (holes ++ [(dstOf e, dstLenOf e)])
/-- The source ranges that enter a hamper's content hash. -/
def hashedPieces (s : State) (x : Hamper) : List (Nat × Nat) := openRanges (hashedRanges s x) (x.entries.map (·.bytes)) []
/-- The descriptors the hash unit reads on its way. -/
def hashedLists (s : State) (x : Hamper) : List (Nat × Nat) :=
  openRanges (fun e => if isFragList e && listLegal s x e then [(srcOf e, 8 * fragCount e)] else []) (x.entries.map (·.bytes)) []

/-- The content hash of a hamper (R192). -/
def contentHash (s : State) (x : Hamper) : Bytes :=
  (sha256 (x.entries.flatMap (fun t => hashedEntry t.bytes) ++ readAll s x (hashedPieces s x))).take 16

/-- The hash unit reads ranges: it waits for what they need, and poison completes the hamper's first entry MEM_POISON (R441, R475). -/
def hashReads (h : Nat) (l : List (Nat × Nat)) (go : State → State) (s : State) : State :=
  if !readsReady s l then awaitReads l s else
  let s := noteReads l s
  match poisonOf s l with
  | some d => rejectHamper h { status := stPoison, detail := d } s
  | none => go s

/-- R475: the hash of a taken idempotent hamper is complete. -/
def dupHash (h : Nat) (s : State) : State :=
  match hamperOf s h with
  | none => s
  | some x =>
    if x.admitted || !x.closedRun || !asksIdemp x || x.hash.isSome || (hamperDefect s x).isSome then s else
    hashReads h (hashedLists s x) (fun s => hashReads h (hashedPieces s x)
      (fun s => modHamper s h (fun y => { y with hash := some (contentHash s x) })) s) s

/-- DUP_HASH_DONE (R475). -/
def execDupHashDone (h : Nat) (s : State) : Host.Outcome State Fault Refusal := .next (dupHash h s)

/-- Keys that rotate from a pointer: those at or after it in rising order, then the rest (R185). -/
def rotate (p : Nat) (l : List Nat) : List Nat := l.filter (p ≤ ·) ++ l.filter (· < p)
/-- A rising list without repeats. -/
def risingSet (l : List Nat) : List Nat := l.foldl insertNat []

/-- Where an arbiter's domain pointer of a class stands: past the domain once its weight is used (R185). -/
def domStart (s : State) (a : Arbiter) (c : Nat) : Nat :=
  let d := assocGetD 0 a.domPtr c
  if max 1 (domOf s d).weight ≤ assocGetD 0 a.domGrants c then d + 1 else d

/-- Candidates of one class and domain, by the rotating pointer over ring IDs (R185). -/
def orderRings (a : Arbiter) (d : Nat) (l : List Hamper) : List Hamper :=
  (rotate (assocGetD 0 a.ringPtr d) (risingSet (l.map (·.ring)))).flatMap (fun r => l.filter (fun x => x.ring == r))
/-- Candidates of one class, in the order of the weighted round-robin over domains (R185). -/
def orderDomains (s : State) (a : Arbiter) (c : Nat) (l : List Hamper) : List Hamper :=
  (rotate (domStart s a c) (risingSet (l.map (·.domain)))).flatMap (fun d => orderRings a d (l.filter (fun x => x.domain == d)))
/-- The arbitration order (R185): class, domain, ring. -/
def arbitration (s : State) (a : Arbiter) (l : List Hamper) : List Hamper :=
  [3, 2, 1, 0].flatMap (fun c => orderDomains s a c (l.filter (fun x => x.cls == c)))
/-- Every sixteenth grant is an oldest-first turn (R186). -/
def oldestTurn (a : Arbiter) : Bool := (a.grants + 1) % 16 == 0
/-- The order in which an arbiter looks at its candidates: taken hampers stand oldest first in State (R185, R186). -/
def arbiterOrder (s : State) (a : Arbiter) (l : List Hamper) : List Hamper := if oldestTurn a then l else arbitration s a l
/-- An arbiter after a grant to a hamper (R185, R186). A grant to a domain out of turn, on an oldest-first turn or to a claim, moves the class's
pointer to that domain with one grant counted (DESIGN CHOICE, log entry 95). -/
def noteGrant (s : State) (a : Arbiter) (x : Hamper) : Arbiter :=
  let same := domStart s a x.cls == x.domain && assocGetD 0 a.domPtr x.cls == x.domain
  { domPtr := assocSet 0 a.domPtr x.cls x.domain
    domGrants := assocSet 0 a.domGrants x.cls (if same then assocGetD 0 a.domGrants x.cls + 1 else 1)
    ringPtr := assocSet 0 a.ringPtr x.domain ((x.ring + 1) % 0x10000)
    grants := a.grants + 1 }

/-- The candidates for admission: each ring's oldest unadmitted hamper, once it is whole and, when idempotent, hashed; its
domain is not suspended and its port not held (R175, R182, R183, R296, R422, R475). -/
def candidates (s : State) : List Hamper :=
  s.hampers.filter (fun x =>
    !x.admitted && x.closedRun && ((s.hampers.find? (fun y => y.ring == x.ring && !y.admitted)).map (·.id)) == some x.id
      && (!asksIdemp x || x.hash.isSome || (hamperDefect s x).isSome)
      && !suspended s x.domain && !(portOf s x.port).wdt.quiesced)

/-- Floor cups a hamper may take: none while another hamper is its port's claim (R183). -/
def floorOpen (s : State) (x : Hamper) : Nat :=
  match s.claims.getD x.port none with
  | some c => if c = x.id then s.floorFree.getD x.port 0 else 0
  | none => s.floorFree.getD x.port 0
/-- The cups a hamper needs are free (R181, R183). -/
def cupsFit (s : State) (x : Hamper) : Bool := decide (declaredCups x ≤ floorOpen s x + s.sharedFree)

/-- The duplicate record of a hamper's TAG in its domain (R193). -/
def dupOf (s : State) (x : Hamper) : Option DupRec := s.dups.find? (fun r => r.domain == x.domain && r.tag == tagOf (firstEntry x))
/-- Records of a domain, in admission order (R194). -/
def dupsOf (s : State) (d : Nat) : List DupRec := s.dups.filter (fun r => r.domain == d)
/-- A record can be reserved: a FREE one, or the oldest when it is CLOSED (R194). -/
def dupRoom (s : State) (d : Nat) : Bool :=
  decide ((dupsOf s d).length < dupShareOf s d) || (match (dupsOf s d).head? with | some r => r.closed | none => false)

/-- What admission finds for a hamper (R182, R193). -/
inductive Verdict where
  | enter
  | replay (r : DupRec)
  | conflict
  | noCups
  | waits
  deriving DecidableEq, Repr

/-- The verdict of admission (R182, R193, R194): records first, cups last. A SEED needs the DRBG (R286). -/
def judgeAdmission (s : State) (x : Hamper) : Verdict :=
  if asksIdemp x then
    match dupOf s x with
    | some r =>
      if !r.closed then .waits
      else if some r.hash ≠ x.hash then .conflict
      else if cupsFit s x then .replay r else .noCups
    | none =>
      if !cupsFit s x then .noCups else if dupRoom s x.domain && rngReady s then .enter else .waits
  else if cupsFit s x then .enter else .noCups

/-- Take a hamper's cups, its port's floor first (R181). -/
def takeCups (x : Hamper) (s : State) : State :=
  let n := declaredCups x
  let f := min n (floorOpen s x)
  modHamper { s with floorFree := s.floorFree.set x.port (s.floorFree.getD x.port 0 - f), sharedFree := s.sharedFree - (n - f) } x.id
    (fun y => { y with floorCups := f, sharedCups := n - f })

/-- Reserve a duplicate record, OPEN, with a fresh SEED (R192, R194, R286). -/
def reserveDup (x : Hamper) (s : State) : State :=
  let seed := drawn s 16
  let s := afterDraw s 16
  let full := decide (dupShareOf s x.domain ≤ (dupsOf s x.domain).length)
  let keep := if full then (match (dupsOf s x.domain).head? with
    | some r => s.dups.filter (fun q => q.order != r.order)
    | none => s.dups) else s.dups
  let r : DupRec := { tag := tagOf (firstEntry x), hash := x.hash.getD [], seed := seed, domain := x.domain, admittedMs := s.mono % 2 ^ 32,
                      order := s.dupOrder, owner := x.id }
  modHamper { s with dups := keep ++ [r], dupOrder := s.dupOrder + 1 } x.id (fun y => { y with seed := some seed })

/-- A port's claim is met by a hamper: its oldest hamper still refused for cups becomes the next (R183). -/
def claimMet (x : Hamper) (s : State) : State :=
  if s.claims.getD x.port none = some x.id then { nextClaim s x.port x.id with claimTurn := x.port } else s

/-- Handles whose loads admission begins (R305): those the entries name, and the reference keys of those that are loaded. -/
def namedHandles (s : State) (x : Hamper) : List Nat :=
  let l := x.entries.map (fun t => slotOf t.bytes)
  l ++ (l.filterMap (fun h => (slotKey s h).map (·.2))).filterMap (fun k => if k.sealMeas = 0 then none else some k.sealRef)

/-- Admit a hamper: cups, record, grant, loads (R182, R186, R305). -/
def admitHamper (x : Hamper) (rep : Option DupRec) (s : State) : State :=
  let s := takeCups x s
  let s := match rep with
    | some r => modHamper s x.id (fun y => { y with replay := some r, seed := some r.seed })
    | none => if asksIdemp x then reserveDup x s else s
  let s := { s with allocator := noteGrant s s.allocator x }
  let s := claimMet x (modHamper s x.id (fun y => { y with admitted := true, refusedCups := false, admitNo := s.allocator.grants }))
  requestLoads x.domain (namedHandles s x) s

/-- A hamper refused for cups becomes its port's claim when the port has none (R183). -/
def refuseCups (x : Hamper) (s : State) : State :=
  let s := modHamper s x.id (fun y => { y with refusedCups := true })
  if (s.claims.getD x.port none).isNone then setClaim x.port (some x.id) s else s

/-- A SEED awaits the DRBG: its gated domain is woken (R286, R441). -/
def awaitSeed (x : Hamper) (s : State) : State :=
  if (dupOf s x).isNone && cupsFit s x && dupRoom s x.domain && !rngReady s then requestWake 49 s else s
/-- The duplicate table is searched for a hamper's TAG (R193, R370). -/
def lookTag (x : Hamper) (s : State) : State := if asksIdemp x then touchDups x.domain s else s

/-- Go down the candidates until one is admitted or ends (R183). -/
def tryAdmit : List Hamper → State → State
  | [], s => s
  | x :: t, s =>
    match hamperDefect s x with
    | some d => rejectHamper x.id d s
    | none =>
      let s := lookTag x s
      match judgeAdmission s x with
      | .enter => admitHamper x none s
      | .replay r => admitHamper x (some r) s
      | .conflict => raise 6 2 x.ring (some x.domain) (rejectHamper x.id { status := stTagConflict } s)
      | .noCups => tryAdmit t (refuseCups x s)
      | .waits => tryAdmit t (awaitSeed x s)

/-- Claims whose need can now be met, in port order from the port after the last one granted (R183). -/
def readyClaims (s : State) (cs : List Hamper) : List Hamper :=
  [1, 2, 3, 4].flatMap (fun i => cs.filter (fun x =>
    x.port == (s.claimTurn + i) % 4 && s.claims.getD x.port none == some x.id && cupsFit s x))

/-- One step of the allocator (R183). -/
def allocatorStep (s : State) : State :=
  let cs := candidates s
  if oldestTurn s.allocator then tryAdmit cs s
  else
    let first := readyClaims s cs
    tryAdmit (first ++ (arbitration s s.allocator cs).filter (fun x => !(first.any (fun y => y.id == x.id)))) s

/-- HAMPER_ADMISSION (R183). -/
def execHamperAdmission (s : State) : Host.Outcome State Fault Refusal := .next (allocatorStep s)

/-- Ticks after which so many milliseconds have passed. -/
def msTicks (ms : Nat) : Nat := (ms * 32768 + 999) / 1000

/-- A port's claim has waited longer than AGE_LIMIT, which has then passed (R201; DESIGN CHOICE, log entry 33). -/
def claimWait (p : Nat) (s : State) : State :=
  match (s.claims.getD p none).bind (hamperOf s) with
  | some x => raise 6 1 p (some x.domain) (elapseTo (x.claimSince + msTicks s.ageLimit + 1) s)
  | none => s
/-- CLAIM_WAIT (R201). -/
def execClaimWait (p : Port) (s : State) : Host.Outcome State Fault Refusal := .next (claimWait p.val s)

/-- Power domains of the engine classes (R434). -/
def guardedPds : List Nat := List.range 8
def shuffledPds : List Nat := (List.range 8).map (· + 8)
def cipherPds : List Nat := List.range 16
def digestPds : List Nat := (List.range 8).map (· + 16)
def pkPds : List Nat := (List.range 12).map (· + 24)

/-- What an entry needs: one list of usable engine domains for each engine it occupies. -/
abbrev Need := List (List Nat)

/-- Engines of a cipher message by class (R202); none when not runnable. -/
def cipherNeed (cls : Nat) (chacha : Bool) : Option Need :=
  match cls, chacha with
  | 0, false => some [cipherPds]
  | 1, false => some [guardedPds]
  | _, false => some [guardedPds, shuffledPds]
  | 0, true => some [shuffledPds]
  | 1, true => none
  | _, true => some [shuffledPds, shuffledPds]
/-- Engines of a keyed digest by class (R233). -/
def hmacNeed (cls : Nat) : Option Need :=
  match cls with
  | 0 => some [digestPds]
  | 1 => none
  | _ => some [digestPds, digestPds]
/-- Engines of a private-key operation by type and class (R263). -/
def pkNeed (typ cls : Nat) : Need := if typ = 0x20 ∨ cls = clsRedundant then [pkPds, pkPds] else [pkPds]
/-- Engines of a DERIVE_TEMP or DERIVE_EXPORT by PRF and class (R282, R283). -/
def deriveNeed (prf cls : Nat) (temp : Bool) : Option Need :=
  if prf = 0 then cipherNeed cls false
  else if cls = clsGuarded then (if temp then some [digestPds, digestPds] else none)
  else hmacNeed cls

/-- The operation hashes on a digest engine before its public-key phase (R263, R277). -/
def hashesFirst (e : Bytes) : Bool :=
  match opcode e with
  | 0x25 | 0x51 | 0x38 => true
  | 0x30 | 0x31 => !bit (flags e) 8
  | _ => false

/-- A temporary's handle (R278). -/
def isTemp (h : Nat) : Bool := decide (0xFE00 ≤ h) && decide (h ≤ 0xFE07)

/-- An earlier-admitted METER_POST is not served yet, or its records have not left the backlog (R351, R352). -/
def laterPost (s : State) (x : Hamper) : Bool :=
  s.hampers.any (fun y => y.admitted && decide (y.admitNo < x.admitNo) &&
    (y.posted != [] || (!hamperStopped y && y.entries.any (fun t => t.done.isNone && opcode t.bytes == 0x60))))

/-- The key whose type and class say what engines an entry needs: the one it names, loaded or still to be loaded (R188, R300); none when the
handle gives none. DEDUCED, log entry 15. -/
def needKey (s : State) (x : Hamper) (h : Nat) : Option Key :=
  match resolve s x h with
  | .key k => some k
  | .wait _ => (match loadOutcome s x.domain h with | .ok ks => ks.head?.map (·.2) | .error _ => none)
  | .fail _ => none

/-- The engines of an entry's main phase; none while its handle gives no key or no engine can run it. DEDUCED, log entry 15. DEDUCED, log entry 48. -/
def mainNeed (s : State) (x : Hamper) (e : Bytes) : Option Need :=
  let key := needKey s x (slotOf e)
  let p := paramOf e
  match opcode e with
  | 0x10 | 0x11 | 0x12 | 0x13 | 0x14 => key.bind (fun k => cipherNeed k.cls (bits (flags e) 7 4 == 6))
  | 0x20 | 0x24 => some [digestPds]
  | 0x21 | 0x22 => key.bind (fun k => hmacNeed k.cls)
  | 0x25 | 0x51 | 0x31 | 0x34 => some [pkPds]
  | 0x30 | 0x38 | 0x33 => key.map (fun k => pkNeed k.typ k.cls)
  | 0x32 => if bit (flags e) 9 then some [pkPds] else key.map (fun k => pkNeed k.typ k.cls)
  | 0x40 => key.bind (fun k => cipherNeed k.cls false)
  | 0x50 => if x.staged = [] then some [] else if x.hashed then some [cipherPds, pkPds] else some [digestPds, pkPds]
  | 0x60 => if s.thermos.backlog = [] ∨ laterPost s x = true then some [] else some [pkPds]
  | 0x41 => key.bind (fun k => deriveNeed (leAt p 0 1) k.cls (isTemp (slotOf e)))
  | _ => some []

/-- The engines an entry needs next. An ISSUE needs none until it has drawn (R277). -/
def entryNeed (s : State) (x : Hamper) (e : Bytes) : Option Need :=
  if opcode e = 0x38 ∧ x.drawn.isNone then some []
  else if hashesFirst e && !x.hashed then some [digestPds]
  else mainNeed s x e

/-- Instances in service can meet a need (R204, R448). -/
def canServe (s : State) (n : Need) : Bool :=
  let live := fun (l : List Nat) => (l.filter (fun i => !(pdOf s i).retired)).length
  match n with
  | [] => true
  | [a] => decide (1 ≤ live a)
  | a :: b :: _ => if a = b then decide (2 ≤ live a) else decide (1 ≤ live a) && decide (1 ≤ live b)

/-- An engine can be offered: ON, open, unfenced and empty (R188, R221, R440, R445). -/
def engineFree (s : State) (i : Nat) : Bool :=
  let d := pdOf s i
  decide (d.st = .on) && !d.closed && !d.fenced && !d.retired && d.running.isNone && d.suspended.isNone

/-- Fill the slots of a need with distinct free engines, lowest first. -/
def fillNeed (s : State) : Need → List Nat → Option (List Nat)
  | [], got => some got
  | l :: t, got =>
    match l.find? (fun i => engineFree s i && !got.contains i) with
    | some i => fillNeed s t (got ++ [i])
    | none => none

/-- The engines a grant of instance `e` takes: that instance in the first slot that allows it, the lowest free ones in the
others (R203). -/
def grantSet (s : State) (n : Need) (e : Nat) : Option (List Nat) :=
  match n.find? (·.contains e) with
  | some l => fillNeed s (n.erase l) [e]
  | none => none

/-- The dispatcher of an engine domain (R186): GUARDED CE, SHUFFLED CE, DE, PK. -/
def dispatcherOf (i : Nat) : Nat := if i < 8 then 0 else if i < 16 then 1 else if i < 24 then 2 else 3

/-- The entry a hamper waits with for engines: admitted, none granted. -/
def waitingEntry (x : Hamper) : Option TakenEntry :=
  if x.admitted && !hamperStopped x && x.engines == [] then currentEntry x else none

/-- The engines a hamper waits for. -/
def waitingNeed (s : State) (x : Hamper) : Option Need :=
  match waitingEntry x with
  | some t => (match entryNeed s x t.bytes with
    | some [] => none
    | n => n)
  | none => none

/-- Charge of the engines of a set (R444). -/
def setCharge (l : List Nat) : Nat := (l.map (fun i => if i < 16 then 140 else if i < 24 then 110 else 160)).sum
/-- Charge of a need. -/
def needCharge (n : Need) : Nat := setCharge (n.map (fun l => l.headD 0))
/-- No engine is active (R446). -/
def noneActive (s : State) : Bool := (List.range 36).all (fun i => !engineActive (pdOf s i))
/-- Charge that the standing cap claim still needs, for another grant (R446). -/
def claimCharge (s : State) (h : Nat) : Nat :=
  match s.power.capClaim with
  | some c => if c = h then 0 else (((hamperOf s c).bind (waitingNeed s)).map needCharge).getD 0
  | none => 0
/-- The grant of a charge to a hamper fits the effective cap (R446). -/
def capFits (s : State) (h charge : Nat) : Bool :=
  noneActive s || decide (totalCharge s + charge + claimCharge s h ≤ effectiveCap s)

/-- A grant that does not fit becomes the cap claim unless an older one stands (R446). -/
def capRefuse (h : Nat) (s : State) : State :=
  match s.power.capClaim with
  | some c => if ((hamperOf s c).bind (waitingNeed s)).isSome then s else { s with power := { s.power with capClaim := some h } }
  | none => { s with power := { s.power with capClaim := some h } }

/-- Count a grant at a dispatcher. -/
def noteDispatch (c : Nat) (x : Hamper) (s : State) : State :=
  { s with dispatchers := s.dispatchers.set c (noteGrant s (s.dispatchers.getD c {}) x) }

/-- The entry a hamper waits with is in the hash phase of a public-key operation, which uses no key slot (R263). -/
def hashPhase (x : Hamper) : Bool :=
  match currentEntry x with
  | some t => hashesFirst t.bytes && !x.hashed
  | none => false

/-- The key slot that the key-store step copies shows an error: the key is dropped and the entry waits for its reload (R312). -/
def slotError (x : Hamper) (s : State) : State :=
  match currentEntry x with
  | some t => if isTemp (slotOf t.bytes) then s else requestLoads x.domain [slotOf t.bytes] (dropKey (slotOf t.bytes) s)
  | none => s

/-- A hamper's entry starts on its engines; a main phase makes the key-store step at once (R300). DEDUCED, log entry 77. -/
def startEntry (x : Hamper) (l : List Nat) (slotErr : Bool) (s : State) : State :=
  let hash := hashPhase x
  let s := if slotErr && !hash then slotError x s else s
  let held := if hash then none else heldKey s x
  modHamper { s with power := { s.power with starts := s.power.starts + 1 } } x.id (fun y =>
    { y with engines := l, startedAt := s.power.starts, held := held, awaiting := !hash && held.isNone })

/-- Give engines to a hamper's entry. The grant counts at the dispatcher of the first of them (DESIGN CHOICE, log entry 95). -/
def grantEngines (x : Hamper) (l : List Nat) (slotErr : Bool) (s : State) : State :=
  let s := if s.power.capClaim = some x.id then { s with power := { s.power with capClaim := none } } else s
  let s := noteDispatch (dispatcherOf (l.headD 0)) x s
  startEntry x l slotErr (l.foldl (fun s i => modPd s i (fun d => { d with running := some (.hamper x.id) })) s)

/-- Hampers whose waiting entry instance `e` can serve now, with the whole set it would take. -/
def grantable (s : State) (e : Nat) : List Hamper :=
  s.hampers.filter (fun x => ((waitingNeed s x).bind (fun n => grantSet s n e)).isSome)

/-- The dispatcher serves an ENVELOPE entry at class URGENT (R322). -/
def atDispatch (x : Hamper) : Hamper :=
  if (currentEntry x).any (fun t => opcode t.bytes == 0x50) then { x with cls := 3 } else x

/-- A free engine is offered (R188): to the first waiting entry of the order of R185 and R186 that it serves. DESIGN CHOICE, log entry 47. -/
def engineGrant (e : Nat) (slotErr : Bool) (s : State) : State :=
  if !engineFree s e then s else
  match arbiterOrder s (s.dispatchers.getD (dispatcherOf e) {}) ((grantable s e).map atDispatch) with
  | [] => s
  | x :: _ =>
    match (waitingNeed s x).bind (fun n => grantSet s n e) with
    | none => s
    | some l => if capFits s x.id (setCharge l) then grantEngines x l slotErr s else capRefuse x.id s

/-- ENGINE_GRANT (R188). -/
def execEngineGrant (e : EngineGrant) (s : State) : Host.Outcome State Fault Refusal := .next (engineGrant e.engine e.slotErr s)

/-- The hamper waits for admission or for an engine (R187). -/
def isWaiting (s : State) (x : Hamper) : Bool := !x.admitted || (waitingNeed s x).isSome

/-- A hamper that has waited AGE_LIMIT since it was taken, for a pushed one since its first deposit (DESIGN CHOICE, log entry 95), is promoted one
class, never above HIGH (R187). DESIGN CHOICE, log entry 33. -/
def agePromote (h : Nat) (s : State) : State :=
  match hamperOf s h with
  | none => s
  | some x =>
    if x.cls < 2 ∧ isWaiting s x = true then
      let s := elapseTo (x.agedAt + msTicks s.ageLimit) s
      raise 6 0 x.ring (some x.domain) (modHamper s h (fun y => { y with cls := y.cls + 1, agedAt := s.mono }))
    else s

/-- AGE_PROMOTION (R187). -/
def execAgePromotion (h : Nat) (s : State) : Host.Outcome State Fault Refusal := .next (agePromote h s)

/-- The message an engine runs may be suspended (R189): of class NORMAL or BULK, not REDUNDANT, suspended fewer than four times,
nothing suspended on the engine. -/
def victimOn (s : State) (i : Nat) : Option Hamper :=
  let d := pdOf s i
  if d.closed || d.fenced || d.suspended.isSome || 24 ≤ i then none else
  match d.running with
  | some (.hamper v) =>
    (match hamperOf s v with
     | some x => if x.cls ≤ 1 ∧ x.engines.length = 1 ∧ x.suspensions < 4 then some x else none
     | none => none)
  | _ => none

/-- The better of two engines to suspend: lowest class, then started last (R189). -/
def betterVictim (a b : Nat × Hamper) : Nat × Hamper :=
  if b.2.cls < a.2.cls ∨ (b.2.cls = a.2.cls ∧ a.2.startedAt < b.2.startedAt) then b else a
/-- The engine of a list whose message is suspended first. -/
def pickVictim (s : State) (l : List Nat) : Option (Nat × Hamper) :=
  match l.filterMap (fun i => (victimOn s i).map (fun x => (i, x))) with
  | [] => none
  | c :: t => some (t.foldl betterVictim c)

/-- Suspend a message for an URGENT entry (R189, R221, R243). It is no grant of the dispatcher (R186). -/
def suspendFor (x v : Hamper) (i : Nat) (s : State) : State :=
  let s := modHamper s v.id (fun y => { y with suspensions := y.suspensions + 1 })
  let s := if v.suspensions + 1 = 4 then raise 6 3 v.ring (some v.domain) s else s
  startEntry x [i] false (modPd s i (fun d => { d with suspended := d.running, running := some (.hamper x.id) }))

/-- An URGENT entry that waits for one cipher or digest engine suspends a running message when none is free (R189). One that needs two engines
suspends none (DESIGN CHOICE, log entry 95). -/
def preempt (h : Nat) (s : State) : State :=
  match hamperOf s h with
  | none => s
  | some x =>
    match waitingNeed s x with
    | some [l] =>
      if x.cls ≠ 3 ∨ l.any (engineFree s) = true then s
      else (match pickVictim s l with
        | some (i, v) => suspendFor x v i s
        | none => s)
    | _ => s

/-- PREEMPT_SUSPEND (R189). -/
def execPreemptSuspend (h : Nat) (s : State) : Host.Outcome State Fault Refusal := .next (preempt h s)

/-- The last entry of a hamper has finished, or it has stopped: its completions are written (R177, R178). -/
def completeHamper (h : Nat) (s : State) : State :=
  match hamperOf s h with
  | some x =>
    if x.admitted && hamperStopped x then
      closeHamper s x (if x.reclaimed then { status := stReclaim, detail := 4 } else { status := stChain })
    else s
  | none => s

/-- HAMPER_COMPLETE (R177). -/
def execHamperComplete (h : Nat) (s : State) : Host.Outcome State Fault Refusal := .next (completeHamper h s)

/-- Opcodes of the operations (R152). -/
def opcodeKnown (op : Nat) : Bool :=
  op ≤ 1 || (0x10 ≤ op && op ≤ 0x14) || (0x20 ≤ op && op ≤ 0x27) || (0x30 ≤ op && op ≤ 0x34) || op == 0x38 || op == 0x40 || op == 0x41
    || op == 0x50 || op == 0x51 || op == 0x60

/-- The entry's operation is accepted in the mode (R125). -/
def opAllowed (s : State) (op : Nat) : Bool :=
  match s.boot.mode with
  | .factory | .debug => true
  | .operational =>
    (match lifecycle s with
     | .claimed => true
     | .unclaimed => op == 0x00 || op == 0x50 || op == 0x51
     | .factoryOpen => op == 0x00 || op == 0x51
     | .scrapped => false)
  | .recovery => op == 0x50 || op == 0x51
  | .boot | .quarantine => false

/-- The block that owns an entry refused as wrong for the state (R126). -/
def opOwner (op : Nat) : Nat :=
  if op = 0x00 then 6 else if op = 0x01 then 15 else if op < 0x20 then 9
  else if op = 0x24 ∨ op = 0x25 then 18 else if op < 0x30 then 10
  else if op = 0x50 then 20 else if op = 0x60 then 19 else 11

/-- Every engine granted to the hamper runs its message now: none is suspended. -/
def enginesRun (s : State) (x : Hamper) : Bool := x.engines.all (fun i => (pdOf s i).running == some (.hamper x.id))

/-- The hamper's current entry, when it can run now. DESIGN CHOICE, log entry 47. -/
def runnable (s : State) (h : Nat) : Option (Hamper × Bytes) :=
  match hamperOf s h with
  | some x => if x.admitted && !hamperStopped x && enginesRun s x then (currentEntry x).map (fun t => (x, t.bytes)) else none
  | none => none

/-- DETAIL of BAD_PARAM for a reserved HDR bit: none for NOP, the one its chapter has for ENVELOPE and METER_POST (R156, R227, R261, R289, R321,
R351). -/
def reservedDetail (op : Nat) : Nat := if op = 0x00 then 0 else if op = 0x50 then 0x60 else if op = 0x60 then 0x70 else 1

/-- What an entry reads of the device's own Pantry meets its errors (R370, R376): the hamper's cups, envelope staging, its part-state record,
manifests. -/
def touchEntry (x : Hamper) (e : Bytes) (s : State) : State :=
  let op := opcode e
  let s := if cupCount x = 0 then s else touchCups x.id s
  let s := if op = 0x50 then touchReserved 0x20000 0x40000 s else s
  let s := if 0x10 ≤ op ∧ op ≤ 0x14 ∧ isPart (flags e) = true then touchReserved 0x40000 0x60000 s else s
  let s := if 0x20 ≤ op ∧ op ≤ 0x27 ∧ (isPart (flags e) = true ∨ 0x26 ≤ op) then touchReserved 0x40000 0x80000 s else s
  if slotOf e = 0 then s else touchReserved 0x80000 0xC0000 s
/-- The entry of a command's opcode that a hamper can run now reads what it needs of the device's own Pantry. -/
def touchRun (op h : Nat) (s : State) : State :=
  match runnable s h with
  | some (x, e) => if opcode e = op then touchEntry x e s else s
  | none => s

/-- Run an operation on a hamper's current entry, when that is its opcode; an operation wrong for the mode completes
WRONG_STATE (R125, R126), METER_POST, which has no operator port then, with its DETAIL 0x70 (R351), a nonzero reserved HDR bit BAD_PARAM (R11, R148); a hamper whose cup is poisoned MEM_POISON (R376). DESIGN CHOICE, log entry 47. -/
def runEntry (op h : Nat) (body : Hamper → Bytes → State → State) (s : State) : State :=
  let s := touchRun op h s
  match runnable s h with
  | some (x, e) =>
    if opcode e ≠ op then s
    else if x.cupPoison then strikeHamper h stPoison 3 s
    else if bits (hdr e) 26 24 ≠ 0 then failEntry h stBadParam (reservedDetail op) s
    else if !opAllowed s op then wrongState (opOwner op) (failEntry h stWrongState (if op = 0x60 then 0x70 else 0) s)
    else body x e s
  | none => s

/-- A NOP with a field it does not use set (R148). -/
def nopFields (e : Bytes) : Bool := flags e == 0 && allZero (slice e 4 4) && allZero (e.drop 16)

/-- NOP completes OK; an entry with a reserved opcode BAD_OPCODE (R11, R148, R152). -/
def nopRun (h : Nat) (s : State) : State :=
  match runnable s h with
  | some (_, e) =>
    if !opcodeKnown (opcode e) then failEntry h stBadOpcode 0 s
    else runEntry 0x00 h (fun _ e s => if nopFields e then finishOk h 0 [] { status := stOk } s else failEntry h stBadParam 0 s) s
  | none => s

/-- NOP_ENTRY (R152). -/
def execNopEntry (h : Nat) (s : State) : Host.Outcome State Fault Refusal := .next (nopRun h s)

/-- ENGINE_UNAVAILABLE, with CLASS_EMPTY in the block of the engines wanted (R204, R263, R450; DESIGN CHOICE, log entry 14: its DETAIL is a free value). -/
def unavailable (h : Nat) (x : Hamper) (n : Need) (s : State) : State :=
  let i := (n.headD []).headD 0
  raise (engineBlock i).1 4 0 (some x.domain) (failEntry h stUnavailable 0 s)

/-- Number of the current entry in chain order (R286). -/
def entryNumber (x : Hamper) : Nat := (x.entries.filter (fun t => t.done.isSome)).length

/-- A draw that reaches the output (R286): from the hamper's stream, or from the DRBG when it is ready. -/
def drawFor (x : Hamper) (n : Nat) (s : State) : Option (Bytes × State) :=
  match x.seed with
  | some seed =>
    let key := sha256 (ascii "SEPTOA HAMPER STREAM" ++ seed ++ toLe 2 x.domain)
    let pos := ((hamperOf s x.id).map (·.streamPos)).getD 0
    some (ctrStream key (toLe 1 (entryNumber x) ++ zeros 15) pos n, modHamper s x.id (fun y => { y with streamPos := y.streamPos + n }))
  | none => if rngReady s then some (drawn s n, afterDraw s n) else none

/-- An entry waits at a draw: the entropy domain is woken (R285, R441). -/
def awaitRng (s : State) : State := requestWake 49 s

/-- Complete the entry by a failing key-store step, or await the load (R300, R305). -/
def keyFailure (h d : Nat) (r : KeyRes) (s : State) : State :=
  match r with
  | .fail f => loadEvent d f (failEntry h f.status f.detail s)
  | .wait hs => requestLoads d hs s
  | .key _ => s

end Sys2Proof.Machine
end

