-- ==== Sys2Proof/Machine/Entry.lean ====
section
/-! DEFINITION. What every operation shares: the order of its checks, its engines, the reading of its source, multi-part
records, its meters and caps, its completion (R149 to R155, R210, R218 to R220, R234, R242, R331, R343, R344). -/

namespace Sys2Proof.Machine

/-- A failing check: STATUS, DETAIL, and the length required under R155. -/
structure Bad where
  status : Nat
  detail : Nat := 0
  need : Nat := 0
  deriving DecidableEq, Repr

/-- The first check that fails. -/
def firstBad : List (Bool × Bad) → Option Bad
  | [] => none
  | (c, b) :: t => if c then some b else firstBad t

/-- An entry refused as wrong for the state counts at the block that owns it (R126). -/
def noteWrong (h : Nat) (s : State) : State :=
  match (hamperOf s h).bind currentEntry with
  | some t => wrongState (opOwner (opcode t.bytes)) s
  | none => s

/-- Complete the entry by a failing check. -/
def endBad (h : Nat) (b : Bad) (s : State) : State :=
  let s := if b.status = stWrongState then noteWrong h s else s
  if b.status = stBadLength then shortEntry h b.detail b.need s else failEntry h b.status b.detail s

/-- SRC names a fragment list only where the operation accepts one, and then legally (R149). -/
def srcForm (frag : Bool) (e : Bytes) : Bool := !isFragList e || (frag && fragHeadOk e)
/-- Fields that an operation without output leaves zero (R148). DEDUCED, log entry 72. -/
def noDst (e : Bytes) : Bool := dstOf e == 0 && dstLenOf e == 0
/-- Fields that an operation without a source leaves zero (R148). -/
def noSrc (e : Bytes) : Bool := srcOf e == 0 && srcLenOf e == 0

/-- The source addresses (R149, R150): the descriptors, then every fragment. -/
def srcBad (s : State) (x : Hamper) (flash : Bool) (e : Bytes) : Option Bad :=
  if isFragList e && !addrOk s x flash (srcOf e) (8 * fragCount e) then some ⟨stBadAddress, 0, 0⟩
  else match (if isFragList e then poisonAt s (srcOf e) (8 * fragCount e) else none) with
    | some d => some ⟨stPoison, d, 0⟩
    | none =>
      if !fragLensOk s x e then some ⟨stBadParam, 1, 0⟩
      else if srcOk s x flash e then none else some ⟨stBadAddress, 0, 0⟩

/-- The destination (R150, R210, R234): in the arena or a cup, and clear of what is read. With `inplace` it may equal a source
that is not a fragment list. -/
def dstBad (s : State) (x : Hamper) (inplace : Bool) (e : Bytes) (extra : List (Nat × Nat)) : Option Bad :=
  let d := dstOf e; let m := dstLenOf e
  if m = 0 then none
  else if !addrOk s x false d m then some ⟨stBadAddress, 0, 0⟩
  else if (readRanges s x e).any (fun f => overlaps f.1 f.2 d m && !(inplace && !isFragList e && f.1 == d)) then some ⟨stBadAddress, 0, 0⟩
  else if extra.any (fun f => overlaps f.1 f.2 d m) then some ⟨stBadAddress, 0, 0⟩
  else none

/-- Every check on addresses: source, further operands, destination. -/
def addressBad (s : State) (x : Hamper) (flash inplace : Bool) (e : Bytes) (extra : List (Nat × Nat)) : Option Bad :=
  match srcBad s x flash e with
  | some b => some b
  | none =>
    if !extra.all (fun f => addrOk s x true f.1 f.2) then some ⟨stBadAddress, 0, 0⟩ else dstBad s x inplace e extra

/-- Source length of an entry. -/
def srcTotal (s : State) (x : Hamper) (e : Bytes) : Nat := rangesLen (srcRanges s x e)
/-- The most an entry carries (R205, R229). -/
def maxSource : Nat := 16777216

/-- Run with the engines a need asks for: at once when none is needed; else once they are granted; ENGINE_UNAVAILABLE when no
instances in service can meet it (R188, R204). -/
def withEngines (h : Nat) (x : Hamper) (n : Need) (run : State → State) (s : State) : State :=
  if n = [] then run s
  else if x.engines ≠ [] then run s
  else if canServe s n then s
  else unavailable h x n s

/-- The entry waits for engines that instances in service can give it: its key-store step comes at their grant, or when it begins in the scheduler if
it needs none (R188, R300). -/
def awaitsGrant (s : State) (x : Hamper) (e : Bytes) : Bool :=
  match entryNeed s x e with
  | some n => n != [] && x.engines == [] && canServe s n
  | none => false

/-- The digest-engine phase of a public-key operation has run: what it hashed is kept, and its engine is free again (R263, R277). -/
def hashDone (h : Nat) (m : Bytes) (s : State) : State :=
  freeEngines (modHamper s h (fun y => { y with hashed := true, template := m, engines := [] })) h

/-- Run with the engines of a public-key entry: its hash phase and its main phase, both servable (R188, R263). -/
def withPk (h : Nat) (x : Hamper) (e : Bytes) (run : State → State) (s : State) : State :=
  let main := (mainNeed s x e).getD []
  if x.engines = [] ∧ canServe s main = false then unavailable h x main s
  else withEngines h x ((entryNeed s x e).getD []) run s

/-- A digest engine that meets poison clears both contexts: its suspended message completes ENGINE_FAULT, 0x04 (R244). -/
def clearSuspended (x : Hamper) (s : State) : State :=
  x.engines.foldl (fun s i =>
    if 16 ≤ i ∧ i < 24 then
      match (pdOf s i).suspended with
      | some o => strikeOccupant stEngineFault 4 o (modPd s i (fun d => { d with suspended := none }))
      | none => s
    else s) s

/-- Read a list of ranges: wait while they cannot be read; a poisoned one completes the entry MEM_POISON (R376); else go on. -/
def withReads (h : Nat) (x : Hamper) (l : List (Nat × Nat)) (run : State → State) (s : State) : State :=
  if !readsReady s l then awaitReads l s else
  let s := noteReads l s
  match poisonOf s l with
  | some d => failEntry h stPoison d (clearSuspended x s)
  | none => run s

/-- The write buffer of the Larder has room for the output, or the entry waits (R368). DEDUCED, log entry 78. -/
def withRoom (e : Bytes) (n : Nat) (run : State → State) (s : State) : State :=
  if dstReady s (dstOf e) n then run s else requestWake 48 s

/-- What a domain's entries that have passed the cap check and not completed will add to a meter (R344). -/
def sharesOf (s : State) (d k : Nat) : Nat :=
  ((s.hampers.filter (fun y => y.domain == d)).flatMap (fun y => y.entries.map (fun t =>
    match t.share with | some c => if c.1 = k then c.2 else 0 | none => 0))).sum
/-- A cap refuses an entry (R331, R344): caps bind neither a replay nor a HELD record, nor an entry that has passed. DEDUCED, log entry 72. -/
def capBad (s : State) (x : Hamper) (k n : Nat) : Option Bad :=
  let r := domOf s x.domain
  let cap := r.caps.getD k 0
  let c := (countersOf s x.domain).getD k 0 + sharesOf s x.domain k + n
  let used := if k = 4 then c / 1024 else c
  let passed := (currentEntry x).any (·.share.isSome)
  if cap = 0 ∨ r.held = true ∨ x.replay.isSome = true ∨ passed = true ∨ used ≤ cap then none else some ⟨stQuota, 0x20 + k, 0⟩
/-- Give the first unfinished entry of a list its share. -/
def shareFirst (c : Nat × Nat) : List TakenEntry → List TakenEntry
  | [] => []
  | e :: t => if e.done.isNone then { e with share := some c } :: t else e :: shareFirst c t
/-- The entry has passed its cap check: its share stands until it fails or completes; a replay has none (R195, R344). -/
def takeShare (h : Nat) (x : Hamper) (k n : Nat) (s : State) : State :=
  if x.replay.isSome then s else modHamper s h (fun y => { y with entries := shareFirst (k, n) y.entries })

/-- Complete the entry OK with its output. -/
def complete (h : Nat) (e out : Bytes) (d : Done) (s : State) : State := finishOk h (dstOf e) out d s

/-- The part-state records of a kind: false for cipher, true for digest messages. -/
def partsOf (s : State) (dig : Bool) : Assoc PartState := if dig then s.digestParts else s.cipherParts
/-- Put a ring's part-state record. -/
def putPart (dig : Bool) (r : Nat) (p : PartState) (s : State) : State :=
  if dig then { s with digestParts := assocPut s.digestParts r p } else { s with cipherParts := assocPut s.cipherParts r p }
/-- Free a ring's part-state record (R220). -/
def freePart (dig : Bool) (r : Nat) (s : State) : State :=
  if dig then { s with digestParts := assocDel s.digestParts r } else { s with cipherParts := assocDel s.cipherParts r }
/-- A ring's open message of a kind. -/
def openPart (s : State) (dig : Bool) (r : Nat) : Option PartState := assocGet (partsOf s dig) r
/-- Its record was lost to an error (R376, kind 6). -/
def partLost (s : State) (dig : Bool) (r : Nat) : Bool := s.lostParts.contains (r + if dig then 0x10000 else 0)
/-- An export of the kind is outstanding on the ring (R246). -/
def exportOut (s : State) (dig : Bool) (r : Nat) : Option CtxOut := assocGet (if dig then s.digestOut else s.cipherOut) r
/-- The port's 256 records of a kind are used up (R218, R242). -/
def partsFull (s : State) (dig : Bool) (p : Nat) : Bool := decide (256 ≤ ((partsOf s dig).filter (fun c => c.2.port == p)).length)

/-- The entry touches an open message of the kind (R242). -/
def touchesPart (dig : Bool) (e : Bytes) : Bool :=
  let op := opcode e
  if op = 0x26 ∨ op = 0x27 then bit (flags e) 9 == dig
  else isPart (flags e) && (if dig then 0x20 ≤ op && op ≤ 0x22 else 0x10 ≤ op && op ≤ 0x14)
/-- An earlier-taken entry of the ring that touches the same message has not finished (R242). -/
def earlierTouch (s : State) (x : Hamper) (dig : Bool) : Bool :=
  s.hampers.any (fun y => y.ring == x.ring && decide (y.id < x.id) && !hamperStopped y &&
    y.entries.any (fun t => t.done.isNone && touchesPart dig t.bytes))

/-- The part sequence (R218, R246): what a part meets on its ring. -/
def partBad (s : State) (dig : Bool) (x : Hamper) (e : Bytes) (same : PartState → Bool) : Option Bad :=
  let f := flags e
  if !isPart f then none
  else if partFirst f then
    (if (openPart s dig x.ring).isSome then some ⟨stWrongState, 0, 0⟩
     else if partsFull s dig x.port then some ⟨stQuota, 0x10, 0⟩ else none)
  else if partLost s dig x.ring then some ⟨stPoison, 4, 0⟩
  else match openPart s dig x.ring with
    | none => some ⟨stWrongState, if dig || (exportOut s dig x.ring).isSome then 0x11 else 0, 0⟩
    | some p => if p.opcode = opcode e ∧ p.slot = slotOf e ∧ same p = true then none else some ⟨stBadParam, 0x0B, 0⟩

/-- A failing part; a lost record is reported once (R376). -/
def endPart (dig : Bool) (h : Nat) (x : Hamper) (e : Bytes) (b : Bad) (s : State) : State :=
  endBad h b (if laterPart dig e && b.status == stPoison then
      { s with lostParts := s.lostParts.filter (· != x.ring + if dig then 0x10000 else 0) } else s)

/-- The record a part leaves: updated while the message goes on; the completion of its last part, or of a failing one, frees it (R218, R220). -/
def nextPart (dig : Bool) (h : Nat) (x : Hamper) (e : Bytes) (q : PartState) (fin : State → State) (s : State) : State :=
  let poisoned := ((hamperOf s h).map (·.cupPoison)).getD false
  let s := fin s
  if poisoned || endsMessage (flags e) then s else putPart dig x.ring q s

/-- A key destroyed since an earlier part was taken: the next part completes KEY_ORPHANED (R220, R311). DEDUCED, log entry 72. -/
def partOrphan (s : State) (dig : Bool) (x : Hamper) (e : Bytes) (f : LoadFail) : LoadFail :=
  if laterPart dig e && (openPart s dig x.ring).isSome && f.status == stKeyMissing && f.detail == 0 then { f with status := stKeyOrphaned, detail := 1 } else f

/-- A failing key-store step of a part; a load is awaited. -/
def partKeyFailure (dig : Bool) (h : Nat) (x : Hamper) (e : Bytes) (r : KeyRes) (s : State) : State :=
  match r with
  | .fail f => loadEvent x.domain f (let g := partOrphan s dig x e f; endPart dig h x e ⟨g.status, g.detail, 0⟩ s)
  | .wait hs => requestLoads x.domain hs s
  | .key _ => s

/-- What a REDUNDANT mismatch does (R223, R233, R273, R283): the event, ENGINE_FAULT, both engines fenced. -/
def redundantFault (h : Nat) (x : Hamper) (src detail : Nat) (s : State) : State :=
  let i := x.engines.foldl min (x.engines.headD 0)
  let s := raise (engineBlock i).1 src (engineBlock i).2 (some x.domain) (strikeHamper h stEngineFault detail s)
  x.engines.foldl (fun s j => fence j s) s

/-- Rails that disagree (R215, R240): the event of the block concerned; the entry completes ENGINE_FAULT, 0x02. DEDUCED, log entry 74. -/
def railsFault (h : Nat) (x : Hamper) (blk src : Nat) (d : Done) (s : State) : State :=
  let i := x.engines.foldl min (x.engines.headD 0)
  let s := match hamperOf s h with
    | some y => if y.cupPoison then failEntry h stEngineFault 2 s else finishEntry s h d
    | none => s
  raise blk src (if x.engines = [] then 0 else (engineBlock i).2) (some x.domain) s

/-- The rails disagree in the seal check of the entry's key (R240): its operation makes no compare of its own here. DEDUCED, log entry 74. -/
def sealSplit (flt : OpFault) (k : Key) (e : Bytes) : Bool :=
  flt == .railsDisagree && k.sealMeas != 0 && !(endsMessage (flags e) && [0x12, 0x14, 0x22].contains (opcode e))

/-- What such a seal check does to a cipher or digest entry: it fails, a part's message ending with it (R220, R240). DEDUCED, log entry 74. -/
def sealFault (dig : Bool) (h : Nat) (x : Hamper) (e : Bytes) (s : State) : State :=
  let i := x.engines.foldl min (x.engines.headD 0)
  raise (if dig then 10 else 9) 2 (if x.engines = [] then 0 else (engineBlock i).2) (some x.domain) (endPart dig h x e ⟨stEngineFault, 2, 0⟩ s)

end Sys2Proof.Machine
end

