-- ==== Sys2Proof/Machine/Cipher.lean ====
section
/-! DEFINITION. The cipher engines: CIPHER, AEAD_SEAL, AEAD_OPEN, MAC_GEN and MAC_CHECK (R202 to R228). -/

namespace Sys2Proof.Machine

/-- MODE of a cipher entry (R207). -/
def modeOf (e : Bytes) : Nat := bits (flags e) 7 4
/-- Key types a mode accepts (R205). -/
def modeTypes (mode : Nat) : List Nat :=
  match mode with
  | 3 => [0x04, 0x05]
  | 6 => [0x06]
  | _ => [0x01, 0x02, 0x03]
/-- Usage, type and class of a cipher entry's key (R202, R209); an XTS key with equal halves (R206). -/
def cipherJudge (use mode : Nat) (k : Key) : Option (Nat × Nat) :=
  if !bit k.usage use then some (stKeyUsage, 1)
  else if !(modeTypes mode).contains k.typ then some (stKeyUsage, 2)
  else if (cipherNeed k.cls (mode == 6)).isNone then some (stKeyClass, 0)
  else none
/-- The two halves of an XTS key are equal (R206). DEDUCED, log entry 70. -/
def xtsHalvesEqual (mode : Nat) (k : Key) : Bool :=
  mode == 3 && (keyOctets k).take ((keyOctets k).length / 2) == (keyOctets k).drop ((keyOctets k).length / 2)

/-- A part continues its PART_FIRST: MODE and DIR (R218). -/
def sameCipher (e : Bytes) (p : PartState) : Bool := bits p.flags 7 4 == modeOf e && bit p.flags 3 == bit (flags e) 3

/-- The engines of a cipher entry hold blocks while the DRBG reports a failure (R224): the entry waits, MASK_STALL being
raised. -/
def withMasks (x : Hamper) (run : State → State) (s : State) : State :=
  if s.rng.stopped then
    (if x.engines = [] then s else raise 9 3 (x.engines.foldl min (x.engines.headD 0)) (some x.domain) s)
  else run s

/-- The frame of a cipher operation (R208): checks 1 and 2, the key step, its own later checks, the engines, the reads. `share` is the meter it
advances and by how much. -/
def cipherFrame (h : Nat) (x : Hamper) (e : Bytes) (use : Nat) (early : Option Bad) (later : Key → Option Bad)
    (extra : List (Nat × Nat)) (outLen : Nat) (share : Nat × Nat) (run : Key → State → State) (s : State) : State :=
  if isPart (flags e) && earlierTouch s x false then s else
  match early with
  | some b => endPart false h x e b s
  | none =>
    if awaitsGrant s x e then s else
    match keyStep s x (slotOf e) (cipherJudge use (modeOf e)) with
    | .key k =>
      (match later k with
       | some b => endPart false h x e b s
       | none => withEngines h x ((cipherNeed k.cls (modeOf e == 6)).getD []) (withMasks x
           (withReads h x (readRanges s x e ++ extra) (withRoom e outLen (run k)))) (takeShare h x share.1 share.2 s))
    | r => partKeyFailure false h x e r s

/-- The PARAM of a later part is zero (R218, R242): judged with the fields, before the part sequence (R208, R232). DEDUCED, log entry 70. -/
def laterParamBad (e : Bytes) (zeroed : Bytes) : Option Bad :=
  if isPart (flags e) && !partFirst (flags e) && !allZero zeroed then some ⟨stBadParam, 0x0B, 0⟩ else none

/-- The first of two optional failures. -/
def orBad (a b : Option Bad) : Option Bad := match a with | some x => some x | none => b

/-- The open message a later part continues. -/
def carried (s : State) (x : Hamper) (e : Bytes) : Option PartState :=
  if isPart (flags e) && !partFirst (flags e) then openPart s false x.ring else none

/-- A CTR entry of `n` octets wraps (R212): a block would need a counter value beyond all-ones, which the message may have used already. DEDUCED, log entry 70. -/
def ctrWraps (width : Nat) (c : Bytes) (spent : Bool) (n : Nat) : Bool :=
  decide (2 ^ width < beNat c % 2 ^ width + (n + 15) / 16) || (spent && n != 0)
/-- The entry uses the all-ones value of its counter field. -/
def ctrSpends (width : Nat) (c : Bytes) (n : Nat) : Bool := decide (2 ^ width = beNat c % 2 ^ width + (n + 15) / 16)

/-- Checks 1 and 2 of CIPHER (R207, R208, R212, R218). -/
def cipherEarly (s : State) (x : Hamper) (e : Bytes) : Option Bad :=
  let f := flags e; let p := paramOf e; let mode := modeOf e
  let cb := leAt p 0x14 1; let du := leAt p 0x10 4
  let own := firstBad [
    (auxOf e != 0 || f / 0x800 != 0 || bits f 9 8 != 0 || !srcForm true e, ⟨stBadParam, 1, 0⟩),
    (decide (3 < mode), ⟨stBadParam, 2, 0⟩),
    (mode == 0 && bit f 10, ⟨stBadParam, 1, 0⟩),
    (!partsOk f || (mode == 0 && isPart f), ⟨stBadParam, 6, 0⟩)]
  let fields := firstBad [
    (!allZero (slice p 0x15 11) || (mode == 0 && !allZero (slice p 0 16)), ⟨stBadParam, 1, 0⟩),
    (if mode = 3 then decide (du < 16) || decide (65536 < du) else du != 0, ⟨stBadParam, 9, 0⟩),
    (if mode = 2 then !(cb == 32 || cb == 64 || cb == 128) else cb != 0, ⟨stBadParam, 9, 0⟩)]
  orBad own (orBad (if opensMessage f then fields else none) (orBad (laterParamBad e p) (partBad s false x e (sameCipher e))))

/-- The chaining value, tweak or counter block a CIPHER entry starts from, with its field widths. -/
def cipherStart (s : State) (x : Hamper) (e : Bytes) : Bytes × Bytes :=
  match carried s x e with
  | some q => (q.chain, q.param)
  | none => (slice (paramOf e) 0 16, paramOf e)

/-- Checks 7 and 8 of CIPHER, the cap, ECB over more than one block, and the wrap of the counter (R205, R206, R208, R210, R212, R218, R331).
DEDUCED, log entry 70. -/
def cipherLater (s : State) (x : Hamper) (e : Bytes) (k : Key) : Option Bad :=
  let mode := modeOf e; let st := cipherStart s x e
  let n := srcTotal s x e
  let du := leAt st.2 0x10 4
  orBad (if xtsHalvesEqual mode k then some ⟨stBadParam, 8, 0⟩ else none)
    (orBad (addressBad s x true true e [])
      (orBad (firstBad [
        (mode == 0 && decide (16 < n), ⟨stBadParam, 2, 0⟩),
        (decide (maxSource < n), ⟨stBadLength, 3, 0⟩),
        ((mode == 0 && n != 16) || (mode == 1 && n % 16 != 0) || (mode == 3 && n % du != 0), ⟨stBadLength, 1, 0⟩),
        (mode != 3 && isPart (flags e) && !partLast (flags e) && n % 16 != 0, ⟨stBadLength, 1, 0⟩),
        (decide (dstLenOf e < n), ⟨stBadLength, 0, n⟩),
        (mode == 2 && ctrWraps (leAt st.2 0x14 1) st.1 ((carried s x e).any (·.spent)) n, ⟨stBadParam, 5, 0⟩)])
        (capBad s x 4 n)))

/-- What CIPHER computes from a starting value: output and next value (R205, R212). -/
def cipherOutput (mode : Nat) (dec : Bool) (key start param m : Bytes) : Bytes × Bytes :=
  match mode with
  | 0 => (if dec then aesDec key m else aesEnc key m, start)
  | 1 => aesCbc dec key start m
  | 2 => aesCtr (leAt param 0x14 1) key start m
  | _ => aesXts dec key start (leAt param 0x10 4) m

/-- The record of a message that opens with this entry. -/
def freshPart (x : Hamper) (e : Bytes) : PartState :=
  { opcode := opcode e, flags := flags e, slot := slotOf e, port := x.port, domain := x.domain, param := paramOf e, chain := [],
    aad := [], acc := [], total := 0 }

/-- CIPHER on engines that hold the key (R212, R217, R218). -/
def cipherExecute (h : Nat) (flt : OpFault) (x : Hamper) (e : Bytes) (k : Key) (s : State) : State :=
  if flt = .redundantMismatch ∧ x.engines.length = 2 then redundantFault h x 1 1 s else
  if sealSplit flt k e then sealFault false h x e s else
  let f := flags e; let mode := modeOf e; let st := cipherStart s x e
  let m := readAll s x (srcRanges s x e)
  let r := cipherOutput mode (bit f 3) (keyOctets k) st.1 st.2 m
  let q := (carried s x e).getD (freshPart x e)
  let param := if bit f 10 then some (r.2 ++ slice (paramOf e) 16 16) else none
  let spent := mode == 2 && (q.spent || ctrSpends (leAt st.2 0x14 1) st.1 m.length)
  nextPart false h x e { q with chain := r.2, total := q.total + m.length, spent := spent }
    (complete h e r.1 { status := stOk, len := m.length, param := param }) s

/-- CIPHER (R212). -/
def cipherRun (flt : OpFault) (h : Nat) (x : Hamper) (e : Bytes) (s : State) : State :=
  cipherFrame h x e (if bit (flags e) 3 then useDecrypt else useEncrypt) (cipherEarly s x e) (cipherLater s x e) []
    (srcTotal s x e) (4, srcTotal s x e) (cipherExecute h flt x e) s

/-- CIPHER (R212). -/
def execCipher (h : Nat) (flt : OpFault) (s : State) : Host.Outcome State Fault Refusal :=
  .next (runEntry 0x10 h (cipherRun flt h) s)

/-- AAD of an AEAD entry (R213). -/
def aadOf (e : Bytes) : Nat × Nat := (leAt (paramOf e) 0x14 4, leAt (paramOf e) 0x18 4)
/-- Nonce lengths, tag lengths and AAD limits of an AEAD mode (R205). -/
def nonceOk (mode n : Nat) : Bool :=
  match mode with
  | 4 => decide (1 ≤ n) && decide (n ≤ 16)
  | 5 => decide (7 ≤ n) && decide (n ≤ 13)
  | _ => n == 12
def aeadTagOk (mode n : Nat) : Bool :=
  match mode with
  | 4 => decide (12 ≤ n) && decide (n ≤ 16)
  | 5 => decide (4 ≤ n) && decide (n ≤ 16) && n % 2 == 0
  | _ => n == 16
def aadLimit (mode : Nat) : Nat := if mode = 5 then 65279 else 1048576
/-- The payload a message may have (R205). -/
def payloadLimit (mode nonceLen : Nat) : Nat :=
  match mode with
  | 4 => 2 ^ 36 - 32
  | 5 => 2 ^ (8 * (15 - nonceLen)) - 1
  | _ => 2 ^ 38 - 64

/-- Checks 1 and 2 of AEAD_SEAL and AEAD_OPEN (R206, R207, R213, R214, R218, R219). -/
def aeadEarly (s : State) (x : Hamper) (e : Bytes) : Option Bad :=
  let f := flags e; let p := paramOf e; let mode := modeOf e
  let isSeal := opcode e == 0x11
  let nl := leAt p 0x10 1
  let own := firstBad [
    (auxOf e != 0 || f / 0x400 != 0 || bit f 3 || (if isSeal then bit f 9 else bit f 8) || !srcForm true e, ⟨stBadParam, 1, 0⟩),
    (decide (mode < 4) || decide (6 < mode), ⟨stBadParam, 2, 0⟩),
    (bit f 8 && mode != 4, ⟨stBadParam, 1, 0⟩),
    (!partsOk f || (mode == 5 && isPart f), ⟨stBadParam, 6, 0⟩)]
  let fields := firstBad [
    (!allZero (slice p 0x12 2) || !allZero (slice p 0x1C 4), ⟨stBadParam, 1, 0⟩),
    (bit f 8 && !allZero (slice p 0 16), ⟨stBadParam, 1, 0⟩),
    (!nonceOk mode nl || (bit f 8 && nl != 12), ⟨stBadParam, 3, 0⟩),
    (!allZero (slice p nl (16 - nl)), ⟨stBadParam, 1, 0⟩),
    (!aeadTagOk mode (leAt p 0x11 1), ⟨stBadParam, 4, 0⟩)]
  orBad own (orBad (if opensMessage f then fields else none) (orBad
    (firstBad [
      (isPart f && !partFirst f && leAt p 0x18 4 != 0, ⟨stBadParam, 7, 0⟩),
      (isPart f && !isSeal && !bit f 9, ⟨stBadParam, 0x0A, 0⟩)])
    (orBad (laterParamBad e p) (partBad s false x e (sameCipher e)))))

/-- The record an AEAD entry works on: the open message, or a fresh one. -/
def aeadState (s : State) (x : Hamper) (e : Bytes) : PartState := (carried s x e).getD (freshPart x e)
/-- Tag length of the message. -/
def tagLen (q : PartState) : Nat := leAt q.param 0x11 1
/-- Payload of the entry: without the tag that ends an AEAD_OPEN. -/
def aeadPayload (s : State) (x : Hamper) (e : Bytes) : Nat :=
  srcTotal s x e - (if opcode e = 0x12 ∧ endsMessage (flags e) = true then tagLen (aeadState s x e) else 0)
/-- Output of the entry: with the tag that ends an AEAD_SEAL. -/
def aeadOutLen (s : State) (x : Hamper) (e : Bytes) : Nat :=
  aeadPayload s x e + (if opcode e = 0x11 ∧ endsMessage (flags e) = true then tagLen (aeadState s x e) else 0)

/-- Checks 7 and 8 of the AEAD operations and the cap (R205, R208, R210, R214, R215, R218, R331). -/
def aeadLater (s : State) (x : Hamper) (e : Bytes) (_k : Key) : Option Bad :=
  let mode := modeOf e; let q := aeadState s x e
  let n := srcTotal s x e; let m := aeadPayload s x e
  let unit := if mode = 6 then 64 else 16
  orBad (addressBad s x true true e [aadOf e])
    (orBad (firstBad [
      (decide (maxSource < n), ⟨stBadLength, 3, 0⟩),
      (decide (aadLimit mode < (aadOf e).2), ⟨stBadLength, 2, 0⟩),
      (opcode e == 0x12 && endsMessage (flags e) && decide (n < tagLen q), ⟨stBadLength, 1, 0⟩),
      (isPart (flags e) && !partLast (flags e) && n % unit != 0, ⟨stBadLength, 1, 0⟩),
      (decide (payloadLimit mode (leAt q.param 0x10 1) < q.total + m), ⟨stBadLength, 3, 0⟩),
      (decide (dstLenOf e < aeadOutLen s x e), ⟨stBadLength, 0, aeadOutLen s x e⟩)])
      (capBad s x 4 m))

/-- Keystream of an AEAD message applied from an octet of it on. -/
def aeadCrypt (mode : Nat) (key nonce : Bytes) (total : Nat) (m : Bytes) : Bytes :=
  match mode with
  | 4 => gcmCrypt key nonce (total / 16) m
  | 5 => ccmCrypt key nonce m
  | _ => chachaCrypt key nonce (total / 64) m
/-- Tag of an AEAD message over its associated data, plaintext and ciphertext. -/
def aeadTag (mode : Nat) (key nonce aad plain c : Bytes) (t : Nat) : Bytes :=
  match mode with
  | 4 => (gcmTag key nonce aad c).take t
  | 5 => ccmTag key nonce aad plain t
  | _ => (chachaTag key nonce aad c).take t

/-- PARAM with a result pair (R215). -/
def withPair (e pair : Bytes) : Bytes := slice (paramOf e) 0 30 ++ pair

/-- AEAD_SEAL with its nonce known: the IV returned in PARAM when the device made it (R214); of a multi-part message with the part that opens it,
IV_GEN of later parts being without effect (DESIGN CHOICE, log entry 95). -/
def sealFinish (h : Nat) (x : Hamper) (e : Bytes) (k : Key) (q : PartState) (nonce : Bytes) (s : State) : State :=
  let f := flags e; let mode := modeOf e
  let m := readAll s x (srcRanges s x e)
  let aad := if opensMessage f then readAt s x (aadOf e).1 (aadOf e).2 else q.aad
  let c := aeadCrypt mode (keyOctets k) nonce q.total m
  let tag := if endsMessage f then aeadTag mode (keyOctets k) nonce aad m (q.acc ++ c) (tagLen q) else []
  let param := if bit f 8 && opensMessage f then some (fitTo 12 nonce ++ slice (paramOf e) 12 20) else none
  nextPart false h x e { q with chain := nonce, aad := aad, acc := q.acc ++ c, total := q.total + m.length }
    (complete h e (c ++ tag) { status := stOk, len := c.length + tag.length, param := param }) s

/-- AEAD_SEAL on engines that hold the key (R214, R224, R286). -/
def sealExecute (h : Nat) (flt : OpFault) (x : Hamper) (e : Bytes) (k : Key) (s : State) : State :=
  if flt = .redundantMismatch ∧ x.engines.length = 2 then redundantFault h x 1 1 s else
  if sealSplit flt k e then sealFault false h x e s else
  let q := aeadState s x e
  if !opensMessage (flags e) then sealFinish h x e k q q.chain s
  else if bit (flags e) 8 then
    (match drawFor x 12 s with
     | some r => sealFinish h x e k q r.1 r.2
     | none => awaitRng s)
  else sealFinish h x e k q (slice q.param 0 (leAt q.param 0x10 1)) s

/-- AEAD_SEAL (R214). -/
def execAeadSeal (h : Nat) (flt : OpFault) (s : State) : Host.Outcome State Fault Refusal :=
  .next (runEntry 0x11 h (fun x e s =>
    cipherFrame h x e useEncrypt (aeadEarly s x e) (aeadLater s x e) (if (aadOf e).2 = 0 then [] else [aadOf e]) (aeadOutLen s x e)
      (4, aeadPayload s x e) (sealExecute h flt x e) s) s)

/-- The end of an AEAD_OPEN or MAC_CHECK by its dual-rail verdict (R215, R216, R240); its output is zeroed unless it matches. DEDUCED, log entry 74. -/
def verdictEnd (h : Nat) (x : Hamper) (e : Bytes) (flt : OpFault) (matched : Bool) (out : Bytes) (blk src : Nat)
    (s : State) : State :=
  if flt = .railsDisagree then
    railsFault h x blk src { status := stEngineFault, detail := 2, param := some (withPair e pairNone) } (writeAt h (dstOf e) (zeros out.length) s)
  else if matched then complete h e out { status := stOk, len := out.length, param := some (withPair e pairMatch) } s
  else
    let s := writeAt h (dstOf e) (zeros out.length) s
    match hamperOf s h with
    | some y =>
      if y.cupPoison then failEntry h stAuthFail 0 s
      else finishEntry s h { status := stAuthFail, param := some (withPair e pairMismatch) }
    | none => s

/-- AEAD_OPEN on engines that hold the key (R215, R219). -/
def openExecute (h : Nat) (flt : OpFault) (x : Hamper) (e : Bytes) (k : Key) (s : State) : State :=
  if flt = .redundantMismatch ∧ x.engines.length = 2 then redundantFault h x 1 1 s else
  if sealSplit flt k e then sealFault false h x e s else
  let f := flags e; let mode := modeOf e; let q := aeadState s x e
  let b := readAll s x (srcRanges s x e)
  let c := b.take (aeadPayload s x e)
  let nonce := if opensMessage f then slice q.param 0 (leAt q.param 0x10 1) else q.chain
  let aad := if opensMessage f then readAt s x (aadOf e).1 (aadOf e).2 else q.aad
  let m := aeadCrypt mode (keyOctets k) nonce q.total c
  let q' := { q with chain := nonce, aad := aad, acc := q.acc ++ c, total := q.total + c.length }
  if !endsMessage f then
    nextPart false h x e q' (complete h e m { status := stOk, len := m.length }) s
  else
    let tag := aeadTag mode (keyOctets k) nonce aad m (q.acc ++ c) (tagLen q)
    verdictEnd h x e flt (tag == b.drop (aeadPayload s x e)) m 9 2 s

/-- AEAD_OPEN (R215). -/
def execAeadOpen (h : Nat) (flt : OpFault) (s : State) : Host.Outcome State Fault Refusal :=
  .next (runEntry 0x12 h (fun x e s =>
    cipherFrame h x e useDecrypt (aeadEarly s x e) (aeadLater s x e) (if (aadOf e).2 = 0 then [] else [aadOf e]) (aeadOutLen s x e)
      (4, aeadPayload s x e) (openExecute h flt x e) s) s)

/-- Checks 1 and 2 of MAC_GEN and MAC_CHECK (R207, R216, R218). -/
def macEarly (s : State) (x : Hamper) (e : Bytes) : Option Bad :=
  let f := flags e; let p := paramOf e; let mode := modeOf e
  let check := opcode e == 0x14
  let tl := leAt p 0x1C 1
  let own := firstBad [
    (auxOf e != 0 || f / 0x100 != 0 || bit f 3 || !srcForm true e || !noDst e, ⟨stBadParam, 1, 0⟩),
    (decide (mode < 7) || decide (8 < mode), ⟨stBadParam, 2, 0⟩),
    (!partsOk f, ⟨stBadParam, 6, 0⟩)]
  let fields := firstBad [
    (!allZero (slice p 0x1D 3) || (mode == 7 && !allZero (slice p 0x10 12)), ⟨stBadParam, 1, 0⟩),
    (decide (16 < tl) || decide (tl < if mode = 7 then 8 else 12), ⟨stBadParam, 4, 0⟩),
    (!allZero (if check then slice p tl (16 - tl) else slice p 0 16), ⟨stBadParam, 1, 0⟩)]
  let last := firstBad [(!allZero (slice p tl (16 - tl)), ⟨stBadParam, 1, 0⟩)]
  let later := if check && partLast f then slice p 0x10 12 ++ slice p 0x1D 3 else p
  let same := fun (q : PartState) => sameCipher e q && (!(check && partLast f) || leAt q.param 0x1C 1 == tl)
  orBad own (orBad (if opensMessage f then fields else if check && partLast f then last else none)
    (orBad (laterParamBad e later) (partBad s false x e same)))

/-- Checks 7 and 8 of the MAC operations and the cap (R205, R208, R218, R331). -/
def macLater (s : State) (x : Hamper) (e : Bytes) (_k : Key) : Option Bad :=
  let n := srcTotal s x e; let q := aeadState s x e
  orBad (addressBad s x true false e [])
    (orBad (firstBad [
      (decide (maxSource < n), ⟨stBadLength, 3, 0⟩),
      (isPart (flags e) && !partLast (flags e) && n % 16 != 0, ⟨stBadLength, 1, 0⟩),
      (modeOf e == 8 && decide (2 ^ 36 - 32 < q.total + n), ⟨stBadLength, 3, 0⟩)])
      (capBad s x 3 1))

/-- MAC_GEN or MAC_CHECK on engines that hold the key (R216, R219). -/
def macExecute (h : Nat) (flt : OpFault) (x : Hamper) (e : Bytes) (k : Key) (s : State) : State :=
  if flt = .redundantMismatch ∧ x.engines.length = 2 then redundantFault h x 1 1 s else
  if sealSplit flt k e then sealFault false h x e s else
  let f := flags e; let q := aeadState s x e
  let m := readAll s x (srcRanges s x e)
  let q' := { q with acc := q.acc ++ m, total := q.total + m.length }
  if !endsMessage f then nextPart false h x e q' (complete h e [] { status := stOk }) s
  else
    let t := (if modeOf e = 7 then cmac (keyOctets k) q'.acc else gcmTag (keyOctets k) (slice q.param 0x10 12) q'.acc []).take (leAt q.param 0x1C 1)
    if opcode e = 0x13 then
      complete h e [] { status := stOk, len := t.length, param := some (fitTo 16 t ++ slice (paramOf e) 16 16) } s
    else verdictEnd h x e flt (t == slice (paramOf e) 0 t.length) [] 9 2 s

/-- The two MAC operations (R216). -/
def macRun (flt : OpFault) (h : Nat) (x : Hamper) (e : Bytes) (s : State) : State :=
  cipherFrame h x e useMac (macEarly s x e) (macLater s x e) [] 0 (3, 1) (macExecute h flt x e) s

/-- MAC_GEN (R216). -/
def execMacGen (h : Nat) (flt : OpFault) (s : State) : Host.Outcome State Fault Refusal := .next (runEntry 0x13 h (macRun flt h) s)

/-- MAC_CHECK (R216). -/
def execMacCheck (h : Nat) (flt : OpFault) (s : State) : Host.Outcome State Fault Refusal := .next (runEntry 0x14 h (macRun flt h) s)

end Sys2Proof.Machine
end

