-- ==== Sys2Proof/Machine/Digest.lean ====
section
/-! DEFINITION. The digest engines and measurement: DIGEST, HMAC_GEN, HMAC_CHECK, COMPARE, EXTEND, QUOTE, CTX_EXPORT, CTX_IMPORT,
the clearing of engine state and the backfill of the Tongs (R229 to R262). -/

namespace Sys2Proof.Machine

/-- ALG of a digest entry (R231). -/
def algOf (e : Bytes) : Nat := bits (flags e) 7 4
/-- A part continues its PART_FIRST: ALG (R242). -/
def sameDigest (e : Bytes) (p : PartState) : Bool := bits p.flags 7 4 == algOf e
/-- The open digest message a later part continues. -/
def carriedDigest (s : State) (x : Hamper) (e : Bytes) : PartState :=
  ((if isPart (flags e) && !partFirst (flags e) then openPart s true x.ring else none)).getD (freshPart x e)

/-- The frame of a digest operation without a key (R232): checks, engines, reads. -/
def digestFrame (h : Nat) (x : Hamper) (e : Bytes) (n : Need) (bad : Option Bad) (reads : List (Nat × Nat)) (outLen : Nat)
    (run : State → State) (s : State) : State :=
  if isPart (flags e) && earlierTouch s x true then s else
  match bad with
  | some b => endPart true h x e b s
  | none => withEngines h x n (withReads h x reads (withRoom e outLen run)) s

/-- Length checks of a digest source, whole blocks in every part but the last (R229, R232, R242). -/
def digestLengths (s : State) (x : Hamper) (e : Bytes) (n : Nat) : Option Bad :=
  firstBad [
    (decide (maxSource < n), ⟨stBadLength, 3, 0⟩),
    (decide (2 ^ 48 - 1 < (carriedDigest s x e).total + n), ⟨stBadLength, 3, 0⟩),
    (isPart (flags e) && !partLast (flags e) && n % algBlock (algOf e) != 0, ⟨stBadLength, 1, 0⟩)]

/-- Octets of the digest of a message: for SHAKE its OUT_LEN, which a multi-part message gives in PART_FIRST (R218, R229, R236). -/
def digestOutLen (q : PartState) : Nat := if 8 ≤ bits q.flags 7 4 then leAt q.param 0 4 else algOut (bits q.flags 7 4)

/-- The checks of DIGEST (R230, R231, R232, R236). DEDUCED, log entry 70. -/
def digestBad (s : State) (x : Hamper) (e : Bytes) : Option Bad :=
  let f := flags e; let p := paramOf e; let alg := algOf e
  let ol := leAt p 0 4; let inline := bit f 8
  let n := srcTotal s x e
  let fin := endsMessage f
  let out := digestOutLen (carriedDigest s x e)
  orBad (firstBad [
    (auxOf e != 0 || f / 0x200 != 0 || bit f 3 || !srcForm true e, ⟨stBadParam, 1, 0⟩),
    (decide (9 < alg), ⟨stBadParam, 2, 0⟩),
    (!partsOk f, ⟨stBadParam, 1, 0⟩),
    (opensMessage f && !allZero (slice p 4 28), ⟨stBadParam, 1, 0⟩),
    (opensMessage f && decide (8 ≤ alg) && decide (4096 < ol), ⟨stBadParam, 2, 0⟩),
    (opensMessage f && (if 8 ≤ alg then decide (ol < 1) else ol != 0), ⟨stBadParam, 0x23, 0⟩),
    (inline && decide (32 < out), ⟨stBadParam, 0x23, 0⟩),
    (inline && !noDst e, ⟨stBadParam, 1, 0⟩)])
  (orBad (laterParamBad e p)
  (orBad (partBad s true x e (sameDigest e))
  (orBad (if slotOf e ≠ 0 then some ⟨stBadParam, 1, 0⟩ else none)
  (orBad (addressBad s x true false e [])
  (orBad (digestLengths s x e n)
    (if fin && !inline && decide (dstLenOf e < out) then some ⟨stBadLength, 0, out⟩ else none))))))

/-- DIGEST on its engine (R236, R242). -/
def digestExecute (h : Nat) (x : Hamper) (e : Bytes) (s : State) : State :=
  let q := carriedDigest s x e
  let m := readAll s x (srcRanges s x e)
  let q' := { q with acc := q.acc ++ m, total := q.total + m.length }
  if !endsMessage (flags e) then nextPart true h x e q' (complete h e [] { status := stOk }) s
  else
    let d := hashAlg (algOf e) (digestOutLen q) q'.acc
    if bit (flags e) 8 then complete h e [] { status := stOk, len := d.length, param := some (inlineParam d) } s
    else complete h e d { status := stOk, len := d.length } s

/-- DIGEST (R236). -/
def digestRun (h : Nat) (x : Hamper) (e : Bytes) (s : State) : State :=
  digestFrame h x e [digestPds] (digestBad s x e) (readRanges s x e) (digestOutLen (carriedDigest s x e)) (digestExecute h x e) s

/-- The fault a digest engine meets: a bus error is the business of ENGINE_STATE_CLEAR (R244). -/
def execDigest (h : Nat) (_flt : OpFault) (s : State) : Host.Outcome State Fault Refusal := .next (runEntry 0x20 h (digestRun h) s)

/-- Usage, type and class of an HMAC entry's key (R233, R237). -/
def hmacJudge (k : Key) : Option (Nat × Nat) :=
  if !bit k.usage useMac then some (stKeyUsage, 1)
  else if k.typ ≠ 0x07 ∨ k.param < 16 ∨ 128 < k.param then some (stKeyUsage, 2)
  else if k.cls = clsGuarded then some (stKeyClass, 0)
  else none

/-- TAG_LEN is legal for the algorithm (R238). -/
def hmacTagOk (alg n : Nat) : Bool := decide (max 16 (algOut alg / 2) ≤ n) && decide (n ≤ algOut alg)
/-- EXP_ADDR and its length in an HMAC_CHECK (R238). -/
def expOf (e : Bytes) : Nat × Nat := (leAt (paramOf e) 0 4, leAt (paramOf e) 4 1)

/-- TAG_LEN of an HMAC_GEN message, which a multi-part message gives in PART_FIRST (R218, R238). -/
def hmacTagLen (q : PartState) : Nat := leAt q.param 0 1

/-- Checks 1 to 3 of HMAC_GEN (R218, R231, R238, R242). DEDUCED, log entry 70. -/
def hmacGenEarly (s : State) (x : Hamper) (e : Bytes) : Option Bad :=
  let f := flags e; let p := paramOf e; let alg := algOf e; let tl := hmacTagLen (carriedDigest s x e)
  orBad (firstBad [
    (auxOf e != 0 || f / 0x200 != 0 || bit f 3 || !srcForm true e, ⟨stBadParam, 1, 0⟩),
    (decide (7 < alg), ⟨stBadParam, 2, 0⟩),
    (!partsOk f, ⟨stBadParam, 1, 0⟩),
    (opensMessage f && !allZero (slice p 1 31), ⟨stBadParam, 1, 0⟩),
    (opensMessage f && !hmacTagOk alg tl, ⟨stBadParam, 4, 0⟩),
    (bit f 8 && decide (32 < tl), ⟨stBadParam, 0x23, 0⟩),
    (bit f 8 && !noDst e, ⟨stBadParam, 1, 0⟩)])
  (orBad (laterParamBad e p) (partBad s true x e (sameDigest e)))

/-- Checks 1 to 3 of HMAC_CHECK (R231, R238, R242). DEDUCED, log entry 70. -/
def hmacCheckEarly (s : State) (x : Hamper) (e : Bytes) : Option Bad :=
  let f := flags e; let p := paramOf e; let alg := algOf e
  orBad (firstBad [
    (auxOf e != 0 || f / 0x100 != 0 || bit f 3 || !srcForm true e || !noDst e, ⟨stBadParam, 1, 0⟩),
    (decide (7 < alg), ⟨stBadParam, 2, 0⟩),
    (!partsOk f, ⟨stBadParam, 1, 0⟩),
    (opensMessage f && !allZero (slice p 5 27), ⟨stBadParam, 1, 0⟩),
    (partFirst f && !allZero (slice p 0 5), ⟨stBadParam, 1, 0⟩),
    (endsMessage f && !hmacTagOk alg (expOf e).2, ⟨stBadParam, 4, 0⟩)])
  (orBad (laterParamBad e (if endsMessage f then slice p 5 27 else p)) (partBad s true x e (sameDigest e)))

/-- Checks 8 and 9 of the HMAC operations and the cap (R232, R234, R242, R331). -/
def hmacLater (s : State) (x : Hamper) (e : Bytes) (extra : List (Nat × Nat)) : Option Bad :=
  let f := flags e; let tl := hmacTagLen (carriedDigest s x e)
  orBad (addressBad s x true false e extra)
  (orBad (digestLengths s x e (srcTotal s x e))
  (orBad (if opcode e == 0x21 && endsMessage f && !bit f 8 && decide (dstLenOf e < tl) then some ⟨stBadLength, 0, tl⟩ else none)
    (capBad s x 3 1)))

/-- HMAC_GEN or HMAC_CHECK on engines that hold the key (R237, R238, R242). -/
def hmacExecute (h : Nat) (flt : OpFault) (x : Hamper) (e : Bytes) (k : Key) (s : State) : State :=
  if flt = .redundantMismatch ∧ x.engines.length = 2 then redundantFault h x 3 1 s else
  if sealSplit flt k e then sealFault true h x e s else
  let f := flags e; let q := carriedDigest s x e
  let m := readAll s x (srcRanges s x e)
  let q' := { q with acc := q.acc ++ m, total := q.total + m.length }
  if !endsMessage f then nextPart true h x e q' (complete h e [] { status := stOk }) s
  else
    let full := hmac (algOf e) (keyOctets k) q'.acc
    if opcode e = 0x21 then
      let t := full.take (hmacTagLen q)
      if bit f 8 then
        complete h e [] { status := stOk, len := t.length, param := some (inlineParam t) } s
      else complete h e t { status := stOk, len := t.length } s
    else
      let c := expOf e
      verdictEnd h x e flt (full.take c.2 == readAt s x c.1 c.2) [] 10 2 s

/-- The two HMAC operations (R237, R238). -/
def hmacRun (flt : OpFault) (h : Nat) (x : Hamper) (e : Bytes) (s : State) : State :=
  let extra := if opcode e = 0x22 ∧ (expOf e).2 ≠ 0 then [expOf e] else []
  if isPart (flags e) && earlierTouch s x true then s else
  match (if opcode e = 0x21 then hmacGenEarly s x e else hmacCheckEarly s x e) with
  | some b => endPart true h x e b s
  | none =>
    if awaitsGrant s x e then s else
    match keyStep s x (slotOf e) hmacJudge with
    | .key k =>
      (match hmacLater s x e extra with
       | some b => endPart true h x e b s
       | none => withEngines h x ((hmacNeed k.cls).getD []) (withReads h x (readRanges s x e ++ extra)
           (withRoom e (hmacTagLen (carriedDigest s x e)) (hmacExecute h flt x e k))) (takeShare h x 3 1 s))
    | r => partKeyFailure true h x e r s

/-- HMAC_GEN (R238). -/
def execHmacGen (h : Nat) (flt : OpFault) (s : State) : Host.Outcome State Fault Refusal := .next (runEntry 0x21 h (hmacRun flt h) s)

/-- HMAC_CHECK (R238). -/
def execHmacCheck (h : Nat) (flt : OpFault) (s : State) : Host.Outcome State Fault Refusal := .next (runEntry 0x22 h (hmacRun flt h) s)

/-- The second operand of COMPARE as a range: none when it is a measurement register (R239). -/
def bRange (e : Bytes) : List (Nat × Nat) :=
  if bit (flags e) 10 then [] else if srcLenOf e = 0 then [] else [(leAt (paramOf e) 0 4, srcLenOf e)]

/-- The checks of COMPARE (R231, R232, R234, R239). -/
def compareBad (s : State) (x : Hamper) (e : Bytes) : Option Bad :=
  let f := flags e; let p := paramOf e; let bm := bit f 10; let mi := leAt p 4 1
  orBad (firstBad [
    (auxOf e != 0 || f / 0x800 != 0 || bits f 9 0 != 0 || !srcForm false e || !noDst e || !allZero (slice p 5 27), ⟨stBadParam, 1, 0⟩),
    (if bm then leAt p 0 4 != 0 else mi != 0, ⟨stBadParam, 1, 0⟩),
    (bm && decide (31 < mi), ⟨stBadParam, 0x20, 0⟩),
    (slotOf e != 0, ⟨stBadParam, 1, 0⟩)])
  (orBad (addressBad s x true false e (bRange e))
    (firstBad [(decide (srcLenOf e < 1) || decide (4096 < srcLenOf e) || (bm && srcLenOf e != 48), ⟨stBadLength, 1, 0⟩)]))

/-- COMPARE runs in the scheduler: it names no engine (R188, R239; DEDUCED, log entry 15). -/
def compareExecute (h : Nat) (flt : OpFault) (x : Hamper) (e : Bytes) (s : State) : State :=
  let a := readAll s x (srcRanges s x e)
  let b := if bit (flags e) 10 then (s.meas.getD (leAt (paramOf e) 4 1) measReset).value else readAll s x (bRange e)
  if flt = .railsDisagree then railsFault h x 10 2 { status := stEngineFault, detail := 2, param := some (withPair e pairNone) } s
  else if a = b then complete h e [] { status := stOk, param := some (withPair e pairMatch) } s
  else finishEntry s h { status := stCompareFail, param := some (withPair e pairMismatch) }

/-- COMPARE (R239). -/
def execCompare (h : Nat) (flt : OpFault) (s : State) : Host.Outcome State Fault Refusal :=
  .next (runEntry 0x23 h (fun x e s =>
    match compareBad s x e with
    | some b => endBad h b s
    | none => withReads h x (readRanges s x e ++ bRange e) (compareExecute h flt x e) s) s)

/-- The checks of EXTEND (R231, R232, R234, R249). -/
def extendBad (s : State) (x : Hamper) (e : Bytes) : Option Bad :=
  let f := flags e; let p := paramOf e; let mi := leAt p 0 1; let n := srcTotal s x e
  orBad (firstBad [
    (auxOf e != 0 || f != 0 || !srcForm true e || !allZero (slice p 1 31), ⟨stBadParam, 1, 0⟩),
    (decide (mi < 8) || decide (31 < mi), ⟨stBadParam, 0x20, 0⟩),
    (!(bit (portOf s x.port).grant.extendMask mi && bit (domOf s x.domain).extendMask mi), ⟨stBadParam, 0x21, 0⟩),
    (slotOf e != 0, ⟨stBadParam, 1, 0⟩)])
  (orBad (addressBad s x true false e [])
    (firstBad [
      (decide (n < 1) || decide (4096 < n), ⟨stBadLength, 1, 0⟩),
      (dstLenOf e != 0 && decide (dstLenOf e < 48), ⟨stBadLength, 0, 48⟩)]))

/-- EXTEND on its engine (R248, R249). -/
def extendExecute (h : Nat) (x : Hamper) (e : Bytes) (s : State) : State :=
  let mi := leAt (paramOf e) 0 1
  let s := extendMeas mi (readAll s x (srcRanges s x e)) s
  let v := (s.meas.getD mi measReset).value
  if dstLenOf e = 0 then complete h e [] { status := stOk } s
  else complete h e v { status := stOk, len := 48 } s

/-- EXTEND (R249). -/
def execExtend (h : Nat) (_flt : OpFault) (s : State) : Host.Outcome State Fault Refusal :=
  .next (runEntry 0x24 h (fun x e s => digestFrame h x e [digestPds] (extendBad s x e) (readRanges s x e) 48 (extendExecute h x e) s) s)

/-- MARKS shared by QUOTE and ATTEST (R251, R288). -/
def stateMarks (s : State) : Nat :=
  b2n (decide (s.boot.mode = .debug)) + 2 * b2n (decide (s.boot.mode = .factory)) + 4 * b2n (s.thermos.reRooted || !s.thermos.valid)
    + 8 * b2n (!complementMet s)

/-- Registers a QUOTE selects (R250). -/
def selected (mask : Nat) : List Nat := (List.range 32).filter (bit mask)

/-- The quote body, sampled at one instant (R251). -/
def quoteBody (s : State) (x : Hamper) (e : Bytes) : Bytes :=
  let sel := leAt (paramOf e) 0 4
  let regs := selected sel
  let open_ := regs.any (fun i => decide (i < 8) && (s.snoops.getD i {}).state != 3)
  let tainted := ((List.range 32).filter (fun i => (s.meas.getD i measReset).tainted)).foldl (fun a i => a + 2 ^ i) 0
  octets [0x53, 0x51, 0x54, 0x31, 0x01, stateMarks s + 16 * b2n open_] ++ toLe 2 x.domain ++ toLe 4 sel ++ toLe 4 tainted ++ uid
    ++ slice (paramOf e) 8 24 ++ toLe 8 s.mono ++ toLe 8 (wallOf s) ++ regs.flatMap (fun i => (s.meas.getD i measReset).value)

/-- The checks of QUOTE (R231, R232, R234, R250, R251). DEDUCED, log entry 72. -/
def quoteBad (s : State) (x : Hamper) (e : Bytes) : Option Bad :=
  let p := paramOf e; let need := 168 + 48 * (selected (leAt p 0 4)).length
  orBad (firstBad [
    (auxOf e != 0 || flags e != 0 || !noSrc e || !allZero (slice p 4 4), ⟨stBadParam, 1, 0⟩),
    (leAt p 0 4 == 0, ⟨stBadParam, 0x22, 0⟩),
    (slotOf e != 0xFF03, ⟨stKeyUsage, 1, 0⟩),
    ((rootOf s).isNone, ⟨stKeyMissing, 0x40, 0⟩)])
  (orBad (dstBad s x false e [])
    (firstBad [(decide (dstLenOf e < need), ⟨stBadLength, 0, need⟩)]))

/-- A signature that fails its internal check is not released (R268): ENGINE_FAULT, 0x05, every engine it occupied fenced. -/
def selfCheckFault (h : Nat) (x : Hamper) (s : State) : State :=
  let i := x.engines.foldl min (x.engines.headD 0)
  let s := raise (engineBlock i).1 1 (engineBlock i).2 (some x.domain) (strikeHamper h stEngineFault 5 s)
  x.engines.foldl (fun s j => fence j s) s

/-- The internal check of a result (R240, R268): a fault may strike it or make its rails disagree; `good` says that the comparison holds. -/
def internalFault (h : Nat) (x : Hamper) (flt : OpFault) (good : Bool) (run : State → State) (s : State) : State :=
  match flt with
  | .selfCheck => selfCheckFault h x s
  | .railsDisagree => railsFault h x 11 2 { status := stEngineFault, detail := 2 } s
  | _ => if good then run s else selfCheckFault h x s

/-- QUOTE in its digest-engine phase: the body is sampled and hashed (R251, R263). -/
def quoteHash (h : Nat) (x : Hamper) (e : Bytes) (s : State) : State := hashDone h (quoteBody s x e) s
/-- QUOTE on its public-key engine: the signature over the body, checked (R250, R251, R268). -/
def quoteExecute (h : Nat) (flt : OpFault) (x : Hamper) (e : Bytes) (s : State) : State :=
  let root := (rootOf s).getD []
  let sig := deviceSign root 3 x.template
  internalFault h x flt (deviceSigned root 3 x.template sig) (fun s =>
    let out := x.template ++ sig
    complete h e out { status := stOk, len := out.length } s) s

/-- QUOTE (R251). -/
def execQuote (h : Nat) (flt : OpFault) (s : State) : Host.Outcome State Fault Refusal :=
  .next (runEntry 0x25 h (fun x e s =>
    if x.hashed then withPk h x e (withRoom e (dstLenOf e) (quoteExecute h flt x e)) s else
    match quoteBad s x e with
    | some b => endBad h b s
    | none => withPk h x e (quoteHash h x e) s) s)

/-- KIND of a context entry: a digest message (R231). -/
def kindDigest (e : Bytes) : Bool := bit (flags e) 9

/-- The header of a context blob, its associated data (R245). -/
def ctxHeader (s : State) (x : Hamper) (dig : Bool) (seq : Nat) : Bytes :=
  octets [0x53, 0x43, 0x58, 0x31, 0x01, b2n dig] ++ toLe 2 x.domain ++ toLe 2 x.ring ++ zeros 2 ++ toLe 4 seq ++ fitTo 8 s.boot.bootId ++ zeros 8

/-- The context key of a hamper's ring (R292). -/
def ringCtxKey (s : State) (x : Hamper) : Bytes := contextKey ((rootOf s).getD []) s.boot.bootId x.domain x.ring

/-- The STATE of a context blob before encryption: opcode, MODE or ALG, key handle, lengths, chaining value and accumulators, padded with
zeros (R245); the order, the widths and the accumulators' octets are open (DESIGN CHOICE, log entry 7). -/
def ctxState (dig : Bool) (q : PartState) : Bytes :=
  fitTo 224 (toLe 1 q.opcode ++ toLe 1 (bits q.flags 7 4) ++ toLe 2 q.slot ++ toLe 8 q.total ++ toLe 4 q.aad.length
    ++ (if dig then [] else fitTo 16 q.chain)
    ++ (List.range (if dig then 200 else 32)).map (Config.accumulatorByte q.opcode q.flags (q.aad ++ q.acc)))
/-- A context blob (R245). -/
def ctxBlob (s : State) (x : Hamper) (dig : Bool) (seq : Nat) (q : PartState) (iv : Bytes) : Bytes :=
  let hd := ctxHeader s x dig seq
  let key := ringCtxKey s x
  let st := ctxState dig q
  let c := gcmCrypt key iv 0 st
  hd ++ iv ++ zeros 4 ++ c ++ gcmTag key iv hd c

/-- The export number of a ring (R246). DEDUCED, log entry 71. -/
def ctxSeqOf (s : State) (r : Nat) : Nat := assocGetD 0 s.ctxSeq r

/-- Set or clear a ring's outstanding export of a kind. -/
def putExport (dig : Bool) (r : Nat) (c : Option CtxOut) (s : State) : State :=
  let put := fun (m : Assoc CtxOut) => match c with | some v => assocPut m r v | none => assocDel m r
  if dig then { s with digestOut := put s.digestOut } else { s with cipherOut := put s.cipherOut }

/-- The checks of CTX_EXPORT (R231, R232, R246). -/
def exportBad (s : State) (x : Hamper) (e : Bytes) : Option Bad :=
  let f := flags e
  orBad (firstBad [
    (auxOf e != 0 || f / 0x400 != 0 || bits f 8 0 != 0 || !noSrc e || !allZero (paramOf e), ⟨stBadParam, 1, 0⟩),
    ((openPart s (kindDigest e) x.ring).isNone, ⟨stWrongState, 0x11, 0⟩),
    (slotOf e != 0, ⟨stBadParam, 1, 0⟩)])
  (orBad (dstBad s x false e []) (firstBad [(decide (dstLenOf e < 288), ⟨stBadLength, 0, 288⟩)]))

/-- CTX_EXPORT: the message leaves as a blob and its record is freed (R246). The IV comes from the DRBG. DESIGN CHOICE, log entry 7. DEDUCED, log entry 71. -/
def exportExecute (h : Nat) (x : Hamper) (e : Bytes) (s : State) : State :=
  let dig := kindDigest e
  match openPart s dig x.ring, drawFor x 12 s with
  | some q, some r =>
    let seq := (ctxSeqOf s x.ring + 1) % 2 ^ 32
    let out := ctxBlob s x dig seq q r.1
    let s := { r.2 with ctxSeq := assocPut r.2.ctxSeq x.ring seq }
    let s := putExport dig x.ring (some { seq := seq, state := q }) (freePart dig x.ring s)
    complete h e out { status := stOk, len := 288 } s
  | _, none => awaitRng s
  | none, _ => s

/-- CTX_EXPORT (R246). -/
def execCtxExport (h : Nat) (_flt : OpFault) (s : State) : Host.Outcome State Fault Refusal :=
  .next (runEntry 0x26 h (fun x e s =>
    if earlierTouch s x (kindDigest e) then s else
    match exportBad s x e with
    | some b => endBad h b s
    | none => withRoom e 288 (exportExecute h x e) s) s)

/-- The checks of CTX_IMPORT before its blob is read (R231, R232, R247). -/
def importBad (s : State) (x : Hamper) (e : Bytes) : Option Bad :=
  let f := flags e
  orBad (firstBad [
    (auxOf e != 0 || f / 0x400 != 0 || bits f 8 0 != 0 || !srcForm false e || !noDst e || !allZero (paramOf e), ⟨stBadParam, 1, 0⟩),
    (slotOf e != 0, ⟨stBadParam, 1, 0⟩)])
  (orBad (addressBad s x true false e []) (firstBad [(srcLenOf e != 288, ⟨stBadLength, 1, 0⟩)]))

/-- The blob's own checks, in order (R247). -/
def blobBad (s : State) (x : Hamper) (e b : Bytes) : Option Bad :=
  let dig := kindDigest e
  let hd := b.take 32; let iv := slice b 0x20 12; let c := slice b 0x30 224
  let key := contextKey ((rootOf s).getD []) s.boot.bootId (leAt b 6 2) (leAt b 8 2)
  firstBad [
    (slice b 0 5 != octets [0x53, 0x43, 0x58, 0x31, 0x01] || leAt b 5 1 != b2n dig || !allZero (slice b 0x0A 2) || !allZero (slice b 0x18 8)
      || !allZero (slice b 0x2C 4), ⟨stAuthFail, 3, 0⟩),
    (slice b 0x10 8 != fitTo 8 s.boot.bootId || gcmTag key iv hd c != slice b 0x110 16, ⟨stAuthFail, 1, 0⟩),
    (leAt b 6 2 != x.domain || leAt b 8 2 != x.ring, ⟨stAuthFail, 2, 0⟩),
    ((openPart s dig x.ring).isSome, ⟨stWrongState, 0x12, 0⟩),
    ((exportOut s dig x.ring).map (·.seq) != some (leAt b 0x0C 4), ⟨stWrongState, 0x11, 0⟩),
    (partsFull s dig x.port, ⟨stQuota, 0x10, 0⟩)]

/-- CTX_IMPORT: the message is open again as it stood (R247). DESIGN CHOICE, log entry 7. -/
def importExecute (h : Nat) (x : Hamper) (e : Bytes) (s : State) : State :=
  let b := readAll s x (srcRanges s x e); let dig := kindDigest e
  match blobBad s x e b, exportOut s dig x.ring with
  | some f, _ => endBad h f s
  | none, some c => complete h e [] { status := stOk } (putExport dig x.ring none (putPart dig x.ring c.state s))
  | none, none => s

/-- CTX_IMPORT (R247). -/
def execCtxImport (h : Nat) (_flt : OpFault) (s : State) : Host.Outcome State Fault Refusal :=
  .next (runEntry 0x27 h (fun x e s =>
    if earlierTouch s x (kindDigest e) then s else
    match importBad s x e with
    | some b => endBad h b s
    | none => withReads h x (readRanges s x e) (importExecute h x e) s) s)

/-- A digest engine clears both contexts (R244): the message whose event it was, any other one, and the engine's fate. -/
def clearEngine (e : Nat) (cause : ClearCause) (s : State) : State :=
  let i := 16 + e; let d := pdOf s i
  match d.running with
  | none => s
  | some o =>
    match cause with
    | .alarm => alarmEngine i s
    | .busError =>
      let dom := occupantDomain s (some o)
      let s := strikeOccupant stEngineFault 3 o s
      let s := match d.suspended with | some q => strikeOccupant stEngineFault 4 q s | none => s
      fence i (raise 10 1 e dom (modPd s i (fun d => { d with running := none, suspended := none })))
    | .poison =>
      let s := strikeOccupant stPoison 1 o s
      let s := match d.suspended with | some q => strikeOccupant stEngineFault 4 q s | none => s
      modPd s i (fun d => { d with running := none, suspended := none })

/-- ENGINE_STATE_CLEAR (R244). -/
def execEngineStateClear (e : Fin 8) (cause : ClearCause) (s : State) : Host.Outcome State Fault Refusal :=
  .next (clearEngine e.val cause s)

/-- The digest engine that hashes a Tongs chunk, and its window. -/
def tongsEngine (s : State) : Option (Nat × Nat) :=
  digestPds.findSome? (fun i => match (pdOf s i).running with
    | some (.tongs w) => some (i, w)
    | _ => none)

/-- The Tongs may read the flash: nothing else has the bus or waits for it, and no program or erase runs (R253, R385, R393). -/
def backfillOpen (s : State) : Bool :=
  mpReady s && s.mp.flashOk && !flashBusy s && s.mp.current.isNone && (nextTransaction s).isNone
/-- A queued or running write covers bytes of a range: the Tongs leave them to it (R400). -/
def writeCovers (s : State) (a n : Nat) : Bool :=
  (winOps s).any (fun c => decide (a < c.2.addr + c.2.data.length) && decide (c.2.addr < a + n))

/-- The digest engine the dispatcher gives the Tongs, at class URGENT and within the cap (R186, R258, R446): never before a waiting URGENT entry,
nor on an oldest-first turn while an entry waits (DESIGN CHOICE, log entry 96). -/
def tongsGrant (s : State) : Option Nat :=
  let turn := oldestTurn (s.dispatchers.getD 2 {})
  if !capFits s s.nextHamper (setCharge [16]) then none else
  digestPds.find? (fun i => engineFree s i && !((grantable s i).map atDispatch).any (fun x => turn || x.cls == 3))
/-- The Tongs take an engine for a chunk of a window: a grant of its dispatcher (R186, R258). -/
def tongsTake (w i : Nat) (s : State) : State :=
  let n := s.snoops.getD w {}
  let a := s.dispatchers.getD 2 {}
  modPd { s with dispatchers := s.dispatchers.set 2 { a with grants := a.grants + 1 },
                 snoops := s.snoops.set w { n with chunk := n.fed.length + 4096 } } i (fun d => { d with running := some (.tongs w) })
/-- Bytes the Tongs read enter every MEASURING window whose frontier they meet (R253, R254). -/
def deliver (a : Nat) (b : Bytes) (s : State) : State := (List.range 8).foldl (fun s w => feedWindow w a b s) s
/-- The chunk on an engine has ended: hashed, or its window is DONE (R258). -/
def chunkOver (n : Snoop) : Bool := n.state != 2 || decide (n.chunk ≤ n.fed.length)

/-- One act of the backfill (R253, R258): a burst of up to 256 bytes at the frontier of the window whose chunk is on an engine, the engine
being free again at the chunk's end; or an engine taken for the next chunk of the lowest-numbered MEASURING window. -/
def backfill (s : State) : State :=
  match tongsEngine s with
  | some (i, w) =>
    let n := s.snoops.getD w {}
    if chunkOver n then modPd s i engineNext else
    let f := n.base + n.fed.length
    let m := min 256 (n.length - n.fed.length)
    if !backfillOpen s || writeCovers s f m then s else
    let s := deliver f (flashRead s f m) s
    if chunkOver (s.snoops.getD w {}) then modPd s i engineNext else s
  | none =>
    if !backfillOpen s then s else
    match s.snoops.zipIdx.find? (fun c => c.1.state == 2), tongsGrant s with
    | some c, some i => tongsTake c.2 i s
    | _, _ => s

/-- TONGS_BACKFILL (R253). -/
def execTongsBackfill (s : State) : Host.Outcome State Fault Refusal := .next (backfill s)

end Sys2Proof.Machine
end

