-- ==== Sys2Proof/Machine/Pk.lean ====
section
/-! DEFINITION. The public-key engines, issuance, derivation and randomness: SIGN, VERIFY, AGREE, RSA_DECRYPT, MODMATH, ISSUE,
DERIVE_EXPORT, DERIVE_TEMP, RANDOM, ATTEST (R263 to R290). -/

namespace Sys2Proof.Machine

/-- SCHEME, HASH, NONCE_MODE, SALT_LEN and SIG_FMT of a signing block (R271). -/
def schemeOf (e : Bytes) : Nat := byteAt (paramOf e) 0
def hashOf (e : Bytes) : Nat := byteAt (paramOf e) 1
def nonceMode (e : Bytes) : Nat := byteAt (paramOf e) 2
def saltLen (e : Bytes) : Nat := byteAt (paramOf e) 3
def sigFmt (e : Bytes) : Nat := byteAt (paramOf e) 4
/-- The operation is handed a digest (R266). -/
def prehashed (e : Bytes) : Bool := bit (flags e) 8

/-- ECDSA schemes (R264). -/
def isEcdsa (sch : Nat) : Bool := decide (1 ≤ sch) && decide (sch ≤ 3)
/-- RSA signature schemes (R264). -/
def isRsa (sch : Nat) : Bool := sch == 5 || sch == 6
/-- Curve of an ECDSA or ECDH scheme (R264). -/
def curveOf (sch : Nat) : Curve := if sch = 1 ∨ sch = 0x10 then p256 else if sch = 2 ∨ sch = 0x11 then p384 else p521
/-- Octets of a coordinate, of a scalar and of r and s (R271, R298). -/
def coordLen (sch : Nat) : Nat := if sch = 1 ∨ sch = 0x10 then 32 else if sch = 2 ∨ sch = 0x11 then 48 else if sch = 3 then 66 else 32
/-- Private and public key types of a scheme (R267, R298). -/
def privateType (sch : Nat) : Nat :=
  match sch with
  | 1 | 0x10 => 0x10 | 2 | 0x11 => 0x11 | 3 => 0x12 | 4 => 0x13 | 0x12 => 0x14 | _ => 0x20
def publicType (sch : Nat) : Nat :=
  match sch with
  | 1 => 0x18 | 2 => 0x19 | 3 => 0x1A | 4 => 0x1B | _ => 0x21

/-- SCHEME and HASH are supported together, and PREHASHED is not asked of Ed25519 (R264, R265). -/
def schemeOk (e : Bytes) (pre : Bool) : Bool :=
  let sch := schemeOf e; let hsh := hashOf e
  if sch = 4 then hsh == 0 && !pre else (isEcdsa sch || isRsa sch) && decide (1 ≤ hsh) && decide (hsh ≤ 7)
/-- NONCE_MODE, SALT_LEN and SIG_FMT fit the scheme (R271). -/
def optionsOk (e : Bytes) : Bool :=
  let sch := schemeOf e
  (if isEcdsa sch then decide (nonceMode e ≤ 1) && decide (sigFmt e ≤ 1) else nonceMode e == 0 && sigFmt e == 0)
    && (if sch = 6 then decide (saltLen e ≤ algOut (hashOf e)) else saltLen e == 0)
/-- Longest signature of a scheme in a format (R271). -/
def sigMax (sch fmt k : Nat) : Nat :=
  match sch with
  | 1 => if fmt = 1 then 72 else 64
  | 2 => if fmt = 1 then 104 else 96
  | 3 => if fmt = 1 then 139 else 132
  | 4 => 64
  | _ => k

/-- Part `i` of an RSA private key: p, q, dP, dQ, qInv (R298). -/
def rsaPart (k : Key) (i : Nat) : Nat := let n := rsaBits k.size / 16; beNat (slice k.value (i * n) n)
/-- Modulus of an RSA key (R298). -/
def rsaModulus (k : Key) : Nat := if k.typ = 0x20 then rsaPart k 0 * rsaPart k 1 else beNat (keyOctets k)
/-- Octets of the modulus. -/
def rsaLen (k : Key) : Nat := rsaBits k.size / 8
/-- The RSA private operation (R264, R298). -/
def rsaPrivate (k : Key) (x : Nat) : Nat := rsaCrt (rsaPart k 0) (rsaPart k 1) (rsaPart k 2) (rsaPart k 3) (rsaPart k 4) x

/-- Octets that a signature draws: the hedged nonce's input or the PSS salt (R264, R286). -/
def signDraw (e : Bytes) : Nat := if isEcdsa (schemeOf e) && nonceMode e == 1 then 32 else if schemeOf e = 6 then saltLen e else 0

/-- The encoded message of an RSA signature over a digest (R264). -/
def rsaEncoding (e : Bytes) (k : Key) (d rnd : Bytes) : Bytes :=
  if schemeOf e = 5 then emsaV15 (hashOf e) (rsaLen k) d else emsaPss (hashOf e) (rsaLen k) d rnd

/-- A signature by a scheme over a message, or over its digest when `pre`; `rnd` is what it drew (R264, R271). -/
def signBytes (e : Bytes) (pre : Bool) (k : Key) (rnd m : Bytes) : Bytes :=
  let sch := schemeOf e; let hsh := hashOf e
  let d := if pre then m else hashAlg hsh 0 m
  if isEcdsa sch then
    let n := coordLen sch
    let g := ecdsaSign (curveOf sch) hsh (beNat (slice k.value 0 n)) d rnd
    if sigFmt e = 1 then derSig g.1 g.2 else toBe n g.1 ++ toBe n g.2
  else if sch = 4 then edSign (slice k.value 0 32) m
  else toBe (rsaLen k) (rsaPrivate k (beNat (rsaEncoding e k d rnd)))

/-- Usage and type of a key, for an operation of one usage bit and the types given (R267). -/
def pkJudge (use : Nat) (types : List Nat) (k : Key) : Option (Nat × Nat) :=
  if !bit k.usage use then some (stKeyUsage, 1) else if !types.contains k.typ then some (stKeyUsage, 2) else none

/-- The source length of SIGN and VERIFY (R264, R271). -/
def messageBad (e : Bytes) (n : Nat) : Option Bad :=
  let limit := if schemeOf e = 4 then 1048576 else maxSource
  if (prehashed e && n != algOut (hashOf e)) || decide (limit < n) then some ⟨stBadLength, 1, 0⟩ else none

/-- The octets of a slot key's public part, as KEY_INLINE lays them out (R272, R298). -/
def publicOctets (k : Key) : Bytes :=
  match k.typ with
  | 0x10 => slice k.value 32 64
  | 0x11 => slice k.value 48 96
  | 0x12 => slice k.value 66 132
  | 0x13 => slice k.value 32 32
  | 0x20 => toBe (rsaLen k) (rsaModulus k)
  | _ => keyOctets k

/-- A public key passes its validation (R264, R272). -/
def publicOk (sch : Nat) (pub : Bytes) (ex : Nat) : Bool :=
  if isEcdsa sch then (ecPoint (curveOf sch) pub).isSome
  else if sch = 4 then (edDecode pub).isSome
  else beNat pub % 2 == 1 && byteAt pub 0 ≥ 128 && ex % 2 == 1 && decide (3 ≤ ex)

/-- What a VERIFY finds (R272): malformed, the equation failing, or holding. -/
inductive SigVerdict where
  | malformed
  | unequal
  | holds
  deriving DecidableEq, Repr

/-- The verdict of an equation. -/
def verdictOf (b : Bool) : SigVerdict := if b then .holds else .unequal

/-- ECDSA verification of signature octets (R272). -/
def verifyEcdsa (sch fmt : Nat) (pub digest sig : Bytes) : SigVerdict :=
  let c := curveOf sch; let n := coordLen sch
  let rs := if fmt = 1 then (if sig.length ≤ sigMax sch 1 0 then derParse sig else none)
            else if sig.length = 2 * n then some (beNat (sig.take n), beNat (sig.drop n)) else none
  match rs, ecPoint c pub with
  | some (r, t), some q => if r = 0 ∨ t = 0 ∨ c.n ≤ r ∨ c.n ≤ t then .malformed else verdictOf (ecdsaVerify c q digest r t)
  | _, _ => .malformed

/-- Ed25519 verification (R272). -/
def verifyEd (pub m sig : Bytes) : SigVerdict :=
  let t := leNat (sig.drop 32)
  if sig.length ≠ 64 ∨ edL ≤ t then .malformed else
  match edDecode (sig.take 32), edDecode pub with
  | some r, some a => verdictOf (edVerify pub a r (sig.take 32) t m)
  | _, _ => .malformed

/-- RSA signature verification (R264, R272). -/
def verifyRsa (sch alg salt : Nat) (pub : Bytes) (ex : Nat) (digest sig : Bytes) : SigVerdict :=
  let n := beNat pub
  if sig.length ≠ pub.length ∨ n ≤ beNat sig then .malformed else
  let em := toBe pub.length (powMod (beNat sig) ex n)
  verdictOf (if sch = 5 then em == emsaV15 alg pub.length digest else pssVerify alg salt digest em)

/-- The verdict of a VERIFY on a valid public key (R272). -/
def verifySig (e pub : Bytes) (ex : Nat) (m sig : Bytes) : SigVerdict :=
  let sch := schemeOf e
  let d := if prehashed e then m else hashAlg (hashOf e) 0 m
  if isEcdsa sch then verifyEcdsa sch (sigFmt e) pub d sig
  else if sch = 4 then verifyEd pub m sig
  else verifyRsa sch (hashOf e) (saltLen e) pub ex d sig

/-- The internal check of a signature (R268): the verification equation with the key's public part, or the signature raised to the public
exponent against the encoding. -/
def signGood (e : Bytes) (pre : Bool) (k : Key) (rnd m g : Bytes) : Bool :=
  if isRsa (schemeOf e) then
    toBe (rsaLen k) (powMod (beNat g) k.param (rsaModulus k)) == rsaEncoding e k (if pre then m else hashAlg (hashOf e) 0 m) rnd
  else verifySig e (publicOctets k) k.param m g == .holds

/-- Octets an entry draws before it goes on; the entry waits while the DRBG gives none (R285, R286). -/
def withDraw (x : Hamper) (n : Nat) (run : Bytes → State → State) (s : State) : State :=
  if n = 0 then run [] s else
  match drawFor x n s with
  | some r => run r.1 r.2
  | none => awaitRng s

/-- The checks of SIGN before its key (R266, R267, R271). -/
def signEarly (e : Bytes) : Option Bad :=
  let f := flags e
  firstBad [
    (auxOf e != 0 || f / 0x200 != 0 || bits f 7 0 != 0 || !srcForm true e || !allZero (slice (paramOf e) 5 27), ⟨stBadParam, 1, 0⟩),
    (!schemeOk e (prehashed e), ⟨stBadParam, 2, 0⟩),
    (!optionsOk e, ⟨stBadParam, 0x31, 0⟩)]

/-- The checks of SIGN after its key (R234, R267, R271, R331). -/
def signLater (s : State) (x : Hamper) (e : Bytes) (k : Key) : Option Bad :=
  let mx := sigMax (schemeOf e) (sigFmt e) (rsaLen k)
  orBad (addressBad s x true false e [])
  (orBad (messageBad e (srcTotal s x e))
  (orBad (if dstLenOf e < mx then some ⟨stBadLength, 0, mx⟩ else none) (capBad s x 1 1)))

/-- SIGN on engines that hold the key, over its message (R268, R271, R286). -/
def signExecute (h : Nat) (flt : OpFault) (x : Hamper) (e : Bytes) (k : Key) (m : Bytes) (s : State) : State :=
  withDraw x (signDraw e) (fun rnd =>
    let g := signBytes e (prehashed e) k rnd m
    internalFault h x flt (signGood e (prehashed e) k rnd m g)
      (complete h e g { status := stOk, len := g.length })) s

/-- SIGN (R271): a message that is no digest is hashed first, on a digest engine (R263). DEDUCED, log entry 77. -/
def signRun (flt : OpFault) (h : Nat) (x : Hamper) (e : Bytes) (s : State) : State :=
  match signEarly e with
  | some b => endBad h b s
  | none =>
    if awaitsGrant s x e then s else
    match keyStep s x (slotOf e) (pkJudge useSign [privateType (schemeOf e)]) with
    | .key k =>
      if x.hashed then withPk h x e (withRoom e (dstLenOf e) (signExecute h flt x e k x.template)) s else
      (match signLater s x e k with
       | some b => endBad h b s
       | none => withPk h x e (withReads h x (readRanges s x e) (fun s =>
           let m := readAll s x (srcRanges s x e)
           if hashesFirst e then hashDone h m s else withRoom e (dstLenOf e) (signExecute h flt x e k m) s)) (takeShare h x 1 1 s))
    | r => keyFailure h x.domain r s

/-- SIGN (R271). -/
def execSign (h : Nat) (flt : OpFault) (s : State) : Host.Outcome State Fault Refusal := .next (runEntry 0x30 h (signRun flt h) s)

/-- The signature and the inline public key of a VERIFY: address and length (R272). -/
def sigRange (e : Bytes) : Nat × Nat := (leAt (paramOf e) 0x08 4, leAt (paramOf e) 0x0C 2)
def pubRange (e : Bytes) : Nat × Nat := (leAt (paramOf e) 0x10 4, leAt (paramOf e) 0x14 2)
/-- KEY_INLINE of a VERIFY (R266). -/
def keyInline (e : Bytes) : Bool := bit (flags e) 9
/-- What a VERIFY reads besides its source. -/
def verifyExtra (e : Bytes) : List (Nat × Nat) := ([sigRange e] ++ if keyInline e then [pubRange e] else []).filter (fun f => f.2 != 0)
/-- PUB_LEN fits the scheme (R264, R272). -/
def pubLenOk (sch n : Nat) : Bool :=
  if isEcdsa sch then n == 2 * coordLen sch else if sch = 4 then n == 32 else decide (256 ≤ n) && decide (n ≤ 512) && n % 8 == 0

/-- The checks of VERIFY before its key (R266, R267, R272). -/
def verifyEarly (e : Bytes) : Option Bad :=
  let f := flags e; let p := paramOf e; let inl := keyInline e; let rsa := isRsa (schemeOf e)
  firstBad [
    (auxOf e != 0 || f / 0x400 != 0 || bits f 7 0 != 0 || !srcForm true e || !noDst e || byteAt p 2 != 0 || !allZero (slice p 5 3)
      || !allZero (slice p 0x0E 2) || !allZero (slice p 0x16 2) || !allZero (slice p 0x1C 4)
      || (!inl && !allZero (slice p 0x10 6)) || (!(inl && rsa) && !allZero (slice p 0x18 4)), ⟨stBadParam, 1, 0⟩),
    (!schemeOk e (prehashed e), ⟨stBadParam, 2, 0⟩),
    (!optionsOk e, ⟨stBadParam, 0x31, 0⟩),
    (inl && slotOf e != 0, ⟨stBadParam, 1, 0⟩),
    (inl && !pubLenOk (schemeOf e) (pubRange e).2, ⟨stBadParam, 0x32, 0⟩)]

/-- The checks of VERIFY after its key (R234, R267, R271, R331). -/
def verifyLater (s : State) (x : Hamper) (e : Bytes) : Option Bad :=
  orBad (addressBad s x true false e (verifyExtra e)) (orBad (messageBad e (srcTotal s x e)) (capBad s x 2 1))

/-- VERIFY of a message on its engine (R240, R272). -/
def verifyExecute (h : Nat) (flt : OpFault) (x : Hamper) (e : Bytes) (k : Option Key) (m : Bytes) (s : State) : State :=
  let sig := readAt s x (sigRange e).1 (sigRange e).2
  let pub := match k with | some k => publicOctets k | none => readAt s x (pubRange e).1 (pubRange e).2
  let ex := match k with | some k => k.param | none => leAt (paramOf e) 0x18 4
  if !publicOk (schemeOf e) pub ex then failEntry h stBadParam 0x32 s
  else if flt = .railsDisagree then
    railsFault h x 11 2 { status := stEngineFault, detail := 2, param := some (withPair e pairNone) } s
  else match verifySig e pub ex m sig with
    | .holds => complete h e [] { status := stOk, param := some (withPair e pairMatch) } s
    | v =>
      let d : Nat := if v = .malformed then 0x50 else 0
      if ((hamperOf s h).map (·.cupPoison)).getD false then failEntry h stVerifyFail d s
      else finishEntry s h { status := stVerifyFail, detail := d, param := some (withPair e pairMismatch) }

/-- VERIFY (R272): a message that is no digest is hashed first, on a digest engine (R263). -/
def verifyRun (flt : OpFault) (h : Nat) (x : Hamper) (e : Bytes) (s : State) : State :=
  let go := fun (k : Option Key) =>
    if x.hashed then withPk h x e (withReads h x (verifyExtra e) (verifyExecute h flt x e k x.template)) s else
    match verifyLater s x e with
    | some b => endBad h b s
    | none =>
      withPk h x e (withReads h x (readRanges s x e ++ if hashesFirst e then [] else verifyExtra e) (fun s =>
        let m := readAll s x (srcRanges s x e)
        if hashesFirst e then hashDone h m s else verifyExecute h flt x e k m s)) (takeShare h x 2 1 s)
  match verifyEarly e with
  | some b => endBad h b s
  | none =>
    if keyInline e then go none else
    if awaitsGrant s x e then s else
    match keyStep s x (slotOf e) (pkJudge useVerify [privateType (schemeOf e), publicType (schemeOf e)]) with
    | .key k => go (some k)
    | r => keyFailure h x.domain r s

/-- VERIFY (R272). -/
def execVerify (h : Nat) (flt : OpFault) (s : State) : Host.Outcome State Fault Refusal := .next (runEntry 0x31 h (verifyRun flt h) s)

/-- EPHEMERAL of an AGREE (R266). -/
def ephemeral (e : Bytes) : Bool := bit (flags e) 9
/-- Octets of a public key in an AGREE (R273). -/
def agreeLen (sch : Nat) : Nat := if sch = 0x10 then 64 else if sch = 0x11 then 96 else 32

/-- The checks of AGREE before its key (R266, R267, R273). -/
def agreeEarly (e : Bytes) : Option Bad :=
  let f := flags e; let p := paramOf e; let sch := schemeOf e
  firstBad [
    (auxOf e != 0 || f / 0x400 != 0 || bits f 8 0 != 0 || !srcForm false e || !allZero (slice p 1 2) || !allZero (slice p 4 28)
      || (!ephemeral e && !noDst e), ⟨stBadParam, 1, 0⟩),
    (!(decide (0x10 ≤ sch) && decide (sch ≤ 0x12)), ⟨stBadParam, 2, 0⟩),
    (decide (7 < byteAt p 3), ⟨stBadParam, 0x33, 0⟩),
    (ephemeral e && slotOf e != 0, ⟨stBadParam, 1, 0⟩)]

/-- The checks of AGREE after its key (R234, R267, R273, R331). -/
def agreeLater (s : State) (x : Hamper) (e : Bytes) : Option Bad :=
  let n := agreeLen (schemeOf e)
  orBad (addressBad s x true false e [])
  (orBad (firstBad [(srcLenOf e != n, ⟨stBadLength, 1, 0⟩), (ephemeral e && decide (dstLenOf e < n), ⟨stBadLength, 0, n⟩)])
    (capBad s x 1 1))

/-- Octets an ephemeral key pair draws, and its private key from them: for a NIST curve the draw, 8 octets longer than the order,
reduced into 1 to n - 1 (PRESUMED, log entry 16). -/
def keyDraw (sch : Nat) : Nat := if sch = 0x12 ∨ sch = 4 then 32 else coordLen sch + 8
def privateFrom (sch : Nat) (rnd : Bytes) : Nat := beNat rnd % ((curveOf sch).n - 1) + 1

/-- The shared secret, none when the peer key fails its validation (R264, R273). -/
def agreeSecret (sch : Nat) (priv : Bytes) (d : Nat) (peer : Bytes) : Option Bytes :=
  if sch = 0x12 then (let z := x25519 priv peer; if allZero z then none else some z)
  else match ecPoint (curveOf sch) peer with
    | some q => (ecMul (curveOf sch) d q.1 q.2).map (fun z => toBe (coordLen sch) z.1)
    | none => none

/-- Place a temporary in a hamper (R278). -/
def putTemp (h i : Nat) (t : Temp) (s : State) : State := modHamper s h (fun y => { y with temps := assocPut y.temps i t })

/-- AGREE on engines that hold the key (R273, R278). -/
def agreeExecute (h : Nat) (flt : OpFault) (x : Hamper) (e : Bytes) (k : Option Key) (s : State) : State :=
  if flt = .redundantMismatch ∧ x.engines.length = 2 then redundantFault h x 3 6 s else
  if k.any (fun k => sealSplit flt k e) then railsFault h x 11 2 { status := stEngineFault, detail := 2 } s else
  let sch := schemeOf e; let peer := readAll s x (srcRanges s x e)
  withDraw x (if k.isNone then keyDraw sch else 0) (fun rnd s =>
    let priv := match k with | some k => slice k.value 0 32 | none => rnd
    let d := match k with | some k => beNat (slice k.value 0 (coordLen sch)) | none => privateFrom sch rnd
    let out := if k.isSome then [] else if sch = 0x12 then xPub priv else ecPub (curveOf sch) d
    match agreeSecret sch priv d peer with
    | none => failEntry h stBadParam 0x32 s
    | some z =>
      let t : Temp := { typ := 0x08, cls := (k.map (·.cls)).getD clsGuarded, usage := 2 ^ useDerive, value := z }
      complete h e out { status := stOk, len := out.length } (putTemp h (byteAt (paramOf e) 3) t s)) s

/-- AGREE (R273). -/
def agreeRun (flt : OpFault) (h : Nat) (x : Hamper) (e : Bytes) (s : State) : State :=
  let go := fun (k : Option Key) =>
    match agreeLater s x e with
    | some b => endBad h b s
    | none => withPk h x e (withReads h x (readRanges s x e) (withRoom e (dstLenOf e) (agreeExecute h flt x e k))) (takeShare h x 1 1 s)
  match agreeEarly e with
  | some b => endBad h b s
  | none =>
    if ephemeral e then go none else
    if awaitsGrant s x e then s else
    match keyStep s x (slotOf e) (pkJudge useAgree [privateType (schemeOf e)]) with
    | .key k => go (some k)
    | r => keyFailure h x.domain r s

/-- AGREE (R273). -/
def execAgree (h : Nat) (flt : OpFault) (s : State) : Host.Outcome State Fault Refusal := .next (runEntry 0x32 h (agreeRun flt h) s)

/-- The label of an RSA_DECRYPT (R274). -/
def labelRange (e : Bytes) : Nat × Nat := (leAt (paramOf e) 4 4, leAt (paramOf e) 8 2)
/-- The label as a range read. -/
def labelReads (e : Bytes) : List (Nat × Nat) := if (labelRange e).2 = 0 then [] else [labelRange e]

/-- The checks of RSA_DECRYPT before its key (R266, R267, R274). -/
def rsaEarly (e : Bytes) : Option Bad :=
  let p := paramOf e; let l := labelRange e
  firstBad [
    (auxOf e != 0 || flags e != 0 || !srcForm false e || !allZero (slice p 1 3) || !allZero (slice p 0x0A 22) || (l.2 == 0 && l.1 != 0)
      || decide (4096 < l.2), ⟨stBadParam, 1, 0⟩),
    (!(decide (1 ≤ byteAt p 0) && decide (byteAt p 0 ≤ 7)), ⟨stBadParam, 2, 0⟩)]

/-- The checks of RSA_DECRYPT after its key (R234, R267, R274, R331). -/
def rsaLater (s : State) (x : Hamper) (e : Bytes) (k : Key) : Option Bad :=
  let need := rsaLen k - 2 * algOut (byteAt (paramOf e) 0) - 2
  orBad (addressBad s x true false e (labelReads e))
  (orBad (firstBad [(srcLenOf e != rsaLen k, ⟨stBadLength, 1, 0⟩), (decide (dstLenOf e < need), ⟨stBadLength, 0, need⟩)])
    (capBad s x 1 1))

/-- RSA_DECRYPT on engines that hold the key (R268, R274). -/
def rsaExecute (h : Nat) (flt : OpFault) (x : Hamper) (e : Bytes) (k : Key) (s : State) : State :=
  let c := beNat (readAll s x (srcRanges s x e))
  let label := readAll s x (labelReads e)
  let big := decide (rsaModulus k ≤ c)
  let r := rsaPrivate k c
  internalFault h x flt (big || powMod r k.param (rsaModulus k) == c) (fun s =>
    match (if big then none else oaepDecode (byteAt (paramOf e) 0) label (toBe (rsaLen k) r)) with
    | some v => complete h e v { status := stOk, len := v.length } s
    | none => failEntry h stAuthFail 0x42 s) s

/-- RSA_DECRYPT (R274). -/
def rsaRun (flt : OpFault) (h : Nat) (x : Hamper) (e : Bytes) (s : State) : State :=
  match rsaEarly e with
  | some b => endBad h b s
  | none =>
    if awaitsGrant s x e then s else
    match keyStep s x (slotOf e) (pkJudge useDecrypt [0x20]) with
    | .key k =>
      (match rsaLater s x e k with
       | some b => endBad h b s
       | none => withPk h x e (withReads h x (readRanges s x e ++ labelReads e) (withRoom e (dstLenOf e) (rsaExecute h flt x e k))) (takeShare h x 1 1 s))
    | r => keyFailure h x.domain r s

/-- RSA_DECRYPT (R274). -/
def execRsaDecrypt (h : Nat) (flt : OpFault) (s : State) : Host.Outcome State Fault Refusal := .next (runEntry 0x33 h (rsaRun flt h) s)

/-- OP, LEN, B and M of a MODMATH (R275). -/
def modOp (e : Bytes) : Nat := byteAt (paramOf e) 0
def modLen (e : Bytes) : Nat := leAt (paramOf e) 2 2
def modB (e : Bytes) : Nat × Nat := (leAt (paramOf e) 4 4, leAt (paramOf e) 8 2)
def modM (e : Bytes) : Nat × Nat := (leAt (paramOf e) 0x0C 4, modLen e)
/-- What a MODMATH reads besides A. -/
def modExtra (e : Bytes) : List (Nat × Nat) := (if modOp e = 2 then [] else [modB e]) ++ [modM e]

/-- The checks of MODMATH (R234, R266, R267, R275). -/
def modBad (s : State) (x : Hamper) (e : Bytes) : Option Bad :=
  let p := paramOf e; let op := modOp e; let n := modLen e; let b := modB e
  orBad (firstBad [
    (auxOf e != 0 || flags e != 0 || !srcForm false e || byteAt p 1 != 0 || !allZero (slice p 0x0A 2) || !allZero (slice p 0x10 16)
      || (op == 2 && b.1 != 0), ⟨stBadParam, 1, 0⟩),
    (decide (2 < op) || decide (n < 1) || decide (512 < n) || srcLenOf e != n
      || (if op = 0 then decide (b.2 < 1) || decide (512 < b.2) else if op = 1 then b.2 != n else b.2 != 0), ⟨stBadParam, 0x34, 0⟩),
    (slotOf e != 0, ⟨stBadParam, 1, 0⟩)])
  (orBad (addressBad s x true false e (modExtra e))
    (firstBad [
      (op == 0 && decide (16777216 < b.2 * n * n), ⟨stBadLength, 4, 0⟩),
      (decide (dstLenOf e < n), ⟨stBadLength, 0, n⟩)]))

/-- MODMATH on its engine (R275). -/
def modExecute (h : Nat) (x : Hamper) (e : Bytes) (s : State) : State :=
  let op := modOp e; let n := modLen e
  let a := beNat (readAll s x (srcRanges s x e))
  let b := beNat (readAt s x (modB e).1 (modB e).2)
  let m := beNat (readAt s x (modM e).1 (modM e).2)
  if m % 2 = 0 ∨ m < 3 ∨ m ≤ a ∨ (op = 1 ∧ m ≤ b) then failEntry h stBadParam 0x34 s else
  let r := if op = 0 then some (powMod a b m) else if op = 1 then some (a * b % m) else inverseOf a m
  match r with
  | some v => complete h e (toBe n v) { status := stOk, len := n } s
  | none => failEntry h stBadParam 0x35 s

/-- MODMATH (R275). -/
def execModmath (h : Nat) (_flt : OpFault) (s : State) : Host.Outcome State Fault Refusal :=
  .next (runEntry 0x34 h (fun x e s =>
    match modBad s x e with
    | some b => endBad h b s
    | none => withPk h x e (withReads h x (readRanges s x e ++ modExtra e) (withRoom e (modLen e) (modExecute h x e))) s) s)

/-- The splice fields of an ISSUE (R276). -/
def numFmt (e : Bytes) : Nat := byteAt (paramOf e) 5
def numWidth (e : Bytes) : Nat := byteAt (paramOf e) 6
def timeFmt (e : Bytes) : Nat := byteAt (paramOf e) 7
def numOff (e : Bytes) : Nat := leAt (paramOf e) 8 2
def timeOff (e : Bytes) : Nat := leAt (paramOf e) 0x0A 2

/-- The splice fields lie within the template and do not overlap (R276). -/
def splicesOk (e : Bytes) : Bool :=
  let n := srcLenOf e; let nf := numFmt e; let nw := numWidth e; let tf := timeFmt e
  decide (nf ≤ 2) && decide (tf ≤ 2) && (if nf = 2 then decide (1 ≤ nw) && decide (nw ≤ 20) else nw == 8)
    && decide (numOff e + nw ≤ n)
    && (if tf = 0 then timeOff e == 0
        else decide (timeOff e + 8 ≤ n) && (decide (numOff e + nw ≤ timeOff e) || decide (timeOff e + 8 ≤ numOff e)))

/-- The checks of ISSUE before its key (R266, R267, R276). -/
def issueEarly (e : Bytes) : Option Bad :=
  firstBad [
    (auxOf e != 0 || flags e != 0 || !srcForm false e || !allZero (slice (paramOf e) 0x0C 20), ⟨stBadParam, 1, 0⟩),
    (!schemeOk e false, ⟨stBadParam, 2, 0⟩),
    (!optionsOk e, ⟨stBadParam, 0x31, 0⟩),
    (!splicesOk e, ⟨stBadParam, 0x30, 0⟩)]

/-- Addresses and lengths of an ISSUE (R234, R267, R276). -/
def issueLater (s : State) (x : Hamper) (e : Bytes) (k : Key) : Option Bad :=
  let need := srcLenOf e + sigMax (schemeOf e) (sigFmt e) (rsaLen k)
  orBad (addressBad s x true false e [])
    (firstBad [
      (decide (srcLenOf e < 1) || decide (4096 < srcLenOf e), ⟨stBadLength, 1, 0⟩),
      (decide (dstLenOf e < need), ⟨stBadLength, 0, need⟩)])

/-- The next issue number of a domain (R280); in DEBUG that of its debug counter, which starts at 0 (R130). A domain that has not
drawn since step 11 of BOOT stands at its mark. DEDUCED, log entry 45. -/
def nextIssue (s : State) (d : Nat) : Nat :=
  if s.boot.mode = .debug then assocGetD 0 s.debugIssue d else (assocGet s.issue d).getD (domOf s d).issueMark

/-- Draw an issue number (R280): the counter advances; at its mark the draw reserves 256 numbers first. -/
def drawIssue (d : Nat) (s : State) : State :=
  let c := nextIssue s d
  if s.boot.mode = .debug then { s with debugIssue := assocPut s.debugIssue d (c + 1) } else
  let s := if (domOf s d).issueMark ≤ c then modDom s d (fun r => { r with issueMark := c + 256 }) else s
  { s with issue := assocPut s.issue d (c + 1) }

/-- Decimal digits of a number, most significant first; the count bounds them. -/
def decDigits : Nat → Nat → Bytes
  | 0, _ => []
  | n + 1, v => decDigits n (v / 10) ++ [BitVec.ofNat 8 (48 + v % 10)]
/-- The issue number as it is spliced (R276). -/
def numberBytes (e : Bytes) (c : Nat) : Bytes :=
  if numFmt e = 0 then toBe 8 c else if numFmt e = 1 then toLe 8 c else decDigits (numWidth e) c
/-- The spliced template (R276, R277). -/
def splice (e m : Bytes) (c w : Nat) : Bytes :=
  let m := overlay m (numOff e) (numberBytes e c)
  if timeFmt e = 0 then m else overlay m (timeOff e) (if timeFmt e = 1 then toBe 8 w else toLe 8 w)

/-- The checks of R279, on the next number and the wall time. -/
def issueRules (s : State) (x : Hamper) (e : Bytes) : Option Bad :=
  let r := domOf s x.domain; let c := nextIssue s x.domain; let t := timeFmt e != 0
  firstBad [
    (t && !r.timeSeen, ⟨stWrongState, 0x31, 0⟩),
    (t && r.nondecTime && decide (wallOf s < r.wLast), ⟨stTimeOrder, 0, 0⟩),
    (decide (2 ^ 64 - 1 ≤ c), ⟨stQuota, 0x30, 0⟩),
    (numFmt e == 2 && decide (10 ^ numWidth e ≤ c), ⟨stQuota, 0x31, 0⟩)]

/-- Steps 3 to 5 of R277: the rules, the cap, the engines, the draw. A replay takes its recorded number and time instead (R195).
No draw starts after a PFAIL_N checkpoint (R281). -/
def issueDraw (h : Nat) (x : Hamper) (e : Bytes) (s : State) : State :=
  let main := (mainNeed s x e).getD []
  match x.replay with
  | some r => if canServe s main && canServe s [digestPds] then modHamper s h (fun y => { y with drawn := some (r.issueNo, r.wall) })
              else unavailable h x (if canServe s main then [digestPds] else main) s
  | none =>
    if s.drawsStopped then s else
    match orBad (issueRules s x e) (capBad s x 0 1) with
    | some b => endBad h b s
    | none =>
      if !(canServe s main && canServe s [digestPds]) then unavailable h x (if canServe s main then [digestPds] else main) s else
      let c := nextIssue s x.domain
      let w := if timeFmt e = 0 then 0 else wallOf s
      let s := modHamper (drawIssue x.domain (takeShare h x 0 1 s)) h (fun y => { y with drawn := some (c, w) })
      { s with dups := s.dups.map (fun r => if r.owner = h ∧ r.closed = false then { r with issueNo := c, wall := w } else r) }

/-- Steps 6 and 7 of R277: the template is read again, spliced and hashed; the spliced copy is kept. -/
def issueHash (h : Nat) (x : Hamper) (e : Bytes) (s : State) : State :=
  match x.drawn with
  | none => s
  | some (c, w) => hashDone h (splice e (readAll s x (srcRanges s x e)) c w) s

/-- Steps 8 and 9 of R277, on engines that hold the key: the spliced copy is signed, the signature checked. W_last moves before the
completion (R279). -/
def issueExecute (h : Nat) (flt : OpFault) (x : Hamper) (e : Bytes) (k : Key) (s : State) : State :=
  match x.drawn with
  | none => s
  | some (c, w) =>
    let m := x.template
    withDraw x (signDraw e) (fun rnd =>
      let g := signBytes e false k rnd m
      internalFault h x flt (signGood e false k rnd m g) (fun s =>
        let out := m ++ g
        let poisoned := ((hamperOf s h).map (·.cupPoison)).getD false
        let late := timeFmt e != 0 && domExists s x.domain && !poisoned && x.replay.isNone
        complete h e out { status := stOk, len := out.length, issueNo := c }
          (if late then modDom s x.domain (fun r => { r with wLast := w }) else s))) s

/-- ISSUE (R277): its checks and the draw, then its digest-engine phase, then its public-key phase. -/
def issueRun (flt : OpFault) (h : Nat) (x : Hamper) (e : Bytes) (s : State) : State :=
  match issueEarly e with
  | some b => endBad h b s
  | none =>
    if x.drawn.isSome && !x.hashed then withPk h x e (withReads h x (readRanges s x e) (issueHash h x e)) s
    else if awaitsGrant s x e then s else
    match keyStep s x (slotOf e) (pkJudge useIssue [privateType (schemeOf e)]) with
    | .key k =>
      if x.hashed then withPk h x e (withRoom e (dstLenOf e) (issueExecute h flt x e k)) s else
      (match issueLater s x e k with
       | some b => endBad h b s
       | none => withReads h x (readRanges s x e) (issueDraw h x e) s)
    | r => keyFailure h x.domain r s

/-- ISSUE (R277). -/
def execIssue (h : Nat) (flt : OpFault) (s : State) : Host.Outcome State Fault Refusal := .next (runEntry 0x38 h (issueRun flt h) s)

/-- Fields of a derivation (R282). -/
def prfOf (e : Bytes) : Nat := byteAt (paramOf e) 0
def outType (e : Bytes) : Nat := byteAt (paramOf e) 1
def outLen (e : Bytes) : Nat := byteAt (paramOf e) 2
def outUsage (e : Bytes) : Nat := byteAt (paramOf e) 4
def labelLen (e : Bytes) : Nat := byteAt (paramOf e) 5
/-- LABEL is no longer than its length says (R282). -/
def labelOk (e : Bytes) : Bool := decide (labelLen e ≤ 24) && allZero (slice (paramOf e) (8 + labelLen e) (24 - labelLen e))

/-- The derived octets (R282). -/
def derived (e : Bytes) (key context : Bytes) : Bytes :=
  let prf := fun (m : Bytes) => if prfOf e = 0 then cmac key m else hmac (prfOf e) key m
  kdfWith prf (if prfOf e = 0 then 16 else algOut (prfOf e)) (outLen e) (slice (paramOf e) 8 (labelLen e)) context

/-- The checks of DERIVE_EXPORT before its key (R266, R267, R282). -/
def exportEarly (e : Bytes) : Option Bad :=
  let f := flags e; let p := paramOf e; let inline := bit f 8
  firstBad [
    (auxOf e != 0 || f / 0x200 != 0 || bits f 7 0 != 0 || !srcForm false e || !allZero (slice p 6 2) || (inline && !noDst e),
      ⟨stBadParam, 1, 0⟩),
    (prfOf e != 0 || outType e != 0 || !(outLen e == 16 || outLen e == 32) || byteAt p 3 != 0 || outUsage e != 0 || !labelOk e,
      ⟨stBadParam, 0x36, 0⟩)]

/-- The legal length and usage of a DERIVE_TEMP output by its type (R282). -/
def tempOutOk (e : Bytes) : Bool :=
  let n := outLen e; let u := outUsage e
  match outType e with
  | 0 => n == 16 && u != 0 && u / 16 == 0
  | 1 => n == 32 && u != 0 && u / 16 == 0
  | 2 => decide (16 ≤ n) && decide (n ≤ 64) && (u == 4 || u == 8 || u == 12)
  | 3 => decide (16 ≤ n) && decide (n ≤ 64) && u == 8
  | _ => false

/-- The checks of DERIVE_TEMP before its key (R266, R267, R278, R282). -/
def tempEarly (e : Bytes) : Option Bad :=
  firstBad [
    (auxOf e != 0 || flags e != 0 || !srcForm false e || !noDst e || !allZero (slice (paramOf e) 6 2), ⟨stBadParam, 1, 0⟩),
    (decide (2 < prfOf e) || !tempOutOk e || !labelOk e, ⟨stBadParam, 0x36, 0⟩),
    (decide (7 < byteAt (paramOf e) 3), ⟨stBadParam, 0x33, 0⟩)]

/-- Usage, type and class of a derivation's key (R202, R233, R267, R283). -/
def deriveJudge (e : Bytes) (k : Key) : Option (Nat × Nat) :=
  let exp := opcode e == 0x40
  if !bit k.usage (if exp then useExport else useDerive) then some (stKeyUsage, 1)
  else if !(if exp || prfOf e == 0 then [0x01, 0x03] else [0x07, 0x08]).contains k.typ then some (stKeyUsage, 2)
  else if (deriveNeed (if exp then 0 else prfOf e) k.cls (isTemp (slotOf e))).isNone then some (stKeyClass, 0)
  else none

/-- Addresses, lengths and the cap of a derivation (R234, R267, R283, R331). -/
def deriveLater (s : State) (x : Hamper) (e : Bytes) : Option Bad :=
  let exp := opcode e == 0x40; let n := srcLenOf e
  orBad (addressBad s x true false e [])
  (orBad (firstBad [
      (if exp then decide (n < 1) || decide (64 < n) else decide (4096 < n), ⟨stBadLength, 1, 0⟩),
      (exp && !bit (flags e) 8 && decide (dstLenOf e < outLen e), ⟨stBadLength, 0, outLen e⟩)])
    (capBad s x 3 1))

/-- Usage bits of a temporary from OUT_USAGE (R282, R299). -/
def tempUsage (u : Nat) : Nat :=
  b2n (bit u 0) * 2 ^ useEncrypt + b2n (bit u 1) * 2 ^ useDecrypt + b2n (bit u 2) * 2 ^ useMac + b2n (bit u 3) * 2 ^ useDerive
/-- The temporary a DERIVE_TEMP makes (R283). -/
def derivedTemp (e : Bytes) (k : Key) (v : Bytes) : Temp :=
  { typ := [0x01, 0x03, 0x07, 0x08].getD (outType e) 0x08
    cls := if 2 ≤ outType e ∧ k.cls = clsGuarded then clsRedundant else k.cls
    usage := tempUsage (outUsage e), value := v }

/-- A derivation on engines that hold the key (R282, R283). -/
def deriveExecute (h : Nat) (flt : OpFault) (x : Hamper) (e : Bytes) (k : Key) (s : State) : State :=
  if flt = .redundantMismatch ∧ x.engines.length = 2 then redundantFault h x (if prfOf e = 0 then 1 else 3) 1 s else
  if sealSplit flt k e then railsFault h x (if prfOf e = 0 then 9 else 10) 2 { status := stEngineFault, detail := 2 } s else
  let v := derived e (keyOctets k) (readAll s x (srcRanges s x e))
  if opcode e = 0x41 then
    complete h e [] { status := stOk } (putTemp h (byteAt (paramOf e) 3) (derivedTemp e k v) s)
  else if bit (flags e) 8 then
    complete h e [] { status := stOk, len := v.length, param := some (inlineParam v) } s
  else complete h e v { status := stOk, len := v.length } s

/-- The two derivations (R283). A cipher engine waits for its masks (R224). -/
def deriveRun (flt : OpFault) (h : Nat) (x : Hamper) (e : Bytes) (s : State) : State :=
  match (if opcode e = 0x40 then exportEarly e else tempEarly e) with
  | some b => endBad h b s
  | none =>
    if awaitsGrant s x e then s else
    match keyStep s x (slotOf e) (deriveJudge e) with
    | .key k =>
      (match deriveLater s x e with
       | some b => endBad h b s
       | none =>
         let run := withReads h x (readRanges s x e) (withRoom e (outLen e) (deriveExecute h flt x e k))
         withEngines h x ((entryNeed s x e).getD []) (if prfOf e = 0 then withMasks x run else run) (takeShare h x 3 1 s))
    | r => keyFailure h x.domain r s

/-- DERIVE_EXPORT (R283). -/
def execDeriveExport (h : Nat) (flt : OpFault) (s : State) : Host.Outcome State Fault Refusal := .next (runEntry 0x40 h (deriveRun flt h) s)

/-- DERIVE_TEMP (R283). -/
def execDeriveTemp (h : Nat) (flt : OpFault) (s : State) : Host.Outcome State Fault Refusal := .next (runEntry 0x41 h (deriveRun flt h) s)

/-- COUNT of a RANDOM (R287). -/
def countOf (e : Bytes) : Nat := leAt (paramOf e) 0 4

/-- The checks of RANDOM (R266, R267, R287). -/
def randomBad (s : State) (x : Hamper) (e : Bytes) : Option Bad :=
  let f := flags e; let inline := bit f 8; let n := countOf e
  orBad (firstBad [
    (auxOf e != 0 || f / 0x400 != 0 || bits f 7 0 != 0 || !noSrc e || !allZero (slice (paramOf e) 4 28) || (inline && !noDst e),
      ⟨stBadParam, 1, 0⟩),
    (decide (n < 1) || decide ((if inline then 32 else 4096) < n), ⟨stBadParam, 0x36, 0⟩),
    (slotOf e != 0, ⟨stBadParam, 1, 0⟩)])
  (orBad (dstBad s x false e [])
    (if !inline && decide (dstLenOf e < n) then some ⟨stBadLength, 0, n⟩ else none))

/-- RANDOM runs in the scheduler: it uses no engine (R287). -/
def randomExecute (h : Nat) (x : Hamper) (e : Bytes) (s : State) : State :=
  let s := if bit (flags e) 9 && rngReady s then { s with rng := reseeded s.rng } else s
  withDraw x (countOf e) (fun v s =>
    if bit (flags e) 8 then complete h e [] { status := stOk, len := v.length, param := some (inlineParam v) } s
    else complete h e v { status := stOk, len := v.length } s) s

/-- RANDOM (R287). -/
def execRandom (h : Nat) (_flt : OpFault) (s : State) : Host.Outcome State Fault Refusal :=
  .next (runEntry 0x01 h (fun x e s =>
    match randomBad s x e with
    | some b => endBad h b s
    | none => withRoom e (countOf e) (randomExecute h x e) s) s)

/-- The attestation body (R288). -/
def attestBody (s : State) (x : Hamper) (e : Bytes) : Bytes :=
  let root := rootOf s
  let marks := stateMarks s + 16 * b2n (decide (s.boot.mode = .recovery)) + 32 * b2n s.thermos.quarantine + 64 * b2n root.isNone
  octets [0x53, 0x41, 0x54, 0x31, 0x01, marks, modeCode s.boot.mode, lifecycleCode (lifecycle s)]
    ++ toLe 4 (regWord s x.port 0) ++ octets [inService s 0 8, inService s 8 8, inService s 16 8, inService s 24 12] ++ uid ++ paramOf e
    ++ toLe 8 s.mono ++ (match s.thermos.opAnchor with | some a => fitTo 32 a | none => zeros 32) ++ toLe 2 x.domain ++ zeros 6
    ++ (match root with | some r => devicePub r 3 | none => zeros 96)

/-- The checks of ATTEST (R266, R267, R288). -/
def attestBad (s : State) (x : Hamper) (e : Bytes) : Option Bad :=
  orBad (firstBad [(auxOf e != 0 || flags e != 0 || !noSrc e || slotOf e != 0, ⟨stBadParam, 1, 0⟩)])
  (orBad (dstBad s x false e []) (if dstLenOf e < 304 then some ⟨stBadLength, 0, 304⟩ else none))

/-- ATTEST with no root (R288): the body alone, unsigned, and KEY_MISSING. -/
def attestUnsigned (h : Nat) (x : Hamper) (e : Bytes) (s : State) : State :=
  if ((hamperOf s h).map (·.cupPoison)).getD false then failEntry h stKeyMissing 0x40 s
  else finishEntry (writeAt h (dstOf e) (attestBody s x e) s) h { status := stKeyMissing, detail := 0x40, len := 208 }

/-- ATTEST in its digest-engine phase: the body is made and hashed (R263, R288). -/
def attestHash (h : Nat) (x : Hamper) (e : Bytes) (s : State) : State := hashDone h (attestBody s x e) s
/-- ATTEST on its public-key engine: the signature over the body, checked (R268, R288). -/
def attestExecute (h : Nat) (flt : OpFault) (x : Hamper) (e : Bytes) (s : State) : State :=
  let root := (rootOf s).getD []
  let sig := deviceSign root 3 x.template
  internalFault h x flt (deviceSigned root 3 x.template sig) (fun s =>
    let out := x.template ++ sig
    complete h e out { status := stOk, len := out.length } s) s

/-- ATTEST (R288). -/
def execAttest (h : Nat) (flt : OpFault) (s : State) : Host.Outcome State Fault Refusal :=
  .next (runEntry 0x51 h (fun x e s =>
    if x.hashed then withPk h x e (withRoom e 304 (attestExecute h flt x e)) s else
    match attestBad s x e with
    | some b => endBad h b s
    | none =>
      if (rootOf s).isNone then withRoom e 208 (attestUnsigned h x e) s
      else withPk h x e (attestHash h x e) s) s)

end Sys2Proof.Machine
end

