-- ==== Sys2Proof/Machine/Meter.lean ====
section
/-! DEFINITION. Usage metering: delivery of records, METER_POST, immediate rate changes, restoring at BOOT (R347, R349 to R357). -/

namespace Sys2Proof.Machine

/-- A delivered record (R349). -/
def deliveredBytes (root : Bytes) (m : MeterRec) : Bytes := recordBytes m ++ deviceSign root 2 (recordBytes m)
/-- The internal check of a record's signature (R268, R349). -/
def recordGood (root : Bytes) (m : MeterRec) : Bool := deviceSigned root 2 (recordBytes m) (deviceSign root 2 (recordBytes m))

/-- The tick of the next boundary comes; only in OPERATIONAL (R346). DESIGN CHOICE, log entry 33. -/
def meterBoundary (s : State) : State := if s.boot.mode ≠ .operational then s else elapseTo s.thermos.boundaryMono s

/-- METER_BOUNDARY (R346). -/
def execMeterBoundary (s : State) : Host.Outcome State Fault Refusal := .next (meterBoundary s)

/-- An immediate rate change (R347): the record closes with SPLIT, one of the new class opens. -/
def splitRecord (d cls : Nat) (s : State) : State :=
  match putRecord d (closingRecord s d s.mono 1 false) s with
  | some s' => openRecord d s.mono cls s'
  | none => s

/-- The record of a destroyed domain closes with DOMAIN_END, none when it can be neither written nor absorbed (R350). -/
def endRecord (d : Nat) (s : State) : Option State :=
  if (domOf s d).failed then some s else putRecord d (closingRecord s d s.mono 128 false) s

/-- METER_COUNTER_WRITE (R353): a domain's counters go to METERS. -/
def execMeterCounterWrite (d : Nat) (s : State) : Host.Outcome State Fault Refusal := .next (saveCounters d s)

/-- A domain's metering as step 11 of BOOT restores it (R355); `last` is the last boundary that passed, if one did, and `gone` how many passed
before it. -/
def restoreDomain (last : Option Nat) (gone : Nat) (clean debug : Bool) (d : Nat) (s : State) : State :=
  let s := modDom s d (fun r => { r with unclean := r.unclean || !clean, debugGap := r.debugGap || debug, inner := r.inner + gone })
  match last with
  | some b => boundaryDomain b 8 d s
  | none => s

/-- Restoring metering at step 11 of a BOOT that ends in OPERATIONAL (R355). DEDUCED, log entry 44. -/
def restoreMeters (s : State) : State :=
  let clean := s.thermos.cleanStop; let debug := s.thermos.debugSeen
  let b := s.thermos.boundaryMono; let l := intervalTicks (nextInterval s)
  let last := if s.mono < b then none else some (max b (s.mono / l * l))
  let gone := match last with | some e => if e = b then 0 else 1 + multiplesInside l b e | none => 0
  let s := (meterDomains s).foldl (fun s d => restoreDomain last gone clean debug d s) s
  let s := if last.isSome then advanceBoundary s.mono s else s
  let s := modThermos s (fun t => { t with cleanStop := false, debugSeen := false })
  if clean then s else raise 19 2 0xFFFF none s

/-- MAX_RECORDS and WAIT_MS of a METER_POST (R351). -/
def maxRecords (e : Bytes) : Nat := leAt (paramOf e) 0 2
def waitMs (e : Bytes) : Nat := leAt (paramOf e) 4 4

/-- An address of the arena, Pantry or Larder (R360). -/
def inArena (a : Nat) : Bool := (decide (0x00400000 ≤ a) && decide (a < 0x01000000)) || (decide (0x10000000 ≤ a) && decide (a < 0x14000000))
/-- The checks of METER_POST (R351). -/
def postBad (s : State) (x : Hamper) (e : Bytes) : Option Bad :=
  let p := paramOf e
  orBad (firstBad [
    (decide (s.boot.mode = .debug), ⟨stWrongState, 0x71, 0⟩),
    (x.domain != 0 || !isOperator s x.port, ⟨stWrongState, 0x70, 0⟩),
    (slotOf e != 0 || auxOf e != 0 || flags e != 0 || !noSrc e || !allZero (slice p 2 2) || !allZero (slice p 8 24)
      || decide (maxRecords e < 1) || decide (64 < maxRecords e) || decide (60000 < waitMs e), ⟨stBadParam, 0x70, 0⟩),
    (!inArena (dstOf e), ⟨stBadLength, 0, 224⟩)])
  (orBad (dstBad s x false e []) (if dstLenOf e < 224 then some ⟨stBadLength, 0, 224⟩ else none))

/-- PARAM of a completed METER_POST (R351). -/
def postParam (e : Bytes) (n left first : Nat) : Bytes :=
  (paramOf e).take 8 ++ toLe 2 n ++ toLe 2 left ++ zeros 4 ++ toLe 8 first ++ zeros 8

/-- The records a METER_POST takes: the oldest (R351). -/
def postTakes (e : Bytes) (s : State) : List MeterRec := s.thermos.backlog.take (min (maxRecords e) (dstLenOf e / 224))
/-- METER_POST delivers its records (R351, R352). -/
def postDeliver (h : Nat) (e : Bytes) (s : State) : State :=
  let rs := postTakes e s; let n := rs.length
  let out := rs.flatMap (deliveredBytes ((rootOf s).getD []))
  let param := postParam e n (s.thermos.backlog.length - n) ((rs.head?.map (·.seq)).getD 0)
  let poisoned := ((hamperOf s h).map (·.cupPoison)).getD false
  let s := complete h e out { status := stOk, len := out.length, param := some param } s
  if poisoned then s else modHamper s h (fun y => { y with posted := y.posted ++ rs.map (·.seq) })

/-- METER_POST: at once while records wait; else it waits up to WAIT_MS (R351). -/
def postRun (flt : OpFault) (h : Nat) (x : Hamper) (e : Bytes) (s : State) : State :=
  match postBad s x e with
  | some b => endBad h b s
  | none =>
    if laterPost s x then s
    else if s.thermos.backlog = [] then
      (if waitMs e = 0 then postDeliver h e s else if x.waiting then s else modHamper s h (fun y => { y with waiting := true, waitSince := s.mono }))
    else withEngines h x ((entryNeed s x e).getD []) (withRoom e (dstLenOf e) (fun s =>
      internalFault h x flt ((postTakes e s).all (recordGood ((rootOf s).getD []))) (postDeliver h e) s)) s

/-- METER_POST (R351). -/
def execMeterPost (h : Nat) (flt : OpFault) (s : State) : Host.Outcome State Fault Refusal := .next (runEntry 0x60 h (postRun flt h) s)

/-- METER_POST_TIMEOUT (R351): WAIT_MS has passed since the entry began to wait; with the backlog still empty it completes, else METER_POST
serves it (DESIGN CHOICE, log entry 33). -/
def execMeterPostTimeout (h : Nat) (_flt : OpFault) (s : State) : Host.Outcome State Fault Refusal :=
  .next (runEntry 0x60 h (fun x e s =>
    if !x.waiting || s.thermos.backlog != [] || (postBad s x e).isSome then s else
    let s := elapseTo (x.waitSince + msTicks (waitMs e)) s
    if s.thermos.backlog == [] then postDeliver h e s else s) s)

end Sys2Proof.Machine
end

