-- ==== Sys2Proof/Machine/Archive.lean ====
section
/-! DEFINITION. The key archive: its cells, finding room, writing a change, compaction, and the edits that key envelopes make
to a manifest (R301 to R304, R310, R314, R388). -/

namespace Sys2Proof.Machine

/-- Cells of the archive (R301, R388). -/
def archiveCells : Nat := 131072
/-- Cells of a blob of span `n` (R301). -/
def blobCells (n : Nat) : Nat := (n + 2) / 2
/-- Cells of a manifest of `e` entries (R302). -/
def manCells (e : Nat) : Nat := (e + 4) / 4
/-- Consecutive cells. -/
def cellRun (c n : Nat) : List Nat := (List.range n).map (c + ·)

/-- A manifest in force: its domain, whether it is a debug manifest, its first cell, its octets. -/
structure LiveManifest where
  domain : Nat
  debug : Bool
  cell : Nat
  bytes : Bytes
  deriving DecidableEq, Repr

/-- The manifests in force: each existing domain's valid one, and the debug manifests (R302, R304, R314). -/
def liveManifests (s : State) : List LiveManifest :=
  s.thermos.domains.filterMap (fun c =>
    let m := readCells s c.2.manifestCell (32 + 32 * c.2.manifestEntries)
    if c.2.state ≠ 0 ∧ c.2.failed = false ∧ manifestOk c.2 c.1 m = true then
      some { domain := c.1, debug := false, cell := c.2.manifestCell, bytes := m }
    else none)
  ++ s.debugManifests.map (fun k => { domain := k.domain, debug := true, cell := k.cell, bytes := k.bytes })

/-- Cells a manifest takes and references. -/
def manifestRefs (k : LiveManifest) : List Nat :=
  let es := manEntries k.bytes
  cellRun k.cell (manCells es.length) ++ es.flatMap (fun e => cellRun e.cell (blobCells e.span))

/-- Every referenced cell. -/
def referencedCells (s : State) : List Nat := (liveManifests s).flatMap manifestRefs

/-- Cells of the archive whose octets are not all 0xFF. -/
def dirtyCells (s : State) : List Nat :=
  let base := cellAddr s 0
  (s.mp.flash.filter (fun c => decide (base ≤ c.1) && decide (c.1 < base + 0x01000000))).map (fun c => (c.1 - base) / 128)

/-- Learn which cells are not erased, before the first change after a full reset (R304). DESIGN CHOICE, log entry 19. -/
def learnCells (s : State) : State :=
  if s.cellsKnown then s
  else { s with usedCells := (dirtyCells s ++ referencedCells s).foldl insertNat [], cellsKnown := true }

/-- The lowest run of `n` cells at or after `c` that a rising list leaves free; R304 names no choice among runs (DESIGN CHOICE, log entry 19). -/
def firstFit (n : Nat) : List Nat → Nat → Option Nat
  | [], c => if c + n ≤ archiveCells then some c else none
  | u :: t, c => if c + n ≤ u then some c else firstFit n t (max c (u + 1))

/-- Runs for a list of lengths, each clear of those before. DESIGN CHOICE, log entry 19. -/
def placeRuns : List Nat → List Nat → Option (List Nat)
  | [], _ => some []
  | n :: t, used =>
    match firstFit n used 0 with
    | some c => (placeRuns t ((cellRun c n).foldl insertNat used)).map (c :: ·)
    | none => none

/-- A change to one domain's archive (R304): the entries of its new manifest, and the new blobs by handle. -/
structure ArcChange where
  domain : Nat
  debug : Bool
  epoch : Nat
  entries : List ManEntry
  blobs : List (Nat × Bytes)
  deriving DecidableEq, Repr

/-- Lengths in cells of a change's blobs and of its manifest. -/
def changeRuns (c : ArcChange) : List Nat := c.blobs.map (fun b => (b.2.length + 127) / 128) ++ [manCells c.entries.length]

/-- Program octets into erased cells. -/
def programCells (c : Nat) (b : Bytes) (s : State) : State :=
  flashPut (cellAddr s c) b { s with usedCells := (cellRun c ((b.length + 127) / 128)).foldl insertNat s.usedCells }

/-- The manifest entries of a change once its blobs have their cells. -/
def settledEntries (c : ArcChange) (cells : List Nat) : List ManEntry :=
  c.entries.map (fun e =>
    match c.blobs.zipIdx.find? (fun b => b.1.1 == e.handle) with
    | some b => { e with cell := cells.getD b.2 0 }
    | none => e)

/-- Commit a manifest: digest, cell and entries go to the Thermos, or for a debug manifest to the Pantry (R302, R304, R314). -/
def commitManifest (d : Nat) (debug : Bool) (cell : Nat) (m : Bytes) (s : State) : State :=
  let k : KnownManifest := { domain := d, bytes := m, cell := cell }
  if debug then { s with debugManifests := s.debugManifests.filter (fun x => x.domain != d) ++ [k] }
  else
    let s := modDom s d (fun r => { r with manifestDigest := sha256 m, manifestCell := cell, manifestEntries := (manEntries m).length })
    { s with manifests := s.manifests.filter (fun x => x.domain != d) ++ [{ domain := d, bytes := m }] }

/-- Write a change whose cells are chosen: blobs, then the manifest, then its commit (R304). DEDUCED, log entry 49. -/
def applyChange (c : ArcChange) (cells : List Nat) (s : State) : State :=
  let m := manBytes c.domain c.epoch (settledEntries c cells)
  let cell := cells.getD c.blobs.length 0
  let s := (c.blobs.zip cells).foldl (fun s b => programCells b.2 b.1.2 s) s
  commitManifest c.domain c.debug cell m (programCells cell m s)

/-- The cells of a 4 KB sector. -/
def sectorCells (k : Nat) : List Nat := cellRun (32 * k) 32

/-- The change that moves a manifest, and those of its blobs that lie in a sector, out of it; the blobs are copied as they stand
(R304). None when nothing of it lies there. -/
def moveChange (s : State) (k : Nat) (l : LiveManifest) : Option ArcChange :=
  let es := manEntries l.bytes
  let inSector := fun c n => decide (c < 32 * k + 32) && decide (32 * k < c + n)
  let hit := es.filter (fun e => inSector e.cell (blobCells e.span))
  if hit = [] ∧ inSector l.cell (manCells es.length) = false then none
  else some { domain := l.domain, debug := l.debug, epoch := leAt l.bytes 8 4, entries := es,
              blobs := hit.map (fun e => (e.handle, readCells s e.cell (64 + 64 * e.span))) }

/-- Move every manifest's share of a sector out of it; none when there is no room for a move. -/
def emptySector (k : Nat) : List LiveManifest → State → Option State
  | [], s => some s
  | l :: t, s =>
    match moveChange s k l with
    | none => emptySector k t s
    | some c =>
      match placeRuns (changeRuns c) ((sectorCells k).foldl insertNat s.usedCells) with
      | some cells => emptySector k t (applyChange c cells s)
      | none => none

/-- Erase a sector (R304). -/
def eraseSector (k : Nat) (s : State) : State :=
  flashPut (cellAddr s (32 * k)) (List.replicate 4096 0xFF)
    { s with usedCells := s.usedCells.filter (fun c => c / 32 != k) }

/-- The sector with the fewest referenced cells among those with a cell to reclaim, the lowest of several (R304; DESIGN CHOICE, log entry 19). -/
def bestSector (s : State) : Option Nat :=
  let refs := referencedCells s
  let cands := (s.usedCells.filter (fun c => !refs.contains c)).map (· / 32)
  let weight := fun k => (refs.filter (fun c => c / 32 == k)).dedup.length
  match cands with
  | [] => none
  | k :: t => some (t.foldl (fun a b => if weight b < weight a then b else a) k)

/-- Enough erased cells remain, and the change has room (R304). DESIGN CHOICE, log entry 19. -/
def roomy (c : ArcChange) (s : State) : Bool :=
  decide (s.usedCells.length + 8192 ≤ archiveCells) && (placeRuns (changeRuns c) s.usedCells).isSome

/-- Compaction, sector by sector; the count bounds it (R304). DESIGN CHOICE, log entry 19. -/
def compact (c : ArcChange) : Nat → State → State
  | 0, s => s
  | f + 1, s =>
    if roomy c s then s else
    match bestSector s with
    | none => s
    | some k =>
      match emptySector k (liveManifests s) s with
      | some s' => compact c f (eraseSector k s')
      | none => s

/-- ARCHIVE_LOW after a compaction that cannot restore 8,192 erased cells (R316). -/
def noteLow (s : State) : State := if archiveCells < s.usedCells.length + 8192 then raise 12 3 0 none s else s

/-- How an archive change ends. -/
inductive ArcResult where
  | done (s : State)
  | full (s : State)
  | failed (s : State)

/-- A program or erase of `n` cells from a cell on that does not verify (R304, R398): WRITE_FAIL, the cells are not erased any more, what they
hold is open. DESIGN CHOICE, log entry 8. -/
def brokenCells (cell n : Nat) (s : State) : State :=
  let a := cellAddr s cell
  let s := programCells cell ((List.range (128 * n)).map (fun i => Config.brokenFlashByte s.mono (a + i))) s
  raise 4 2 0 none { s with mp := { s.mp with wfSource := 2, wfPort := 0, wfAddr := a } }

/-- A change whose first program does not verify: nothing is committed (R304). DEDUCED, log entry 49. -/
def brokenChange (c : ArcChange) (cells : List Nat) (s : State) : State := brokenCells (cells.getD 0 0) ((changeRuns c).getD 0 0) s

/-- A compaction whose first program, or erase where nothing is to be moved, does not verify (R304). DEDUCED, log entry 49. -/
def brokenCompaction (s : State) : State :=
  match bestSector s with
  | none => s
  | some k =>
    match (liveManifests s).findSome? (moveChange s k) with
    | none => brokenCells (32 * k) 32 s
    | some c =>
      match placeRuns (changeRuns c) ((sectorCells k).foldl insertNat s.usedCells) with
      | some cells => brokenChange c cells s
      | none => s

/-- The state an archive change ends in. -/
def arcState : ArcResult → State
  | .done s => s
  | .full s => s
  | .failed s => s
/-- Make a change in the erased cells there are (R304). `ok` says that every program of it verifies. DEDUCED, log entry 49. -/
def placeChange (ok : Bool) (c : ArcChange) (s : State) : ArcResult :=
  match placeRuns (changeRuns c) s.usedCells with
  | none => .full (raise 12 4 c.domain (some c.domain) s)
  | some cells => if ok then .done (applyChange c cells s) else .failed (brokenChange c cells s)
/-- Sectors are compacted until a change has room (R304). -/
def makeRoom (c : ArcChange) (s : State) : State := if roomy c s then s else noteLow (compact c 4096 s)
/-- A change needs a compaction, which fails (R304). -/
def compactFails (sound : Bool) (c : ArcChange) (s : State) : Bool := !roomy c s && !sound && (bestSector s).isSome
/-- Make a change, compacting first when it must (R304). `sound` says that every program and erase of the compaction verifies. DEDUCED, log
entry 49. -/
def writeChange (ok sound : Bool) (c : ArcChange) (s : State) : ArcResult :=
  let s := learnCells s
  if compactFails sound c s then .failed (brokenCompaction s) else placeChange ok c (makeRoom c s)

/-- A manifest as an edit starts from it: the debug one in DEBUG (R314, R336). -/
def workManifest (s : State) (d : Nat) : Except LoadFail (List ManEntry) :=
  if onTestRoot s then .ok (manEntries (debugManifest s d)) else (manifestFor s d).map manEntries

/-- List an entry in ascending handle order, in place of one at its handle (R302). -/
def putManEntry (e : ManEntry) : List ManEntry → List ManEntry
  | [] => [e]
  | x :: t => if e.handle < x.handle then e :: x :: t else if e.handle = x.handle then e :: t else x :: putManEntry e t

/-- The entry of a handle. -/
def entryAt (es : List ManEntry) (h : Nat) : Option ManEntry := es.find? (fun e => e.handle == h)
/-- The entry of a key that can be used: listed and not ORPHAN. -/
def liveEntry (es : List ManEntry) (h : Nat) : Option ManEntry := es.find? (fun e => e.handle == h && !e.orphan)

/-- Handles whose parent is in a list. -/
def childrenOf (es : List ManEntry) (hs : List Nat) : List Nat := (es.filter (fun e => e.parent != 0xFFFF && hs.contains e.parent)).map (·.handle)
/-- Every descendant of a key; a chain holds four keys (R303). -/
def descendants (es : List ManEntry) (h : Nat) : List Nat :=
  let a := childrenOf es [h]; let b := childrenOf es a; let c := childrenOf es b
  (a ++ b ++ c).dedup
/-- Keys from a key to its top-level ancestor; more than four is answered as five (R303). -/
def chainLen (es : List ManEntry) : Nat → Nat → Nat
  | 0, _ => 1
  | f + 1, h =>
    match entryAt es h with
    | some e => if e.parent = 0xFFFF then 1 else 1 + chainLen es f e.parent
    | none => 1

/-- Mark entries ORPHAN (R303, R310). -/
def orphan (hs : List Nat) (es : List ManEntry) : List ManEntry := es.map (fun e => if hs.contains e.handle then { e with orphan := true } else e)
/-- Zero the slots of keys (R310). -/
def dropKeys (hs : List Nat) (s : State) : State :=
  let s := zeroSlots ((s.keys.filter (fun c => hs.contains c.1)).flatMap (fun c => (List.range c.2.span).map (c.1 + ·))) s
  { s with keys := s.keys.filter (fun c => !hs.contains c.1) }

/-- Slots of a span lie in an entry that is not ORPHAN, other than the one at `except_` (R333). -/
def spanTaken (es : List ManEntry) (h n except_ : Nat) : Bool :=
  es.any (fun e => !e.orphan && e.handle != except_ && decide (h < e.handle + e.span) && decide (e.handle < h + n))
/-- A span lies in a domain's slot range (R333). -/
def spanInRange (r : DomRec) (h n : Nat) : Bool := decide (r.slotFirst ≤ h) && decide (h + n ≤ r.slotFirst + r.slotCount)

/-- The value of a parent, loaded with its ancestors as R303 has it; a failure is one of R304. -/
def parentValue (s : State) (d p : Nat) : Except LoadFail Key :=
  match loadOutcome s d p with
  | .ok ks => (match ks.head? with
    | some c => .ok c.2
    | none => .error ⟨stKeyMissing, 3, none⟩)
  | .error f => .error f

/-- The wrap key of a new blob (R292, R303). -/
def wrapFor (s : State) (d h typ parent : Nat) : Except LoadFail Bytes :=
  let epoch := (domOf s d).epoch
  if parent = 0xFFFF then .ok (topWrapKey ((rootOf s).getD []) d epoch h typ)
  else (parentValue s d parent).map (fun k => childWrapKey k.value d epoch h typ)

/-- A blob and its manifest entry from a whole header, wrapped with the IV the header carries (R301, R302). -/
def wrapBlob (s : State) (d h parent typ span : Nat) (hd value iv : Bytes) : Except LoadFail (Bytes × ManEntry) :=
  (wrapFor s d h typ parent).map (fun w =>
    let b := blobBytes w hd (fitTo (64 * span) value) iv
    (b, { handle := h, span := span, orphan := false, cell := 0, parent := parent, typ := typ, tag := slice b (48 + 64 * span) 16 }))

/-- A blob and its manifest entry for a key at a handle (R301, R302). -/
def wrapKey (s : State) (d h parent : Nat) (k : Key) (iv : Bytes) : Except LoadFail (Bytes × ManEntry) :=
  wrapBlob s d h parent k.typ k.span (blobHeader d h parent (domOf s d).epoch k iv) k.value iv

end Sys2Proof.Machine
end

