-- ==== Sys2Proof/Machine/Reset.lean ====
section
/-! DEFINITION. What a reset clears and what it keeps, and the loss of VDD_AON (R13, R32, R120, R399). -/

namespace Sys2Proof.Machine

/-- The board's part of a full reset: levels, supplies, fuses and the RTC stay; clocks, pads and the TAP return to reset (R22, R46,
R47, R120). DESIGN CHOICE, log entry 41. -/
def resetBoard (b : Board) : Board :=
  { b with pllLocked := false, glitches := [], spreadDepth := 0, spreadApplied := 0, slew := 0x000AAAAA, tap := 0, tapIr := 1, tapShift := 0,
           tapTdo := none }

/-- A full reset clears everything but the backup node, the flash, the RTC's count, fuses and levels (R120); a program or erase that runs
is cut off (R399). The queue of commands and
the model's own counters of free values are no part of the device. -/
def clearedState (cause : Nat) (s : State) : State :=
  { State.reset with
    pending := s.pending
    boot := { resetCause := cause }
    board := resetBoard s.board
    thermos := s.thermos
    journal := s.journal
    mono := s.mono
    nextHamper := s.nextHamper
    rng := { noise := s.rng.noise, stopped := true }
    mem := { factoryRemaps := s.mem.factoryRemaps, whiskPass := s.mem.whiskPass, scrubMark := s.mono }
    power := { State.reset.power with otpRetired := s.power.otpRetired }
    health := State.reset.health.set 14 (blockOf s 14)
    mp := { flash := tornFlash s }
    drawsStopped := !s.board.pfailN
    writeThrough := !s.board.pfailN }

/-- A power-on reset: every output in its reset state until `POR_N` is released (R32). -/
def powerOn (s : State) : State := { clearedState 0 s with board := { resetBoard s.board with porHigh := false } }

end Sys2Proof.Machine
end

