-- ==== Sys2Proof/Machine/Envelope.lean ====
section
/-! DEFINITION. What every Zuost envelope shares: its layout, its authority, the order of its checks, its repeats, its commit and
its completion (R317 to R327). -/

namespace Sys2Proof.Machine

/-- Fields of an envelope (R317); `v` is the staged copy. -/
def envTyp (v : Bytes) : Nat := byteAt v 5
def envAlg (v : Bytes) : Nat := byteAt v 6
def envClear (v : Bytes) : Bool := bit (byteAt v 7) 0
def envDomain (v : Bytes) : Nat := leAt v 0x18 2
def envLen (v : Bytes) : Nat := leAt v 0x1C 4
def envCounter (v : Bytes) : Nat := leAt v 0x20 8
def envSigner (v : Bytes) : Bytes := slice v 0xA0 96
def envPayload (v : Bytes) : Bytes := slice v 0x100 (envLen v)
def envTag (v : Bytes) : Bytes := slice v (0x100 + envLen v) 16
def envSignature (v : Bytes) : Bytes := slice v (0x110 + envLen v) 96
/-- The octets that the signature and the hash H cover (R319). -/
def envSigned (v : Bytes) : Bytes := v.take (0x110 + envLen v)
/-- The envelope hash H (R319). -/
def envHash (v : Bytes) : Bytes := sha256 (envSigned v)
/-- The envelope is the operator's. -/
def fromOperator (v : Bytes) : Bool := envDomain v == 0xFFFF
/-- The domain an authority's key-bearing envelopes act on (R320). -/
def envTarget (v : Bytes) : Nat := if fromOperator v then 0 else envDomain v
/-- TYPE is one of the Envelope types table. DEDUCED, log entry 20. -/
def typeListed (t : Nat) : Bool := decide (1 ≤ t) && decide (t ≤ 0x14)

/-- Step 1 of R323. -/
def formatOk (v : Bytes) (n : Nat) : Bool :=
  slice v 0 5 == octets [0x5A, 0x55, 0x4F, 0x31, 0x01] && typeListed (envTyp v) && (envAlg v == 1 || envAlg v == 2)
    && byteAt v 7 / 2 == 0 && allZero (slice v 0x1A 2) && allZero (slice v 0x28 8) && allZero (slice v 0x9C 4)
    && (fromOperator v || (decide (1 ≤ envDomain v) && decide (envDomain v ≤ 1023))) && n == 368 + envLen v

/-- A valid operator anchor exists (R127, R323). -/
def operatorKnown (s : State) : Bool := s.thermos.valid && s.thermos.claimed && s.thermos.opAnchor.isSome
/-- The entry came on the port's bootstrap ring (R124, R127). -/
def onBootstrap (s : State) (x : Hamper) : Bool := (portOf s x.port).bootstrap && x.ring == x.port
/-- The conditions of R127 for a CLAIM, other than presence. -/
def claimAccepted (s : State) (x : Hamper) : Bool :=
  (decide (lifecycle s = .unclaimed) || (decide (lifecycle s ≠ .scrapped) && !drsPresent s && !operatorKnown s))
    && (decide (s.boot.mode = .operational) || decide (s.boot.mode = .recovery)) && onBootstrap s x
/-- Step 3 of R323: the type is accepted in the mode and lifecycle (R125, R327), with the exception for a repeated CLAIM. -/
def typeAccepted (s : State) (x : Hamper) (v : Bytes) : Bool :=
  let claimed := decide (lifecycle s = .claimed)
  let t := envTyp v
  if lifecycle s = .scrapped then false
  else if t = 0x01 then claimAccepted s x || (claimed && envCounter v == s.thermos.opCounter)
  else if t = 0x13 then decide (s.boot.mode = .recovery) && claimed
  else if t = 0x14 then decide (s.boot.mode = .recovery) && s.boot.recoveryAuth
  else (decide (s.boot.mode = .operational) && claimed) || (decide (s.boot.mode = .debug) && decide (0x0D ≤ t) && decide (t ≤ 0x11))

/-- An issuer may sign the type (R320). -/
def issuerType (t : Nat) : Bool := t == 5 || (decide (0x0C ≤ t) && decide (t ≤ 0x11))
/-- Step 4 of R323: the authority exists and may sign the type (R320). -/
def authorityOk (s : State) (v : Bytes) : Bool :=
  if fromOperator v then envTyp v != 5 && (envTyp v == 1 || operatorKnown s)
  else issuerType (envTyp v) && domExists s (envDomain v)

/-- A SIGNER_PUB field in its format: an Ed25519 key is followed by zero octets (R317). -/
def signerFormOk (v : Bytes) : Bool := envAlg v == 1 || allZero ((envSigner v).drop 32)
/-- Step 5 of R323. -/
def signerOk (s : State) (v : Bytes) : Bool :=
  signerFormOk v &&
    (if fromOperator v then
      (!operatorKnown s || (envAlg v == s.thermos.opAlg && s.thermos.opAnchor == some (sha256 (envSigner v))))
     else
      let r := domOf s (envDomain v)
      envAlg v == r.anchorAlg && r.anchor == sha256 (envSigner v))

/-- Step 6 of R323: the signature (R319). -/
def signatureOk (v : Bytes) : Bool :=
  if envAlg v = 1 then verifyEcdsa 2 0 (envSigner v) (sha384 (envSigned v)) (envSignature v) == .holds
  else allZero ((envSignature v).drop 64) && verifyEd ((envSigner v).take 32) (envSigned v) ((envSignature v).take 64) == .holds

/-- The stored counter and last hash of an envelope's authority; none for a first CLAIM (R325). -/
def storedCounter (s : State) (v : Bytes) : Nat × Bytes :=
  if fromOperator v then (if operatorKnown s then (s.thermos.opCounter, s.thermos.opLastEnv) else (0, []))
  else ((domOf s (envDomain v)).envCounter, (domOf s (envDomain v)).lastEnv)

/-- CLEAR as the type allows it (R327). -/
def clearOk (v : Bytes) : Bool :=
  let t := envTyp v
  if t = 0x01 ∨ t = 0x13 ∨ t = 0x14 then envClear v else if t = 0x0D ∨ t = 0x0F then !envClear v else true

/-- The payload of an envelope without CLEAR (R318). -/
def decryptEnvelope (root v : Bytes) : Option Bytes :=
  match ecPoint p384 (slice v 0x30 96) with
  | none => none
  | some q =>
    match ecMul p384 (deviceScalar root (deviceLabel 1)) q.1 q.2 with
    | none => none
    | some z =>
      let k := hkdf384 (slice v 8 16) (toBe 48 z.1) (ascii "ZUOST ENVELOPE KEY" ++ slice v 0 0x30) 32
      let iv := slice v 0x90 12
      if gcmTag k iv (v.take 0x100) (envPayload v) = envTag v then some (gcmCrypt k iv 0 (envPayload v)) else none

/-- Step 9 of R323: the payload in clear. With CLEAR the fields of the encryption are zero (R317). -/
def openEnvelope (s : State) (v : Bytes) : Option Bytes :=
  if !clearOk v then none
  else if envClear v then (if allZero (slice v 0x30 108) && allZero (envTag v) then some (envPayload v) else none)
  else match rootOf s with
    | some r => decryptEnvelope r v
    | none => none

/-- What steps 1 to 9 of R323 find. -/
inductive EnvJudgement where
  | reject (detail : Nat)
  | applied
  | replay (detail : Nat)
  | lacking (n : Need)
  /-- it waits for the engines of a need -/
  | waits
  /-- steps 1 to 8 hold: its payload needs a cipher engine -/
  | verified
  | rails
  | accept (payload : Bytes)
  deriving DecidableEq, Repr

/-- Step 9 of R323. Decryption takes a cipher engine of its own grant (R322). DEDUCED, log entry 48. -/
def judgePayload (s : State) (x : Hamper) (v : Bytes) : EnvJudgement :=
  if envClear v = false ∧ x.hashed = false then (if canServe s [cipherPds] then .verified else .lacking [cipherPds])
  else match openEnvelope s v with
    | some p => .accept p
    | none => .reject 7

/-- Steps 7 to 9 of R323 (R325). -/
def judgeCounter (s : State) (x : Hamper) (v : Bytes) : EnvJudgement :=
  let c := storedCounter s v
  if envCounter v < c.1 then .replay 1
  else if envCounter v = c.1 then (if envHash v = c.2 then .applied else .replay 0)
  else if envTyp v = 1 ∧ s.board.claimEn = false then .reject 0x0C
  else judgePayload s x v

/-- Steps 1 to 9 of R323. From the first hash on the entry holds engines (R322). DEDUCED, log entry 48. -/
def judgeEnvelope (s : State) (x : Hamper) (flt : OpFault) (v : Bytes) (n : Nat) : EnvJudgement :=
  if !formatOk v n then .reject 1
  else if slice v 8 16 ≠ uid then .reject 2
  else if !typeAccepted s x v then .reject 3
  else if !authorityOk s v then .reject 4
  else if !canServe s [digestPds] then .lacking [digestPds]
  else if !canServe s [pkPds] then .lacking [pkPds]
  else if x.engines = [] then .waits
  else if !signerOk s v then .reject 5
  else if flt = .railsDisagree then .rails
  else if !signatureOk v then .reject 6
  else judgeCounter s x v

/-- DETAIL of an envelope event (R337). -/
def envEventDetail (v : Bytes) : Nat := if fromOperator v then 0x3FF else envDomain v
/-- The domain an envelope event names. -/
def envEventDomain (x : Hamper) (v : Bytes) : Nat := if fromOperator v then x.domain else envDomain v

/-- ENV_REJECTED (R324, R337). -/
def rejectEnvelope (h : Nat) (x : Hamper) (v : Bytes) (d : Nat) (s : State) : State :=
  let s := failEntry h stEnvRejected d s
  let s := if d = 3 then wrongState 20 s else s
  if 2 ≤ d ∧ d ≤ 7 then raise 20 0 (envEventDetail v) (some (envEventDomain x v)) s else s

/-- ENV_REPLAY (R325, R337). -/
def replayEnvelope (h : Nat) (x : Hamper) (v : Bytes) (d : Nat) (s : State) : State :=
  raise 20 1 (envEventDetail v) (some (envEventDomain x v)) (failEntry h stEnvReplay d s)

/-- `PARAM` of an envelope applied now or before (R321). -/
def envParam (v : Bytes) : Bytes :=
  toLe 2 (envTyp v) ++ toLe 2 (envDomain v) ++ zeros 4 ++ toLe 8 (envCounter v) ++ (envHash v).take 16

/-- Complete an ENVELOPE entry OK or ENV_ALREADY_APPLIED with its reply (R321). -/
def endEnvelope (h status : Nat) (e v reply : Bytes) (s : State) : State :=
  if ((hamperOf s h).map (·.cupPoison)).getD false then failEntry h status 0 s
  else finishEntry (writeAt h (dstOf e) reply s) h { status := status, len := reply.length, param := some (envParam v) }

/-- The authority's new counter and hash (R326), and the reply a repeat is given again (R325; DEDUCED, log entry 24). After a RE_ROOT no
authority is left to hold them. -/
def commitAuthority (v reply : Bytes) (s : State) : State :=
  if fromOperator v then
    (if s.thermos.claimed then modThermos s (fun t => { t with opCounter := envCounter v, opLastEnv := envHash v, opLastReply := reply }) else s)
  else modDom s (envDomain v) (fun r => { r with envCounter := envCounter v, lastEnv := envHash v, lastReply := reply })

/-- TIME_SEEN set in every domain that exists, then the marker cleared (R332). -/
def endTimeSet (s : State) : State :=
  if s.thermos.setPending then
    modThermos s (fun t => { t with setPending := false, domains := t.domains.map (fun c => if c.2.state = 0 then c else (c.1, { c.2 with timeSeen := true })) })
  else s

/-- VDD_AON is lost while an envelope commits: `old` before its change, `new` with its commit (R304, R309, R326). What no commit has reached
stays as it was, but for the cells programmed. DEDUCED, log entry 49. -/
def cutOff (c : PowerCut) (v : Bytes) (old new : State) : State :=
  let j : Option Journal := match c with
    | .journal => some { after := new.thermos, marked := false, detail := envEventDetail v }
    | .marked => some { after := new.thermos, marked := true, detail := envEventDetail v }
    | .none | .cells | .committed => none
  let t := if c = .committed then new.thermos else old.thermos
  powerOn { old with thermos := t, journal := j, mp := { old.mp with flash := new.mp.flash } }

/-- How steps 11 and 13 of R323 and the commit of an envelope end. -/
inductive EnvEnd where
  /-- committed, with its reply -/
  | applied (s : State) (reply : Bytes)
  | rejected (detail : Nat) (s : State)
  /-- a fault of an engine has ended the entry -/
  | struck (s : State)

/-- What a type adds to the shared rules. -/
structure EnvSpec where
  typ : Nat
  /-- step 10: the payload is whole and its fields are legal -/
  payloadOk : State → Bytes → Bool
  /-- step 11: the payload contradicts the current state; the envelope and its payload -/
  conflict : State → Bytes → Bytes → Bool
  /-- step 12: the reply's length -/
  replyLen : Bytes → Nat
  /-- the commit draws from the DRBG -/
  draws : State → Bytes → Bool
  /-- the commit changes the archive -/
  archive : Bool
  /-- step 13 and the commit: the outcome of the flash, the hamper, the envelope and its payload -/
  apply : EnvelopeRun → Nat → Hamper → Bytes → Bytes → State → EnvEnd

/-- Steps 10 to 13 of R323 and the commit. The entry waits while its destination, the DRBG or the memory port is not ready. -/
def acceptEnvelope (sp : EnvSpec) (run : EnvelopeRun) (h : Nat) (x : Hamper) (e v p : Bytes) (s : State) : State :=
  if !sp.payloadOk s p then rejectEnvelope h x v 8 s
  else if sp.conflict s v p then rejectEnvelope h x v 9 s
  else if dstLenOf e < sp.replyLen p then shortEntry h 0 (sp.replyLen p) s
  else if sp.archive && !s.mp.flashOk && decide (s.boot.mode ≠ .recovery) then rejectEnvelope h x v 0x0B s
  else if sp.archive && s.mp.flashOk && !mpReady s then requestWake 48 s
  else if sp.draws s p && !rngReady s then awaitRng s
  else if !dstReady s (dstOf e) (sp.replyLen p) then requestWake 48 s
  else match sp.apply run h x v p s with
    | .applied t reply =>
      let t := commitAuthority v reply t
      if run.cut = .none then endEnvelope h stOk e v reply (endTimeSet t) else cutOff run.cut v s t
    | .rejected d s => rejectEnvelope h x v d s
    | .struck s => s

/-- The reply of the authority's last applied envelope (R325). -/
def lastReply (s : State) (v : Bytes) : Bytes := if fromOperator v then s.thermos.opLastReply else (domOf s (envDomain v)).lastReply
/-- An envelope already applied: no effect; its reply again, octet for octet (R325). -/
def repeatEnvelope (h : Nat) (e v : Bytes) (s : State) : State :=
  let reply := lastReply s v
  if dstLenOf e < reply.length then shortEntry h 0 reply.length s
  else if !dstReady s (dstOf e) reply.length then requestWake 48 s
  else endEnvelope h stEnvApplied e v reply s

/-- A hamper with the public-key engine alone of those it holds (R268, R323). -/
def onPk (x : Hamper) : Hamper := { x with engines := x.engines.filter (24 ≤ ·) }

/-- The staged envelope is checked and takes effect. DEDUCED, log entry 48. -/
def runEnvelope (sp : EnvSpec) (run : EnvelopeRun) (h : Nat) (x : Hamper) (e v : Bytes) (s : State) : State :=
  let s := { s with board := { s.board with claimEn := run.claimEn.getD s.board.claimEn } }
  match judgeEnvelope s x run.fault v (srcLenOf e) with
  | .reject d => rejectEnvelope h x v d s
  | .replay d => replayEnvelope h x v d s
  | .applied => repeatEnvelope h e v s
  | .lacking n => unavailable h x n s
  | .waits => s
  | .verified => freeEngines (modHamper s h (fun y => { y with engines := [], hashed := true })) h
  | .rails => railsFault h (onPk x) 11 2 { status := stEngineFault, detail := 2 } s
  | .accept p => acceptEnvelope sp run h x e v p s

/-- The rules of R321 for the entry. -/
def envelopeBad (s : State) (x : Hamper) (e : Bytes) : Option Bad :=
  orBad (firstBad [
    (slotOf e != 0 || auxOf e != 0 || flags e != 0 || !allZero (paramOf e), ⟨stBadParam, 0x60, 0⟩),
    (isFragList e || isCup (srcOf e) || isWindow (srcOf e), ⟨stBadAddress, 0, 0⟩),
    (decide (srcLenOf e < 368) || decide (8192 < srcLenOf e), ⟨stBadLength, 0, 0⟩),
    (!addrOk s x false (srcOf e) (srcLenOf e), ⟨stBadAddress, 0, 0⟩)])
  (if dstLenOf e ≠ 0 ∧ addrOk s x false (dstOf e) (dstLenOf e) = false then some ⟨stBadAddress, 0, 0⟩ else none)

/-- An earlier-admitted ENVELOPE entry is still to be processed (R322). -/
def laterEnvelope (s : State) (x : Hamper) : Bool :=
  s.hampers.any (fun y => y.admitted && decide (y.admitNo < x.admitNo) && !hamperStopped y &&
    y.entries.any (fun t => t.done.isNone && opcode t.bytes == 0x50))

/-- The staged envelope of an entry under the command of one type: the command finds no entry to run while that is another listed type;
an entry whose TYPE is not listed is rejected under any of them (DEDUCED, log entry 20). -/
def runStaged (sp : EnvSpec) (run : EnvelopeRun) (h : Nat) (x : Hamper) (e v : Bytes) (s : State) : State :=
  if typeListed (envTyp v) && envTyp v != sp.typ then s else runEnvelope sp run h x e v s

/-- Stage an entry's envelope: from here on only the copy counts (R321). -/
def stageEnvelope (h : Nat) (v : Bytes) (s : State) : State := modHamper s h (fun y => { y with staged := v })

/-- An ENVELOPE entry (R321, R322): its own rules, its turn, the staging of its envelope, the checks. -/
def envelopeEntry (sp : EnvSpec) (run : EnvelopeRun) (h : Nat) (s : State) : State :=
  runEntry 0x50 h (fun x e s =>
    match (if x.staged = [] then envelopeBad s x e else none) with
    | some b => endBad h b s
    | none =>
      if laterEnvelope s x then s
      else if x.staged ≠ [] then runStaged sp run h x e x.staged s
      else withReads h x [(srcOf e, srcLenOf e)] (fun s =>
        let v := readAt s x (srcOf e) (srcLenOf e)
        runStaged sp run h x e v (stageEnvelope h v s)) s) s

/-- An envelope's type leaves its own rule on the state empty. -/
def noConflict (_ : State) (_ _ : Bytes) : Bool := false
/-- A type with no reply. -/
def noReply (_ : Bytes) : Nat := 0
def noDraw (_ : State) (_ : Bytes) : Bool := false
/-- The device key block of the root in use (R335). -/
def keyBlock (s : State) : Bytes := deviceBlock ((rootOf s).getD [])

/-- What the outcome of an archive change makes of an envelope (R323, step 13). -/
def archiveEnd (post : State → State) (reply : Bytes) : ArcResult → EnvEnd
  | .done s => .applied (post s) reply
  | .full s => .rejected 0x0A s
  | .failed s => .rejected 0x0B s
/-- Make an archive change as step 13 of R323 has it, with what the commit does besides. -/
def changeArchive (run : EnvelopeRun) (c : ArcChange) (post : State → State) (reply : Bytes) (s : State) : EnvEnd :=
  archiveEnd post reply (writeChange run.flashOk run.compactOk c s)

end Sys2Proof.Machine
end

