-- ==== Sys2Proof/Machine/Domains.lean ====
section
/-! DEFINITION. Envelopes about domains, quotas, metering and time: DOMAIN_CREATE, DOMAIN_DESTROY, QUOTA_SET, RATE_SCHEDULE,
METER_CONFIG, TIME_SET (R310, R329, R331, R332, R340, R345, R347, R350). -/

namespace Sys2Proof.Machine

/-- The slot range of a domain is legal (R295, R329). -/
def slotRangeOk (first count : Nat) : Bool := decide (1 ≤ first) && decide (first ≤ 16383) && decide (count ≤ 16383) && decide (first + count ≤ 16384)
/-- EXTEND_MASK is legal (R295). -/
def extendMaskOk (m : Nat) : Bool := m % 256 == 0
/-- An ALG field is legal (R317). -/
def algOk (a : Nat) : Bool := a == 1 || a == 2

/-- A domain as it is created (R329), with its first record open (R346). The manifest's fields are set by its own write. -/
def freshDomain (s : State) (epoch first count issueStart mask : Nat) : DomRec :=
  { state := 1, epoch := epoch, issueMark := issueStart, slotFirst := first, slotCount := count, dupShare := 16, extendMask := mask,
    weight := 16, caps := List.replicate 5 0, meters := List.replicate 5 0, lastEnv := zeros 32, startMono := s.mono,
    startOffset := s.thermos.offset }

/-- Put a created domain beside the manifest fields its archive change has written; the EPOCH floor rises with it (R474). -/
def placeDomain (d : Nat) (r : DomRec) (s : State) : State :=
  let s := modDom s d (fun o => { r with manifestDigest := o.manifestDigest, manifestCell := o.manifestCell, manifestEntries := o.manifestEntries })
  modThermos { s with issue := assocDel s.issue d, debugIssue := assocDel s.debugIssue d, live := assocDel s.live d }
    (fun t => { t with epochFloor := max t.epochFloor r.epoch })

/-- The empty manifest of a new domain (R329). -/
def emptyManifest (d epoch : Nat) : ArcChange := { domain := d, debug := false, epoch := epoch, entries := [], blobs := [] }

/-- Domains whose entry is not FREE. -/
def boundDomains (s : State) : List (Nat × DomRec) := s.thermos.domains.filter (fun c => c.2.state != 0)
/-- The shares of all domains but one (R331). -/
def sharesBut (s : State) (d : Nat) : Nat := (((boundDomains s).filter (fun c => c.1 != d)).map (fun c => c.2.dupShare)).sum
/-- Two slot ranges meet. -/
def rangesMeet (a n b m : Nat) : Bool := decide (0 < n) && decide (0 < m) && decide (a < b + m) && decide (b < a + n)

/-- Step 10 of R323 for DOMAIN_CREATE (R329). -/
def createPayloadOk (_ : State) (p : Bytes) : Bool :=
  p.length == 128 && decide (1 ≤ leAt p 0 2) && decide (leAt p 0 2 ≤ 1023) && slotRangeOk (leAt p 2 2) (leAt p 4 2) && algOk (byteAt p 6)
    && decide (byteAt p 7 < 2) && decide (1 ≤ leAt p 0x10 8) && extendMaskOk (leAt p 0x18 4) && allZero (slice p 0x1C 4)
/-- Step 11 for DOMAIN_CREATE (R329). -/
def createConflict (s : State) (_ p : Bytes) : Bool :=
  domExists s (leAt p 0 2) || (boundDomains s).any (fun c => rangesMeet (leAt p 2 2) (leAt p 4 2) c.2.slotFirst c.2.slotCount)
    || decide (16384 < sharesBut s (leAt p 0 2) + 16)
/-- DOMAIN_CREATE commits (R329). -/
def createApply (run : EnvelopeRun) (_ : Nat) (_ : Hamper) (_ p : Bytes) (s : State) : EnvEnd :=
  let d := leAt p 0 2
  let epoch := ((domOf s d).epoch + 1) % 2 ^ 32
  let r := { freshDomain s epoch (leAt p 2 2) (leAt p 4 2) (leAt p 0x10 8) (leAt p 0x18 4) with
    anchorAlg := byteAt p 6, nondecTime := bit (byteAt p 7) 0, envCounter := leAt p 8 8, anchor := sha256 (slice p 0x20 96) }
  changeArchive run (emptyManifest d epoch) (placeDomain d r) [] s
/-- DOMAIN_CREATE (R329). -/
def createSpec : EnvSpec :=
  { typ := 0x03, payloadOk := createPayloadOk, conflict := createConflict, replyLen := noReply, draws := noDraw, archive := true,
    apply := createApply }
/-- DOMAIN_CREATE (R329). -/
def execDomainCreate (h : Nat) (run : EnvelopeRun) (s : State) : Host.Outcome State Fault Refusal := .next (envelopeEntry createSpec run h s)

/-- A domain-table entry as DOMAIN_DESTROY and a claim set it FREE (R310): EPOCH is incremented, or set under R474. -/
def freedDomain (r : DomRec) (epoch : Nat) : DomRec :=
  if r.failed then { epoch := epoch }
  else { r with state := 0, suspend := 0, epoch := epoch, manifestDigest := [], manifestEntries := 0 }
/-- Whatever a destroyed domain leaves outside its entry goes: its keys, manifests, counters, schedule, duplicate records
(R194, R310, R357). -/
def clearDomain (d : Nat) (s : State) : State :=
  let s := modThermos s (fun t => { t with pool := t.pool.filter (fun e => e.domain != d) })
  let s := zeroSlots ((s.keys.filter (fun c => c.2.domain == d)).flatMap (fun c => (List.range c.2.span).map (c.1 + ·))) s
  { s with keys := s.keys.filter (fun c => c.2.domain != d), loads := s.loads.filter (fun c => c.1 != d),
           manifests := s.manifests.filter (fun k => k.domain != d), debugManifests := s.debugManifests.filter (fun k => k.domain != d),
           dups := s.dups.filter (fun r => r.domain != d), live := assocDel s.live d, issue := assocDel s.issue d,
           debugIssue := assocDel s.debugIssue d }
/-- The rings of a destroyed domain meet DOMAIN_DESTROYED (R172). -/
def faultDomainRings (d : Nat) (s : State) : State :=
  (s.rings.filter (fun c => c.2.domain == d && c.2.state != .unbound)).foldl (fun s c => faultRing c.1 5 s) s

/-- Step 10 for DOMAIN_DESTROY (R329). -/
def destroyPayloadOk (_ : State) (p : Bytes) : Bool :=
  p.length == 8 && decide (1 ≤ leAt p 0 2) && decide (leAt p 0 2 ≤ 1023) && allZero (p.drop 2)
/-- Step 11 for DOMAIN_DESTROY (R329, R350). -/
def destroyConflict (s : State) (_ p : Bytes) : Bool := !domExists s (leAt p 0 2) || (endRecord (leAt p 0 2) s).isNone
/-- DOMAIN_DESTROY commits (R310, R350, R474). -/
def destroyApply (_ : EnvelopeRun) (_ : Nat) (_ : Hamper) (_ p : Bytes) (s : State) : EnvEnd :=
  let d := leAt p 0 2
  let r := domOf s d
  let epoch := (if r.failed then s.thermos.epochFloor + 1 else r.epoch + 1) % 2 ^ 32
  let s := (endRecord d s).getD s
  let s := clearDomain d (modDom s d (fun r => freedDomain r epoch))
  .applied (faultDomainRings d (modThermos s (fun t => { t with epochFloor := max t.epochFloor epoch }))) []
/-- DOMAIN_DESTROY (R310, R329). -/
def destroySpec : EnvSpec :=
  { typ := 0x04, payloadOk := destroyPayloadOk, conflict := destroyConflict, replyLen := noReply, draws := noDraw, archive := false,
    apply := destroyApply }
/-- DOMAIN_DESTROY (R310, R329). -/
def execDomainDestroy (h : Nat) (run : EnvelopeRun) (s : State) : Host.Outcome State Fault Refusal := .next (envelopeEntry destroySpec run h s)

/-- Step 10 for QUOTA_SET (R331). -/
def quotaPayloadOk (_ : State) (p : Bytes) : Bool :=
  p.length == 32 && decide (leAt p 0 2 ≤ 1023) && decide (1 ≤ byteAt p 2) && byteAt p 3 == 0 && decide (leAt p 4 2 ≤ 16384)
    && allZero (slice p 6 2) && allZero (slice p 0x1C 4)
/-- Step 11 for QUOTA_SET (R331). -/
def quotaConflict (s : State) (_ p : Bytes) : Bool := !domExists s (leAt p 0 2) || decide (16384 < sharesBut s (leAt p 0 2) + leAt p 4 2)
/-- Free a domain's oldest CLOSED duplicate records until the count fits its share (R331). -/
def fitShare (d share : Nat) (l : List DupRec) : List DupRec :=
  let mine := l.filter (fun r => r.domain == d)
  let gone := ((mine.filter (·.closed)).take (mine.length - share)).map (·.order)
  l.filter (fun r => !gone.contains r.order)
/-- QUOTA_SET commits (R331). -/
def quotaApply (_ : EnvelopeRun) (_ : Nat) (_ : Hamper) (_ p : Bytes) (s : State) : EnvEnd :=
  let d := leAt p 0 2
  let s := modDom s d (fun r => { r with
    weight := byteAt p 2, dupShare := leAt p 4 2, caps := (List.range 5).map (fun i => leAt p (8 + 4 * i) 4) })
  .applied { s with dups := fitShare d (leAt p 4 2) s.dups } []
/-- QUOTA_SET (R331). -/
def quotaSpec : EnvSpec :=
  { typ := 0x07, payloadOk := quotaPayloadOk, conflict := quotaConflict, replyLen := noReply, draws := noDraw, archive := false,
    apply := quotaApply }
/-- QUOTA_SET (R331). -/
def execQuotaSet (h : Nat) (run : EnvelopeRun) (s : State) : Host.Outcome State Fault Refusal := .next (envelopeEntry quotaSpec run h s)

/-- WHEN of an immediate change (R332). -/
def whenNow : Nat := 2 ^ 64 - 1
/-- CLASS and WHEN of the entries of a RATE_SCHEDULE (R332). -/
def rateEntries (p : Bytes) : List (Nat × Nat) := (List.range (byteAt p 2)).map (fun i => (byteAt p (8 + 16 * i), leAt p (16 + 16 * i) 8))
/-- The wall times of a schedule rise strictly, and only entry 0 carries 0 or all-ones (R347). -/
def risingWhen : List Nat → Bool
  | [] => true
  | [_] => true
  | a :: b :: t => (a == 0 || a == whenNow || decide (a < b)) && b != 0 && b != whenNow && risingWhen (b :: t)
/-- Step 10 for RATE_SCHEDULE (R332, R347). -/
def ratePayloadOk (_ : State) (p : Bytes) : Bool :=
  let n := byteAt p 2
  p.length == 136 && decide (leAt p 0 2 ≤ 1023) && decide (1 ≤ n) && decide (n ≤ 8) && allZero (slice p 3 5)
    && (List.range n).all (fun i => decide (byteAt p (8 + 16 * i) < 16) && allZero (slice p (9 + 16 * i) 7))
    && allZero (p.drop (8 + 16 * n)) && risingWhen ((rateEntries p).map (·.2))
/-- Entries of a schedule that wait for a boundary. -/
def pendingRates (p : Bytes) : List (Nat × Nat) := (rateEntries p).filter (fun c => c.2 != whenNow)
/-- The schedule's first entry acts at once. -/
def immediateRate (p : Bytes) : Option Nat := ((rateEntries p).find? (fun c => c.2 == whenNow)).map (·.1)
/-- Step 11 for RATE_SCHEDULE (R347): the domain's own pending entries leave the pool first. -/
def rateConflict (s : State) (_ p : Bytes) : Bool :=
  let d := leAt p 0 2
  !domExists s d || decide (128 < (s.thermos.pool.filter (fun e => e.domain != d)).length + (pendingRates p).length)
    || ((immediateRate p).isSome && ((domOf s d).held || decide (256 ≤ s.thermos.backlog.length)))
/-- RATE_SCHEDULE commits (R347). -/
def rateApply (_ : EnvelopeRun) (_ : Nat) (_ : Hamper) (_ p : Bytes) (s : State) : EnvEnd :=
  let d := leAt p 0 2
  let new := (pendingRates p).zipIdx.map (fun c =>
    ({ domain := d, cls := c.1.1, order := c.2, epoch := (domOf s d).epoch, whenTicks := c.1.2 } : RateEntry))
  let s := modThermos s (fun t => { t with pool := t.pool.filter (fun e => e.domain != d) ++ new })
  .applied (match immediateRate p with | some c => splitRecord d c s | none => s) []
/-- RATE_SCHEDULE (R347). -/
def rateSpec : EnvSpec :=
  { typ := 0x08, payloadOk := ratePayloadOk, conflict := rateConflict, replyLen := noReply, draws := noDraw, archive := false,
    apply := rateApply }
/-- RATE_SCHEDULE (R347). -/
def execRateSchedule (h : Nat) (run : EnvelopeRun) (s : State) : Host.Outcome State Fault Refusal := .next (envelopeEntry rateSpec run h s)

/-- Step 10 for METER_CONFIG (R332). -/
def meterPayloadOk (_ : State) (p : Bytes) : Bool :=
  p.length == 16 && decide (60 ≤ leAt p 0 4) && decide (leAt p 0 4 ≤ 604800) && allZero (p.drop 4)
/-- METER_CONFIG commits: the length is pending until the next boundary (R345). -/
def meterApply (_ : EnvelopeRun) (_ : Nat) (_ : Hamper) (_ p : Bytes) (s : State) : EnvEnd :=
  .applied (modThermos s (fun t => { t with nextIntervalS := leAt p 0 4 })) []
/-- METER_CONFIG (R345). -/
def meterSpec : EnvSpec :=
  { typ := 0x09, payloadOk := meterPayloadOk, conflict := noConflict, replyLen := noReply, draws := noDraw, archive := false,
    apply := meterApply }
/-- METER_CONFIG (R345). -/
def execMeterConfig (h : Nat) (run : EnvelopeRun) (s : State) : Host.Outcome State Fault Refusal := .next (envelopeEntry meterSpec run h s)

/-- OFFSET lies in the range of R339. -/
def offsetOk (o : Int) : Bool := decide (-(2 ^ 47 : Int) ≤ o) && decide (o < (2 ^ 47 : Int))
/-- OFFSET that a WALL sets (R340). -/
def offsetFor (s : State) (p : Bytes) : Int := (leAt p 0 8 : Int) - (s.mono : Int)
/-- Step 10 for TIME_SET (R332, R340). -/
def timePayloadOk (s : State) (p : Bytes) : Bool := p.length == 16 && allZero (p.drop 8) && offsetOk (offsetFor s p)
/-- TIME_SET commits with its pending marker; the TIME_SEEN pass follows (R332, R340). -/
def timeApply (_ : EnvelopeRun) (_ : Nat) (_ : Hamper) (_ p : Bytes) (s : State) : EnvEnd :=
  let s := modThermos s (fun t => { t with offset := offsetFor s p, wallSet := true, lastStepMono := some s.mono, setPending := true })
  .applied (raise 19 4 0xFFFF none s) []
/-- TIME_SET (R340). -/
def timeSpec : EnvSpec :=
  { typ := 0x0A, payloadOk := timePayloadOk, conflict := noConflict, replyLen := noReply, draws := noDraw, archive := false,
    apply := timeApply }
/-- TIME_SET (R340). -/
def execTimeSet (h : Nat) (run : EnvelopeRun) (s : State) : Host.Outcome State Fault Refusal := .next (envelopeEntry timeSpec run h s)

end Sys2Proof.Machine
end

