-- ==== Sys2Proof/Machine/Authority.lean ====
section
/-! DEFINITION. Envelopes about authorities and the root: CLAIM, OPERATOR_ROTATE, DOMAIN_OWNER_ROTATE, DEBUG_UNLOCK, RECOVERY_AUTH,
RE_ROOT (R123, R127, R128, R133, R134, R137, R138, R328, R335). -/

namespace Sys2Proof.Machine

/-- A release policy field of 2 octets is legal (R308, R330). -/
def releaseFieldOk (v : Nat) : Bool := v / 0x400 == 0
/-- DELAY, HOLD and IN_RECOVERY of a policy field (R308). -/
def releaseField (v : Nat) : Nat × Bool × Bool := (v % 256, bit v 8, bit v 9)

/-- The completion of a hamper's entry will begin a full reset (R123). -/
def startReset (h : Nat) (on : Bool) (s : State) : State :=
  if on then { s with boot := { s.boot with resetPending := true, resetBy := some h } } else s

/-- A new DRS from the DRBG, under a fresh mask (R127, R137, R308). -/
def newRoot (s : State) : State :=
  let r := drawn s 64
  modThermos (afterDraw s 64) (fun t => { t with
    drs := r.take 32, drsMask := r.drop 32, drsOk := true, drsGeneration := t.drsGeneration + 1, reRooted := true, valid := true })
/-- Commits that end quarantine let the tamper arming be changed again (R430). -/
def unlockTamper (t : Thermos) : Thermos := { t with quarantine := false, tamperArm := clearBit t.tamperArm 8 }

/-- Step 10 for CLAIM (R328). -/
def claimPayloadOk (_ : State) (p : Bytes) : Bool :=
  p.length == 48 && slotRangeOk (leAt p 0 2) (leAt p 2 2) && (List.range 4).all (fun i => releaseFieldOk (leAt p (4 + 2 * i) 2))
    && allZero (slice p 0x0C 4) && decide (1 ≤ leAt p 0x10 8) && extendMaskOk (leAt p 0x18 4) && allZero (p.drop 0x1C)
/-- Every domain-table entry that is not FREE is set FREE, its EPOCH one past the floor; after the loss of the table that is every entry
(R127, R474; DEDUCED, log entry 89). -/
def freeDomains (s : State) : State :=
  let e := s.thermos.epochFloor + 1
  if s.thermos.tableLost then modThermos s (fun t => { t with domains := [], epochBase := e, epochFloor := e, tableLost := false }) else
  let busy := fun (r : DomRec) => r.state != 0 || r.failed
  if s.thermos.domains.any (fun c => busy c.2) then
    modThermos s (fun t => { t with epochFloor := e, domains := t.domains.map (fun c => if busy c.2 then (c.1, freedDomain { c.2 with failed := true } e) else c) })
  else s
/-- What a new claim or root does not inherit: meter records, schedules, keys, counters, duplicate records (R127, R137). -/
def forgetDomains (s : State) : State :=
  let s := modThermos s (fun t => { t with backlog := [], pool := [] })
  { emptyStore s with loads := [], manifests := [], debugManifests := [], live := [], issue := [], debugIssue := [], dups := [] }
/-- Every entry a ring owns completes ABORTED, the admitted ones too, and the ring is UNBOUND (R127; DEDUCED, log entry 91). -/
def abortRing (r : Nat) (s : State) : State :=
  let s := shutdownRing r s
  let s := (s.hampers.filter (fun x => x.ring == r)).foldl (fun s x =>
    closeHamper s { x with entries := x.entries.map (fun e => { e with done := some { status := stAborted, detail := 1 } }), posted := [] }
      { status := stAborted, detail := 1 }) s
  unbindRing s r
/-- The bootstrap view of a port ends: its ring is shut down, its granules leave it and read zero (R127, R363). -/
def endBootstrap (p : Nat) (s : State) : State :=
  if (portOf s p).bootstrap then
    let s := modPort (abortRing p s) p (fun x => { x with bootstrap := false, grant := {} })
    wipeRange (0x00400000 + p * 0x00040000) 0x00040000 s
  else s
/-- The ports after a claim: the arrival port's view becomes its grant, the others' views end (R127). -/
def claimPorts (p : Nat) (s : State) : State :=
  let s := ([0, 1, 2, 3].filter (· != p)).foldl (fun s q => endBootstrap q s) s
  modPort s p (fun x => { x with bootstrap := false })
/-- The Thermos after a claim but for its domains (R127, R328). -/
def claimThermos (p : Nat) (v pl : Bytes) (t : Thermos) : Thermos :=
  { unlockTamper t with
    valid := true, recoveryOk := true, claimed := true, opPort := p, opAlg := envAlg v, opAnchor := some (sha256 (envSigner v)), sessions := 0,
    release := (List.range 4).map (fun i => releaseField (leAt pl (4 + 2 * i) 2)) }
/-- Domain 0 of a claim (R328, R329). -/
def claimDomain (s : State) (p : Bytes) : DomRec :=
  freshDomain s (((domOf (freeDomains s) 0).epoch + 1) % 2 ^ 32) (leAt p 0 2) (leAt p 2 2) (leAt p 0x10 8) (leAt p 0x18 4)
/-- The Thermos changes of a claim in one commit, once the empty manifest of domain 0 stands (R127, R326): the root where there is none,
the table, the recovery record, domain 0 with the manifest `m` names. -/
def claimRecords (x : Hamper) (v p : Bytes) (r m : DomRec) (s : State) : State :=
  let s := forgetDomains (freeDomains (if drsPresent s then s else newRoot s))
  let s := modDom s 0 (fun o => { o with manifestDigest := m.manifestDigest, manifestCell := m.manifestCell, manifestEntries := m.manifestEntries })
  modThermos (placeDomain 0 r s) (claimThermos x.port v p)
/-- The rest of a claim's commit. -/
def claimCommit (h : Nat) (x : Hamper) (v p : Bytes) (r m : DomRec) (s : State) : State :=
  let s := claimRecords x v p r m s
  claimPorts x.port (if s.boot.mode = .recovery then startReset h true s else s)
/-- CLAIM commits with the archive change that holds the manifest of domain 0 (R127, R328). -/
def claimEnd (h : Nat) (x : Hamper) (v p : Bytes) (r : DomRec) : EnvEnd → EnvEnd
  | .applied t _ => let s := claimCommit h x v p r (domOf t 0) t; .applied s (keyBlock s)
  | .rejected d s => .rejected d s
  | .struck s => .struck s
/-- CLAIM commits (R127, R328). In RECOVERY the flash is not the device's: the manifest of domain 0 is written at the next
BOOT that has it (DEDUCED, log entry 21). The reply names the root the commit leaves (R335). -/
def claimApply (run : EnvelopeRun) (h : Nat) (x : Hamper) (v p : Bytes) (s : State) : EnvEnd :=
  let r := claimDomain s p
  let m := emptyManifest 0 r.epoch
  if s.boot.mode = .recovery then
    let s := claimCommit h x v p r { manifestDigest := sha256 (manBytes 0 r.epoch []), manifestCell := 0xFFFFFFFF } s
    .applied s (keyBlock s)
  else
    claimEnd h x v p r (changeArchive run m id [] s)
/-- CLAIM (R127, R328). -/
def claimSpec : EnvSpec :=
  { typ := 0x01, payloadOk := claimPayloadOk, conflict := noConflict, replyLen := fun _ => 400, draws := fun s _ => !drsPresent s,
    archive := true, apply := claimApply }
/-- CLAIM (R127). -/
def execClaim (h : Nat) (run : EnvelopeRun) (s : State) : Host.Outcome State Fault Refusal := .next (envelopeEntry claimSpec run h s)

/-- Step 10 for the two rotations (R328). -/
def rotatePayloadOk (_ : State) (p : Bytes) : Bool := p.length == 104 && algOk (byteAt p 0) && allZero (slice p 1 7)
/-- NEW_PUB's anchor (R319). -/
def newAnchor (p : Bytes) : Bytes := sha256 (slice p 8 96)
/-- OPERATOR_ROTATE commits (R328). -/
def operatorApply (_ : EnvelopeRun) (_ : Nat) (_ : Hamper) (_ p : Bytes) (s : State) : EnvEnd :=
  .applied (modThermos s (fun t => { t with opAlg := byteAt p 0, opAnchor := some (newAnchor p) })) (keyBlock s)
/-- OPERATOR_ROTATE (R328). -/
def operatorSpec : EnvSpec :=
  { typ := 0x02, payloadOk := rotatePayloadOk, conflict := noConflict, replyLen := fun _ => 400, draws := noDraw, archive := false,
    apply := operatorApply }
/-- OPERATOR_ROTATE (R328). -/
def execOperatorRotate (h : Nat) (run : EnvelopeRun) (s : State) : Host.Outcome State Fault Refusal := .next (envelopeEntry operatorSpec run h s)

/-- DOMAIN_OWNER_ROTATE commits (R328). -/
def ownerApply (_ : EnvelopeRun) (_ : Nat) (_ : Hamper) (v p : Bytes) (s : State) : EnvEnd :=
  .applied (modDom s (envDomain v) (fun r => { r with anchorAlg := byteAt p 0, anchor := newAnchor p })) []
/-- DOMAIN_OWNER_ROTATE (R328): a conflict while cause 1 of R296 is in force. -/
def ownerSpec : EnvSpec :=
  { typ := 0x05, payloadOk := rotatePayloadOk, conflict := fun s v _ => (domOf s (envDomain v)).failed, replyLen := noReply, draws := noDraw,
    archive := false, apply := ownerApply }
/-- DOMAIN_OWNER_ROTATE (R328). -/
def execDomainOwnerRotate (h : Nat) (run : EnvelopeRun) (s : State) : Host.Outcome State Fault Refusal := .next (envelopeEntry ownerSpec run h s)

/-- Step 10 for DEBUG_UNLOCK (R328). -/
def unlockPayloadOk (_ : State) (p : Bytes) : Bool := p.length == 8 && decide (byteAt p 0 < 2) && allZero (p.drop 1)
/-- DEBUG_UNLOCK commits (R123, R128). -/
def unlockApply (_ : EnvelopeRun) (h : Nat) (_ : Hamper) (_ p : Bytes) (s : State) : EnvEnd :=
  .applied (startReset h (byteAt p 0 == 1) (modThermos s (fun t => { t with debugPending := true }))) []
/-- DEBUG_UNLOCK (R128). -/
def unlockSpec : EnvSpec :=
  { typ := 0x12, payloadOk := unlockPayloadOk, conflict := noConflict, replyLen := noReply, draws := noDraw, archive := false,
    apply := unlockApply }
/-- DEBUG_UNLOCK (R128). -/
def execDebugUnlock (h : Nat) (run : EnvelopeRun) (s : State) : Host.Outcome State Fault Refusal := .next (envelopeEntry unlockSpec run h s)

/-- RECOVERY_AUTH commits (R123, R133, R134): the session is authorised; the flag clears only while a valid DRS is present, and
a flag it clears starts a full reset. -/
def authApply (_ : EnvelopeRun) (h : Nat) (_ : Hamper) (_ _ : Bytes) (s : State) : EnvEnd :=
  let clears := s.thermos.quarantine && drsPresent s
  let s := startReset h clears { s with boot := { s.boot with recoveryAuth := true } }
  .applied (if clears then modThermos s (fun t => { t with quarantine := false }) else s) []
/-- RECOVERY_AUTH (R133). -/
def authSpec : EnvSpec :=
  { typ := 0x13, payloadOk := fun _ p => p == [], conflict := noConflict, replyLen := noReply, draws := noDraw, archive := false,
    apply := authApply }
/-- RECOVERY_AUTH (R133). -/
def execRecoveryAuth (h : Nat) (run : EnvelopeRun) (s : State) : Host.Outcome State Fault Refusal := .next (envelopeEntry authSpec run h s)

/-- RE_ROOT asks for scrapping (R328). -/
def scraps (p : Bytes) : Bool := byteAt p 0 == 0xA5
/-- Step 10 for RE_ROOT (R328). -/
def rootPayloadOk (_ : State) (p : Bytes) : Bool := p.length == 8 && (byteAt p 0 == 0 || scraps p) && allZero (p.drop 1)
/-- The claim record and the operator anchor removed (R137). -/
def dropClaim (t : Thermos) : Thermos :=
  { t with claimed := false, opPort := 0, opAlg := 0, opAnchor := none, opCounter := 0, opLastEnv := [], opLastReply := [],
           release := releaseDefault }
/-- A new root, an empty domain table (R137, R474). -/
def reRooted (s : State) : State := modThermos (forgetDomains (freeDomains (newRoot s))) (fun t => unlockTamper (dropClaim t))
/-- The device scrapped: DRS, domain table and recovery record zeroed, then the fuse blown (R138). -/
def scrapped (s : State) : State :=
  let s := modThermos (forgetDomains s) (fun t => { dropClaim t with
    drs := [], drsMask := [], drsOk := false, domains := [], tableLost := true, quarantine := false, debugPending := false, reRooted := false, sessions := 0, qCause := 0, epochFloor := 0,
    tamperArm := clearBit t.tamperArm 8 })
  { s with board := { s.board with scrapFuse := true } }
/-- RE_ROOT commits (R123, R137, R138). -/
def rootApply (_ : EnvelopeRun) (h : Nat) (_ : Hamper) (_ p : Bytes) (s : State) : EnvEnd :=
  let s := startReset h true s
  if scraps p then .applied (scrapped s) [] else let s := reRooted s; .applied s (keyBlock s)
/-- RE_ROOT (R137). -/
def rootSpec : EnvSpec :=
  { typ := 0x14, payloadOk := rootPayloadOk, conflict := noConflict, replyLen := fun p => if scraps p then 0 else 400,
    draws := fun _ p => !scraps p, archive := false, apply := rootApply }
/-- RE_ROOT (R137). -/
def execReRoot (h : Nat) (run : EnvelopeRun) (s : State) : Host.Outcome State Fault Refusal := .next (envelopeEntry rootSpec run h s)

end Sys2Proof.Machine
end

