-- ==== Sys2Proof/Machine/Grants.lean ====
section
/-! DEFINITION. PORT_GRANT and FLASH_LAYOUT: the grant set and the layout, their blobs, and their effects at once (R172, R330, R361,
R363, R364, R386 to R389). -/

namespace Sys2Proof.Machine

/-- The set bits of a map, in rising order. -/
def mapBits (b : Bytes) : List Nat := let v := leNat b; (List.range (8 * b.length)).filter (bit v)
/-- A map with the listed bits set. -/
def bitsMap (n : Nat) (l : List Nat) : Bytes :=
  (List.range n).map (fun i => BitVec.ofNat 8 (((List.range 8).filter (fun j => l.contains (8 * i + j))).map (2 ^ ·)).sum)

/-- The grant a PORT_GRANT payload describes (R330). -/
def grantOf (p : Bytes) : Grant :=
  { xip := bit (byteAt p 1) 0, rings := if bit (byteAt p 1) 2 then some (leAt p 4 2, leAt p 6 2) else none, extendMask := leAt p 8 4,
    winRd := leAt p 0x0C 4, winWr := leAt p 0x10 4, pantry := mapBits (slice p 0x20 24), larder := mapBits (slice p 0x40 128),
    domains := mapBits (slice p 0xC0 128) }
/-- The payload that describes a grant: what the grant set holds for a port that no PORT_GRANT has named yet (DEDUCED, log entry 22). -/
def grantBytes (q : Nat) (g : Grant) : Bytes :=
  let r := g.rings.getD (0, 0)
  toLe 1 q ++ toLe 1 (b2n g.xip + 4 * b2n g.rings.isSome) ++ zeros 2 ++ toLe 2 r.1 ++ toLe 2 r.2 ++ toLe 4 g.extendMask ++ toLe 4 g.winRd
    ++ toLe 4 g.winWr ++ zeros 12 ++ bitsMap 24 g.pantry ++ zeros 8 ++ bitsMap 128 g.larder ++ bitsMap 128 g.domains

/-- Step 10 for PORT_GRANT (R330). -/
def grantPayloadOk (_ : State) (p : Bytes) : Bool :=
  let f := byteAt p 1
  p.length == 320 && decide (byteAt p 0 < 4) && decide (f < 8) && releaseFieldOk (leAt p 2 2) && extendMaskOk (leAt p 8 4)
    && (if bit f 2 then decide (leAt p 4 2 ≤ leAt p 6 2) else allZero (slice p 4 4)) && allZero (slice p 0x14 12) && allZero (slice p 0x38 8)

/-- Two ring ranges meet. -/
def ringsMeet (a b : Option (Nat × Nat)) : Bool :=
  match a, b with
  | some x, some y => decide (x.1 ≤ y.2) && decide (y.1 ≤ x.2)
  | _, _ => false
/-- Step 11 for PORT_GRANT (R330, R364). -/
def grantConflict (s : State) (_ p : Bytes) : Bool :=
  let n := byteAt p 0
  let g := grantOf p
  let others := ([0, 1, 2, 3].filter (· != n)).map (fun q => (portOf s q).grant)
  others.any (fun o => ringsMeet g.rings o.rings || g.pantry.any (fun i => o.pantry.contains i) || g.larder.any (fun i => o.larder.contains i))
    || (bit (byteAt p 1) 1 && !isOperator s n && g.rings.isNone) || g.larder.any (fun i => decide (larderGranules s ≤ i))

/-- A device-only blob of domain 0: the grant set or the layout (R330, R389). -/
def deviceKey (typ span param : Nat) (value : Bytes) : Key :=
  { typ := typ, span := span, cls := 0, debug := false, usage := 0, domain := 0, size := 0, sealRef := 0, sealMeas := 0, param := param, value := value }
/-- Handles of the grant set and of the layout (R330, R389). -/
abbrev grantHandle : Nat := 0xFFFE
abbrev layoutHandle : Nat := 0xFFFD

/-- A device-only blob of domain 0 as the archive holds it: none when its manifest lists none. -/
def readDevice (s : State) (h : Nat) : Except LoadFail (Option Key) :=
  match manifestFor s 0 with
  | .error f => .error f
  | .ok m =>
    if (entryAt (manEntries m) h).isNone then .ok none
    else match loadChain s 0 4 h with
      | .ok ks => .ok (ks.head?.map (·.2))
      | .error f => .error f

/-- The four payloads of the grant set as they stand (R330). DEDUCED, log entry 22. -/
def grantSetBytes (s : State) : Except LoadFail Bytes :=
  (readDevice s grantHandle).map (fun k =>
    match k with
    | some k => fitTo 1280 k.value
    | none => [0, 1, 2, 3].flatMap (fun q => grantBytes q (portOf s q).grant))

/-- Write one device-only blob of domain 0 with its manifest (R304). -/
def storeDevice (run : EnvelopeRun) (h : Nat) (k : Key) (form : Nat) (post : State → State) (s : State) : EnvEnd :=
  let iv := drawn s 12
  let hd := overlay (blobHeader 0 h 0xFFFF (domOf s 0).epoch k iv) 7 (toLe 1 form)
  match workManifest s 0, wrapBlob s 0 h 0xFFFF k.typ k.span hd k.value iv with
  | .ok es, .ok b =>
    changeArchive run { domain := 0, debug := false, epoch := (domOf s 0).epoch, entries := putManEntry b.2 es, blobs := [(h, b.1)] } post []
      (afterDraw s 12)
  | .error f, _ => .rejected 0x0B (loadEvent 0 f s)
  | _, .error f => .rejected 0x0B (loadEvent 0 f s)

/-- Granules of one list that are not in another. -/
def lost (old new : List Nat) : List Nat := old.filter (fun g => !new.contains g)
/-- Banks that come to hold an allocation wake; a FORCE_OFF bank of a granted granule returns to AUTO (R361, R438). -/
def settleBanks (before : State) (g : Grant) (s : State) : State :=
  (List.range 8).foldl (fun s b =>
    let named := g.pantry.any (fun i => i / 32 + 2 == b)
    let s := if named ∧ (pdOf s (36 + b)).policy = .forceOff then modPd s (36 + b) (fun d => { d with policy := .auto }) else s
    if bankAllocated s b && !bankAllocated before b && decide ((pdOf s (36 + b)).st = .off) then requestWake (36 + b) s else s) s
/-- An envelope withdraws granules under a ring's memory (R172). -/
def losesMemory (p : Nat) (before s : State) (g : Ring) : Bool :=
  (granuleStarts g.base (64 * 2 ^ g.sizeLog2)).any (fun a => arenaAt before p a && !arenaAt s p a)
/-- Rings of a port after its grant has changed: those outside its range are shut down, those whose granules are withdrawn meet
GRANT_LOST (R172, R330): a ring that a DRAIN holds already drains on. -/
def settleRings (p : Nat) (before s : State) : State :=
  (s.rings.filter (fun c => c.2.port == p && c.2.state != .unbound)).foldl (fun s c =>
    let s := if losesMemory p before s c.2 then faultRing c.1 4 s else s
    if !ringGranted s p c.1 && decide (c.2.state ≠ .draining) then shutdownRing c.1 s else s) s
/-- Granules that leave a grant read zero from then on (R363). -/
def wipeLost (old new : Grant) (s : State) : State :=
  let s := (lost old.pantry new.pantry).foldl (fun s g => wipeRange (0x00400000 + g * 0x10000) 0x10000 s) s
  (lost old.larder new.larder).foldl (fun s g => wipeRange (0x10000000 + g * 0x10000) 0x10000 s) s
/-- The effects of a PORT_GRANT beside its blob (R326, R330). -/
def grantEffects (p : Bytes) (s : State) : State :=
  let n := byteAt p 0
  let g := grantOf p
  let old := (portOf s n).grant
  let s' := modThermos (modPort s n (fun x => { x with grant := g })) (fun t => { t with
    release := t.release.set n (releaseField (leAt p 2 2)), opPort := if bit (byteAt p 1) 1 then n else t.opPort })
  wipeLost old g (settleRings n s (settleBanks s g s'))
/-- PORT_GRANT commits (R330). -/
def grantApply (run : EnvelopeRun) (_ : Nat) (_ : Hamper) (_ p : Bytes) (s : State) : EnvEnd :=
  match grantSetBytes s with
  | .error f => .rejected 0x0B (loadEvent 0 f s)
  | .ok b => storeDevice run grantHandle (deviceKey 0x3F 20 0 (overlay b (320 * byteAt p 0) p)) (formOf 20 0 false) (grantEffects p) s
/-- PORT_GRANT (R330). -/
def grantSpec : EnvSpec :=
  { typ := 0x06, payloadOk := grantPayloadOk, conflict := grantConflict, replyLen := noReply, draws := fun _ _ => true, archive := true,
    apply := grantApply }
/-- PORT_GRANT (R330). -/
def execPortGrant (h : Nat) (run : EnvelopeRun) (s : State) : Host.Outcome State Fault Refusal := .next (envelopeEntry grantSpec run h s)

/-- The regions of a layout (R386). DEDUCED, log entry 23. -/
def layoutOf (p : Bytes) : List Region :=
  (List.range (byteAt p 5)).map (fun j =>
    let o := 16 + 16 * j
    { kind := byteAt p o, index := byteAt p (o + 1), attr := byteAt p (o + 2), base := leAt p (o + 4) 4, length := leAt p (o + 8) 4 })
/-- One region breaks no field rule of R386. -/
def regionOk (r : Region) : Bool :=
  (match r.kind with
   | 1 => decide (r.index < 32) && decide (r.attr < 2)
   | 2 => r.index == 0 && r.attr == 0
   | 3 => decide (r.index < 8) && decide (r.attr < 2)
   | _ => false)
  && r.base % 4096 == 0 && r.length % 4096 == 0 && decide (4096 ≤ r.length)
/-- Two regions share a byte. -/
def regionsMeet (a b : Region) : Bool := decide (a.base < b.base + b.length) && decide (b.base < a.base + a.length)
/-- No two regions of a list stand in a relation. -/
def noPair (f : Region → Region → Bool) : List Region → Bool
  | [] => true
  | a :: t => t.all (fun b => !f a b) && noPair f t
/-- The octets that R386 reserves are zero. -/
def layoutReserved (p : Bytes) : Bool :=
  allZero (slice p 6 10) && (List.range (byteAt p 5)).all (fun j => byteAt p (19 + 16 * j) == 0 && allZero (slice p (28 + 16 * j) 4))
/-- The checks of R387 that need no flash density. -/
def layoutSound (p : Bytes) : Bool :=
  let l := layoutOf p
  slice p 0 5 == octets [0x53, 0x46, 0x4C, 0x31, 0x01] && decide (1 ≤ byteAt p 5) && decide (byteAt p 5 ≤ 41) && p.length == 16 + 16 * byteAt p 5
    && layoutReserved p && l.all regionOk && noPair (fun a b => a.kind == b.kind && a.index == b.index) l
    && noPair (fun a b => a.kind == 1 && b.kind == 1 && regionsMeet a b) l && (l.filter (fun r => r.kind == 2)).length == 1
    && l.all (fun a => a.kind == 2 || l.all (fun b => b.kind != 2 || !regionsMeet a b))
/-- The checks of R387 on the flash density, made while discovery has succeeded. -/
def layoutFits (s : State) (p : Bytes) : Bool :=
  let l := layoutOf p; let n := 2 ^ s.mp.densityLog2
  l.all (fun r => decide (r.base + r.length ≤ n) && (r.kind != 2 || (r.base == n - 0x01000000 && r.length == 0x01000000)))
/-- Step 10 for FLASH_LAYOUT (R332, R387). -/
def layoutPayloadOk (s : State) (p : Bytes) : Bool := layoutSound p && (!s.mp.flashOk || layoutFits s p)
/-- FLASH_LAYOUT commits: HOST regions apply at once, snoop windows from the next full reset (R389). PARAM of the blob keeps the
layout's length (DEDUCED, log entry 23). -/
def layoutApply (run : EnvelopeRun) (_ : Nat) (_ : Hamper) (_ p : Bytes) (s : State) : EnvEnd :=
  storeDevice run layoutHandle (deviceKey 0x3E ((p.length + 63) / 64) p.length p) 0
    (fun s => { s with mp := { s.mp with layout := (layoutOf p).filter (fun r => r.kind != 3) } }) s
/-- FLASH_LAYOUT (R389). -/
def layoutSpec : EnvSpec :=
  { typ := 0x0B, payloadOk := layoutPayloadOk, conflict := noConflict, replyLen := noReply, draws := fun _ _ => true, archive := true,
    apply := layoutApply }
/-- FLASH_LAYOUT (R389). -/
def execFlashLayout (h : Nat) (run : EnvelopeRun) (s : State) : Host.Outcome State Fault Refusal := .next (envelopeEntry layoutSpec run h s)

end Sys2Proof.Machine
end

