-- ==== Sys2Proof/Machine/KeyEnvelopes.lean ====
section
/-! DEFINITION. Envelopes about keys: REFERENCE_SET, KEY_IMPORT, KEY_GENERATE, KEY_REPLACE, KEY_DESTROY, SEAL_POLICY (R303, R310, R314,
R333, R334, R336). -/

namespace Sys2Proof.Machine

/-- The key header (R333). -/
def khHandle (p : Bytes) : Nat := leAt p 0 2
def khType (p : Bytes) : Nat := byteAt p 2
def khClass (p : Bytes) : Nat := byteAt p 3
def khUsage (p : Bytes) : Nat := leAt p 4 2
def khParent (p : Bytes) : Nat := leAt p 6 2
def khMeas (p : Bytes) : Nat := leAt p 8 4
def khRef (p : Bytes) : Nat := leAt p 0x0C 2
def khSize (p : Bytes) : Nat := byteAt p 0x0E
def khParam (p : Bytes) : Nat := leAt p 0x10 4
/-- Its span (R298). -/
def khSpan (p : Bytes) : Nat := keySpan (khType p) (khSize p) (khParam p)
/-- VALUE of an import (R333). -/
def khValue (p : Bytes) : Bytes := p.drop 32

/-- SIZE and PARAM are legal for the type (R264, R298, R299). -/
def sizeOk (typ size param : Nat) : Bool :=
  match typ with
  | 0x07 => size == 0 && decide (16 ≤ param) && decide (param ≤ 128)
  | 0x08 => size == 0 && decide (16 ≤ param) && decide (param ≤ 64)
  | 0x20 | 0x21 => decide (size ≤ 32) && param % 2 == 1 && decide (3 ≤ param)
  | _ => size == 0 && param == 0
/-- The key header is legal (R333). REFERENCE and device-only types have no usage to permit. -/
def keyHeaderOk (p : Bytes) : Bool :=
  let u := khUsage p
  usagePermitted (khType p) != [] && decide (khClass p ≤ 2) && decide (u < 512)
    && (List.range 9).all (fun i => !bit u i || (usagePermitted (khType p)).contains i)
    && sizeOk (khType p) (khSize p) (khParam p) && (khMeas p == 0) == (khRef p == 0) && byteAt p 0x0F == 0 && allZero (slice p 0x14 12)

/-- The public part of an imported EC key follows from its private part. -/
def ecPairOk (c : Curve) (n : Nat) (v : Bytes) : Bool :=
  let d := beNat (slice v 0 n)
  decide (0 < d) && decide (d < c.n) && slice v n (2 * n) == ecPub c d
/-- The parts of an imported RSA private key agree (R333). -/
def rsaPairOk (size ex : Nat) (v : Bytes) : Bool :=
  let b := rsaBits size; let n := b / 16
  let part := fun i => beNat (slice v (i * n) n)
  let p := part 0; let q := part 1
  p.log2 + 1 == b / 2 && q.log2 + 1 == b / 2 && ex * part 2 % (p - 1) == 1 && ex * part 3 % (q - 1) == 1 && part 4 * q % p == 1
/-- SCHEME of a public key's type. -/
def schemeOfPublic (typ : Nat) : Nat := match typ with | 0x18 => 1 | 0x19 => 2 | 0x1A => 3 | 0x1B => 4 | _ => 5
/-- The slot value of an import is sound for its type (R333). -/
def valueOk (typ size param : Nat) (v : Bytes) : Bool :=
  let n := keyLen typ size param
  allZero (v.drop n) &&
  (match typ with
   | 0x04 => slice v 0 16 != slice v 16 16
   | 0x05 => slice v 0 32 != slice v 32 32
   | 0x10 => ecPairOk p256 32 v
   | 0x11 => ecPairOk p384 48 v
   | 0x12 => ecPairOk p521 66 v
   | 0x13 => slice v 32 32 == edPub (slice v 0 32)
   | 0x14 => slice v 32 32 == xPub (slice v 0 32)
   | 0x18 | 0x19 | 0x1A | 0x1B | 0x21 => publicOk (schemeOfPublic typ) (slice v 0 n) param
   | 0x20 => rsaPairOk size param v
   | _ => true)

/-- The key that a header and a value describe, in the session at hand (R299, R314). -/
def headedKey (s : State) (d : Nat) (p v : Bytes) : Key :=
  { typ := khType p, span := khSpan p, cls := khClass p, debug := onTestRoot s, usage := khUsage p, domain := d, size := khSize p,
    sealRef := khRef p, sealMeas := khMeas p, param := khParam p, value := v }

/-- In DEBUG a span that meets a production manifest entry (R336). -/
def meetsProduction (s : State) (d h n : Nat) : Bool :=
  onTestRoot s &&
    (match manifestFor s d with
     | .ok m => (manEntries m).any (fun e => decide (h < e.handle + e.span) && decide (e.handle < h + n))
     | .error _ => false)
/-- Why the manifests an edit needs cannot be read, if so. -/
def manifestTrouble (s : State) (d : Nat) : Option LoadFail :=
  match manifestFor s d with
  | .ok _ => none
  | .error f => some f
/-- The manifest to edit, empty while it cannot be read: the edit is then refused at step 13. -/
def editEntries (s : State) (d : Nat) : List ManEntry := match workManifest s d with | .ok es => es | .error _ => []
/-- A parent is absent, lacks DERIVE, or would make a chain of more than four keys (R333). A parent that is listed but cannot be
loaded makes the change fail at step 13. -/
def parentBad (s : State) (d : Nat) (es : List ManEntry) (p : Nat) : Bool :=
  p != 0xFFFF && ((liveEntry es p).isNone || decide (4 ≤ chainLen es 4 p) ||
    (match parentValue s d p with
     | .ok k => !bit k.usage useDerive
     | .error _ => false))

/-- Put a new or changed key into a domain's archive: its blob, its entry, descendants to orphan, slots to empty (R303, R304, R310). -/
def storeKey (run : EnvelopeRun) (d h parent : Nat) (k : Key) (iv : Bytes) (gone : List Nat) (post : State → State) (reply : Bytes) (s : State) : EnvEnd :=
  match manifestTrouble s d with
  | some f => .rejected 0x0B (loadEvent d f s)
  | none =>
    match wrapKey s d h parent k iv with
    | .error f => .rejected 0x0B (loadEvent d f s)
    | .ok b =>
      let es := putManEntry b.2 (orphan gone (editEntries s d))
      changeArchive run { domain := d, debug := onTestRoot s, epoch := (domOf s d).epoch, entries := es, blobs := [(h, b.1)] } post reply s

/-- Step 10 for KEY_IMPORT and KEY_REPLACE (R333). -/
def importPayloadOk (_ : State) (p : Bytes) : Bool :=
  keyHeaderOk p && p.length == 32 + 64 * khSpan p && valueOk (khType p) (khSize p) (khParam p) (khValue p)
/-- Step 11 for KEY_IMPORT and KEY_GENERATE (R333, R336). -/
def importConflict (s : State) (v p : Bytes) : Bool :=
  let d := envTarget v; let es := editEntries s d; let n := khSpan p
  !spanInRange (domOf s d) (khHandle p) n || ((manifestTrouble s d).isNone &&
    (spanTaken es (khHandle p) n 0x10000 || meetsProduction s d (khHandle p) n || parentBad s d es (khParent p)))
/-- KEY_IMPORT commits (R310, R333): it replaces an ORPHAN entry at its handle. -/
def importApply (run : EnvelopeRun) (_ : Nat) (_ : Hamper) (v p : Bytes) (s : State) : EnvEnd :=
  let d := envTarget v
  storeKey run d (khHandle p) (khParent p) (headedKey s d p (khValue p)) (drawn s 12) [] id [] (afterDraw s 12)
/-- KEY_IMPORT (R333). -/
def importSpec : EnvSpec :=
  { typ := 0x0D, payloadOk := importPayloadOk, conflict := importConflict, replyLen := noReply, draws := fun _ _ => true, archive := true,
    apply := importApply }
/-- KEY_IMPORT (R333). -/
def execKeyImport (h : Nat) (run : EnvelopeRun) (s : State) : Host.Outcome State Fault Refusal := .next (envelopeEntry importSpec run h s)

/-- SIZE of the key at a handle, for the types that have one. -/
def heldSize (s : State) (d h : Nat) : Option Nat :=
  match loadOutcome s d h with
  | .ok ks => ks.head?.map (·.2.size)
  | .error _ => none
/-- Step 11 for KEY_REPLACE (R333, R336). An RSA key's SIZE stands in its blob: one that cannot be read fails at step 13. -/
def replaceConflict (s : State) (v p : Bytes) : Bool :=
  let d := envTarget v; let es := editEntries s d; let h := khHandle p; let n := khSpan p; let up := khParent p
  !spanInRange (domOf s d) h n || ((manifestTrouble s d).isNone &&
    ((match liveEntry es h with
      | none => true
      | some e => e.typ != khType p || ((e.typ == 0x20 || e.typ == 0x21) && (heldSize s d h).isSome && heldSize s d h != some (khSize p)))
     || spanTaken es h n h || meetsProduction s d h n || up == h || (descendants es h).contains up || parentBad s d es up))
/-- KEY_REPLACE commits (R303, R310, R333): descendants are orphaned, the old slots zeroed. -/
def replaceApply (run : EnvelopeRun) (_ : Nat) (_ : Hamper) (v p : Bytes) (s : State) : EnvEnd :=
  let d := envTarget v; let h := khHandle p
  let rsa := khType p == 0x20 || khType p == 0x21
  match (if rsa then loadOutcome s d h else .ok []) with
  | .error f => .rejected 0x0B (loadEvent d f s)
  | .ok _ =>
    let gone := descendants (editEntries s d) h
    storeKey run d h (khParent p) (headedKey s d p (khValue p)) (drawn s 12) gone (dropKeys (h :: gone)) [] (afterDraw s 12)
/-- KEY_REPLACE (R333). -/
def replaceSpec : EnvSpec :=
  { typ := 0x0F, payloadOk := importPayloadOk, conflict := replaceConflict, replyLen := noReply, draws := fun _ _ => true, archive := true,
    apply := replaceApply }
/-- KEY_REPLACE (R333). -/
def execKeyReplace (h : Nat) (run : EnvelopeRun) (s : State) : Host.Outcome State Fault Refusal := .next (envelopeEntry replaceSpec run h s)

/-- Octets that generating a key draws: the private value by extra random bits, or the key itself (R291, R333; PRESUMED, log entry 16). -/
def generateDraw (p : Bytes) : Nat :=
  match khType p with
  | 0x10 => 40 | 0x11 => 56 | 0x12 => 74 | 0x13 | 0x14 => 32
  | t => keyLen t (khSize p) (khParam p)
/-- SCHEME whose curve a private type has. -/
def schemeOfPrivate (t : Nat) : Nat := match t with | 0x10 => 1 | 0x11 => 2 | _ => 3
/-- The generated slot value. PRESUMED, log entry 16. -/
def generatedValue (p rnd : Bytes) : Bytes :=
  let t := khType p
  if t = 0x10 ∨ t = 0x11 ∨ t = 0x12 then
    let sch := schemeOfPrivate t
    let d := privateFrom sch rnd
    toBe (coordLen sch) d ++ ecPub (curveOf sch) d
  else if t = 0x13 then rnd ++ edPub rnd
  else if t = 0x14 then rnd ++ xPub rnd
  else rnd
/-- PUB of an endorsement (R334). -/
def endorsedPub (k : Key) : Bytes := if k.typ = 0x14 then slice k.value 32 32 else if 0x10 ≤ k.typ ∧ k.typ ≤ 0x13 then publicOctets k else []
/-- Length of PUB by type (R334). -/
def endorsedLen (t : Nat) : Nat := match t with | 0x10 => 64 | 0x11 => 96 | 0x12 => 132 | 0x13 | 0x14 => 32 | _ => 0
/-- The endorsement body (R334). -/
def endorsementBody (v p : Bytes) (k : Key) : Bytes :=
  octets [0x53, 0x4B, 0x45, 0x31, 0x01] ++ toLe 1 k.typ ++ toLe 1 k.span ++ toLe 1 (formOf k.span k.cls k.debug) ++ toLe 2 k.domain
    ++ toLe 2 (khHandle p) ++ toLe 2 k.usage ++ toLe 2 k.sealRef ++ toLe 4 k.sealMeas ++ toLe 2 (endorsedLen k.typ) ++ zeros 2
    ++ toLe 8 (envCounter v) ++ uid ++ endorsedPub k
/-- The endorsement, signed by the identity key (R334). -/
def endorsement (s : State) (v p : Bytes) (k : Key) : Bytes :=
  let b := endorsementBody v p k
  b ++ deviceSign ((rootOf s).getD []) 0 b
/-- The internal check of an endorsement's signature (R268). -/
def endorsementGood (s : State) (v p : Bytes) (k : Key) : Bool :=
  let b := endorsementBody v p k; let root := (rootOf s).getD []
  deviceSigned root 0 b (deviceSign root 0 b)
/-- Step 10 for KEY_GENERATE (R333). -/
def generatePayloadOk (_ : State) (p : Bytes) : Bool := keyHeaderOk p && p.length == 32 && decide (khType p < 0x18)
/-- KEY_GENERATE commits (R268, R333, R334). -/
def generateApply (run : EnvelopeRun) (h : Nat) (x : Hamper) (v p : Bytes) (s : State) : EnvEnd :=
  let d := envTarget v
  let n := generateDraw p
  let k := headedKey s d p (fitTo (64 * khSpan p) (generatedValue p (drawn s n)))
  let s := afterDraw s n
  if run.fault = .selfCheck ∨ endorsementGood s v p k = false then .struck (selfCheckFault h (onPk x) s)
  else storeKey run d (khHandle p) (khParent p) k (drawn s 12) [] id (endorsement s v p k) (afterDraw s 12)
/-- KEY_GENERATE (R333, R334). -/
def generateSpec : EnvSpec :=
  { typ := 0x0E, payloadOk := generatePayloadOk, conflict := importConflict, replyLen := fun p => 144 + endorsedLen (khType p),
    draws := fun _ _ => true, archive := true, apply := generateApply }
/-- KEY_GENERATE (R334). -/
def execKeyGenerate (h : Nat) (run : EnvelopeRun) (s : State) : Host.Outcome State Fault Refusal := .next (envelopeEntry generateSpec run h s)

/-- Step 10 for REFERENCE_SET (R333). -/
def referencePayloadOk (_ : State) (p : Bytes) : Bool := p.length == 56 && allZero (slice p 2 6)
/-- Step 11 for REFERENCE_SET (R333). -/
def referenceConflict (s : State) (v p : Bytes) : Bool :=
  let d := envTarget v; let es := editEntries s d; let h := khHandle p
  !spanInRange (domOf s d) h 1 || ((manifestTrouble s d).isNone &&
    es.any (fun e => !e.orphan && decide (e.handle ≤ h) && decide (h < e.handle + e.span) && !(e.handle == h && e.typ == 0x30)))
/-- REFERENCE_SET commits (R333): a key of TYPE 0x30, span 1, class ANY, no usage. -/
def referenceApply (run : EnvelopeRun) (_ : Nat) (_ : Hamper) (v p : Bytes) (s : State) : EnvEnd :=
  let d := envTarget v; let h := khHandle p
  let k : Key := { typ := 0x30, span := 1, cls := 0, debug := onTestRoot s, usage := 0, domain := d, size := 0, sealRef := 0, sealMeas := 0,
                   param := 0, value := fitTo 64 (slice p 8 48) }
  storeKey run d h 0xFFFF k (drawn s 12) [] (dropKeys [h]) [] (afterDraw s 12)
/-- REFERENCE_SET (R333). -/
def referenceSpec : EnvSpec :=
  { typ := 0x0C, payloadOk := referencePayloadOk, conflict := referenceConflict, replyLen := noReply, draws := fun _ _ => true, archive := true,
    apply := referenceApply }
/-- REFERENCE_SET (R333). -/
def execReferenceSet (h : Nat) (run : EnvelopeRun) (s : State) : Host.Outcome State Fault Refusal := .next (envelopeEntry referenceSpec run h s)

/-- An entry of a key at a handle; the device-only blobs are no keys. -/
def keyEntry (es : List ManEntry) (h : Nat) : Option ManEntry := if h < 0x4000 then entryAt es h else none
/-- Step 10 for KEY_DESTROY (R327, R333). -/
def destroyKeyPayloadOk (_ : State) (p : Bytes) : Bool := p.length == 8 && allZero (p.drop 2)
/-- Step 11 for KEY_DESTROY (R333, R336). -/
def destroyKeyConflict (s : State) (v p : Bytes) : Bool :=
  let d := envTarget v
  (manifestTrouble s d).isNone &&
    (match keyEntry (editEntries s d) (khHandle p) with
     | none => true
     | some e => meetsProduction s d e.handle e.span)
/-- KEY_DESTROY commits (R310): the entry goes, descendants are orphaned, their slots zeroed. -/
def destroyKeyApply (run : EnvelopeRun) (_ : Nat) (_ : Hamper) (v p : Bytes) (s : State) : EnvEnd :=
  let d := envTarget v; let h := khHandle p
  match manifestTrouble s d with
  | some f => .rejected 0x0B (loadEvent d f s)
  | none =>
    let es := editEntries s d
    let gone := descendants es h
    changeArchive run { domain := d, debug := onTestRoot s, epoch := (domOf s d).epoch,
                        entries := (orphan gone es).filter (fun e => e.handle != h), blobs := [] } (dropKeys (h :: gone)) [] s
/-- KEY_DESTROY (R310). -/
def destroyKeySpec : EnvSpec :=
  { typ := 0x10, payloadOk := destroyKeyPayloadOk, conflict := destroyKeyConflict, replyLen := noReply, draws := noDraw, archive := true,
    apply := destroyKeyApply }
/-- KEY_DESTROY (R310). -/
def execKeyDestroy (h : Nat) (run : EnvelopeRun) (s : State) : Host.Outcome State Fault Refusal := .next (envelopeEntry destroyKeySpec run h s)

/-- Step 10 for SEAL_POLICY (R333). -/
def sealPayloadOk (_ : State) (p : Bytes) : Bool := p.length == 8 && (leAt p 2 2 == 0) == (leAt p 4 4 == 0)
/-- Step 11 for SEAL_POLICY (R333, R336). -/
def sealConflict (s : State) (v p : Bytes) : Bool :=
  let d := envTarget v
  (manifestTrouble s d).isNone &&
    (match liveEntry (editEntries s d) (khHandle p) with
     | none => true
     | some e => e.typ == 0x30 || decide (0x4000 ≤ e.handle) || meetsProduction s d e.handle e.span)
/-- Set the seal of a loaded key (R306). -/
def resealSlot (h ref meas : Nat) (s : State) : State :=
  { s with keys := s.keys.map (fun c => if c.1 = h then (h, { c.2 with sealRef := ref, sealMeas := meas }) else c) }
/-- SEAL_POLICY commits (R333): the blob is re-wrapped with a fresh IV. -/
def sealApply (run : EnvelopeRun) (_ : Nat) (_ : Hamper) (v p : Bytes) (s : State) : EnvEnd :=
  let d := envTarget v; let h := khHandle p
  match loadOutcome s d h, liveEntry (editEntries s d) h with
  | .ok (c :: _), some e =>
    storeKey run d h e.parent { c.2 with sealRef := leAt p 2 2, sealMeas := leAt p 4 4 } (drawn s 12) [] (resealSlot h (leAt p 2 2) (leAt p 4 4)) []
      (afterDraw s 12)
  | .error f, _ => .rejected 0x0B (loadEvent d f s)
  | _, _ => .rejected 0x0B s
/-- SEAL_POLICY (R333). -/
def sealSpec : EnvSpec :=
  { typ := 0x11, payloadOk := sealPayloadOk, conflict := sealConflict, replyLen := noReply, draws := fun _ _ => true, archive := true,
    apply := sealApply }
/-- SEAL_POLICY (R333). -/
def execSealPolicy (h : Nat) (run : EnvelopeRun) (s : State) : Host.Outcome State Fault Refusal := .next (envelopeEntry sealSpec run h s)

end Sys2Proof.Machine
end

