-- ==== Sys2Proof/Machine/MemPort.lean ====
section
/-! DEFINITION. The memory port as its bus moves it: transactions, status polls, external holds, supply, time limits (R382 to R407). -/

namespace Sys2Proof.Machine

/-- A WIN_FETCH loads its next line, or ends (R64). -/
def advanceFetch (p : Port) (u : Nat) (s : State) : State :=
  match (portOf s p.val).fetch with
  | none => s
  | some f =>
    if f.abandoned || decide (f.stop ≤ u + 256) then
      modPort s p.val (fun x => { x with fetch := none, fetchDone := x.fetchDone || (f.announce && !f.abandoned) })
    else queueWork (.line (u + 256) (.fetch p)) (modPort s p.val (fun x => { x with fetch := some { f with next := u + 256 } }))

/-- The bytes of a line that a fetch has read are host reads for the Tongs (R252, R253). -/
def fetchRead (p : Port) (u : Nat) (s : State) : State :=
  match (portOf s p.val).fetch with
  | none => s
  | some f =>
    let a := max u f.first
    tongsRead a (windowBytes s a (min (u + 256) f.stop - a)) s

/-- A line read ends: the line is cached for the port whose work it was (R391). -/
def lineDone (w : MpWork) (s : State) : State :=
  let s := { s with mp := { s.mp with work := s.mp.work.filter (· != w) } }
  if !s.mp.flashOk then s else
  match w with
  | .line u (.host p) => fillLine u (portOf s p.val).xip s
  | .line u .entry => fillLine u false s
  | .line u (.fetch p) => advanceFetch p u (fetchRead p u (fillLine u (portOf s p.val).xip s))
  | .line u (.prefetch p) => fillLine u (portOf s p.val).xip s

/-- What one transaction leaves of the write buffer: up to 256 octets of its oldest range go. -/
def bufferDrain : List (Nat × Nat) → List (Nat × Nat)
  | [] => []
  | c :: t => if c.2 ≤ 256 then t else (c.1 + 256, c.2 - 256) :: t
/-- One transaction drains up to 256 octets of the Larder's write buffer (R368, R393). -/
def drainLarder (s : State) : State := { s with mem := { s.mem with buffer := bufferDrain s.mem.buffer } }

/-- The transaction on the bus, or the one an idle bus has just started (R393). DEDUCED, log entry 61. -/
def onBus (s : State) : Option Transaction := s.mp.current.orElse (fun _ => nextTransaction s)
/-- What a finished transaction has done (R393). -/
def carryOut (t : Transaction) (s : State) : State :=
  match t with
  | .read w => lineDone w s
  | .drain => drainLarder s
  | .flash => startOps 16 s
/-- A memory-port transaction finishes, and the next one starts (R43, R393). -/
def transactionDone (s : State) : State :=
  match onBus s with
  | some t => beginNext (carryOut t (endTransaction s))
  | none => s

/-- Whether a piece of work is a line of a port's fetch. -/
def fetchWork (p : Nat) (w : MpWork) : Bool := match w with | .line _ (.fetch q) => q.val == p | _ => false
/-- A port's fetch ends without FETCH_DONE; its queued line is not loaded (R102). DEDUCED, log entry 61. -/
def dropFetch (p : Nat) (s : State) : State :=
  modPort { s with mp := { s.mp with work := s.mp.work.filter (fun w => !fetchWork p w) } } p (fun x => { x with fetch := none })

/-- FETCH_ABORT (R102): the line in progress completes, and no further one is started; with none in progress the fetch ends at once. DEDUCED, log entry 61. -/
def abortFetch (p : Nat) (s : State) : State :=
  match s.mp.current with
  | some (.read w) => if fetchWork p w then modPort s p (fun x => { x with fetch := x.fetch.map (fun f => { f with abandoned := true }) }) else dropFetch p s
  | _ => dropFetch p s

/-- MP_TRANSACTION_DONE (R393). -/
def execMpTransactionDone (s : State) : Host.Outcome State Fault Refusal := .next (transactionDone s)

/-- The bus is the device's to use, and the port is on. -/
def busFree (s : State) : Bool := decide ((pdOf s 48).st = .on) && !s.mp.holdActive && !s.mp.backoffPending && !s.mp.supplyLost

/-- A status-register read (R405): two unequal bytes mean the configuration is lost; when the flash does not re-enter 8D-8D-8D
either, window and archive are unavailable until the next full reset. -/
def readStatus (equalBytes reentryOk : Bool) (s : State) : State :=
  let s := { s with mp := { s.mp with statusDue := false } }
  if equalBytes then s
  else
    let s := raise 4 4 0 none s
    if reentryOk then s else { s with mp := { s.mp with flashOk := false } }

/-- An interrupted step can still reach its expected content (R403). -/
def canReach (s : State) (o : WinOp) : Bool :=
  match o.steps.head? with
  | some none => true
  | some (some i) =>
    let r := stepResult s o (some i)
    List.zipWith (· &&& ·) (flashRead s r.1 r.2.length) r.2 == r.2
  | none => true

/-- A step whose readback does not match (R398, R403): an interrupted one is issued once more while it can succeed; else the write
fails. -/
def stepMismatch (p : Nat) (o : WinOp) (s : State) : State :=
  if s.mp.interrupted && !o.repeated && canReach s o then
    setOp p { o with repeated := true } { s with mp := { s.mp with interrupted := false } }
  else failOp p o s

/-- A poll of the flash status, and the verification once WIP is clear (R398, R405). -/
def statusPoll (equalBytes wip verifyOk reentryOk : Bool) (s : State) : State :=
  if !busFree s || (!flashBusy s && !s.mp.statusDue) || !s.mp.flashOk then s else
  let s := readStatus equalBytes reentryOk s
  if !s.mp.flashOk then s else
  beginNext (match runningOp s with
    | none => startOps 16 s
    | some (p, o) => if wip then s else if verifyOk then stepDone p o s else stepMismatch p o s)

/-- FLASH_STATUS_POLL (R398). -/
def execFlashStatusPoll (equalBytes wip verifyOk reentryOk : Bool) (s : State) : Host.Outcome State Fault Refusal :=
  .next (statusPoll equalBytes wip verifyOk reentryOk s)

/-- FLASH_OP_TIMEOUT (R398): WIP is still 1 at twice the maximum time. -/
def execFlashOpTimeout (s : State) : Host.Outcome State Fault Refusal :=
  .next (match runningOp s with | some (p, o) => beginNext (failOp p o s) | none => s)

/-- A foreign access taints a window in MEASURING or DONE; the first one extends its register (R256). -/
def taintWindow (w : Nat) (s : State) : State :=
  let n := s.snoops.getD w {}
  if n.state < 2 then s else
  let m := s.meas.getD w measReset
  let s := if m.tainted then s else
    let s := extendMeas w (octets [0x54, 0x41, 0x49, 0x4E, 0x54, 0, 0, 0] ++ toLe 8 s.mono) s
    { s with meas := s.meas.set w { (s.meas.getD w measReset) with tainted := true } }
  raise 18 1 w none { s with snoops := s.snoops.set w { n with taints := sat 255 (n.taints + 1) } }
/-- A foreign access to the flash. -/
def taintAll (s : State) : State := (List.range 8).foldl (fun s w => taintWindow w s) s

/-- The access in progress is interrupted (R403, R406): a program or erase must be verified first; one interrupted again is not
issued a third time. -/
def interruptFlash (s : State) : State :=
  match runningOp s with
  | none => s
  | some (p, o) =>
    let s := if s.mp.interrupted then setOp p { o with repeated := true } s else s
    { s with mp := { s.mp with interrupted := true } }

/-- An interrupted transaction of an abandoned fetch is not repeated (R102). -/
def dropAbandoned (s : State) : State :=
  (List.range 4).foldl (fun s p => if ((portOf s p).fetch.map (·.abandoned)).getD false then dropFetch p s else s) s

/-- The access in progress is broken off (R102, R403, R406). -/
def breakOff (s : State) : State := endTransaction (interruptFlash (dropAbandoned s))

/-- An accepted fall of MP_XSEL_N, monitored from the start of BOOT (R22, R132, R256, R403). -/
def xselFall (s : State) : State :=
  if !s.board.xselN then s else
  let busy := mastering s
  let s := { s with board := { s.board with xselN := false } }
  if s.boot.mode = .recovery ∨ s.board.porHigh = false then s else
  let s' := if busy then breakOff s else s
  let s' := { s' with mp := { s'.mp with holdActive := true, holdSince := s.mono, collisions := if busy then sat 0xFFFF (s'.mp.collisions + 1) else s'.mp.collisions } }
  taintAll (if busy then raise 4 1 0 none s' else s')

/-- XSEL_FALL (R403). -/
def execXselFall (s : State) : Host.Outcome State Fault Refusal := .next (xselFall s)

/-- What an external master left in the flash. -/
def foreignWrites (l : List (Nat × Byte)) (s : State) : State :=
  l.foldl (fun s c => if c.1 < 2 ^ 28 then flashPut c.1 [c.2] s else s) s

/-- Microseconds in ticks, rounded down. -/
def usTicks (us : Nat) : Nat := us * 32768 / 1000000
/-- Holds that ended in the last 100 ms (R404). -/
def recentHolds (s : State) : List (Nat × Nat) := s.mp.holds.filter (fun c => decide (s.mono < c.1 + usTicks 100000))
/-- Microseconds of holds in the last 100 ms, the running one included (R404). -/
def holdTotal (s : State) : Nat :=
  ((recentHolds s).map (·.2)).sum + (if s.mp.holdActive then (s.mono - s.mp.holdSince) * 1000000 / 32768 else 0)

/-- An accepted rise of MP_XSEL_N: the hold is timed, the cache may be emptied, the back-off begins (R403, R404); the hold's time has
passed (DESIGN CHOICE, log entry 33). -/
def xselRise (heldUs : Nat) (foreign : List (Nat × Byte)) (s : State) : State :=
  if s.board.xselN then s else
  let s := foreignWrites foreign { s with board := { s.board with xselN := true } }
  if !s.mp.holdActive then s else
  let s := elapseTo (s.mp.holdSince + usTicks heldUs) s
  let s := { s with mp := { s.mp with
    holdActive := false, backoffPending := true, longestUs := max s.mp.longestUs (sat 0xFFFF heldUs),
    holds := recentHolds s ++ [(s.mono, heldUs)] } }
  if s.mp.xselInvalidate then emptyCache s else s

/-- XSEL_RISE (R403). -/
def execXselRise (heldUs : Nat) (foreign : List (Nat × Byte)) (s : State) : Host.Outcome State Fault Refusal := .next (xselRise heldUs foreign s)

/-- The configuration check that comes before any other work: at once, or at the next wake of a gated port (R405). -/
def checkConfig (equalBytes reentryOk : Bool) (s : State) : State :=
  let s := { s with mp := { s.mp with statusDue := s.mp.flashOk } }
  if busFree s && s.mp.flashOk then
    let s := readStatus equalBytes reentryOk s
    if s.mp.flashOk then beginNext (startOps 16 s) else beginNext s
  else s

/-- XSEL_BACKOFF_END (R403, R405). A program or erase that was interrupted is verified at its next poll; `wip` is what that poll
would find, so it changes nothing here. -/
def execXselBackoffEnd (equalBytes _wip reentryOk : Bool) (s : State) : Host.Outcome State Fault Refusal :=
  .next (if s.mp.backoffPending && !s.mp.holdActive then
    checkConfig equalBytes reentryOk { s with mp := { s.mp with backoffPending := false } } else s)

/-- HOLD_LIMIT (R404): one hold of more than 10 ms, which have then passed (DESIGN CHOICE, log entry 33), or holds of more than 50 ms in
100 ms. -/
def holdLimit (overMs : Bool) (s : State) : State :=
  if overMs then
    (if s.mp.holdActive then raise 4 3 0 none (elapseTo (s.mp.holdSince + usTicks 10000 + 1) s) else s)
  else if 50000 < holdTotal s then raise 4 3 0 none s else s
/-- HOLD_LIMIT (R404). -/
def execHoldLimit (overMs : Bool) (s : State) : Host.Outcome State Fault Refusal := .next (holdLimit overMs s)

/-- VDDIO_MP_LOSS (R33, R406): while `POR_N` is low only the level changes. -/
def execVddioMpLoss (s : State) : Host.Outcome State Fault Refusal :=
  .next (if !s.board.vddioMpOk then s
    else if !s.board.porHigh then { s with board := { s.board with vddioMpOk := false } }
    else
      let s' := if mastering s then breakOff s else s
      raise 4 6 0 none { s' with board := { s'.board with vddioMpOk := false }, mp := { s'.mp with supplyLost := true } })

/-- VDDIO_MP_RETURN (R406), its back-off passed. -/
def execVddioMpReturn (equalBytes _wip reentryOk : Bool) (s : State) : Host.Outcome State Fault Refusal :=
  .next (if s.board.vddioMpOk then s
    else if !s.mp.supplyLost then { s with board := { s.board with vddioMpOk := true } }
    else checkConfig equalBytes reentryOk { s with board := { s.board with vddioMpOk := true }, mp := { s.mp with supplyLost := false } })

end Sys2Proof.Machine
end

