-- ==== Sys2Proof/Machine/Power.lean ====
section
/-! DEFINITION. Power domains: idle gating, draining, wakes and their tests, the power cap, temperature; the DRBG's health, the Whisk,
the scrubber (R284, R285, R307, R312, R373, R374, R378, R434 to R454). -/

namespace Sys2Proof.Machine

/-- An entry may wait at a draw (R285, R439): the output is stopped while an entry holds engines or a hamper is not admitted. -/
def atDraw (s : State) : Bool := s.rng.stopped && s.hampers.any (fun x => x.engines != [] || !x.admitted)
/-- The domain stands idle (R407, R439). A bank's idleness, and the deasserted select of a port, are the command's assertion. -/
def pdIdle (s : State) (i : Nat) : Bool :=
  let d := pdOf s i
  if i < 36 then d.running.isNone && d.suspended.isNone
  else if i < 44 then true
  else if i < 48 then (portOf s (i - 44)).pushBuf == [] && (portOf s (i - 44)).fetch.isNone
  else if i = 48 then
    s.mp.work == [] && winOps s == [] && s.mem.buffer == [] && !s.mp.statusDue && s.loads == [] && !s.snoops.any (fun n => n.state == 2)
  else s.keys == [] && s.loads == [] && !atDraw s && (List.range 16).all (fun j => !powered (pdOf s j))

/-- An idle domain under AUTO is closed to new work (R439, R440). -/
def idleGate (i : Nat) (s : State) : State :=
  let d := pdOf s i
  if d.policy = .auto ∧ d.st = .on ∧ d.closed = false ∧ pdIdle s i = true then modPd s i (fun d => { d with closed := true }) else s

/-- IDLE_GATE (R439): the domain has been idle for `IDLE_GATE_US`. -/
def execIdleGate (pd : Fin 50) (s : State) : Host.Outcome State Fault Refusal := .next (idleGate pd.val s)

/-- The work in a closed domain has finished (R440, step 2): an engine is empty, a port has nothing buffered, the memory port no work. -/
def drained (s : State) (i : Nat) : Bool := if i = 49 then s.loads == [] && !atDraw s else pdIdle s i

/-- What a bank loses when it goes OFF (R361, R434). -/
def bankOff (b : Nat) (s : State) : State := wipeRange (b * 0x00200000) 0x00200000 s

/-- A domain switches to its gated state (R434, R439): an allocated bank RETAINs; the window cache is lost with `PD_48`, the slots of
the key store are empty while `PD_49` is gated (R442). -/
def switchOff (i : Nat) (s : State) : State :=
  let keeps := decide (36 ≤ i) && decide (i < 44) && bankAllocated s (i - 36)
  let s := modPd s i (fun d => { d with st := if keeps then .retain else .off, closed := false, wakeWanted := false })
  if keeps then s
  else if 36 ≤ i ∧ i < 44 then bankOff (i - 36) s
  else if i = 48 then emptyCache s
  else if i = 49 then { emptyStore s with rng := { s.rng with restarting := false } } else s

/-- A closed domain has drained and is gated; a wake asked for meanwhile starts then (R440). -/
def gateDomain (i : Nat) (s : State) : State :=
  let d := pdOf s i
  if d.closed && decide (d.st = .on) && drained s i then
    let s := switchOff i s
    if d.wakeWanted then requestWake i s else s
  else s

/-- DOMAIN_GATED (R440). -/
def execDomainGated (pd : Fin 50) (s : State) : Host.Outcome State Fault Refusal := .next (gateDomain pd.val s)

/-- Wakes asked for and held back by the limit start, in request order, up to four (R436). -/
def startQueued (s : State) : State :=
  let go := s.power.wakeQueue.take 4
  let s := { s with power := { s.power with wakeQueue := s.power.wakeQueue.drop 4, wakesNow := go.length } }
  go.foldl (fun s i => modPd s i (fun d =>
    if d.retired then { d with wakeQueued := false } else { d with wakeQueued := false, st := if d.st = .on then .on else .waking })) s

/-- QUEUED_WAKE_START (R436): the microsecond of the wakes started before it has passed. -/
def execQueuedWakeStart (s : State) : Host.Outcome State Fault Refusal := .next (startQueued s)

/-- The domain serves or will serve new work. -/
def awake (d : Pd) : Bool := decide (d.st = .on) && !d.closed && !d.fenced && !d.retired
/-- A wake of the domain is on its way. -/
def coming (d : Pd) : Bool := (decide (d.st = .waking) || d.wakeQueued) && !d.retired
/-- A wake for held work may choose this instance (R441). -/
def wakeable (d : Pd) : Bool :=
  (decide (d.st = .off) || d.closed) && !d.wakeQueued && !d.wakeWanted && !d.retired && !d.fenced && decide (d.policy ≠ .forceOff)

/-- One engine class a held entry needs `n` instances of: the lowest-numbered gated one wakes unless enough are awake or waking
(R441); the wake is charged, and deferred while it does not fit (R446). -/
def wakeOne (h n : Nat) (l : List Nat) (s : State) : State :=
  if n ≤ (l.filter (fun i => awake (pdOf s i) || coming (pdOf s i))).length then s else
  match l.find? (fun i => wakeable (pdOf s i)) with
  | some i => if capFits s h (setCharge [i]) then requestWake i s else capRefuse h s
  | none => s

/-- Wakes for a held entry: its need names one class, or two (R203, R441). -/
def wakeFor (h : Nat) (n : Need) (s : State) : State :=
  match n with
  | [] => s
  | [a] => wakeOne h 1 a s
  | a :: b :: _ => if a = b then wakeOne h 2 a (wakeOne h 1 a s) else wakeOne h 1 b (wakeOne h 1 a s)

/-- A held entry wakes what it needs. -/
def holdWake (h : Nat) (s : State) : State :=
  match (hamperOf s h).bind (waitingNeed s) with
  | some n => wakeFor h n s
  | none => s

/-- HOLD_WAKE (R441): the entry has been held for `HOLD_WAKE_US`. -/
def execHoldWake (h : Nat) (s : State) : Host.Outcome State Fault Refusal := .next (holdWake h s)

/-- A bank in RETAIN wakes 2 µs before a poll due to a ring held in it (R441). -/
def bankPrewake (r : Nat) (s : State) : State :=
  let g := ringOf s r
  let b := bankOf (entryAddr g g.tail)
  if g.state = .active ∧ g.poll ≠ 0 ∧ b < 8 ∧ (pdOf s (36 + b)).st = .retain then requestWake (36 + b) s else s

/-- BANK_PREWAKE (R441). -/
def execBankPrewake (ring : BitVec 16) (s : State) : Host.Outcome State Fault Refusal := .next (bankPrewake ring.toNat s)

/-- The scrubber visits every word of a bank in ascending address order (R373, R374). -/
def scrubBank (b : Nat) (s : State) : State :=
  (s.mem.latent.filter (fun c => bankOf c.1 == b)).foldl (fun s c => meetWord c.1 c.2 1 s) { s with mem := { s.mem with missed := s.mem.missed.filter (· != b) } }

/-- A domain reaches ON; under FORCE_OFF it is then closed, drained and gated (R440). A bank that has missed part of a pass is scrubbed in full
(R374). -/
def reachOn (i : Nat) (s : State) : State :=
  let s := modPd s i (fun d => { d with st := .on, tested := true, fenced := false, closed := decide (d.policy = .forceOff) })
  if 36 ≤ i ∧ i < 44 ∧ s.mem.missed.contains (i - 36) = true then scrubBank (i - 36) s else s

/-- Outcome codes of `HP_LAST_WR` (R66). -/
abbrev wrOk : Nat := 0xA5
abbrev wrBusy : Nat := 0x3C
abbrev wrDenied : Nat := 0x96
abbrev wrWake : Nat := 0x69
abbrev wrCrcFail : Nat := 0x0F
abbrev wrTruncated : Nat := 0xF0
abbrev wrLaneReset : Nat := 0x5A

/-- Record a write outcome: SEQ advances (R66, R106). -/
def recordWr (p opc outcome : Nat) (s : State) : State :=
  modPort s p (fun x => { x with lwSeq := (x.lwSeq + 1) % 0x10000, lwOpcode := opc, lwOutcome := outcome })

/-- A port is ON: the writes its sentinel discarded are recorded WAKE (R80). -/
def portAwake (p : Nat) (s : State) : State :=
  let l := (portOf s p).wakeRecords
  let s := modPort (reachOn (44 + p) s) p (fun x => { x with wakeRecords := [] })
  l.foldl (fun s o => recordWr p o wrWake s) s

/-- PORT_WAKE_DONE (R79). -/
def execPortWakeDone (p : Port) (s : State) : Host.Outcome State Fault Refusal :=
  .next (if (pdOf s (44 + p.val)).st = .waking then portAwake p.val s else s)

/-- Held work is given the next instance at once when a wake fails (R445). -/
def rewakeHeld (s : State) : State := s.hampers.foldl (fun s x => holdWake x.id s) s

/-- The wake runs the built-in self-test (R445): WAKE_BIST is set, it is the engine's first wake since the full reset that did not test
it, or the instance is fenced. -/
def wakeTests (d : Pd) : Bool := d.wakeBist || !d.tested || d.fenced

/-- An engine's wake ends: a test that fails retires the instance (R445, R449). -/
def engineAwake (i : Nat) (pass : Bool) (s : State) : State :=
  if !pass && wakeTests (pdOf s i) then rewakeHeld (retire i 2 s) else reachOn i s

/-- `PD_49` wakes: the start-up tests instantiate the DRBG anew (R285, R441). -/
def rngAwake (pass : Bool) (s : State) : State :=
  let s := reachOn 49 s
  if pass then { s with rng := { instantiate s.rng with stopped := false, restarting := false } }
  else raise 15 1 0 none { s with rng := { s.rng with stopped := true, restarting := false } }

/-- A wake completes. A bank, a port's logic and `PD_48` have no test that could fail (R436, R445). DESIGN CHOICE, log entry 47. -/
def wakeDone (i : Nat) (pass : Bool) (s : State) : State :=
  if (pdOf s i).st ≠ .waking then s
  else if i < 36 then engineAwake i pass s
  else if i < 44 then reachOn i s
  else if i < 48 then portAwake (i - 44) s
  else if i = 48 then
    let s := reachOn 48 s
    if s.mp.statusDue then s else startOps 16 s
  else rngAwake pass s

/-- DOMAIN_WAKE_DONE (R445). -/
def execDomainWakeDone (pd : Fin 50) (pass : Bool) (s : State) : Host.Outcome State Fault Refusal := .next (wakeDone pd.val pass s)

/-- A domain not ON within four times its latency has failed its wake test (R436, R445, R449). R449 retires engines and banks; a host
port's logic and the memory port have no retirement, so nothing more follows for them (DEDUCED, log entry 26). -/
def wakeTimeout (i : Nat) (s : State) : State :=
  if (pdOf s i).st ≠ .waking then s
  else if i < 36 then rewakeHeld (retire i 3 s)
  else if i < 44 then retire i 3 s
  else if i = 49 then raise 15 1 0 none (modPd { s with rng := { s.rng with stopped := true, restarting := false } } 49 (fun d => { d with st := .off }))
  else s

/-- WAKE_TIMEOUT (R436). -/
def execWakeTimeout (pd : Fin 50) (s : State) : Host.Outcome State Fault Refusal := .next (wakeTimeout pd.val s)

/-- A fenced instance is woken for its test 1 ms after its fence (R445). -/
def fenceRetest (i : Nat) (s : State) : State :=
  let d := pdOf s i
  if !d.fenced || d.retired || decide (d.policy = .forceOff) || d.running.isSome || d.suspended.isSome then s
  else if d.st = .on then modPd s i (fun d => { d with st := .waking, closed := false })
  else requestWake i s

/-- FENCE_RETEST (R445). -/
def execFenceRetest (e : Fin 36) (s : State) : Host.Outcome State Fault Refusal := .next (fenceRetest e.val s)

/-- The class of the first engine a need names (R454): 0 GCE, 1 SCE, 2 DE, 3 PK. -/
def needClass (n : Need) : Nat := dispatcherOf ((n.headD []).headD 0)

/-- A grant has waited longer than `AGE_LIMIT` for headroom (R446). -/
def capWait (h : Nat) (s : State) : State :=
  match (hamperOf s h).bind (waitingNeed s) with
  | some n => if capFits s h (needCharge n) then s else raise 16 4 (needClass n) ((hamperOf s h).map (·.domain)) s
  | none => s

/-- CAP_WAIT (R446). -/
def execCapWait (h : Nat) (s : State) : Host.Outcome State Fault Refusal := .next (capWait h s)

/-- The low octets of a temperature as an event's DETAIL carries it. -/
def tjDetail (tj : Int) : Nat := unsignedOf 16 tj

/-- The throttle begins at 115 °C and ends below 110 °C (R447). -/
def tjThrottle (tj : Int) (s : State) : State :=
  if 115 ≤ tj ∧ s.power.throttled = false then raise 16 0 (tjDetail tj) none { s with power := { s.power with throttled := true } }
  else if tj < 110 then { s with power := { s.power with throttled := false } } else s
/-- TJ_CRIT is raised at the first sample at or above 125 °C, with the temperature alarm (R427, R447). -/
def tjCritical (tj : Int) (s : State) : State :=
  if 125 ≤ tj then
    (if s.power.tjCritical then s
     else raise 16 1 (tjDetail tj) none (alarmAll { s with power := { s.power with tjCritical := true } }))
  else { s with power := { s.power with tjCritical := false } }

/-- TJ_SAMPLE (R447). -/
def execTjSample (tj : Int) (s : State) : Host.Outcome State Fault Refusal :=
  .next (tjCritical tj (tjThrottle tj { s with power := { s.power with tj := tj } }))

/-- IDLE_FLUSH (R442): no entry has resolved a handle for `IDLE_FLUSH_MS`. -/
def execIdleFlush (s : State) : Host.Outcome State Fault Refusal := .next (if s.power.idleFlushMs = 0 then s else emptyStore s)

/-- The DRBG is reseeded from the noise source (R284). -/
def drbgReseed (s : State) : State := { s with rng := reseeded s.rng }

/-- DRBG_RESEED (R284). -/
def execDrbgReseed (s : State) : Host.Outcome State Fault Refusal := .next (if rngReady s then drbgReseed s else s)

/-- The DRBG stops output; messages on the cipher engines complete ALARM_ERASED (R224, R285). DEDUCED, log entry 82. -/
def rngFail (s : State) : State :=
  if !rngReady s then s else
  let s := { s with rng := { s.rng with stopped := true, restarting := true } }
  raise 15 0 0 none ((List.range 16).foldl (fun s i => alarmEngine i s) s)

/-- RNG_HEALTH_FAIL (R285). -/
def execRngHealthFail (s : State) : Host.Outcome State Fault Refusal := .next (rngFail s)

/-- The source has restarted with its start-up tests; when they pass the DRBG is reseeded (R285). -/
def rngRestarted (pass : Bool) (s : State) : State :=
  if !s.rng.restarting then s
  else if pass then { s with rng := { reseeded s.rng with stopped := false, restarting := false } }
  else raise 15 1 0 none { s with rng := { s.rng with restarting := false } }

/-- RNG_RESTART_DONE (R285). -/
def execRngRestartDone (pass : Bool) (s : State) : Host.Outcome State Fault Refusal := .next (rngRestarted pass s)

/-- The octets a slot holds: its part of a key's value, zero in an empty slot (R297, R298). -/
def slotValue (s : State) (slot : Nat) : Bytes :=
  match slotKey s slot with
  | some c => slice c.2.value (64 * (slot - c.1)) 64
  | none => zeros 64
/-- An empty slot still holds the zero shares it was zeroed with (R297, R307). -/
def zeroShares (s : State) (slot : Nat) : Bool := (slotKey s slot).isNone && (s.mem.allZeroed || s.mem.zeroed.contains slot)
/-- Share B of a slot: zero since the slot was zeroed, else a mask of the Whisk's present pass or of the load, which is free (R297, R307;
DESIGN CHOICE, log entry 5). -/
def shareB (s : State) (slot : Nat) : Bytes :=
  if zeroShares s slot then zeros 64 else (List.range 64).map (fun j => Config.whiskMask s.mem.whiskPass slot j)
/-- Share A of a slot: its octets under share B (R297). DESIGN CHOICE, log entry 5. -/
def shareA (s : State) (slot : Nat) : Bytes := xorBytes (slotValue s slot) (shareB s slot)

/-- The DRS shares fail (R307, R316): the root is unusable and SHARE_FAULT is raised. -/
def drsFault (s : State) : State := raise 13 1 0 none (modThermos s (fun t => { t with drsOk := false }))

/-- A pass of the Whisk re-masks every slot and the DRS shares with fresh masks; slots whose shares fail are dropped (R307, R312). It
pauses while the DRBG is stopped. DESIGN CHOICE, log entry 5. -/
def whiskRun (shareOk : Bool) (errs : List Nat) (ms : Nat) (s : State) : State :=
  if !rngReady s then s else
  let s := { s with mem := { s.mem with whiskPass := s.mem.whiskPass + 1, whiskLastMs := sat 1023 ms, allZeroed := false, zeroed := [] } }
  let s := modThermos (afterDraw s 32) (fun t => { t with drsMask := xorBytes t.drsMask (drawn s 32) })
  let s := errs.foldl (fun s h => dropKey h s) s
  if shareOk then s else drsFault s

/-- WHISK_PASS (R307). -/
def execWhiskPass (shareOk : Bool) (slotErrs : List Nat) (ms : Nat) (s : State) : Host.Outcome State Fault Refusal :=
  .next (whiskRun shareOk slotErrs ms s)

/-- WHISK_STALL (R307, R442): the pass timer is held while `PD_49` is gated. -/
def execWhiskStall (s : State) : Host.Outcome State Fault Refusal := .next (if (pdOf s 49).st = .on then raise 13 0 0 none s else s)

/-- THERMOS_ECC at the severity its record has (R378, R414). -/
def thermosEcc (o sev : Nat) (s : State) : State := raiseSev 14 6 (o / 64) sev none s

/-- The meter control record rebuilt (R378). -/
def rebuildMeter (s : State) : State :=
  modThermos s (fun t => { t with
    intervalS := 3600, nextIntervalS := 0, boundaryMono := (s.mono / intervalTicks 3600 + 1) * intervalTicks 3600,
    recSeq := (t.backlog.map (fun m => m.seq + 1)).foldl max 0, cleanStop := false, debugSeen := false })

/-- Engine or bank of a retirement entry: the inverse of KIND and INDEX (R452). -/
def retiredPd (r : RetireRec) : Option Nat :=
  match r.kind with
  | 1 => some r.index
  | 2 => some (16 + r.index)
  | 3 => some (24 + r.index)
  | 4 => some (36 + r.index)
  | _ => none

/-- A lost retirement entry returns its instance to service, to be tested at its next wake (R452). -/
def dropRetirement (k : Nat) (s : State) : State :=
  match s.thermos.retirements[k]? with
  | none => s
  | some r =>
    let s := modThermos s (fun t => { t with retirements := t.retirements.eraseIdx k })
    match retiredPd r with
    | none => s
    | some i =>
      if s.power.otpRetired.contains i then s
      else
        let s := modPd s i (fun d => { d with retired := false, tested := false })
        { s with power := { s.power with degraded := !complementMet s } }

/-- A lost remap entry is dropped: bank, spare (R378). -/
def dropRemap (b j : Nat) (s : State) : State :=
  modThermos s (fun t => { t with remaps := t.remaps.filter (fun c => !(c.1 == b && c.2.1 == j)), badSpares := t.badSpares.filter (· != (b, j)) })

/-- An uncorrectable repair-map record by its offset (R452). -/
def strikeRepair (o : Nat) (s : State) : State :=
  if 0x2040 ≤ o ∧ o < 0x2440 then dropRetirement ((o - 0x2040) / 16) s
  else if 0x2440 ≤ o ∧ o < 0x2C40 then dropRemap ((o - 0x2440) / 256) ((o - 0x2440) % 256 / 8) s
  else s

/-- An uncorrectable Thermos record at run time, by its offset (R308, R357, R378). DEDUCED, log entry 29. -/
def strikeThermos (o : Nat) (s : State) : State :=
  let s := recordUe o 8 1 s
  if 0x40 ≤ o ∧ o < 0xC0 then thermosEcc o 4 (modThermos s (fun t => { t with drsOk := false }))
  else if 0x100 ≤ o ∧ o < 0x300 then thermosEcc o 2 (modThermos s (fun t => { t with recoveryOk := false }))
  else if 0x4000 ≤ o ∧ o < 0x44000 then
    let d := (o - 0x4000) / 256
    raise 12 5 d (some d) (modDom s d failedEntry)
  else
    let s :=
      if 0x300 ≤ o ∧ o < 0x340 then modThermos s (fun t => { t with offset := 0, wallSet := false })
      else if 0x340 ≤ o ∧ o < 0x380 then rebuildMeter s
      else if 0x1000 ≤ o ∧ o < 0x2000 then { s with journal := none }
      else if 0x2000 ≤ o ∧ o < 0x4000 then strikeRepair o s
      else if 0x44000 ≤ o ∧ o < 0x4C000 then modThermos s (fun t => { t with backlog := t.backlog.eraseIdx ((o - 0x44000) / 128) })
      else s
    thermosEcc o 1 s

/-- A key-store error the scrubber finds: one bit is corrected, more drop the key (R312, R371, R376). DEDUCED, log entry 73. -/
def scrubSlot (h n : Nat) (s : State) : State :=
  if n = 1 then raise 7 0 8 none { s with mem := { s.mem with ceCount := sat 0xFFFFFFFF (s.mem.ceCount + 1) } }
  else dropKey h (recordUe h 7 1 s)

/-- The errors a pass finds, by what they strike: a Pantry or Larder address stands for itself, 0x4000_0000 + handle for a slot of the key
store, 0x5000_0000 + offset for the Thermos (R373). -/
def errsIn (lo hi : Nat) (errs : List (Nat × Nat)) : List (Nat × Nat) :=
  errs.filter (fun c => decide (lo ≤ c.1) && decide (c.1 < hi) && (c.2 == 1 || c.2 == 2))

/-- Errors of Pantry words that this pass is the first to find. -/
def addLatent (errs : List (Nat × Nat)) (s : State) : State :=
  { s with mem := { s.mem with latent := errs.foldl (fun l c => assocPut l (c.1 / 8 * 8) c.2) s.mem.latent } }
/-- Part 1 (R373, R374): the banks in ascending address order; a gated one is skipped and has missed the pass. -/
def scrubPantry (errs : List (Nat × Nat)) (s : State) : State :=
  (List.range 8).foldl (fun s b =>
    if (pdOf s (36 + b)).st = .on then scrubBank b (addLatent (errs.filter (fun c => bankOf c.1 == b)) s)
    else { s with mem := { s.mem with missed := insertNat s.mem.missed b } }) s
/-- Part 4 (R373): the written lines of the Larder, in ascending order. -/
def scrubLines (errs : List (Nat × Nat)) (s : State) : State :=
  if !s.mem.scrubLarder then s else
  let bad := (errs.filter (fun c => c.2 == 2 && s.mem.written.contains (c.1 / 256 * 256))).map (fun c => c.1 / 256 * 256)
  ((s.mem.badTags ++ bad).foldl insertNat []).foldl (fun s u => if s.mem.poison.contains u then s else failLine u s) s

/-- A pass of the scrubber (R373, R374), its four parts in order. -/
def scrubPass (errs : List (Nat × Nat)) (s : State) : State :=
  let s := scrubPantry (errsIn 0 0x01000000 errs) s
  let s := (errsIn 0x40000000 0x50000000 errs).foldl (fun s c => scrubSlot (c.1 - 0x40000000) c.2 s) s
  let s := ((errsIn 0x50000000 0x60000000 errs).filter (fun c => c.2 == 2)).foldl (fun s c => strikeThermos (c.1 - 0x50000000) s) s
  let s := scrubLines (errsIn 0x10000000 0x14000000 errs) s
  { s with mem := { s.mem with scrubPasses := (s.mem.scrubPasses + 1) % 0x10000, scrubProgress := 100, scrubMark := s.mono } }

/-- SCRUB_PASS (R373). -/
def execScrubPass (errs : List (Nat × Nat)) (s : State) : Host.Outcome State Fault Refusal := .next (scrubPass errs s)

/-- SCRUB_LATE (R374). -/
def execScrubLate (s : State) : Host.Outcome State Fault Refusal := .next (raise 7 6 0 none s)

end Sys2Proof.Machine
end

