-- ==== Sys2Proof/Machine/Boot.lean ====
section
/-! DEFINITION. Resets and start-up: what a reset clears and keeps, the boot sequence, the mode decision, bootstrap views, grants and
layout at step 12, host-reset release (R13, R32, R34, R40, R115 to R125, R248, R252, R280, R296, R309, R330, R338, R389, R474). -/

namespace Sys2Proof.Machine

/-- POWER_ON_RESET (R32). -/
def execPowerOnReset (s : State) : Host.Outcome State Fault Refusal := .next (powerOn s)

/-- The levels of `RECOV_N` and `TEST_MODE` that the board drives at t = 0 (R34, R85). DESIGN CHOICE, log entry 85. -/
def setStraps (b : BootEnv) (s : State) : State :=
  { s with board := { s.board with recovN := b.recovN.getD s.board.recovN, testMode := b.testMode.getD s.board.testMode } }

/-- At t = 0 the straps are sampled, and `MP_XSEL_N` and VDDIO_MP are watched from then on (R22, R33, R34). -/
def sampleStraps (s : State) : State :=
  { s with
    board := { s.board with recovSampled := s.board.recovN, testSampled := s.board.testMode }
    mp := { s.mp with holdActive := !s.board.xselN && s.board.recovN, holdSince := s.mono, supplyLost := !s.board.vddioMpOk } }

/-- Step 2: the always-on BIST; ports begin answering at its end (R118). DEDUCED, log entry 68. -/
def stepAon (b : BootEnv) (s : State) : State :=
  let s := { s with boot := { s.boot with answering := true, aonFailed := !b.aonBistOk } }
  let s := (List.range 4).foldl (fun s p => modPd s (44 + p) (fun d => { d with st := .on, tested := true })) s
  if b.aonBistOk then s else modThermos s (fun t => { t with quarantine := true })

/-- A spare row fails its test at step 3: it is unusable; the row it should have replaced takes another free spare, or stays (R449). A
spare row's retirement is logged with KIND 5 (R452; DESIGN CHOICE, log entry 28 for its INDEX). -/
def failSpare (c : Nat × Nat) (s : State) : State :=
  if s.thermos.badSpares.contains c then s else
  let row := ((s.thermos.remaps.find? (fun r => r.1 == c.1 && r.2.1 == c.2)).orElse
    (fun _ => s.mem.factoryRemaps.find? (fun r => r.1 == c.1 && r.2.1 == c.2))).map (·.2.2)
  let factory := s.mem.factoryRemaps.any (fun r => r.1 == c.1 && r.2.1 == c.2)
  let s := modThermos s (fun t => { t with
    remaps := t.remaps.filter (fun r => !(r.1 == c.1 && r.2.1 == c.2)), badSpares := if factory then t.badSpares else t.badSpares ++ [c] })
  let s := logRetirement s 5 (Config.spareIndex c.1 c.2 % 256) 1
  match row, freeSpare s c.1 with
  | some r, some j => modThermos s (fun t => { t with remaps := t.remaps ++ [(c.1, j, r)] })
  | _, _ => s

/-- Step 3: retirements from OTP and the repair map are applied, spare rows are tested (R118, R448). -/
def stepRepair (b : BootEnv) (s : State) : State :=
  let out := s.power.otpRetired ++ s.thermos.retirements.filterMap retiredPd
  let s := out.foldl (fun s i => modPd s i (fun d => { d with retired := true })) s
  noteDegraded ((b.badSpares.filter (fun c => decide (c.1 < 8) && decide (c.2 < 32))).foldl (fun s c => failSpare c s) s)

/-- Step 4: the entropy source's start-up tests, retried once; the DRBG is instantiated (R118, R284, R285). -/
def stepEntropy (b : BootEnv) (s : State) : State :=
  if b.entropyOk then modPd { s with rng := { instantiate s.rng with stopped := false } } 49 (fun d => { d with st := .on, tested := true })
  else raise 15 1 0 none { s with boot := { s.boot with entropyFailed := true } }

/-- An interrupted two-phase write (R309): a journal whose marker and CRC are valid is copied again, which JOURNAL_REPLAYED tells (R337); any
other is discarded. DEDUCED, log entry 50. -/
def replayJournal (s : State) : State :=
  match s.journal with
  | some j =>
    let s := { s with journal := none }
    if j.marked then raise 20 2 j.detail (if j.detail < 1024 ∧ j.detail ≠ 0x3FF then some j.detail else none) { s with thermos := j.after } else s
  | none => s

/-- The recovery record counts as holding no valid claim (R309); EPOCH_FLOOR is taken anew (R474). -/
def loseRecovery (s : State) : State :=
  modThermos s (fun t => { t with
    recoveryOk := false, claimed := false, opPort := 0, opAlg := 0, quarantine := false, debugPending := false, reRooted := false, sessions := 0,
    opCounter := 0, opAnchor := none, opLastEnv := [], release := releaseDefault, qCause := 0,
    epochFloor := ((t.domains.filter (fun c => !c.2.failed)).map (fun c => c.2.epoch)).foldl max 0 + 65536 })

/-- A Thermos record that fails at step 5, by its offset (R309; DEDUCED, log entry 29 for the records it does not name). -/
def failRecord (o : Nat) (s : State) : State :=
  if 0x40 ≤ o ∧ o < 0xC0 then modThermos s (fun t => { t with drsOk := false, quarantine := true })
  else if 0x100 ≤ o ∧ o < 0x300 then modThermos s (fun t => { t with recoveryOk := false })
  else if 0x4000 ≤ o ∧ o < 0x44000 then modDom s ((o - 0x4000) / 256) failedEntry
  else if o < 0x4C000 then strikeThermos o s
  else s

/-- Step 5: an interrupted write is completed or discarded, the Thermos is checked; causes 2 and 3 of every suspension end; the pass of a
TIME_SET that was cut short runs again (R118, R296, R309, R332). DEDUCED, log entry 29. DEDUCED, log entry 50. -/
def stepThermos (b : BootEnv) (s : State) : State :=
  let s := b.badRecords.foldl (fun s o => failRecord o s) (replayJournal s)
  let s := modThermos s (fun t => { t with domains := t.domains.map (fun c => (c.1, setCauses (c.2.suspend % 2) c.2)) })
  let s := endTimeSet s
  let s := if s.thermos.valid && !s.thermos.recoveryOk then loseRecovery s else s
  (s.thermos.domains.filter (fun c => c.2.failed)).foldl (fun s c => raise 12 5 c.1 (some c.1) s) s

/-- Steps 6 and 8 to 11 are skipped (R118). -/
def bootSkips (s : State) : Bool := s.boot.aonFailed || s.boot.entropyFailed || !drsPresent s

/-- Step 6: the per-boot keys come from a fresh BOOT_ID (R118, R292). -/
def stepRoot (s : State) : State :=
  if bootSkips s then s else afterDraw { s with boot := { s.boot with bootId := drawn s 8 } } 8

/-- Step 7: the Pantry is zeroed; a bank with a fault its spare rows cannot hold is retired (R118, R449). DEDUCED, log entry 69. -/
def stepPantry (b : BootEnv) (s : State) : State :=
  let s := (b.badBanks.filter (· < 8)).foldl (fun s k => retire (36 + k) 5 s) s
  (List.range 8).foldl (fun s k => modPd s (36 + k) (fun d => { d with st := if d.retired then .off else .on, tested := true })) s

/-- Steps 8 and 9 on one class: the lowest instance in service is tested; one that fails is retired and the next is tested (R118). -/
def testClass (b : BootEnv) : List Nat → State → State
  | [], s => s
  | i :: t, s =>
    if (pdOf s i).retired then testClass b t s
    else if b.badEngines.contains i then testClass b t (retire i 1 s)
    else modPd s i (fun d => { d with st := .on, tested := true })

/-- Steps 8 and 9 (R118). DEDUCED, log entry 69. -/
def stepEngines (b : BootEnv) (s : State) : State :=
  if bootSkips s then s else testClass b pkPds (testClass b digestPds (testClass b shuffledPds (testClass b guardedPds s)))

/-- Discovery finds a flash that R383 supports. -/
def discovered (b : BootEnv) : Bool := b.sfdpOk && decide (25 ≤ b.densityLog2) && decide (b.densityLog2 ≤ 28)
/-- The densities of PSRAM that R364 supports. -/
def psramSize (n : Nat) : Nat := if n = 8 ∨ n = 16 ∨ n = 32 ∨ n = 64 then n else 0

/-- Step 10: discovery of the flash and the PSRAM (R118, R364, R384, R385); not in a reset that enters RECOVERY. -/
def stepDiscovery (b : BootEnv) (s : State) : State :=
  if bootSkips s || !s.board.recovSampled then s else
  let ok := discovered b
  let us := b.suspendUs.getD 65
  let susp := ok && decide (us ≤ 64)
  let m := { s.mp with
    rstReleased := true, flashOk := ok, densityLog2 := if ok then b.densityLog2 else 0, readDummy := if ok then b.readDummy % 0x10000 else 0,
    flashId := if ok then b.flashId else 0, eraseMaxMs := if ok then b.eraseMaxMs % 0x10000 else 0, suspendUs := if susp then us else 0,
    suspendOk := susp, sfdpTimes := if ok then b.sfdpTimes else 0 }
  let s := modPd { s with mp := m, mem := { s.mem with larderMB := psramSize b.psramMB } } 48 (fun d => { d with st := .on, tested := true })
  if !ok then raise 4 0 0 none s else if susp then s else raise 4 5 0 none s

/-- Steps 1 to 10 of BOOT (R118). The PLL that does not lock ends the sequence until a retry (R40). -/
def bootSteps (b : BootEnv) (s : State) : State :=
  if !b.pllLocks then s else
  let s := { s with board := { s.board with pllLocked := true } }
  stepDiscovery b (stepEngines b (stepPantry b (stepRoot (stepThermos b (stepEntropy b (stepRepair b (stepAon b s)))))))

/-- A full reset of any cause, up to step 10 of its BOOT. -/
def fullReset (cause : Nat) (b : BootEnv) (s : State) : State := bootSteps b (sampleStraps (setStraps b (clearedState cause s)))

/-- POR_RELEASE (R34): t = 0 of a power-on reset. -/
def execPorRelease (b : BootEnv) (s : State) : Host.Outcome State Fault Refusal :=
  .next (if s.board.porHigh then s else bootSteps b (sampleStraps (setStraps b { s with board := { s.board with porHigh := true } })))

/-- PLL_LOCK_RETRY (R40). -/
def execPllLockRetry (b : BootEnv) (s : State) : Host.Outcome State Fault Refusal :=
  .next (if s.boot.mode = .boot ∧ s.board.porHigh = true ∧ s.board.pllLocked = false then bootSteps b s else s)

/-- The completion that causes a full reset has been written: its hamper has left (R123). -/
def causeWritten (s : State) : Bool := match s.boot.resetBy with | some h => (hamperOf s h).isNone | none => true

/-- DEVICE_FULL_RESET (R117, R123, R422): 1 ms after the completion that caused it, or within 1 ms of a FATAL watchdog failure. A
device-started reset is preceded by a checkpoint (R353). -/
def deviceReset (b : BootEnv) (s : State) : State :=
  if s.boot.mode = .boot then s
  else if s.boot.fatal then fullReset 2 b s
  else if s.boot.resetPending && causeWritten s then fullReset 1 b (checkpoint s)
  else s
/-- DEVICE_FULL_RESET (R123). -/
def execDeviceFullReset (b : BootEnv) (s : State) : Host.Outcome State Fault Refusal := .next (deviceReset b s)

/-- A watchdog's full reset: a checkpoint, then BOOT with RESET_CAUSE 0b10 (R422, R426). -/
def watchdogReset (b : BootEnv) (s : State) : State := if s.boot.mode = .boot then s else fullReset 2 b (checkpoint s)
/-- SEQ_WDT_EXPIRE (R426). -/
def execSeqWdtExpire (b : BootEnv) (s : State) : Host.Outcome State Fault Refusal := .next (watchdogReset b s)

/-- The Thermos and the clock after the backup node lost power (R309, R338). DEDUCED, log entry 30. -/
def lostNode (s : State) : State :=
  { s with
    thermos := { valid := false, drsOk := false, release := releaseDefault, boundaryMono := 3600 * 32768, quarantine := true,
                 epochFloor := 65536, tableLost := true }
    journal := none
    mono := 0
    health := s.health.set 14 (healthReset 14) }
/-- BACKUP_NODE_POWER_UP (R338): the device restarts with it, through BOOT where `POR_N` is high (DEDUCED, log entry 30). -/
def execBackupNodePowerUp (b : BootEnv) (s : State) : Host.Outcome State Fault Refusal :=
  .next (if s.board.porHigh then fullReset 0 b (lostNode s) else powerOn (lostNode s))

/-- The mode that step 12 reaches (R116). -/
def decideMode (s : State) : Mode :=
  let l := lifecycle s
  if l = .scrapped then .quarantine
  else if l = .factoryOpen ∧ s.board.testSampled = true then .factory
  else if s.board.recovSampled = false then .recovery
  else if s.thermos.quarantine || !drsPresent s || s.boot.aonFailed || s.boot.entropyFailed then .quarantine
  else if s.thermos.debugPending ∧ l = .claimed then .debug
  else .operational

/-- Step 11: every domain's issue counter resumes at its mark with a fresh reserve; after an unclean stop RESERVE_RESUMED is raised
(R118, R280, R290). -/
def resumeIssue (s : State) : State :=
  if bootSkips s then s else
  (meterDomains s).foldl (fun s d =>
    let m := (domOf s d).issueMark
    let s := modDom { s with issue := assocPut s.issue d m } d (fun r => { r with issueMark := m + 256 })
    if s.thermos.cleanStop then s else raise 11 5 d (some d) s) s

/-- Flags of the Thermos that entering a mode changes (R116, R128, R134). -/
def enterFlags (m : Mode) (s : State) : State :=
  match m with
  | .recovery => modThermos s (fun t => { t with debugPending := false })
  | .debug => modThermos s (fun t => { t with debugPending := false, sessions := sat 255 (t.sessions + 1), debugSeen := true })
  | .quarantine => modThermos s (fun t => { t with quarantine := true })
  | .factory | .operational | .boot => s

/-- A claim committed in RECOVERY has its empty manifest written (R329; DEDUCED, log entry 21). -/
def settleClaim (s : State) : State :=
  if (domOf s 0).state ≠ 0 ∧ (domOf s 0).manifestCell = 0xFFFFFFFF ∧ s.mp.flashOk = true then
    arcState (writeChange true true (emptyManifest 0 (domOf s 0).epoch) s)
  else s

/-- Read the layout: HOST regions and snoop windows; the default layout where there is none or it cannot be read (R252, R389). DEDUCED, log entry 23. -/
def readLayout (s : State) : List Region × State :=
  if lifecycle s ≠ .claimed then ([], s) else
  match readDevice s layoutHandle with
  | .ok (some k) => (layoutOf (k.value.take k.param), s)
  | .ok none => ([], s)
  | .error f => ([], raise 12 0 0 (some 0) (if f.event = some 1 then loadEvent 0 f s else s))

/-- Window `w` as the layout defines it: ARMED, or MEASURING when EAGER (R252). -/
def snoopOf (l : List Region) (w : Nat) : Snoop :=
  match l.find? (fun r => r.kind == 3 && r.index == w) with
  | some r => { state := if bit r.attr 0 then 2 else 1, base := r.base, length := r.length, eager := bit r.attr 0 }
  | none => {}

/-- The layout takes effect (R252, R389); no snoop window without a flash. -/
def applyLayout (s : State) : State :=
  let x := readLayout s
  { x.2 with
    mp := { x.2.mp with layout := x.1.filter (fun r => r.kind != 3) }
    snoops := if x.2.mp.flashOk then (List.range 8).map (snoopOf x.1) else x.2.snoops }

/-- The grants a claimed device restores: the grant set, the claim's own grant while no PORT_GRANT has committed, or the operator port's
fallback (R127, R330). DEDUCED, log entry 51. -/
def readGrants (s : State) : (Nat → Grant) × State :=
  let fall := fun p => if p = s.thermos.opPort then bootGrant p else ({} : Grant)
  match readDevice s grantHandle with
  | .ok (some k) => (fun p => grantOf (slice k.value (320 * p) 320), s)
  | .ok none => (fall, s)
  | .error f => (fall, raise 12 0 0 (some 0) (if f.event = some 1 then loadEvent 0 f s else s))

/-- Grants and personalities take effect; ABSENT is raised for Larder granules that are not there (R81, R330, R369). DEDUCED, log entry 51. -/
def applyGrants (s : State) : State :=
  if lifecycle s ≠ .claimed then s else
  let x := readGrants s
  let s := (List.range 4).foldl (fun s p => modPort s p (fun o => { o with grant := x.1 p, xip := (x.1 p).xip })) x.2
  if (List.range 4).any (fun p => (x.1 p).larder.any (fun g => decide (larderGranules s ≤ g))) then raise 8 1 0 none s else s

/-- The bootstrap view of a port (R124). -/
def openView (p : Nat) (s : State) : State :=
  setRing (modPort s p (fun o => { o with grant := bootGrant p, bootstrap := true })) p (bootRing p)

/-- Bootstrap views by the mode (R124). DEDUCED, log entry 51. DEDUCED, log entry 69. -/
def openViews (m : Mode) (s : State) : State :=
  match m with
  | .recovery => openView 0 s
  | .operational => if lifecycle s = .claimed then s else (List.range 4).foldl (fun s p => openView p s) s
  | .factory | .debug | .quarantine | .boot => s

/-- Banks that hold an allocation are not OFF (R361). -/
def wakeAllocated (s : State) : State :=
  (List.range 8).foldl (fun s b => if bankAllocated s b && decide ((pdOf s (36 + b)).st = .off) then requestWake (36 + b) s else s) s

/-- The release policy in force for a port: DELAY, HOLD, IN_RECOVERY (R122, R138). -/
def releaseOf (s : State) (p : Nat) : Nat × Bool × Bool :=
  (if lifecycle s = .claimed then s.thermos.release else releaseDefault).getD p (0, false, false)

/-- Step 12 for a port's host-reset output: released at once, after DELAY, or held (R122). -/
def releaseHost (m : Mode) (p : Nat) (s : State) : State :=
  let r := releaseOf s p
  let goes := decide (m = .factory) || (!r.2.1 && (decide (m ≠ .recovery) || r.2.2))
  let now := decide (m = .factory) || r.1 == 0
  modPort s p (fun o => { o with hrstReleased := goes && now, hrstPending := goes && !now })

/-- Step 12 of BOOT: the mode is decided and set; manifest, layout, grants and views follow; in RECOVERY the memory port is handed over
(R116, R132). -/
def enterMode (s : State) : State :=
  let m := decideMode s
  let s := enterFlags m (resumeIssue s)
  let s := { s with boot := { s.boot with mode := m, testRoot := decide (m = .debug) || decide (m = .factory), aliveStopped := decide (m = .quarantine) } }
  let s := if m = .recovery then { s with mp := { s.mp with rstReleased := true } } else applyGrants (applyLayout (settleClaim s))
  let s := wakeAllocated (openViews m s)
  let s := if m = .operational ∧ bootSkips s = false then restoreMeters s else s
  (List.range 4).foldl (fun s p => releaseHost m p s) s

/-- BOOT_COMPLETE (R116). -/
def execBootComplete (s : State) : Host.Outcome State Fault Refusal :=
  .next (if s.boot.mode = .boot ∧ s.boot.answering = true then enterMode s else s)

/-- HRST_RELEASE (R122): DELAY has passed. -/
def execHrstRelease (p : Port) (s : State) : Host.Outcome State Fault Refusal :=
  .next (if (portOf s p.val).hrstPending then modPort s p.val (fun o => { o with hrstReleased := true, hrstPending := false }) else s)

end Sys2Proof.Machine
end

