-- ==== Sys2Proof/Machine/Faults.lean ====
section
/-! DEFINITION. Alarms, tamper, the Egg timers and their reclaim, supply and battery events, fault injection, the TAP (R26, R27, R33,
R46, R96, R281, R353, R420 to R433). -/

namespace Sys2Proof.Machine

/-- Start a port's Egg timer count anew (R421). -/
def restartCount (p : Nat) (s : State) : State := modPort s p (fun x => { x with wdt := { x.wdt with start := s.mono } })

/-- A QUIESCE hold lifts; R163 then applies to the port's rings (R422). -/
def liftHold (p : Nat) (s : State) : State :=
  if (portOf s p).wdt.quiesced then
    readRings (fun g => g.port == p) (modPort s p (fun x => { x with wdt := { x.wdt with quiesced := false } }))
  else s

/-- One admitted hamper of a reclaimed port (R423, step 4): a public-key operation runs on, a cipher or digest message stops, what has
begun without an engine stops, the rest is not started. DEDUCED, log entry 67. -/
def reclaimHamper (h : Nat) (s : State) : State :=
  match hamperOf s h with
  | none => s
  | some x =>
    let rest : Done := { status := stReclaim, detail := 4 }
    if !x.admitted || hamperStopped x then s
    else if x.engines.any (fun i => 24 ≤ i) && (currentEntry x).all (fun t => opcode t.bytes != 0x50) then
      modHamper s h (fun y => { y with reclaimed := true })
    else
      let s :=
        if (x.staged ≠ [] ∨ x.engines ≠ []) ∧ (currentEntry x).any (fun t => opcode t.bytes == 0x50) = true then
          finishEntry s h { status := stReclaim, detail := 5 }
        else if x.engines ≠ [] then strikeHamper h stReclaim 5 s
        else if x.hashed || x.drawn.isSome then finishEntry s h { status := stReclaim, detail := 5 }
        else s
      match hamperOf s h with
      | some y => closeHamper s y rest
      | none => s

/-- Part-state records and context exports of a port's rings are freed (R423, step 5). -/
def freeParts (p : Nat) (s : State) : State :=
  { s with
    cipherParts := s.cipherParts.filter (fun c => c.2.port != p)
    digestParts := s.digestParts.filter (fun c => c.2.port != p)
    cipherOut := s.cipherOut.filter (fun c => c.2.state.port != p)
    digestOut := s.digestOut.filter (fun c => c.2.state.port != p) }

/-- The rings bound to a port, in rising order. -/
def ringsOf (s : State) (p : Nat) : List Nat := (s.rings.filter (fun c => c.2.port == p)).map (·.1)

/-- A reclaim of a port (R423). -/
def reclaim (p : Nat) (s : State) : State :=
  let rs := ringsOf s p
  let s := rs.foldl (fun s r => if (ringOf s r).state = .active then modRing s r (fun g => { g with state := .paused }) else s) s
  let s := rs.foldl (fun s r => abortUnadmitted r stReclaim (fun x => if x.closedRun then 1 else 3) s) s
  let s := rs.foldl (fun s r => if (ringOf s r).state = .paused then walkRing r stReclaim s else s) s
  let s := (s.hampers.filter (fun x => x.port == p)).foldl (fun s x => reclaimHamper x.id s) s
  freeParts p s

/-- The action of a failure is in force (R422). -/
def setActing (p : Nat) (s : State) : State := modPort s p (fun x => { x with wdt := { x.wdt with acting := true } })

/-- A failure of a port's Egg timer: recorded, the count restarted, ACTION carried out (R422, R425). FATAL writes its checkpoint and
leaves the full reset due. -/
def wdtFail (p cause : Nat) (s : State) : State :=
  let s := modPort s p (fun x => { x with wdt := { x.wdt with
    fails := sat 15 (x.wdt.fails + 1), cause := cause, start := s.mono, half := false } })
  let s := raise p 6 cause none s
  match (portOf s p).wdt.action with
  | 1 => setActing p (modPort s p (fun x => { x with wdt := { x.wdt with quiesced := true } }))
  | 2 => setActing p (reclaim p s)
  | 3 => let s := checkpoint s
         { s with boot := { s.boot with fatal := true } }
  | _ => s

/-- A service completes (R421): the count restarts, HALF and ACTING clear, a QUIESCE hold lifts. -/
def wdtServed (p : Nat) (s : State) : State :=
  liftHold p (modPort s p (fun x => { x with wdt := { x.wdt with start := s.mono, half := false, acting := false } }))

/-- A write of `WDT_SVC` (R421). -/
def wdtKey (p key : Nat) (s : State) : State :=
  let w := (portOf s p).wdt
  if !w.en || !wdtCounts s then s
  else if key = 0x6E3A then
    (if w.half then wdtFail p 3 s
     else if !wdtOpen s p then wdtFail p 4 s
     else modPort s p (fun x => { x with wdt := { x.wdt with half := true } }))
  else if key = 0x91C5 then (if w.half then wdtServed p s else wdtFail p 3 s)
  else wdtFail p 2 s

/-- EN and ACTION are written (R421). -/
def wdtControl (p : Nat) (en : Bool) (action : Nat) (s : State) : State :=
  let was := (portOf s p).wdt.en
  let s := modPort s p (fun x => { x with wdt := { x.wdt with en := en, action := action } })
  if en then (if was then s else restartCount p s)
  else liftHold p (modPort s p (fun x => { x with wdt := { x.wdt with half := false, acting := false } }))

/-- A FATAL failure's full reset begins (R422). -/
def fatalReset (b : BootEnv) (s : State) : State := if s.boot.fatal then fullReset 2 b s else s

/-- The count reaches TIMEOUT_MS (R421, R422); that time has then passed. DESIGN CHOICE, log entry 33. -/
def wdtTimeout (p : Nat) (b : BootEnv) (s : State) : State :=
  let w := (portOf s p).wdt
  if w.en && wdtCounts s then fatalReset b (wdtFail p 1 (elapseTo (w.start + msTicks w.timeoutMs) s)) else s

/-- WDT_TIMEOUT (R422). -/
def execWdtTimeout (p : Port) (b : BootEnv) (s : State) : Host.Outcome State Fault Refusal := .next (wdtTimeout p.val b s)

/-- LOCK is set for a port's timer: the values are copied, the timer runs from 0 (R424). -/
def lockTimer (q action : Nat) (s : State) : State :=
  modPort s q (fun x => { x with wdt := { x.wdt with
    lock := true, lockAction := action, action := action, en := true, start := s.mono,
    timeoutMs := x.wdt.lockCfg.toNat / 0x10000, windowMs := x.wdt.lockCfg.toNat % 0x10000 } })

/-- A glitch alarm enters the count of the last second (R428, R429). -/
def noteGlitch (s : State) : State := { s with board := { s.board with glitches := recentGlitches s ++ [s.mono] } }

/-- A glitch alarm: every engine is erased, the CLK event raised (R427, R428). -/
def glitchAlarm (src detail : Nat) (s : State) : State := raise 17 src detail none (alarmAll (noteGlitch s))

/-- CLOCK_GLITCH (R427). -/
def execClockGlitch (detail : Fin 3) (s : State) : Host.Outcome State Fault Refusal :=
  .next (if s.board.porHigh then glitchAlarm 0 detail.val s else s)
/-- SUPPLY_GLITCH (R427). -/
def execSupplyGlitch (detail : Fin 2) (s : State) : Host.Outcome State Fault Refusal :=
  .next (if s.board.porHigh then glitchAlarm 1 detail.val s else s)
/-- A parity fault erases the engine it strikes; one that holds no work raises ALARM_ERASE alone (R427). -/
def parityFault (i : Nat) (s : State) : State :=
  if (pdOf s i).running.isSome then alarmEngine i s else raise (engineBlock i).1 0 (engineBlock i).2 none s
/-- PARITY_FAULT (R427). -/
def execParityFault (e : Fin 36) (s : State) : Host.Outcome State Fault Refusal := .next (parityFault e.val s)

/-- The RTC stops: with VDD_AON present the event is raised and the open records carry UNCLEAN_STOP (R428). -/
def rtcStop (s : State) : State :=
  if !s.board.rtcRunning then s else
  let s := { s with board := { s.board with rtcRunning := false } }
  if s.board.porHigh then
    raise 17 2 0 none ((meterDomains s).foldl (fun s d => modDom s d (fun r => { r with unclean := true })) s)
  else s
/-- RTC_STOP (R428). -/
def execRtcStop (s : State) : Host.Outcome State Fault Refusal := .next (rtcStop s)
/-- RTC_RESUME (R428). -/
def execRtcResume (s : State) : Host.Outcome State Fault Refusal :=
  .next { s with board := { s.board with rtcRunning := true } }

/-- A two-phase write whose marker has been written finishes its copy before TAMPER_ZERO clears the journal; another is abandoned (R431). -/
def settleJournal (s : State) : State :=
  match s.journal with
  | some j => { s with thermos := if j.marked then j.after else s.thermos, journal := none }
  | none => s
/-- TAMPER_ZERO (R431): the DRS record, the domain table and the journal are cleared, the quarantine flag set, Q_CAUSE written if it was
clear. -/
def tamperZero (src : Nat) (s : State) : State :=
  modThermos (settleJournal s) (fun t => { t with
    drs := [], drsMask := [], domains := [], tableLost := true, quarantine := true, qCause := if t.quarantine then t.qCause else 14 + 256 * src })

/-- Keys in the always-on domain and the key store are erased; with the Larder key its lines match no tag (R366, R431). DEDUCED, log entry 52. -/
def eraseKeys (s : State) : State :=
  { emptyStore s with loads := [], boot := { s.boot with bootId := [] }, mem := { (emptyStore s).mem with badTags := s.mem.written } }

/-- The wakes of engines are abandoned; they do not count as failures. -/
def abandonWakes (s : State) : State :=
  (List.range 36).foldl (fun s i => modPd s i (fun d => if d.st = .waking then { d with st := .off } else d)) s
/-- A tripped sensor: the sequence of R431. What VDD_AON powers follows when the device runs. -/
def tamper (src detail : Nat) (s : State) : State :=
  let s := eraseKeys (abandonWakes (alarmAll (tamperZero src s)))
  let s := raise 14 src detail none s
  if s.boot.mode = .boot ∨ s.boot.mode = .quarantine then s else enterQuarantine 14 src s

/-- A mesh loop differs at two bits; an unarmed one raises nothing (R429, R430). -/
def meshTrip (pin : Nat) (s : State) : State :=
  let s := { s with board := { s.board with meshIntact := s.board.meshIntact.set (pin / 2) false } }
  if bit s.thermos.tamperArm (pin / 2) then tamper 0 pin s else s
/-- MESH_TRIP (R431). -/
def execMeshTrip (pin : Fin 4) (s : State) : Host.Outcome State Fault Refusal := .next (meshTrip pin.val s)
/-- A lid switch is found asserted (R429, R430). -/
def lidTrip (k : Nat) (s : State) : State :=
  let s := { s with board := { s.board with lidAsserted := s.board.lidAsserted.set k true } }
  if bit s.thermos.tamperArm (2 + k) then tamper 1 k s else s
/-- LID_TRIP (R431). -/
def execLidTrip (sw : Fin 2) (s : State) : Host.Outcome State Fault Refusal := .next (lidTrip sw.val s)
/-- LIGHT_TRIP (R431). -/
def execLightTrip (s : State) : Host.Outcome State Fault Refusal := .next (tamper 2 0 s)
/-- TEMP_TAMPER_TRIP (R429): the upper bound applies only while VDD_AON is absent. -/
def execTempTamperTrip (high : Bool) (s : State) : Host.Outcome State Fault Refusal :=
  .next (if high && s.board.porHigh then s else tamper 3 (b2n high) s)
/-- VBAT_UV_TRIP (R27, R431): the sensor cannot trip while VDDIO_AUX is the source. -/
def execVbatUvTrip (nodeMv : Nat) (s : State) : Host.Outcome State Fault Refusal :=
  .next (if s.board.onVbat && decide (nodeMv < 2050) then tamper 4 0 s else s)
/-- GLITCH_TAMPER_TRIP (R429): the reference stopped for 10 µs, or four glitch alarms lie in the last second. -/
def execGlitchTamperTrip (stopped : Bool) (s : State) : Host.Outcome State Fault Refusal :=
  .next (if !s.board.porHigh then s else if stopped then tamper 5 1 s
    else if 4 ≤ (recentGlitches s).length then tamper 5 0 s else s)

/-- The accepted fall of `PFAIL_N` (R281, R353); in BOOT the input is ignored but for its level (R22). -/
def pfailAssert (s : State) : State :=
  if !s.board.pfailN then s else
  let s := { s with board := { s.board with pfailN := false }, drawsStopped := true, writeThrough := true }
  if s.boot.mode = .boot then s else checkpoint s
/-- PFAIL_ASSERT (R353). -/
def execPfailAssert (s : State) : Host.Outcome State Fault Refusal := .next (pfailAssert s)
/-- `PFAIL_N` is released without a power loss (R281, R353): draws resume, write-through ends, the clean-stop marker is cleared. DEDUCED, log entry 44. -/
def pfailRelease (s : State) : State :=
  if s.board.pfailN then s else
  modThermos { s with board := { s.board with pfailN := true }, drawsStopped := false, writeThrough := false }
    (fun t => { t with cleanStop := if s.boot.mode = .boot then t.cleanStop else false })
/-- PFAIL_RELEASE (R281). -/
def execPfailRelease (s : State) : Host.Outcome State Fault Refusal := .next (pfailRelease s)
/-- BROWNOUT_WARNING (R457): the best-effort checkpoint stands if it completes first. -/
def execBrownoutWarning (completes : Bool) (s : State) : Host.Outcome State Fault Refusal :=
  .next (if completes && decide (s.boot.mode ≠ .boot) then checkpoint s else s)
/-- BACKUP_SWITCHOVER (R26). -/
def execBackupSwitchover (auxMv : Nat) (s : State) : Host.Outcome State Fault Refusal :=
  .next { s with board := { s.board with onVbat := if 2900 < auxMv then false else if auxMv < 2800 then true else s.board.onVbat } }
/-- LOW_BATTERY_CHECK (R27): only while VDDIO_AUX is the source. -/
def execLowBatteryCheck (vbatMv : Nat) (s : State) : Host.Outcome State Fault Refusal :=
  .next (if !s.board.onVbat && decide (vbatMv < 2400) then raise 14 7 0 none s else s)

/-- A warm reset of a port (R96). -/
def warmReset (p cause : Nat) (s : State) : State :=
  modPort s p (fun x => { x with
    lanes := 0, timing := 0x00400108, crcEn := false, lwSeq := 0, lwOpcode := 0, lwOutcome := 0, scratch := 0, arenaSel := 0,
    ringArg0 := 0, ringArg1 := 0, ringArg2 := 0, cmdSeq := 0, cmdLast := 0, cmdResult := 0, queryId := 0, queryState := 0,
    warmCause := cause, linkEvt := false, fetchDone := false, fetch := x.fetch.map (fun f => { f with announce := false }) })

/-- VDDIO_HP falls below its minimum (R33): the pads take their reset states, each port records SUPPLY; while `POR_N` is low only the level
changes. -/
def hpLoss (s : State) : State :=
  if !s.board.vddioHpOk then s else
  if !s.board.porHigh then { s with board := { s.board with vddioHpOk := false } } else
  (List.range 4).foldl (fun s p => raise p 4 0 none (modPort s p (fun x => { x with response := .silent })))
    { s with board := { s.board with vddioHpOk := false } }
/-- VDDIO_HP_LOSS (R33). -/
def execVddioHpLoss (s : State) : Host.Outcome State Fault Refusal := .next (hpLoss s)
/-- VDDIO_HP_RETURN (R96). -/
def execVddioHpReturn (s : State) : Host.Outcome State Fault Refusal :=
  .next (if s.board.vddioHpOk then s else
    if !s.board.porHigh then { s with board := { s.board with vddioHpOk := true } } else
    (List.range 4).foldl (fun s p => warmReset p 2 s) { s with board := { s.board with vddioHpOk := true } })
/-- The level at `HPn_HRST_N` (R30, R33, R121). DEDUCED, log entry 66. -/
def hrstHigh (s : State) (p : Nat) : Bool := (portOf s p).hrstReleased && s.board.vddioHpOk && s.board.porHigh

/-- SPREAD_APPLIED (R41). -/
def execSpreadApplied (s : State) : Host.Outcome State Fault Refusal :=
  .next { s with board := { s.board with spreadApplied := s.board.spreadDepth } }

/-- The domain an injected event names: sources whose DETAIL is a domain (R201, R228, R290, R316, R359, R381, R413). -/
def injectedDomain (b src detail : Nat) : Option Nat :=
  if (b = 7 ∧ src = 4) ∨ (b = 11 ∧ src = 5) ∨ (b = 12 ∧ (src = 0 ∨ src = 1 ∨ src = 4 ∨ src = 5)) ∨ (b = 19 ∧ src < 2) ∨ b = 20 then
    (if detail < 1024 ∧ ¬(b = 20 ∧ detail = 0x3FF) then some detail else none)
  else none

/-- An injected event with its reactions, those of its own chapter too (R413, R433). -/
def injectReact (b src detail : Nat) (s : State) : State :=
  let dom := injectedDomain b src detail
  if b = 14 ∧ src < 6 then tamper src detail s
  else if b = 17 ∧ src < 2 then glitchAlarm src detail s
  else if b = 16 ∧ src = 1 then raise b src detail dom (alarmAll s)
  else if b = 9 ∧ src = 0 ∧ detail < 16 then parityFault detail s
  else if b = 10 ∧ src = 0 ∧ detail < 8 then parityFault (16 + detail) s
  else if b = 11 ∧ src = 0 ∧ detail < 12 then parityFault (24 + detail) s
  else if b = 15 ∧ src = 0 ∧ rngReady s = true then rngFail s
  else if b = 13 ∧ src = 1 then drsFault s
  else if b = 12 ∧ src = 1 then
    (match dom with
     | some d => raise b src detail dom (if domExists s d then modDom s d (addCause 2) else s)
     | none => raise b src detail dom s)
  else raise b src detail dom s

/-- FIRE injects the event `FI_TARGET` names; a source its block does not define is none (R433). -/
def inject (s : State) : State :=
  let t := s.fiTarget.toNat
  let b := bits t 12 8; let src := bits t 2 0; let detail := bits t 31 16
  if b < 21 ∧ src < sourceCount b then
    (if s.fiReact then injectReact b src detail s else recordOnly b src detail (sevOf s b src) (injectedDomain b src detail) s)
  else s

/-- GO flips the chosen number of bits of a stored Pantry word; errors in one word add up to what the ECC tells apart (R371, R433; log
entry 31, DEDUCED). -/
def injectEcc (n : Nat) (s : State) : State :=
  let a := s.fiEccAddr / 8 * 8
  { s with mem := { s.mem with latent := assocPut s.mem.latent a (min 2 (assocGetD 0 s.mem.latent a + n)) } }

/-- The TAP's next state for a level of TMS (IEEE 1149.1): 0 Test-Logic-Reset, 1 Run-Test/Idle, 2 to 8 the DR column (Select,
Capture, Shift, Exit1, Pause, Exit2, Update), 9 to 15 the IR column. -/
def tapNext (st : Nat) (tms : Bool) : Nat :=
  match st with
  | 0 => if tms then 0 else 1
  | 1 => if tms then 2 else 1
  | 2 => if tms then 9 else 3
  | 3 => if tms then 5 else 4
  | 4 => if tms then 5 else 4
  | 5 => if tms then 8 else 6
  | 6 => if tms then 7 else 6
  | 7 => if tms then 8 else 4
  | 8 => if tms then 2 else 1
  | 9 => if tms then 0 else 10
  | 10 => if tms then 12 else 11
  | 11 => if tms then 12 else 11
  | 12 => if tms then 15 else 13
  | 13 => if tms then 14 else 13
  | 14 => if tms then 15 else 11
  | _ => if tms then 2 else 1

/-- The IDCODE (R46). -/
abbrev tapIdcode : Nat := 0xB6516C7B
/-- The instruction an instruction-register code selects: all ones is BYPASS. DESIGN CHOICE, log entry 10. -/
def tapSelect (v : Nat) : Nat := if v = 2 ^ Config.irLength - 1 then 3 else Config.irDecode v % 4
/-- A shift register of `n` bits takes in a bit at its most significant end. -/
def shiftIn (n v : Nat) (tdi : Bool) : Nat := v / 2 + b2n tdi * 2 ^ (n - 1)

/-- What a rising edge does in the state it leaves: capture and shift (IEEE 1149.1, R46). DESIGN CHOICE, log entry 10. -/
def tapAct (mono : Nat) (tdi : Bool) (b : Board) : Board :=
  match b.tap, b.tapIr with
  | 3, 1 => { b with tapShift := tapIdcode }
  | 3, 3 => { b with tapBypass := false }
  | 3, _ => { b with tapBoundary := (List.range Config.boundaryCells).map (Config.boundaryCell mono) }
  | 4, 1 => { b with tapShift := shiftIn 32 b.tapShift tdi }
  | 4, 3 => { b with tapBypass := tdi }
  | 4, _ => { b with tapBoundary := b.tapBoundary.drop 1 ++ [tdi] }
  | 10, _ => { b with tapShift := 1 }
  | 11, _ => { b with tapShift := shiftIn Config.irLength b.tapShift tdi }
  | _, _ => b

/-- The bit at `TDO` in a Shift state. -/
def tapOut (b : Board) : Option Bool :=
  if b.tap = 11 then some (bit b.tapShift 0)
  else if b.tap ≠ 4 then none
  else match b.tapIr with
    | 1 => some (bit b.tapShift 0)
    | 3 => some b.tapBypass
    | _ => some (b.tapBoundary.headD false)

/-- What entering a state does: Update latches, Test-Logic-Reset selects IDCODE (IEEE 1149.1). -/
def tapEnter (st : Nat) (b : Board) : Board :=
  let b := { b with tap := st }
  match st with
  | 0 => { b with tapIr := 1 }
  | 8 => if b.tapIr = 0 ∨ b.tapIr = 2 then { b with tapPins := b.tapBoundary } else b
  | 15 => { b with tapIr := tapSelect b.tapShift }
  | _ => b

/-- A full cycle of TCK. -/
def tapClock (mono : Nat) (tms tdi : Bool) (b : Board) : Board :=
  let b := tapEnter (tapNext b.tap tms) (tapAct mono tdi b)
  { b with tapTdo := tapOut b }

/-- A step of the TAP; held in Test-Logic-Reset in BOOT, OPERATIONAL and QUARANTINE (R46). Private instructions of FACTORY are not
described. -/
def tapStep (op : TapOp) (s : State) : State :=
  { s with board :=
      if !jtagOpen s then tapHeld s.board
      else match op with
        | .trst => tapHeld s.board
        | .clock tms tdi => tapClock s.mono tms tdi s.board }

/-- JTAG_TAP_OPERATION (R46). -/
def execJtagTapOperation (op : TapOp) (s : State) : Host.Outcome State Fault Refusal := .next (tapStep op s)
/-- The pins EXTEST drives from the boundary register (R46). -/
def tapDrives (s : State) : Option (List Bool) := if jtagOpen s && s.board.tapIr == 0 then some s.board.tapPins else none

end Sys2Proof.Machine
end

