-- ==== Sys2Proof/Machine/RegWrite.lean ====
section
/-! DEFINITION. What a register write does: its judgement by page, mode, lock and encoding, and its effect (R6 to R10, R43, R47, R66,
R86, R89, R94, R95, R101 to R112, R126, R143, R163, R169, R200, R259, R341, R342, R358, R380, R408, R411 to R424, R430, R433, R437, R438,
R453). -/

namespace Sys2Proof.Machine

/-- The outcome of a register write (R94): accepted or DENIED, the block besides the port that counts the refusal, and the state. -/
structure RegOut where
  ok : Bool
  owner : Option Nat
  state : State

/-- The write is accepted. -/
def accept (s : State) : RegOut := ⟨true, none, s⟩
/-- The write is refused; only the port counts it (R7, R9, R94). -/
def refuse (s : State) : RegOut := ⟨false, none, s⟩
/-- The write is refused; a block counts it too (R8, R126). -/
def refuseBy (b : Nat) (s : State) : RegOut := ⟨false, some b, s⟩
/-- Accept under a test, else refuse as unlisted. -/
def acceptIf (c : Bool) (s t : State) : RegOut := if c then accept t else refuse s

/-- The block that owns a register of a page (R8, R94): that of the chapter which details it; `FAULT_PIN_LEVEL` and `ALIVE_CFG` have
none (DEDUCED, log entry 36). -/
def ownerOf (a : Nat) : Option Nat :=
  if 0x418 ≤ a ∧ a < 0x500 then some 19
  else if 0x600 ≤ a ∧ a < 0x750 then some ((a - 0x600) / 16)
  else if 0x800 ≤ a ∧ a < 0x880 then some 16
  else if a = 0x888 then some 14
  else if 0x890 ≤ a ∧ a < 0x8B0 then some ((a - 0x890) / 8)
  else if 0x8C0 ≤ a ∧ a < 0x8D0 then some 17
  else if 0x900 ≤ a ∧ a < 0x940 then some 7
  else if 0x940 ≤ a ∧ a < 0x980 then some 4
  else if 0x980 ≤ a ∧ a < 0x9C0 then some 6
  else if 0x9C0 ≤ a ∧ a < 0xA00 then some 19
  else none

/-- `HP_LANES` (R81, R103). DEDUCED, log entry 63. -/
def writeLanes (p v : Nat) (s : State) : RegOut :=
  let w := v &&& 0x777
  acceptIf (!(portOf s p).xip || w == 0 || w == 0x777) s (modPort s p (fun x => { x with lanes := BitVec.ofNat 32 w }))
/-- `HP_TIMING` (R104). -/
def writeTiming (p v : Nat) (s : State) : RegOut :=
  acceptIf (decide (4 ≤ v % 64) && decide (v % 64 ≤ 32) && decide (8 ≤ bits v 23 16)) s
    (modPort s p (fun x => { x with timing := BitVec.ofNat 32 (v &&& 0x00FF013F) }))
/-- `PORT_CTRL` (R101, R102); WARM_RESET acts after the outcome is recorded (R96). -/
def writePortCtrl (p v : Nat) (s : State) : RegOut :=
  let s := modPort s p (fun x => { x with scratch := v / 0x10000 })
  accept (if bit v 1 then abortFetch p s else s)
/-- `WDT_CFG` (R94, R420, R421): while EN is 1 only the value it holds is accepted; outside its ranges it is unlisted. -/
def writeWdtCfg (p v : Nat) (s : State) : RegOut :=
  let w := (portOf s p).wdt
  if w.en && (v / 0x10000 != w.timeoutMs || v % 0x10000 != w.windowMs) then refuse s
  else acceptIf (decide (v % 0x10000 < v / 0x10000)) s
    (modPort s p (fun x => { x with wdt := { x.wdt with timeoutMs := v / 0x10000, windowMs := v % 0x10000 } }))
/-- `WDT_STATUS` (R420, R421, R424): a change of a locked field is refused. -/
def writeWdtStatus (p v : Nat) (s : State) : RegOut :=
  let w := (portOf s p).wdt
  let en := bit v 0; let action := bits v 2 1
  if w.lock && (en != w.en || action != w.action) then refuse s else accept (wdtControl p en action s)
/-- `ROLL_ACK` (R169). -/
def writeRollAck (p v : Nat) (s : State) : RegOut :=
  if bit v 31 then
    acceptIf (bits v 30 28 == 0) s (ackWord p (bits v 26 16) (if bit v 27 then v % 0x10000 * 0x10000 else v % 0x10000) s)
  else acceptIf (bits v 30 16 == 0 && ringGranted s p (v % 0x10000)) s (clearLeaf s (v % 0x10000))
/-- `RING_CMD` (R143). -/
def writeRingCmd (p v : Nat) (s : State) : RegOut := acceptIf (decide (1 ≤ v % 16) && decide (v % 16 ≤ 6)) s (ringCommand p (v % 16) s)
/-- `RING_KICK` (R163). -/
def writeKick (p v : Nat) (s : State) : RegOut :=
  let r := v % 0x10000
  if !ringGranted s p r then refuse s else
  let s := touchPantry (16 * r) 16 0 s
  if (ringOf s r).state ≠ .active ∨ modeFetches s = false then refuseBy 5 s else accept (readRing r s)

/-- A register of the port page (R97). -/
def writePort (p a v : Nat) (s : State) : RegOut :=
  match a with
  | 0x008 => writePortCtrl p v s
  | 0x00C => writeLanes p v s
  | 0x010 => writeTiming p v s
  | 0x018 => accept (modPort s p (fun x => { x with crcEn := bit v 0 }))
  | 0x020 => writeWdtCfg p v s
  | 0x024 => accept (wdtKey p v s)
  | 0x028 => writeWdtStatus p v s
  | 0x058 => writeRollAck p v s
  | 0x080 => writeRingCmd p v s
  | 0x084 => accept (modPort s p (fun x => { x with ringArg0 := BitVec.ofNat 32 (v % 0x10000) }))
  | 0x088 => accept (modPort s p (fun x => { x with ringArg1 := BitVec.ofNat 32 v }))
  | 0x08C => accept (modPort s p (fun x => { x with ringArg2 := BitVec.ofNat 32 v }))
  | 0x0A0 => writeKick p v s
  | 0x0B0 => accept (modPort s p (fun x => { x with refusedAny := x.refusedAny && !bit v 12 }))
  | 0x0C8 => acceptIf (decide (v % 64 ≤ 37)) s (modPort s p (fun x => { x with arenaSel := v % 64 }))
  | _ => refuse s

/-- A trim is refused (R341): TRIM_REFUSED, its event, the METER count. -/
def refuseTrim (p : Nat) (s : State) : RegOut := refuseBy 19 (raise 19 3 p none { s with trimRefused := true })
/-- The conditions of R341 on a listed DELTA. -/
def trimOk (d : Int) (s : State) : Bool :=
  decide (s.boot.mode = .operational) && decide (lifecycle s = .claimed) && s.thermos.wallSet && offsetOk (s.thermos.offset + d)
    && decide (0 ≤ (s.mono : Int) + s.thermos.offset + d) && decide (((recentTrims s).map (·.2)).sum + d.natAbs ≤ 1966080)
    && decide ((recentTrims s).length < 64)
/-- An accepted trim of a DELTA other than 0 (R341). -/
def applyTrim (d : Int) (s : State) : State :=
  modThermos s (fun t => { t with
    offset := t.offset + d, trimLog := recentTrims s ++ [(s.mono, d.natAbs)], lastTrimMono := some s.mono })
/-- `TIME_TRIM` (R341, R342). -/
def writeTrim (p v : Nat) (s : State) : RegOut :=
  let d := signedOf 18 (v % 0x40000)
  if d < -32768 ∨ 32768 < d ∨ trimOk d s = false then refuseTrim p s
  else accept (if d = 0 then s else applyTrim d s)

/-- A register of the time and meter page (R342, R358). -/
def writeTime (p a v : Nat) (s : State) : RegOut :=
  match a with
  | 0x410 => writeTrim p v s
  | 0x414 => accept { s with trimRefused := s.trimRefused && !bit v 1 }
  | 0x418 => if isOperator s p then accept { s with meterSel := v % 1024 } else refuseBy 19 s
  | _ => if 0x418 ≤ a ∧ isOperator s p = false then refuseBy 19 s else refuse s

/-- The floor of a source (R414). -/
def sevFloor (b k : Nat) : Nat :=
  match b with
  | 9 => if k < 3 then 2 else 0
  | 10 | 11 => if k < 4 then 2 else 0
  | 12 => if k = 1 ∨ k = 5 then 3 else 0
  | 13 => if k = 1 then 4 else 0
  | 14 => if k < 6 then 4 else 0
  | 15 => if k = 1 then 4 else 0
  | 16 => if k = 1 ∨ k = 5 then 4 else 0
  | _ => 0
/-- SEV_k of THERMOS_ECC is read-only (R414). -/
def sevFixed (b k : Nat) : Bool := b == 14 && k == 6
/-- SEV_k as a write gives it; a read-only field and one of an undefined source keep their value (R411). -/
def newSev (b v k : Nat) (old : Nat) : Nat := if sourceCount b ≤ k ∨ sevFixed b k = true then old else bits v (3 * k + 2) (3 * k)
/-- Every severity written is listed and not below its floor (R9, R413, R414). -/
def sevsOk (b v : Nat) : Bool :=
  (List.range (sourceCount b)).all (fun k => sevFixed b k ||
    (decide (bits v (3 * k + 2) (3 * k) ≤ 4) && decide (sevFloor b k ≤ bits v (3 * k + 2) (3 * k))))
/-- A block takes new severities and a capture mode; a change to STICKY empties the history (R411, R416). -/
def configBlock (b v : Nat) (h : Health) : Health :=
  let sticky := stickyOnly b || bit v 24
  let h : Health := { h with sevs := h.sevs.zipIdx.map (fun c => newSev b v c.2 c.1) }
  if sticky && !h.sticky then { h with sticky := true, history := [], newest := 0 } else { h with sticky := sticky }
/-- Block `SEV_CFG` (R411 to R416). -/
def writeSev (p b v : Nat) (s : State) : RegOut :=
  let t := modBlock s b (configBlock b v)
  acceptIf (sevsOk b v) s (if b = p then modPort t p (fun x => { x with histView := v / 2 ^ 28 % 16 }) else t)

/-- A suspension cause of a domain ends; R163 applies to its rings when it was the last (R296). -/
def endCause (d k : Nat) (s : State) : State :=
  if bit (domOf s d).suspend k then
    let s := modDom s d (fun r => setCauses (clearBit r.suspend k) r)
    if suspended s d then s else readRings (fun g => g.domain == d) s
  else s
/-- Clear `EVENT` bits of a block (R415), with the suspensions that then end (R296). -/
def clearEvents (b mask : Nat) (s : State) : State :=
  let h := blockOf s b
  let gone := fun k => bit mask k && bit h.event k
  let t := modBlock s b (fun h => { h with
    event := (List.range 8).foldl (fun e k => if bit mask k then clearBit e k else e) h.event
    stored := h.stored.filter (fun c => !gone c.1)
    named := h.named.filter (fun c => !gone c.1) })
  let ds := (h.named.filter (fun c => gone c.1)).map (·.2)
  let t := ds.foldl (fun t d => if t.health.any (fun g => g.named.any (fun c => c.2 == d)) then t else endCause d 1 t) t
  if b = 12 ∧ gone 1 = true then t.thermos.domains.foldl (fun t c => endCause c.1 2 t) t else t

/-- Groups a port may write (R89, R95). DEDUCED, log entry 35. -/
def groupWrite (s : State) (p b : Nat) : Bool := b == p || isOperator s p || (decide (s.boot.mode = .recovery) && p == 0)
/-- A register of the health page (R411). -/
def writeHealth (p a v : Nat) (s : State) : RegOut :=
  let b := (a - 0x600) / 16
  if 21 ≤ b then refuse s
  else if !groupWrite s p b then refuseBy b s
  else match a % 16 with
    | 4 => accept (clearEvents b (v % 256) s)
    | 8 => writeSev p b v s
    | _ => refuse s

/-- The policy and WAKE_BIST a `PD_POLICY` write gives a domain. -/
def policyField (w v i : Nat) (s : State) : Nat :=
  if i / 8 = w then bits v (4 * (i % 8) + 1) (4 * (i % 8)) else policyCode (pdOf s i).policy
/-- FORCE_OFF leaves each class enough instances (R438). DEDUCED, log entry 64. -/
def classKept (w v lo n : Nat) (s : State) : Bool :=
  let live := ((List.range n).map (lo + ·)).filter (fun i => !(pdOf s i).retired)
  decide (min 2 live.length ≤ (live.filter (fun i => policyField w v i s != 2)).length)
/-- A `PD_POLICY` write wrong for the state (R438). DEDUCED, log entry 64. -/
def policyWrong (w v : Nat) (s : State) : Bool :=
  !(classKept w v 0 8 s && classKept w v 8 8 s && classKept w v 16 8 s && classKept w v 24 12 s)
    || (List.range 8).any (fun b => (36 + b) / 8 == w && policyField w v (36 + b) s == 2 && bankAllocated s b)
    || (List.range 4).any (fun q => (44 + q) / 8 == w && policyField w v (44 + q) s == 2 && isOperator s q)
/-- The domain permits the policy (R437). -/
def policyListed (i pol : Nat) : Bool := decide (pol ≤ 1) || (pol == 2 && !(i == 36 || i == 37 || i == 48 || i == 49))
/-- Policy of a code. -/
def policyOf (n : Nat) : Policy := if n = 1 then .forceOn else if n = 2 then .forceOff else .auto
/-- A domain takes a policy: FORCE_ON wakes it, FORCE_OFF closes it to be drained (R437, R440). -/
def setPolicy (i pol : Nat) (bist : Bool) (s : State) : State :=
  let s := modPd s i (fun d => { d with policy := policyOf pol, wakeBist := bist })
  match pol with
  | 1 => if (pdOf s i).st = .on ∧ (pdOf s i).closed = false then s else requestWake i s
  | 2 => modPd s i (fun d => { d with closed := d.closed || decide (d.st = .on), wakeWanted := false })
  | _ => s
/-- The domains of a `PD_POLICY` word. -/
def policyDomains (w : Nat) : List Nat := ((List.range 8).map (8 * w + ·)).filter (· < 50)
/-- `PD_POLICY_w` (R437, R438, R453). -/
def writePolicy (w v : Nat) (s : State) : RegOut :=
  if !((policyDomains w).all (fun i => policyListed i (policyField w v i s))) then refuse s
  else if policyWrong w v s then refuseBy 16 s
  else accept ((policyDomains w).foldl (fun t i => setPolicy i (policyField w v i s) (bit v (4 * (i % 8) + 2)) t) s)

/-- A power register (R453). -/
def writePower (a v : Nat) (s : State) : RegOut :=
  let n := v % 0x10000
  match a with
  | 0x800 => acceptIf (decide (500 ≤ n) && decide (n ≤ 8000)) s { s with power := { s.power with capMw := n } }
  | 0x808 => acceptIf (decide (1 ≤ n)) s { s with power := { s.power with idleGateUs := n } }
  | 0x80C => acceptIf (decide (n ≤ 1000)) s { s with power := { s.power with holdWakeUs := n } }
  | 0x810 => accept { s with power := { s.power with idleFlushMs := n } }
  | _ => if 0x820 ≤ a ∧ a < 0x83C then writePolicy ((a - 0x820) / 4) v s else refuse s

/-- The loop or switch of a field of `TAMPER_ARM` cannot be armed as it stands (R430). DEDUCED, log entry 53. -/
def cannotArm (s : State) (k : Nat) : Bool :=
  if k < 2 then !s.board.meshIntact.getD k false else s.board.lidAsserted.getD (k - 2) false
/-- `TAMPER_ARM` (R8, R430). DEDUCED, log entry 53. -/
def writeTamperArm (v : Nat) (s : State) : RegOut :=
  let n := v &&& 0x10F
  let cur := s.thermos.tamperArm
  if bit cur 8 ∧ n ≠ cur then refuseBy 14 s
  else if (List.range 4).any (fun k => bit n k && !bit cur k && cannotArm s k) then refuseBy 14 s
  else accept (modThermos s (fun t => { t with tamperArm := n }))

/-- Configuration values a lock can hold: both zero while unlocked, else a window below the timeout (R420, R424; DEDUCED, log entry 37). -/
def lockCfgOk (v : Nat) : Bool := v == 0 || decide (v % 0x10000 < v / 0x10000)
/-- `WDT_LOCK_CFG_p` (R8, R94, R424): while LOCK is 1 a change is refused, and block `q` counts it. DEDUCED, log entry 37. -/
def writeLockCfg (q v : Nat) (s : State) : RegOut :=
  let w := (portOf s q).wdt
  if w.lock then (if v = w.lockCfg.toNat then accept s else refuseBy q s)
  else acceptIf (lockCfgOk v) s (modPort s q (fun x => { x with wdt := { x.wdt with lockCfg := BitVec.ofNat 32 v } }))
/-- `WDT_LOCK_p` (R424). DEDUCED, log entry 37. -/
def writeLock (q v : Nat) (s : State) : RegOut :=
  let w := (portOf s q).wdt
  if w.lock then
    (if bit v 8 then (if v % 4 = w.lockAction then accept s else refuseBy q s) else accept (modPort s q (fun x => { x with wdt := { x.wdt with lock := false, lockAction := v % 4 } })))
  else if bit v 8 then acceptIf (lockCfgOk w.lockCfg.toNat && w.lockCfg != 0) s (lockTimer q (v % 4) s)
  else accept (modPort s q (fun x => { x with wdt := { x.wdt with lockAction := v % 4 } }))

/-- Health pins and watchdog locks (R418, R419, R424, R430). -/
def writePins (a v : Nat) (s : State) : RegOut :=
  match a with
  | 0x880 => acceptIf (decide (v % 8 ≤ 4)) s { s with boot := { s.boot with faultLevel := v % 8 } }
  | 0x884 => acceptIf (decide (v % 8 ≤ 4)) s
      (let t := if bit v 8 then markAlive s else s
       { t with boot := { t.boot with aliveRate := v % 8, forceStop := bit v 8 } })
  | 0x888 => writeTamperArm v s
  | _ =>
    if 0x890 ≤ a ∧ a < 0x8B0 then (if a % 8 = 0 then writeLockCfg ((a - 0x890) / 8) v s else writeLock ((a - 0x890) / 8) v s) else refuse s

/-- `SLEW_CFG` (R42, R43): every port is deselected at the select release; the memory port takes its slew at once when no transaction is on
its bus, else in the gap after it. -/
def writeSlew (v : Nat) (s : State) : RegOut :=
  let n := v % 0x100000
  acceptIf (decide (2 ≤ bits n 17 16)) s
    { s with
      board := { s.board with slew := n }
      mp := { s.mp with slewApplied := if s.mp.current.isSome then s.mp.slewApplied else bits n 19 16 }
      ports := s.ports.zipIdx.map (fun c => { c.1 with slewApplied := n / 16 ^ c.2 % 16 }) }

/-- Memory registers (R380). -/
def writeMem (a v : Nat) (s : State) : RegOut :=
  match a with
  | 0x900 => acceptIf (decide (4 ≤ v % 256)) s { s with mem := { s.mem with scrubPeriod := v % 256, scrubLarder := bit v 9 } }
  | 0x904 => acceptIf (decide (1 ≤ v % 1024) && decide (v % 1024 ≤ 1000)) s { s with mem := { s.mem with whiskPeriod := v % 1024 } }
  | 0x918 => accept { s with mem := { s.mem with bankSel := v % 8 } }
  | _ => refuse s

/-- Memory-port registers (R391, R408). -/
def writeMp (a v : Nat) (s : State) : RegOut :=
  match a with
  | 0x940 =>
    acceptIf (decide (v % 16 ≠ 0)) s
      { s with mp := { s.mp with suspendEn := bit v 5, xselInvalidate := bit v 4, backoffUs := v % 16 } }
  | 0x944 =>
    let t : State := { s with mp := { s.mp with xipWays := bits v 11 8, prefetchDepth := v % 16 } }
    acceptIf (decide (bits v 11 8 ≤ 8)) s (if bit v 31 then emptyCache t else t)
  | _ => refuse s

/-- A register of the operator page, on the operator port (R113). -/
def writeOperator (a v : Nat) (s : State) : RegOut :=
  if a < 0x880 then writePower a v s
  else if a < 0x8C0 then writePins a v s
  else if a = 0x8C0 then accept { s with board := { s.board with spreadDepth := v % 4 } }
  else if a = 0x8C4 then writeSlew v s
  else if a < 0x900 then refuse s
  else if a < 0x940 then writeMem a v s
  else if a < 0x980 then writeMp a v s
  else if a = 0x980 then
    acceptIf (decide (1 ≤ v % 0x10000) && decide (v % 0x10000 ≤ 10000)) s { s with ageLimit := v % 0x10000 }
  else if a = 0x988 then accept { s with domSel := v % 1024 }
  else if a = 0x9C0 then accept (if bit v 0 then checkpoint s else s)
  else refuse s

/-- Fault-injection registers, in FACTORY (R433). -/
def writeFactory (a v : Nat) (s : State) : RegOut :=
  match a with
  | 0xC40 => acceptIf (decide (bits v 12 8 ≤ 20)) s { s with fiTarget := BitVec.ofNat 32 (v &&& 0xFFFF1F07) }
  | 0xC44 =>
    let t : State := { s with fiReact := bit v 1 }
    accept (if bit v 0 then inject t else t)
  | 0xC48 => accept { s with fiEccAddr := v % 0x1000000 / 8 * 8 }
  | 0xC4C =>
    let t : State := { s with fiEccBits := v % 4 }
    acceptIf (v % 4 == 1 || v % 4 == 2) s (if bit v 4 then injectEcc (v % 4) t else t)
  | _ => refuse s

/-- Registers writable in a mode (R95): in RECOVERY the ring command QUERY of R125 needs `RING_CMD` and its arguments (DEDUCED, log entry 34). -/
def modeWrites (s : State) (p a : Nat) : Bool :=
  match s.boot.mode with
  | .boot => a == 0x00C || a == 0x010 || a == 0x018
  | .recovery =>
    p == 0 && (a == 0x008 || a == 0x00C || a == 0x010 || a == 0x018 || a == 0x080 || a == 0x084 || a == 0x088 || a == 0x08C
      || (decide (0x600 ≤ a) && decide (a < 0x750) && a % 16 == 4))
  | .factory | .operational | .debug | .quarantine => true

/-- A register write, judged by mode, page and register (R89, R94, R95); a trim in a mode that does not take it is a refused trim (R341). -/
def writeReg (p a v : Nat) (s : State) : RegOut :=
  if a % 4 ≠ 0 ∨ 0x1000 ≤ a then refuse s
  else if modeWrites s p a = false then (if a = 0x410 then refuseTrim p s else refuse s)
  else if a < 0x100 then writePort p a v s
  else if a < 0x400 then refuse s
  else if a < 0x500 then writeTime p a v s
  else if a = 0x500 then accept (modPort s p (fun x => { x with measSel := v % 32 }))
  else if a < 0x600 then refuse s
  else if a < 0x800 then writeHealth p a v s
  else if a < 0xC00 then
    (if isOperator s p then writeOperator a v s else match ownerOf a with | some b => refuseBy b s | none => refuse s)
  else if s.boot.mode = .factory then writeFactory a v s
  else refuse s

/-- What every refusal that records DENIED does (R86, R94, R126): the DENIED event, the port's count, and a block's. DEDUCED, log entry 36. -/
def noteDenied (p : Nat) (owner : Option Nat) (s : State) : State :=
  let s := raise p 3 0 none (wrongState p s)
  match owner with
  | some b => if b = p then s else wrongState b s
  | none => s

/-- A committed REG_WR and its outcome code (R66, R94). -/
def regWrite (p a v : Nat) (s : State) : State × Nat :=
  let r := writeReg p a v s
  if r.ok then (r.state, wrOk) else (noteDenied p r.owner r.state, wrDenied)

end Sys2Proof.Machine
end

