-- ==== Sys2Proof/Machine/Nymsy.lean ====
section
/-! DEFINITION. A Nymsy frame from its bytes to its effect and what the device drives: reads, writes, the CRC, trailers, the sentinel,
the lane reset (R48 to R80, R89 to R96, R106, R125, R126, R255, R368, R369, R395). -/

namespace Sys2Proof.Machine

/-- The opcode byte of a frame (R54). -/
def opcodeOf (f : NymsyFrame) : Nat :=
  match f with
  | .regRd _ _ => 0x10 | .regWr _ _ => 0x11 | .memRd _ _ => 0x20 | .memWr _ _ => 0x21 | .push _ _ => 0x30 | .winRd _ _ => 0x40
  | .winWr _ _ => 0x41 | .winFetch _ _ => 0x42 | .status => 0x50 | .roll _ _ => 0x51 | .setLanes _ => 0x60 | .nop => 0x7F
  | .other o => o.toNat

/-- The frame class an opcode has in the table of R54. -/
inductive FrameClass where
  | read | write | nop | unknown
  deriving DecidableEq, Repr

/-- The class of an opcode. -/
def classOf (o : Nat) : FrameClass :=
  if o = 0x10 ∨ o = 0x20 ∨ o = 0x40 ∨ o = 0x50 ∨ o = 0x51 then .read
  else if o = 0x11 ∨ o = 0x21 ∨ o = 0x30 ∨ o = 0x41 ∨ o = 0x42 ∨ o = 0x60 then .write
  else if o = 0x7F then .nop else .unknown

/-- The command phase: the opcode and its complement (R52). -/
def commandBytes (f : NymsyFrame) : Bytes := octets [opcodeOf f, 255 - opcodeOf f % 256]
/-- Address and length phases (R52, R54). -/
def addressBytes (f : NymsyFrame) : Bytes :=
  match f with
  | .regRd a n | .memRd a n | .winRd a n | .winFetch a n | .roll a n => toBe 4 a ++ toBe 2 n
  | .regWr a _ | .memWr a _ | .push a _ | .winWr a _ => toBe 4 a
  | .status | .setLanes _ | .nop | .other _ => []
/-- Data the host sends. -/
def dataOf (f : NymsyFrame) : Bytes :=
  match f with
  | .regWr _ d | .memWr _ d | .push _ d | .winWr _ d | .setLanes d => d
  | .regRd _ _ | .memRd _ _ | .winRd _ _ | .winFetch _ _ | .roll _ _ | .status | .nop | .other _ => []
/-- The CRC the host has to send (R70). -/
def frameCrc (f : NymsyFrame) : BitVec 16 := crc16 (commandBytes f ++ addressBytes f ++ dataOf f)
/-- Bytes a read frame returns; a length field has 16 bits. -/
def readLength (f : NymsyFrame) : Nat :=
  match f with
  | .regRd _ n | .memRd _ n | .winRd _ n | .roll _ n => n % 0x10000
  | .status => 9
  | .regWr _ _ | .memWr _ _ | .push _ _ | .winWr _ _ | .winFetch _ _ | .setLanes _ | .nop | .other _ => 0

/-- CRC bytes sent while no CRC is enabled are data bytes (R54, R70). -/
def withStray (c : Option (BitVec 16)) (f : NymsyFrame) : NymsyFrame :=
  match c, f with
  | some c, .regWr a d => .regWr a (d ++ toBe 2 c.toNat)
  | some c, .memWr a d => .memWr a (d ++ toBe 2 c.toNat)
  | some c, .push a d => .push a (d ++ toBe 2 c.toNat)
  | some c, .winWr a d => .winWr a (d ++ toBe 2 c.toNat)
  | some c, .setLanes d => .setLanes (d ++ toBe 2 c.toNat)
  | _, f => f

/-- Width and rate of a phase from its field of the lane configuration: lanes, and whether it is DDR (R75). -/
def phaseWidth (field : Nat) : Nat := 2 ^ (field % 4)
def phaseDdr (field : Nat) : Bool := bit field 2
/-- The fields of the command, address and data phases (R75): the length and request CRC go with the address, data CRC and trailer with
the data. -/
def cmdField (lanes : Nat) : Nat := bits lanes 2 0
def addrField (lanes : Nat) : Nat := bits lanes 6 4
def dataField (lanes : Nat) : Nat := bits lanes 10 8
/-- Groups that cross in one SCK cycle: in DDR one on each edge (R48). -/
def groupsPerCycle (field : Nat) : Nat := if phaseDdr field then 2 else 1
/-- Bits a phase moves in one SCK cycle (R48). -/
def bitsPerCycle (field : Nat) : Nat := phaseWidth field * groupsPerCycle field
/-- The data phase fills whole SCK cycles (R50). -/
def dataWhole (x : PortState) (n : Nat) : Bool := 8 * n % bitsPerCycle (dataField x.lanes.toNat) == 0

/-- The lanes a group occupies, most significant bit first: IO_(w-1) down to IO_0; at x1 the host drives IO_0 and the device IO_1
(R48, R49). -/
def hostLanes (w : Nat) : List Nat := (List.range w).reverse
def deviceLanes (w : Nat) : List Nat := if w = 1 then [1] else (List.range w).reverse
/-- A byte as groups of `w` bits, most significant first (R48). -/
def groupsOf (w : Nat) (b : Byte) : List (List Bool) :=
  (List.range (8 / w)).map (fun i => (List.range w).map (fun j => b.getMsbD (w * i + j)))
/-- What crosses for an octet string in order: for each group the lanes and their levels (R48, R52). -/
def wireGroups (w : Nat) (lanes : List Nat) (d : Bytes) : List (List (Nat × Bool)) := d.flatMap (fun b => (groupsOf w b).map lanes.zip)
/-- What the host puts on the lanes for the octets of a phase (R48). -/
def hostWire (field : Nat) (d : Bytes) : List (List (Nat × Bool)) := wireGroups (phaseWidth field) (hostLanes (phaseWidth field)) d
/-- What the device puts on the lanes for the octets of a phase (R48). -/
def deviceWire (field : Nat) (d : Bytes) : List (List (Nat × Bool)) := wireGroups (phaseWidth field) (deviceLanes (phaseWidth field)) d

/-- Trailer codes (R72). -/
def trailerByte : Trailer → Byte
  | .ok => 0xA5 | .busy => 0x3C | .poison => 0xC3 | .denied => 0x96 | .wake => 0x69 | .crcFail => 0x0F
/-- The trailer phase: in DDR the byte is sent on both edges (R59). -/
def trailerPhase (field : Nat) (t : Trailer) : Bytes := List.replicate (groupsPerCycle field) (trailerByte t)
/-- The octets a port drove in its last frame, in wire order (R52, R58, R59). -/
def drivenBytes (x : PortState) : Bytes :=
  match x.response with
  | .silent => []
  | .read d c t => d ++ (c.map (fun v => toBe 2 v.toNat)).getD [] ++ trailerPhase (dataField x.lanes.toNat) t
  | .xip d => d
/-- The levels a port put on its lanes in its last frame, group by group (R48, R58). -/
def drivenGroups (x : PortState) : List (List (Nat × Bool)) := deviceWire (dataField x.lanes.toNat) (drivenBytes x)
/-- The command and address phases of a frame as the host puts them on the lanes (R48, R52). -/
def requestGroups (x : PortState) (f : NymsyFrame) : List (List (Nat × Bool)) :=
  hostWire (cmdField x.lanes.toNat) (commandBytes f) ++ hostWire (addrField x.lanes.toNat) (addressBytes f)
    ++ hostWire (dataField x.lanes.toNat) (dataOf f)

/-- Address and bytes of a write with DROP_LAST (R51). -/
def dropLast (a : Nat) (d : Bytes) : Nat × Bytes := (a % 2 ^ 31, if bit a 31 then d.dropLast else d)

/-- The bytes a WIN_WR writes lie in one 256-byte page (R51, R54; DEDUCED, log entry 81). -/
def onePage (a : Nat) (d : Bytes) : Bool := decide ((dropLast a d).1 % 256 + (dropLast a d).2.length ≤ 256)

/-- A write frame carries the amount its opcode needs (R54, R65). DEDUCED, log entry 81. -/
def unitsOk (f : NymsyFrame) : Bool :=
  match f with
  | .regWr _ d | .setLanes d => d.length == 4
  | .memWr _ d => decide (1 ≤ d.length) && decide (d.length ≤ 4096)
  | .push _ d => d.length == 64
  | .winWr a d => decide (1 ≤ d.length) && decide (d.length ≤ 256) && onePage (a % 2 ^ 32) d
  | .winFetch _ _ => true
  | .regRd _ _ | .memRd _ _ | .winRd _ _ | .roll _ _ | .status | .nop | .other _ => false

/-- The dummy cycles cover an access time in ns (R60). -/
def covers (x : PortState) (k : Link) (ns : Nat) : Bool := decide (ns * k.sckMHz ≤ x.timing.toNat % 64 * 1000)
/-- WIN_HOLD (R62). -/
def winHold (x : PortState) : Bool := bit x.timing.toNat 8

/-- What a read frame comes to (R72). -/
structure ReadOut where
  trailer : Trailer
  data : Bytes
  state : State

/-- The read is refused: the refusal is counted and recorded (R86, R126). DEDUCED, log entry 54. -/
def readDenied (p : Nat) (s : State) : ReadOut := ⟨.denied, [], noteDenied p none s⟩
/-- The data are not ready. -/
def readBusy (s : State) : ReadOut := ⟨.busy, [], s⟩
/-- Data ready in time, else BUSY (R60). -/
def readFixed (x : PortState) (k : Link) (d : Bytes) (s : State) : ReadOut := if covers x k 30 then ⟨.ok, d, s⟩ else readBusy s

/-- Words BOOT serves (R95). -/
def bootWord (a : Nat) : Bool :=
  a == 0x000 || a == 0x004 || a == 0x00C || a == 0x010 || a == 0x014 || a == 0x018 || a == 0x030 || a == 0x034
    || (decide (0x038 ≤ a) && decide (a < 0x048))
/-- Every word of the range passes a test. -/
def allWords (a n : Nat) (f : Nat → Bool) : Bool := (List.range (n / 4)).all (fun i => f (a + 4 * i))

/-- REG_RD (R55, R92 to R95). DEDUCED, log entry 56. -/
def readRegs (p : Nat) (k : Link) (a n : Nat) (s : State) : ReadOut :=
  let x := portOf s p
  let fine := decide (4 ≤ n) && decide (n ≤ 256) && n % 4 == 0 && a % 4 == 0 && decide (a + n ≤ 0x1000)
  match s.boot.mode with
  | .boot => if fine && allWords a n bootWord then readFixed x k (regBytes s p a n) s else readBusy s
  | .recovery =>
    if fine && allWords a n (fun b => decide (b < 0x100) || (decide (0x600 ≤ b) && decide (b < 0x800))) then readFixed x k (regBytes s p a n) s
    else readDenied p s
  | .factory | .operational | .debug | .quarantine =>
    if fine then readFixed x k (regBytes s p a n) s else readDenied p s

/-- The banks a Pantry range touches. -/
def banksOf (a n : Nat) : List Nat := if n = 0 then [] else (List.range (bankOf (a + n - 1) - bankOf a + 1)).map (bankOf a + ·)
/-- A bank can be accessed (R61, R440). -/
def bankOn (s : State) (b : Nat) : Bool := decide ((pdOf s (36 + b)).st = .on) && !(pdOf s (36 + b)).closed

/-- MEM_RD of the Pantry (R60, R61, R72, R372). DEDUCED, log entry 58. -/
def readPantry (x : PortState) (k : Link) (a n : Nat) (s : State) : ReadOut :=
  if (banksOf a n).all (bankOn s) then
    let t := touch a n s
    let d := readArena t a n
    if (poisonIn t a n).isSome then ⟨.poison, if covers x k 80 then d else zeros n, t⟩
    else if covers x k 80 then ⟨.ok, d, t⟩ else readBusy t
  else readBusy ((banksOf a n).foldl wakeBank s)

/-- `PD_48` when a frame that waits is answered: gated, it has been woken, and its wake ends within the wait the link reports (R63, R369). -/
def larderAwake (x : PortState) (k : Link) (s : State) : State :=
  let s := requestWake 48 s
  if winHold x && k.ready then wakeDone 48 true s else s
/-- MEM_RD of the Larder (R63, R366 to R369): what lies in lines never written or in the write buffer needs no PSRAM access.
DEDUCED, log entry 58. DEDUCED, log entry 59. -/
def readLarder (x : PortState) (k : Link) (a n : Nat) (s : State) : ReadOut :=
  let s := larderAwake x k s
  if (pdOf s 48).st = .on ∧ ((larderHeld s a n && (winHold x || covers x k 80)) || (winHold x && k.ready && mpReady s)) = true then
    let t := touch a n s
    ⟨if (poisonIn t a n).isSome then .poison else .ok, readArena t a n, t⟩
  else readBusy s

/-- MEM_RD (R55, R60, R61, R63). DEDUCED, log entry 56. -/
def readMem (p : Nat) (k : Link) (a n : Nat) (s : State) : ReadOut :=
  if n = 0 ∨ 4096 < n ∨ arenaGranted s p a n = false then readDenied p s
  else if inLarder a then readLarder (portOf s p) k a n s else readPantry (portOf s p) k a n s

/-- The range lies in the flash window (R55). -/
def inWindow (a n : Nat) : Bool := decide (0x20000000 ≤ a) && decide (a + n ≤ 0x30000000)

/-- Octets at the start of a window range whose lines are cached. -/
def cachedRun (s : State) (a n : Nat) : Nat :=
  min n (((linesOf a n).takeWhile (fun u => (cachedLine s u).isSome)).length * 256 - a % 256)
/-- Data not ready: BUSY; when an external hold keeps a later line back, behind the octets already driven (R63, R394). DESIGN CHOICE, log entry 60. -/
def lateWindow (a n : Nat) (s : State) : ReadOut :=
  let m := if s.mp.holdActive then cachedRun s a n else 0
  let d := windowBytes s a m
  if m = 0 then readBusy s else ⟨.busy, d, tongsRead a d s⟩

/-- WIN_RD (R55, R62, R63, R68): a miss is filled even where the frame answers BUSY. DEDUCED, log entry 56. -/
def readWindow (p : Port) (k : Link) (a n : Nat) (s : State) : ReadOut :=
  let x := portOf s p
  let o := a - 0x20000000
  if n = 0 ∨ 4096 < n ∨ inWindow a n = false ∨ winGranted s p false o n = false then readDenied p s
  else if !winHold x && !covers x k 80 then readBusy (queueMisses p o n s)
  else match windowRead p o n (k.ready && winHold x) s with
    | (t, some d) => ⟨.ok, d, t⟩
    | (t, none) => lateWindow o n t

/-- The words of ROLL from a selector on (R56), with the number a level has. -/
def rollWords (s : State) (p a n : Nat) : Bytes :=
  (List.range (n / 4)).flatMap (fun i => toLe 4 (if bit a 31 then midWord s p (a % 64 + i) else leafSeen s p (a % 2048 + i)))
/-- The selector and length are legal (R56); in RECOVERY leaf word 0 and mid word 0 alone (R125). DEDUCED, log entry 56. -/
def rollOk (s : State) (a n : Nat) : Bool :=
  let m := bit a 31
  let first := if m then a % 64 else a % 2048
  decide (4 ≤ n) && decide (n ≤ 256) && n % 4 == 0 && a % 0x80000000 == first && decide (first + n / 4 ≤ if m then 64 else 2048)
    && (decide (s.boot.mode ≠ .recovery) || (first == 0 && n == 4))
/-- ROLL (R56). -/
def readRoll (p : Nat) (k : Link) (a n : Nat) (s : State) : ReadOut :=
  if rollOk s a n then readFixed (portOf s p) k (rollWords s p a n) s else readDenied p s

/-- The nine bytes of STATUS (R74). -/
def statusBytes (s : State) (p : Nat) : Bytes := toLe 8 (topBits s p) ++ toLe 1 (portHealth s p)
/-- A completed STATUS clears LINK_EVT and FETCH_DONE (R68). DEDUCED, log entry 55. -/
def readStatusFrame (p : Nat) (k : Link) (s : State) : ReadOut :=
  let r := readFixed (portOf s p) k (statusBytes s p) s
  match r.trailer with
  | .ok => { r with state := modPort s p (fun x => { x with linkEvt := false, fetchDone := false }) }
  | .busy | .poison | .denied | .wake | .crcFail => r

/-- Read frames refused by the mode (R95, R125): in BOOT all but REG_RD are BUSY, in RECOVERY the other ports and the window are
DENIED. -/
def readFrame (p : Port) (k : Link) (f : NymsyFrame) (s : State) : ReadOut :=
  if s.boot.mode = .recovery ∧ p.val ≠ 0 then readDenied p s else
  let boot := decide (s.boot.mode = .boot)
  match f with
  | .regRd a n => readRegs p k (a % 2 ^ 32) (n % 0x10000) s
  | .memRd a n => if boot then readBusy s else readMem p k (a % 2 ^ 32) (n % 0x10000) s
  | .winRd a n => if boot then readBusy s else readWindow p k (a % 2 ^ 32) (n % 0x10000) s
  | .status => if boot then readBusy s else readStatusFrame p k s
  | .roll a n => if boot then readBusy s else readRoll p k (a % 2 ^ 32) (n % 0x10000) s
  | .regWr _ _ | .memWr _ _ | .push _ _ | .winWr _ _ | .winFetch _ _ | .setLanes _ | .nop | .other _ => readBusy s

/-- Set what a port drove. -/
def respond (p : Nat) (r : Response) (s : State) : State := modPort s p (fun x => { x with response := r })

/-- Returned bytes with their pad, CRC and trailer (R53, R70, R72). -/
def answer (x : PortState) (d : Bytes) (t : Trailer) : Response :=
  let d := if bit x.lanes.toNat 10 ∧ d.length % 2 = 1 then d ++ [0] else d
  .read d (if x.crcEn then some (crc16 d) else none) t

/-- Note a frame the link got wrong: an event and LINK_EVT (R74, R86). -/
def linkEvent (p src : Nat) (s : State) : State := raise p src 0 none (modPort s p (fun x => { x with linkEvt := true }))

/-- The CRC arrived as it must (R70). -/
def crcOk (x : PortState) (k : Link) (f : NymsyFrame) : Bool := !x.crcEn || k.crc == some (frameCrc f)

/-- A read frame is served (R68, R71, R72): one released before its trailer has no effect. DEDUCED, log entry 54. -/
def serveRead (p : Port) (k : Link) (f : NymsyFrame) (s : State) : State :=
  let x := portOf s p
  let n := readLength f
  let r : ReadOut := if crcOk x k f then readFrame p k f s else ⟨.crcFail, [], linkEvent p 2 s⟩
  let d := match r.trailer with
    | .ok | .poison | .busy => fitTo n r.data
    | .denied | .wake | .crcFail => zeros n
  respond p (answer x d r.trailer) (if k.trailerDone then r.state else s)

/-- What a complete write frame comes to: an outcome code, the block besides the port that counts a refusal, and the state (R66). -/
structure WriteOut where
  outcome : Nat
  state : State

/-- Refused, with the block that counts it besides the port (R86, R126). -/
def writeDenied (p : Nat) (owner : Option Nat) (s : State) : WriteOut := ⟨wrDenied, noteDenied p owner s⟩

/-- MEM_WR (R51, R55, R368). -/
def frameMemWr (p : Nat) (a : Nat) (d : Bytes) (s : State) : WriteOut :=
  let (a, d) := dropLast a d
  if d = [] then ⟨wrOk, s⟩
  else if !arenaGranted s p a d.length then writeDenied p none s
  else if inLarder a then
    (if 131072 < buffered s + d.length then writeDenied p (some 8) s else ⟨wrOk, writeArena a d (requestWake 48 s)⟩)
  else ⟨wrOk, writeArena a d s⟩

/-- PUSH (R54, R55, R66, R67, R110). -/
def framePush (p : Nat) (a : Nat) (d : Bytes) (s : State) : WriteOut :=
  let x := portOf s p
  if s.boot.mode = .quarantine ∨ 0x10000 ≤ a ∨ ringGranted s p a = false then writeDenied p none s
  else if 8 ≤ x.pushBuf.length then ⟨wrBusy, s⟩
  else ⟨wrOk, modPort s p (fun x => { x with
    pushBuf := x.pushBuf ++ [{ ring := a, entry := d, seq := (x.lwSeq + 1) % 0x10000 }], lastRing := a, lastResult := 1 })⟩

/-- WIN_WR (R51, R54, R55, R255, R395). -/
def frameWinWr (p : Nat) (a : Nat) (d : Bytes) (s : State) : WriteOut :=
  let (a, d) := dropLast a d
  let o := a - 0x20000000
  if s.boot.mode = .quarantine ∨ s.boot.mode = .recovery then writeDenied p none s
  else if d = [] then ⟨wrOk, s⟩
  else if !inWindow a d.length || !winGranted s p true o d.length then writeDenied p none s
  else if measured s o d.length then writeDenied p none (raise 18 3 (lockedWindow s o d.length) none s)
  else if 4 ≤ (portOf s p).winQueue.length then writeDenied p (some 4) s
  else ⟨wrOk, enqueueOp p .winWr o d s⟩

/-- WIN_FETCH (R55, R64). DEDUCED, log entry 56. -/
def frameWinFetch (p : Port) (a n : Nat) (s : State) : WriteOut :=
  let o := a - 0x20000000
  if s.boot.mode = .quarantine ∨ s.boot.mode = .recovery ∨ n = 0 ∨ 4096 < n ∨ inWindow a n = false ∨ winGranted s p false o n = false then
    writeDenied p none s
  else if (portOf s p).fetch.isSome then ⟨wrBusy, s⟩
  else ⟨wrOk, queueWork (.line (o / 256 * 256) (.fetch p))
    (modPort s p (fun x => { x with fetch := some { first := o, next := o / 256 * 256, stop := o + n } }))⟩

/-- SET_LANES (R75, R81). -/
def frameSetLanes (p : Nat) (d : Bytes) (s : State) : WriteOut :=
  let r := writeLanes p (leNat d) s
  if r.ok then ⟨wrOk, r.state⟩ else writeDenied p none s

/-- A complete write frame (R65, R66), with what the mode refuses (R95, R125). -/
def writeFrame (p : Port) (f : NymsyFrame) (s : State) : WriteOut :=
  if s.boot.mode = .recovery ∧ p.val ≠ 0 then writeDenied p none s else
  let boot := decide (s.boot.mode = .boot)
  match f with
  | .regWr a d => let r := regWrite p (a % 2 ^ 32) (leNat d) s; ⟨r.2, r.1⟩
  | .setLanes d => frameSetLanes p d s
  | .memWr a d => if boot then writeDenied p none s else frameMemWr p (a % 2 ^ 32) d s
  | .push a d => if boot then writeDenied p none s else framePush p (a % 2 ^ 32) d s
  | .winWr a d => if boot then writeDenied p none s else frameWinWr p (a % 2 ^ 32) d s
  | .winFetch a n => if boot then writeDenied p none s else frameWinFetch p (a % 2 ^ 32) (n % 0x10000) s
  | .regRd _ _ | .memRd _ _ | .winRd _ _ | .roll _ _ | .status | .nop | .other _ => ⟨wrTruncated, linkEvent p 1 s⟩

/-- A REG_WR of `PORT_CTRL` that sets WARM_RESET (R96). -/
def asksWarm (f : NymsyFrame) : Bool :=
  match f with
  | .regWr a d => a % 2 ^ 32 == 0x008 && bit (leNat d) 0
  | _ => false

/-- A write frame is complete (R50, R65): CRC bytes are judged apart. DEDUCED, log entry 57. DEDUCED, log entry 81. -/
def writeComplete (x : PortState) (k : Link) (f : NymsyFrame) : Bool :=
  k.whole && unitsOk f && dataWhole x (dataOf f).length && (!x.crcEn || k.crc.isSome)
    && !(!x.crcEn && k.crc.isSome && classOf (opcodeOf f) == .write && dataOf f == [])

/-- A write frame is served: its outcome is recorded at the select release, a warm reset it asks for follows (R66, R96). DEDUCED, log entry 57. -/
def serveWrite (p : Port) (k : Link) (f : NymsyFrame) (s : State) : State :=
  let x := portOf s p
  let f := if x.crcEn then f else withStray k.crc f
  let op := opcodeOf f
  let s := respond p .silent s
  if !writeComplete x k f then recordWr p op wrTruncated (linkEvent p 1 s)
  else if !crcOk x k f then recordWr p op wrCrcFail (linkEvent p 2 s)
  else
    let w := writeFrame p f s
    let s := recordWr p op w.outcome w.state
    if asksWarm f && w.outcome == wrOk then warmReset p 1 s else s

/-- An opcode that is not in the table: refused, SEQ stays (R57, R106). -/
def serveUnknown (p : Nat) (o : Nat) (s : State) : State :=
  let s := noteDenied p none (respond p .silent s)
  modPort s p (fun x => { x with lwOpcode := o, lwOutcome := wrDenied, linkEvt := true })

/-- A Nymsy frame at a port whose logic is on (R54, R57, R78). DEDUCED, log entry 80. -/
def serveNymsy (p : Port) (k : Link) (f : NymsyFrame) (s : State) : State :=
  if !k.cplOk then linkEvent p 0 (respond p .silent s)
  else match classOf (opcodeOf f), f with
    | .read, .other _ => respond p .silent s
    | .read, f => serveRead p k f s
    | .write, f => serveWrite p k f s
    | .nop, f => let s := respond p .silent s; if crcOk (portOf s p) k f then s else linkEvent p 2 s
    | .unknown, f => serveUnknown p (opcodeOf f) s

/-- No frame is handled: no supply, or BOOT before its ports answer (R22, R33, R95). -/
def portDead (s : State) : Bool :=
  !s.board.porHigh || !s.board.vddioHpOk || (decide (s.boot.mode = .boot) && !s.boot.answering)
/-- The sentinel answers: the port is gated or closed for gating, or has just had a warm reset (R79, R80, R96). -/
def sentinelAnswers (s : State) (p : Nat) (k : Link) : Bool :=
  decide ((pdOf s (44 + p)).st ≠ .on) || (pdOf s (44 + p)).closed || (k.early && (portOf s p).warmCause != 0)

/-- A write the sentinel discards: recorded WAKE once the port is ON (R80). DEDUCED, log entry 62. -/
def discardWrite (p o : Nat) (s : State) : State :=
  let s := raise p 5 0 none s
  if (pdOf s (44 + p)).st = .on ∧ (pdOf s (44 + p)).closed = false then recordWr p o wrWake s
  else modPort s p (fun x => { x with wakeRecords := x.wakeRecords ++ [o] })

/-- The fall of a gated port's select wakes it, and the port drives nothing yet (R79). -/
def sentinelWake (p : Nat) (s : State) : State := requestWake (44 + p) (respond p .silent s)

/-- The sentinel's answer to a Nymsy frame (R80); the fall of the select wakes the port (R79). DEDUCED, log entry 62. -/
def sentinelNymsy (p : Nat) (k : Link) (f : NymsyFrame) (s : State) : State :=
  let x := portOf s p
  let s := sentinelWake p s
  if !k.cplOk then linkEvent p 0 s
  else match classOf (opcodeOf f) with
    | .read => respond p (answer x (zeros (readLength f)) .wake) (raise p 5 0 none s)
    | .write => discardWrite p (opcodeOf f) s
    | .nop => s
    | .unknown => s

/-- A frame at a port: nothing, the sentinel, or the port's logic. -/
def atPort (p : Port) (k : Link) (sentinel logic : State → State) (s : State) : State :=
  if portDead s then respond p .silent s else if sentinelAnswers s p k then sentinel s else logic s

/-- A Nymsy frame as the port's personality carries it: natively, or after the escape (R85). -/
def portFrame (p : Port) (k : Link) (f : NymsyFrame) (s : State) : State :=
  atPort p k (sentinelNymsy p k f) (serveNymsy p k f) s

/-- A write of one register of the port. -/
def regFrame (p : Port) (k : Link) (a v : Nat) (s : State) : State := portFrame p k (.regWr a (toLe 4 v)) s

/-- A lane reset (R77): in every lane configuration, personality and mode. DEDUCED, log entry 63. -/
def laneReset (p : Nat) (s : State) : State :=
  if !s.board.porHigh || !s.board.vddioHpOk then s else
  let s := recordWr p 0xFF wrLaneReset (requestWake (44 + p) (respond p .silent s))
  modPort s p (fun x => { x with lanes := 0, timing := 0x00400108, crcEn := false, linkEvt := true })

end Sys2Proof.Machine
end

