-- ==== Sys2Proof/Machine/Xip.lean ====
section
/-! DEFINITION. The XIP personality: its commands, the synthesised status, ID and SFDP, and what becomes of an XIP command at a Nymsy port
(R51, R57, R78, R81 to R85, R106, R255, R394, R397). -/

namespace Sys2Proof.Machine

/-- The port is in 8D-8D-8D (R81). -/
def inOctal (x : PortState) : Bool := x.lanes == 0x777

/-- An XIP command sent to a Nymsy port: two bytes with a valid complement reach the opcode table only where commands run at x8 DDR
(R54, R57, R78; DEDUCED, log entry 39). SECTOR ERASE is then MEM_WR without data. -/
def xipAtNymsy (p : Port) (k : Link) (code : Nat) (s : State) : State :=
  if bits (portOf s p).lanes.toNat 2 0 = 7 then serveNymsy p k (.other (BitVec.ofNat 8 code)) s
  else linkEvent p 0 (respond p .silent s)

/-- Commands run at x8 DDR: an XIP command's two bytes are then a Nymsy command phase (R54, R57). -/
def pairsCommands (x : PortState) : Bool := bits x.lanes.toNat 2 0 == 7

/-- What a gated XIP port's sentinel does with an XIP command: a read returns zero bytes, anything else is discarded; `HP_LAST_WR` is not
touched; a wrong complement is a lane mismatch (R78, R80, R106). DEDUCED, log entry 62. -/
def sentinelXip (p : Nat) (k : Link) (r : Option Nat) (s : State) : State :=
  let s := sentinelWake p s
  if inOctal (portOf s p) && !k.cplOk then linkEvent p 0 s
  else respond p (match r with | some n => .xip (zeros n) | none => .silent) (raise p 5 0 none s)

/-- What a gated Nymsy port's sentinel does with an XIP command (R54, R57, R78, R80; DEDUCED, log entry 62). -/
def sentinelAtNymsy (p : Port) (k : Link) (code : Nat) (s : State) : State :=
  if pairsCommands (portOf s p) then sentinelNymsy p k (.other (BitVec.ofNat 8 code)) s else linkEvent p 0 (sentinelWake p s)

/-- An XIP command at a port: `code` is its 8D code, `read` the bytes it asks for if it reads, `busyRuns` that WIP does not hold it off
(R80, R82, R83). -/
def xipCommand (p : Port) (k : Link) (code : Nat) (read : Option Nat) (busyRuns : Bool) (run : State → State) (s : State) : State :=
  atPort p k (fun s => if (portOf s p).xip then sentinelXip p k read s else sentinelAtNymsy p k code s) (fun s =>
    let x := portOf s p
    if !x.xip then xipAtNymsy p k code s
    else if inOctal x && !k.cplOk then linkEvent p 0 (respond p .silent s)
    else if x.wip && !busyRuns then respond p .silent s
    else run s) s

/-- The pieces of a range that lie in one cache line each. -/
def linePieces (a n : Nat) : List (Nat × Nat) :=
  (linesOf a n).map (fun u => (max a u, min (a + n) (u + 256) - max a u))

/-- Read pieces in order until one is not ready (R82, R394): bytes not granted read 0xFF. -/
def readPieces (p : Port) (ready : Bool) : List (Nat × Nat) → Bytes → State → State × Bytes × Bool
  | [], got, s => (s, got, true)
  | (a, n) :: t, got, s =>
    if 0x10000000 < a + n ∨ winGranted s p false a n = false then readPieces p ready t (got ++ List.replicate n 0xFF) s
    else match windowRead p a n ready s with
      | (s', some d) => readPieces p ready t (got ++ d) s'
      | (s', none) => (s', got, false)

/-- READ (R82, R83, R394): bytes held back by an external hold read 0xFF at 1S-1S-1S, with XIP_UNDERRUN; otherwise the device waits. DESIGN CHOICE, log entry 60. -/
def xipRead (p : Port) (k : Link) (a n : Nat) (s : State) : State :=
  let x := portOf s p
  if x.wip then respond p (.xip (List.replicate n 0xFF)) s else
  let r := readPieces p k.ready (linePieces a n) [] s
  if r.2.2 || r.2.1 == [] || inOctal x || !s.mp.holdActive then respond p (.xip r.2.1) r.1
  else respond p (.xip (r.2.1 ++ List.replicate (n - r.2.1.length) 0xFF)) (raise 4 7 p none r.1)

/-- The synthesised status byte (R83). -/
def xipStatus (x : PortState) : Nat := b2n x.wip + 2 * b2n x.wel + 64 * b2n x.err

/-- A program or erase is refused (R83, R86): WEL clears, ERR is set, DENIED is raised and the port counts it. -/
def xipRefuse (p : Nat) (s : State) : State := noteDenied p none (modPort s p (fun x => { x with wel := false, err := true }))
/-- An incomplete program or erase (R83, R86): WEL clears without ERR; it is an incomplete write frame, so TRUNCATED is raised and not DENIED
(DEDUCED, log entry 87). -/
def xipShort (p : Nat) (s : State) : State := linkEvent p 1 (modPort s p (fun x => { x with wel := false }))

/-- A program or erase of a range: refused, or queued with WIP set (R83, R255, R397). -/
def xipWrite (p : Port) (kind : WinKind) (a n : Nat) (d : Bytes) (s : State) : State :=
  if !(portOf s p).wel || decide (0x10000000 < a + n) || !winGranted s p true a n then xipRefuse p s
  else if measured s a n then raise 18 3 (lockedWindow s a n) none (xipRefuse p s)
  else enqueueOp p kind a d (modPort s p (fun x => { x with wip := true }))

/-- PAGE PROGRAM (R51, R83, R397). -/
def xipProgram (p : Port) (k : Link) (a : Nat) (d : Bytes) (s : State) : State :=
  let s := respond p .silent s
  if !k.whole || d == [] || decide (256 < d.length) || (inOctal (portOf s p) && d.length % 2 == 1) then xipShort p s
  else if 256 < a % 256 + d.length then xipRefuse p s
  else xipWrite p .program a d.length d s

/-- SECTOR ERASE (R83, R397). DEDUCED, log entry 40. -/
def xipErase (p : Port) (k : Link) (a : Nat) (s : State) : State :=
  let s := respond p .silent s
  if !k.whole then xipShort p s
  else
    let u := a / 4096 * 4096
    let t := xipWrite p .erase u 4096 (List.replicate 4096 0xFF) s
    if (portOf t p).wip then dropLines u 4096 t else t

/-- READ ID (R84). -/
def xipId (n : Nat) : Bytes := (octets [0x3D, 0x65, 0x16] ++ zeros n).take n

/-- The header and the two parameter headers of the synthesised SFDP, laid out as JESD216 does (R84; PRESUMED, log entry 38). -/
def sfdpHeader : Bytes :=
  octets [0x53, 0x46, 0x44, 0x50, 0x08, 0x01, 0x01, 0xFF,
          0x00, 0x08, 0x01, 0x14, 0x80, 0x00, 0x00, 0xFF,
          0x05, 0x00, 0x01, 0x06, 0x00, 0x01, 0x00, 0xFF]

/-- An octet of which the bits of `mask` have the value `v`, the others those of a free octet. -/
def fixBits (mask v : Nat) (free : BitVec 8) : BitVec 8 := BitVec.ofNat 8 (v % 256) ||| (free &&& ~~~ BitVec.ofNat 8 mask)

/-- What R84 fixes of an octet of the two parameter tables: the mask of the bits fixed and their value. In the BFPT: 4 KB erase with 0x21
(DWORD 1), 4-byte addressing only (DWORD 1), density (DWORD 2), no 8S enable sequence among the standard ones (DWORD 19), 0x21 the only
erase type (DWORDs 8, 9), page size 256 (DWORD 11), 8D with inverted extension (DWORD 18), 8D to 100 MHz (DWORD 20). In the Profile 1.0 table:
0xEE, 4 address bytes and 8 dummies (DWORD 1), 20 dummies at 100 MHz (DWORD 5). The places are JESD216's (PRESUMED, log entry 38). -/
def sfdpFixed (a : Nat) : Nat × Nat :=
  match a with
  | 0x80 => (0x03, 0x01) | 0x81 => (0xFF, 0x21) | 0x82 => (0x06, 0x04)
  | 0x84 | 0x85 | 0x86 => (0xFF, 0xFF) | 0x87 => (0xFF, 0x7F)
  | 0x9C => (0xFF, 0x0C) | 0x9D => (0xFF, 0x21)
  | 0x9E | 0x9F | 0xA0 | 0xA1 | 0xA2 | 0xA3 => (0xFF, 0x00)
  | 0xA8 => (0xF0, 0x80)
  | 0xC7 => (0x60, 0x20)
  | 0xC8 => (0xFF, 0x00) | 0xC9 => (0x01, 0x00)
  | 0xCF => (0xF0, 0x50)
  | 0x101 => (0xFF, 0xEE) | 0x103 => (0x30, 0x30)
  | 0x110 => (0x80, 0x00) | 0x111 => (0x0F, 0x0A)
  | _ => (0, 0)

/-- An octet of the synthesised SFDP (R84): header, tables, 0xFF elsewhere. DWORDs 10 and 11 of the BFPT, the erase and program times, are
copied from the attached flash; bits of the tables that R84 does not give are free (PRESUMED, log entry 38). -/
def sfdpByte (s : State) (a : Nat) : BitVec 8 :=
  if a < 24 then sfdpHeader.getD a 0xFF
  else if (0x80 ≤ a ∧ a < 0xD0) ∨ (0x100 ≤ a ∧ a < 0x118) then
    let free := if 0xA4 ≤ a ∧ a < 0xAC then s.mp.sfdpTimes.extractLsb' (8 * (a - 0xA4)) 8 else Config.sfdpByte a
    fixBits (sfdpFixed a).1 (sfdpFixed a).2 free
  else 0xFF

/-- What is left of a native frame at an XIP port whose command byte is a code of the XIP subset (R82, R83): the two commands without address
run, a program or erase is incomplete, the status and the ID return the byte that the complement clocks out at 1S, a command whose address
is missing returns nothing (DEDUCED, log entry 39). -/
def xipPart (p : Nat) (o : Nat) (s : State) : State :=
  let x := portOf s p
  let s := respond p .silent s
  if o = 0x04 then modPort s p (fun x => { x with wel := false })
  else if o = 0x05 ∧ inOctal x = false then respond p (.xip [BitVec.ofNat 8 (xipStatus x)]) s
  else if x.wip then s
  else if o = 0x06 then modPort s p (fun x => { x with wel := true, err := false })
  else if o = 0x12 ∨ o = 0x21 then xipShort p s
  else if o = 0x9F ∧ inOctal x = false then respond p (.xip (xipId 1)) s
  else s
/-- The code of a command byte is in the XIP subset of the port's lane configuration (R82). -/
def xipListed (x : PortState) (o : Nat) : Bool :=
  o == (if inOctal x then 0xEE else 0x0C) || o == 0x05 || o == 0x06 || o == 0x04 || o == 0x12 || o == 0x21 || o == 0x9F || o == 0x5A || o == 0xF5
/-- A Nymsy frame sent natively to an XIP port (R78, R82; DEDUCED, log entry 39). -/
def xipNative (p : Port) (k : Link) (f : NymsyFrame) (s : State) : State :=
  let x := portOf s p
  if (inOctal x && !k.cplOk) || !xipListed x (opcodeOf f) then linkEvent p 0 (respond p .silent s) else xipPart p (opcodeOf f) s
/-- The sentinel of a gated XIP port meets a Nymsy frame sent natively: it decodes by the port's personality (R80, R82; DEDUCED, log entry 62). -/
def sentinelNative (p : Port) (k : Link) (f : NymsyFrame) (s : State) : State :=
  let x := portOf s p
  if !x.xip then sentinelNymsy p k f s
  else if !xipListed x (opcodeOf f) then linkEvent p 0 (sentinelWake p s)
  else sentinelXip p k (if !inOctal x && (opcodeOf f == 0x05 || opcodeOf f == 0x9F) then some 1 else none) s

/-- A Nymsy frame sent natively, at a port of either personality (R80, R82). R80 decodes with the port's personality at a gated port and does not
say what an XIP port's sentinel does with a Nymsy frame: the model reads its first byte as an XIP command or an unknown one (DEDUCED, log
entry 62). -/
def nativeFrame (p : Port) (k : Link) (f : NymsyFrame) (s : State) : State :=
  atPort p k (sentinelNative p k f) (fun s => if (portOf s p).xip then xipNative p k f s else serveNymsy p k f s) s

/-- XIP_READ (R82). -/
def execXipRead (p : Port) (k : Link) (addr len : Nat) (s : State) : Host.Outcome State Fault Refusal :=
  .next (xipCommand p k 0xEE (some len) true (xipRead p k (addr % 2 ^ 32) len) s)

/-- XIP_READ_STATUS (R83). -/
def execXipReadStatus (p : Port) (k : Link) (len : Nat) (s : State) : Host.Outcome State Fault Refusal :=
  .next (xipCommand p k 0x05 (some len) true (fun s =>
    respond p (.xip (List.replicate len (BitVec.ofNat 8 (xipStatus (portOf s p))))) s) s)

/-- XIP_WRITE_ENABLE (R83). -/
def execXipWriteEnable (p : Port) (k : Link) (s : State) : Host.Outcome State Fault Refusal :=
  .next (xipCommand p k 0x06 none false (fun s => modPort s p (fun x => { x with wel := true, err := false, response := .silent })) s)

/-- XIP_WRITE_DISABLE (R83). -/
def execXipWriteDisable (p : Port) (k : Link) (s : State) : Host.Outcome State Fault Refusal :=
  .next (xipCommand p k 0x04 none true (fun s => modPort s p (fun x => { x with wel := false, response := .silent })) s)

/-- XIP_PAGE_PROGRAM (R397). -/
def execXipPageProgram (p : Port) (k : Link) (addr : Nat) (data : Bytes) (s : State) : Host.Outcome State Fault Refusal :=
  .next (xipCommand p k 0x12 none false (xipProgram p k (addr % 2 ^ 32) data) s)

/-- XIP_SECTOR_ERASE (R397). -/
def execXipSectorErase (p : Port) (k : Link) (addr : Nat) (s : State) : Host.Outcome State Fault Refusal :=
  .next (xipCommand p k 0x21 none false (xipErase p k (addr % 2 ^ 32)) s)

/-- XIP_READ_ID (R84). -/
def execXipReadId (p : Port) (k : Link) (len : Nat) (s : State) : Host.Outcome State Fault Refusal :=
  .next (xipCommand p k 0x9F (some len) false (respond p (.xip (xipId len))) s)

/-- XIP_READ_SFDP (R84). -/
def execXipReadSfdp (p : Port) (k : Link) (addr len : Nat) (s : State) : Host.Outcome State Fault Refusal :=
  .next (xipCommand p k 0x5A (some len) false (fun s =>
    respond p (.xip ((List.range len).map (fun i => sfdpByte s (addr % 2 ^ 32 + i)))) s) s)

/-- NYMSY_ESCAPE (R85): an XIP port runs the frame as a Nymsy port would; at a Nymsy port the escape byte is an unknown opcode. DEDUCED, log entry 39. -/
def execNymsyEscape (p : Port) (k : Link) (f : NymsyFrame) (s : State) : Host.Outcome State Fault Refusal :=
  .next (atPort p k (fun s => if (portOf s p).xip then sentinelNymsy p k f s else sentinelAtNymsy p k 0xF5 s)
    (fun s => if (portOf s p).xip then serveNymsy p k f s else xipAtNymsy p k 0xF5 s) s)

end Sys2Proof.Machine
end

