-- ==== Sys2Proof/Machine/Frames.lean ====
section
/-! DEFINITION. The commands that are frames: each Nymsy frame of R54, and each register write that has a row of its own. -/

namespace Sys2Proof.Machine

/-- REG_RD (R92). -/
def execRegRd (p : Port) (k : Link) (addr len : Nat) (s : State) : Host.Outcome State Fault Refusal :=
  .next (nativeFrame p k (.regRd addr len) s)
/-- REGISTER_WRITE (R7). -/
def execRegisterWrite (p : Port) (k : Link) (addr : Nat) (data : Bytes) (s : State) : Host.Outcome State Fault Refusal :=
  .next (nativeFrame p k (.regWr addr data) s)
/-- MEM_RD (R60). -/
def execMemRd (p : Port) (k : Link) (addr len : Nat) (s : State) : Host.Outcome State Fault Refusal :=
  .next (nativeFrame p k (.memRd addr len) s)
/-- MEM_WR (R65). -/
def execMemWr (p : Port) (k : Link) (addr : Nat) (data : Bytes) (s : State) : Host.Outcome State Fault Refusal :=
  .next (nativeFrame p k (.memWr addr data) s)
/-- PUSH (R67). -/
def execPush (p : Port) (k : Link) (addr : Nat) (data : Bytes) (s : State) : Host.Outcome State Fault Refusal :=
  .next (nativeFrame p k (.push addr data) s)
/-- WIN_RD (R62). -/
def execWinRd (p : Port) (k : Link) (addr len : Nat) (s : State) : Host.Outcome State Fault Refusal :=
  .next (nativeFrame p k (.winRd addr len) s)
/-- WIN_WR (R395). -/
def execWinWr (p : Port) (k : Link) (addr : Nat) (data : Bytes) (s : State) : Host.Outcome State Fault Refusal :=
  .next (nativeFrame p k (.winWr addr data) s)
/-- WIN_FETCH (R64). -/
def execWinFetch (p : Port) (k : Link) (addr len : Nat) (s : State) : Host.Outcome State Fault Refusal :=
  .next (nativeFrame p k (.winFetch addr len) s)
/-- STATUS (R74). -/
def execStatus (p : Port) (k : Link) (s : State) : Host.Outcome State Fault Refusal := .next (nativeFrame p k .status s)
/-- ROLL (R56). -/
def execRoll (p : Port) (k : Link) (addr len : Nat) (s : State) : Host.Outcome State Fault Refusal :=
  .next (nativeFrame p k (.roll addr len) s)
/-- SET_LANES (R75). -/
def execSetLanes (p : Port) (k : Link) (data : Bytes) (s : State) : Host.Outcome State Fault Refusal :=
  .next (nativeFrame p k (.setLanes data) s)
/-- NOP (R54). -/
def execNop (p : Port) (k : Link) (s : State) : Host.Outcome State Fault Refusal := .next (nativeFrame p k .nop s)
/-- LANE_RESET (R77). -/
def execLaneReset (p : Port) (s : State) : Host.Outcome State Fault Refusal := .next (laneReset p.val s)
/-- GATED_PORT_FRAME (R80): at a port that is ON the frame is served. -/
def execGatedPortFrame (p : Port) (k : Link) (f : NymsyFrame) (s : State) : Host.Outcome State Fault Refusal :=
  .next (nativeFrame p k f s)
/-- UNKNOWN_OPCODE_FRAME (R57). -/
def execUnknownOpcodeFrame (p : Port) (k : Link) (opcode : Byte) (s : State) : Host.Outcome State Fault Refusal :=
  .next (nativeFrame p k (.other opcode) s)

/-- WARM_RESET (R96). -/
def execWarmReset (p : Port) (k : Link) (scratch : BitVec 16) (s : State) : Host.Outcome State Fault Refusal :=
  .next (regFrame p k 0x008 (scratch.toNat * 0x10000 + 1) s)
/-- FETCH_ABORT (R102). -/
def execFetchAbort (p : Port) (k : Link) (scratch : BitVec 16) (s : State) : Host.Outcome State Fault Refusal :=
  .next (regFrame p k 0x008 (scratch.toNat * 0x10000 + 2) s)

/-- CREATE (R145). -/
def execCreate (p : Port) (k : Link) (s : State) : Host.Outcome State Fault Refusal := .next (regFrame p k 0x080 1 s)
/-- PAUSE (R146). -/
def execPause (p : Port) (k : Link) (s : State) : Host.Outcome State Fault Refusal := .next (regFrame p k 0x080 2 s)
/-- RESUME (R146). -/
def execResume (p : Port) (k : Link) (s : State) : Host.Outcome State Fault Refusal := .next (regFrame p k 0x080 3 s)
/-- SHUTDOWN (R170). -/
def execShutdown (p : Port) (k : Link) (s : State) : Host.Outcome State Fault Refusal := .next (regFrame p k 0x080 4 s)
/-- RELEASE (R146). -/
def execRelease (p : Port) (k : Link) (s : State) : Host.Outcome State Fault Refusal := .next (regFrame p k 0x080 5 s)
/-- QUERY (R147). -/
def execQuery (p : Port) (k : Link) (s : State) : Host.Outcome State Fault Refusal := .next (regFrame p k 0x080 6 s)
/-- RING_KICK (R163). -/
def execRingKick (p : Port) (k : Link) (ring : BitVec 16) (s : State) : Host.Outcome State Fault Refusal :=
  .next (regFrame p k 0x0A0 ring.toNat s)
/-- ROLL_ACK_RING (R169). -/
def execRollAckRing (p : Port) (k : Link) (ring : BitVec 16) (s : State) : Host.Outcome State Fault Refusal :=
  .next (regFrame p k 0x058 ring.toNat s)
/-- ROLL_ACK_WORD (R169). -/
def execRollAckWord (p : Port) (k : Link) (word : BitVec 11) (upper : Bool) (mask : BitVec 16) (s : State) :
    Host.Outcome State Fault Refusal :=
  .next (regFrame p k 0x058 (2 ^ 31 + b2n upper * 2 ^ 27 + word.toNat * 2 ^ 16 + mask.toNat) s)

/-- SPREAD_CFG_WRITE (R41). -/
def execSpreadCfgWrite (p : Port) (k : Link) (depth : BitVec 2) (s : State) : Host.Outcome State Fault Refusal :=
  .next (regFrame p k 0x8C0 depth.toNat s)
/-- SLEW_CFG_WRITE (R43). -/
def execSlewCfgWrite (p : Port) (k : Link) (v : BitVec 20) (s : State) : Host.Outcome State Fault Refusal :=
  .next (regFrame p k 0x8C4 v.toNat s)
/-- WIN_CACHE_INVALIDATE (R391). -/
def execWinCacheInvalidate (p : Port) (k : Link) (xipWays depth : BitVec 4) (s : State) : Host.Outcome State Fault Refusal :=
  .next (regFrame p k 0x944 (2 ^ 31 + xipWays.toNat * 256 + depth.toNat) s)
/-- TIME_TRIM (R341). -/
def execTimeTrim (p : Port) (k : Link) (delta : BitVec 18) (s : State) : Host.Outcome State Fault Refusal :=
  .next (regFrame p k 0x410 delta.toNat s)
/-- CKPT_NOW (R353). -/
def execCkptNow (p : Port) (k : Link) (s : State) : Host.Outcome State Fault Refusal := .next (regFrame p k 0x9C0 1 s)
/-- TAMPER_ARM_WRITE (R430). -/
def execTamperArmWrite (p : Port) (k : Link) (v : BitVec 9) (s : State) : Host.Outcome State Fault Refusal :=
  .next (regFrame p k 0x888 v.toNat s)
/-- PD_POLICY_WRITE (R438). -/
def execPdPolicyWrite (p : Port) (k : Link) (w : Fin 7) (v : Word) (s : State) : Host.Outcome State Fault Refusal :=
  .next (regFrame p k (0x820 + 4 * w.val) v.toNat s)
/-- EVENT_CLEAR (R415). -/
def execEventClear (p : Port) (k : Link) (b : Fin 21) (mask : BitVec 8) (s : State) : Host.Outcome State Fault Refusal :=
  .next (regFrame p k (0x604 + 16 * b.val) mask.toNat s)
/-- FORCE_STOP (R419). -/
def execForceStop (p : Port) (k : Link) (on : Bool) (rate : BitVec 3) (s : State) : Host.Outcome State Fault Refusal :=
  .next (regFrame p k 0x884 (b2n on * 256 + rate.toNat) s)
/-- WDT_ENABLE (R421). -/
def execWdtEnable (p : Port) (k : Link) (action : BitVec 2) (s : State) : Host.Outcome State Fault Refusal :=
  .next (regFrame p k 0x028 (action.toNat * 2 + 1) s)
/-- WDT_DISABLE (R421). -/
def execWdtDisable (p : Port) (k : Link) (action : BitVec 2) (s : State) : Host.Outcome State Fault Refusal :=
  .next (regFrame p k 0x028 (action.toNat * 2) s)
/-- WDT_SVC (R421): the full reset of a FATAL failure follows (R422). -/
def execWdtSvc (p : Port) (k : Link) (key : Word) (b : BootEnv) (s : State) : Host.Outcome State Fault Refusal :=
  .next (fatalReset b (regFrame p k 0x024 key.toNat s))
/-- WDT_LOCK_SET (R424). -/
def execWdtLockSet (p : Port) (k : Link) (q : Port) (action : BitVec 2) (s : State) : Host.Outcome State Fault Refusal :=
  .next (regFrame p k (0x894 + 8 * q.val) (0x100 + action.toNat) s)
/-- WDT_LOCK_CLEAR (R424). -/
def execWdtLockClear (p : Port) (k : Link) (q : Port) (action : BitVec 2) (s : State) : Host.Outcome State Fault Refusal :=
  .next (regFrame p k (0x894 + 8 * q.val) action.toNat s)
/-- FI_FIRE (R433). -/
def execFiFire (p : Port) (k : Link) (react : Bool) (s : State) : Host.Outcome State Fault Refusal :=
  .next (regFrame p k 0xC44 (b2n react * 2 + 1) s)
/-- FI_ECC_GO (R433). -/
def execFiEccGo (p : Port) (k : Link) (bits : BitVec 2) (s : State) : Host.Outcome State Fault Refusal :=
  .next (regFrame p k 0xC4C (16 + bits.toNat) s)

end Sys2Proof.Machine
end

