-- ==== Sys2Proof/Machine/Clock.lean ====
section
/-! DEFINITION. Time that passes while no command waits, and the order in which commands enter the queue (log entries 1 and 32). -/

namespace Sys2Proof.Machine

/-- The monotonic clock counts: from the RTC, or from `CLK_HK` while VDD_AON is present (R428). DESIGN CHOICE, log entry 32. -/
def clockRuns (s : State) : Bool := s.board.rtcRunning || s.board.porHigh

/-- One tick of the monotonic clock passes, and a boundary it is comes with it (R346); the microsecond of the wakes started before has passed too (R338, R436; DESIGN CHOICE, log entry 32). -/
def tick (s : State) : State :=
  let s := { s with power := { s.power with wakesNow := 0 } }
  if clockRuns s then elapseTo (s.mono + 1) s else s

end Sys2Proof.Machine
end

