-- ==== Sys2Proof/Machine/Dispatch.lean ====
section
/-! DEFINITION. The one arm per command: each a direct call of that command's meaning. -/

namespace Sys2Proof.Machine

def exec (i : Instr) (s : State) : Host.Outcome State Fault Refusal :=
  match i with
  | .regRd p k addr len => Sys2Proof.Machine.execRegRd p k addr len s
  | .registerWrite p k addr data => Sys2Proof.Machine.execRegisterWrite p k addr data s
  | .memRd p k addr len => Sys2Proof.Machine.execMemRd p k addr len s
  | .memWr p k addr data => Sys2Proof.Machine.execMemWr p k addr data s
  | .push p k addr data => Sys2Proof.Machine.execPush p k addr data s
  | .winRd p k addr len => Sys2Proof.Machine.execWinRd p k addr len s
  | .winWr p k addr data => Sys2Proof.Machine.execWinWr p k addr data s
  | .winFetch p k addr len => Sys2Proof.Machine.execWinFetch p k addr len s
  | .status p k => Sys2Proof.Machine.execStatus p k s
  | .roll p k addr len => Sys2Proof.Machine.execRoll p k addr len s
  | .setLanes p k data => Sys2Proof.Machine.execSetLanes p k data s
  | .nop p k => Sys2Proof.Machine.execNop p k s
  | .laneReset p => Sys2Proof.Machine.execLaneReset p s
  | .gatedPortFrame p k f => Sys2Proof.Machine.execGatedPortFrame p k f s
  | .portWakeDone p => Sys2Proof.Machine.execPortWakeDone p s
  | .xipRead p k addr len => Sys2Proof.Machine.execXipRead p k addr len s
  | .xipReadStatus p k len => Sys2Proof.Machine.execXipReadStatus p k len s
  | .xipWriteEnable p k => Sys2Proof.Machine.execXipWriteEnable p k s
  | .xipWriteDisable p k => Sys2Proof.Machine.execXipWriteDisable p k s
  | .xipPageProgram p k addr data => Sys2Proof.Machine.execXipPageProgram p k addr data s
  | .xipSectorErase p k addr => Sys2Proof.Machine.execXipSectorErase p k addr s
  | .xipReadId p k len => Sys2Proof.Machine.execXipReadId p k len s
  | .xipReadSfdp p k addr len => Sys2Proof.Machine.execXipReadSfdp p k addr len s
  | .nymsyEscape p k f => Sys2Proof.Machine.execNymsyEscape p k f s
  | .warmReset p k scratch => Sys2Proof.Machine.execWarmReset p k scratch s
  | .fetchAbort p k scratch => Sys2Proof.Machine.execFetchAbort p k scratch s
  | .create p k => Sys2Proof.Machine.execCreate p k s
  | .pause p k => Sys2Proof.Machine.execPause p k s
  | .resume p k => Sys2Proof.Machine.execResume p k s
  | .shutdown p k => Sys2Proof.Machine.execShutdown p k s
  | .release p k => Sys2Proof.Machine.execRelease p k s
  | .query p k => Sys2Proof.Machine.execQuery p k s
  | .ringKick p k ring => Sys2Proof.Machine.execRingKick p k ring s
  | .rollAckRing p k ring => Sys2Proof.Machine.execRollAckRing p k ring s
  | .rollAckWord p k word upper mask => Sys2Proof.Machine.execRollAckWord p k word upper mask s
  | .ringPoll ring => Sys2Proof.Machine.execRingPoll ring s
  | .pushDeposit p => Sys2Proof.Machine.execPushDeposit p s
  | .dupHashDone h => Sys2Proof.Machine.execDupHashDone h s
  | .hamperAdmission => Sys2Proof.Machine.execHamperAdmission s
  | .engineGrant e => Sys2Proof.Machine.execEngineGrant e s
  | .agePromotion h => Sys2Proof.Machine.execAgePromotion h s
  | .claimWait p => Sys2Proof.Machine.execClaimWait p s
  | .preemptSuspend h => Sys2Proof.Machine.execPreemptSuspend h s
  | .hamperComplete h => Sys2Proof.Machine.execHamperComplete h s
  | .nopEntry h => Sys2Proof.Machine.execNopEntry h s
  | .random h flt => Sys2Proof.Machine.execRandom h flt s
  | .cipher h flt => Sys2Proof.Machine.execCipher h flt s
  | .aeadSeal h flt => Sys2Proof.Machine.execAeadSeal h flt s
  | .aeadOpen h flt => Sys2Proof.Machine.execAeadOpen h flt s
  | .macGen h flt => Sys2Proof.Machine.execMacGen h flt s
  | .macCheck h flt => Sys2Proof.Machine.execMacCheck h flt s
  | .digest h flt => Sys2Proof.Machine.execDigest h flt s
  | .hmacGen h flt => Sys2Proof.Machine.execHmacGen h flt s
  | .hmacCheck h flt => Sys2Proof.Machine.execHmacCheck h flt s
  | .compare h flt => Sys2Proof.Machine.execCompare h flt s
  | .extend h flt => Sys2Proof.Machine.execExtend h flt s
  | .quote h flt => Sys2Proof.Machine.execQuote h flt s
  | .ctxExport h flt => Sys2Proof.Machine.execCtxExport h flt s
  | .ctxImport h flt => Sys2Proof.Machine.execCtxImport h flt s
  | .sign h flt => Sys2Proof.Machine.execSign h flt s
  | .verify h flt => Sys2Proof.Machine.execVerify h flt s
  | .agree h flt => Sys2Proof.Machine.execAgree h flt s
  | .rsaDecrypt h flt => Sys2Proof.Machine.execRsaDecrypt h flt s
  | .modmath h flt => Sys2Proof.Machine.execModmath h flt s
  | .issue h flt => Sys2Proof.Machine.execIssue h flt s
  | .deriveExport h flt => Sys2Proof.Machine.execDeriveExport h flt s
  | .deriveTemp h flt => Sys2Proof.Machine.execDeriveTemp h flt s
  | .attest h flt => Sys2Proof.Machine.execAttest h flt s
  | .meterPost h flt => Sys2Proof.Machine.execMeterPost h flt s
  | .meterPostTimeout h flt => Sys2Proof.Machine.execMeterPostTimeout h flt s
  | .claim h run => Sys2Proof.Machine.execClaim h run s
  | .operatorRotate h run => Sys2Proof.Machine.execOperatorRotate h run s
  | .domainCreate h run => Sys2Proof.Machine.execDomainCreate h run s
  | .domainDestroy h run => Sys2Proof.Machine.execDomainDestroy h run s
  | .domainOwnerRotate h run => Sys2Proof.Machine.execDomainOwnerRotate h run s
  | .portGrant h run => Sys2Proof.Machine.execPortGrant h run s
  | .quotaSet h run => Sys2Proof.Machine.execQuotaSet h run s
  | .rateSchedule h run => Sys2Proof.Machine.execRateSchedule h run s
  | .meterConfig h run => Sys2Proof.Machine.execMeterConfig h run s
  | .timeSet h run => Sys2Proof.Machine.execTimeSet h run s
  | .flashLayout h run => Sys2Proof.Machine.execFlashLayout h run s
  | .referenceSet h run => Sys2Proof.Machine.execReferenceSet h run s
  | .keyImport h run => Sys2Proof.Machine.execKeyImport h run s
  | .keyGenerate h run => Sys2Proof.Machine.execKeyGenerate h run s
  | .keyReplace h run => Sys2Proof.Machine.execKeyReplace h run s
  | .keyDestroy h run => Sys2Proof.Machine.execKeyDestroy h run s
  | .sealPolicy h run => Sys2Proof.Machine.execSealPolicy h run s
  | .debugUnlock h run => Sys2Proof.Machine.execDebugUnlock h run s
  | .recoveryAuth h run => Sys2Proof.Machine.execRecoveryAuth h run s
  | .reRoot h run => Sys2Proof.Machine.execReRoot h run s
  | .keyLoadDone d handle => Sys2Proof.Machine.execKeyLoadDone d handle s
  | .deviceFullReset b => Sys2Proof.Machine.execDeviceFullReset b s
  | .powerOnReset => Sys2Proof.Machine.execPowerOnReset s
  | .porRelease b => Sys2Proof.Machine.execPorRelease b s
  | .pllLockRetry b => Sys2Proof.Machine.execPllLockRetry b s
  | .bootComplete => Sys2Proof.Machine.execBootComplete s
  | .hrstRelease p => Sys2Proof.Machine.execHrstRelease p s
  | .pfailAssert => Sys2Proof.Machine.execPfailAssert s
  | .pfailRelease => Sys2Proof.Machine.execPfailRelease s
  | .brownoutWarning completes => Sys2Proof.Machine.execBrownoutWarning completes s
  | .backupSwitchover auxMv => Sys2Proof.Machine.execBackupSwitchover auxMv s
  | .vddioHpLoss => Sys2Proof.Machine.execVddioHpLoss s
  | .vddioHpReturn => Sys2Proof.Machine.execVddioHpReturn s
  | .vddioMpLoss => Sys2Proof.Machine.execVddioMpLoss s
  | .vddioMpReturn equalBytes wip reentryOk => Sys2Proof.Machine.execVddioMpReturn equalBytes wip reentryOk s
  | .lowBatteryCheck vbatMv => Sys2Proof.Machine.execLowBatteryCheck vbatMv s
  | .spreadCfgWrite p k depth => Sys2Proof.Machine.execSpreadCfgWrite p k depth s
  | .spreadApplied => Sys2Proof.Machine.execSpreadApplied s
  | .slewCfgWrite p k v => Sys2Proof.Machine.execSlewCfgWrite p k v s
  | .winCacheInvalidate p k xipWays depth => Sys2Proof.Machine.execWinCacheInvalidate p k xipWays depth s
  | .timeTrim p k delta => Sys2Proof.Machine.execTimeTrim p k delta s
  | .ckptNow p k => Sys2Proof.Machine.execCkptNow p k s
  | .tamperArmWrite p k v => Sys2Proof.Machine.execTamperArmWrite p k v s
  | .pdPolicyWrite p k w v => Sys2Proof.Machine.execPdPolicyWrite p k w v s
  | .eventClear p k b mask => Sys2Proof.Machine.execEventClear p k b mask s
  | .forceStop p k on rate => Sys2Proof.Machine.execForceStop p k on rate s
  | .wdtEnable p k action => Sys2Proof.Machine.execWdtEnable p k action s
  | .wdtDisable p k action => Sys2Proof.Machine.execWdtDisable p k action s
  | .wdtSvc p k key b => Sys2Proof.Machine.execWdtSvc p k key b s
  | .wdtTimeout p b => Sys2Proof.Machine.execWdtTimeout p b s
  | .wdtLockSet p k q action => Sys2Proof.Machine.execWdtLockSet p k q action s
  | .wdtLockClear p k q action => Sys2Proof.Machine.execWdtLockClear p k q action s
  | .seqWdtExpire b => Sys2Proof.Machine.execSeqWdtExpire b s
  | .reactionEnd blk => Sys2Proof.Machine.execReactionEnd blk s
  | .clockGlitch detail => Sys2Proof.Machine.execClockGlitch detail s
  | .supplyGlitch detail => Sys2Proof.Machine.execSupplyGlitch detail s
  | .parityFault e => Sys2Proof.Machine.execParityFault e s
  | .rtcStop => Sys2Proof.Machine.execRtcStop s
  | .meshTrip pin => Sys2Proof.Machine.execMeshTrip pin s
  | .lidTrip sw => Sys2Proof.Machine.execLidTrip sw s
  | .lightTrip => Sys2Proof.Machine.execLightTrip s
  | .tempTamperTrip high => Sys2Proof.Machine.execTempTamperTrip high s
  | .vbatUvTrip nodeMv => Sys2Proof.Machine.execVbatUvTrip nodeMv s
  | .glitchTamperTrip stopped => Sys2Proof.Machine.execGlitchTamperTrip stopped s
  | .fiFire p k react => Sys2Proof.Machine.execFiFire p k react s
  | .fiEccGo p k bits => Sys2Proof.Machine.execFiEccGo p k bits s
  | .xselFall => Sys2Proof.Machine.execXselFall s
  | .xselBackoffEnd equalBytes wip reentryOk => Sys2Proof.Machine.execXselBackoffEnd equalBytes wip reentryOk s
  | .holdLimit overMs => Sys2Proof.Machine.execHoldLimit overMs s
  | .mpTransactionDone => Sys2Proof.Machine.execMpTransactionDone s
  | .flashStatusPoll equalBytes wip verifyOk reentryOk => Sys2Proof.Machine.execFlashStatusPoll equalBytes wip verifyOk reentryOk s
  | .flashOpTimeout => Sys2Proof.Machine.execFlashOpTimeout s
  | .tongsBackfill => Sys2Proof.Machine.execTongsBackfill s
  | .engineStateClear e cause => Sys2Proof.Machine.execEngineStateClear e cause s
  | .scrubPass errs => Sys2Proof.Machine.execScrubPass errs s
  | .scrubLate => Sys2Proof.Machine.execScrubLate s
  | .correctionWriteback addr => Sys2Proof.Machine.execCorrectionWriteback addr s
  | .rowRemap bank row => Sys2Proof.Machine.execRowRemap bank row s
  | .whiskPass shareOk slotErrs ms => Sys2Proof.Machine.execWhiskPass shareOk slotErrs ms s
  | .whiskStall => Sys2Proof.Machine.execWhiskStall s
  | .idleFlush => Sys2Proof.Machine.execIdleFlush s
  | .drbgReseed => Sys2Proof.Machine.execDrbgReseed s
  | .rngHealthFail => Sys2Proof.Machine.execRngHealthFail s
  | .rngRestartDone pass => Sys2Proof.Machine.execRngRestartDone pass s
  | .meterBoundary => Sys2Proof.Machine.execMeterBoundary s
  | .meterCounterWrite d => Sys2Proof.Machine.execMeterCounterWrite d s
  | .tjSample tj => Sys2Proof.Machine.execTjSample tj s
  | .idleGate pd => Sys2Proof.Machine.execIdleGate pd s
  | .domainGated pd => Sys2Proof.Machine.execDomainGated pd s
  | .holdWake h => Sys2Proof.Machine.execHoldWake h s
  | .bankPrewake ring => Sys2Proof.Machine.execBankPrewake ring s
  | .domainWakeDone pd pass => Sys2Proof.Machine.execDomainWakeDone pd pass s
  | .wakeTimeout pd => Sys2Proof.Machine.execWakeTimeout pd s
  | .fenceRetest e => Sys2Proof.Machine.execFenceRetest e s
  | .capWait h => Sys2Proof.Machine.execCapWait h s
  | .unknownOpcodeFrame p k opcode => Sys2Proof.Machine.execUnknownOpcodeFrame p k opcode s
  | .xselRise heldUs foreign => Sys2Proof.Machine.execXselRise heldUs foreign s
  | .rtcResume => Sys2Proof.Machine.execRtcResume s
  | .backupNodePowerUp b => Sys2Proof.Machine.execBackupNodePowerUp b s
  | .jtagTapOperation op => Sys2Proof.Machine.execJtagTapOperation op s
  | .queuedWakeStart => Sys2Proof.Machine.execQueuedWakeStart s

end Sys2Proof.Machine
end

