-- ==== Sys2Proof/Machine/Step.lean ====
section
/-! DEFINITION. One step of the block: the command at the front of its queue, or a tick of its clock. -/

namespace Sys2Proof.Machine

/-- Take the command at the front of the queue and run it on the queue's rest; on an empty queue one tick passes (DESIGN CHOICE, log entry 32). DESIGN CHOICE, log entry 1. -/
def step (s : State) : Host.Outcome State Fault Refusal :=
  match s.pending with
  | [] => .next (tick s)
  | c :: rest => exec c { s with pending := rest }

/-- The state with the command a table word spells at the front of its queue; no word spells one (DESIGN CHOICE, log entry 2). DESIGN CHOICE, log entry 1. -/
def State.withFetchWord (s : State) (nbits w : Nat) : State :=
  match decodeTableWord nbits w with
  | some c => { s with pending := c :: s.pending }
  | none => s

end Sys2Proof.Machine
end

