-- ==== Sys2Proof/Safety.lean ====
section
/-! DEFINITION. What the statements speak of: states a machine of this spec can be in, how far a command reaches, and the conditions
under which a port, a hamper or the memory port serves. -/

namespace Sys2Proof.Safety

open Sys2Proof.Machine

/-- Every sparse memory and table of the state is in its canonical form. -/
def Canonical (s : State) : Prop :=
  Memory.wf 0 s.mem.pantry = true ∧ Memory.wf 0 s.mem.larder = true ∧ Memory.wf 0xFF s.mp.flash = true
    ∧ (∀ x ∈ s.hampers, Memory.wf 0 x.cups = true) ∧ assocWf {} s.rings = true ∧ assocWf 0 s.leaf = true

/-- The machine has the parts the spec gives it: 4 ports, 50 switched domains (R434), 21 health blocks (R410), 32 measurement
registers (R248), 8 snoop windows (R252), a cup floor and a claim per port (R181, R183), 4 dispatchers (R186). -/
def Shape (s : State) : Prop :=
  s.ports.length = 4 ∧ s.power.pds.length = 50 ∧ s.health.length = 21 ∧ s.meas.length = 32 ∧ s.snoops.length = 8
    ∧ s.floorFree.length = 4 ∧ s.claims.length = 4 ∧ s.dispatchers.length = 4

/-- The port's own logic hears a frame: the supplies stand, BOOT answers, the port is ON, its warm reset is over, and the second command
byte is the complement of the first (R22, R33, R78, R79, R95, R96). -/
def Hears (s : State) (p : Port) (k : Link) : Prop := portDead s = false ∧ sentinelAnswers s p k = false ∧ k.cplOk = true

/-- A Nymsy port hears the frame, and its request CRC is right (R70). -/
def Serves (s : State) (p : Port) (k : Link) (f : NymsyFrame) : Prop :=
  Hears s p k ∧ (portOf s p).xip = false ∧ crcOk (portOf s p) k f = true

/-- A Nymsy port serves a read frame that is read to the end of its trailer (R68). -/
def ServesRead (s : State) (p : Port) (k : Link) (f : NymsyFrame) : Prop := Serves s p k f ∧ k.trailerDone = true

/-- The write frame is complete and carries no stray CRC bytes (R50, R65, R70). -/
def Whole (s : State) (p : Port) (k : Link) (f : NymsyFrame) : Prop :=
  writeComplete (portOf s p) k f = true ∧ ((portOf s p).crcEn = false → k.crc = none)

/-- A Nymsy port serves a complete write frame. -/
def ServesWrite (s : State) (p : Port) (k : Link) (f : NymsyFrame) : Prop := Serves s p k f ∧ Whole s p k f

/-- The mode leaves the port the whole register map and every frame (R95, R125). -/
def Open (s : State) : Prop := s.boot.mode ≠ .boot ∧ s.boot.mode ≠ .recovery

/-- A port of either personality serves a complete write of `v` to the register at `a` (R85). -/
def ServesReg (s : State) (p : Port) (k : Link) (a v : Nat) : Prop :=
  Hears s p k ∧ crcOk (portOf s p) k (.regWr a (toLe 4 v)) = true ∧ Whole s p k (.regWr a (toLe 4 v)) ∧ Open s

/-- The same on the operator port, for the operator page (R88, R89). -/
def ServesOperator (s : State) (p : Port) (k : Link) (a v : Nat) : Prop := ServesReg s p k a v ∧ isOperator s p = true

/-- The Pantry and the Larder hold no error that waits to be met and no poison (R371, R376). -/
def Clean (s : State) : Prop := s.mem.latent = [] ∧ s.mem.badTags = [] ∧ s.mem.poison = []

/-- The current entry `e` of the hamper `x`, of operation `op`, runs now: admitted, its engines its own, no reserved bit set, the
operation accepted in the mode, no cup poisoned, no error where it reads the device's own Pantry (R125, R148, R177, R188, R370, R376). -/
def Runs (s : State) (h op : Nat) (x : Hamper) (e : Bytes) : Prop :=
  runnable s h = some (x, e) ∧ opcode e = op ∧ x.cupPoison = false ∧ bits (hdr e) 26 24 = 0 ∧ opAllowed s op = true ∧ touchEntry x e s = s

/-- `n` is what reading these ranges leaves: each can be read now, and no error is met (R149, R371, R376). -/
def Reads (s n : State) (h : Nat) (l : List (Nat × Nat)) : Prop :=
  readsReady s l = true ∧ n = noteReads l s ∧ Clean n ∧ hamperOf n h = hamperOf s h

/-- The status of an entry that succeeds: OK, or OK_REPLAYED in a replay (R156, R195). -/
def okOf (x : Hamper) : Nat := if x.replay.isSome then 0x01 else 0x00

/-- From `s` to `t` the current entry of hamper `h` has finished with a completion, its engines free, and its output stands at `a`; every
other byte of memory and of its cups, every other hamper, the rings, the Roll call, the ports and the loaded keys are as they were (R153,
R154, R177, R188). -/
def Finishes (s t : State) (h a : Nat) (out : Bytes) (d : Done) : Prop :=
  ∃ x y, hamperOf s h = some x ∧ hamperOf t h = some y ∧ y.entries = finishFirst d x.entries ∧ y.engines = []
    ∧ (out ≠ [] → (isCup a = true ∨ arenaGranted s x.port a out.length = true) → readAt t y a out.length = out)
    ∧ (∀ b, ¬(a ≤ b ∧ b < a + out.length) → readArena t b 1 = readArena s b 1)
    ∧ (∀ b, ¬(isCup a = true ∧ cupPlace a ≤ b ∧ b < cupPlace a + out.length) → assocGetD 0 y.cups b = assocGetD 0 x.cups b)
    ∧ (∀ j, j ≠ h → hamperOf t j = hamperOf s j) ∧ t.rings = s.rings ∧ t.leaf = s.leaf ∧ t.ports = s.ports ∧ t.keys = s.keys

/-- The entry of hamper `h` that `x` was at has finished OK with its share of counter `k`, `n` of it: the counter of its domain goes up by that
when the completion is written; a replay has no share (R195, R343, R344). -/
def Counts (t : State) (h : Nat) (x : Hamper) (k n : Nat) : Prop :=
  x.replay = none → ∃ y d, hamperOf t h = some y ∧ d.status = stOk ∧ y.entries = finishFirst d (shareFirst (k, n) x.entries)

/-- The digest-engine phase of the entry of hamper `h` has ended with `m` kept: no engine is the hamper's, nothing else has changed (R263, R277). -/
def Hashed (s t : State) (h : Nat) (m : Bytes) : Prop :=
  hamperOf t h = (hamperOf s h).map (fun y => { y with hashed := true, template := m, engines := [] })
    ∧ (∀ i, (pdOf t i).running ≠ some (.hamper h)) ∧ (∀ j, j ≠ h → hamperOf t j = hamperOf s j) ∧ t.mem = s.mem ∧ t.rings = s.rings
    ∧ t.leaf = s.leaf ∧ t.ports = s.ports ∧ t.thermos = s.thermos ∧ t.keys = s.keys

/-- A result that fails its internal check is not released: the entry of hamper `h` completes ENGINE_FAULT with DETAIL 0x05 and the engines `l`
are fenced (R268). -/
def SelfCheckFails (n t : State) (h : Nat) (l : List Nat) : Prop :=
  (∀ b ∈ ([9, 10, 11] : List Nat), sevOf n b 1 ≤ 2) → (∀ src, sevOf n 16 src ≤ 3) →
    (∃ x y, hamperOf n h = some x ∧ hamperOf t h = some y ∧ y.entries = finishFirst { status := stEngineFault, detail := 5 } x.entries ∧ y.engines = [])
      ∧ (Shape n → ∀ i ∈ l, i < 36 → (pdOf t i).fenced = true ∨ (pdOf t i).retired = true)

/-- What the completions of a hamper's entries add to counter `k` of its domain: the shares of those that finished OK (R343). -/
def sharesDone (x : Hamper) (k : Nat) : Nat :=
  (x.entries.map (fun e => match e.share, e.done with
    | some c, some d => if c.1 = k ∧ d.status = stOk then c.2 else 0
    | _, _ => 0)).sum

/-- Nothing disturbs the check and the commit of an envelope: no engine fault, no failing program or erase, no loss of VDD_AON (R309, R323). -/
def Undisturbed (run : EnvelopeRun) : Prop := run.fault = .none ∧ run.cut = .none ∧ run.flashOk = true ∧ run.compactOk = true

/-- The ENVELOPE entry `e` of the hamper `x` has the envelope `v` of a type staged, and its turn has come; `n` is `s` with CLAIM_EN as the check
finds it (R127, R321, R322). -/
def Stages (typ : Nat) (run : EnvelopeRun) (s n : State) (h : Nat) (x : Hamper) (e v : Bytes) : Prop :=
  Undisturbed run ∧ Runs s h 0x50 x e ∧ laterEnvelope s x = false ∧ x.staged = v ∧ v ≠ [] ∧ envTyp v = typ
    ∧ n = { s with board := { s.board with claimEn := run.claimEn.getD s.board.claimEn } }

/-- That envelope passes steps 1 to 12 of R323 with the payload `p`, and the memory port, the DRBG and the destination are ready as far as its
type needs them; no TIME_SET is half done (R332). -/
def Accepts (sp : EnvSpec) (run : EnvelopeRun) (s n : State) (h : Nat) (x : Hamper) (e v p : Bytes) : Prop :=
  Stages sp.typ run s n h x e v ∧ judgeEnvelope n x .none v (srcLenOf e) = .accept p ∧ sp.payloadOk n p = true ∧ sp.conflict n v p = false
    ∧ sp.replyLen p ≤ dstLenOf e ∧ (sp.archive = true → n.boot.mode = .recovery ∨ n.mp.flashOk = true)
    ∧ (sp.archive = true → n.mp.flashOk = true → mpReady n = true) ∧ (sp.draws n p = true → rngReady n = true)
    ∧ dstReady n (dstOf e) (sp.replyLen p) = true ∧ n.thermos.setPending = false

/-- The command that runs a staged envelope of each type (R327). -/
def envelopeCommands (run : EnvelopeRun) (h : Nat) : List (EnvSpec × Instr) :=
  [(claimSpec, .claim h run), (operatorSpec, .operatorRotate h run), (createSpec, .domainCreate h run), (destroySpec, .domainDestroy h run),
   (ownerSpec, .domainOwnerRotate h run), (grantSpec, .portGrant h run), (quotaSpec, .quotaSet h run), (rateSpec, .rateSchedule h run),
   (meterSpec, .meterConfig h run), (timeSpec, .timeSet h run), (layoutSpec, .flashLayout h run), (referenceSpec, .referenceSet h run),
   (importSpec, .keyImport h run), (generateSpec, .keyGenerate h run), (replaceSpec, .keyReplace h run), (destroyKeySpec, .keyDestroy h run),
   (sealSpec, .sealPolicy h run), (unlockSpec, .debugUnlock h run), (authSpec, .recoveryAuth h run), (rootSpec, .reRoot h run)]

/-- The entry has finished with a status and the reply of its envelope, which stands at its destination (R321). -/
def Answers (n t : State) (h : Nat) (x : Hamper) (e v : Bytes) (status : Nat) (reply : Bytes) : Prop :=
  ∃ y, hamperOf t h = some y
    ∧ y.entries = finishFirst { status := status, len := reply.length, param := some (envParam v) } x.entries
    ∧ (reply ≠ [] → (isCup (dstOf e) = true ∨ arenaGranted n x.port (dstOf e) reply.length = true) →
        readAt t y (dstOf e) reply.length = reply)

/-- The state `u` is `s` with a key's blob put into its domain's archive and the descendants `gone` orphaned (R303, R304). -/
def Stored (s u : State) (d h parent : Nat) (k : Key) (iv : Bytes) (gone : List Nat) : Prop :=
  ∃ b, manifestTrouble s d = none ∧ wrapKey s d h parent k iv = .ok b ∧
    writeChange true true { domain := d, debug := onTestRoot s, epoch := (domOf s d).epoch,
                            entries := putManEntry b.2 (orphan gone (editEntries s d)), blobs := [(h, b.1)] } s = .done u

/-- A BOOT in which every test passes (R118). -/
def Fair (b : BootEnv) : Prop :=
  b.pllLocks = true ∧ b.aonBistOk = true ∧ b.badSpares = [] ∧ b.entropyOk = true ∧ b.badRecords = [] ∧ b.badBanks = [] ∧ b.badEngines = []

/-- The flash after a reset: every byte outside the target of a cut-off program or erase reads as before (R399). -/
def FlashStands (s t : State) : Prop :=
  ∀ a, (∀ r, tornRange s = some r → a < r.1 ∨ r.1 + r.2 ≤ a) → assocGetD 0xFF t.mp.flash a = assocGetD 0xFF s.mp.flash a

/-- A domain-table entry after step 5 of BOOT: causes 2 and 3 of its suspension have ended, and a TIME_SET pass cut short has reached it
(R118, R296, R332). -/
def bootDomain (setPending : Bool) (r : DomRec) : DomRec :=
  let q := setCauses (r.suspend % 2) r
  if setPending = true ∧ q.state ≠ 0 then { q with timeSeen := true } else q

/-- `t` is `s` after the start of a full reset of a cause, up to step 10 of its BOOT: what R120 clears is clear, what it keeps stands. In a
BOOT whose tests pass, on a Thermos whose records hold, the Thermos is what an interrupted write leaves (R309) less what step 5 ends, ports
and banks are ON, the straps are sampled, and a root gives a fresh BOOT_ID (R34, R118, R292, R296). -/
def Restarted (cause : Nat) (b : BootEnv) (s t : State) : Prop :=
  t.boot.mode = .boot ∧ t.boot.resetCause = cause ∧ t.boot.answering = b.pllLocks ∧ t.rings = [] ∧ t.leaf = [] ∧ t.hampers = [] ∧ t.dups = []
    ∧ t.keys = [] ∧ t.loads = [] ∧ t.cipherParts = [] ∧ t.digestParts = [] ∧ t.ports = List.replicate 4 portReset ∧ t.mem.pantry = []
    ∧ t.mem.larder = [] ∧ t.mem.poison = [] ∧ t.meas = List.replicate 32 measReset ∧ FlashStands s t ∧ t.mono = s.mono
    ∧ t.pending = s.pending
    ∧ t.board.recovN = b.recovN.getD s.board.recovN ∧ t.board.recovSampled = t.board.recovN ∧ t.board.testSampled = b.testMode.getD s.board.testMode
    ∧ (∀ th, th = (settleJournal s).thermos → Fair b → th.recoveryOk = true → (∀ c ∈ th.domains, c.2.failed = false) →
      t.journal = none
        ∧ t.thermos = { th with setPending := false, domains := th.domains.map (fun c => (c.1, bootDomain th.setPending c.2)) }
        ∧ (∀ p < 4, (pdOf t (44 + p)).st = .on)
        ∧ (∀ k < 8, (pdOf t (36 + k)).st = if (pdOf t (36 + k)).retired then .off else .on)
        ∧ (drsPresent t = true → t.boot.bootId = generated (instantiate { noise := s.rng.noise }) 8))

/-- Source `src` of block `b` is recorded in EVENT (R411, R415). -/
def Raised (t : State) (b src : Nat) : Prop := bit (blockOf t b).event src = true

/-- What a command that touches neither work nor the stored records leaves: rings, leaf bits, hampers, memory, Thermos, keys and clock. -/
def WorkStands (s t : State) : Prop :=
  t.rings = s.rings ∧ t.leaf = s.leaf ∧ t.hampers = s.hampers ∧ t.mem = s.mem ∧ t.thermos = s.thermos ∧ t.keys = s.keys ∧ t.mono = s.mono

/-- What engine `i` ran in `s` has been struck: its hamper's current entry has finished with a status, a Tongs window starts again, and the
engine runs nothing (R222, R244, R258, R269). -/
def Struck (s t : State) (i status detail : Nat) : Prop :=
  (pdOf t i).running = none
    ∧ (∀ h x, (pdOf s i).running = some (.hamper h) → hamperOf s h = some x → x.cupPoison = false →
        ∃ y, hamperOf t h = some y
          ∧ ∀ e, currentEntry x = some e → { e with done := some { status := status, detail := detail }, share := none } ∈ y.entries)
    ∧ (∀ w, (pdOf s i).running = some (.tongs w) → (t.snoops.getD w {}).fed = [])

/-- The sequence of R431 after sensor `src` tripped: root, domain table, journal, keys and boot keys are gone, no written Larder line has its
tag, the quarantine flag stands with its cause, no engine runs or wakes, and a device that ran is in QUARANTINE with no hamper. -/
def Tampered (src : Nat) (s t : State) : Prop :=
  t.thermos.drs = [] ∧ t.thermos.drsMask = [] ∧ t.thermos.domains = [] ∧ t.thermos.tableLost = true ∧ t.journal = none ∧ t.thermos.quarantine = true
    ∧ (∀ th, th = (settleJournal s).thermos → t.thermos.qCause = (if th.quarantine then th.qCause else 14 + 256 * src))
    ∧ t.keys = [] ∧ t.loads = [] ∧ t.boot.bootId = [] ∧ t.mem.badTags = t.mem.written ∧ Raised t 14 src ∧ (∀ i < 36, (pdOf t i).running = none ∧ (pdOf t i).st ≠ .waking)
    ∧ t.boot.mode = (if s.boot.mode = .boot then .boot else .quarantine)
    ∧ (s.boot.mode ≠ .boot → s.boot.mode ≠ .quarantine → t.hampers = [])

end Sys2Proof.Safety
end

