-- ==== Sys2Proof/Certificates/Slice0/Obligations.lean ====
section
/-! DEFINITION. The statements for the provers. -/

open Sys2Proof Sys2Proof.Machine Sys2Proof.Safety

/-- A step runs the command at the front of the queue on the queue's rest -/
def Obligations.StepRunsFront : Prop :=
  ∀ (s : State) (c : Instr) (rest : List Instr), s.pending = c :: rest → step s = exec c { s with pending := rest }

/-- A step on an empty queue is one tick of the clock, with the meter boundary that falls on it, and nothing else -/
def Obligations.IdleStepIsOneTick : Prop :=
  ∀ s : State, s.pending = [] →
    (clockRuns s = false → step s = .next { s with power := { s.power with wakesNow := 0 } })
    ∧ (clockRuns s = true → boundaryDue (s.mono + 1) s = false →
      step s = .next { s with mono := s.mono + 1, power := { s.power with wakesNow := 0 } })
    ∧ (clockRuns s = true → s.boot.mode = .operational → s.thermos.boundaryMono = s.mono + 1 → 1 ≤ nextInterval s →
      step s = .next (closeBoundary { s with mono := s.mono + 1, power := { s.power with wakesNow := 0 } }))

/-- No command stops the machine: exec answers a next state for every command in every state -/
def Obligations.EveryCommandAnswersNext : Prop :=
  ∀ (c : Instr) (s : State), ∃ t, exec c s = .next t

/-- Right after reset the machine is in BOOT with every register at its reset value -/
def Obligations.ResetLeavesBoot : Prop :=
  State.reset.pending = [] ∧ State.reset.boot.mode = .boot ∧ State.reset.board.porHigh = false
    ∧ (∀ p < 4, portOf State.reset p = portReset)
    ∧ portReset.lanes = 0 ∧ portReset.timing = 0x00400108 ∧ portReset.crcEn = false ∧ lastWr portReset = 0 ∧ portReset.pushBuf = []
    ∧ portReset.grant = {} ∧ portReset.wdt = {}
    ∧ (∀ r, ringOf State.reset r = {}) ∧ (∀ w, leafWord State.reset w = 0) ∧ State.reset.hampers = []
    ∧ State.reset.sharedFree = 192 ∧ State.reset.floorFree = [16, 16, 16, 16]
    ∧ State.reset.meas = List.replicate 32 { value := List.replicate 48 0 }
    ∧ (blockOf State.reset 12).sevs.take 6 = [2, 3, 0, 1, 1, 3] ∧ State.reset.ageLimit = 50

/-- The reset state is canonical and has every part of the machine -/
def Obligations.ResetHasTheForms : Prop :=
  Canonical State.reset ∧ Shape State.reset

/-- Every step keeps every memory and table in its canonical form -/
def Obligations.StepKeepsCanonical : Prop :=
  ∀ s t : State, Canonical s → step s = .next t → Canonical t

/-- No step adds or loses a part of the machine -/
def Obligations.StepKeepsShape : Prop :=
  ∀ s t : State, Shape s → step s = .next t → Shape t

/-- No command adds to the queue of commands or takes from it -/
def Obligations.CommandsLeaveTheQueue : Prop :=
  ∀ (c : Instr) (s t : State), exec c s = .next t → t.pending = s.pending

/-- The monotonic count never falls, but for the loss of the backup node -/
def Obligations.TimeNeverRunsBack : Prop :=
  ∀ s t : State, (∀ b, s.pending.head? ≠ some (.backupNodePowerUp b)) → step s = .next t → s.mono ≤ t.mono

/-- A scrapped device stays scrapped through every step, reset and power cycle -/
def Obligations.ScrapFuseStaysBlown : Prop :=
  ∀ s t : State, s.board.scrapFuse = true → step s = .next t → t.board.scrapFuse = true ∧ lifecycle t = .scrapped

/-- A frame whose complement byte does not match only records LANE_MISMATCH and sets LINK_EVT -/
def Obligations.LaneMismatchChangesNothingElse : Prop :=
  ∀ (s : State) (p : Port) (k : Link), portDead s = false → sentinelAnswers s p k = false → (portOf s p).xip = false → k.cplOk = false →
    ∀ c ∈ ([.regRd p k 0 4, .registerWrite p k 0x088 [1, 2, 3, 4], .memRd p k 0x00400000 64, .memWr p k 0x00400000 [1], .push p k 0 (zeros 64),
            .winRd p k 0x20000000 4, .winWr p k 0x20000000 [1], .winFetch p k 0x20000000 4, .status p k, .roll p k 0 4, .setLanes p k (zeros 4),
            .nop p k] : List Instr),
      exec c s = .next (raise p 0 0 none (modPort s p (fun x => { x with response := .silent, linkEvt := true })))

/-- A read frame with a wrong request CRC returns zeros, their CRC, and CRC_FAIL -/
def Obligations.WrongRequestCrcAnswersCrcFail : Prop :=
  ∀ (s : State) (p : Port) (k : Link) (a n : Nat), Shape s → Hears s p k → (portOf s p).xip = false → k.trailerDone = true →
    (portOf s p).crcEn = true → n < 0x10000 →
    (∀ c f m, (c, f, m) ∈ ([(.regRd p k a n, .regRd a n, n), (.memRd p k a n, .memRd a n, n), (.winRd p k a n, .winRd a n, n),
        (.roll p k a n, .roll a n, n), (.status p k, .status, 9)] : List (Instr × NymsyFrame × Nat)) →
      k.crc ≠ some (frameCrc f) →
      ∃ t d, exec c s = .next t ∧ (portOf t p).response = .read d (some (crc16 d)) .crcFail ∧ d.all (· == 0) = true ∧ d.length = m + (if bit (portOf s p).lanes.toNat 10 then m % 2 else 0))

/-- REG_RD answers the words it covers as they stand, trailer OK, and changes nothing else -/
def Obligations.RegRdAnswersTheRegisters : Prop :=
  ∀ (s : State) (p : Port) (k : Link) (a n : Nat), ServesRead s p k (.regRd a n) → Open s → 4 ≤ n → n ≤ 256 → n % 4 = 0 → a % 4 = 0 →
    a + n ≤ 0x1000 → covers (portOf s p) k 30 = true →
    exec (.regRd p k a n) s = .next (respond p (answer (portOf s p) (regBytes s p a n) .ok) s)

/-- PORT_ID identifies part, port and stepping; pages a port cannot see read 0 -/
def Obligations.IdentityAndInvisibleWords : Prop :=
  ∀ (s : State) (p : Nat), p < 4 →
    regWord s p 0 = 0x65160000 + p * 0x100 + 0x0B
    ∧ (∀ a, isOperator s p = false → 0x800 ≤ a → a < 0xC00 → regWord s p a = 0)
    ∧ (∀ a, isOperator s p = false → 0x418 ≤ a → a < 0x500 → regWord s p a = 0)
    ∧ (∀ a, s.boot.mode ≠ .factory → s.boot.mode ≠ .debug → 0xC00 ≤ a → a < 0x1000 → regWord s p a = 0)
    ∧ (∀ q a, isOperator s p = false → s.boot.mode ≠ .recovery → q < 4 → q ≠ p → 0x600 + 16 * q ≤ a → a < 0x610 + 16 * q → regWord s p a = 0)

/-- REGISTER_WRITE updates its register and records OK, or is refused whole and records DENIED -/
def Obligations.RegisterWriteIsRecorded : Prop :=
  ∀ (s : State) (p : Port) (k : Link) (v : BitVec 32),
    (ServesWrite s p k (.regWr 0x088 (toLe 4 v.toNat)) → Open s →
      exec (.registerWrite p k 0x088 (toLe 4 v.toNat)) s =
        .next (recordWr p 0x11 wrOk (modPort (respond p .silent s) p (fun x => { x with ringArg1 := v }))))
    ∧ (ServesWrite s p k (.regWr 0x018 (toLe 4 v.toNat)) → Open s →
      exec (.registerWrite p k 0x018 (toLe 4 v.toNat)) s =
        .next (recordWr p 0x11 wrOk (modPort (respond p .silent s) p (fun x => { x with crcEn := bit v.toNat 0 }))))
    ∧ (ServesWrite s p k (.regWr 0x000 (toLe 4 v.toNat)) → Open s →
      exec (.registerWrite p k 0x000 (toLe 4 v.toNat)) s = .next (recordWr p 0x11 wrDenied (noteDenied p none (respond p .silent s))))
    ∧ (ServesWrite s p k (.regWr 0x010 (toLe 4 v.toNat)) → Open s → v.toNat % 64 < 4 →
      exec (.registerWrite p k 0x010 (toLe 4 v.toNat)) s = .next (recordWr p 0x11 wrDenied (noteDenied p none (respond p .silent s))))

/-- MEM_RD of granted Pantry bytes whose banks are ON returns them and changes nothing else -/
def Obligations.MemRdReturnsThePantry : Prop :=
  ∀ (s : State) (p : Port) (k : Link) (a n : Nat), ServesRead s p k (.memRd a n) → Open s → Clean s → 1 ≤ n → n ≤ 4096 → a + n ≤ 0x01000000 →
    arenaGranted s p a n = true → (banksOf a n).all (bankOn s) = true → covers (portOf s p) k 80 = true →
    exec (.memRd p k a n) s = .next (respond p (answer (portOf s p) (memRead 0 s.mem.pantry a n) .ok) s)

/-- MEM_WR stores its data bytes in the Pantry, leaves every other byte, and records OK -/
def Obligations.MemWrStoresItsBytes : Prop :=
  ∀ (s : State) (p : Port) (k : Link) (a : Nat) (d : Bytes), Shape s → ServesWrite s p k (.memWr a d) → Open s → Clean s →
    a + d.length ≤ 0x01000000 → arenaGranted s p a d.length = true →
    ∃ t, exec (.memWr p k a d) s = .next t
      ∧ (∀ i < d.length, assocGetD 0 t.mem.pantry (a + i) = d.getD i 0)
      ∧ (∀ b, (b < a ∨ a + d.length ≤ b) → assocGetD 0 t.mem.pantry b = assocGetD 0 s.mem.pantry b)
      ∧ t.mem.larder = s.mem.larder
      ∧ (portOf t p).lwSeq = ((portOf s p).lwSeq + 1) % 0x10000 ∧ (portOf t p).lwOpcode = 0x21 ∧ (portOf t p).lwOutcome = wrOk
      ∧ (∀ q, q ≠ p.val → portOf t q = portOf s q)
      ∧ t.rings = s.rings ∧ t.leaf = s.leaf ∧ t.hampers = s.hampers ∧ t.health = s.health ∧ t.thermos = s.thermos ∧ t.keys = s.keys

/-- PUSH places its entry in the push buffer and records OK, or BUSY when it holds 8 entries -/
def Obligations.PushIsBufferedOrBusy : Prop :=
  ∀ (s : State) (p : Port) (k : Link) (a : Nat) (d : Bytes), ServesWrite s p k (.push a d) → Open s → s.boot.mode ≠ .quarantine → a < 0x10000 →
    ringGranted s p a = true →
    ((portOf s p).pushBuf.length < 8 →
      exec (.push p k a d) s = .next (recordWr p 0x30 wrOk (modPort (respond p .silent s) p (fun x => { x with
        pushBuf := x.pushBuf ++ [{ ring := a, entry := d, seq := (x.lwSeq + 1) % 0x10000 }], lastRing := a, lastResult := 1 }))))
    ∧ (8 ≤ (portOf s p).pushBuf.length → exec (.push p k a d) s = .next (recordWr p 0x30 wrBusy (respond p .silent s)))

/-- WIN_RD answers the window's bytes with OK; WIN_FETCH is committed and starts at its first line -/
def Obligations.WindowReadAndFetch : Prop :=
  ∀ (s : State) (p : Port) (k : Link) (o n : Nat), Open s → 1 ≤ n → n ≤ 4096 → o + n ≤ 0x10000000 → winGranted s p false o n = true →
    (ServesRead s p k (.winRd (0x20000000 + o) n) → winHold (portOf s p) = true ∨ covers (portOf s p) k 80 = true →
      ∀ t d, windowRead p o n (k.ready && winHold (portOf s p)) s = (t, some d) → d.length = n →
        exec (.winRd p k (0x20000000 + o) n) s = .next (respond p (answer (portOf s p) d .ok) t))
    ∧ (ServesWrite s p k (.winFetch (0x20000000 + o) n) → s.boot.mode ≠ .quarantine → (portOf s p).fetch = none →
        exec (.winFetch p k (0x20000000 + o) n) s =
          .next (recordWr p 0x42 wrOk (queueWork (.line (o / 256 * 256) (.fetch p))
            (modPort (respond p .silent s) p (fun x => { x with fetch := some { first := o, next := o / 256 * 256, stop := o + n } })))))

/-- WIN_WR joins its port's write queue behind the others and records OK; to a measured window it is denied -/
def Obligations.WinWrJoinsTheWriteQueue : Prop :=
  ∀ (s : State) (p : Port) (k : Link) (o : Nat) (d : Bytes), Open s → s.boot.mode ≠ .quarantine → ServesWrite s p k (.winWr (0x20000000 + o) d) →
    1 ≤ d.length → o % 256 + d.length ≤ 256 → o + d.length ≤ 0x10000000 → winGranted s p true o d.length = true → (portOf s p).winQueue.length < 4 →
    (measured s o d.length = false →
      exec (.winWr p k (0x20000000 + o) d) s = .next (recordWr p 0x41 wrOk (enqueueOp p .winWr o d (respond p .silent s))))
    ∧ (measured s o d.length = true →
      exec (.winWr p k (0x20000000 + o) d) s =
        .next (recordWr p 0x41 wrDenied (noteDenied p none (raise 18 3 (lockedWindow s o d.length) none (respond p .silent s)))))

/-- STATUS answers nine bytes and clears LINK_EVT and FETCH_DONE; ROLL answers leaf words and changes nothing -/
def Obligations.StatusAndRollAnswer : Prop :=
  ∀ (s : State) (p : Port) (k : Link), Open s → covers (portOf s p) k 30 = true →
    (ServesRead s p k .status →
      exec (.status p k) s = .next (respond p (answer (portOf s p) (toLe 8 (topBits s p) ++ toLe 1 (portHealth s p)) .ok)
        (modPort s p (fun x => { x with linkEvt := false, fetchDone := false }))))
    ∧ (∀ w n, ServesRead s p k (.roll w n) → 4 ≤ n → n ≤ 256 → n % 4 = 0 → w + n / 4 ≤ 2048 →
      exec (.roll p k w n) s =
        .next (respond p (answer (portOf s p) ((List.range (n / 4)).flatMap (fun i => toLe 4 (leafSeen s p (w + i)))) .ok) s))

/-- SET_LANES takes effect after its frame, NOP changes nothing, a lane reset restores x1 SDR and records LANE_RESET -/
def Obligations.LaneFramesReconfigure : Prop :=
  ∀ (s : State) (p : Port) (k : Link),
    (∀ v : BitVec 32, ServesWrite s p k (.setLanes (toLe 4 v.toNat)) → Open s →
      exec (.setLanes p k (toLe 4 v.toNat)) s =
        .next (recordWr p 0x60 wrOk (modPort (respond p .silent s) p (fun x => { x with lanes := BitVec.ofNat 32 (v.toNat &&& 0x777) }))))
    ∧ (Serves s p k .nop → exec (.nop p k) s = .next (respond p .silent s))
    ∧ (s.board.porHigh = true → s.board.vddioHpOk = true → (pdOf s (44 + p)).st = .on → (pdOf s (44 + p)).closed = false →
      exec (.laneReset p) s = .next (modPort (recordWr p 0xFF wrLaneReset (respond p .silent s)) p
        (fun x => { x with lanes := 0, timing := 0x00400108, crcEn := false, linkEvt := true })))

/-- A gated port's sentinel answers WAKE and wakes it; once awake it records WAKE for each discarded write; unknown opcodes are DENIED -/
def Obligations.GatedPortAnswersThroughItsSentinel : Prop :=
  ∀ (s : State) (p : Port) (k : Link),
    (portDead s = false → (pdOf s (44 + p)).st = .off → (pdOf s (44 + p)).closed = false → (pdOf s (44 + p)).retired = false →
      (pdOf s (44 + p)).policy = .auto → k.cplOk = true → ∀ u, u = modPd (respond p .silent s) (44 + p) (fun d => { d with st := .waking }) →
      ((portOf s p).xip = false →
        (∀ a n, exec (.gatedPortFrame p k (.memRd a n)) s =
          .next (respond p (answer (portOf s p) (zeros (n % 0x10000)) .wake) (raise p 5 0 none u)))
        ∧ (∀ a d, sevOf s p 5 ≤ 1 → exec (.gatedPortFrame p k (.memWr a d)) s =
          .next (modPort (raise p 5 0 none u) p (fun x => { x with wakeRecords := x.wakeRecords ++ [0x21] }))))
      ∧ ((portOf s p).xip = true → ∀ n, exec (.xipReadStatus p k n) s = .next (respond p (.xip (zeros n)) (raise p 5 0 none u))))
    ∧ ((pdOf s (44 + p)).st = .waking →
      exec (.portWakeDone p) s = .next ((portOf s p).wakeRecords.foldl (fun u o => recordWr p o wrWake u)
        (modPort (modPd s (44 + p) (fun d => { d with st := .on, tested := true, fenced := false, closed := decide (d.policy = .forceOff) })) p
          (fun x => { x with wakeRecords := [] }))))
    ∧ (∀ o : Byte, Hears s p k → (portOf s p).xip = false → classOf o.toNat = .unknown →
      exec (.unknownOpcodeFrame p k o) s = .next (modPort (noteDenied p none (respond p .silent s)) p
        (fun x => { x with lwOpcode := o.toNat, lwOutcome := wrDenied, linkEvt := true })))

/-- On an XIP port READ, READ STATUS, READ ID and READ SFDP complete in every lane configuration and answer their bytes -/
def Obligations.XipReadsAnswer : Prop :=
  ∀ (s : State) (p : Port) (k : Link), Hears s p k → (portOf s p).xip = true →
    (∀ n, exec (.xipReadStatus p k n) s = .next (respond p (.xip (List.replicate n (BitVec.ofNat 8
        (b2n (portOf s p).wip + 2 * b2n (portOf s p).wel + 64 * b2n (portOf s p).err)))) s))
    ∧ (∀ n, exec (.xipReadId p k n) s = .next (respond p
        (if (portOf s p).wip then .silent else .xip ((octets [0x3D, 0x65, 0x16] ++ zeros n).take n)) s))
    ∧ (∀ a n, exec (.xipReadSfdp p k a n) s = .next (respond p
        (if (portOf s p).wip then .silent else .xip ((List.range n).map (fun i => sfdpByte s (a % 2 ^ 32 + i)))) s))
    ∧ (List.range 4).map (sfdpByte s) = ascii "SFDP"
    ∧ (∀ a, (24 ≤ a ∧ a < 0x80) ∨ (0xD0 ≤ a ∧ a < 0x100) ∨ 0x118 ≤ a → sfdpByte s a = 0xFF)
    ∧ sfdpByte s 0x81 = 0x21 ∧ sfdpByte s 0x87 = 0x7F ∧ sfdpByte s 0x101 = 0xEE
    ∧ (∀ a n, ∃ t d, exec (.xipRead p k a n) s = .next t ∧ (portOf t p).response = .xip d)
    ∧ (∀ a n, (portOf s p).wip = true → exec (.xipRead p k a n) s = .next (respond p (.xip (List.replicate n 0xFF)) s))
    ∧ (∀ a n, (portOf s p).wip = false → a < 2 ^ 32 →
        (∀ c ∈ linePieces a n, 0x10000000 < c.1 + c.2 ∨ winGranted s p false c.1 c.2 = false) →
        exec (.xipRead p k a n) s = .next (respond p (.xip (List.replicate n 0xFF)) s))
    ∧ (∀ a n t d, (portOf s p).wip = false → a < 2 ^ 32 → readPieces p k.ready (linePieces a n) [] s = (t, d, true) →
        exec (.xipRead p k a n) s = .next (respond p (.xip d) t))

/-- On an XIP port WREN and WRDI set and clear WEL, PROGRAM and ERASE queue with WIP set, and the escape runs a Nymsy frame -/
def Obligations.XipWritesAndEscape : Prop :=
  ∀ (s : State) (p : Port) (k : Link), Hears s p k → (portOf s p).xip = true →
    ((portOf s p).wip = false →
      exec (.xipWriteEnable p k) s = .next (modPort s p (fun x => { x with wel := true, err := false, response := .silent }))
      ∧ (∀ a d, k.whole = true → (portOf s p).wel = true → 1 ≤ d.length → a % 256 + d.length ≤ 256 → a + d.length ≤ 0x10000000 →
          (inOctal (portOf s p) = true → d.length % 2 = 0) → winGranted s p true a d.length = true → measured s a d.length = false →
          exec (.xipPageProgram p k a d) s =
            .next (enqueueOp p .program a d (modPort (respond p .silent s) p (fun x => { x with wip := true }))))
      ∧ (∀ a, k.whole = true → (portOf s p).wel = true → a < 0x10000000 → winGranted s p true (a / 4096 * 4096) 4096 = true →
          measured s (a / 4096 * 4096) 4096 = false →
          exec (.xipSectorErase p k a) s = .next (dropLines (a / 4096 * 4096) 4096 (enqueueOp p .erase (a / 4096 * 4096)
            (List.replicate 4096 0xFF) (modPort (respond p .silent s) p (fun x => { x with wip := true })))))
      ∧ (∀ a d, k.whole = true → (portOf s p).wel = false → 1 ≤ d.length → a % 256 + d.length ≤ 256 → a < 0x10000000 →
          (inOctal (portOf s p) = true → d.length % 2 = 0) →
          exec (.xipPageProgram p k a d) s =
            .next (noteDenied p none (modPort (respond p .silent s) p (fun x => { x with wel := false, err := true }))))
      ∧ (∀ a d, k.whole = false → exec (.xipPageProgram p k a d) s =
          .next (linkEvent p 1 (modPort (respond p .silent s) p (fun x => { x with wel := false })))))
    ∧ exec (.xipWriteDisable p k) s = .next (modPort s p (fun x => { x with wel := false, response := .silent }))
    ∧ (crcOk (portOf s p) k .status = true → k.trailerDone = true → Open s → covers (portOf s p) k 30 = true →
        exec (.nymsyEscape p k .status) s = .next (respond p (answer (portOf s p) (toLe 8 (topBits s p) ++ toLe 1 (portHealth s p)) .ok)
          (modPort s p (fun x => { x with linkEvt := false, fetchDone := false }))))

/-- WARM_RESET returns the port's registers to their reset values and nothing else; FETCH_ABORT ends a waiting fetch -/
def Obligations.WarmResetAndFetchAbort : Prop :=
  ∀ (s : State) (p : Port) (k : Link) (v : BitVec 16),
    (ServesReg s p k 0x008 (v.toNat * 0x10000 + 1) →
      exec (.warmReset p k v) s = .next (modPort s p (fun x => { x with
        response := .silent, lanes := 0, timing := 0x00400108, crcEn := false, lwSeq := 0, lwOpcode := 0, lwOutcome := 0, scratch := 0,
        arenaSel := 0, ringArg0 := 0, ringArg1 := 0, ringArg2 := 0, cmdSeq := 0, cmdLast := 0, cmdResult := 0, queryId := 0,
        queryState := 0, warmCause := 1, linkEvt := false, fetchDone := false, fetch := x.fetch.map (fun f => { f with announce := false }) })))
    ∧ (ServesReg s p k 0x008 (v.toNat * 0x10000 + 2) →
      ((∀ w, s.mp.current = some (.read w) → fetchWork p w = false) →
        exec (.fetchAbort p k v) s = .next (recordWr p 0x11 wrOk
          { modPort (respond p .silent s) p (fun x => { x with scratch := v.toNat, fetch := none }) with
            mp := { s.mp with work := s.mp.work.filter (fun w => !fetchWork p w) } }))
      ∧ (∀ w, s.mp.current = some (.read w) → fetchWork p w = true →
        exec (.fetchAbort p k v) s = .next (recordWr p 0x11 wrOk (modPort (respond p .silent s) p (fun x => { x with
          scratch := v.toNat, fetch := x.fetch.map (fun f => { f with abandoned := true }) })))))

/-- CREATE binds an unbound ring with HEAD and TAIL 0 and both phases 1; QUERY reports a ring and changes nothing of it -/
def Obligations.RingCreateBindsAndQueryReports : Prop :=
  ∀ (s : State) (p : Port) (k : Link), Shape s → Clean s → sevOf s 5 0 ≤ 1 →
    (ServesReg s p k 0x080 1 → ∀ r, r = (portOf s p).ringArg0.toNat % 0x10000 →
      cmdResult s p 1 r (portOf s p).ringArg1.toNat (portOf s p).ringArg2.toNat = 1 →
      ∃ t, exec (.create p k) s = .next t
        ∧ ringOf t r = {
            state := .active, base := (portOf s p).ringArg1.toNat, head := 0, tail := 0, headPhase := true, tailPhase := true,
            domain := bits (portOf s p).ringArg2.toNat 9 0, port := p, cls := bits (portOf s p).ringArg2.toNat 13 12,
            poll := bits (portOf s p).ringArg2.toNat 19 16, sizeLog2 := bits (portOf s p).ringArg2.toNat 24 20, faultDetail := 0,
            walked := false, poisoned := false }
        ∧ (∀ q, q ≠ r → ringOf t q = ringOf s q) ∧ t.hampers = s.hampers ∧ t.mem = s.mem ∧ t.thermos = s.thermos
        ∧ (portOf t p).cmdLast = 1 ∧ (portOf t p).cmdResult = 1 ∧ (portOf t p).cmdSeq = ((portOf s p).cmdSeq + 1) % 0x10000
        ∧ (portOf t p).lwOutcome = wrOk)
    ∧ (ServesReg s p k 0x080 6 → ∀ r, r = (portOf s p).ringArg0.toNat % 0x10000 → ringGranted s p r = true → cmdAllowedInMode s p 6 = true →
      (ringOf s r).poisoned = false →
      ∃ t, exec (.query p k) s = .next t
        ∧ t.rings = s.rings ∧ t.leaf = s.leaf ∧ t.hampers = s.hampers ∧ t.mem = s.mem ∧ t.thermos = s.thermos ∧ t.health = s.health
        ∧ (portOf t p).ringArg1 = BitVec.ofNat 32 (ringOf s r).base
        ∧ (portOf t p).ringArg2 = BitVec.ofNat 32 ((ringOf s r).tail * 0x10000 + (ringOf s r).head)
        ∧ (portOf t p).queryId = BitVec.ofNat 32 ((ringOf s r).port * 2 ^ 26 + (ringOf s r).domain * 2 ^ 16 + r)
        ∧ (portOf t p).cmdLast = 6 ∧ (portOf t p).cmdResult = 1 ∧ (portOf t p).lwOutcome = wrOk)

/-- PAUSE, RESUME, RELEASE and SHUTDOWN move an idle ring through its states and report OK -/
def Obligations.RingPauseResumeReleaseShutdown : Prop :=
  ∀ (s : State) (p : Port) (k : Link) (r : Nat), Shape s → Clean s → sevOf s 5 0 ≤ 1 → r = (portOf s p).ringArg0.toNat % 0x10000 → ringGranted s p r = true →
    (ringOf s r).poisoned = false → s.hampers.any (fun x => x.ring == r) = false → ownBit (entryBytes s (ringOf s r) (ringOf s r).tail) = false →
    ∀ c n st st', (c, n, st, st') ∈ ([(.pause p k, 2, .active, .paused), (.resume p k, 3, .paused, .active), (.shutdown p k, 4, .active, .unbound),
        (.release p k, 5, .active, .unbound)] : List (Instr × Nat × RingState × RingState)) →
      ServesReg s p k 0x080 n → cmdAllowedInMode s p n = true → (ringOf s r).state = st →
      ∃ t, exec c s = .next t
        ∧ ringOf t r = (if st' = .unbound then {} else { ringOf s r with state := st' })
        ∧ (∀ q, q ≠ r → ringOf t q = ringOf s q) ∧ t.hampers = s.hampers
        ∧ (portOf t p).cmdLast = n ∧ (portOf t p).cmdResult = 1 ∧ (portOf t p).cmdSeq = ((portOf s p).cmdSeq + 1) % 0x10000
        ∧ (portOf t p).lwOutcome = wrOk

/-- A ring command wrong for the ring's state changes no ring, reports WRONG_STATE and counts, while HP_LAST_WR records OK -/
def Obligations.RingCommandOutOfStateIsRefused : Prop :=
  ∀ (s : State) (p : Port) (k : Link) (r : Nat), Shape s → Clean s → r = (portOf s p).ringArg0.toNat % 0x10000 → ringGranted s p r = true →
    (ringOf s r).poisoned = false →
    ∀ c n st, (c, n, st) ∈ ([(.pause p k, 2, .active), (.create p k, 1, .unbound)] : List (Instr × Nat × RingState)) →
      ServesReg s p k 0x080 n → (ringOf s r).state ≠ st →
      ∃ t, exec c s = .next t ∧ t.rings = s.rings ∧ t.hampers = s.hampers ∧ t.mem = s.mem
        ∧ (blockOf t 5).wrongState = min 0xFFFF ((blockOf s 5).wrongState + 1)
        ∧ (portOf t p).cmdLast = n ∧ (portOf t p).cmdResult = 2 ∧ (portOf t p).lwOutcome = wrOk

/-- A poll, and a kick, take the one-entry hamper at TAIL and advance TAIL -/
def Obligations.PollAndKickTakeAHamper : Prop :=
  ∀ (s : State) (p : Port) (k : Link) (ring : BitVec 16), Shape s → Clean s →
    let r := ring.toNat
    let g := ringOf s r
    let e := entryBytes s g g.tail
    let n := nextIndex g g.tail g.tailPhase
    ringServed s r = true → g.port = p → g.tail < 2 ^ g.sizeLog2 → ringRoom g ≠ 0 → openHamper s r = none →
    ownBit e = true → phaseBit e = g.tailPhase → chainBit e = false → ownBit (entryBytes s g n.1) = false →
    ∀ c, (c = .ringPoll ring ∧ g.poll ≠ 0) ∨ (c = .ringKick p k ring ∧ ServesReg s p k 0x0A0 r ∧ ringGranted s p r = true) →
      ∃ t, exec c s = .next t
        ∧ t.hampers = s.hampers ++ [{
            id := s.nextHamper, ring := r, domain := g.domain, port := g.port, base := g.base,
            entries := [{ index := g.tail, bytes := e }], closedRun := true, cls := (if urgentBit e then 3 else g.cls), agedAt := s.mono }]
        ∧ ringOf t r = { g with tail := n.1, tailPhase := n.2 }
        ∧ (∀ q, q ≠ r → ringOf t q = ringOf s q) ∧ t.mem = s.mem

/-- ROLL_ACK clears the bit of a granted ring, or the masked bits of the port's own rings in a leaf word, and no other -/
def Obligations.RollAckClearsLeafBits : Prop :=
  ∀ (s : State) (p : Port) (k : Link),
    (∀ ring : BitVec 16, ServesReg s p k 0x058 ring.toNat → ringGranted s p ring.toNat = true →
      ∃ t, exec (.rollAckRing p k ring) s = .next t
        ∧ (∀ w b, b < 32 → (leafWord t w).getLsbD b = ((leafWord s w).getLsbD b && !(decide (32 * w + b = ring.toNat))))
        ∧ t.rings = s.rings ∧ t.hampers = s.hampers ∧ t.mem = s.mem ∧ t.health = s.health)
    ∧ (∀ (w : BitVec 11) (upper : Bool) (m : BitVec 16),
      ServesReg s p k 0x058 (2 ^ 31 + b2n upper * 2 ^ 27 + w.toNat * 2 ^ 16 + m.toNat) →
      ∃ t, exec (.rollAckWord p k w upper m) s = .next t
        ∧ (∀ b, b < 32 → (leafWord t w.toNat).getLsbD b =
            ((leafWord s w.toNat).getLsbD b && !((leafSeen s p w.toNat).testBit b && (m.toNat * 2 ^ (if upper then 16 else 0)).testBit b)))
        ∧ (∀ v, v ≠ w.toNat → leafWord t v = leafWord s v) ∧ t.rings = s.rings ∧ t.hampers = s.hampers ∧ t.mem = s.mem ∧ t.health = s.health)

/-- SPREAD_CFG, SLEW_CFG, WIN_CACHE and TIME_TRIM take listed values; a trim outside its conditions changes no time and is refused -/
def Obligations.SpreadSlewCacheAndTrim : Prop :=
  ∀ (s : State) (p : Port) (k : Link), let b := respond p .silent s
    (∀ v : BitVec 2, ServesOperator s p k 0x8C0 v.toNat →
      exec (.spreadCfgWrite p k v) s = .next (recordWr p 0x11 wrOk { b with board := { b.board with spreadDepth := v.toNat } }))
    ∧ exec .spreadApplied s = .next { s with board := { s.board with spreadApplied := s.board.spreadDepth } }
    ∧ (∀ v : BitVec 20, ServesOperator s p k 0x8C4 v.toNat → 2 ≤ v.toNat / 0x10000 % 4 →
      exec (.slewCfgWrite p k v) s = .next (recordWr p 0x11 wrOk { b with
        board := { b.board with slew := v.toNat }
        mp := { b.mp with slewApplied := if s.mp.current.isSome then s.mp.slewApplied else v.toNat / 0x10000 }
        ports := b.ports.zipIdx.map (fun c => { c.1 with slewApplied := v.toNat / 16 ^ c.2 % 16 }) }))
    ∧ (∀ w d : BitVec 4, ServesOperator s p k 0x944 (2 ^ 31 + w.toNat * 256 + d.toNat) → w.toNat ≤ 8 →
      exec (.winCacheInvalidate p k w d) s =
        .next (recordWr p 0x11 wrOk { b with mp := { b.mp with xipWays := w.toNat, prefetchDepth := d.toNat, cache := [] } }))
    ∧ (∀ d : BitVec 18, ServesReg s p k 0x410 d.toNat →
      (-32768 ≤ d.toInt ∧ d.toInt ≤ 32768 ∧ trimOk d.toInt s = true →
        exec (.timeTrim p k d) s = .next (recordWr p 0x11 wrOk (if d.toInt = 0 then b else { b with thermos := { s.thermos with
          offset := s.thermos.offset + d.toInt, trimLog := recentTrims s ++ [(s.mono, d.toInt.natAbs)], lastTrimMono := some s.mono } })))
      ∧ (¬(-32768 ≤ d.toInt ∧ d.toInt ≤ 32768 ∧ trimOk d.toInt s = true) → Shape s → sevOf s 19 3 ≤ 1 → sevOf s p 3 ≤ 1 →
        ∃ t, exec (.timeTrim p k d) s = .next t ∧ t.trimRefused = true ∧ t.thermos = s.thermos ∧ t.mono = s.mono
          ∧ (portOf t p).lwOutcome = wrDenied ∧ (blockOf t 19).wrongState = min 0xFFFF ((blockOf s 19).wrongState + 1)))

/-- CKPT_NOW, an accepted PFAIL_N and a warned brownout write every domain's counters and lower no-longer-needed issue marks -/
def Obligations.CheckpointsWriteCountersAndMarks : Prop :=
  ∀ s : State,
    (∀ t, t = checkpoint s →
      (∀ d, domExists s d = true → (domOf t d).meters = (assocGet s.live d).getD (domOf s d).meters)
      ∧ (∀ d, assocGet t.live d = none)
      ∧ (∀ c ∈ s.issue, domExists s c.1 = true → (domOf t c.1).issueMark ≤ c.2)
      ∧ t.thermos.cleanStop = true ∧ t.mono = s.mono ∧ t.issue = s.issue)
    ∧ (∀ (p : Port) (k : Link), ServesOperator s p k 0x9C0 1 →
      exec (.ckptNow p k) s = .next (recordWr p 0x11 wrOk (checkpoint (respond p .silent s))))
    ∧ (s.board.pfailN = true → ∀ u, u = { s with board := { s.board with pfailN := false }, drawsStopped := true, writeThrough := true } →
      exec .pfailAssert s = .next (if s.boot.mode = .boot then u else checkpoint u))
    ∧ (s.boot.mode ≠ .boot → exec (.brownoutWarning true) s = .next (checkpoint s))
    ∧ (s.board.pfailN = false → exec .pfailRelease s = .next { s with
        board := { s.board with pfailN := true }, drawsStopped := false, writeThrough := false,
        thermos := { s.thermos with cleanStop := if s.boot.mode = .boot then s.thermos.cleanStop else false } })

/-- TAMPER_ARM, ALIVE_CFG and PD_POLICY take what the operator writes; a locked TAMPER_ARM changes nothing -/
def Obligations.TamperArmForceStopAndPolicy : Prop :=
  ∀ (s : State) (p : Port) (k : Link), let b := respond p .silent s
    (∀ v : BitVec 9, ServesOperator s p k 0x888 v.toNat →
      ((bit s.thermos.tamperArm 8 = false ∨ v.toNat &&& 0x10F = s.thermos.tamperArm) →
        (∀ j < 4, bit (v.toNat &&& 0x10F) j = true → bit s.thermos.tamperArm j = true ∨ cannotArm s j = false) →
        exec (.tamperArmWrite p k v) s = .next (recordWr p 0x11 wrOk { b with thermos := { s.thermos with tamperArm := v.toNat &&& 0x10F } }))
      ∧ (bit s.thermos.tamperArm 8 = true → v.toNat &&& 0x10F ≠ s.thermos.tamperArm → Shape s → sevOf s p 3 ≤ 1 →
        ∃ t, exec (.tamperArmWrite p k v) s = .next t ∧ t.thermos = s.thermos ∧ (portOf t p).lwOutcome = wrDenied
          ∧ (blockOf t 14).wrongState = min 0xFFFF ((blockOf s 14).wrongState + 1)))
    ∧ (∀ (on : Bool) (r : BitVec 3), ServesOperator s p k 0x884 (b2n on * 256 + r.toNat) → r.toNat ≤ 4 →
      exec (.forceStop p k on r) s = .next (recordWr p 0x11 wrOk { b with boot := { b.boot with aliveRate := r.toNat, forceStop := on } }))
    ∧ (∀ (w : Fin 7) (v : Word), ServesOperator s p k (0x820 + 4 * w.val) v.toNat → Shape s →
      (policyDomains w).all (fun i => policyListed i (policyField w v.toNat i s)) = true → policyWrong w v.toNat s = false →
      ∃ t, exec (.pdPolicyWrite p k w v) s = .next t ∧ (portOf t p).lwOutcome = wrOk
        ∧ (∀ i < 50, i / 8 = w.val →
            (pdOf t i).policy = policyOf (bits v.toNat (4 * (i % 8) + 1) (4 * (i % 8))) ∧ (pdOf t i).wakeBist = bit v.toNat (4 * (i % 8) + 2)
            ∧ (bits v.toNat (4 * (i % 8) + 1) (4 * (i % 8)) = 2 → (pdOf s i).st = .on → (pdOf t i).closed = true))
        ∧ (∀ i < 50, i / 8 ≠ w.val → (pdOf t i).policy = (pdOf s i).policy ∧ (pdOf t i).wakeBist = (pdOf s i).wakeBist)
        ∧ t.rings = s.rings ∧ t.hampers = s.hampers ∧ t.mem = s.mem ∧ t.thermos = s.thermos)

/-- EVENT_CLEAR clears exactly the EVENT bits written 1 with their stored severities; REACTION_END ends HANDLING -/
def Obligations.EventClearAndReactionEnd : Prop :=
  ∀ s : State,
    (∀ (p : Port) (k : Link) (b : Fin 21) (m : BitVec 8), ServesReg s p k (0x604 + 16 * b.val) m.toNat → Shape s → groupWrite s p b = true →
      (∀ c ∈ (blockOf s b).named, (m.toNat.testBit c.1 && (blockOf s b).event.testBit c.1) = false) →
      (b.val = 12 → (m.toNat.testBit 1 && (blockOf s b).event.testBit 1) = false) →
      ∃ t, exec (.eventClear p k b m) s = .next t ∧ (portOf t p).lwOutcome = wrOk
        ∧ (∀ j, (blockOf t b).event.testBit j = ((blockOf s b).event.testBit j && !m.toNat.testBit j))
        ∧ (blockOf t b).stored = (blockOf s b).stored.filter (fun c => !(m.toNat.testBit c.1 && (blockOf s b).event.testBit c.1))
        ∧ (blockOf t b).history = (blockOf s b).history ∧ (blockOf t b).handling = (blockOf s b).handling
        ∧ (blockOf t b).sevs = (blockOf s b).sevs ∧ (∀ c, c ≠ b.val → blockOf t c = blockOf s c)
        ∧ (∀ q, q ≠ p.val → portOf t q = portOf s q) ∧ t.thermos = s.thermos ∧ t.rings = s.rings ∧ t.hampers = s.hampers ∧ t.mem = s.mem
        ∧ t.power = s.power ∧ t.boot = s.boot)
    ∧ (∀ b : Fin 21, (blockOf s b).handling = true → (blockOf s b).merged = [] →
      exec (.reactionEnd b) s = .next (modBlock s b (fun h => { h with handling := false })))
    ∧ (∀ b : Fin 21, (blockOf s b).handling = false → exec (.reactionEnd b) s = .next s)

/-- WDT_STATUS starts and stops the Egg timer, a locked one refuses changes; WDT_LOCK copies the locked configuration and runs the timer -/
def Obligations.EggTimerRegistersAndLocks : Prop :=
  ∀ (s : State) (p : Port) (k : Link) (a : BitVec 2), let b := respond p .silent s; let w := (portOf s p).wdt
    (ServesReg s p k 0x028 (a.toNat * 2 + 1) → (w.lock = false ∨ (w.en = true ∧ w.action = a.toNat)) →
      exec (.wdtEnable p k a) s = .next (recordWr p 0x11 wrOk (modPort b p (fun x => { x with wdt := { w with
        en := true, action := a.toNat, start := if w.en then w.start else s.mono } }))))
    ∧ (ServesReg s p k 0x028 (a.toNat * 2) → (w.lock = false ∨ (w.en = false ∧ w.action = a.toNat)) →
      (w.quiesced = false ∨ (Clean s ∧ ∀ r, (ringOf s r).state ≠ .active)) →
      exec (.wdtDisable p k a) s = .next (recordWr p 0x11 wrOk (modPort b p (fun x => { x with wdt := { w with
        en := false, action := a.toNat, half := false, acting := false, quiesced := false } }))))
    ∧ (ServesReg s p k 0x028 (a.toNat * 2) → w.lock = true → (w.en = true ∨ w.action ≠ a.toNat) →
      exec (.wdtDisable p k a) s = .next (recordWr p 0x11 wrDenied (noteDenied p none b)))
    ∧ (∀ q : Port, ServesOperator s p k (0x894 + 8 * q.val) (0x100 + a.toNat) → (portOf s q).wdt.lock = false →
      lockCfgOk (portOf s q).wdt.lockCfg.toNat = true → (portOf s q).wdt.lockCfg ≠ 0 →
      exec (.wdtLockSet p k q a) s = .next (recordWr p 0x11 wrOk (modPort b q (fun x => { x with wdt := { (portOf s q).wdt with
        lock := true, lockAction := a.toNat, action := a.toNat, en := true, start := s.mono,
        timeoutMs := (portOf s q).wdt.lockCfg.toNat / 0x10000, windowMs := (portOf s q).wdt.lockCfg.toNat % 0x10000 } }))))
    ∧ (∀ q : Port, ServesOperator s p k (0x894 + 8 * q.val) a.toNat →
      exec (.wdtLockClear p k q a) s = .next (recordWr p 0x11 wrOk (modPort b q (fun x => { x with wdt := { (portOf s q).wdt with
        lock := false, lockAction := a.toNat } }))))

/-- The two service keys restart the Egg timer; a wrong key, order, moment or a timeout is a failure with its cause and ACTION -/
def Obligations.EggTimerServiceAndFailure : Prop :=
  ∀ (s : State) (p : Port) (k : Link) (e : BootEnv), Shape s → wdtCounts s = true → (portOf s p).wdt.en = true → s.boot.fatal = false →
    sevOf s p 6 ≤ 1 → let b := respond p .silent s; let w := (portOf s p).wdt
    (ServesReg s p k 0x024 0x6E3A → w.half = false → wdtOpen s p = true →
      exec (.wdtSvc p k 0x6E3A e) s = .next (recordWr p 0x11 wrOk (modPort b p (fun x => { x with wdt := { w with half := true } }))))
    ∧ (ServesReg s p k 0x024 0x91C5 → w.half = true → w.quiesced = false →
      exec (.wdtSvc p k 0x91C5 e) s = .next (recordWr p 0x11 wrOk (modPort b p (fun x => { x with wdt := { w with
        start := s.mono, half := false, acting := false } }))))
    ∧ (∀ (v : Word) (c : Nat), ServesReg s p k 0x024 v.toNat →
      ((v ≠ 0x6E3A ∧ v ≠ 0x91C5 ∧ c = 2) ∨ (v = 0x6E3A ∧ w.half = true ∧ c = 3) ∨ (v = 0x91C5 ∧ w.half = false ∧ c = 3)
        ∨ (v = 0x6E3A ∧ w.half = false ∧ wdtOpen s p = false ∧ c = 4)) →
      (w.action = 0 → exec (.wdtSvc p k v e) s = .next (recordWr p 0x11 wrOk (raise p 6 c none (modPort b p (fun x => { x with wdt := { w with
        fails := min 15 (w.fails + 1), cause := c, start := s.mono, half := false } })))))
      ∧ (w.action = 3 → ∃ t, exec (.wdtSvc p k v e) s = .next t ∧ t.boot.mode = .boot ∧ t.boot.resetCause = 2 ∧ t.hampers = [] ∧ t.keys = []
        ∧ (portOf t p).wdt = {}))
    ∧ (∀ m, m = max s.mono (w.start + msTicks w.timeoutMs) → boundaryDue (w.start + msTicks w.timeoutMs) s = false → ∀ u, u = raise p 6 1 none (modPort { s with mono := m } p (fun x => { x with wdt := { w with
        fails := min 15 (w.fails + 1), cause := 1, start := m, half := false } })) →
      (w.action = 0 → exec (.wdtTimeout p e) s = .next u)
      ∧ (w.action = 1 → exec (.wdtTimeout p e) s = .next (modPort u p (fun x => { x with wdt := { x.wdt with quiesced := true, acting := true } })))
      ∧ (w.action = 2 → ∃ t, exec (.wdtTimeout p e) s = .next t ∧ (portOf t p).wdt.acting = true
        ∧ (∀ c ∈ t.cipherParts, c.2.port ≠ p.val) ∧ (∀ c ∈ t.digestParts, c.2.port ≠ p.val))
      ∧ (w.action = 3 → ∃ t, exec (.wdtTimeout p e) s = .next t ∧ t.boot.mode = .boot ∧ t.boot.resetCause = 2 ∧ t.hampers = [] ∧ t.keys = []
        ∧ (portOf t p).wdt = {}))

/-- PUSH_DEPOSIT writes the oldest pushed entry at TAIL and takes it, or refuses it with a reason and leaves the ring -/
def Obligations.PushDepositTakesOrRefusesItsEntry : Prop :=
  ∀ (s : State) (p : Port),
    ((portOf s p).pushBuf = [] → exec (.pushDeposit p) s = .next s)
    ∧ (∀ it rest, Shape s → Clean s → (portOf s p).pushBuf = it :: rest → (portOf s p).pushLog.length = 16 → it.entry.length = 64 →
      let g := ringOf s it.ring
      (pushReason s it = 0 → ownBit (entryBytes s g g.tail) = false → chainBit it.entry = false → openHamper s it.ring = none → g.tail < 2 ^ g.sizeLog2 →
        ∃ t, exec (.pushDeposit p) s = .next t
          ∧ (∀ i < 64, assocGetD 0 t.mem.pantry (entryAddr g g.tail + i) = it.entry.getD i 0)
          ∧ (∀ b, (b < entryAddr g g.tail ∨ entryAddr g g.tail + 64 ≤ b) → assocGetD 0 t.mem.pantry b = assocGetD 0 s.mem.pantry b)
          ∧ ringOf t it.ring = { g with tail := (nextIndex g g.tail g.tailPhase).1, tailPhase := (nextIndex g g.tail g.tailPhase).2 }
          ∧ (∀ q, q ≠ it.ring → ringOf t q = ringOf s q)
          ∧ t.hampers = s.hampers ++ [{
              id := s.nextHamper, ring := it.ring, domain := g.domain, port := g.port, base := g.base, entries := [{ index := g.tail, bytes := it.entry }],
              closedRun := true, cls := (if urgentBit it.entry then 3 else g.cls), agedAt := s.mono }]
          ∧ (portOf t p).pushBuf = rest ∧ (portOf t p).pushDeposited = ((portOf s p).pushDeposited + 1) % 2 ^ 32
          ∧ (portOf t p).pushLog.getD (portOf t p).pushLogPos {} = { result := 2, ring := it.ring, index := g.tail, wrSeq := it.seq }
          ∧ (rest = [] → (portOf t p).lastResult = 2) ∧ t.leaf = s.leaf ∧ t.health = s.health ∧ t.thermos = s.thermos)
      ∧ (∀ why, why = (if pushReason s it = 0 ∧ ownBit (entryBytes s g g.tail) = true then 7 else pushReason s it) → why ≠ 0 → sevOf s 5 2 ≤ 1 →
        ∃ t, exec (.pushDeposit p) s = .next t ∧ t.rings = s.rings ∧ t.hampers = s.hampers ∧ t.mem = s.mem ∧ t.thermos = s.thermos ∧ t.leaf = s.leaf
          ∧ (portOf t p).pushBuf = rest ∧ (portOf t p).pushRefused = ((portOf s p).pushRefused + 1) % 2 ^ 32 ∧ (portOf t p).refusedAny = true
          ∧ (portOf t p).pushLog.getD (portOf t p).pushLogPos {} = { result := 3, reason := why, ring := it.ring, wrSeq := it.seq }
          ∧ (rest = [] → (portOf t p).lastResult = 3)))

/-- The content hash is taken once; the allocator admits the first of its order with its cups, or its port claims them -/
def Obligations.AdmissionHashesAdmitsAndClaims : Prop :=
  ∀ s : State,
    (∀ h x m n, hamperOf s h = some x → x.admitted = false → x.closedRun = true → asksIdemp x = true → x.hash = none → hamperDefect s x = none →
      Reads s m h (hashedLists s x) → Reads m n h (hashedPieces m x) →
      exec (.dupHashDone h) s = .next (modHamper n h (fun y => { y with hash := some (contentHash n x) })))
    ∧ (∀ x rest, Clean s → hamperOf s x.id = some x → hamperDefect s x = none →
      (let cs := candidates s
       if oldestTurn s.allocator then cs
       else readyClaims s cs ++ (arbitration s s.allocator cs).filter (fun y => !((readyClaims s cs).any (fun z => z.id == y.id)))) = x :: rest →
      (∀ rep f, f = min (declaredCups x) (floorOpen s x) → cupsFit s x = true →
        ((asksIdemp x = false ∧ rep = none) ∨ (asksIdemp x = true ∧ ∃ r, dupOf s x = some r ∧ r.closed = true ∧ some r.hash = x.hash ∧ rep = some r)) →
        ∃ t, exec .hamperAdmission s = .next t
          ∧ hamperOf t x.id = some { x with
              floorCups := f, sharedCups := declaredCups x - f, admitted := true, refusedCups := false, admitNo := s.allocator.grants + 1
              replay := if rep.isSome then rep else x.replay, seed := if rep.isSome then rep.map (·.seed) else x.seed }
          ∧ t.floorFree = s.floorFree.set x.port (s.floorFree.getD x.port 0 - f) ∧ t.sharedFree = s.sharedFree - (declaredCups x - f)
          ∧ (∀ j, j ≠ x.id → (hamperOf t j).map (fun y => { y with claimSince := 0 }) = (hamperOf s j).map (fun y => { y with claimSince := 0 }))
          ∧ (s.claims.getD x.port none ≠ some x.id → t.claims = s.claims ∧ ∀ j, j ≠ x.id → hamperOf t j = hamperOf s j)
          ∧ t.rings = s.rings ∧ t.mem = s.mem ∧ t.thermos = s.thermos ∧ t.dups = s.dups)
      ∧ (asksIdemp x = false → cupsFit s x = false → rest = [] →
        ∃ t, exec .hamperAdmission s = .next t ∧ hamperOf t x.id = some { x with
              refusedCups := true, claimSince := if (s.claims.getD x.port none).isNone then s.mono else x.claimSince }
          ∧ t.claims = (if (s.claims.getD x.port none).isNone then s.claims.set x.port (some x.id) else s.claims)
          ∧ (∀ j, j ≠ x.id → hamperOf t j = hamperOf s j) ∧ t.rings = s.rings ∧ t.mem = s.mem ∧ t.thermos = s.thermos ∧ t.sharedFree = s.sharedFree
          ∧ t.floorFree = s.floorFree))
    ∧ (∀ p : Port, ((s.claims.getD p.val none).bind (hamperOf s) = none → exec (.claimWait p) s = .next s)
      ∧ (∀ x m, (s.claims.getD p.val none).bind (hamperOf s) = some x → m = x.claimSince + msTicks s.ageLimit + 1 → boundaryDue m s = false →
        exec (.claimWait p) s = .next (raise 6 1 p.val (some x.domain) { s with mono := max s.mono m })))

/-- A free engine goes to the first waiting hamper with its whole set; an URGENT entry suspends a running one; waiting promotes -/
def Obligations.EnginesAreGrantedAndSuspended : Prop :=
  ∀ s : State, Shape s →
    (∀ e err, engineFree s e = true → grantable s e = [] → exec (.engineGrant ⟨e, err⟩) s = .next s)
    ∧ (∀ e err x z rest w l, e < 36 → engineFree s e = true → hamperOf s z.id = some z → x = atDispatch z → (err = true → hashPhase z = true) →
      arbiterOrder s (s.dispatchers.getD (dispatcherOf e) {}) ((grantable s e).map atDispatch) = x :: rest →
      waitingNeed s x = some w → grantSet s w e = some l → capFits s x.id (setCharge l) = true →
      ∃ t y, exec (.engineGrant ⟨e, err⟩) s = .next t
        ∧ (∀ i ∈ l, i < 50 → pdOf t i = { pdOf s i with running := some (.hamper z.id) }) ∧ (∀ i, i ∉ l → pdOf t i = pdOf s i)
        ∧ hamperOf t z.id = some y ∧ y.engines = l ∧ y.entries = z.entries ∧ y.cls = z.cls
        ∧ (hashPhase z = true → y.held = none ∧ y.awaiting = false) ∧ (hashPhase z = false → y.awaiting = y.held.isNone)
        ∧ (∀ j, j ≠ z.id → hamperOf t j = hamperOf s j) ∧ t.rings = s.rings ∧ t.mem = s.mem ∧ t.thermos = s.thermos ∧ t.health = s.health)
    ∧ (∀ h x l i v, hamperOf s h = some x → x.cls = 3 → waitingNeed s x = some [l] → l.any (engineFree s) = false → pickVictim s l = some (i, v) →
      sevOf s 6 3 ≤ 1 →
      ∃ t y z, exec (.preemptSuspend h) s = .next t
        ∧ pdOf t i = { pdOf s i with suspended := (pdOf s i).running, running := some (.hamper h) } ∧ (∀ j, j ≠ i → pdOf t j = pdOf s j)
        ∧ hamperOf t h = some y ∧ y.engines = [i] ∧ y.entries = x.entries
        ∧ hamperOf t v.id = some z ∧ z.suspensions = v.suspensions + 1 ∧ z.engines = v.engines
        ∧ (∀ j, j ≠ h → j ≠ v.id → hamperOf t j = hamperOf s j) ∧ t.dispatchers = s.dispatchers
        ∧ t.rings = s.rings ∧ t.mem = s.mem ∧ t.thermos = s.thermos)
    ∧ (∀ h x, hamperOf s h = some x → x.cls < 2 → isWaiting s x = true → sevOf s 6 0 ≤ 1 → boundaryDue (x.agedAt + msTicks s.ageLimit) s = false →
      ∃ t, exec (.agePromotion h) s = .next t ∧ t.mono = max s.mono (x.agedAt + msTicks s.ageLimit)
        ∧ hamperOf t h = some { x with cls := x.cls + 1, agedAt := t.mono } ∧ (∀ j, j ≠ h → hamperOf t j = hamperOf s j)
        ∧ t.rings = s.rings ∧ t.mem = s.mem ∧ t.thermos = s.thermos ∧ t.power = s.power)

/-- HAMPER_COMPLETE writes every completion, counts the shares done, sets the leaf bit, returns the cups and frees the hamper -/
def Obligations.CompletionWritesEveryEntry : Prop :=
  ∀ (s : State) (h : Nat) (x : Hamper),
    (hamperOf s h = some x → x.admitted = true → hamperStopped x = true → x.reclaimed = false → (ringOf s x.ring).state = .active →
      ∀ at_, at_ = (fun e : TakenEntry => x.base + 64 * e.index) →
      (∀ e ∈ x.entries, arenaGranted s x.port (at_ e) 64 = true ∧ e.bytes.length = 64
        ∧ (∀ d v, e.done = some d → d.param = some v → v.length = 32)) →
      (x.entries.map (·.index)).Nodup →
      ∃ t, exec (.hamperComplete h) s = .next t
        ∧ (∀ e ∈ x.entries, memRead 0 t.mem.pantry (at_ e) 64 = completedBytes e.bytes (e.done.getD { status := stChain }) s.mono)
        ∧ (∀ b, (∀ e ∈ x.entries, b < at_ e ∨ at_ e + 64 ≤ b) → assocGetD 0 t.mem.pantry b = assocGetD 0 s.mem.pantry b)
        ∧ (x.entries ≠ [] → ∀ w b, b < 32 → (leafWord t w).getLsbD b = ((leafWord s w).getLsbD b || decide (32 * w + b = x.ring)))
        ∧ (s.boot.mode ≠ .debug → domExists s x.domain = true →
            ∀ k < 5, (countersOf t x.domain).getD k 0 = (countersOf s x.domain).getD k 0 + sharesDone x k)
        ∧ t.thermos.backlog = s.thermos.backlog.filter (fun m => !x.posted.contains m.seq)
        ∧ t.hampers.map (fun y => { y with claimSince := 0 }) = (s.hampers.filter (fun y => y.id != h)).map (fun y => { y with claimSince := 0 })
        ∧ (s.claims.getD x.port none ≠ some h → t.hampers = s.hampers.filter (fun y => y.id != h))
        ∧ t.sharedFree = s.sharedFree + x.sharedCups ∧ t.floorFree = s.floorFree.set x.port (s.floorFree.getD x.port 0 + x.floorCups)
        ∧ (∀ r, r ≠ x.ring → ringOf t r = ringOf s r)
        ∧ ((∀ y ∈ s.hampers, y.id ≠ h → y.ring ≠ x.ring) →
            ringOf t x.ring = { ringOf s x.ring with head := (ringOf s x.ring).tail, headPhase := (ringOf s x.ring).tailPhase }))
    ∧ (∀ e, Runs s h 0x00 x e → nopFields e = true →
      ∃ t, exec (.nopEntry h) s = .next t ∧ Finishes s t h 0 [] { status := okOf x })
    ∧ (∀ e, runnable s h = some (x, e) → x.cupPoison = false → opcodeKnown (opcode e) = false →
      ∃ t, exec (.nopEntry h) s = .next t ∧ Finishes s t h 0 [] { status := stBadOpcode })

/-- CIPHER, AEAD_SEAL and AEAD_OPEN that pass their checks finish OK with their output, tag or pair, and count their octets -/
def Obligations.CipherAndAeadEntries : Prop :=
  ∀ (s n : State) (h : Nat) (x : Hamper) (e : Bytes) (k : Key), x.engines ≠ [] → s.rng.stopped = false →
    (isPart (flags e) && earlierTouch s x false) = false →
    (Runs s h 0x10 x e → cipherEarly s x e = none →
      keyStep s x (slotOf e) (cipherJudge (if bit (flags e) 3 then useDecrypt else useEncrypt) (modeOf e)) = .key k →
      cipherLater s x e k = none → Reads (takeShare h x 4 (srcTotal s x e) s) n h (readRanges s x e) → dstReady n (dstOf e) (srcTotal s x e) = true →
      ∀ m r q, m = readAll n x (srcRanges n x e) → q = (carried n x e).getD (freshPart x e) →
        r = cipherOutput (modeOf e) (bit (flags e) 3) (keyOctets k) (cipherStart n x e).1 (cipherStart n x e).2 m →
        ∃ t, exec (.cipher h .none) s = .next t
          ∧ Finishes n t h (dstOf e) r.1 { status := okOf x, len := m.length, param := if bit (flags e) 10 then some (r.2 ++ slice (paramOf e) 16 16) else none }
          ∧ Counts t h x 4 m.length
          ∧ (isPart (flags e) = true → openPart t false x.ring =
              if partLast (flags e) then none else some { q with
                chain := r.2, total := q.total + m.length
                spent := modeOf e == 2 && (q.spent || ctrSpends (leAt (cipherStart n x e).2 0x14 1) (cipherStart n x e).1 m.length) }))
    ∧ (Runs s h 0x11 x e → aeadEarly s x e = none → keyStep s x (slotOf e) (cipherJudge useEncrypt (modeOf e)) = .key k →
      aeadLater s x e k = none → Reads (takeShare h x 4 (aeadPayload s x e) s) n h (readRanges s x e ++ if (aadOf e).2 = 0 then [] else [aadOf e]) →
      dstReady n (dstOf e) (aeadOutLen s x e) = true →
      ∀ nonce q m c tag own, own = (bit (flags e) 8 && opensMessage (flags e)) → q = aeadState n x e →
        (opensMessage (flags e) = false → nonce = q.chain) → (opensMessage (flags e) = true → own = false → nonce = slice q.param 0 (leAt q.param 0x10 1)) →
        (own = true → ∃ u, drawFor x 12 n = some (nonce, u)) →
        m = readAll n x (srcRanges n x e) → c = aeadCrypt (modeOf e) (keyOctets k) nonce q.total m →
        tag = (if endsMessage (flags e) then aeadTag (modeOf e) (keyOctets k) nonce
          (if opensMessage (flags e) then readAt n x (aadOf e).1 (aadOf e).2 else q.aad) m (q.acc ++ c) (tagLen q) else []) →
        ∃ t, exec (.aeadSeal h .none) s = .next t
          ∧ Finishes n t h (dstOf e) (c ++ tag) {
              status := okOf x, len := c.length + tag.length
              param := if own then some (fitTo 12 nonce ++ slice (paramOf e) 12 20) else none }
          ∧ Counts t h x 4 m.length)
    ∧ (Runs s h 0x12 x e → aeadEarly s x e = none → keyStep s x (slotOf e) (cipherJudge useDecrypt (modeOf e)) = .key k →
      aeadLater s x e k = none → Reads (takeShare h x 4 (aeadPayload s x e) s) n h (readRanges s x e ++ if (aadOf e).2 = 0 then [] else [aadOf e]) →
      dstReady n (dstOf e) (aeadOutLen s x e) = true →
      ∀ q nonce b c m tag, q = aeadState n x e → nonce = (if opensMessage (flags e) then slice q.param 0 (leAt q.param 0x10 1) else q.chain) →
        b = readAll n x (srcRanges n x e) → c = b.take (aeadPayload n x e) → m = aeadCrypt (modeOf e) (keyOctets k) nonce q.total c →
        tag = aeadTag (modeOf e) (keyOctets k) nonce (if opensMessage (flags e) then readAt n x (aadOf e).1 (aadOf e).2 else q.aad) m (q.acc ++ c)
          (tagLen q) →
        ∃ t, exec (.aeadOpen h .none) s = .next t
          ∧ (endsMessage (flags e) = false → Finishes n t h (dstOf e) m { status := okOf x, len := m.length } ∧ Counts t h x 4 m.length)
          ∧ (endsMessage (flags e) = true → tag = b.drop (aeadPayload n x e) →
              Finishes n t h (dstOf e) m { status := okOf x, len := m.length, param := some (withPair e pairMatch) } ∧ Counts t h x 4 m.length)
          ∧ (endsMessage (flags e) = true → tag ≠ b.drop (aeadPayload n x e) →
              Finishes n t h (dstOf e) (zeros m.length) { status := stAuthFail, param := some (withPair e pairMismatch) }))

/-- MAC_GEN, MAC_CHECK, DIGEST, HMAC_GEN and HMAC_CHECK that pass their checks finish with their tag, digest or verdict pair -/
def Obligations.MacAndDigestEntries : Prop :=
  ∀ (s n : State) (h : Nat) (x : Hamper) (e : Bytes) (k : Key) (m : Bytes), x.engines ≠ [] → m = readAll n x (srcRanges n x e) →
    (∀ op c, (op, c) ∈ ([(0x13, .macGen h .none), (0x14, .macCheck h .none)] : List (Nat × Instr)) → Runs s h op x e → s.rng.stopped = false →
      (isPart (flags e) && earlierTouch s x false) = false → macEarly s x e = none →
      keyStep s x (slotOf e) (cipherJudge useMac (modeOf e)) = .key k → macLater s x e k = none → Reads (takeShare h x 3 1 s) n h (readRanges s x e) →
      dstReady n (dstOf e) 0 = true → ∀ q tag, q = aeadState n x e →
      tag = (if modeOf e = 7 then cmac (keyOctets k) (q.acc ++ m) else gcmTag (keyOctets k) (slice q.param 0x10 12) (q.acc ++ m) []).take
        (leAt q.param 0x1C 1) →
      ∃ t, exec c s = .next t
        ∧ (isPart (flags e) = true → openPart t false x.ring =
            if partLast (flags e) then none else some { q with acc := q.acc ++ m, total := q.total + m.length })
        ∧ (endsMessage (flags e) = false → Finishes n t h (dstOf e) [] { status := okOf x } ∧ Counts t h x 3 1)
        ∧ (endsMessage (flags e) = true → op = 0x13 →
            Finishes n t h (dstOf e) [] { status := okOf x, len := tag.length, param := some (fitTo 16 tag ++ slice (paramOf e) 16 16) }
            ∧ Counts t h x 3 1)
        ∧ (endsMessage (flags e) = true → op = 0x14 → tag = slice (paramOf e) 0 tag.length →
            Finishes n t h (dstOf e) [] { status := okOf x, param := some (withPair e pairMatch) } ∧ Counts t h x 3 1)
        ∧ (endsMessage (flags e) = true → op = 0x14 → tag ≠ slice (paramOf e) 0 tag.length →
            Finishes n t h (dstOf e) [] { status := stAuthFail, param := some (withPair e pairMismatch) }))
    ∧ (Runs s h 0x20 x e → (isPart (flags e) && earlierTouch s x true) = false → digestBad s x e = none → Reads s n h (readRanges s x e) →
      dstReady n (dstOf e) (digestOutLen (carriedDigest s x e)) = true → ∀ q d, q = carriedDigest n x e →
      d = hashAlg (algOf e) (digestOutLen q) (q.acc ++ m) →
      ∃ t, exec (.digest h .none) s = .next t
        ∧ (isPart (flags e) = true → openPart t true x.ring =
            if partLast (flags e) then none else some { q with acc := q.acc ++ m, total := q.total + m.length })
        ∧ (endsMessage (flags e) = false → Finishes n t h (dstOf e) [] { status := okOf x })
        ∧ (endsMessage (flags e) = true → bit (flags e) 8 = true →
            Finishes n t h (dstOf e) [] { status := okOf x, len := d.length, param := some (inlineParam d) })
        ∧ (endsMessage (flags e) = true → bit (flags e) 8 = false → Finishes n t h (dstOf e) d { status := okOf x, len := d.length }))
    ∧ (∀ op c extra, (op, c, extra) ∈ ([(0x21, .hmacGen h .none, []), (0x22, .hmacCheck h .none, if (expOf e).2 ≠ 0 then [expOf e] else [])] :
        List (Nat × Instr × List (Nat × Nat))) → Runs s h op x e → (isPart (flags e) && earlierTouch s x true) = false →
      (if op = 0x21 then hmacGenEarly s x e else hmacCheckEarly s x e) = none → keyStep s x (slotOf e) hmacJudge = .key k →
      hmacLater s x e extra = none → Reads (takeShare h x 3 1 s) n h (readRanges s x e ++ extra) → dstReady n (dstOf e) (hmacTagLen (carriedDigest s x e)) = true →
      ∀ q full, q = carriedDigest n x e → full = hmac (algOf e) (keyOctets k) (q.acc ++ m) →
      ∃ t, exec c s = .next t
        ∧ (isPart (flags e) = true → openPart t true x.ring =
            if partLast (flags e) then none else some { q with acc := q.acc ++ m, total := q.total + m.length })
        ∧ (endsMessage (flags e) = false → Finishes n t h (dstOf e) [] { status := okOf x } ∧ Counts t h x 3 1)
        ∧ (endsMessage (flags e) = true → op = 0x21 → ∀ g, g = full.take (hmacTagLen q) →
            (if bit (flags e) 8 then Finishes n t h (dstOf e) [] { status := okOf x, len := g.length, param := some (inlineParam g) }
             else Finishes n t h (dstOf e) g { status := okOf x, len := g.length }) ∧ Counts t h x 3 1)
        ∧ (endsMessage (flags e) = true → op = 0x22 → full.take (expOf e).2 = readAt n x (expOf e).1 (expOf e).2 →
            Finishes n t h (dstOf e) [] { status := okOf x, param := some (withPair e pairMatch) } ∧ Counts t h x 3 1)
        ∧ (endsMessage (flags e) = true → op = 0x22 → full.take (expOf e).2 ≠ readAt n x (expOf e).1 (expOf e).2 →
            Finishes n t h (dstOf e) [] { status := stAuthFail, param := some (withPair e pairMismatch) }))

/-- COMPARE, EXTEND, QUOTE, CTX_EXPORT and CTX_IMPORT that pass their checks finish with their pair, register, quote or message -/
def Obligations.CompareExtendQuoteAndContext : Prop :=
  ∀ (s n : State) (h : Nat) (x : Hamper) (e : Bytes),
    (Runs s h 0x23 x e → compareBad s x e = none → Reads s n h (readRanges s x e ++ bRange e) →
      ∀ a b, a = readAll n x (srcRanges n x e) →
        b = (if bit (flags e) 10 then (n.meas.getD (leAt (paramOf e) 4 1) measReset).value else readAll n x (bRange e)) →
      ∃ t, exec (.compare h .none) s = .next t
        ∧ (a = b → Finishes n t h (dstOf e) [] { status := okOf x, param := some (withPair e pairMatch) })
        ∧ (a ≠ b → Finishes n t h (dstOf e) [] { status := stCompareFail, param := some (withPair e pairMismatch) }))
    ∧ (Runs s h 0x24 x e → x.engines ≠ [] → extendBad s x e = none → Reads s n h (readRanges s x e) → dstReady n (dstOf e) 48 = true →
      n.meas.length = 32 → ∀ i g v, i = leAt (paramOf e) 0 1 → g = n.meas.getD i measReset → v = sha384 (g.value ++ readAll n x (srcRanges n x e)) →
      ∃ t, exec (.extend h .none) s = .next t
        ∧ t.meas = n.meas.set i { g with value := v, extends_ := min 0xFFFF (g.extends_ + 1) }
        ∧ (dstLenOf e = 0 → Finishes n t h (dstOf e) [] { status := okOf x })
        ∧ (dstLenOf e ≠ 0 → Finishes n t h (dstOf e) v { status := okOf x, len := 48 }))
    ∧ (Runs s h 0x25 x e → x.engines ≠ [] →
      (x.hashed = false → quoteBad s x e = none → ∃ t, exec (.quote h .none) s = .next t ∧ Hashed s t h (quoteBody s x e))
      ∧ (x.hashed = true → Clean s → dstReady s (dstOf e) (dstLenOf e) = true →
        ∀ r g out, r = (rootOf s).getD [] → g = deviceSign r 3 x.template → out = x.template ++ g →
        ∃ t, exec (.quote h .none) s = .next t
          ∧ (deviceSigned r 3 x.template g = true → Finishes s t h (dstOf e) out { status := okOf x, len := out.length })
          ∧ (deviceSigned r 3 x.template g = false → SelfCheckFails s t h x.engines)))
    ∧ (Runs s h 0x26 x e → earlierTouch s x (kindDigest e) = false → exportBad s x e = none → Clean s → dstReady s (dstOf e) 288 = true →
      ∀ q iv u c, openPart s (kindDigest e) x.ring = some q → drawFor x 12 s = some (iv, u) → c = (ctxSeqOf s x.ring + 1) % 2 ^ 32 →
      ∃ t, exec (.ctxExport h .none) s = .next t
        ∧ Finishes s t h (dstOf e) (ctxBlob s x (kindDigest e) c q iv) { status := okOf x, len := 288 }
        ∧ openPart t (kindDigest e) x.ring = none ∧ exportOut t (kindDigest e) x.ring = some { seq := c, state := q } ∧ ctxSeqOf t x.ring = c)
    ∧ (Runs s h 0x27 x e → earlierTouch s x (kindDigest e) = false → importBad s x e = none → Reads s n h (readRanges s x e) →
      blobBad n x e (readAll n x (srcRanges n x e)) = none → ∀ c, exportOut n (kindDigest e) x.ring = some c →
      ∃ t, exec (.ctxImport h .none) s = .next t
        ∧ Finishes n t h (dstOf e) [] { status := okOf x }
        ∧ openPart t (kindDigest e) x.ring = some c.state ∧ exportOut t (kindDigest e) x.ring = none)

/-- SIGN, VERIFY, AGREE, RSA_DECRYPT and MODMATH that pass their checks hash first, then finish with their result once it checks -/
def Obligations.PublicKeyEntries : Prop :=
  ∀ (s n : State) (h : Nat) (x : Hamper) (e : Bytes) (m rnd : Bytes) (u : State), x.engines ≠ [] → m = readAll n x (srcRanges n x e) →
    dstReady n (dstOf e) (dstLenOf e) = true →
    (∀ k, Runs s h 0x30 x e → signEarly e = none → keyStep s x (slotOf e) (pkJudge useSign [privateType (schemeOf e)]) = .key k →
      (x.hashed = false → hashesFirst e = true → signLater s x e k = none → Reads (takeShare h x 1 1 s) n h (readRanges s x e) →
        ∃ t, exec (.sign h .none) s = .next t ∧ Hashed n t h m)
      ∧ (∀ w g, (x.hashed = true ∧ n = s ∧ Clean s ∧ w = x.template) ∨ (x.hashed = false ∧ hashesFirst e = false ∧ signLater s x e k = none
            ∧ Reads (takeShare h x 1 1 s) n h (readRanges s x e) ∧ w = m) →
        (if signDraw e = 0 then rnd = [] else drawFor x (signDraw e) n = some (rnd, u)) → g = signBytes e (prehashed e) k rnd w →
        ∃ t, exec (.sign h .none) s = .next t
          ∧ (signGood e (prehashed e) k rnd w g = true → Finishes n t h (dstOf e) g { status := okOf x, len := g.length }
              ∧ (x.hashed = false → Counts t h x 1 1))
          ∧ (signGood e (prehashed e) k rnd w g = false → SelfCheckFails n t h x.engines)))
    ∧ (∀ (ko : Option Key) pub ex, Runs s h 0x31 x e → verifyEarly e = none →
      (if keyInline e then ko = none else ∃ k, ko = some k ∧
        keyStep s x (slotOf e) (pkJudge useVerify [privateType (schemeOf e), publicType (schemeOf e)]) = .key k) →
      (x.hashed = false → hashesFirst e = true → verifyLater s x e = none → Reads (takeShare h x 2 1 s) n h (readRanges s x e) →
        ∃ t, exec (.verify h .none) s = .next t ∧ Hashed n t h m)
      ∧ (∀ w v, (x.hashed = true ∧ Reads s n h (verifyExtra e) ∧ w = x.template) ∨ (x.hashed = false ∧ hashesFirst e = false ∧ verifyLater s x e = none
            ∧ Reads (takeShare h x 2 1 s) n h (readRanges s x e ++ verifyExtra e) ∧ w = m) →
        pub = (match ko with | some k => publicOctets k | none => readAt n x (pubRange e).1 (pubRange e).2) →
        ex = (match ko with | some k => k.param | none => leAt (paramOf e) 0x18 4) → publicOk (schemeOf e) pub ex = true →
        v = verifySig e pub ex w (readAt n x (sigRange e).1 (sigRange e).2) →
        ∃ t, exec (.verify h .none) s = .next t
          ∧ (v = .holds → Finishes n t h (dstOf e) [] { status := okOf x, param := some (withPair e pairMatch) }
              ∧ (x.hashed = false → Counts t h x 2 1))
          ∧ (v ≠ .holds → Finishes n t h (dstOf e) [] {
              status := stVerifyFail, detail := if v = .malformed then 0x50 else 0, param := some (withPair e pairMismatch) })))
    ∧ (∀ (ko : Option Key) priv d, Runs s h 0x32 x e → agreeEarly e = none →
      (if ephemeral e then ko = none ∧ drawFor x (keyDraw (schemeOf e)) n = some (rnd, u) else ∃ k, ko = some k ∧
        keyStep s x (slotOf e) (pkJudge useAgree [privateType (schemeOf e)]) = .key k) →
      agreeLater s x e = none → Reads (takeShare h x 1 1 s) n h (readRanges s x e) →
      priv = (match ko with | some k => slice k.value 0 32 | none => rnd) →
      d = (match ko with | some k => beNat (slice k.value 0 (coordLen (schemeOf e))) | none => privateFrom (schemeOf e) rnd) →
      (∀ z out, agreeSecret (schemeOf e) priv d m = some z →
        out = (if ko.isSome then [] else if schemeOf e = 0x12 then xPub priv else ecPub (curveOf (schemeOf e)) d) →
        ∃ t y, exec (.agree h .none) s = .next t ∧ Finishes n t h (dstOf e) out { status := okOf x, len := out.length } ∧ Counts t h x 1 1
          ∧ hamperOf t h = some y ∧ assocGet y.temps (byteAt (paramOf e) 3) =
            some { typ := 0x08, cls := (ko.map (·.cls)).getD clsGuarded, usage := 2 ^ useDerive, value := z })
      ∧ (agreeSecret (schemeOf e) priv d m = none →
        ∃ t, exec (.agree h .none) s = .next t ∧ Finishes n t h (dstOf e) [] { status := stBadParam, detail := 0x32 }))
    ∧ (∀ k w, Runs s h 0x33 x e → rsaEarly e = none → keyStep s x (slotOf e) (pkJudge useDecrypt [0x20]) = .key k → rsaLater s x e k = none →
      Reads (takeShare h x 1 1 s) n h (readRanges s x e ++ labelReads e) →
      ∀ good, good = (decide (rsaModulus k ≤ beNat m) || powMod (rsaPrivate k (beNat m)) k.param (rsaModulus k) == beNat m) →
      w = (if rsaModulus k ≤ beNat m then none
        else oaepDecode (byteAt (paramOf e) 0) (readAll n x (labelReads e)) (toBe (rsaLen k) (rsaPrivate k (beNat m)))) →
      ∃ t, exec (.rsaDecrypt h .none) s = .next t
        ∧ (∀ v, good = true → w = some v → Finishes n t h (dstOf e) v { status := okOf x, len := v.length } ∧ Counts t h x 1 1)
        ∧ (good = true → w = none → Finishes n t h (dstOf e) [] { status := stAuthFail, detail := 0x42 })
        ∧ (good = false → SelfCheckFails n t h x.engines))
    ∧ (∀ b q r, Runs s h 0x34 x e → modBad s x e = none → Reads s n h (readRanges s x e ++ modExtra e) → dstReady n (dstOf e) (modLen e) = true →
      b = beNat (readAt n x (modB e).1 (modB e).2) → q = beNat (readAt n x (modM e).1 (modM e).2) →
      q % 2 = 1 → 3 ≤ q → beNat m < q → (modOp e = 1 → b < q) →
      r = (if modOp e = 0 then some (powMod (beNat m) b q) else if modOp e = 1 then some (beNat m * b % q) else inverseOf (beNat m) q) →
      ∃ t, exec (.modmath h .none) s = .next t
        ∧ (∀ v, r = some v → Finishes n t h (dstOf e) (toBe (modLen e) v) { status := okOf x, len := modLen e })
        ∧ (r = none → Finishes n t h (dstOf e) [] { status := stBadParam, detail := 0x35 }))

/-- ISSUE draws once, hashes the spliced template and signs it; derivations, RANDOM and ATTEST finish with their octets -/
def Obligations.IssueDeriveRandomAndAttest : Prop :=
  ∀ (s n : State) (h : Nat) (x : Hamper) (e : Bytes) (m rnd : Bytes) (u : State), m = readAll n x (srcRanges n x e) →
    (∀ k c w, Runs s h 0x38 x e → issueEarly e = none →
      (x.drawn = none → x.hashed = false → x.replay = none → keyStep s x (slotOf e) (pkJudge useIssue [privateType (schemeOf e)]) = .key k →
        issueLater s x e k = none → Reads s n h (readRanges s x e) → n.drawsStopped = false → issueRules n x e = none → capBad n x 0 1 = none →
        canServe n ((mainNeed n x e).getD []) = true → canServe n [digestPds] = true → c = nextIssue n x.domain →
        w = (if timeFmt e = 0 then 0 else wallOf n) →
        ∃ t, exec (.issue h .none) s = .next t
          ∧ hamperOf t h = some { x with entries := shareFirst (0, 1) x.entries, drawn := some (c, w) }
          ∧ nextIssue t x.domain = c + 1 ∧ (n.boot.mode ≠ .debug → c < (domOf t x.domain).issueMark) ∧ t.mem = n.mem ∧ t.rings = n.rings)
      ∧ (x.drawn = some (c, w) → x.hashed = false → x.engines ≠ [] → Reads s n h (readRanges s x e) →
        ∃ t, exec (.issue h .none) s = .next t ∧ Hashed n t h (splice e m c w))
      ∧ (x.drawn = some (c, w) → x.hashed = true → x.engines ≠ [] → Clean s → dstReady s (dstOf e) (dstLenOf e) = true →
        keyStep s x (slotOf e) (pkJudge useIssue [privateType (schemeOf e)]) = .key k →
        (if signDraw e = 0 then rnd = [] else drawFor x (signDraw e) s = some (rnd, u)) →
        ∀ g out, g = signBytes e false k rnd x.template → out = x.template ++ g →
        ∃ t, exec (.issue h .none) s = .next t
          ∧ (signGood e false k rnd x.template g = true → Finishes s t h (dstOf e) out { status := okOf x, len := out.length, issueNo := c }
              ∧ (timeFmt e ≠ 0 → domExists s x.domain = true → x.replay = none → (domOf t x.domain).wLast = w))
          ∧ (signGood e false k rnd x.template g = false → SelfCheckFails s t h x.engines)))
    ∧ (∀ op c k v, (op, c) ∈ ([(0x40, .deriveExport h .none), (0x41, .deriveTemp h .none)] : List (Nat × Instr)) → Runs s h op x e → x.engines ≠ [] →
      (if op = 0x40 then exportEarly e else tempEarly e) = none → keyStep s x (slotOf e) (deriveJudge e) = .key k → deriveLater s x e = none →
      (prfOf e = 0 → s.rng.stopped = false) → Reads (takeShare h x 3 1 s) n h (readRanges s x e) → dstReady n (dstOf e) (outLen e) = true →
      v = derived e (keyOctets k) m →
      ∃ t y, exec c s = .next t ∧ hamperOf t h = some y ∧ Counts t h x 3 1
        ∧ (op = 0x40 → bit (flags e) 8 = true → Finishes n t h (dstOf e) [] { status := okOf x, len := v.length, param := some (inlineParam v) })
        ∧ (op = 0x40 → bit (flags e) 8 = false → Finishes n t h (dstOf e) v { status := okOf x, len := v.length })
        ∧ (op = 0x41 → Finishes n t h (dstOf e) [] { status := okOf x } ∧ assocGet y.temps (byteAt (paramOf e) 3) = some (derivedTemp e k v)))
    ∧ (Runs s h 0x01 x e → randomBad s x e = none → Clean s → dstReady s (dstOf e) (countOf e) = true →
      drawFor x (countOf e) (if bit (flags e) 9 && rngReady s then { s with rng := reseeded s.rng } else s) = some (rnd, u) →
      ∃ t, exec (.random h .none) s = .next t
        ∧ (if bit (flags e) 8 then Finishes s t h (dstOf e) [] { status := okOf x, len := rnd.length, param := some (inlineParam rnd) }
           else Finishes s t h (dstOf e) rnd { status := okOf x, len := rnd.length }))
    ∧ (Runs s h 0x51 x e → Clean s →
      (x.hashed = false → attestBad s x e = none → (rootOf s).isSome = true → x.engines ≠ [] →
        ∃ t, exec (.attest h .none) s = .next t ∧ Hashed s t h (attestBody s x e))
      ∧ (x.hashed = true → x.engines ≠ [] → dstReady s (dstOf e) 304 = true →
        ∀ r g out, r = (rootOf s).getD [] → g = deviceSign r 3 x.template → out = x.template ++ g →
        ∃ t, exec (.attest h .none) s = .next t
          ∧ (deviceSigned r 3 x.template g = true → Finishes s t h (dstOf e) out { status := okOf x, len := out.length })
          ∧ (deviceSigned r 3 x.template g = false → SelfCheckFails s t h x.engines))
      ∧ (x.hashed = false → attestBad s x e = none → rootOf s = none → dstReady s (dstOf e) 208 = true →
        ∃ t, exec (.attest h .none) s = .next t
          ∧ Finishes s t h (dstOf e) (attestBody s x e) { status := stKeyMissing, detail := 0x40, len := 208 }))

/-- CLAIM, the two rotations, DEBUG_UNLOCK, RECOVERY_AUTH and RE_ROOT that pass every check change exactly the authority they name -/
def Obligations.AuthorityEnvelopesCommit : Prop :=
  ∀ (run : EnvelopeRun) (s n : State) (h : Nat) (x : Hamper) (e v p : Bytes), let th := n.thermos
    (Accepts operatorSpec run s n h x e v p →
      ∃ t, exec (.operatorRotate h run) s = .next t ∧ Answers n t h x e v stOk (keyBlock n)
        ∧ t.thermos = { th with opAlg := byteAt p 0, opAnchor := some (newAnchor p), opCounter := envCounter v, opLastEnv := envHash v, opLastReply := keyBlock n })
    ∧ (Accepts ownerSpec run s n h x e v p →
      ∃ t, exec (.domainOwnerRotate h run) s = .next t ∧ Answers n t h x e v stOk []
        ∧ domOf t (envDomain v) = { domOf n (envDomain v) with
            anchorAlg := byteAt p 0, anchor := newAnchor p, envCounter := envCounter v, lastEnv := envHash v, lastReply := [] }
        ∧ (∀ d, d ≠ envDomain v → domOf t d = domOf n d) ∧ t.boot = n.boot)
    ∧ (Accepts unlockSpec run s n h x e v p →
      ∃ t, exec (.debugUnlock h run) s = .next t ∧ Answers n t h x e v stOk []
        ∧ t.thermos = { th with debugPending := true, opCounter := envCounter v, opLastEnv := envHash v, opLastReply := [] }
        ∧ t.boot = if byteAt p 0 = 1 then { n.boot with resetPending := true, resetBy := some h } else n.boot)
    ∧ (Accepts authSpec run s n h x e v p →
      ∃ t, exec (.recoveryAuth h run) s = .next t ∧ Answers n t h x e v stOk []
        ∧ t.thermos = { th with
            quarantine := th.quarantine && !drsPresent n, opCounter := envCounter v, opLastEnv := envHash v, opLastReply := [] }
        ∧ t.boot = if th.quarantine && drsPresent n then { n.boot with recoveryAuth := true, resetPending := true, resetBy := some h }
            else { n.boot with recoveryAuth := true })
    ∧ (Accepts rootSpec run s n h x e v p →
      ∃ t, exec (.reRoot h run) s = .next t ∧ t.boot.resetPending = true ∧ t.keys = [] ∧ t.thermos.claimed = false ∧ t.thermos.opAnchor = none
        ∧ (∀ d, domExists t d = false) ∧ t.thermos.quarantine = false ∧ t.boot.resetBy = some h
        ∧ (scraps p = false → Answers n t h x e v stOk (keyBlock t) ∧ t.thermos.drs = (drawn n 64).take 32
            ∧ t.thermos.drsMask = (drawn n 64).drop 32 ∧ t.thermos.reRooted = true)
        ∧ (scraps p = true → Answers n t h x e v stOk [] ∧ t.thermos.drs = [] ∧ lifecycle t = .scrapped))
    ∧ (Accepts claimSpec run s n h x e v p → x.port < 4 → n.ports.length = 4 →
      (n.boot.mode = .recovery ∨ ∃ u, writeChange true true (emptyManifest 0 (claimDomain n p).epoch) n = .done u) →
      ∃ t, exec (.claim h run) s = .next t ∧ t.thermos.claimed = true ∧ t.thermos.opPort = x.port ∧ t.thermos.opAlg = envAlg v
        ∧ t.thermos.opAnchor = some (sha256 (envSigner v)) ∧ t.thermos.opCounter = envCounter v ∧ t.thermos.opLastEnv = envHash v
        ∧ t.thermos.release = (List.range 4).map (fun i => releaseField (leAt p (4 + 2 * i) 2))
        ∧ (domOf t 0).state = 1 ∧ (domOf t 0).slotFirst = leAt p 0 2 ∧ (domOf t 0).slotCount = leAt p 2 2
        ∧ (domOf t 0).issueMark = leAt p 0x10 8 ∧ (domOf t 0).extendMask = leAt p 0x18 4
        ∧ (n.boot.mode = .recovery → (∀ q < 4, q ≠ x.port → (portOf n q).bootstrap = false) →
            Answers n t h x e v stOk (keyBlock t) ∧ (portOf t x.port).bootstrap = false ∧ t.boot.resetPending = true))

/-- DOMAIN_CREATE, DOMAIN_DESTROY, QUOTA_SET, RATE_SCHEDULE, METER_CONFIG and TIME_SET that pass every check commit what they say -/
def Obligations.DomainAndTimeEnvelopesCommit : Prop :=
  ∀ (run : EnvelopeRun) (s n : State) (h : Nat) (x : Hamper) (e v p : Bytes), let d := leAt p 0 2
    let counted := fun (t : State) => t.thermos.opCounter = envCounter v ∧ t.thermos.opLastEnv = envHash v
    (∀ u ep, Accepts createSpec run s n h x e v p → ep = ((domOf n d).epoch + 1) % 2 ^ 32 → writeChange true true (emptyManifest d ep) n = .done u →
      sevOf n 12 3 ≤ 1 → ∃ t, exec (.domainCreate h run) s = .next t ∧ Answers n t h x e v stOk [] ∧ counted t ∧ assocGet t.issue d = none
        ∧ domOf t d = { freshDomain n ep (leAt p 2 2) (leAt p 4 2) (leAt p 0x10 8) (leAt p 0x18 4) with
            anchorAlg := byteAt p 6, nondecTime := bit (byteAt p 7) 0, envCounter := leAt p 8 8, anchor := sha256 (slice p 0x20 96)
            manifestDigest := (domOf u d).manifestDigest, manifestCell := (domOf u d).manifestCell
            manifestEntries := (domOf u d).manifestEntries })
    ∧ (Accepts destroySpec run s n h x e v p → assocWf {} n.rings = true → sevOf n 5 1 ≤ 1 → sevOf n 19 0 ≤ 1 → sevOf n 19 1 ≤ 1 →
      ∃ t, exec (.domainDestroy h run) s = .next t ∧ Answers n t h x e v stOk [] ∧ counted t
        ∧ domExists t d = false ∧ ((domOf n d).failed = false → (domOf t d).epoch = ((domOf n d).epoch + 1) % 2 ^ 32)
        ∧ (∀ c ∈ t.keys, c.2.domain ≠ d) ∧ (∀ r ∈ t.thermos.pool, r.domain ≠ d)
        ∧ ((domOf n d).failed = false → n.thermos.backlog.length < 256 →
            t.thermos.backlog = n.thermos.backlog ++ [closingRecord n d n.mono 128 false])
        ∧ (∀ r, (ringOf n r).domain = d → (ringOf n r).state = .active ∨ (ringOf n r).state = .paused → (ringOf t r).state = .faulted)
        ∧ (∀ r, (ringOf n r).domain ≠ d → ringOf t r = ringOf n r))
    ∧ (Accepts quotaSpec run s n h x e v p →
      ∃ t, exec (.quotaSet h run) s = .next t ∧ Answers n t h x e v stOk [] ∧ counted t
        ∧ domOf t d = { domOf n d with
            weight := byteAt p 2, dupShare := leAt p 4 2, caps := (List.range 5).map (fun i => leAt p (8 + 4 * i) 4) }
        ∧ (∀ c, c ≠ d → domOf t c = domOf n c) ∧ t.dups = fitShare d (leAt p 4 2) n.dups)
    ∧ (Accepts rateSpec run s n h x e v p →
      ∃ t, exec (.rateSchedule h run) s = .next t ∧ counted t
        ∧ (∀ r ∈ n.thermos.pool, r.domain ≠ d → r ∈ t.thermos.pool)
        ∧ (t.thermos.pool.filter (fun r => r.domain == d)).map (fun r => (r.cls, r.whenTicks)) = pendingRates p
        ∧ (∀ c, immediateRate p = some c → (domOf t d).rateClass = c ∧ (domOf t d).startMono = n.mono)
        ∧ (immediateRate p = none → Answers n t h x e v stOk [] ∧ domOf t d = domOf n d))
    ∧ (Accepts meterSpec run s n h x e v p →
      ∃ t, exec (.meterConfig h run) s = .next t ∧ Answers n t h x e v stOk []
        ∧ t.thermos = { n.thermos with nextIntervalS := leAt p 0 4, opCounter := envCounter v, opLastEnv := envHash v })
    ∧ (Accepts timeSpec run s n h x e v p → sevOf n 19 4 ≤ 1 →
      ∃ t, exec (.timeSet h run) s = .next t ∧ Answers n t h x e v stOk [] ∧ counted t
        ∧ t.thermos.offset = (leAt p 0 8 : Int) - (n.mono : Int) ∧ t.thermos.wallSet = true ∧ t.thermos.lastStepMono = some n.mono ∧ t.mono = n.mono
        ∧ (∀ c, domExists n c = true → domOf t c = { domOf n c with timeSeen := true }))

/-- Key, grant and layout envelopes that pass every check change the archive, the slots, the grants and the layout as they say -/
def Obligations.KeyAndDeviceEnvelopesCommit : Prop :=
  (∀ (c : ArcChange) (s u : State), writeChange true true c s = .done u → c.debug = false →
      ∃ cells cell m, m = manBytes c.domain c.epoch (settledEntries c cells) ∧ (domOf u c.domain).manifestDigest = sha256 m
        ∧ (domOf u c.domain).manifestCell = cell ∧ readCells u cell m.length = m)
  ∧ ∀ (run : EnvelopeRun) (s n u : State) (h : Nat) (x : Hamper) (e v p : Bytes) (d k : Nat), d = envTarget v → k = khHandle p → sevOf n 12 3 ≤ 1 →
    let a := afterDraw n 12
    (Accepts importSpec run s n h x e v p → Stored a u d k (khParent p) (headedKey n d p (khValue p)) (drawn n 12) [] →
      ∃ t, exec (.keyImport h run) s = .next t ∧ Answers u t h x e v stOk [] ∧ t.mp = u.mp ∧ t.keys = u.keys ∧ t.manifests = u.manifests)
    ∧ (∀ b y, Accepts generateSpec run s n h x e v p → b = afterDraw n (generateDraw p) →
      y = headedKey n d p (fitTo (64 * khSpan p) (generatedValue p (drawn n (generateDraw p)))) →
      (endorsementGood n v p y = true → Stored (afterDraw b 12) u d k (khParent p) y (drawn b 12) [] →
        ∃ t, exec (.keyGenerate h run) s = .next t ∧ Answers u t h x e v stOk (endorsement n v p y) ∧ t.mp = u.mp ∧ t.keys = u.keys
          ∧ t.manifests = u.manifests)
      ∧ (endorsementGood n v p y = false →
        ∃ t, exec (.keyGenerate h run) s = .next t ∧ SelfCheckFails b t h (onPk x).engines
          ∧ ((∀ j ∈ ([9, 10, 11] : List Nat), sevOf n j 1 ≤ 2) → (∀ src, sevOf n 16 src ≤ 3) → t.mp = n.mp)))
    ∧ (∀ gone, Accepts replaceSpec run s n h x e v p → gone = descendants (editEntries n d) k →
      (khType p = 0x20 ∨ khType p = 0x21 → ∃ ks, loadOutcome n d k = .ok ks) →
      Stored a u d k (khParent p) (headedKey n d p (khValue p)) (drawn n 12) gone →
      ∃ t, exec (.keyReplace h run) s = .next t ∧ Answers u t h x e v stOk [] ∧ t.mp = u.mp ∧ t.manifests = u.manifests
        ∧ t.keys = u.keys.filter (fun c => !(k :: gone).contains c.1))
    ∧ (∀ gone, Accepts destroyKeySpec run s n h x e v p → gone = descendants (editEntries n d) k → manifestTrouble n d = none →
      writeChange true true {
        domain := d, debug := onTestRoot n, epoch := (domOf n d).epoch
        entries := (orphan gone (editEntries n d)).filter (fun o => o.handle != k), blobs := [] } n = .done u →
      ∃ t, exec (.keyDestroy h run) s = .next t ∧ Answers u t h x e v stOk [] ∧ t.mp = u.mp ∧ t.manifests = u.manifests
        ∧ t.keys = u.keys.filter (fun c => !(k :: gone).contains c.1))
    ∧ (Accepts referenceSpec run s n h x e v p → Stored a u d k 0xFFFF {
        typ := 0x30, span := 1, cls := 0, debug := onTestRoot n, usage := 0, domain := d, size := 0, sealRef := 0, sealMeas := 0
        param := 0, value := fitTo 64 (slice p 8 48) } (drawn n 12) [] →
      ∃ t, exec (.referenceSet h run) s = .next t ∧ Answers u t h x e v stOk [] ∧ t.mp = u.mp ∧ t.keys = u.keys.filter (fun c => c.1 != k))
    ∧ (∀ c ks o, Accepts sealSpec run s n h x e v p → loadOutcome n d k = .ok (c :: ks) → liveEntry (editEntries n d) k = some o →
      Stored a u d k o.parent { c.2 with sealRef := leAt p 2 2, sealMeas := leAt p 4 4 } (drawn n 12) [] →
      ∃ t, exec (.sealPolicy h run) s = .next t ∧ Answers u t h x e v stOk [] ∧ t.mp = u.mp
        ∧ t.keys = u.keys.map (fun c => if c.1 = k then (k, { c.2 with sealRef := leAt p 2 2, sealMeas := leAt p 4 4 }) else c))
    ∧ (∀ w r, Accepts layoutSpec run s n h x e v p → layoutApply run h x v p n = .applied w r →
      ∃ t, exec (.flashLayout h run) s = .next t ∧ Answers n t h x e v stOk [] ∧ t.mp.layout = (layoutOf p).filter (fun g => g.kind != 3))
    ∧ (∀ w r, Accepts grantSpec run s n h x e v p → grantApply run h x v p n = .applied w r → n.ports.length = 4 →
      ∃ t, exec (.portGrant h run) s = .next t ∧ (portOf t (byteAt p 0)).grant = grantOf p
        ∧ t.thermos.opPort = (if bit (byteAt p 1) 1 then byteAt p 0 else n.thermos.opPort)
        ∧ t.thermos.release = n.thermos.release.set (byteAt p 0) (releaseField (leAt p 2 2))
        ∧ (∀ g ∈ (portOf n (byteAt p 0)).grant.pantry, g ∉ (grantOf p).pantry → ∀ i < 0x10000,
            assocGetD 0 t.mem.pantry (0x00400000 + g * 0x10000 + i) = 0)
        ∧ ((∀ c ∈ n.rings, c.2.port ≠ byteAt p 0) → Answers n t h x e v stOk []))

/-- An envelope is staged and verified in its turn; a repeat gets its reply again, a replayed or refused one changes nothing; a load fills the
slots -/
def Obligations.EnvelopeRepeatsReplaysAndLoads : Prop :=
  ∀ (run : EnvelopeRun) (s n : State) (h : Nat) (x : Hamper) (e v : Bytes),
    (∀ sp c, (sp, c) ∈ envelopeCommands run h →
      (∀ m, Runs s h 0x50 x e → x.staged = [] → envelopeBad s x e = none → laterEnvelope s x = false → Reads s m h [(srcOf e, srcLenOf e)] →
        v = readAt m x (srcOf e) (srcLenOf e) → envTyp v = sp.typ → run.claimEn = none →
        judgeEnvelope (stageEnvelope h v m) x run.fault v (srcLenOf e) = .waits →
        exec c s = .next (modHamper m h (fun y => { y with staged := v })))
      ∧ (Runs s h 0x50 x e → laterEnvelope s x = true → (x.staged ≠ [] ∨ envelopeBad s x e = none) → exec c s = .next s))
    ∧ (∀ sp c, (sp, c) ∈ envelopeCommands run h → Stages sp.typ run s n h x e v →
      (judgeEnvelope n x .none v (srcLenOf e) = .verified →
        ∃ t, exec c s = .next t ∧ hamperOf t h = some { x with engines := [], hashed := true } ∧ (∀ i, (pdOf t i).running ≠ some (.hamper h))
          ∧ (∀ j, j ≠ h → hamperOf t j = hamperOf s j) ∧ t.mem = s.mem ∧ t.thermos = s.thermos ∧ t.keys = s.keys ∧ t.mp = s.mp)
      ∧ (∀ r, r = lastReply n v → judgeEnvelope n x .none v (srcLenOf e) = .applied → r.length ≤ dstLenOf e → dstReady n (dstOf e) r.length = true →
        ∃ t, exec c s = .next t ∧ Answers n t h x e v stEnvApplied r ∧ t.thermos = n.thermos ∧ t.keys = n.keys ∧ t.mp = n.mp
          ∧ t.boot = n.boot ∧ t.ports = n.ports)
      ∧ (∀ d, judgeEnvelope n x .none v (srcLenOf e) = .replay d → sevOf n 20 1 ≤ 1 →
        ∃ t y, exec c s = .next t ∧ hamperOf t h = some y ∧ y.entries = finishFirst { status := stEnvReplay, detail := d } x.entries
          ∧ t.thermos = n.thermos ∧ t.keys = n.keys ∧ t.mp = n.mp ∧ t.boot = n.boot)
      ∧ (∀ d, judgeEnvelope n x .none v (srcLenOf e) = .reject d → sevOf n 20 0 ≤ 1 →
        ∃ t y, exec c s = .next t ∧ hamperOf t h = some y ∧ y.entries = finishFirst { status := stEnvRejected, detail := d } x.entries
          ∧ t.thermos = n.thermos ∧ t.keys = n.keys ∧ t.mp = n.mp ∧ t.boot = n.boot))
    ∧ (∀ d k ks, s.loads.contains (d, k) = true → (s.mp.flashOk = true → mpReady s = true) → rngReady s = true → slotKey s k = none →
      domActive s d = true → loadOutcome s d k = .ok ks →
      ∃ t, exec (.keyLoadDone d k) s = .next t ∧ t.keys = ks.foldl (fun m c => assocPut m c.1 c.2) s.keys
        ∧ t.mem = s.mem ∧ t.thermos = s.thermos ∧ t.hampers = s.hampers ∧ t.rings = s.rings)

/-- METER_POST delivers the oldest records or waits; a boundary closes every domain's record and opens the next; counters are saved -/
def Obligations.MeteringPostsClosesAndSaves : Prop :=
  ∀ s : State,
    (∀ h x e, Runs s h 0x60 x e → postBad s x e = none → laterPost s x = false → Clean s → x.replay = none →
      (∀ rs out, s.thermos.backlog ≠ [] → x.engines ≠ [] → dstReady s (dstOf e) (dstLenOf e) = true →
        rs = s.thermos.backlog.take (min (maxRecords e) (dstLenOf e / 224)) → out = rs.flatMap (deliveredBytes ((rootOf s).getD [])) →
        ∃ t, exec (.meterPost h .none) s = .next t
          ∧ (rs.all (recordGood ((rootOf s).getD [])) = true → t.thermos = s.thermos
            ∧ (∃ y, hamperOf t h = some y ∧ y.posted = x.posted ++ rs.map (·.seq))
            ∧ Finishes s t h (dstOf e) out { status := 0, len := out.length, param := some (postParam e rs.length
                (s.thermos.backlog.length - rs.length) ((rs.head?.map (·.seq)).getD 0)) })
          ∧ (rs.all (recordGood ((rootOf s).getD [])) = false → SelfCheckFails s t h x.engines))
      ∧ (s.thermos.backlog = [] → waitMs e = 0 →
        ∃ t, exec (.meterPost h .none) s = .next t ∧ Finishes s t h (dstOf e) [] { status := 0, param := some (postParam e 0 0 0) })
      ∧ (s.thermos.backlog = [] → waitMs e ≠ 0 → x.waiting = false →
        ∃ t, exec (.meterPost h .none) s = .next t ∧ hamperOf t h = some { x with waiting := true, waitSince := s.mono }
          ∧ (∀ j, j ≠ h → hamperOf t j = hamperOf s j) ∧ t.mem = s.mem ∧ t.thermos = s.thermos ∧ t.rings = s.rings)
      ∧ (∀ m, s.thermos.backlog = [] → x.waiting = true → m = x.waitSince + msTicks (waitMs e) → boundaryDue m s = false →
        ∃ t, exec (.meterPostTimeout h .none) s = .next t ∧ t.mono = max s.mono m ∧ Finishes s t h (dstOf e) [] { status := 0, param := some (postParam e 0 0 0) }))
    ∧ (s.boot.mode ≠ .operational → exec .meterBoundary s = .next s)
    ∧ (s.boot.mode = .operational → (meterDomains s).Nodup → s.thermos.backlog.length + (meterDomains s).length ≤ 256 → sevOf s 19 0 ≤ 1 →
      1 ≤ nextInterval s → s.mono ≤ s.thermos.boundaryMono → ∀ b, b = s.thermos.boundaryMono →
      ∃ t, exec .meterBoundary s = .next t ∧ t.mono = b
        ∧ t.thermos.backlog = s.thermos.backlog ++
            (meterDomains s).zipIdx.map (fun c => { closingRecord s c.1 b 0 true with seq := s.thermos.recSeq + c.2 })
        ∧ t.thermos.recSeq = s.thermos.recSeq + (meterDomains s).length
        ∧ (∀ d ∈ meterDomains s, domOf t d = { domOf s d with
              meters := opening (countersOf s d), rateClass := dueClass s d b, held := false, unclean := false, debugGap := false,
              startMono := b, startOffset := s.thermos.offset, inner := 0 }
            ∧ countersOf t d = opening (countersOf s d) ∧ dueAt t d b = [])
        ∧ (∀ d, d ∉ meterDomains s → domOf t d = domOf s d)
        ∧ t.thermos.intervalS = nextInterval s ∧ t.thermos.nextIntervalS = 0
        ∧ t.thermos.boundaryMono = (b / (nextInterval s * 32768) + 1) * (nextInterval s * 32768)
        ∧ t.rings = s.rings ∧ t.hampers = s.hampers ∧ t.mem = s.mem ∧ t.ports = s.ports ∧ t.power = s.power)
    ∧ (∀ d, (assocGet s.live d = none → exec (.meterCounterWrite d) s = .next s)
      ∧ (∀ l, assocGet s.live d = some l → domExists s d = true →
        ∃ t, exec (.meterCounterWrite d) s = .next t ∧ domOf t d = { domOf s d with meters := l } ∧ assocGet t.live d = none
          ∧ (∀ j, j ≠ d → domOf t j = domOf s j ∧ assocGet t.live j = assocGet s.live j)
          ∧ t.rings = s.rings ∧ t.mem = s.mem ∧ t.power = s.power ∧ t.mono = s.mono))

/-- A full reset of any cause clears the device, keeps flash, Thermos and clock, and starts BOOT; without a cause nothing changes -/
def Obligations.ResetsClearWhatTheyClear : Prop :=
  ∀ (s : State) (b : BootEnv),
    (∃ u, exec .powerOnReset s = .next u ∧ u.boot = {} ∧ u.rings = [] ∧ u.leaf = [] ∧ u.hampers = [] ∧ u.keys = []
      ∧ u.ports = List.replicate 4 portReset ∧ u.mem.pantry = [] ∧ u.mem.larder = [] ∧ u.board.porHigh = false ∧ u.board.pllLocked = false
      ∧ u.thermos = s.thermos ∧ u.mono = s.mono ∧ FlashStands s u ∧ u.pending = s.pending
      ∧ (∀ k < 21, blockOf u k = if k = 14 then blockOf s 14 else healthReset k)
      ∧ (∃ t, exec (.porRelease b) u = .next t ∧ t.board.porHigh = true ∧ Restarted 0 b s t)
      ∧ (∀ c : BootEnv, c.pllLocks = false → c.recovN = b.recovN → c.testMode = b.testMode →
        ∃ v t, exec (.porRelease c) u = .next v ∧ v.board.pllLocked = false ∧ exec (.pllLockRetry b) v = .next t ∧ Restarted 0 b s t))
    ∧ (s.board.porHigh = true → exec (.porRelease b) s = .next s)
    ∧ ((s.boot.mode ≠ .boot ∨ s.board.porHigh = false ∨ s.board.pllLocked = true) → exec (.pllLockRetry b) s = .next s)
    ∧ (s.boot.mode ≠ .boot → s.boot.fatal = true → ∃ t, exec (.deviceFullReset b) s = .next t ∧ Restarted 2 b s t)
    ∧ (s.boot.mode ≠ .boot → s.boot.fatal = false → s.boot.resetPending = true → causeWritten s = true →
        ∃ t, exec (.deviceFullReset b) s = .next t ∧ Restarted 1 b (checkpoint s) t)
    ∧ ((s.boot.mode = .boot ∨ (s.boot.fatal = false ∧ (s.boot.resetPending = false ∨ ∃ h x, s.boot.resetBy = some h ∧ hamperOf s h = some x))) →
        exec (.deviceFullReset b) s = .next s)
    ∧ (s.boot.mode ≠ .boot → ∃ t, exec (.seqWdtExpire b) s = .next t ∧ Restarted 2 b (checkpoint s) t)
    ∧ (s.boot.mode = .boot → exec (.seqWdtExpire b) s = .next s)
    ∧ (∀ u, u = { s with
          thermos := { valid := false, drsOk := false, release := releaseDefault, boundaryMono := 3600 * 32768, quarantine := true
                       epochFloor := 65536, tableLost := true }
          journal := none, mono := 0, health := s.health.set 14 (healthReset 14) } →
        ∃ t, exec (.backupNodePowerUp b) s = .next t ∧ t.board.porHigh = s.board.porHigh
          ∧ (s.board.porHigh = true → Restarted 0 b u t)
          ∧ (s.board.porHigh = false → t.boot = {} ∧ t.thermos = u.thermos ∧ t.mono = 0 ∧ FlashStands s t ∧ t.rings = []
              ∧ t.hampers = [] ∧ t.keys = []))

/-- BOOT_COMPLETE enters the mode R116 names, releases each host by its policy and opens the bootstrap views; HRST_RELEASE frees a host -/
def Obligations.BootEndsInTheModeItsConditionsName : Prop :=
  ∀ s : State, Shape s →
    ((s.boot.mode ≠ .boot ∨ s.boot.answering = false) → exec .bootComplete s = .next s)
    ∧ (s.boot.mode = .boot → s.boot.answering = true → (∀ k ∈ ([4, 8, 11, 12, 19] : List Nat), ∀ src, sevOf s k src ≤ 3) →
      ∃ t, exec .bootComplete s = .next t
        ∧ t.boot.mode = (if s.board.scrapFuse = true then .quarantine
            else if s.board.openFuseIntact = true ∧ s.board.testSampled = true then .factory
            else if s.board.recovSampled = false then .recovery
            else if s.thermos.quarantine = true ∨ drsPresent s = false ∨ s.boot.aonFailed = true ∨ s.boot.entropyFailed = true then .quarantine
            else if s.thermos.debugPending = true ∧ lifecycle s = .claimed then .debug else .operational)
        ∧ t.boot.testRoot = decide (t.boot.mode = .debug ∨ t.boot.mode = .factory) ∧ t.boot.aliveStopped = decide (t.boot.mode = .quarantine)
        ∧ (∀ p < 4, ∀ r, r = (if lifecycle s = .claimed then s.thermos.release else releaseDefault).getD p (0, false, false) →
          let free := decide (t.boot.mode = .factory) || (!r.2.1 && (decide (t.boot.mode ≠ .recovery) || r.2.2))
          let now := decide (t.boot.mode = .factory) || decide (r.1 = 0)
          (portOf t p).hrstReleased = (free && now) ∧ (portOf t p).hrstPending = (free && !now))
        ∧ (t.boot.mode = .recovery → t.mp.rstReleased = true ∧ ringOf t 0 = bootRing 0 ∧ (portOf t 0).grant = bootGrant 0
          ∧ (portOf t 0).bootstrap = true ∧ ∀ q, q ≠ 0 → ringOf t q = ringOf s q)
        ∧ (∀ i < 8, bankAllocated t i = true → ∀ d, d = pdOf s (36 + i) → d.st = .off → d.closed = false → d.retired = false →
            d.policy ≠ .forceOff → (pdOf t (36 + i)).st = .waking)
        ∧ (lifecycle s ≠ .claimed → s.thermos.domains = [] →
          (t.boot.mode = .operational → (∀ p < 4, ringOf t p = bootRing p ∧ (portOf t p).grant = bootGrant p ∧ (portOf t p).bootstrap = true)
            ∧ ∀ q, 4 ≤ q → ringOf t q = ringOf s q)
          ∧ (t.boot.mode = .factory ∨ t.boot.mode = .quarantine → t.rings = s.rings)))
    ∧ (∀ p : Port, exec (.hrstRelease p) s = .next (if (portOf s p).hrstPending then
        modPort s p (fun o => { o with hrstReleased := true, hrstPending := false }) else s))

/-- A lost host supply silences the ports and its return warm-resets them; a lost memory supply stops the port until its check -/
def Obligations.SuppliesFallAndReturn : Prop :=
  ∀ s : State, Shape s →
    (s.board.vddioHpOk = true → s.board.porHigh = true → (∀ p < 4, sevOf s p 4 ≤ 1) →
      ∃ t, exec .vddioHpLoss s = .next t ∧ t.board = { s.board with vddioHpOk := false } ∧ WorkStands s t
        ∧ ∀ p < 4, portOf t p = { portOf s p with response := .silent } ∧ hrstHigh t p = false ∧ portDead t = true ∧ Raised t p 4)
    ∧ (s.board.vddioHpOk = false → exec .vddioHpLoss s = .next s)
    ∧ (s.board.porHigh = false →
      exec .vddioHpLoss s = .next { s with board := { s.board with vddioHpOk := false } }
        ∧ exec .vddioHpReturn s = .next { s with board := { s.board with vddioHpOk := true } }
        ∧ exec .vddioMpLoss s = .next { s with board := { s.board with vddioMpOk := false } })
    ∧ (s.board.vddioHpOk = false → s.board.porHigh = true →
      ∃ t, exec .vddioHpReturn s = .next t ∧ t.board = { s.board with vddioHpOk := true } ∧ WorkStands s t ∧ t.health = s.health
        ∧ ∀ p < 4, portOf t p = { portOf s p with
            lanes := 0, timing := 0x00400108, crcEn := false, lwSeq := 0, lwOpcode := 0, lwOutcome := 0, scratch := 0, arenaSel := 0,
            ringArg0 := 0, ringArg1 := 0, ringArg2 := 0, cmdSeq := 0, cmdLast := 0, cmdResult := 0, queryId := 0, queryState := 0,
            warmCause := 2, linkEvt := false, fetchDone := false, fetch := (portOf s p).fetch.map (fun f => { f with announce := false }) })
    ∧ (s.board.vddioHpOk = true → exec .vddioHpReturn s = .next s)
    ∧ (s.board.vddioMpOk = true → s.board.porHigh = true → sevOf s 4 6 ≤ 1 →
      ∃ t, exec .vddioMpLoss s = .next t ∧ t.board = { s.board with vddioMpOk := false } ∧ t.mp.supplyLost = true ∧ mpReady t = false
        ∧ Raised t 4 6 ∧ (mastering s = true → t.mp.current = none) ∧ (mastering s = true → (runningOp s).isSome = true → t.mp.interrupted = true)
        ∧ t.mp.flash = s.mp.flash ∧ t.mp.cache = s.mp.cache ∧ WorkStands s t)
    ∧ (s.board.vddioMpOk = false → ∀ w r, exec .vddioMpLoss s = .next s
      ∧ (s.mp.supplyLost = false → ∀ q, exec (.vddioMpReturn q w r) s = .next { s with board := { s.board with vddioMpOk := true } })
      ∧ ∀ u, s.mp.supplyLost = true → u = { s with board := { s.board with vddioMpOk := true }, mp := { s.mp with supplyLost := false } } →
        ((busFree u = false ∨ s.mp.flashOk = false) → exec (.vddioMpReturn true w r) s = .next { u with mp := { u.mp with statusDue := s.mp.flashOk } }
          ∧ exec (.vddioMpReturn false w r) s = .next { u with mp := { u.mp with statusDue := s.mp.flashOk } })
        ∧ (busFree u = true → s.mp.flashOk = true →
          (∃ t, exec (.vddioMpReturn true w r) s = .next t ∧ t.board = u.board ∧ t.mp.statusDue = false ∧ t.mp.supplyLost = false
            ∧ t.mp.flashOk = true ∧ t.mp.flash = s.mp.flash ∧ t.health = s.health ∧ WorkStands s t)
          ∧ (sevOf s 4 4 ≤ 1 → ∃ t, exec (.vddioMpReturn false w false) s = .next t ∧ t.board = u.board ∧ t.mp.flashOk = false ∧ Raised t 4 4
            ∧ t.mp.flash = s.mp.flash ∧ WorkStands s t)))
    ∧ (s.board.vddioMpOk = true → ∀ e w r, exec (.vddioMpReturn e w r) s = .next s)
    ∧ (∀ mv, exec (.backupSwitchover mv) s = .next { s with board := { s.board with
        onVbat := if 2900 < mv then false else if mv < 2800 then true else s.board.onVbat } })
    ∧ (∀ mv, ((s.board.onVbat = true ∨ 2400 ≤ mv) → exec (.lowBatteryCheck mv) s = .next s)
      ∧ (s.board.onVbat = false → mv < 2400 → sevOf s 14 7 ≤ 1 →
        ∃ t, exec (.lowBatteryCheck mv) s = .next t ∧ Raised t 14 7 ∧ WorkStands s t ∧ t.ports = s.ports ∧ t.board = s.board))

/-- An alarm strikes what every engine runs and fences it; a tripped armed sensor erases roots, domains and keys and quarantines -/
def Obligations.AlarmsEraseEnginesAndTamperErasesRoots : Prop :=
  ∀ s : State, Shape s →
    (Clean s → (∀ k ∈ ([9, 10, 11, 17, 18] : List Nat), ∀ src, sevOf s k src ≤ 3) → sevOf s 16 2 ≤ 3 → sevOf s 16 3 ≤ 3 →
      (∀ c src, (c, src) ∈ [(Instr.clockGlitch 0, 0), (.clockGlitch 1, 0), (.clockGlitch 2, 0), (.supplyGlitch 0, 1), (.supplyGlitch 1, 1)] →
        s.board.porHigh = true →
        ∃ t, exec c s = .next t ∧ Raised t 17 src ∧ t.board = { s.board with glitches := recentGlitches s ++ [s.mono] } ∧ t.boot = s.boot
          ∧ t.rings = s.rings ∧ t.keys = s.keys
          ∧ ∀ i < 36, Struck s t i 0x52 0 ∧ ((pdOf s i).running.isSome = true → (pdOf t i).fenced = true ∨ (pdOf t i).retired = true))
      ∧ (∀ e : Fin 36,
        ((pdOf s e).running.isSome = true → ∃ t, exec (.parityFault e) s = .next t ∧ Raised t (engineBlock e).1 0 ∧ t.boot = s.boot
          ∧ t.rings = s.rings ∧ Struck s t e 0x52 0 ∧ ((pdOf t e).fenced = true ∨ (pdOf t e).retired = true))
        ∧ ((pdOf s e).running = none → (pdOf s e).fences < 3 → ∃ t, exec (.parityFault e) s = .next t ∧ Raised t (engineBlock e).1 0
          ∧ WorkStands s t ∧ t.boot = s.boot))
      ∧ (∀ (e : Fin 8) c st dt, (c, st, dt) ∈ [(ClearCause.alarm, 0x52, 0), (.busError, stEngineFault, 3), (.poison, stPoison, 1)] →
        ((pdOf s (16 + e)).running = none → exec (.engineStateClear e c) s = .next s)
        ∧ ((pdOf s (16 + e)).running.isSome = true → ∃ t, exec (.engineStateClear e c) s = .next t ∧ Struck s t (16 + e) st dt
          ∧ (pdOf t (16 + e)).suspended = none ∧ t.boot = s.boot ∧ t.rings = s.rings
          ∧ (c ≠ .poison → (pdOf t (16 + e)).fenced = true ∨ (pdOf t (16 + e)).retired = true))))
    ∧ (s.board.porHigh = false → ∀ d e, exec (.clockGlitch d) s = .next s ∧ exec (.supplyGlitch e) s = .next s)
    ∧ (∀ pin : Fin 4, ∀ u, u = { s with board := { s.board with meshIntact := s.board.meshIntact.set (pin.val / 2) false } } →
      (bit s.thermos.tamperArm (pin.val / 2) = false → exec (.meshTrip pin) s = .next u)
      ∧ (bit s.thermos.tamperArm (pin.val / 2) = true → ∃ t, exec (.meshTrip pin) s = .next t ∧ t.board.meshIntact = u.board.meshIntact
          ∧ Tampered 0 s t))
    ∧ (∀ k : Fin 2, ∀ u, u = { s with board := { s.board with lidAsserted := s.board.lidAsserted.set k.val true } } →
      (bit s.thermos.tamperArm (2 + k.val) = false → exec (.lidTrip k) s = .next u)
      ∧ (bit s.thermos.tamperArm (2 + k.val) = true → ∃ t, exec (.lidTrip k) s = .next t ∧ t.board.lidAsserted = u.board.lidAsserted
          ∧ Tampered 1 s t))
    ∧ (∃ t, exec .lightTrip s = .next t ∧ Tampered 2 s t)
    ∧ (∀ high, ((high = true ∧ s.board.porHigh = true) → exec (.tempTamperTrip high) s = .next s)
      ∧ ((high = false ∨ s.board.porHigh = false) → ∃ t, exec (.tempTamperTrip high) s = .next t ∧ Tampered 3 s t))
    ∧ (∀ mv, ((s.board.onVbat = false ∨ 2050 ≤ mv) → exec (.vbatUvTrip mv) s = .next s)
      ∧ (s.board.onVbat = true → mv < 2050 → ∃ t, exec (.vbatUvTrip mv) s = .next t ∧ Tampered 4 s t))
    ∧ (∀ stopped, ((s.board.porHigh = false ∨ (stopped = false ∧ (recentGlitches s).length < 4)) → exec (.glitchTamperTrip stopped) s = .next s)
      ∧ (s.board.porHigh = true → (stopped = true ∨ 4 ≤ (recentGlitches s).length) →
        ∃ t, exec (.glitchTamperTrip stopped) s = .next t ∧ Tampered 5 s t))

/-- The memory port's next transaction, status poll, time-out and backfill do exactly the step that R393, R398 and R253 name -/
def Obligations.MemoryPortFinishesItsWork : Prop :=
  ∀ s : State, Shape s →
    (onBus s = none → exec .mpTransactionDone s = .next s)
    ∧ (onBus s ≠ none → ∃ t, exec .mpTransactionDone s = .next t ∧ t.mp.slewApplied = bits s.board.slew 19 16
        ∧ t.mp.current = nextTransaction t)
    ∧ (onBus s = some .drain → ∃ t, exec .mpTransactionDone s = .next t ∧ t.mem = { s.mem with buffer := bufferDrain s.mem.buffer }
        ∧ t.mp = { s.mp with current := t.mp.current, slewApplied := t.mp.slewApplied } ∧ t.ports = s.ports ∧ t.hampers = s.hampers
        ∧ t.rings = s.rings ∧ t.thermos = s.thermos ∧ t.health = s.health)
    ∧ (∀ u who, onBus s = some (.read (.line u who)) → s.mp.flashOk = true → waysFor s false ≠ [] → sevOf s 18 0 ≤ 1 →
      ∃ t l, exec .mpTransactionDone s = .next t ∧ cachedLine t u = some l ∧ t.mp.flash = s.mp.flash ∧ WorkStands s t
        ∧ (cachedLine s u = none → l.data = flashRead s u 256) ∧ (∀ m, cachedLine s u = some m → l = m)
        ∧ ((∀ p, who ≠ .fetch p) → t.mp.work = s.mp.work.filter (· != .line u who) ∧ t.ports = s.ports)
        ∧ (∀ p f, who = .fetch p → (portOf s p).fetch = some f →
          if f.abandoned = true ∨ f.stop ≤ u + 256 then
            (portOf t p).fetch = none ∧ (portOf t p).fetchDone = ((portOf s p).fetchDone || (f.announce && !f.abandoned))
          else (portOf t p).fetch = some { f with next := u + 256 } ∧ .line (u + 256) (.fetch p) ∈ t.mp.work)
        ∧ (∀ p f, who = .fetch p → (portOf s p).fetch = some f → ∀ w < 8, ∀ n, n = s.snoops.getD w {} → n.state = 1 →
          max u f.first < n.base + n.length → n.base < min (u + 256) f.stop → max u f.first < min (u + 256) f.stop →
          (t.snoops.getD w {}).state ≠ 1))
    ∧ (∀ p o rest, onBus s = some .flash → nextTransaction s = some .flash → winOps s = (p, o) :: rest → (planOp s o).steps ≠ [] →
      ∃ t, exec .mpTransactionDone s = .next t ∧ runningOp t = some (p, planOp s o)
        ∧ t.mp = { s.mp with current := t.mp.current, slewApplied := t.mp.slewApplied } ∧ WorkStands s t)
    ∧ (busFree s = true → s.mp.flashOk = true → ∀ p o, runningOp s = some (p, o) →
      (∀ v r, ∃ t, exec (.flashStatusPoll true true v r) s = .next t
        ∧ t = { s with mp := { s.mp with statusDue := false, current := t.mp.current } })
      ∧ (∀ r st rest, o.steps = st :: rest → ∀ w, w = stepResult s o st →
        ∃ t, exec (.flashStatusPoll true false true r) s = .next t ∧ flashRead t w.1 w.2.length = w.2
          ∧ (∀ a, (a < w.1 ∨ w.1 + w.2.length ≤ a) → assocGetD 0xFF t.mp.flash a = assocGetD 0xFF s.mp.flash a)
          ∧ (rest ≠ [] → runningOp t = some (p, { o with steps := rest, repeated := false }))
          ∧ (rest = [] → (∀ y ∈ (portOf t p).winQueue, y.seq ≠ o.seq)
              ∧ (o.kind ≠ .winWr → (portOf t p).wip = false ∧ (portOf t p).wel = false))
          ∧ WorkStands s t ∧ t.health = s.health)
      ∧ (sevOf s 4 2 ≤ 1 → ∀ w, w = stepResult s o (o.steps.head?.getD none) →
        ∀ c, (c = .flashOpTimeout ∨ (∃ r, c = .flashStatusPoll true false false r ∧ (s.mp.interrupted = false ∨ o.repeated = true))) →
        ∃ t, exec c s = .next t ∧ Raised t 4 2 ∧ t.mp.wfAddr = w.1 / 256 * 256 ∧ t.mp.wfPort = p ∧ t.mp.wfSource = (if o.kind = .winWr then 0 else 1)
          ∧ (∀ y ∈ (portOf t p).winQueue, y.seq ≠ o.seq) ∧ (o.kind ≠ .winWr → (portOf t p).err = true ∧ (portOf t p).wip = false)
          ∧ (∀ a, (a < w.1 ∨ w.1 + w.2.length ≤ a) → assocGetD 0xFF t.mp.flash a = assocGetD 0xFF s.mp.flash a) ∧ WorkStands s t))
    ∧ (busFree s = true → s.mp.flashOk = true → s.mp.statusDue = true → sevOf s 4 4 ≤ 1 → ∀ w v,
      ∃ t, exec (.flashStatusPoll false w v false) s = .next t ∧ t.mp.flashOk = false ∧ Raised t 4 4 ∧ t.mp.flash = s.mp.flash ∧ WorkStands s t)
    ∧ ((busFree s = false ∨ s.mp.flashOk = false ∨ (runningOp s = none ∧ s.mp.statusDue = false)) →
      ∀ e w v r, exec (.flashStatusPoll e w v r) s = .next s)
    ∧ (runningOp s = none → exec .flashOpTimeout s = .next s)
    ∧ (tongsEngine s = none →
      ((backfillOpen s = false ∨ s.snoops.zipIdx.find? (fun c => c.1.state == 2) = none ∨ tongsGrant s = none) → exec .tongsBackfill s = .next s)
      ∧ (∀ n w i, backfillOpen s = true → s.snoops.zipIdx.find? (fun c => c.1.state == 2) = some (n, w) → tongsGrant s = some i →
        ∃ t, exec .tongsBackfill s = .next t ∧ pdOf t i = { pdOf s i with running := some (.tongs w) } ∧ (∀ j, j ≠ i → pdOf t j = pdOf s j)
          ∧ t.snoops = s.snoops.set w { n with chunk := n.fed.length + 4096 } ∧ WorkStands s t ∧ t.mp = s.mp
          ∧ (t.dispatchers.getD 2 {}).grants = (s.dispatchers.getD 2 {}).grants + 1))
    ∧ (∀ i w n, tongsEngine s = some (i, w) → n = s.snoops.getD w {} →
      (chunkOver n = true → exec .tongsBackfill s = .next (modPd s i (fun d => { d with running := d.suspended, suspended := none })))
      ∧ (chunkOver n = false → ∀ f k, f = n.base + n.fed.length → k = min 256 (n.length - n.fed.length) →
        ((backfillOpen s = false ∨ writeCovers s f k = true) → exec .tongsBackfill s = .next s)
        ∧ (backfillOpen s = true → writeCovers s f k = false → w < 8 → n.fed.length < n.length → sevOf s 18 0 ≤ 1 → ∀ m, m = n.fed ++ flashRead s f k →
          ∃ t, exec .tongsBackfill s = .next t ∧ (t.snoops.getD w {}).fed = m ∧ t.mp = s.mp ∧ WorkStands s t
            ∧ (pdOf t i).running = (if m.length < n.length ∧ m.length < n.chunk then some (.tongs w) else (pdOf s i).suspended)
            ∧ (n.length ≤ m.length → (t.snoops.getD w {}).state = 3 ∧ Raised t 18 0
                ∧ (t.meas.getD w measReset).value = sha384 ((s.meas.getD w measReset).value ++ sha384 m))
            ∧ (m.length < n.length → (t.snoops.getD w {}).state = 2 ∧ t.meas.getD w measReset = s.meas.getD w measReset)
            ∧ (∀ v < 8, v ≠ w → ∀ o, o = s.snoops.getD v {} →
              if o.state = 2 ∧ f ≤ o.base + o.fed.length ∧ o.base + o.fed.length < f + k then
                (t.snoops.getD v {}).fed = o.fed ++ ((flashRead s f k).drop (o.base + o.fed.length - f)).take (o.length - o.fed.length)
              else t.snoops.getD v {} = o))))

/-- An accepted fall of MP_XSEL_N takes the bus and taints measured windows; its rise and back-off give it back through a check -/
def Obligations.ExternalMasterHoldsTheBus : Prop :=
  ∀ s : State, Shape s →
    (s.board.xselN = false → exec .xselFall s = .next s)
    ∧ (s.board.xselN = true → s.boot.mode = .recovery ∨ s.board.porHigh = false →
      exec .xselFall s = .next { s with board := { s.board with xselN := false } })
    ∧ (s.board.xselN = true → s.boot.mode ≠ .recovery → s.board.porHigh = true → sevOf s 4 1 ≤ 1 → sevOf s 18 1 ≤ 1 →
      ∃ t, exec .xselFall s = .next t ∧ t.board = { s.board with xselN := false } ∧ t.mp.holdActive = true ∧ mpReady t = false
        ∧ t.mp.flash = s.mp.flash ∧ t.mp.cache = s.mp.cache ∧ WorkStands s t
        ∧ t.mp.holdSince = s.mono
        ∧ (mastering s = true → t.mp.current = none ∧ t.mp.collisions = min 0xFFFF (s.mp.collisions + 1) ∧ Raised t 4 1
            ∧ ((runningOp s).isSome = true → t.mp.interrupted = true))
        ∧ (mastering s = false → t.mp = { s.mp with holdActive := true, holdSince := s.mono } ∧ t.ports = s.ports)
        ∧ ∀ w < 8, ∀ n m, n = s.snoops.getD w {} → m = s.meas.getD w measReset →
          (n.state < 2 → t.snoops.getD w {} = n ∧ t.meas.getD w measReset = m)
          ∧ (2 ≤ n.state → t.snoops.getD w {} = { n with taints := min 255 (n.taints + 1) } ∧ Raised t 18 1
            ∧ (m.tainted = true → t.meas.getD w measReset = m)
            ∧ (m.tainted = false → t.meas.getD w measReset = {
                value := sha384 (m.value ++ (octets [0x54, 0x41, 0x49, 0x4E, 0x54, 0, 0, 0] ++ toLe 8 s.mono)),
                extends_ := min 0xFFFF (m.extends_ + 1), tainted := true })))
    ∧ (∀ us foreign, (s.board.xselN = true → exec (.xselRise us foreign) s = .next s)
      ∧ (s.board.xselN = false → ∀ m, m = (if s.mp.holdActive then s.mp.holdSince + us * 32768 / 1000000 else 0) → boundaryDue m s = false →
        ∃ t, exec (.xselRise us foreign) s = .next t ∧ t.board = { s.board with xselN := true } ∧ t.mono = max s.mono m
          ∧ WorkStands { s with mono := t.mono } t ∧ t.health = s.health
          ∧ (∀ a < 2 ^ 28, assocGetD 0xFF t.mp.flash a =
              ((foreign.reverse.find? (fun c => c.1 == a)).map (·.2)).getD (assocGetD 0xFF s.mp.flash a))
          ∧ (s.mp.holdActive = true → t.mp.holdActive = false ∧ t.mp.backoffPending = true
              ∧ t.mp.holds = recentHolds { s with mono := t.mono } ++ [(t.mono, us)]
              ∧ t.mp.longestUs = max s.mp.longestUs (min 0xFFFF us) ∧ t.mp.cache = if s.mp.xselInvalidate then [] else s.mp.cache)
          ∧ (s.mp.holdActive = false → t.mp = { s.mp with flash := t.mp.flash })))
    ∧ (∀ w r, (s.mp.backoffPending = false ∨ s.mp.holdActive = true) → ∀ e, exec (.xselBackoffEnd e w r) s = .next s)
    ∧ (∀ w r, s.mp.backoffPending = true → s.mp.holdActive = false → ∀ u, u = { s with mp := { s.mp with backoffPending := false } } →
      ((busFree u = false ∨ s.mp.flashOk = false) → ∀ e, exec (.xselBackoffEnd e w r) s = .next { u with mp := { u.mp with statusDue := s.mp.flashOk } })
      ∧ (busFree u = true → s.mp.flashOk = true →
        (∃ t, exec (.xselBackoffEnd true w r) s = .next t ∧ t.mp.backoffPending = false ∧ t.mp.statusDue = false ∧ t.mp.flashOk = true
          ∧ t.mp.flash = s.mp.flash ∧ WorkStands s t ∧ t.health = s.health)
        ∧ (sevOf s 4 4 ≤ 1 → ∃ t, exec (.xselBackoffEnd false w false) s = .next t ∧ t.mp.flashOk = false ∧ Raised t 4 4
          ∧ t.mp.flash = s.mp.flash ∧ WorkStands s t)))
    ∧ (s.mp.holdActive = false → exec (.holdLimit true) s = .next s)
    ∧ (s.mp.holdActive = true → sevOf s 4 3 ≤ 1 → ∀ m, m = s.mp.holdSince + 328 → boundaryDue m s = false →
      ∃ t, exec (.holdLimit true) s = .next t ∧ Raised t 4 3 ∧ t.mono = max s.mono m ∧ t.mp = s.mp ∧ t.ports = s.ports
        ∧ WorkStands { s with mono := t.mono } t)
    ∧ (holdTotal s ≤ 50000 → exec (.holdLimit false) s = .next s)
    ∧ (50000 < holdTotal s → sevOf s 4 3 ≤ 1 →
      ∃ t, exec (.holdLimit false) s = .next t ∧ Raised t 4 3 ∧ t.mp = s.mp ∧ t.ports = s.ports ∧ WorkStands s t)

/-- Scrub passes, write-backs and row remaps mend memory; the Whisk re-masks; the entropy source fails, restarts and reseeds -/
def Obligations.ScrubWhiskAndEntropy : Prop :=
  ∀ s : State, Shape s →
    (Clean s → ∀ d, d = { s.mem with
          scrubPasses := (s.mem.scrubPasses + 1) % 0x10000, scrubProgress := 100, scrubMark := s.mono
          missed := (List.range 8).foldl (fun l b => if (pdOf s (36 + b)).st = .on then l.filter (· != b) else insertNat l b) s.mem.missed } →
      exec (.scrubPass []) s = .next { s with mem := d }
      ∧ (∀ a, a < 0x01000000 → (pdOf s (36 + bankOf a)).st = .on →
        (s.mem.writeback.contains (a / 8 * 8) = false → wordPoisoned s (a / 8 * 8) = false → sevOf s 7 0 ≤ 1 →
          ∃ t, exec (.scrubPass [(a, 1)]) s = .next t ∧ Raised t 7 0 ∧ t.mem = { d with
              ceCount := min 0xFFFFFFFF (s.mem.ceCount + 1), writeback := insertNat s.mem.writeback (a / 8 * 8), latent := [(a / 8 * 8, 1)]
              rowCounts := assocPut s.mem.rowCounts (a / 8 * 8 / 2048) (assocGetD 0 s.mem.rowCounts (a / 8 * 8 / 2048) + 1) }
            ∧ t.rings = s.rings ∧ t.hampers = s.hampers ∧ t.thermos = s.thermos)
        ∧ (0x00400000 ≤ a → sevOf s 7 3 ≤ 1 →
          ∃ t, exec (.scrubPass [(a, 2)]) s = .next t ∧ Raised t 7 3 ∧ a / 64 * 64 ∈ t.mem.poison
            ∧ (∀ i, assocGetD 0 t.mem.pantry i = if a / 64 * 64 ≤ i ∧ i < a / 64 * 64 + 64 then 0 else assocGetD 0 s.mem.pantry i)
            ∧ t.mem.ueAddr = a / 64 * 64 ∧ t.mem.ueKind = 1 ∧ t.mem.ueCount = min 0xFFFF (s.mem.ueCount + 1)
            ∧ t.rings = s.rings ∧ t.hampers = s.hampers ∧ t.thermos = s.thermos)))
    ∧ (sevOf s 7 6 ≤ 1 → ∃ t, exec .scrubLate s = .next t ∧ Raised t 7 6 ∧ WorkStands s t ∧ t.power = s.power)
    ∧ (∀ a, exec (.correctionWriteback a) s = .next (if s.mem.writeback.contains a then
        { s with mem := { s.mem with writeback := s.mem.writeback.filter (· != a), latent := assocDel s.mem.latent a } } else s))
    ∧ (∀ bank row, ((assocGetD 0 s.mem.rowCounts (bank * 1024 + row) < 3 ∨ 8 ≤ bank ∨ 1024 ≤ row) → exec (.rowRemap bank row) s = .next s)
      ∧ (3 ≤ assocGetD 0 s.mem.rowCounts (bank * 1024 + row) → bank < 8 → row < 1024 →
        (∀ j, freeSpare s bank = some j → s.mem.latent = [] → sevOf s 7 1 ≤ 1 →
          ∃ t, exec (.rowRemap bank row) s = .next t ∧ Raised t 7 1 ∧ (bank, j, row) ∈ t.thermos.remaps
            ∧ (∀ i, (bank, i, row) ∈ t.thermos.remaps → i = j) ∧ (∀ i, (bank, i, row) ∈ s.thermos.remaps → (bank, i) ∈ t.thermos.badSpares)
            ∧ (∀ c, (c.1 ≠ bank ∨ c.2.2 ≠ row) → (c ∈ t.thermos.remaps ↔ c ∈ s.thermos.remaps))
            ∧ assocGet t.mem.rowCounts (bank * 1024 + row) = none ∧ t.mem.pantry = s.mem.pantry ∧ t.rings = s.rings ∧ t.hampers = s.hampers)
        ∧ (freeSpare s bank = none → (s.mem.sparesOut.contains bank = true → exec (.rowRemap bank row) s = .next s)
          ∧ (s.mem.sparesOut.contains bank = false → sevOf s 7 2 ≤ 1 →
            ∃ t, exec (.rowRemap bank row) s = .next t ∧ Raised t 7 2 ∧ t.mem = { s.mem with sparesOut := insertNat s.mem.sparesOut bank }
              ∧ t.thermos = s.thermos ∧ t.rings = s.rings ∧ t.hampers = s.hampers))))
    ∧ (∀ ms, ∀ d, d = { s.mem with whiskPass := s.mem.whiskPass + 1, whiskLastMs := min 1023 ms, allZeroed := false, zeroed := [] } →
      ∀ m, m = { s.thermos with drsMask := xorBytes s.thermos.drsMask (drawn s 32) } →
      (rngReady s = false → ∀ ok errs, exec (.whiskPass ok errs ms) s = .next s)
      ∧ (rngReady s = true → exec (.whiskPass true [] ms) s = .next { s with mem := d, thermos := m, rng := afterGenerate s.rng 32 }
        ∧ (∀ h c, slotKey s h = some c → sevOf s 12 2 ≤ 1 →
          ∃ t, exec (.whiskPass true [h] ms) s = .next t ∧ Raised t 12 2
            ∧ t.mem = { d with zeroed := ((List.range c.2.span).map (c.1 + ·)).foldl insertNat [] } ∧ t.keys = assocDel s.keys c.1
            ∧ t.rings = s.rings ∧ t.hampers = s.hampers ∧ t.thermos = m)
        ∧ ∃ t, exec (.whiskPass false [] ms) s = .next t ∧ Raised t 13 1 ∧ t.thermos.drsOk = false ∧ drsPresent t = false
          ∧ t.mem.whiskPass = s.mem.whiskPass + 1))
    ∧ ((pdOf s 49).st ≠ .on → exec .whiskStall s = .next s)
    ∧ ((pdOf s 49).st = .on → sevOf s 13 0 ≤ 1 → ∃ t, exec .whiskStall s = .next t ∧ Raised t 13 0 ∧ WorkStands s t ∧ t.power = s.power)
    ∧ exec .idleFlush s = .next (if s.power.idleFlushMs = 0 then s else { s with
        keys := [], mem := { s.mem with allZeroed := true, zeroed := [] } })
    ∧ exec .drbgReseed s = .next (if rngReady s then { s with rng := reseeded s.rng } else s)
    ∧ (rngReady s = false → exec .rngHealthFail s = .next s)
    ∧ (rngReady s = true → Clean s → (∀ c ∈ ([(9, 0), (15, 0), (16, 2), (16, 3), (18, 2)] : List (Nat × Nat)), sevOf s c.1 c.2 ≤ 3) →
        ∃ t, exec .rngHealthFail s = .next t ∧ Raised t 15 0 ∧ t.rng = { s.rng with stopped := true, restarting := true }
        ∧ ∀ i < 16, Struck s t i 0x52 0)
    ∧ (s.rng.restarting = false → ∀ pass, exec (.rngRestartDone pass) s = .next s)
    ∧ (s.rng.restarting = true →
        exec (.rngRestartDone true) s = .next { s with rng := { reseeded s.rng with stopped := false, restarting := false } }
        ∧ ∃ t, exec (.rngRestartDone false) s = .next t ∧ Raised t 15 1 ∧ t.rng = { s.rng with restarting := false }
          ∧ (sevOf s 15 1 = 4 → (blockOf s 15).handling = false → s.boot.mode ≠ .boot → t.boot.mode = .quarantine))

/-- Idle domains close and gate, asked-for ones wake, test and retire, and the temperature throttles and alarms -/
def Obligations.DomainsGateWakeAndThrottle : Prop :=
  ∀ s : State, Shape s →
    (∀ i : Fin 50, exec (.idleGate i) s = .next (if (pdOf s i).policy = .auto ∧ (pdOf s i).st = .on ∧ (pdOf s i).closed = false ∧ pdIdle s i = true
        then modPd s i (fun d => { d with closed := true }) else s))
    ∧ (∀ i : Fin 50, (((pdOf s i).closed = false ∨ (pdOf s i).st ≠ .on ∨ drained s i = false) → exec (.domainGated i) s = .next s)
      ∧ ((pdOf s i).closed = true → (pdOf s i).st = .on → drained s i = true →
        ∀ keeps, keeps = (decide (36 ≤ i.val) && decide (i.val < 44) && bankAllocated s (i.val - 36)) →
        ∃ t, exec (.domainGated i) s = .next t ∧ t.rings = s.rings ∧ t.hampers = s.hampers ∧ t.thermos = s.thermos
          ∧ ((pdOf s i).wakeWanted = false →
              pdOf t i = { pdOf s i with st := if keeps then .retain else .off, closed := false })
          ∧ ((pdOf s i).wakeWanted = true → (pdOf s i).retired = false → (pdOf s i).policy ≠ .forceOff →
              (36 ≤ i.val ∨ s.power.wakesNow < 4) → (pdOf t i).st = .waking)
          ∧ (∀ j : Nat, j ≠ i.val → pdOf t j = pdOf s j)
          ∧ (∀ a, assocGetD 0 t.mem.pantry a =
              if 36 ≤ i.val ∧ i.val < 44 ∧ keeps = false ∧ bankOf a = i.val - 36 then 0 else assocGetD 0 s.mem.pantry a)
          ∧ t.mp.cache = (if i.val = 48 then [] else s.mp.cache) ∧ t.keys = (if i.val = 49 then [] else s.keys)))
    ∧ (∃ t, exec .queuedWakeStart s = .next t ∧ t.power.wakeQueue = s.power.wakeQueue.drop 4 ∧ t.power.wakesNow = min 4 s.power.wakeQueue.length
      ∧ WorkStands s t
      ∧ (∀ i ∈ s.power.wakeQueue.take 4, i < 50 → (pdOf t i).wakeQueued = false
          ∧ ((pdOf s i).retired = false → (pdOf t i).st = if (pdOf s i).st = .on then .on else .waking))
      ∧ (∀ i, i ∉ s.power.wakeQueue.take 4 → pdOf t i = pdOf s i))
    ∧ (∀ h, ((hamperOf s h).bind (waitingNeed s) = none → exec (.holdWake h) s = .next s)
      ∧ (∀ l, (hamperOf s h).bind (waitingNeed s) = some [l] →
        (l.any (fun i => awake (pdOf s i) || coming (pdOf s i)) = true → exec (.holdWake h) s = .next s)
        ∧ (∀ i, l.any (fun i => awake (pdOf s i) || coming (pdOf s i)) = false → l.find? (fun i => wakeable (pdOf s i)) = some i → i < 36 →
          (capFits s h (setCharge [i]) = true →
            ∃ t, exec (.holdWake h) s = .next t ∧ WorkStands s t ∧ (∀ j, j ≠ i → pdOf t j = pdOf s j)
              ∧ ((pdOf s i).closed = true → (pdOf t i).wakeWanted = true)
              ∧ ((pdOf s i).closed = false → s.power.wakesNow < 4 → (pdOf t i).st = .waking ∧ t.power.wakesNow = s.power.wakesNow + 1)
              ∧ ((pdOf s i).closed = false → 4 ≤ s.power.wakesNow → t.power.wakeQueue = s.power.wakeQueue ++ [i]))
          ∧ (capFits s h (setCharge [i]) = false → s.power.capClaim = none →
            exec (.holdWake h) s = .next { s with power := { s.power with capClaim := some h } }))))
    ∧ (∀ r : BitVec 16, ∀ g b, g = ringOf s r.toNat → b = bankOf (entryAddr g g.tail) →
      ((g.state = .active ∧ g.poll ≠ 0 ∧ b < 8 ∧ (pdOf s (36 + b)).st = .retain) → (pdOf s (36 + b)).closed = false →
        (pdOf s (36 + b)).retired = false → (pdOf s (36 + b)).policy ≠ .forceOff →
        exec (.bankPrewake r) s = .next (modPd s (36 + b) (fun d => { d with st := .waking })))
      ∧ (¬(g.state = .active ∧ g.poll ≠ 0 ∧ b < 8 ∧ (pdOf s (36 + b)).st = .retain) → exec (.bankPrewake r) s = .next s))
    ∧ (∀ i : Fin 50, ((pdOf s i).st ≠ .waking → ∀ pass, exec (.domainWakeDone i pass) s = .next s ∧ exec (.wakeTimeout i) s = .next s)
      ∧ ((pdOf s i).st = .waking →
        (∀ pass, (pass = true ∨ (36 ≤ i.val ∧ i.val < 49) ∨ wakeTests (pdOf s i) = false ∧ i.val < 36) →
          (36 ≤ i.val → i.val < 44 → s.mem.missed.contains (i.val - 36) = true → s.mem.latent = []) →
          ∃ t, exec (.domainWakeDone i pass) s = .next t
            ∧ WorkStands { s with mem := if 36 ≤ i.val ∧ i.val < 44 ∧ s.mem.missed.contains (i.val - 36) = true then
                { s.mem with missed := s.mem.missed.filter (· != i.val - 36) } else s.mem } t
            ∧ pdOf t i = { pdOf s i with st := .on, tested := true, fenced := false, closed := decide ((pdOf s i).policy = .forceOff) }
            ∧ (i.val = 49 → t.rng = { instantiate s.rng with stopped := false, restarting := false })
            ∧ (∀ j : Nat, j ≠ i.val → pdOf t j = pdOf s j))
        ∧ (i.val < 44 → (pdOf s i).retired = false →
          ∀ c, (c = .wakeTimeout i ∨ (c = .domainWakeDone i false ∧ i.val < 36 ∧ wakeTests (pdOf s i) = true)) →
          ∃ t, exec c s = .next t ∧ (pdOf t i).retired = true ∧ (pdOf t i).st = .off ∧ Raised t 16 2)
        ∧ (i.val = 49 → ∀ c, (c = .wakeTimeout i ∨ c = .domainWakeDone i false) →
          ∃ t, exec c s = .next t ∧ Raised t 15 1 ∧ t.rng = { s.rng with stopped := true, restarting := false })
        ∧ (44 ≤ i.val → i.val < 49 → exec (.wakeTimeout i) s = .next s)))
    ∧ (∀ e : Fin 36, ∀ d, d = pdOf s e →
      ((d.fenced = false ∨ d.retired = true ∨ d.policy = .forceOff ∨ d.running.isSome ∨ d.suspended.isSome) → exec (.fenceRetest e) s = .next s)
      ∧ (d.fenced = true → d.retired = false → d.policy ≠ .forceOff → d.running = none → d.suspended = none →
        (d.st = .on → exec (.fenceRetest e) s = .next (modPd s e (fun d => { d with st := .waking, closed := false })))
        ∧ (d.st = .off → d.closed = false → s.power.wakesNow < 4 →
          ∃ t, exec (.fenceRetest e) s = .next t ∧ pdOf t e = { d with st := .waking } ∧ (∀ j : Nat, j ≠ e.val → pdOf t j = pdOf s j) ∧ WorkStands s t)))
    ∧ (∀ h, ((∀ n, (hamperOf s h).bind (waitingNeed s) = some n → capFits s h (needCharge n) = true) → exec (.capWait h) s = .next s)
      ∧ (∀ n, (hamperOf s h).bind (waitingNeed s) = some n → capFits s h (needCharge n) = false → sevOf s 16 4 ≤ 1 →
        ∃ t, exec (.capWait h) s = .next t ∧ Raised t 16 4 ∧ WorkStands s t ∧ t.power = s.power))
    ∧ (∀ tj : Int, (tj < 125 → sevOf s 16 0 ≤ 1 →
        ∃ t, exec (.tjSample tj) s = .next t ∧ WorkStands s t ∧ (115 ≤ tj → s.power.throttled = false → Raised t 16 0)
          ∧ t.power = { s.power with tj := tj, throttled := decide (115 ≤ tj) || (s.power.throttled && decide (110 ≤ tj)), tjCritical := false })
      ∧ (125 ≤ tj → s.power.throttled = true → s.power.tjCritical = true →
        exec (.tjSample tj) s = .next { s with power := { s.power with tj := tj } })
      ∧ (125 ≤ tj → s.power.tjCritical = false →
        ∃ t, exec (.tjSample tj) s = .next t ∧ Raised t 16 1 ∧ t.power.tj = tj ∧ t.power.throttled = true ∧ t.power.tjCritical = true
          ∧ ∀ i < 36, (pdOf t i).running = none))

/-- The TAP steps and shows its IDCODE only where JTAG is open; the RTC stops and resumes; FACTORY injects events and word errors -/
def Obligations.TapClockStopsAndInjections : Prop :=
  ∀ s : State, Shape s →
    (∀ op, ∃ t, exec (.jtagTapOperation op) s = .next t ∧ t = { s with board := t.board }
      ∧ (jtagOpen s = false ∨ op = .trst → t.board = { s.board with tap := 0, tapIr := 1, tapTdo := none })
      ∧ (∀ tms tdi, jtagOpen s = true → op = .clock tms tdi → t.board.tap = tapNext s.board.tap tms
        ∧ (s.board.tap = 3 → s.board.tapIr = 1 → t.board.tapShift = 0xB6516C7B)
        ∧ (s.board.tap = 4 → s.board.tapIr = 1 → t.board.tapShift = s.board.tapShift / 2 + b2n tdi * 2 ^ 31)))
    ∧ (∀ a b c d e, ∃ s1 s2 s3 s4 t, exec (.jtagTapOperation (.clock true a)) s = .next s1 ∧ exec (.jtagTapOperation (.clock true b)) s1 = .next s2
      ∧ exec (.jtagTapOperation (.clock true c)) s2 = .next s3 ∧ exec (.jtagTapOperation (.clock true d)) s3 = .next s4
      ∧ exec (.jtagTapOperation (.clock true e)) s4 = .next t ∧ t.board.tap = 0 ∧ t.board.tapIr = 1)
    ∧ (s.board.rtcRunning = false → exec .rtcStop s = .next s)
    ∧ (s.board.rtcRunning = true → s.board.porHigh = false → exec .rtcStop s = .next { s with board := { s.board with rtcRunning := false } })
    ∧ (s.board.rtcRunning = true → s.board.porHigh = true → sevOf s 17 2 ≤ 3 →
      ∃ t, exec .rtcStop s = .next t ∧ Raised t 17 2 ∧ t.board = { s.board with rtcRunning := false }
        ∧ (∀ d, domOf t d = if d ∈ meterDomains s then { domOf s d with unclean := true } else domOf s d)
        ∧ t.rings = s.rings ∧ t.hampers = s.hampers ∧ t.mem = s.mem ∧ t.keys = s.keys ∧ t.mono = s.mono)
    ∧ exec .rtcResume s = .next { s with board := { s.board with rtcRunning := true } }
    ∧ (s.boot.mode = .factory → ∀ (p : Port) (k : Link) (b src detail : Nat),
      b = bits s.fiTarget.toNat 12 8 → src = bits s.fiTarget.toNat 2 0 → detail = bits s.fiTarget.toNat 31 16 →
      (ServesReg s p k 0xC44 1 → b < 21 → src < sourceCount b →
        ∃ t, exec (.fiFire p k false) s = .next t ∧ Raised t b src ∧ WorkStands s t ∧ t.boot = s.boot ∧ t.fiReact = false
          ∧ (portOf t p).lwOutcome = wrOk)
      ∧ (∀ react, ServesReg s p k 0xC44 (b2n react * 2 + 1) → (21 ≤ b ∨ sourceCount b ≤ src) →
        exec (.fiFire p k react) s = .next (recordWr p 0x11 wrOk { respond p .silent s with fiReact := react }))
      ∧ (ServesReg s p k 0xC44 3 → b = 14 → src < 6 →
        ∃ t, exec (.fiFire p k true) s = .next t ∧ Tampered src s t ∧ (portOf t p).lwOutcome = wrOk)
      ∧ (∀ n : BitVec 2, n = 1 ∨ n = 2 → ServesReg s p k 0xC4C (16 + n.toNat) → ∀ a, a = s.fiEccAddr / 8 * 8 →
        exec (.fiEccGo p k n) s = .next (recordWr p 0x11 wrOk { respond p .silent s with
          fiEccBits := n.toNat, mem := { s.mem with latent := assocPut s.mem.latent a (min 2 (assocGetD 0 s.mem.latent a + n.toNat)) } })))
end

