-- ==== Sys2Proof/Laws/Clean.lean ====
section
/-! SUPPORT. Where no memory error waits and nothing is poisoned, reading memory changes nothing and finds no poison. -/

namespace Sys2Proof.Laws

open Sys2Proof.Machine Sys2Proof.Safety

variable {s : State}

@[simp] theorem touchPantry_clean (h : Clean s) (a n src : Nat) : touchPantry a n src s = s := by
  simp [touchPantry, h.1]

@[simp] theorem touchLarder_clean (h : Clean s) (a n : Nat) : touchLarder a n s = s := by
  unfold touchLarder
  induction linesOf a n with
  | nil => rfl
  | cons x l ih => simpa [h.2.1] using ih

@[simp] theorem touchKind_clean (h : Clean s) (k : Nat) (f : State → Nat → Bool) : touchKind k f s = s := by
  simp [touchKind, h.1]

@[simp] theorem touchCups_clean (h : Clean s) (x : Nat) : touchCups x s = s := touchKind_clean h _ _
@[simp] theorem touchDups_clean (h : Clean s) (d : Nat) : touchDups d s = s := touchKind_clean h _ _
@[simp] theorem touchReserved_clean (h : Clean s) (lo hi : Nat) : touchReserved lo hi s = s := touchKind_clean h _ _

@[simp] theorem touch_clean (h : Clean s) (a n : Nat) : touch a n s = s := by
  simp [touch, h]

@[simp] theorem touchEdges_clean (h : Clean s) (a n : Nat) : touchEdges a n s = s := by
  simp [touchEdges, h]

@[simp] theorem poisonIn_clean (h : Clean s) (a n : Nat) : poisonIn s a n = none := by
  simp [poisonIn, h.2.2]

/-- A clean state meets no error in what an entry reads of the device's own Pantry: the premise `touchEntry x e s = s` of `Runs`. -/
@[simp] theorem touchEntry_clean (h : Clean s) (x : Hamper) (e : Bytes) : touchEntry x e s = s := by
  simp [touchEntry, h]

end Sys2Proof.Laws
end

