-- ==== Sys2Proof/Laws/Memory.lean ====
section
/-! SUPPORT. Sparse tables: what reading after writing gives, and that every operation keeps the canonical form. -/

namespace Sys2Proof.Machine

theorem assocRising_iff {α : Type} (m : Assoc α) : assocRising m = true ↔ m.Pairwise (fun a b => a.1 < b.1) := by
  induction m with
  | nil => simp [assocRising]
  | cons c t ih =>
    cases t with
    | nil => simp [assocRising]
    | cons d t =>
      simp only [assocRising, Bool.and_eq_true, decide_eq_true_eq, List.pairwise_cons, ih]
      constructor
      · rintro ⟨h, h1, h2⟩
        refine ⟨?_, h1, h2⟩
        intro x hx
        rcases List.mem_cons.1 hx with rfl | hx
        · exact h
        · exact lt_trans h (h1 x hx)
      · rintro ⟨h, h1, h2⟩
        exact ⟨h d (by simp), h1, h2⟩

theorem assocWf_iff {α : Type} [DecidableEq α] (d : α) (m : Assoc α) :
    assocWf d m = true ↔ m.Pairwise (fun a b => a.1 < b.1) ∧ ∀ c ∈ m, c.2 ≠ d := by
  simp [assocWf, assocRising_iff]

theorem assocWf_nil {α : Type} [DecidableEq α] (d : α) : assocWf d ([] : Assoc α) = true := by simp [assocWf, assocRising]

theorem assocWf_sublist {α : Type} [DecidableEq α] {d : α} {m n : Assoc α} (h : n.Sublist m) (hm : assocWf d m = true) :
    assocWf d n = true := by
  rw [assocWf_iff] at *
  exact ⟨hm.1.sublist h, fun c hc => hm.2 c (h.subset hc)⟩

theorem assocWf_filter {α : Type} [DecidableEq α] {d : α} {m : Assoc α} (f : Nat × α → Bool) (hm : assocWf d m = true) :
    assocWf d (m.filter f) = true := assocWf_sublist List.filter_sublist hm

theorem assocWf_del {α : Type} [DecidableEq α] {d : α} {m : Assoc α} (a : Nat) (hm : assocWf d m = true) :
    assocWf d (assocDel m a) = true := assocWf_filter _ hm

theorem assocWf_clear {α : Type} [DecidableEq α] {d : α} {m : Assoc α} (lo hi : Nat) (hm : assocWf d m = true) :
    assocWf d (assocClear m lo hi) = true := assocWf_filter _ hm

theorem mem_assocPut {α : Type} {m : Assoc α} {a : Nat} {v : α} {c : Nat × α} (h : c ∈ assocPut m a v) : c = (a, v) ∨ c ∈ m := by
  induction m with
  | nil => simpa [assocPut] using h
  | cons b t ih =>
    simp only [assocPut] at h
    split at h
    · simpa using h
    · split at h
      · rcases List.mem_cons.1 h with h | h <;> simp [h]
      · rcases List.mem_cons.1 h with h | h
        · simp [h]
        · rcases ih h with h | h <;> simp [h]

theorem assocPut_pairwise {α : Type} {m : Assoc α} (a : Nat) (v : α) (hm : m.Pairwise (fun a b => a.1 < b.1)) :
    (assocPut m a v).Pairwise (fun a b => a.1 < b.1) := by
  induction m with
  | nil => simp [assocPut]
  | cons b t ih =>
    obtain ⟨k, w⟩ := b
    rw [List.pairwise_cons] at hm
    simp only [assocPut]
    split
    · rename_i h
      refine List.pairwise_cons.2 ⟨?_, List.pairwise_cons.2 hm⟩
      intro x hx
      rcases List.mem_cons.1 hx with rfl | hx
      · exact h
      · exact lt_trans h (hm.1 x hx)
    · split
      · rename_i h
        subst h
        exact List.pairwise_cons.2 hm
      · refine List.pairwise_cons.2 ⟨?_, ih hm.2⟩
        intro x hx
        rcases mem_assocPut hx with rfl | hx
        · show k < a
          omega
        · exact hm.1 x hx

theorem assocWf_put {α : Type} [DecidableEq α] {d : α} {m : Assoc α} (a : Nat) {v : α} (hv : v ≠ d) (hm : assocWf d m = true) :
    assocWf d (assocPut m a v) = true := by
  rw [assocWf_iff] at *
  refine ⟨assocPut_pairwise a v hm.1, fun c hc => ?_⟩
  rcases mem_assocPut hc with rfl | hc
  · exact hv
  · exact hm.2 c hc

/-- A write of any value keeps the canonical form. -/
theorem assocWf_set {α : Type} [DecidableEq α] {d : α} {m : Assoc α} (a : Nat) (v : α) (hm : assocWf d m = true) :
    assocWf d (assocSet d m a v) = true := by
  unfold assocSet
  split
  · exact assocWf_del a hm
  · exact assocWf_put a (by assumption) hm

/-- A write of octets keeps the canonical form. -/
theorem memWf_write {d : BitVec 8} (v : Bytes) {m : Assoc (BitVec 8)} (a : Nat) (hm : assocWf d m = true) :
    assocWf d (memWrite d m a v) = true := by
  induction v generalizing m a with
  | nil => exact hm
  | cons b t ih => exact ih _ (assocWf_set a b hm)

theorem assocGet_put {α : Type} (m : Assoc α) (a b : Nat) (v : α) :
    assocGet (assocPut m a v) b = if a = b then some v else assocGet m b := by
  induction m with
  | nil => simp [assocPut, assocGet]
  | cons c t ih =>
    obtain ⟨k, w⟩ := c
    simp only [assocPut]
    split
    · simp [assocGet]
    · split
      · rename_i h
        subst h
        simp only [assocGet]
        split <;> rfl
      · simp only [assocGet, ih]
        split
        · rename_i h1 h2 h3
          have : a ≠ b := by omega
          simp [this]
        · rfl

theorem assocGet_del {α : Type} (m : Assoc α) (a b : Nat) :
    assocGet (assocDel m a) b = if a = b then none else assocGet m b := by
  induction m with
  | nil => simp [assocDel, assocGet]
  | cons c t ih =>
    obtain ⟨k, w⟩ := c
    unfold assocDel at ih ⊢
    by_cases h : k = a
    · subst h
      simp only [List.filter_cons, bne_self_eq_false, Bool.false_eq_true, if_false, ih, assocGet]
      split <;> rfl
    · simp only [List.filter_cons, bne_iff_ne, ne_eq, h, not_false_iff, if_true, assocGet, ih]
      by_cases hb : k = b
      · subst hb
        simp [Ne.symm h]
      · simp [hb]

/-- Reading after a write: the value written at its key, the old value elsewhere. -/
theorem assocGetD_set {α : Type} [DecidableEq α] (d : α) (m : Assoc α) (a b : Nat) (v : α) :
    assocGetD d (assocSet d m a v) b = if a = b then v else assocGetD d m b := by
  unfold assocGetD assocSet
  split
  · rw [assocGet_del]
    split <;> simp_all
  · rw [assocGet_put]
    split <;> rfl

/-- Reading one byte after a write of octets. -/
theorem memWrite_get (d : BitVec 8) (v : Bytes) (m : Assoc (BitVec 8)) (a b : Nat) :
    assocGetD d (memWrite d m a v) b = if a ≤ b ∧ b < a + v.length then v.getD (b - a) 0 else assocGetD d m b := by
  induction v generalizing m a with
  | nil =>
    simp only [memWrite, List.length_nil]
    rw [if_neg (by omega)]
  | cons x t ih =>
    simp only [memWrite, ih, List.length_cons, assocGetD_set]
    by_cases h : a = b
    · subst h
      simp
    · by_cases h2 : a + 1 ≤ b ∧ b < a + 1 + t.length
      · rw [if_pos h2, if_pos (by omega)]
        obtain ⟨k, hk⟩ : ∃ k, b - a = k + 1 := ⟨b - a - 1, by omega⟩
        rw [hk, List.getD_cons_succ]
        congr 1
        omega
      · rw [if_neg h2, if_neg h, if_neg (by omega)]

/-- A write of octets leaves every other byte alone. -/
theorem memWrite_other {d : BitVec 8} {v : Bytes} {m : Assoc (BitVec 8)} {a b : Nat} (h : b < a ∨ a + v.length ≤ b) :
    assocGetD d (memWrite d m a v) b = assocGetD d m b := by
  rw [memWrite_get, if_neg (by omega)]

/-- Octets read back as they were written. -/
theorem memRead_write (d : BitVec 8) (v : Bytes) (m : Assoc (BitVec 8)) (a : Nat) : memRead d (memWrite d m a v) a v.length = v := by
  apply List.ext_getElem
  · simp [memRead]
  · intro i h1 h2
    simp only [memRead, List.getElem_map, List.getElem_range, memWrite_get]
    rw [if_pos (by omega)]
    simp [h2]

theorem assocGetD_clear {α : Type} (d : α) (m : Assoc α) (lo hi b : Nat) :
    assocGetD d (assocClear m lo hi) b = if lo ≤ b ∧ b < hi then d else assocGetD d m b := by
  unfold assocGetD assocClear
  induction m with
  | nil => simp [assocGet]
  | cons c t ih =>
    obtain ⟨k, w⟩ := c
    by_cases h : lo ≤ k ∧ k < hi
    · simp only [List.filter_cons, h.1, h.2, decide_true, Bool.and_self, Bool.not_true, Bool.false_eq_true, if_false, ih]
      by_cases hb : k = b
      · subst hb
        simp [h]
      · simp [assocGet, hb]
    · have : (!(decide (lo ≤ k) && decide (k < hi))) = true := by
        rw [Bool.not_eq_true', Bool.and_eq_false_iff]
        simp only [decide_eq_false_iff_not]
        omega
      simp only [List.filter_cons, this, if_true, assocGet]
      by_cases hb : k = b
      · subst hb
        simp [h]
      · simp only [hb, if_false]
        exact ih

end Sys2Proof.Machine
end

