-- ==== Sys2Proof/Laws/State.lean ====
section
/-! SUPPORT. What the named updates of the state write and leave: one lemma per field per update. -/

namespace Sys2Proof.Laws

open Sys2Proof.Machine

/-! `modPort` -/

@[simp] theorem modPort_pending (s : State) (p : Nat) (f : PortState → PortState) : (modPort s p f).pending = s.pending := rfl
@[simp] theorem modPort_boot (s : State) (p : Nat) (f : PortState → PortState) : (modPort s p f).boot = s.boot := rfl
@[simp] theorem modPort_board (s : State) (p : Nat) (f : PortState → PortState) : (modPort s p f).board = s.board := rfl
@[simp] theorem modPort_rings (s : State) (p : Nat) (f : PortState → PortState) : (modPort s p f).rings = s.rings := rfl
@[simp] theorem modPort_leaf (s : State) (p : Nat) (f : PortState → PortState) : (modPort s p f).leaf = s.leaf := rfl
@[simp] theorem modPort_hampers (s : State) (p : Nat) (f : PortState → PortState) : (modPort s p f).hampers = s.hampers := rfl
@[simp] theorem modPort_nextHamper (s : State) (p : Nat) (f : PortState → PortState) : (modPort s p f).nextHamper = s.nextHamper := rfl
@[simp] theorem modPort_floorFree (s : State) (p : Nat) (f : PortState → PortState) : (modPort s p f).floorFree = s.floorFree := rfl
@[simp] theorem modPort_sharedFree (s : State) (p : Nat) (f : PortState → PortState) : (modPort s p f).sharedFree = s.sharedFree := rfl
@[simp] theorem modPort_claims (s : State) (p : Nat) (f : PortState → PortState) : (modPort s p f).claims = s.claims := rfl
@[simp] theorem modPort_claimTurn (s : State) (p : Nat) (f : PortState → PortState) : (modPort s p f).claimTurn = s.claimTurn := rfl
@[simp] theorem modPort_allocator (s : State) (p : Nat) (f : PortState → PortState) : (modPort s p f).allocator = s.allocator := rfl
@[simp] theorem modPort_dispatchers (s : State) (p : Nat) (f : PortState → PortState) : (modPort s p f).dispatchers = s.dispatchers := rfl
@[simp] theorem modPort_dups (s : State) (p : Nat) (f : PortState → PortState) : (modPort s p f).dups = s.dups := rfl
@[simp] theorem modPort_dupOrder (s : State) (p : Nat) (f : PortState → PortState) : (modPort s p f).dupOrder = s.dupOrder := rfl
@[simp] theorem modPort_ageLimit (s : State) (p : Nat) (f : PortState → PortState) : (modPort s p f).ageLimit = s.ageLimit := rfl
@[simp] theorem modPort_domSel (s : State) (p : Nat) (f : PortState → PortState) : (modPort s p f).domSel = s.domSel := rfl
@[simp] theorem modPort_power (s : State) (p : Nat) (f : PortState → PortState) : (modPort s p f).power = s.power := rfl
@[simp] theorem modPort_mem (s : State) (p : Nat) (f : PortState → PortState) : (modPort s p f).mem = s.mem := rfl
@[simp] theorem modPort_mp (s : State) (p : Nat) (f : PortState → PortState) : (modPort s p f).mp = s.mp := rfl
@[simp] theorem modPort_health (s : State) (p : Nat) (f : PortState → PortState) : (modPort s p f).health = s.health := rfl
@[simp] theorem modPort_thermos (s : State) (p : Nat) (f : PortState → PortState) : (modPort s p f).thermos = s.thermos := rfl
@[simp] theorem modPort_journal (s : State) (p : Nat) (f : PortState → PortState) : (modPort s p f).journal = s.journal := rfl
@[simp] theorem modPort_rng (s : State) (p : Nat) (f : PortState → PortState) : (modPort s p f).rng = s.rng := rfl
@[simp] theorem modPort_keys (s : State) (p : Nat) (f : PortState → PortState) : (modPort s p f).keys = s.keys := rfl
@[simp] theorem modPort_loads (s : State) (p : Nat) (f : PortState → PortState) : (modPort s p f).loads = s.loads := rfl
@[simp] theorem modPort_manifests (s : State) (p : Nat) (f : PortState → PortState) : (modPort s p f).manifests = s.manifests := rfl
@[simp] theorem modPort_debugManifests (s : State) (p : Nat) (f : PortState → PortState) : (modPort s p f).debugManifests = s.debugManifests := rfl
@[simp] theorem modPort_usedCells (s : State) (p : Nat) (f : PortState → PortState) : (modPort s p f).usedCells = s.usedCells := rfl
@[simp] theorem modPort_cellsKnown (s : State) (p : Nat) (f : PortState → PortState) : (modPort s p f).cellsKnown = s.cellsKnown := rfl
@[simp] theorem modPort_cipherParts (s : State) (p : Nat) (f : PortState → PortState) : (modPort s p f).cipherParts = s.cipherParts := rfl
@[simp] theorem modPort_digestParts (s : State) (p : Nat) (f : PortState → PortState) : (modPort s p f).digestParts = s.digestParts := rfl
@[simp] theorem modPort_cipherOut (s : State) (p : Nat) (f : PortState → PortState) : (modPort s p f).cipherOut = s.cipherOut := rfl
@[simp] theorem modPort_digestOut (s : State) (p : Nat) (f : PortState → PortState) : (modPort s p f).digestOut = s.digestOut := rfl
@[simp] theorem modPort_ctxSeq (s : State) (p : Nat) (f : PortState → PortState) : (modPort s p f).ctxSeq = s.ctxSeq := rfl
@[simp] theorem modPort_lostParts (s : State) (p : Nat) (f : PortState → PortState) : (modPort s p f).lostParts = s.lostParts := rfl
@[simp] theorem modPort_meas (s : State) (p : Nat) (f : PortState → PortState) : (modPort s p f).meas = s.meas := rfl
@[simp] theorem modPort_snoops (s : State) (p : Nat) (f : PortState → PortState) : (modPort s p f).snoops = s.snoops := rfl
@[simp] theorem modPort_issue (s : State) (p : Nat) (f : PortState → PortState) : (modPort s p f).issue = s.issue := rfl
@[simp] theorem modPort_drawsStopped (s : State) (p : Nat) (f : PortState → PortState) : (modPort s p f).drawsStopped = s.drawsStopped := rfl
@[simp] theorem modPort_debugIssue (s : State) (p : Nat) (f : PortState → PortState) : (modPort s p f).debugIssue = s.debugIssue := rfl
@[simp] theorem modPort_mono (s : State) (p : Nat) (f : PortState → PortState) : (modPort s p f).mono = s.mono := rfl
@[simp] theorem modPort_live (s : State) (p : Nat) (f : PortState → PortState) : (modPort s p f).live = s.live := rfl
@[simp] theorem modPort_writeThrough (s : State) (p : Nat) (f : PortState → PortState) : (modPort s p f).writeThrough = s.writeThrough := rfl
@[simp] theorem modPort_trimRefused (s : State) (p : Nat) (f : PortState → PortState) : (modPort s p f).trimRefused = s.trimRefused := rfl
@[simp] theorem modPort_meterSel (s : State) (p : Nat) (f : PortState → PortState) : (modPort s p f).meterSel = s.meterSel := rfl
@[simp] theorem modPort_fiTarget (s : State) (p : Nat) (f : PortState → PortState) : (modPort s p f).fiTarget = s.fiTarget := rfl
@[simp] theorem modPort_fiReact (s : State) (p : Nat) (f : PortState → PortState) : (modPort s p f).fiReact = s.fiReact := rfl
@[simp] theorem modPort_fiEccAddr (s : State) (p : Nat) (f : PortState → PortState) : (modPort s p f).fiEccAddr = s.fiEccAddr := rfl
@[simp] theorem modPort_fiEccBits (s : State) (p : Nat) (f : PortState → PortState) : (modPort s p f).fiEccBits = s.fiEccBits := rfl

/-! `modPd` -/

@[simp] theorem modPd_pending (s : State) (i : Nat) (f : Pd → Pd) : (modPd s i f).pending = s.pending := rfl
@[simp] theorem modPd_boot (s : State) (i : Nat) (f : Pd → Pd) : (modPd s i f).boot = s.boot := rfl
@[simp] theorem modPd_board (s : State) (i : Nat) (f : Pd → Pd) : (modPd s i f).board = s.board := rfl
@[simp] theorem modPd_ports (s : State) (i : Nat) (f : Pd → Pd) : (modPd s i f).ports = s.ports := rfl
@[simp] theorem modPd_rings (s : State) (i : Nat) (f : Pd → Pd) : (modPd s i f).rings = s.rings := rfl
@[simp] theorem modPd_leaf (s : State) (i : Nat) (f : Pd → Pd) : (modPd s i f).leaf = s.leaf := rfl
@[simp] theorem modPd_hampers (s : State) (i : Nat) (f : Pd → Pd) : (modPd s i f).hampers = s.hampers := rfl
@[simp] theorem modPd_nextHamper (s : State) (i : Nat) (f : Pd → Pd) : (modPd s i f).nextHamper = s.nextHamper := rfl
@[simp] theorem modPd_floorFree (s : State) (i : Nat) (f : Pd → Pd) : (modPd s i f).floorFree = s.floorFree := rfl
@[simp] theorem modPd_sharedFree (s : State) (i : Nat) (f : Pd → Pd) : (modPd s i f).sharedFree = s.sharedFree := rfl
@[simp] theorem modPd_claims (s : State) (i : Nat) (f : Pd → Pd) : (modPd s i f).claims = s.claims := rfl
@[simp] theorem modPd_claimTurn (s : State) (i : Nat) (f : Pd → Pd) : (modPd s i f).claimTurn = s.claimTurn := rfl
@[simp] theorem modPd_allocator (s : State) (i : Nat) (f : Pd → Pd) : (modPd s i f).allocator = s.allocator := rfl
@[simp] theorem modPd_dispatchers (s : State) (i : Nat) (f : Pd → Pd) : (modPd s i f).dispatchers = s.dispatchers := rfl
@[simp] theorem modPd_dups (s : State) (i : Nat) (f : Pd → Pd) : (modPd s i f).dups = s.dups := rfl
@[simp] theorem modPd_dupOrder (s : State) (i : Nat) (f : Pd → Pd) : (modPd s i f).dupOrder = s.dupOrder := rfl
@[simp] theorem modPd_ageLimit (s : State) (i : Nat) (f : Pd → Pd) : (modPd s i f).ageLimit = s.ageLimit := rfl
@[simp] theorem modPd_domSel (s : State) (i : Nat) (f : Pd → Pd) : (modPd s i f).domSel = s.domSel := rfl
@[simp] theorem modPd_mem (s : State) (i : Nat) (f : Pd → Pd) : (modPd s i f).mem = s.mem := rfl
@[simp] theorem modPd_mp (s : State) (i : Nat) (f : Pd → Pd) : (modPd s i f).mp = s.mp := rfl
@[simp] theorem modPd_health (s : State) (i : Nat) (f : Pd → Pd) : (modPd s i f).health = s.health := rfl
@[simp] theorem modPd_thermos (s : State) (i : Nat) (f : Pd → Pd) : (modPd s i f).thermos = s.thermos := rfl
@[simp] theorem modPd_journal (s : State) (i : Nat) (f : Pd → Pd) : (modPd s i f).journal = s.journal := rfl
@[simp] theorem modPd_rng (s : State) (i : Nat) (f : Pd → Pd) : (modPd s i f).rng = s.rng := rfl
@[simp] theorem modPd_keys (s : State) (i : Nat) (f : Pd → Pd) : (modPd s i f).keys = s.keys := rfl
@[simp] theorem modPd_loads (s : State) (i : Nat) (f : Pd → Pd) : (modPd s i f).loads = s.loads := rfl
@[simp] theorem modPd_manifests (s : State) (i : Nat) (f : Pd → Pd) : (modPd s i f).manifests = s.manifests := rfl
@[simp] theorem modPd_debugManifests (s : State) (i : Nat) (f : Pd → Pd) : (modPd s i f).debugManifests = s.debugManifests := rfl
@[simp] theorem modPd_usedCells (s : State) (i : Nat) (f : Pd → Pd) : (modPd s i f).usedCells = s.usedCells := rfl
@[simp] theorem modPd_cellsKnown (s : State) (i : Nat) (f : Pd → Pd) : (modPd s i f).cellsKnown = s.cellsKnown := rfl
@[simp] theorem modPd_cipherParts (s : State) (i : Nat) (f : Pd → Pd) : (modPd s i f).cipherParts = s.cipherParts := rfl
@[simp] theorem modPd_digestParts (s : State) (i : Nat) (f : Pd → Pd) : (modPd s i f).digestParts = s.digestParts := rfl
@[simp] theorem modPd_cipherOut (s : State) (i : Nat) (f : Pd → Pd) : (modPd s i f).cipherOut = s.cipherOut := rfl
@[simp] theorem modPd_digestOut (s : State) (i : Nat) (f : Pd → Pd) : (modPd s i f).digestOut = s.digestOut := rfl
@[simp] theorem modPd_ctxSeq (s : State) (i : Nat) (f : Pd → Pd) : (modPd s i f).ctxSeq = s.ctxSeq := rfl
@[simp] theorem modPd_lostParts (s : State) (i : Nat) (f : Pd → Pd) : (modPd s i f).lostParts = s.lostParts := rfl
@[simp] theorem modPd_meas (s : State) (i : Nat) (f : Pd → Pd) : (modPd s i f).meas = s.meas := rfl
@[simp] theorem modPd_snoops (s : State) (i : Nat) (f : Pd → Pd) : (modPd s i f).snoops = s.snoops := rfl
@[simp] theorem modPd_issue (s : State) (i : Nat) (f : Pd → Pd) : (modPd s i f).issue = s.issue := rfl
@[simp] theorem modPd_drawsStopped (s : State) (i : Nat) (f : Pd → Pd) : (modPd s i f).drawsStopped = s.drawsStopped := rfl
@[simp] theorem modPd_debugIssue (s : State) (i : Nat) (f : Pd → Pd) : (modPd s i f).debugIssue = s.debugIssue := rfl
@[simp] theorem modPd_mono (s : State) (i : Nat) (f : Pd → Pd) : (modPd s i f).mono = s.mono := rfl
@[simp] theorem modPd_live (s : State) (i : Nat) (f : Pd → Pd) : (modPd s i f).live = s.live := rfl
@[simp] theorem modPd_writeThrough (s : State) (i : Nat) (f : Pd → Pd) : (modPd s i f).writeThrough = s.writeThrough := rfl
@[simp] theorem modPd_trimRefused (s : State) (i : Nat) (f : Pd → Pd) : (modPd s i f).trimRefused = s.trimRefused := rfl
@[simp] theorem modPd_meterSel (s : State) (i : Nat) (f : Pd → Pd) : (modPd s i f).meterSel = s.meterSel := rfl
@[simp] theorem modPd_fiTarget (s : State) (i : Nat) (f : Pd → Pd) : (modPd s i f).fiTarget = s.fiTarget := rfl
@[simp] theorem modPd_fiReact (s : State) (i : Nat) (f : Pd → Pd) : (modPd s i f).fiReact = s.fiReact := rfl
@[simp] theorem modPd_fiEccAddr (s : State) (i : Nat) (f : Pd → Pd) : (modPd s i f).fiEccAddr = s.fiEccAddr := rfl
@[simp] theorem modPd_fiEccBits (s : State) (i : Nat) (f : Pd → Pd) : (modPd s i f).fiEccBits = s.fiEccBits := rfl

/-! `modBlock` -/

@[simp] theorem modBlock_pending (s : State) (b : Nat) (f : Health → Health) : (modBlock s b f).pending = s.pending := rfl
@[simp] theorem modBlock_boot (s : State) (b : Nat) (f : Health → Health) : (modBlock s b f).boot = s.boot := rfl
@[simp] theorem modBlock_board (s : State) (b : Nat) (f : Health → Health) : (modBlock s b f).board = s.board := rfl
@[simp] theorem modBlock_ports (s : State) (b : Nat) (f : Health → Health) : (modBlock s b f).ports = s.ports := rfl
@[simp] theorem modBlock_rings (s : State) (b : Nat) (f : Health → Health) : (modBlock s b f).rings = s.rings := rfl
@[simp] theorem modBlock_leaf (s : State) (b : Nat) (f : Health → Health) : (modBlock s b f).leaf = s.leaf := rfl
@[simp] theorem modBlock_hampers (s : State) (b : Nat) (f : Health → Health) : (modBlock s b f).hampers = s.hampers := rfl
@[simp] theorem modBlock_nextHamper (s : State) (b : Nat) (f : Health → Health) : (modBlock s b f).nextHamper = s.nextHamper := rfl
@[simp] theorem modBlock_floorFree (s : State) (b : Nat) (f : Health → Health) : (modBlock s b f).floorFree = s.floorFree := rfl
@[simp] theorem modBlock_sharedFree (s : State) (b : Nat) (f : Health → Health) : (modBlock s b f).sharedFree = s.sharedFree := rfl
@[simp] theorem modBlock_claims (s : State) (b : Nat) (f : Health → Health) : (modBlock s b f).claims = s.claims := rfl
@[simp] theorem modBlock_claimTurn (s : State) (b : Nat) (f : Health → Health) : (modBlock s b f).claimTurn = s.claimTurn := rfl
@[simp] theorem modBlock_allocator (s : State) (b : Nat) (f : Health → Health) : (modBlock s b f).allocator = s.allocator := rfl
@[simp] theorem modBlock_dispatchers (s : State) (b : Nat) (f : Health → Health) : (modBlock s b f).dispatchers = s.dispatchers := rfl
@[simp] theorem modBlock_dups (s : State) (b : Nat) (f : Health → Health) : (modBlock s b f).dups = s.dups := rfl
@[simp] theorem modBlock_dupOrder (s : State) (b : Nat) (f : Health → Health) : (modBlock s b f).dupOrder = s.dupOrder := rfl
@[simp] theorem modBlock_ageLimit (s : State) (b : Nat) (f : Health → Health) : (modBlock s b f).ageLimit = s.ageLimit := rfl
@[simp] theorem modBlock_domSel (s : State) (b : Nat) (f : Health → Health) : (modBlock s b f).domSel = s.domSel := rfl
@[simp] theorem modBlock_power (s : State) (b : Nat) (f : Health → Health) : (modBlock s b f).power = s.power := rfl
@[simp] theorem modBlock_mem (s : State) (b : Nat) (f : Health → Health) : (modBlock s b f).mem = s.mem := rfl
@[simp] theorem modBlock_mp (s : State) (b : Nat) (f : Health → Health) : (modBlock s b f).mp = s.mp := rfl
@[simp] theorem modBlock_thermos (s : State) (b : Nat) (f : Health → Health) : (modBlock s b f).thermos = s.thermos := rfl
@[simp] theorem modBlock_journal (s : State) (b : Nat) (f : Health → Health) : (modBlock s b f).journal = s.journal := rfl
@[simp] theorem modBlock_rng (s : State) (b : Nat) (f : Health → Health) : (modBlock s b f).rng = s.rng := rfl
@[simp] theorem modBlock_keys (s : State) (b : Nat) (f : Health → Health) : (modBlock s b f).keys = s.keys := rfl
@[simp] theorem modBlock_loads (s : State) (b : Nat) (f : Health → Health) : (modBlock s b f).loads = s.loads := rfl
@[simp] theorem modBlock_manifests (s : State) (b : Nat) (f : Health → Health) : (modBlock s b f).manifests = s.manifests := rfl
@[simp] theorem modBlock_debugManifests (s : State) (b : Nat) (f : Health → Health) : (modBlock s b f).debugManifests = s.debugManifests := rfl
@[simp] theorem modBlock_usedCells (s : State) (b : Nat) (f : Health → Health) : (modBlock s b f).usedCells = s.usedCells := rfl
@[simp] theorem modBlock_cellsKnown (s : State) (b : Nat) (f : Health → Health) : (modBlock s b f).cellsKnown = s.cellsKnown := rfl
@[simp] theorem modBlock_cipherParts (s : State) (b : Nat) (f : Health → Health) : (modBlock s b f).cipherParts = s.cipherParts := rfl
@[simp] theorem modBlock_digestParts (s : State) (b : Nat) (f : Health → Health) : (modBlock s b f).digestParts = s.digestParts := rfl
@[simp] theorem modBlock_cipherOut (s : State) (b : Nat) (f : Health → Health) : (modBlock s b f).cipherOut = s.cipherOut := rfl
@[simp] theorem modBlock_digestOut (s : State) (b : Nat) (f : Health → Health) : (modBlock s b f).digestOut = s.digestOut := rfl
@[simp] theorem modBlock_ctxSeq (s : State) (b : Nat) (f : Health → Health) : (modBlock s b f).ctxSeq = s.ctxSeq := rfl
@[simp] theorem modBlock_lostParts (s : State) (b : Nat) (f : Health → Health) : (modBlock s b f).lostParts = s.lostParts := rfl
@[simp] theorem modBlock_meas (s : State) (b : Nat) (f : Health → Health) : (modBlock s b f).meas = s.meas := rfl
@[simp] theorem modBlock_snoops (s : State) (b : Nat) (f : Health → Health) : (modBlock s b f).snoops = s.snoops := rfl
@[simp] theorem modBlock_issue (s : State) (b : Nat) (f : Health → Health) : (modBlock s b f).issue = s.issue := rfl
@[simp] theorem modBlock_drawsStopped (s : State) (b : Nat) (f : Health → Health) : (modBlock s b f).drawsStopped = s.drawsStopped := rfl
@[simp] theorem modBlock_debugIssue (s : State) (b : Nat) (f : Health → Health) : (modBlock s b f).debugIssue = s.debugIssue := rfl
@[simp] theorem modBlock_mono (s : State) (b : Nat) (f : Health → Health) : (modBlock s b f).mono = s.mono := rfl
@[simp] theorem modBlock_live (s : State) (b : Nat) (f : Health → Health) : (modBlock s b f).live = s.live := rfl
@[simp] theorem modBlock_writeThrough (s : State) (b : Nat) (f : Health → Health) : (modBlock s b f).writeThrough = s.writeThrough := rfl
@[simp] theorem modBlock_trimRefused (s : State) (b : Nat) (f : Health → Health) : (modBlock s b f).trimRefused = s.trimRefused := rfl
@[simp] theorem modBlock_meterSel (s : State) (b : Nat) (f : Health → Health) : (modBlock s b f).meterSel = s.meterSel := rfl
@[simp] theorem modBlock_fiTarget (s : State) (b : Nat) (f : Health → Health) : (modBlock s b f).fiTarget = s.fiTarget := rfl
@[simp] theorem modBlock_fiReact (s : State) (b : Nat) (f : Health → Health) : (modBlock s b f).fiReact = s.fiReact := rfl
@[simp] theorem modBlock_fiEccAddr (s : State) (b : Nat) (f : Health → Health) : (modBlock s b f).fiEccAddr = s.fiEccAddr := rfl
@[simp] theorem modBlock_fiEccBits (s : State) (b : Nat) (f : Health → Health) : (modBlock s b f).fiEccBits = s.fiEccBits := rfl

/-! `setRing` -/

@[simp] theorem setRing_pending (s : State) (r : Nat) (v : Ring) : (setRing s r v).pending = s.pending := rfl
@[simp] theorem setRing_boot (s : State) (r : Nat) (v : Ring) : (setRing s r v).boot = s.boot := rfl
@[simp] theorem setRing_board (s : State) (r : Nat) (v : Ring) : (setRing s r v).board = s.board := rfl
@[simp] theorem setRing_ports (s : State) (r : Nat) (v : Ring) : (setRing s r v).ports = s.ports := rfl
@[simp] theorem setRing_leaf (s : State) (r : Nat) (v : Ring) : (setRing s r v).leaf = s.leaf := rfl
@[simp] theorem setRing_hampers (s : State) (r : Nat) (v : Ring) : (setRing s r v).hampers = s.hampers := rfl
@[simp] theorem setRing_nextHamper (s : State) (r : Nat) (v : Ring) : (setRing s r v).nextHamper = s.nextHamper := rfl
@[simp] theorem setRing_floorFree (s : State) (r : Nat) (v : Ring) : (setRing s r v).floorFree = s.floorFree := rfl
@[simp] theorem setRing_sharedFree (s : State) (r : Nat) (v : Ring) : (setRing s r v).sharedFree = s.sharedFree := rfl
@[simp] theorem setRing_claims (s : State) (r : Nat) (v : Ring) : (setRing s r v).claims = s.claims := rfl
@[simp] theorem setRing_claimTurn (s : State) (r : Nat) (v : Ring) : (setRing s r v).claimTurn = s.claimTurn := rfl
@[simp] theorem setRing_allocator (s : State) (r : Nat) (v : Ring) : (setRing s r v).allocator = s.allocator := rfl
@[simp] theorem setRing_dispatchers (s : State) (r : Nat) (v : Ring) : (setRing s r v).dispatchers = s.dispatchers := rfl
@[simp] theorem setRing_dups (s : State) (r : Nat) (v : Ring) : (setRing s r v).dups = s.dups := rfl
@[simp] theorem setRing_dupOrder (s : State) (r : Nat) (v : Ring) : (setRing s r v).dupOrder = s.dupOrder := rfl
@[simp] theorem setRing_ageLimit (s : State) (r : Nat) (v : Ring) : (setRing s r v).ageLimit = s.ageLimit := rfl
@[simp] theorem setRing_domSel (s : State) (r : Nat) (v : Ring) : (setRing s r v).domSel = s.domSel := rfl
@[simp] theorem setRing_power (s : State) (r : Nat) (v : Ring) : (setRing s r v).power = s.power := rfl
@[simp] theorem setRing_mem (s : State) (r : Nat) (v : Ring) : (setRing s r v).mem = s.mem := rfl
@[simp] theorem setRing_mp (s : State) (r : Nat) (v : Ring) : (setRing s r v).mp = s.mp := rfl
@[simp] theorem setRing_health (s : State) (r : Nat) (v : Ring) : (setRing s r v).health = s.health := rfl
@[simp] theorem setRing_thermos (s : State) (r : Nat) (v : Ring) : (setRing s r v).thermos = s.thermos := rfl
@[simp] theorem setRing_journal (s : State) (r : Nat) (v : Ring) : (setRing s r v).journal = s.journal := rfl
@[simp] theorem setRing_rng (s : State) (r : Nat) (v : Ring) : (setRing s r v).rng = s.rng := rfl
@[simp] theorem setRing_keys (s : State) (r : Nat) (v : Ring) : (setRing s r v).keys = s.keys := rfl
@[simp] theorem setRing_loads (s : State) (r : Nat) (v : Ring) : (setRing s r v).loads = s.loads := rfl
@[simp] theorem setRing_manifests (s : State) (r : Nat) (v : Ring) : (setRing s r v).manifests = s.manifests := rfl
@[simp] theorem setRing_debugManifests (s : State) (r : Nat) (v : Ring) : (setRing s r v).debugManifests = s.debugManifests := rfl
@[simp] theorem setRing_usedCells (s : State) (r : Nat) (v : Ring) : (setRing s r v).usedCells = s.usedCells := rfl
@[simp] theorem setRing_cellsKnown (s : State) (r : Nat) (v : Ring) : (setRing s r v).cellsKnown = s.cellsKnown := rfl
@[simp] theorem setRing_cipherParts (s : State) (r : Nat) (v : Ring) : (setRing s r v).cipherParts = s.cipherParts := rfl
@[simp] theorem setRing_digestParts (s : State) (r : Nat) (v : Ring) : (setRing s r v).digestParts = s.digestParts := rfl
@[simp] theorem setRing_cipherOut (s : State) (r : Nat) (v : Ring) : (setRing s r v).cipherOut = s.cipherOut := rfl
@[simp] theorem setRing_digestOut (s : State) (r : Nat) (v : Ring) : (setRing s r v).digestOut = s.digestOut := rfl
@[simp] theorem setRing_ctxSeq (s : State) (r : Nat) (v : Ring) : (setRing s r v).ctxSeq = s.ctxSeq := rfl
@[simp] theorem setRing_lostParts (s : State) (r : Nat) (v : Ring) : (setRing s r v).lostParts = s.lostParts := rfl
@[simp] theorem setRing_meas (s : State) (r : Nat) (v : Ring) : (setRing s r v).meas = s.meas := rfl
@[simp] theorem setRing_snoops (s : State) (r : Nat) (v : Ring) : (setRing s r v).snoops = s.snoops := rfl
@[simp] theorem setRing_issue (s : State) (r : Nat) (v : Ring) : (setRing s r v).issue = s.issue := rfl
@[simp] theorem setRing_drawsStopped (s : State) (r : Nat) (v : Ring) : (setRing s r v).drawsStopped = s.drawsStopped := rfl
@[simp] theorem setRing_debugIssue (s : State) (r : Nat) (v : Ring) : (setRing s r v).debugIssue = s.debugIssue := rfl
@[simp] theorem setRing_mono (s : State) (r : Nat) (v : Ring) : (setRing s r v).mono = s.mono := rfl
@[simp] theorem setRing_live (s : State) (r : Nat) (v : Ring) : (setRing s r v).live = s.live := rfl
@[simp] theorem setRing_writeThrough (s : State) (r : Nat) (v : Ring) : (setRing s r v).writeThrough = s.writeThrough := rfl
@[simp] theorem setRing_trimRefused (s : State) (r : Nat) (v : Ring) : (setRing s r v).trimRefused = s.trimRefused := rfl
@[simp] theorem setRing_meterSel (s : State) (r : Nat) (v : Ring) : (setRing s r v).meterSel = s.meterSel := rfl
@[simp] theorem setRing_fiTarget (s : State) (r : Nat) (v : Ring) : (setRing s r v).fiTarget = s.fiTarget := rfl
@[simp] theorem setRing_fiReact (s : State) (r : Nat) (v : Ring) : (setRing s r v).fiReact = s.fiReact := rfl
@[simp] theorem setRing_fiEccAddr (s : State) (r : Nat) (v : Ring) : (setRing s r v).fiEccAddr = s.fiEccAddr := rfl
@[simp] theorem setRing_fiEccBits (s : State) (r : Nat) (v : Ring) : (setRing s r v).fiEccBits = s.fiEccBits := rfl

/-! `modRing` -/

@[simp] theorem modRing_pending (s : State) (r : Nat) (f : Ring → Ring) : (modRing s r f).pending = s.pending := rfl
@[simp] theorem modRing_boot (s : State) (r : Nat) (f : Ring → Ring) : (modRing s r f).boot = s.boot := rfl
@[simp] theorem modRing_board (s : State) (r : Nat) (f : Ring → Ring) : (modRing s r f).board = s.board := rfl
@[simp] theorem modRing_ports (s : State) (r : Nat) (f : Ring → Ring) : (modRing s r f).ports = s.ports := rfl
@[simp] theorem modRing_leaf (s : State) (r : Nat) (f : Ring → Ring) : (modRing s r f).leaf = s.leaf := rfl
@[simp] theorem modRing_hampers (s : State) (r : Nat) (f : Ring → Ring) : (modRing s r f).hampers = s.hampers := rfl
@[simp] theorem modRing_nextHamper (s : State) (r : Nat) (f : Ring → Ring) : (modRing s r f).nextHamper = s.nextHamper := rfl
@[simp] theorem modRing_floorFree (s : State) (r : Nat) (f : Ring → Ring) : (modRing s r f).floorFree = s.floorFree := rfl
@[simp] theorem modRing_sharedFree (s : State) (r : Nat) (f : Ring → Ring) : (modRing s r f).sharedFree = s.sharedFree := rfl
@[simp] theorem modRing_claims (s : State) (r : Nat) (f : Ring → Ring) : (modRing s r f).claims = s.claims := rfl
@[simp] theorem modRing_claimTurn (s : State) (r : Nat) (f : Ring → Ring) : (modRing s r f).claimTurn = s.claimTurn := rfl
@[simp] theorem modRing_allocator (s : State) (r : Nat) (f : Ring → Ring) : (modRing s r f).allocator = s.allocator := rfl
@[simp] theorem modRing_dispatchers (s : State) (r : Nat) (f : Ring → Ring) : (modRing s r f).dispatchers = s.dispatchers := rfl
@[simp] theorem modRing_dups (s : State) (r : Nat) (f : Ring → Ring) : (modRing s r f).dups = s.dups := rfl
@[simp] theorem modRing_dupOrder (s : State) (r : Nat) (f : Ring → Ring) : (modRing s r f).dupOrder = s.dupOrder := rfl
@[simp] theorem modRing_ageLimit (s : State) (r : Nat) (f : Ring → Ring) : (modRing s r f).ageLimit = s.ageLimit := rfl
@[simp] theorem modRing_domSel (s : State) (r : Nat) (f : Ring → Ring) : (modRing s r f).domSel = s.domSel := rfl
@[simp] theorem modRing_power (s : State) (r : Nat) (f : Ring → Ring) : (modRing s r f).power = s.power := rfl
@[simp] theorem modRing_mem (s : State) (r : Nat) (f : Ring → Ring) : (modRing s r f).mem = s.mem := rfl
@[simp] theorem modRing_mp (s : State) (r : Nat) (f : Ring → Ring) : (modRing s r f).mp = s.mp := rfl
@[simp] theorem modRing_health (s : State) (r : Nat) (f : Ring → Ring) : (modRing s r f).health = s.health := rfl
@[simp] theorem modRing_thermos (s : State) (r : Nat) (f : Ring → Ring) : (modRing s r f).thermos = s.thermos := rfl
@[simp] theorem modRing_journal (s : State) (r : Nat) (f : Ring → Ring) : (modRing s r f).journal = s.journal := rfl
@[simp] theorem modRing_rng (s : State) (r : Nat) (f : Ring → Ring) : (modRing s r f).rng = s.rng := rfl
@[simp] theorem modRing_keys (s : State) (r : Nat) (f : Ring → Ring) : (modRing s r f).keys = s.keys := rfl
@[simp] theorem modRing_loads (s : State) (r : Nat) (f : Ring → Ring) : (modRing s r f).loads = s.loads := rfl
@[simp] theorem modRing_manifests (s : State) (r : Nat) (f : Ring → Ring) : (modRing s r f).manifests = s.manifests := rfl
@[simp] theorem modRing_debugManifests (s : State) (r : Nat) (f : Ring → Ring) : (modRing s r f).debugManifests = s.debugManifests := rfl
@[simp] theorem modRing_usedCells (s : State) (r : Nat) (f : Ring → Ring) : (modRing s r f).usedCells = s.usedCells := rfl
@[simp] theorem modRing_cellsKnown (s : State) (r : Nat) (f : Ring → Ring) : (modRing s r f).cellsKnown = s.cellsKnown := rfl
@[simp] theorem modRing_cipherParts (s : State) (r : Nat) (f : Ring → Ring) : (modRing s r f).cipherParts = s.cipherParts := rfl
@[simp] theorem modRing_digestParts (s : State) (r : Nat) (f : Ring → Ring) : (modRing s r f).digestParts = s.digestParts := rfl
@[simp] theorem modRing_cipherOut (s : State) (r : Nat) (f : Ring → Ring) : (modRing s r f).cipherOut = s.cipherOut := rfl
@[simp] theorem modRing_digestOut (s : State) (r : Nat) (f : Ring → Ring) : (modRing s r f).digestOut = s.digestOut := rfl
@[simp] theorem modRing_ctxSeq (s : State) (r : Nat) (f : Ring → Ring) : (modRing s r f).ctxSeq = s.ctxSeq := rfl
@[simp] theorem modRing_lostParts (s : State) (r : Nat) (f : Ring → Ring) : (modRing s r f).lostParts = s.lostParts := rfl
@[simp] theorem modRing_meas (s : State) (r : Nat) (f : Ring → Ring) : (modRing s r f).meas = s.meas := rfl
@[simp] theorem modRing_snoops (s : State) (r : Nat) (f : Ring → Ring) : (modRing s r f).snoops = s.snoops := rfl
@[simp] theorem modRing_issue (s : State) (r : Nat) (f : Ring → Ring) : (modRing s r f).issue = s.issue := rfl
@[simp] theorem modRing_drawsStopped (s : State) (r : Nat) (f : Ring → Ring) : (modRing s r f).drawsStopped = s.drawsStopped := rfl
@[simp] theorem modRing_debugIssue (s : State) (r : Nat) (f : Ring → Ring) : (modRing s r f).debugIssue = s.debugIssue := rfl
@[simp] theorem modRing_mono (s : State) (r : Nat) (f : Ring → Ring) : (modRing s r f).mono = s.mono := rfl
@[simp] theorem modRing_live (s : State) (r : Nat) (f : Ring → Ring) : (modRing s r f).live = s.live := rfl
@[simp] theorem modRing_writeThrough (s : State) (r : Nat) (f : Ring → Ring) : (modRing s r f).writeThrough = s.writeThrough := rfl
@[simp] theorem modRing_trimRefused (s : State) (r : Nat) (f : Ring → Ring) : (modRing s r f).trimRefused = s.trimRefused := rfl
@[simp] theorem modRing_meterSel (s : State) (r : Nat) (f : Ring → Ring) : (modRing s r f).meterSel = s.meterSel := rfl
@[simp] theorem modRing_fiTarget (s : State) (r : Nat) (f : Ring → Ring) : (modRing s r f).fiTarget = s.fiTarget := rfl
@[simp] theorem modRing_fiReact (s : State) (r : Nat) (f : Ring → Ring) : (modRing s r f).fiReact = s.fiReact := rfl
@[simp] theorem modRing_fiEccAddr (s : State) (r : Nat) (f : Ring → Ring) : (modRing s r f).fiEccAddr = s.fiEccAddr := rfl
@[simp] theorem modRing_fiEccBits (s : State) (r : Nat) (f : Ring → Ring) : (modRing s r f).fiEccBits = s.fiEccBits := rfl

/-! `setLeaf` -/

@[simp] theorem setLeaf_pending (s : State) (r : Nat) : (setLeaf s r).pending = s.pending := rfl
@[simp] theorem setLeaf_boot (s : State) (r : Nat) : (setLeaf s r).boot = s.boot := rfl
@[simp] theorem setLeaf_board (s : State) (r : Nat) : (setLeaf s r).board = s.board := rfl
@[simp] theorem setLeaf_ports (s : State) (r : Nat) : (setLeaf s r).ports = s.ports := rfl
@[simp] theorem setLeaf_rings (s : State) (r : Nat) : (setLeaf s r).rings = s.rings := rfl
@[simp] theorem setLeaf_hampers (s : State) (r : Nat) : (setLeaf s r).hampers = s.hampers := rfl
@[simp] theorem setLeaf_nextHamper (s : State) (r : Nat) : (setLeaf s r).nextHamper = s.nextHamper := rfl
@[simp] theorem setLeaf_floorFree (s : State) (r : Nat) : (setLeaf s r).floorFree = s.floorFree := rfl
@[simp] theorem setLeaf_sharedFree (s : State) (r : Nat) : (setLeaf s r).sharedFree = s.sharedFree := rfl
@[simp] theorem setLeaf_claims (s : State) (r : Nat) : (setLeaf s r).claims = s.claims := rfl
@[simp] theorem setLeaf_claimTurn (s : State) (r : Nat) : (setLeaf s r).claimTurn = s.claimTurn := rfl
@[simp] theorem setLeaf_allocator (s : State) (r : Nat) : (setLeaf s r).allocator = s.allocator := rfl
@[simp] theorem setLeaf_dispatchers (s : State) (r : Nat) : (setLeaf s r).dispatchers = s.dispatchers := rfl
@[simp] theorem setLeaf_dups (s : State) (r : Nat) : (setLeaf s r).dups = s.dups := rfl
@[simp] theorem setLeaf_dupOrder (s : State) (r : Nat) : (setLeaf s r).dupOrder = s.dupOrder := rfl
@[simp] theorem setLeaf_ageLimit (s : State) (r : Nat) : (setLeaf s r).ageLimit = s.ageLimit := rfl
@[simp] theorem setLeaf_domSel (s : State) (r : Nat) : (setLeaf s r).domSel = s.domSel := rfl
@[simp] theorem setLeaf_power (s : State) (r : Nat) : (setLeaf s r).power = s.power := rfl
@[simp] theorem setLeaf_mem (s : State) (r : Nat) : (setLeaf s r).mem = s.mem := rfl
@[simp] theorem setLeaf_mp (s : State) (r : Nat) : (setLeaf s r).mp = s.mp := rfl
@[simp] theorem setLeaf_health (s : State) (r : Nat) : (setLeaf s r).health = s.health := rfl
@[simp] theorem setLeaf_thermos (s : State) (r : Nat) : (setLeaf s r).thermos = s.thermos := rfl
@[simp] theorem setLeaf_journal (s : State) (r : Nat) : (setLeaf s r).journal = s.journal := rfl
@[simp] theorem setLeaf_rng (s : State) (r : Nat) : (setLeaf s r).rng = s.rng := rfl
@[simp] theorem setLeaf_keys (s : State) (r : Nat) : (setLeaf s r).keys = s.keys := rfl
@[simp] theorem setLeaf_loads (s : State) (r : Nat) : (setLeaf s r).loads = s.loads := rfl
@[simp] theorem setLeaf_manifests (s : State) (r : Nat) : (setLeaf s r).manifests = s.manifests := rfl
@[simp] theorem setLeaf_debugManifests (s : State) (r : Nat) : (setLeaf s r).debugManifests = s.debugManifests := rfl
@[simp] theorem setLeaf_usedCells (s : State) (r : Nat) : (setLeaf s r).usedCells = s.usedCells := rfl
@[simp] theorem setLeaf_cellsKnown (s : State) (r : Nat) : (setLeaf s r).cellsKnown = s.cellsKnown := rfl
@[simp] theorem setLeaf_cipherParts (s : State) (r : Nat) : (setLeaf s r).cipherParts = s.cipherParts := rfl
@[simp] theorem setLeaf_digestParts (s : State) (r : Nat) : (setLeaf s r).digestParts = s.digestParts := rfl
@[simp] theorem setLeaf_cipherOut (s : State) (r : Nat) : (setLeaf s r).cipherOut = s.cipherOut := rfl
@[simp] theorem setLeaf_digestOut (s : State) (r : Nat) : (setLeaf s r).digestOut = s.digestOut := rfl
@[simp] theorem setLeaf_ctxSeq (s : State) (r : Nat) : (setLeaf s r).ctxSeq = s.ctxSeq := rfl
@[simp] theorem setLeaf_lostParts (s : State) (r : Nat) : (setLeaf s r).lostParts = s.lostParts := rfl
@[simp] theorem setLeaf_meas (s : State) (r : Nat) : (setLeaf s r).meas = s.meas := rfl
@[simp] theorem setLeaf_snoops (s : State) (r : Nat) : (setLeaf s r).snoops = s.snoops := rfl
@[simp] theorem setLeaf_issue (s : State) (r : Nat) : (setLeaf s r).issue = s.issue := rfl
@[simp] theorem setLeaf_drawsStopped (s : State) (r : Nat) : (setLeaf s r).drawsStopped = s.drawsStopped := rfl
@[simp] theorem setLeaf_debugIssue (s : State) (r : Nat) : (setLeaf s r).debugIssue = s.debugIssue := rfl
@[simp] theorem setLeaf_mono (s : State) (r : Nat) : (setLeaf s r).mono = s.mono := rfl
@[simp] theorem setLeaf_live (s : State) (r : Nat) : (setLeaf s r).live = s.live := rfl
@[simp] theorem setLeaf_writeThrough (s : State) (r : Nat) : (setLeaf s r).writeThrough = s.writeThrough := rfl
@[simp] theorem setLeaf_trimRefused (s : State) (r : Nat) : (setLeaf s r).trimRefused = s.trimRefused := rfl
@[simp] theorem setLeaf_meterSel (s : State) (r : Nat) : (setLeaf s r).meterSel = s.meterSel := rfl
@[simp] theorem setLeaf_fiTarget (s : State) (r : Nat) : (setLeaf s r).fiTarget = s.fiTarget := rfl
@[simp] theorem setLeaf_fiReact (s : State) (r : Nat) : (setLeaf s r).fiReact = s.fiReact := rfl
@[simp] theorem setLeaf_fiEccAddr (s : State) (r : Nat) : (setLeaf s r).fiEccAddr = s.fiEccAddr := rfl
@[simp] theorem setLeaf_fiEccBits (s : State) (r : Nat) : (setLeaf s r).fiEccBits = s.fiEccBits := rfl

/-! `clearLeafMask` -/

@[simp] theorem clearLeafMask_pending (s : State) (w : Nat) (m : BitVec 32) : (clearLeafMask s w m).pending = s.pending := rfl
@[simp] theorem clearLeafMask_boot (s : State) (w : Nat) (m : BitVec 32) : (clearLeafMask s w m).boot = s.boot := rfl
@[simp] theorem clearLeafMask_board (s : State) (w : Nat) (m : BitVec 32) : (clearLeafMask s w m).board = s.board := rfl
@[simp] theorem clearLeafMask_ports (s : State) (w : Nat) (m : BitVec 32) : (clearLeafMask s w m).ports = s.ports := rfl
@[simp] theorem clearLeafMask_rings (s : State) (w : Nat) (m : BitVec 32) : (clearLeafMask s w m).rings = s.rings := rfl
@[simp] theorem clearLeafMask_hampers (s : State) (w : Nat) (m : BitVec 32) : (clearLeafMask s w m).hampers = s.hampers := rfl
@[simp] theorem clearLeafMask_nextHamper (s : State) (w : Nat) (m : BitVec 32) : (clearLeafMask s w m).nextHamper = s.nextHamper := rfl
@[simp] theorem clearLeafMask_floorFree (s : State) (w : Nat) (m : BitVec 32) : (clearLeafMask s w m).floorFree = s.floorFree := rfl
@[simp] theorem clearLeafMask_sharedFree (s : State) (w : Nat) (m : BitVec 32) : (clearLeafMask s w m).sharedFree = s.sharedFree := rfl
@[simp] theorem clearLeafMask_claims (s : State) (w : Nat) (m : BitVec 32) : (clearLeafMask s w m).claims = s.claims := rfl
@[simp] theorem clearLeafMask_claimTurn (s : State) (w : Nat) (m : BitVec 32) : (clearLeafMask s w m).claimTurn = s.claimTurn := rfl
@[simp] theorem clearLeafMask_allocator (s : State) (w : Nat) (m : BitVec 32) : (clearLeafMask s w m).allocator = s.allocator := rfl
@[simp] theorem clearLeafMask_dispatchers (s : State) (w : Nat) (m : BitVec 32) : (clearLeafMask s w m).dispatchers = s.dispatchers := rfl
@[simp] theorem clearLeafMask_dups (s : State) (w : Nat) (m : BitVec 32) : (clearLeafMask s w m).dups = s.dups := rfl
@[simp] theorem clearLeafMask_dupOrder (s : State) (w : Nat) (m : BitVec 32) : (clearLeafMask s w m).dupOrder = s.dupOrder := rfl
@[simp] theorem clearLeafMask_ageLimit (s : State) (w : Nat) (m : BitVec 32) : (clearLeafMask s w m).ageLimit = s.ageLimit := rfl
@[simp] theorem clearLeafMask_domSel (s : State) (w : Nat) (m : BitVec 32) : (clearLeafMask s w m).domSel = s.domSel := rfl
@[simp] theorem clearLeafMask_power (s : State) (w : Nat) (m : BitVec 32) : (clearLeafMask s w m).power = s.power := rfl
@[simp] theorem clearLeafMask_mem (s : State) (w : Nat) (m : BitVec 32) : (clearLeafMask s w m).mem = s.mem := rfl
@[simp] theorem clearLeafMask_mp (s : State) (w : Nat) (m : BitVec 32) : (clearLeafMask s w m).mp = s.mp := rfl
@[simp] theorem clearLeafMask_health (s : State) (w : Nat) (m : BitVec 32) : (clearLeafMask s w m).health = s.health := rfl
@[simp] theorem clearLeafMask_thermos (s : State) (w : Nat) (m : BitVec 32) : (clearLeafMask s w m).thermos = s.thermos := rfl
@[simp] theorem clearLeafMask_journal (s : State) (w : Nat) (m : BitVec 32) : (clearLeafMask s w m).journal = s.journal := rfl
@[simp] theorem clearLeafMask_rng (s : State) (w : Nat) (m : BitVec 32) : (clearLeafMask s w m).rng = s.rng := rfl
@[simp] theorem clearLeafMask_keys (s : State) (w : Nat) (m : BitVec 32) : (clearLeafMask s w m).keys = s.keys := rfl
@[simp] theorem clearLeafMask_loads (s : State) (w : Nat) (m : BitVec 32) : (clearLeafMask s w m).loads = s.loads := rfl
@[simp] theorem clearLeafMask_manifests (s : State) (w : Nat) (m : BitVec 32) : (clearLeafMask s w m).manifests = s.manifests := rfl
@[simp] theorem clearLeafMask_debugManifests (s : State) (w : Nat) (m : BitVec 32) : (clearLeafMask s w m).debugManifests = s.debugManifests := rfl
@[simp] theorem clearLeafMask_usedCells (s : State) (w : Nat) (m : BitVec 32) : (clearLeafMask s w m).usedCells = s.usedCells := rfl
@[simp] theorem clearLeafMask_cellsKnown (s : State) (w : Nat) (m : BitVec 32) : (clearLeafMask s w m).cellsKnown = s.cellsKnown := rfl
@[simp] theorem clearLeafMask_cipherParts (s : State) (w : Nat) (m : BitVec 32) : (clearLeafMask s w m).cipherParts = s.cipherParts := rfl
@[simp] theorem clearLeafMask_digestParts (s : State) (w : Nat) (m : BitVec 32) : (clearLeafMask s w m).digestParts = s.digestParts := rfl
@[simp] theorem clearLeafMask_cipherOut (s : State) (w : Nat) (m : BitVec 32) : (clearLeafMask s w m).cipherOut = s.cipherOut := rfl
@[simp] theorem clearLeafMask_digestOut (s : State) (w : Nat) (m : BitVec 32) : (clearLeafMask s w m).digestOut = s.digestOut := rfl
@[simp] theorem clearLeafMask_ctxSeq (s : State) (w : Nat) (m : BitVec 32) : (clearLeafMask s w m).ctxSeq = s.ctxSeq := rfl
@[simp] theorem clearLeafMask_lostParts (s : State) (w : Nat) (m : BitVec 32) : (clearLeafMask s w m).lostParts = s.lostParts := rfl
@[simp] theorem clearLeafMask_meas (s : State) (w : Nat) (m : BitVec 32) : (clearLeafMask s w m).meas = s.meas := rfl
@[simp] theorem clearLeafMask_snoops (s : State) (w : Nat) (m : BitVec 32) : (clearLeafMask s w m).snoops = s.snoops := rfl
@[simp] theorem clearLeafMask_issue (s : State) (w : Nat) (m : BitVec 32) : (clearLeafMask s w m).issue = s.issue := rfl
@[simp] theorem clearLeafMask_drawsStopped (s : State) (w : Nat) (m : BitVec 32) : (clearLeafMask s w m).drawsStopped = s.drawsStopped := rfl
@[simp] theorem clearLeafMask_debugIssue (s : State) (w : Nat) (m : BitVec 32) : (clearLeafMask s w m).debugIssue = s.debugIssue := rfl
@[simp] theorem clearLeafMask_mono (s : State) (w : Nat) (m : BitVec 32) : (clearLeafMask s w m).mono = s.mono := rfl
@[simp] theorem clearLeafMask_live (s : State) (w : Nat) (m : BitVec 32) : (clearLeafMask s w m).live = s.live := rfl
@[simp] theorem clearLeafMask_writeThrough (s : State) (w : Nat) (m : BitVec 32) : (clearLeafMask s w m).writeThrough = s.writeThrough := rfl
@[simp] theorem clearLeafMask_trimRefused (s : State) (w : Nat) (m : BitVec 32) : (clearLeafMask s w m).trimRefused = s.trimRefused := rfl
@[simp] theorem clearLeafMask_meterSel (s : State) (w : Nat) (m : BitVec 32) : (clearLeafMask s w m).meterSel = s.meterSel := rfl
@[simp] theorem clearLeafMask_fiTarget (s : State) (w : Nat) (m : BitVec 32) : (clearLeafMask s w m).fiTarget = s.fiTarget := rfl
@[simp] theorem clearLeafMask_fiReact (s : State) (w : Nat) (m : BitVec 32) : (clearLeafMask s w m).fiReact = s.fiReact := rfl
@[simp] theorem clearLeafMask_fiEccAddr (s : State) (w : Nat) (m : BitVec 32) : (clearLeafMask s w m).fiEccAddr = s.fiEccAddr := rfl
@[simp] theorem clearLeafMask_fiEccBits (s : State) (w : Nat) (m : BitVec 32) : (clearLeafMask s w m).fiEccBits = s.fiEccBits := rfl

/-! `clearLeaf` -/

@[simp] theorem clearLeaf_pending (s : State) (r : Nat) : (clearLeaf s r).pending = s.pending := rfl
@[simp] theorem clearLeaf_boot (s : State) (r : Nat) : (clearLeaf s r).boot = s.boot := rfl
@[simp] theorem clearLeaf_board (s : State) (r : Nat) : (clearLeaf s r).board = s.board := rfl
@[simp] theorem clearLeaf_ports (s : State) (r : Nat) : (clearLeaf s r).ports = s.ports := rfl
@[simp] theorem clearLeaf_rings (s : State) (r : Nat) : (clearLeaf s r).rings = s.rings := rfl
@[simp] theorem clearLeaf_hampers (s : State) (r : Nat) : (clearLeaf s r).hampers = s.hampers := rfl
@[simp] theorem clearLeaf_nextHamper (s : State) (r : Nat) : (clearLeaf s r).nextHamper = s.nextHamper := rfl
@[simp] theorem clearLeaf_floorFree (s : State) (r : Nat) : (clearLeaf s r).floorFree = s.floorFree := rfl
@[simp] theorem clearLeaf_sharedFree (s : State) (r : Nat) : (clearLeaf s r).sharedFree = s.sharedFree := rfl
@[simp] theorem clearLeaf_claims (s : State) (r : Nat) : (clearLeaf s r).claims = s.claims := rfl
@[simp] theorem clearLeaf_claimTurn (s : State) (r : Nat) : (clearLeaf s r).claimTurn = s.claimTurn := rfl
@[simp] theorem clearLeaf_allocator (s : State) (r : Nat) : (clearLeaf s r).allocator = s.allocator := rfl
@[simp] theorem clearLeaf_dispatchers (s : State) (r : Nat) : (clearLeaf s r).dispatchers = s.dispatchers := rfl
@[simp] theorem clearLeaf_dups (s : State) (r : Nat) : (clearLeaf s r).dups = s.dups := rfl
@[simp] theorem clearLeaf_dupOrder (s : State) (r : Nat) : (clearLeaf s r).dupOrder = s.dupOrder := rfl
@[simp] theorem clearLeaf_ageLimit (s : State) (r : Nat) : (clearLeaf s r).ageLimit = s.ageLimit := rfl
@[simp] theorem clearLeaf_domSel (s : State) (r : Nat) : (clearLeaf s r).domSel = s.domSel := rfl
@[simp] theorem clearLeaf_power (s : State) (r : Nat) : (clearLeaf s r).power = s.power := rfl
@[simp] theorem clearLeaf_mem (s : State) (r : Nat) : (clearLeaf s r).mem = s.mem := rfl
@[simp] theorem clearLeaf_mp (s : State) (r : Nat) : (clearLeaf s r).mp = s.mp := rfl
@[simp] theorem clearLeaf_health (s : State) (r : Nat) : (clearLeaf s r).health = s.health := rfl
@[simp] theorem clearLeaf_thermos (s : State) (r : Nat) : (clearLeaf s r).thermos = s.thermos := rfl
@[simp] theorem clearLeaf_journal (s : State) (r : Nat) : (clearLeaf s r).journal = s.journal := rfl
@[simp] theorem clearLeaf_rng (s : State) (r : Nat) : (clearLeaf s r).rng = s.rng := rfl
@[simp] theorem clearLeaf_keys (s : State) (r : Nat) : (clearLeaf s r).keys = s.keys := rfl
@[simp] theorem clearLeaf_loads (s : State) (r : Nat) : (clearLeaf s r).loads = s.loads := rfl
@[simp] theorem clearLeaf_manifests (s : State) (r : Nat) : (clearLeaf s r).manifests = s.manifests := rfl
@[simp] theorem clearLeaf_debugManifests (s : State) (r : Nat) : (clearLeaf s r).debugManifests = s.debugManifests := rfl
@[simp] theorem clearLeaf_usedCells (s : State) (r : Nat) : (clearLeaf s r).usedCells = s.usedCells := rfl
@[simp] theorem clearLeaf_cellsKnown (s : State) (r : Nat) : (clearLeaf s r).cellsKnown = s.cellsKnown := rfl
@[simp] theorem clearLeaf_cipherParts (s : State) (r : Nat) : (clearLeaf s r).cipherParts = s.cipherParts := rfl
@[simp] theorem clearLeaf_digestParts (s : State) (r : Nat) : (clearLeaf s r).digestParts = s.digestParts := rfl
@[simp] theorem clearLeaf_cipherOut (s : State) (r : Nat) : (clearLeaf s r).cipherOut = s.cipherOut := rfl
@[simp] theorem clearLeaf_digestOut (s : State) (r : Nat) : (clearLeaf s r).digestOut = s.digestOut := rfl
@[simp] theorem clearLeaf_ctxSeq (s : State) (r : Nat) : (clearLeaf s r).ctxSeq = s.ctxSeq := rfl
@[simp] theorem clearLeaf_lostParts (s : State) (r : Nat) : (clearLeaf s r).lostParts = s.lostParts := rfl
@[simp] theorem clearLeaf_meas (s : State) (r : Nat) : (clearLeaf s r).meas = s.meas := rfl
@[simp] theorem clearLeaf_snoops (s : State) (r : Nat) : (clearLeaf s r).snoops = s.snoops := rfl
@[simp] theorem clearLeaf_issue (s : State) (r : Nat) : (clearLeaf s r).issue = s.issue := rfl
@[simp] theorem clearLeaf_drawsStopped (s : State) (r : Nat) : (clearLeaf s r).drawsStopped = s.drawsStopped := rfl
@[simp] theorem clearLeaf_debugIssue (s : State) (r : Nat) : (clearLeaf s r).debugIssue = s.debugIssue := rfl
@[simp] theorem clearLeaf_mono (s : State) (r : Nat) : (clearLeaf s r).mono = s.mono := rfl
@[simp] theorem clearLeaf_live (s : State) (r : Nat) : (clearLeaf s r).live = s.live := rfl
@[simp] theorem clearLeaf_writeThrough (s : State) (r : Nat) : (clearLeaf s r).writeThrough = s.writeThrough := rfl
@[simp] theorem clearLeaf_trimRefused (s : State) (r : Nat) : (clearLeaf s r).trimRefused = s.trimRefused := rfl
@[simp] theorem clearLeaf_meterSel (s : State) (r : Nat) : (clearLeaf s r).meterSel = s.meterSel := rfl
@[simp] theorem clearLeaf_fiTarget (s : State) (r : Nat) : (clearLeaf s r).fiTarget = s.fiTarget := rfl
@[simp] theorem clearLeaf_fiReact (s : State) (r : Nat) : (clearLeaf s r).fiReact = s.fiReact := rfl
@[simp] theorem clearLeaf_fiEccAddr (s : State) (r : Nat) : (clearLeaf s r).fiEccAddr = s.fiEccAddr := rfl
@[simp] theorem clearLeaf_fiEccBits (s : State) (r : Nat) : (clearLeaf s r).fiEccBits = s.fiEccBits := rfl

/-! `modHamper` -/

@[simp] theorem modHamper_pending (s : State) (h : Nat) (f : Hamper → Hamper) : (modHamper s h f).pending = s.pending := rfl
@[simp] theorem modHamper_boot (s : State) (h : Nat) (f : Hamper → Hamper) : (modHamper s h f).boot = s.boot := rfl
@[simp] theorem modHamper_board (s : State) (h : Nat) (f : Hamper → Hamper) : (modHamper s h f).board = s.board := rfl
@[simp] theorem modHamper_ports (s : State) (h : Nat) (f : Hamper → Hamper) : (modHamper s h f).ports = s.ports := rfl
@[simp] theorem modHamper_rings (s : State) (h : Nat) (f : Hamper → Hamper) : (modHamper s h f).rings = s.rings := rfl
@[simp] theorem modHamper_leaf (s : State) (h : Nat) (f : Hamper → Hamper) : (modHamper s h f).leaf = s.leaf := rfl
@[simp] theorem modHamper_nextHamper (s : State) (h : Nat) (f : Hamper → Hamper) : (modHamper s h f).nextHamper = s.nextHamper := rfl
@[simp] theorem modHamper_floorFree (s : State) (h : Nat) (f : Hamper → Hamper) : (modHamper s h f).floorFree = s.floorFree := rfl
@[simp] theorem modHamper_sharedFree (s : State) (h : Nat) (f : Hamper → Hamper) : (modHamper s h f).sharedFree = s.sharedFree := rfl
@[simp] theorem modHamper_claims (s : State) (h : Nat) (f : Hamper → Hamper) : (modHamper s h f).claims = s.claims := rfl
@[simp] theorem modHamper_claimTurn (s : State) (h : Nat) (f : Hamper → Hamper) : (modHamper s h f).claimTurn = s.claimTurn := rfl
@[simp] theorem modHamper_allocator (s : State) (h : Nat) (f : Hamper → Hamper) : (modHamper s h f).allocator = s.allocator := rfl
@[simp] theorem modHamper_dispatchers (s : State) (h : Nat) (f : Hamper → Hamper) : (modHamper s h f).dispatchers = s.dispatchers := rfl
@[simp] theorem modHamper_dups (s : State) (h : Nat) (f : Hamper → Hamper) : (modHamper s h f).dups = s.dups := rfl
@[simp] theorem modHamper_dupOrder (s : State) (h : Nat) (f : Hamper → Hamper) : (modHamper s h f).dupOrder = s.dupOrder := rfl
@[simp] theorem modHamper_ageLimit (s : State) (h : Nat) (f : Hamper → Hamper) : (modHamper s h f).ageLimit = s.ageLimit := rfl
@[simp] theorem modHamper_domSel (s : State) (h : Nat) (f : Hamper → Hamper) : (modHamper s h f).domSel = s.domSel := rfl
@[simp] theorem modHamper_power (s : State) (h : Nat) (f : Hamper → Hamper) : (modHamper s h f).power = s.power := rfl
@[simp] theorem modHamper_mem (s : State) (h : Nat) (f : Hamper → Hamper) : (modHamper s h f).mem = s.mem := rfl
@[simp] theorem modHamper_mp (s : State) (h : Nat) (f : Hamper → Hamper) : (modHamper s h f).mp = s.mp := rfl
@[simp] theorem modHamper_health (s : State) (h : Nat) (f : Hamper → Hamper) : (modHamper s h f).health = s.health := rfl
@[simp] theorem modHamper_thermos (s : State) (h : Nat) (f : Hamper → Hamper) : (modHamper s h f).thermos = s.thermos := rfl
@[simp] theorem modHamper_journal (s : State) (h : Nat) (f : Hamper → Hamper) : (modHamper s h f).journal = s.journal := rfl
@[simp] theorem modHamper_rng (s : State) (h : Nat) (f : Hamper → Hamper) : (modHamper s h f).rng = s.rng := rfl
@[simp] theorem modHamper_keys (s : State) (h : Nat) (f : Hamper → Hamper) : (modHamper s h f).keys = s.keys := rfl
@[simp] theorem modHamper_loads (s : State) (h : Nat) (f : Hamper → Hamper) : (modHamper s h f).loads = s.loads := rfl
@[simp] theorem modHamper_manifests (s : State) (h : Nat) (f : Hamper → Hamper) : (modHamper s h f).manifests = s.manifests := rfl
@[simp] theorem modHamper_debugManifests (s : State) (h : Nat) (f : Hamper → Hamper) : (modHamper s h f).debugManifests = s.debugManifests := rfl
@[simp] theorem modHamper_usedCells (s : State) (h : Nat) (f : Hamper → Hamper) : (modHamper s h f).usedCells = s.usedCells := rfl
@[simp] theorem modHamper_cellsKnown (s : State) (h : Nat) (f : Hamper → Hamper) : (modHamper s h f).cellsKnown = s.cellsKnown := rfl
@[simp] theorem modHamper_cipherParts (s : State) (h : Nat) (f : Hamper → Hamper) : (modHamper s h f).cipherParts = s.cipherParts := rfl
@[simp] theorem modHamper_digestParts (s : State) (h : Nat) (f : Hamper → Hamper) : (modHamper s h f).digestParts = s.digestParts := rfl
@[simp] theorem modHamper_cipherOut (s : State) (h : Nat) (f : Hamper → Hamper) : (modHamper s h f).cipherOut = s.cipherOut := rfl
@[simp] theorem modHamper_digestOut (s : State) (h : Nat) (f : Hamper → Hamper) : (modHamper s h f).digestOut = s.digestOut := rfl
@[simp] theorem modHamper_ctxSeq (s : State) (h : Nat) (f : Hamper → Hamper) : (modHamper s h f).ctxSeq = s.ctxSeq := rfl
@[simp] theorem modHamper_lostParts (s : State) (h : Nat) (f : Hamper → Hamper) : (modHamper s h f).lostParts = s.lostParts := rfl
@[simp] theorem modHamper_meas (s : State) (h : Nat) (f : Hamper → Hamper) : (modHamper s h f).meas = s.meas := rfl
@[simp] theorem modHamper_snoops (s : State) (h : Nat) (f : Hamper → Hamper) : (modHamper s h f).snoops = s.snoops := rfl
@[simp] theorem modHamper_issue (s : State) (h : Nat) (f : Hamper → Hamper) : (modHamper s h f).issue = s.issue := rfl
@[simp] theorem modHamper_drawsStopped (s : State) (h : Nat) (f : Hamper → Hamper) : (modHamper s h f).drawsStopped = s.drawsStopped := rfl
@[simp] theorem modHamper_debugIssue (s : State) (h : Nat) (f : Hamper → Hamper) : (modHamper s h f).debugIssue = s.debugIssue := rfl
@[simp] theorem modHamper_mono (s : State) (h : Nat) (f : Hamper → Hamper) : (modHamper s h f).mono = s.mono := rfl
@[simp] theorem modHamper_live (s : State) (h : Nat) (f : Hamper → Hamper) : (modHamper s h f).live = s.live := rfl
@[simp] theorem modHamper_writeThrough (s : State) (h : Nat) (f : Hamper → Hamper) : (modHamper s h f).writeThrough = s.writeThrough := rfl
@[simp] theorem modHamper_trimRefused (s : State) (h : Nat) (f : Hamper → Hamper) : (modHamper s h f).trimRefused = s.trimRefused := rfl
@[simp] theorem modHamper_meterSel (s : State) (h : Nat) (f : Hamper → Hamper) : (modHamper s h f).meterSel = s.meterSel := rfl
@[simp] theorem modHamper_fiTarget (s : State) (h : Nat) (f : Hamper → Hamper) : (modHamper s h f).fiTarget = s.fiTarget := rfl
@[simp] theorem modHamper_fiReact (s : State) (h : Nat) (f : Hamper → Hamper) : (modHamper s h f).fiReact = s.fiReact := rfl
@[simp] theorem modHamper_fiEccAddr (s : State) (h : Nat) (f : Hamper → Hamper) : (modHamper s h f).fiEccAddr = s.fiEccAddr := rfl
@[simp] theorem modHamper_fiEccBits (s : State) (h : Nat) (f : Hamper → Hamper) : (modHamper s h f).fiEccBits = s.fiEccBits := rfl

/-! `modThermos` -/

@[simp] theorem modThermos_pending (s : State) (f : Thermos → Thermos) : (modThermos s f).pending = s.pending := rfl
@[simp] theorem modThermos_boot (s : State) (f : Thermos → Thermos) : (modThermos s f).boot = s.boot := rfl
@[simp] theorem modThermos_board (s : State) (f : Thermos → Thermos) : (modThermos s f).board = s.board := rfl
@[simp] theorem modThermos_ports (s : State) (f : Thermos → Thermos) : (modThermos s f).ports = s.ports := rfl
@[simp] theorem modThermos_rings (s : State) (f : Thermos → Thermos) : (modThermos s f).rings = s.rings := rfl
@[simp] theorem modThermos_leaf (s : State) (f : Thermos → Thermos) : (modThermos s f).leaf = s.leaf := rfl
@[simp] theorem modThermos_hampers (s : State) (f : Thermos → Thermos) : (modThermos s f).hampers = s.hampers := rfl
@[simp] theorem modThermos_nextHamper (s : State) (f : Thermos → Thermos) : (modThermos s f).nextHamper = s.nextHamper := rfl
@[simp] theorem modThermos_floorFree (s : State) (f : Thermos → Thermos) : (modThermos s f).floorFree = s.floorFree := rfl
@[simp] theorem modThermos_sharedFree (s : State) (f : Thermos → Thermos) : (modThermos s f).sharedFree = s.sharedFree := rfl
@[simp] theorem modThermos_claims (s : State) (f : Thermos → Thermos) : (modThermos s f).claims = s.claims := rfl
@[simp] theorem modThermos_claimTurn (s : State) (f : Thermos → Thermos) : (modThermos s f).claimTurn = s.claimTurn := rfl
@[simp] theorem modThermos_allocator (s : State) (f : Thermos → Thermos) : (modThermos s f).allocator = s.allocator := rfl
@[simp] theorem modThermos_dispatchers (s : State) (f : Thermos → Thermos) : (modThermos s f).dispatchers = s.dispatchers := rfl
@[simp] theorem modThermos_dups (s : State) (f : Thermos → Thermos) : (modThermos s f).dups = s.dups := rfl
@[simp] theorem modThermos_dupOrder (s : State) (f : Thermos → Thermos) : (modThermos s f).dupOrder = s.dupOrder := rfl
@[simp] theorem modThermos_ageLimit (s : State) (f : Thermos → Thermos) : (modThermos s f).ageLimit = s.ageLimit := rfl
@[simp] theorem modThermos_domSel (s : State) (f : Thermos → Thermos) : (modThermos s f).domSel = s.domSel := rfl
@[simp] theorem modThermos_power (s : State) (f : Thermos → Thermos) : (modThermos s f).power = s.power := rfl
@[simp] theorem modThermos_mem (s : State) (f : Thermos → Thermos) : (modThermos s f).mem = s.mem := rfl
@[simp] theorem modThermos_mp (s : State) (f : Thermos → Thermos) : (modThermos s f).mp = s.mp := rfl
@[simp] theorem modThermos_health (s : State) (f : Thermos → Thermos) : (modThermos s f).health = s.health := rfl
@[simp] theorem modThermos_journal (s : State) (f : Thermos → Thermos) : (modThermos s f).journal = s.journal := rfl
@[simp] theorem modThermos_rng (s : State) (f : Thermos → Thermos) : (modThermos s f).rng = s.rng := rfl
@[simp] theorem modThermos_keys (s : State) (f : Thermos → Thermos) : (modThermos s f).keys = s.keys := rfl
@[simp] theorem modThermos_loads (s : State) (f : Thermos → Thermos) : (modThermos s f).loads = s.loads := rfl
@[simp] theorem modThermos_manifests (s : State) (f : Thermos → Thermos) : (modThermos s f).manifests = s.manifests := rfl
@[simp] theorem modThermos_debugManifests (s : State) (f : Thermos → Thermos) : (modThermos s f).debugManifests = s.debugManifests := rfl
@[simp] theorem modThermos_usedCells (s : State) (f : Thermos → Thermos) : (modThermos s f).usedCells = s.usedCells := rfl
@[simp] theorem modThermos_cellsKnown (s : State) (f : Thermos → Thermos) : (modThermos s f).cellsKnown = s.cellsKnown := rfl
@[simp] theorem modThermos_cipherParts (s : State) (f : Thermos → Thermos) : (modThermos s f).cipherParts = s.cipherParts := rfl
@[simp] theorem modThermos_digestParts (s : State) (f : Thermos → Thermos) : (modThermos s f).digestParts = s.digestParts := rfl
@[simp] theorem modThermos_cipherOut (s : State) (f : Thermos → Thermos) : (modThermos s f).cipherOut = s.cipherOut := rfl
@[simp] theorem modThermos_digestOut (s : State) (f : Thermos → Thermos) : (modThermos s f).digestOut = s.digestOut := rfl
@[simp] theorem modThermos_ctxSeq (s : State) (f : Thermos → Thermos) : (modThermos s f).ctxSeq = s.ctxSeq := rfl
@[simp] theorem modThermos_lostParts (s : State) (f : Thermos → Thermos) : (modThermos s f).lostParts = s.lostParts := rfl
@[simp] theorem modThermos_meas (s : State) (f : Thermos → Thermos) : (modThermos s f).meas = s.meas := rfl
@[simp] theorem modThermos_snoops (s : State) (f : Thermos → Thermos) : (modThermos s f).snoops = s.snoops := rfl
@[simp] theorem modThermos_issue (s : State) (f : Thermos → Thermos) : (modThermos s f).issue = s.issue := rfl
@[simp] theorem modThermos_drawsStopped (s : State) (f : Thermos → Thermos) : (modThermos s f).drawsStopped = s.drawsStopped := rfl
@[simp] theorem modThermos_debugIssue (s : State) (f : Thermos → Thermos) : (modThermos s f).debugIssue = s.debugIssue := rfl
@[simp] theorem modThermos_mono (s : State) (f : Thermos → Thermos) : (modThermos s f).mono = s.mono := rfl
@[simp] theorem modThermos_live (s : State) (f : Thermos → Thermos) : (modThermos s f).live = s.live := rfl
@[simp] theorem modThermos_writeThrough (s : State) (f : Thermos → Thermos) : (modThermos s f).writeThrough = s.writeThrough := rfl
@[simp] theorem modThermos_trimRefused (s : State) (f : Thermos → Thermos) : (modThermos s f).trimRefused = s.trimRefused := rfl
@[simp] theorem modThermos_meterSel (s : State) (f : Thermos → Thermos) : (modThermos s f).meterSel = s.meterSel := rfl
@[simp] theorem modThermos_fiTarget (s : State) (f : Thermos → Thermos) : (modThermos s f).fiTarget = s.fiTarget := rfl
@[simp] theorem modThermos_fiReact (s : State) (f : Thermos → Thermos) : (modThermos s f).fiReact = s.fiReact := rfl
@[simp] theorem modThermos_fiEccAddr (s : State) (f : Thermos → Thermos) : (modThermos s f).fiEccAddr = s.fiEccAddr := rfl
@[simp] theorem modThermos_fiEccBits (s : State) (f : Thermos → Thermos) : (modThermos s f).fiEccBits = s.fiEccBits := rfl

/-! `modDom` -/

@[simp] theorem modDom_pending (s : State) (d : Nat) (f : DomRec → DomRec) : (modDom s d f).pending = s.pending := rfl
@[simp] theorem modDom_boot (s : State) (d : Nat) (f : DomRec → DomRec) : (modDom s d f).boot = s.boot := rfl
@[simp] theorem modDom_board (s : State) (d : Nat) (f : DomRec → DomRec) : (modDom s d f).board = s.board := rfl
@[simp] theorem modDom_ports (s : State) (d : Nat) (f : DomRec → DomRec) : (modDom s d f).ports = s.ports := rfl
@[simp] theorem modDom_rings (s : State) (d : Nat) (f : DomRec → DomRec) : (modDom s d f).rings = s.rings := rfl
@[simp] theorem modDom_leaf (s : State) (d : Nat) (f : DomRec → DomRec) : (modDom s d f).leaf = s.leaf := rfl
@[simp] theorem modDom_hampers (s : State) (d : Nat) (f : DomRec → DomRec) : (modDom s d f).hampers = s.hampers := rfl
@[simp] theorem modDom_nextHamper (s : State) (d : Nat) (f : DomRec → DomRec) : (modDom s d f).nextHamper = s.nextHamper := rfl
@[simp] theorem modDom_floorFree (s : State) (d : Nat) (f : DomRec → DomRec) : (modDom s d f).floorFree = s.floorFree := rfl
@[simp] theorem modDom_sharedFree (s : State) (d : Nat) (f : DomRec → DomRec) : (modDom s d f).sharedFree = s.sharedFree := rfl
@[simp] theorem modDom_claims (s : State) (d : Nat) (f : DomRec → DomRec) : (modDom s d f).claims = s.claims := rfl
@[simp] theorem modDom_claimTurn (s : State) (d : Nat) (f : DomRec → DomRec) : (modDom s d f).claimTurn = s.claimTurn := rfl
@[simp] theorem modDom_allocator (s : State) (d : Nat) (f : DomRec → DomRec) : (modDom s d f).allocator = s.allocator := rfl
@[simp] theorem modDom_dispatchers (s : State) (d : Nat) (f : DomRec → DomRec) : (modDom s d f).dispatchers = s.dispatchers := rfl
@[simp] theorem modDom_dups (s : State) (d : Nat) (f : DomRec → DomRec) : (modDom s d f).dups = s.dups := rfl
@[simp] theorem modDom_dupOrder (s : State) (d : Nat) (f : DomRec → DomRec) : (modDom s d f).dupOrder = s.dupOrder := rfl
@[simp] theorem modDom_ageLimit (s : State) (d : Nat) (f : DomRec → DomRec) : (modDom s d f).ageLimit = s.ageLimit := rfl
@[simp] theorem modDom_domSel (s : State) (d : Nat) (f : DomRec → DomRec) : (modDom s d f).domSel = s.domSel := rfl
@[simp] theorem modDom_power (s : State) (d : Nat) (f : DomRec → DomRec) : (modDom s d f).power = s.power := rfl
@[simp] theorem modDom_mem (s : State) (d : Nat) (f : DomRec → DomRec) : (modDom s d f).mem = s.mem := rfl
@[simp] theorem modDom_mp (s : State) (d : Nat) (f : DomRec → DomRec) : (modDom s d f).mp = s.mp := rfl
@[simp] theorem modDom_health (s : State) (d : Nat) (f : DomRec → DomRec) : (modDom s d f).health = s.health := rfl
@[simp] theorem modDom_journal (s : State) (d : Nat) (f : DomRec → DomRec) : (modDom s d f).journal = s.journal := rfl
@[simp] theorem modDom_rng (s : State) (d : Nat) (f : DomRec → DomRec) : (modDom s d f).rng = s.rng := rfl
@[simp] theorem modDom_keys (s : State) (d : Nat) (f : DomRec → DomRec) : (modDom s d f).keys = s.keys := rfl
@[simp] theorem modDom_loads (s : State) (d : Nat) (f : DomRec → DomRec) : (modDom s d f).loads = s.loads := rfl
@[simp] theorem modDom_manifests (s : State) (d : Nat) (f : DomRec → DomRec) : (modDom s d f).manifests = s.manifests := rfl
@[simp] theorem modDom_debugManifests (s : State) (d : Nat) (f : DomRec → DomRec) : (modDom s d f).debugManifests = s.debugManifests := rfl
@[simp] theorem modDom_usedCells (s : State) (d : Nat) (f : DomRec → DomRec) : (modDom s d f).usedCells = s.usedCells := rfl
@[simp] theorem modDom_cellsKnown (s : State) (d : Nat) (f : DomRec → DomRec) : (modDom s d f).cellsKnown = s.cellsKnown := rfl
@[simp] theorem modDom_cipherParts (s : State) (d : Nat) (f : DomRec → DomRec) : (modDom s d f).cipherParts = s.cipherParts := rfl
@[simp] theorem modDom_digestParts (s : State) (d : Nat) (f : DomRec → DomRec) : (modDom s d f).digestParts = s.digestParts := rfl
@[simp] theorem modDom_cipherOut (s : State) (d : Nat) (f : DomRec → DomRec) : (modDom s d f).cipherOut = s.cipherOut := rfl
@[simp] theorem modDom_digestOut (s : State) (d : Nat) (f : DomRec → DomRec) : (modDom s d f).digestOut = s.digestOut := rfl
@[simp] theorem modDom_ctxSeq (s : State) (d : Nat) (f : DomRec → DomRec) : (modDom s d f).ctxSeq = s.ctxSeq := rfl
@[simp] theorem modDom_lostParts (s : State) (d : Nat) (f : DomRec → DomRec) : (modDom s d f).lostParts = s.lostParts := rfl
@[simp] theorem modDom_meas (s : State) (d : Nat) (f : DomRec → DomRec) : (modDom s d f).meas = s.meas := rfl
@[simp] theorem modDom_snoops (s : State) (d : Nat) (f : DomRec → DomRec) : (modDom s d f).snoops = s.snoops := rfl
@[simp] theorem modDom_issue (s : State) (d : Nat) (f : DomRec → DomRec) : (modDom s d f).issue = s.issue := rfl
@[simp] theorem modDom_drawsStopped (s : State) (d : Nat) (f : DomRec → DomRec) : (modDom s d f).drawsStopped = s.drawsStopped := rfl
@[simp] theorem modDom_debugIssue (s : State) (d : Nat) (f : DomRec → DomRec) : (modDom s d f).debugIssue = s.debugIssue := rfl
@[simp] theorem modDom_mono (s : State) (d : Nat) (f : DomRec → DomRec) : (modDom s d f).mono = s.mono := rfl
@[simp] theorem modDom_live (s : State) (d : Nat) (f : DomRec → DomRec) : (modDom s d f).live = s.live := rfl
@[simp] theorem modDom_writeThrough (s : State) (d : Nat) (f : DomRec → DomRec) : (modDom s d f).writeThrough = s.writeThrough := rfl
@[simp] theorem modDom_trimRefused (s : State) (d : Nat) (f : DomRec → DomRec) : (modDom s d f).trimRefused = s.trimRefused := rfl
@[simp] theorem modDom_meterSel (s : State) (d : Nat) (f : DomRec → DomRec) : (modDom s d f).meterSel = s.meterSel := rfl
@[simp] theorem modDom_fiTarget (s : State) (d : Nat) (f : DomRec → DomRec) : (modDom s d f).fiTarget = s.fiTarget := rfl
@[simp] theorem modDom_fiReact (s : State) (d : Nat) (f : DomRec → DomRec) : (modDom s d f).fiReact = s.fiReact := rfl
@[simp] theorem modDom_fiEccAddr (s : State) (d : Nat) (f : DomRec → DomRec) : (modDom s d f).fiEccAddr = s.fiEccAddr := rfl
@[simp] theorem modDom_fiEccBits (s : State) (d : Nat) (f : DomRec → DomRec) : (modDom s d f).fiEccBits = s.fiEccBits := rfl

/-! `freeEngines` -/

@[simp] theorem freeEngines_pending (s : State) (h : Nat) : (freeEngines s h).pending = s.pending := rfl
@[simp] theorem freeEngines_boot (s : State) (h : Nat) : (freeEngines s h).boot = s.boot := rfl
@[simp] theorem freeEngines_board (s : State) (h : Nat) : (freeEngines s h).board = s.board := rfl
@[simp] theorem freeEngines_ports (s : State) (h : Nat) : (freeEngines s h).ports = s.ports := rfl
@[simp] theorem freeEngines_rings (s : State) (h : Nat) : (freeEngines s h).rings = s.rings := rfl
@[simp] theorem freeEngines_leaf (s : State) (h : Nat) : (freeEngines s h).leaf = s.leaf := rfl
@[simp] theorem freeEngines_hampers (s : State) (h : Nat) : (freeEngines s h).hampers = s.hampers := rfl
@[simp] theorem freeEngines_nextHamper (s : State) (h : Nat) : (freeEngines s h).nextHamper = s.nextHamper := rfl
@[simp] theorem freeEngines_floorFree (s : State) (h : Nat) : (freeEngines s h).floorFree = s.floorFree := rfl
@[simp] theorem freeEngines_sharedFree (s : State) (h : Nat) : (freeEngines s h).sharedFree = s.sharedFree := rfl
@[simp] theorem freeEngines_claims (s : State) (h : Nat) : (freeEngines s h).claims = s.claims := rfl
@[simp] theorem freeEngines_claimTurn (s : State) (h : Nat) : (freeEngines s h).claimTurn = s.claimTurn := rfl
@[simp] theorem freeEngines_allocator (s : State) (h : Nat) : (freeEngines s h).allocator = s.allocator := rfl
@[simp] theorem freeEngines_dispatchers (s : State) (h : Nat) : (freeEngines s h).dispatchers = s.dispatchers := rfl
@[simp] theorem freeEngines_dups (s : State) (h : Nat) : (freeEngines s h).dups = s.dups := rfl
@[simp] theorem freeEngines_dupOrder (s : State) (h : Nat) : (freeEngines s h).dupOrder = s.dupOrder := rfl
@[simp] theorem freeEngines_ageLimit (s : State) (h : Nat) : (freeEngines s h).ageLimit = s.ageLimit := rfl
@[simp] theorem freeEngines_domSel (s : State) (h : Nat) : (freeEngines s h).domSel = s.domSel := rfl
@[simp] theorem freeEngines_mem (s : State) (h : Nat) : (freeEngines s h).mem = s.mem := rfl
@[simp] theorem freeEngines_mp (s : State) (h : Nat) : (freeEngines s h).mp = s.mp := rfl
@[simp] theorem freeEngines_health (s : State) (h : Nat) : (freeEngines s h).health = s.health := rfl
@[simp] theorem freeEngines_thermos (s : State) (h : Nat) : (freeEngines s h).thermos = s.thermos := rfl
@[simp] theorem freeEngines_journal (s : State) (h : Nat) : (freeEngines s h).journal = s.journal := rfl
@[simp] theorem freeEngines_rng (s : State) (h : Nat) : (freeEngines s h).rng = s.rng := rfl
@[simp] theorem freeEngines_keys (s : State) (h : Nat) : (freeEngines s h).keys = s.keys := rfl
@[simp] theorem freeEngines_loads (s : State) (h : Nat) : (freeEngines s h).loads = s.loads := rfl
@[simp] theorem freeEngines_manifests (s : State) (h : Nat) : (freeEngines s h).manifests = s.manifests := rfl
@[simp] theorem freeEngines_debugManifests (s : State) (h : Nat) : (freeEngines s h).debugManifests = s.debugManifests := rfl
@[simp] theorem freeEngines_usedCells (s : State) (h : Nat) : (freeEngines s h).usedCells = s.usedCells := rfl
@[simp] theorem freeEngines_cellsKnown (s : State) (h : Nat) : (freeEngines s h).cellsKnown = s.cellsKnown := rfl
@[simp] theorem freeEngines_cipherParts (s : State) (h : Nat) : (freeEngines s h).cipherParts = s.cipherParts := rfl
@[simp] theorem freeEngines_digestParts (s : State) (h : Nat) : (freeEngines s h).digestParts = s.digestParts := rfl
@[simp] theorem freeEngines_cipherOut (s : State) (h : Nat) : (freeEngines s h).cipherOut = s.cipherOut := rfl
@[simp] theorem freeEngines_digestOut (s : State) (h : Nat) : (freeEngines s h).digestOut = s.digestOut := rfl
@[simp] theorem freeEngines_ctxSeq (s : State) (h : Nat) : (freeEngines s h).ctxSeq = s.ctxSeq := rfl
@[simp] theorem freeEngines_lostParts (s : State) (h : Nat) : (freeEngines s h).lostParts = s.lostParts := rfl
@[simp] theorem freeEngines_meas (s : State) (h : Nat) : (freeEngines s h).meas = s.meas := rfl
@[simp] theorem freeEngines_snoops (s : State) (h : Nat) : (freeEngines s h).snoops = s.snoops := rfl
@[simp] theorem freeEngines_issue (s : State) (h : Nat) : (freeEngines s h).issue = s.issue := rfl
@[simp] theorem freeEngines_drawsStopped (s : State) (h : Nat) : (freeEngines s h).drawsStopped = s.drawsStopped := rfl
@[simp] theorem freeEngines_debugIssue (s : State) (h : Nat) : (freeEngines s h).debugIssue = s.debugIssue := rfl
@[simp] theorem freeEngines_mono (s : State) (h : Nat) : (freeEngines s h).mono = s.mono := rfl
@[simp] theorem freeEngines_live (s : State) (h : Nat) : (freeEngines s h).live = s.live := rfl
@[simp] theorem freeEngines_writeThrough (s : State) (h : Nat) : (freeEngines s h).writeThrough = s.writeThrough := rfl
@[simp] theorem freeEngines_trimRefused (s : State) (h : Nat) : (freeEngines s h).trimRefused = s.trimRefused := rfl
@[simp] theorem freeEngines_meterSel (s : State) (h : Nat) : (freeEngines s h).meterSel = s.meterSel := rfl
@[simp] theorem freeEngines_fiTarget (s : State) (h : Nat) : (freeEngines s h).fiTarget = s.fiTarget := rfl
@[simp] theorem freeEngines_fiReact (s : State) (h : Nat) : (freeEngines s h).fiReact = s.fiReact := rfl
@[simp] theorem freeEngines_fiEccAddr (s : State) (h : Nat) : (freeEngines s h).fiEccAddr = s.fiEccAddr := rfl
@[simp] theorem freeEngines_fiEccBits (s : State) (h : Nat) : (freeEngines s h).fiEccBits = s.fiEccBits := rfl

/-! `settlePart`, `settleCurrent`: only the part-state records. -/

@[simp] theorem settlePart_pending (r : Nat) (e : Bytes) (d : Done) (s : State) : (settlePart r e d s).pending = s.pending := by
  unfold settlePart; dsimp only; split; rfl; split <;> rfl
@[simp] theorem settlePart_boot (r : Nat) (e : Bytes) (d : Done) (s : State) : (settlePart r e d s).boot = s.boot := by
  unfold settlePart; dsimp only; split; rfl; split <;> rfl
@[simp] theorem settlePart_board (r : Nat) (e : Bytes) (d : Done) (s : State) : (settlePart r e d s).board = s.board := by
  unfold settlePart; dsimp only; split; rfl; split <;> rfl
@[simp] theorem settlePart_ports (r : Nat) (e : Bytes) (d : Done) (s : State) : (settlePart r e d s).ports = s.ports := by
  unfold settlePart; dsimp only; split; rfl; split <;> rfl
@[simp] theorem settlePart_rings (r : Nat) (e : Bytes) (d : Done) (s : State) : (settlePart r e d s).rings = s.rings := by
  unfold settlePart; dsimp only; split; rfl; split <;> rfl
@[simp] theorem settlePart_leaf (r : Nat) (e : Bytes) (d : Done) (s : State) : (settlePart r e d s).leaf = s.leaf := by
  unfold settlePart; dsimp only; split; rfl; split <;> rfl
@[simp] theorem settlePart_hampers (r : Nat) (e : Bytes) (d : Done) (s : State) : (settlePart r e d s).hampers = s.hampers := by
  unfold settlePart; dsimp only; split; rfl; split <;> rfl
@[simp] theorem settlePart_nextHamper (r : Nat) (e : Bytes) (d : Done) (s : State) : (settlePart r e d s).nextHamper = s.nextHamper := by
  unfold settlePart; dsimp only; split; rfl; split <;> rfl
@[simp] theorem settlePart_floorFree (r : Nat) (e : Bytes) (d : Done) (s : State) : (settlePart r e d s).floorFree = s.floorFree := by
  unfold settlePart; dsimp only; split; rfl; split <;> rfl
@[simp] theorem settlePart_sharedFree (r : Nat) (e : Bytes) (d : Done) (s : State) : (settlePart r e d s).sharedFree = s.sharedFree := by
  unfold settlePart; dsimp only; split; rfl; split <;> rfl
@[simp] theorem settlePart_claims (r : Nat) (e : Bytes) (d : Done) (s : State) : (settlePart r e d s).claims = s.claims := by
  unfold settlePart; dsimp only; split; rfl; split <;> rfl
@[simp] theorem settlePart_claimTurn (r : Nat) (e : Bytes) (d : Done) (s : State) : (settlePart r e d s).claimTurn = s.claimTurn := by
  unfold settlePart; dsimp only; split; rfl; split <;> rfl
@[simp] theorem settlePart_allocator (r : Nat) (e : Bytes) (d : Done) (s : State) : (settlePart r e d s).allocator = s.allocator := by
  unfold settlePart; dsimp only; split; rfl; split <;> rfl
@[simp] theorem settlePart_dispatchers (r : Nat) (e : Bytes) (d : Done) (s : State) : (settlePart r e d s).dispatchers = s.dispatchers := by
  unfold settlePart; dsimp only; split; rfl; split <;> rfl
@[simp] theorem settlePart_dups (r : Nat) (e : Bytes) (d : Done) (s : State) : (settlePart r e d s).dups = s.dups := by
  unfold settlePart; dsimp only; split; rfl; split <;> rfl
@[simp] theorem settlePart_dupOrder (r : Nat) (e : Bytes) (d : Done) (s : State) : (settlePart r e d s).dupOrder = s.dupOrder := by
  unfold settlePart; dsimp only; split; rfl; split <;> rfl
@[simp] theorem settlePart_ageLimit (r : Nat) (e : Bytes) (d : Done) (s : State) : (settlePart r e d s).ageLimit = s.ageLimit := by
  unfold settlePart; dsimp only; split; rfl; split <;> rfl
@[simp] theorem settlePart_domSel (r : Nat) (e : Bytes) (d : Done) (s : State) : (settlePart r e d s).domSel = s.domSel := by
  unfold settlePart; dsimp only; split; rfl; split <;> rfl
@[simp] theorem settlePart_power (r : Nat) (e : Bytes) (d : Done) (s : State) : (settlePart r e d s).power = s.power := by
  unfold settlePart; dsimp only; split; rfl; split <;> rfl
@[simp] theorem settlePart_mem (r : Nat) (e : Bytes) (d : Done) (s : State) : (settlePart r e d s).mem = s.mem := by
  unfold settlePart; dsimp only; split; rfl; split <;> rfl
@[simp] theorem settlePart_mp (r : Nat) (e : Bytes) (d : Done) (s : State) : (settlePart r e d s).mp = s.mp := by
  unfold settlePart; dsimp only; split; rfl; split <;> rfl
@[simp] theorem settlePart_health (r : Nat) (e : Bytes) (d : Done) (s : State) : (settlePart r e d s).health = s.health := by
  unfold settlePart; dsimp only; split; rfl; split <;> rfl
@[simp] theorem settlePart_thermos (r : Nat) (e : Bytes) (d : Done) (s : State) : (settlePart r e d s).thermos = s.thermos := by
  unfold settlePart; dsimp only; split; rfl; split <;> rfl
@[simp] theorem settlePart_journal (r : Nat) (e : Bytes) (d : Done) (s : State) : (settlePart r e d s).journal = s.journal := by
  unfold settlePart; dsimp only; split; rfl; split <;> rfl
@[simp] theorem settlePart_rng (r : Nat) (e : Bytes) (d : Done) (s : State) : (settlePart r e d s).rng = s.rng := by
  unfold settlePart; dsimp only; split; rfl; split <;> rfl
@[simp] theorem settlePart_keys (r : Nat) (e : Bytes) (d : Done) (s : State) : (settlePart r e d s).keys = s.keys := by
  unfold settlePart; dsimp only; split; rfl; split <;> rfl
@[simp] theorem settlePart_loads (r : Nat) (e : Bytes) (d : Done) (s : State) : (settlePart r e d s).loads = s.loads := by
  unfold settlePart; dsimp only; split; rfl; split <;> rfl
@[simp] theorem settlePart_manifests (r : Nat) (e : Bytes) (d : Done) (s : State) : (settlePart r e d s).manifests = s.manifests := by
  unfold settlePart; dsimp only; split; rfl; split <;> rfl
@[simp] theorem settlePart_debugManifests (r : Nat) (e : Bytes) (d : Done) (s : State) : (settlePart r e d s).debugManifests = s.debugManifests := by
  unfold settlePart; dsimp only; split; rfl; split <;> rfl
@[simp] theorem settlePart_usedCells (r : Nat) (e : Bytes) (d : Done) (s : State) : (settlePart r e d s).usedCells = s.usedCells := by
  unfold settlePart; dsimp only; split; rfl; split <;> rfl
@[simp] theorem settlePart_cellsKnown (r : Nat) (e : Bytes) (d : Done) (s : State) : (settlePart r e d s).cellsKnown = s.cellsKnown := by
  unfold settlePart; dsimp only; split; rfl; split <;> rfl
@[simp] theorem settlePart_cipherOut (r : Nat) (e : Bytes) (d : Done) (s : State) : (settlePart r e d s).cipherOut = s.cipherOut := by
  unfold settlePart; dsimp only; split; rfl; split <;> rfl
@[simp] theorem settlePart_digestOut (r : Nat) (e : Bytes) (d : Done) (s : State) : (settlePart r e d s).digestOut = s.digestOut := by
  unfold settlePart; dsimp only; split; rfl; split <;> rfl
@[simp] theorem settlePart_ctxSeq (r : Nat) (e : Bytes) (d : Done) (s : State) : (settlePart r e d s).ctxSeq = s.ctxSeq := by
  unfold settlePart; dsimp only; split; rfl; split <;> rfl
@[simp] theorem settlePart_lostParts (r : Nat) (e : Bytes) (d : Done) (s : State) : (settlePart r e d s).lostParts = s.lostParts := by
  unfold settlePart; dsimp only; split; rfl; split <;> rfl
@[simp] theorem settlePart_meas (r : Nat) (e : Bytes) (d : Done) (s : State) : (settlePart r e d s).meas = s.meas := by
  unfold settlePart; dsimp only; split; rfl; split <;> rfl
@[simp] theorem settlePart_snoops (r : Nat) (e : Bytes) (d : Done) (s : State) : (settlePart r e d s).snoops = s.snoops := by
  unfold settlePart; dsimp only; split; rfl; split <;> rfl
@[simp] theorem settlePart_issue (r : Nat) (e : Bytes) (d : Done) (s : State) : (settlePart r e d s).issue = s.issue := by
  unfold settlePart; dsimp only; split; rfl; split <;> rfl
@[simp] theorem settlePart_drawsStopped (r : Nat) (e : Bytes) (d : Done) (s : State) : (settlePart r e d s).drawsStopped = s.drawsStopped := by
  unfold settlePart; dsimp only; split; rfl; split <;> rfl
@[simp] theorem settlePart_debugIssue (r : Nat) (e : Bytes) (d : Done) (s : State) : (settlePart r e d s).debugIssue = s.debugIssue := by
  unfold settlePart; dsimp only; split; rfl; split <;> rfl
@[simp] theorem settlePart_mono (r : Nat) (e : Bytes) (d : Done) (s : State) : (settlePart r e d s).mono = s.mono := by
  unfold settlePart; dsimp only; split; rfl; split <;> rfl
@[simp] theorem settlePart_live (r : Nat) (e : Bytes) (d : Done) (s : State) : (settlePart r e d s).live = s.live := by
  unfold settlePart; dsimp only; split; rfl; split <;> rfl
@[simp] theorem settlePart_writeThrough (r : Nat) (e : Bytes) (d : Done) (s : State) : (settlePart r e d s).writeThrough = s.writeThrough := by
  unfold settlePart; dsimp only; split; rfl; split <;> rfl
@[simp] theorem settlePart_trimRefused (r : Nat) (e : Bytes) (d : Done) (s : State) : (settlePart r e d s).trimRefused = s.trimRefused := by
  unfold settlePart; dsimp only; split; rfl; split <;> rfl
@[simp] theorem settlePart_meterSel (r : Nat) (e : Bytes) (d : Done) (s : State) : (settlePart r e d s).meterSel = s.meterSel := by
  unfold settlePart; dsimp only; split; rfl; split <;> rfl
@[simp] theorem settlePart_fiTarget (r : Nat) (e : Bytes) (d : Done) (s : State) : (settlePart r e d s).fiTarget = s.fiTarget := by
  unfold settlePart; dsimp only; split; rfl; split <;> rfl
@[simp] theorem settlePart_fiReact (r : Nat) (e : Bytes) (d : Done) (s : State) : (settlePart r e d s).fiReact = s.fiReact := by
  unfold settlePart; dsimp only; split; rfl; split <;> rfl
@[simp] theorem settlePart_fiEccAddr (r : Nat) (e : Bytes) (d : Done) (s : State) : (settlePart r e d s).fiEccAddr = s.fiEccAddr := by
  unfold settlePart; dsimp only; split; rfl; split <;> rfl
@[simp] theorem settlePart_fiEccBits (r : Nat) (e : Bytes) (d : Done) (s : State) : (settlePart r e d s).fiEccBits = s.fiEccBits := by
  unfold settlePart; dsimp only; split; rfl; split <;> rfl
@[simp] theorem settleCurrent_pending (h : Nat) (d : Done) (s : State) : (settleCurrent h d s).pending = s.pending := by
  unfold settleCurrent; split; (split; exact settlePart_pending _ _ _ _; rfl); rfl
@[simp] theorem settleCurrent_boot (h : Nat) (d : Done) (s : State) : (settleCurrent h d s).boot = s.boot := by
  unfold settleCurrent; split; (split; exact settlePart_boot _ _ _ _; rfl); rfl
@[simp] theorem settleCurrent_board (h : Nat) (d : Done) (s : State) : (settleCurrent h d s).board = s.board := by
  unfold settleCurrent; split; (split; exact settlePart_board _ _ _ _; rfl); rfl
@[simp] theorem settleCurrent_ports (h : Nat) (d : Done) (s : State) : (settleCurrent h d s).ports = s.ports := by
  unfold settleCurrent; split; (split; exact settlePart_ports _ _ _ _; rfl); rfl
@[simp] theorem settleCurrent_rings (h : Nat) (d : Done) (s : State) : (settleCurrent h d s).rings = s.rings := by
  unfold settleCurrent; split; (split; exact settlePart_rings _ _ _ _; rfl); rfl
@[simp] theorem settleCurrent_leaf (h : Nat) (d : Done) (s : State) : (settleCurrent h d s).leaf = s.leaf := by
  unfold settleCurrent; split; (split; exact settlePart_leaf _ _ _ _; rfl); rfl
@[simp] theorem settleCurrent_hampers (h : Nat) (d : Done) (s : State) : (settleCurrent h d s).hampers = s.hampers := by
  unfold settleCurrent; split; (split; exact settlePart_hampers _ _ _ _; rfl); rfl
@[simp] theorem settleCurrent_nextHamper (h : Nat) (d : Done) (s : State) : (settleCurrent h d s).nextHamper = s.nextHamper := by
  unfold settleCurrent; split; (split; exact settlePart_nextHamper _ _ _ _; rfl); rfl
@[simp] theorem settleCurrent_floorFree (h : Nat) (d : Done) (s : State) : (settleCurrent h d s).floorFree = s.floorFree := by
  unfold settleCurrent; split; (split; exact settlePart_floorFree _ _ _ _; rfl); rfl
@[simp] theorem settleCurrent_sharedFree (h : Nat) (d : Done) (s : State) : (settleCurrent h d s).sharedFree = s.sharedFree := by
  unfold settleCurrent; split; (split; exact settlePart_sharedFree _ _ _ _; rfl); rfl
@[simp] theorem settleCurrent_claims (h : Nat) (d : Done) (s : State) : (settleCurrent h d s).claims = s.claims := by
  unfold settleCurrent; split; (split; exact settlePart_claims _ _ _ _; rfl); rfl
@[simp] theorem settleCurrent_claimTurn (h : Nat) (d : Done) (s : State) : (settleCurrent h d s).claimTurn = s.claimTurn := by
  unfold settleCurrent; split; (split; exact settlePart_claimTurn _ _ _ _; rfl); rfl
@[simp] theorem settleCurrent_allocator (h : Nat) (d : Done) (s : State) : (settleCurrent h d s).allocator = s.allocator := by
  unfold settleCurrent; split; (split; exact settlePart_allocator _ _ _ _; rfl); rfl
@[simp] theorem settleCurrent_dispatchers (h : Nat) (d : Done) (s : State) : (settleCurrent h d s).dispatchers = s.dispatchers := by
  unfold settleCurrent; split; (split; exact settlePart_dispatchers _ _ _ _; rfl); rfl
@[simp] theorem settleCurrent_dups (h : Nat) (d : Done) (s : State) : (settleCurrent h d s).dups = s.dups := by
  unfold settleCurrent; split; (split; exact settlePart_dups _ _ _ _; rfl); rfl
@[simp] theorem settleCurrent_dupOrder (h : Nat) (d : Done) (s : State) : (settleCurrent h d s).dupOrder = s.dupOrder := by
  unfold settleCurrent; split; (split; exact settlePart_dupOrder _ _ _ _; rfl); rfl
@[simp] theorem settleCurrent_ageLimit (h : Nat) (d : Done) (s : State) : (settleCurrent h d s).ageLimit = s.ageLimit := by
  unfold settleCurrent; split; (split; exact settlePart_ageLimit _ _ _ _; rfl); rfl
@[simp] theorem settleCurrent_domSel (h : Nat) (d : Done) (s : State) : (settleCurrent h d s).domSel = s.domSel := by
  unfold settleCurrent; split; (split; exact settlePart_domSel _ _ _ _; rfl); rfl
@[simp] theorem settleCurrent_power (h : Nat) (d : Done) (s : State) : (settleCurrent h d s).power = s.power := by
  unfold settleCurrent; split; (split; exact settlePart_power _ _ _ _; rfl); rfl
@[simp] theorem settleCurrent_mem (h : Nat) (d : Done) (s : State) : (settleCurrent h d s).mem = s.mem := by
  unfold settleCurrent; split; (split; exact settlePart_mem _ _ _ _; rfl); rfl
@[simp] theorem settleCurrent_mp (h : Nat) (d : Done) (s : State) : (settleCurrent h d s).mp = s.mp := by
  unfold settleCurrent; split; (split; exact settlePart_mp _ _ _ _; rfl); rfl
@[simp] theorem settleCurrent_health (h : Nat) (d : Done) (s : State) : (settleCurrent h d s).health = s.health := by
  unfold settleCurrent; split; (split; exact settlePart_health _ _ _ _; rfl); rfl
@[simp] theorem settleCurrent_thermos (h : Nat) (d : Done) (s : State) : (settleCurrent h d s).thermos = s.thermos := by
  unfold settleCurrent; split; (split; exact settlePart_thermos _ _ _ _; rfl); rfl
@[simp] theorem settleCurrent_journal (h : Nat) (d : Done) (s : State) : (settleCurrent h d s).journal = s.journal := by
  unfold settleCurrent; split; (split; exact settlePart_journal _ _ _ _; rfl); rfl
@[simp] theorem settleCurrent_rng (h : Nat) (d : Done) (s : State) : (settleCurrent h d s).rng = s.rng := by
  unfold settleCurrent; split; (split; exact settlePart_rng _ _ _ _; rfl); rfl
@[simp] theorem settleCurrent_keys (h : Nat) (d : Done) (s : State) : (settleCurrent h d s).keys = s.keys := by
  unfold settleCurrent; split; (split; exact settlePart_keys _ _ _ _; rfl); rfl
@[simp] theorem settleCurrent_loads (h : Nat) (d : Done) (s : State) : (settleCurrent h d s).loads = s.loads := by
  unfold settleCurrent; split; (split; exact settlePart_loads _ _ _ _; rfl); rfl
@[simp] theorem settleCurrent_manifests (h : Nat) (d : Done) (s : State) : (settleCurrent h d s).manifests = s.manifests := by
  unfold settleCurrent; split; (split; exact settlePart_manifests _ _ _ _; rfl); rfl
@[simp] theorem settleCurrent_debugManifests (h : Nat) (d : Done) (s : State) : (settleCurrent h d s).debugManifests = s.debugManifests := by
  unfold settleCurrent; split; (split; exact settlePart_debugManifests _ _ _ _; rfl); rfl
@[simp] theorem settleCurrent_usedCells (h : Nat) (d : Done) (s : State) : (settleCurrent h d s).usedCells = s.usedCells := by
  unfold settleCurrent; split; (split; exact settlePart_usedCells _ _ _ _; rfl); rfl
@[simp] theorem settleCurrent_cellsKnown (h : Nat) (d : Done) (s : State) : (settleCurrent h d s).cellsKnown = s.cellsKnown := by
  unfold settleCurrent; split; (split; exact settlePart_cellsKnown _ _ _ _; rfl); rfl
@[simp] theorem settleCurrent_cipherOut (h : Nat) (d : Done) (s : State) : (settleCurrent h d s).cipherOut = s.cipherOut := by
  unfold settleCurrent; split; (split; exact settlePart_cipherOut _ _ _ _; rfl); rfl
@[simp] theorem settleCurrent_digestOut (h : Nat) (d : Done) (s : State) : (settleCurrent h d s).digestOut = s.digestOut := by
  unfold settleCurrent; split; (split; exact settlePart_digestOut _ _ _ _; rfl); rfl
@[simp] theorem settleCurrent_ctxSeq (h : Nat) (d : Done) (s : State) : (settleCurrent h d s).ctxSeq = s.ctxSeq := by
  unfold settleCurrent; split; (split; exact settlePart_ctxSeq _ _ _ _; rfl); rfl
@[simp] theorem settleCurrent_lostParts (h : Nat) (d : Done) (s : State) : (settleCurrent h d s).lostParts = s.lostParts := by
  unfold settleCurrent; split; (split; exact settlePart_lostParts _ _ _ _; rfl); rfl
@[simp] theorem settleCurrent_meas (h : Nat) (d : Done) (s : State) : (settleCurrent h d s).meas = s.meas := by
  unfold settleCurrent; split; (split; exact settlePart_meas _ _ _ _; rfl); rfl
@[simp] theorem settleCurrent_snoops (h : Nat) (d : Done) (s : State) : (settleCurrent h d s).snoops = s.snoops := by
  unfold settleCurrent; split; (split; exact settlePart_snoops _ _ _ _; rfl); rfl
@[simp] theorem settleCurrent_issue (h : Nat) (d : Done) (s : State) : (settleCurrent h d s).issue = s.issue := by
  unfold settleCurrent; split; (split; exact settlePart_issue _ _ _ _; rfl); rfl
@[simp] theorem settleCurrent_drawsStopped (h : Nat) (d : Done) (s : State) : (settleCurrent h d s).drawsStopped = s.drawsStopped := by
  unfold settleCurrent; split; (split; exact settlePart_drawsStopped _ _ _ _; rfl); rfl
@[simp] theorem settleCurrent_debugIssue (h : Nat) (d : Done) (s : State) : (settleCurrent h d s).debugIssue = s.debugIssue := by
  unfold settleCurrent; split; (split; exact settlePart_debugIssue _ _ _ _; rfl); rfl
@[simp] theorem settleCurrent_mono (h : Nat) (d : Done) (s : State) : (settleCurrent h d s).mono = s.mono := by
  unfold settleCurrent; split; (split; exact settlePart_mono _ _ _ _; rfl); rfl
@[simp] theorem settleCurrent_live (h : Nat) (d : Done) (s : State) : (settleCurrent h d s).live = s.live := by
  unfold settleCurrent; split; (split; exact settlePart_live _ _ _ _; rfl); rfl
@[simp] theorem settleCurrent_writeThrough (h : Nat) (d : Done) (s : State) : (settleCurrent h d s).writeThrough = s.writeThrough := by
  unfold settleCurrent; split; (split; exact settlePart_writeThrough _ _ _ _; rfl); rfl
@[simp] theorem settleCurrent_trimRefused (h : Nat) (d : Done) (s : State) : (settleCurrent h d s).trimRefused = s.trimRefused := by
  unfold settleCurrent; split; (split; exact settlePart_trimRefused _ _ _ _; rfl); rfl
@[simp] theorem settleCurrent_meterSel (h : Nat) (d : Done) (s : State) : (settleCurrent h d s).meterSel = s.meterSel := by
  unfold settleCurrent; split; (split; exact settlePart_meterSel _ _ _ _; rfl); rfl
@[simp] theorem settleCurrent_fiTarget (h : Nat) (d : Done) (s : State) : (settleCurrent h d s).fiTarget = s.fiTarget := by
  unfold settleCurrent; split; (split; exact settlePart_fiTarget _ _ _ _; rfl); rfl
@[simp] theorem settleCurrent_fiReact (h : Nat) (d : Done) (s : State) : (settleCurrent h d s).fiReact = s.fiReact := by
  unfold settleCurrent; split; (split; exact settlePart_fiReact _ _ _ _; rfl); rfl
@[simp] theorem settleCurrent_fiEccAddr (h : Nat) (d : Done) (s : State) : (settleCurrent h d s).fiEccAddr = s.fiEccAddr := by
  unfold settleCurrent; split; (split; exact settlePart_fiEccAddr _ _ _ _; rfl); rfl
@[simp] theorem settleCurrent_fiEccBits (h : Nat) (d : Done) (s : State) : (settleCurrent h d s).fiEccBits = s.fiEccBits := by
  unfold settleCurrent; split; (split; exact settlePart_fiEccBits _ _ _ _; rfl); rfl

/-! `finishEntry` -/

@[simp] theorem finishEntry_pending (s : State) (h : Nat) (d : Done) : (finishEntry s h d).pending = s.pending := settleCurrent_pending h d s
@[simp] theorem finishEntry_boot (s : State) (h : Nat) (d : Done) : (finishEntry s h d).boot = s.boot := settleCurrent_boot h d s
@[simp] theorem finishEntry_board (s : State) (h : Nat) (d : Done) : (finishEntry s h d).board = s.board := settleCurrent_board h d s
@[simp] theorem finishEntry_ports (s : State) (h : Nat) (d : Done) : (finishEntry s h d).ports = s.ports := settleCurrent_ports h d s
@[simp] theorem finishEntry_rings (s : State) (h : Nat) (d : Done) : (finishEntry s h d).rings = s.rings := settleCurrent_rings h d s
@[simp] theorem finishEntry_leaf (s : State) (h : Nat) (d : Done) : (finishEntry s h d).leaf = s.leaf := settleCurrent_leaf h d s
@[simp] theorem finishEntry_nextHamper (s : State) (h : Nat) (d : Done) : (finishEntry s h d).nextHamper = s.nextHamper := settleCurrent_nextHamper h d s
@[simp] theorem finishEntry_floorFree (s : State) (h : Nat) (d : Done) : (finishEntry s h d).floorFree = s.floorFree := settleCurrent_floorFree h d s
@[simp] theorem finishEntry_sharedFree (s : State) (h : Nat) (d : Done) : (finishEntry s h d).sharedFree = s.sharedFree := settleCurrent_sharedFree h d s
@[simp] theorem finishEntry_claims (s : State) (h : Nat) (d : Done) : (finishEntry s h d).claims = s.claims := settleCurrent_claims h d s
@[simp] theorem finishEntry_claimTurn (s : State) (h : Nat) (d : Done) : (finishEntry s h d).claimTurn = s.claimTurn := settleCurrent_claimTurn h d s
@[simp] theorem finishEntry_allocator (s : State) (h : Nat) (d : Done) : (finishEntry s h d).allocator = s.allocator := settleCurrent_allocator h d s
@[simp] theorem finishEntry_dispatchers (s : State) (h : Nat) (d : Done) : (finishEntry s h d).dispatchers = s.dispatchers := settleCurrent_dispatchers h d s
@[simp] theorem finishEntry_dups (s : State) (h : Nat) (d : Done) : (finishEntry s h d).dups = s.dups := settleCurrent_dups h d s
@[simp] theorem finishEntry_dupOrder (s : State) (h : Nat) (d : Done) : (finishEntry s h d).dupOrder = s.dupOrder := settleCurrent_dupOrder h d s
@[simp] theorem finishEntry_ageLimit (s : State) (h : Nat) (d : Done) : (finishEntry s h d).ageLimit = s.ageLimit := settleCurrent_ageLimit h d s
@[simp] theorem finishEntry_domSel (s : State) (h : Nat) (d : Done) : (finishEntry s h d).domSel = s.domSel := settleCurrent_domSel h d s
@[simp] theorem finishEntry_mem (s : State) (h : Nat) (d : Done) : (finishEntry s h d).mem = s.mem := settleCurrent_mem h d s
@[simp] theorem finishEntry_mp (s : State) (h : Nat) (d : Done) : (finishEntry s h d).mp = s.mp := settleCurrent_mp h d s
@[simp] theorem finishEntry_health (s : State) (h : Nat) (d : Done) : (finishEntry s h d).health = s.health := settleCurrent_health h d s
@[simp] theorem finishEntry_thermos (s : State) (h : Nat) (d : Done) : (finishEntry s h d).thermos = s.thermos := settleCurrent_thermos h d s
@[simp] theorem finishEntry_journal (s : State) (h : Nat) (d : Done) : (finishEntry s h d).journal = s.journal := settleCurrent_journal h d s
@[simp] theorem finishEntry_rng (s : State) (h : Nat) (d : Done) : (finishEntry s h d).rng = s.rng := settleCurrent_rng h d s
@[simp] theorem finishEntry_keys (s : State) (h : Nat) (d : Done) : (finishEntry s h d).keys = s.keys := settleCurrent_keys h d s
@[simp] theorem finishEntry_loads (s : State) (h : Nat) (d : Done) : (finishEntry s h d).loads = s.loads := settleCurrent_loads h d s
@[simp] theorem finishEntry_manifests (s : State) (h : Nat) (d : Done) : (finishEntry s h d).manifests = s.manifests := settleCurrent_manifests h d s
@[simp] theorem finishEntry_debugManifests (s : State) (h : Nat) (d : Done) : (finishEntry s h d).debugManifests = s.debugManifests := settleCurrent_debugManifests h d s
@[simp] theorem finishEntry_usedCells (s : State) (h : Nat) (d : Done) : (finishEntry s h d).usedCells = s.usedCells := settleCurrent_usedCells h d s
@[simp] theorem finishEntry_cellsKnown (s : State) (h : Nat) (d : Done) : (finishEntry s h d).cellsKnown = s.cellsKnown := settleCurrent_cellsKnown h d s
@[simp] theorem finishEntry_cipherOut (s : State) (h : Nat) (d : Done) : (finishEntry s h d).cipherOut = s.cipherOut := settleCurrent_cipherOut h d s
@[simp] theorem finishEntry_digestOut (s : State) (h : Nat) (d : Done) : (finishEntry s h d).digestOut = s.digestOut := settleCurrent_digestOut h d s
@[simp] theorem finishEntry_ctxSeq (s : State) (h : Nat) (d : Done) : (finishEntry s h d).ctxSeq = s.ctxSeq := settleCurrent_ctxSeq h d s
@[simp] theorem finishEntry_lostParts (s : State) (h : Nat) (d : Done) : (finishEntry s h d).lostParts = s.lostParts := settleCurrent_lostParts h d s
@[simp] theorem finishEntry_meas (s : State) (h : Nat) (d : Done) : (finishEntry s h d).meas = s.meas := settleCurrent_meas h d s
@[simp] theorem finishEntry_snoops (s : State) (h : Nat) (d : Done) : (finishEntry s h d).snoops = s.snoops := settleCurrent_snoops h d s
@[simp] theorem finishEntry_issue (s : State) (h : Nat) (d : Done) : (finishEntry s h d).issue = s.issue := settleCurrent_issue h d s
@[simp] theorem finishEntry_drawsStopped (s : State) (h : Nat) (d : Done) : (finishEntry s h d).drawsStopped = s.drawsStopped := settleCurrent_drawsStopped h d s
@[simp] theorem finishEntry_debugIssue (s : State) (h : Nat) (d : Done) : (finishEntry s h d).debugIssue = s.debugIssue := settleCurrent_debugIssue h d s
@[simp] theorem finishEntry_mono (s : State) (h : Nat) (d : Done) : (finishEntry s h d).mono = s.mono := settleCurrent_mono h d s
@[simp] theorem finishEntry_live (s : State) (h : Nat) (d : Done) : (finishEntry s h d).live = s.live := settleCurrent_live h d s
@[simp] theorem finishEntry_writeThrough (s : State) (h : Nat) (d : Done) : (finishEntry s h d).writeThrough = s.writeThrough := settleCurrent_writeThrough h d s
@[simp] theorem finishEntry_trimRefused (s : State) (h : Nat) (d : Done) : (finishEntry s h d).trimRefused = s.trimRefused := settleCurrent_trimRefused h d s
@[simp] theorem finishEntry_meterSel (s : State) (h : Nat) (d : Done) : (finishEntry s h d).meterSel = s.meterSel := settleCurrent_meterSel h d s
@[simp] theorem finishEntry_fiTarget (s : State) (h : Nat) (d : Done) : (finishEntry s h d).fiTarget = s.fiTarget := settleCurrent_fiTarget h d s
@[simp] theorem finishEntry_fiReact (s : State) (h : Nat) (d : Done) : (finishEntry s h d).fiReact = s.fiReact := settleCurrent_fiReact h d s
@[simp] theorem finishEntry_fiEccAddr (s : State) (h : Nat) (d : Done) : (finishEntry s h d).fiEccAddr = s.fiEccAddr := settleCurrent_fiEccAddr h d s
@[simp] theorem finishEntry_fiEccBits (s : State) (h : Nat) (d : Done) : (finishEntry s h d).fiEccBits = s.fiEccBits := settleCurrent_fiEccBits h d s

/-! `releaseCups` -/

@[simp] theorem releaseCups_pending (s : State) (x : Hamper) : (releaseCups s x).pending = s.pending := rfl
@[simp] theorem releaseCups_boot (s : State) (x : Hamper) : (releaseCups s x).boot = s.boot := rfl
@[simp] theorem releaseCups_board (s : State) (x : Hamper) : (releaseCups s x).board = s.board := rfl
@[simp] theorem releaseCups_ports (s : State) (x : Hamper) : (releaseCups s x).ports = s.ports := rfl
@[simp] theorem releaseCups_rings (s : State) (x : Hamper) : (releaseCups s x).rings = s.rings := rfl
@[simp] theorem releaseCups_leaf (s : State) (x : Hamper) : (releaseCups s x).leaf = s.leaf := rfl
@[simp] theorem releaseCups_hampers (s : State) (x : Hamper) : (releaseCups s x).hampers = s.hampers := rfl
@[simp] theorem releaseCups_nextHamper (s : State) (x : Hamper) : (releaseCups s x).nextHamper = s.nextHamper := rfl
@[simp] theorem releaseCups_claims (s : State) (x : Hamper) : (releaseCups s x).claims = s.claims := rfl
@[simp] theorem releaseCups_claimTurn (s : State) (x : Hamper) : (releaseCups s x).claimTurn = s.claimTurn := rfl
@[simp] theorem releaseCups_allocator (s : State) (x : Hamper) : (releaseCups s x).allocator = s.allocator := rfl
@[simp] theorem releaseCups_dispatchers (s : State) (x : Hamper) : (releaseCups s x).dispatchers = s.dispatchers := rfl
@[simp] theorem releaseCups_dups (s : State) (x : Hamper) : (releaseCups s x).dups = s.dups := rfl
@[simp] theorem releaseCups_dupOrder (s : State) (x : Hamper) : (releaseCups s x).dupOrder = s.dupOrder := rfl
@[simp] theorem releaseCups_ageLimit (s : State) (x : Hamper) : (releaseCups s x).ageLimit = s.ageLimit := rfl
@[simp] theorem releaseCups_domSel (s : State) (x : Hamper) : (releaseCups s x).domSel = s.domSel := rfl
@[simp] theorem releaseCups_power (s : State) (x : Hamper) : (releaseCups s x).power = s.power := rfl
@[simp] theorem releaseCups_mem (s : State) (x : Hamper) : (releaseCups s x).mem = s.mem := rfl
@[simp] theorem releaseCups_mp (s : State) (x : Hamper) : (releaseCups s x).mp = s.mp := rfl
@[simp] theorem releaseCups_health (s : State) (x : Hamper) : (releaseCups s x).health = s.health := rfl
@[simp] theorem releaseCups_thermos (s : State) (x : Hamper) : (releaseCups s x).thermos = s.thermos := rfl
@[simp] theorem releaseCups_journal (s : State) (x : Hamper) : (releaseCups s x).journal = s.journal := rfl
@[simp] theorem releaseCups_rng (s : State) (x : Hamper) : (releaseCups s x).rng = s.rng := rfl
@[simp] theorem releaseCups_keys (s : State) (x : Hamper) : (releaseCups s x).keys = s.keys := rfl
@[simp] theorem releaseCups_loads (s : State) (x : Hamper) : (releaseCups s x).loads = s.loads := rfl
@[simp] theorem releaseCups_manifests (s : State) (x : Hamper) : (releaseCups s x).manifests = s.manifests := rfl
@[simp] theorem releaseCups_debugManifests (s : State) (x : Hamper) : (releaseCups s x).debugManifests = s.debugManifests := rfl
@[simp] theorem releaseCups_usedCells (s : State) (x : Hamper) : (releaseCups s x).usedCells = s.usedCells := rfl
@[simp] theorem releaseCups_cellsKnown (s : State) (x : Hamper) : (releaseCups s x).cellsKnown = s.cellsKnown := rfl
@[simp] theorem releaseCups_cipherParts (s : State) (x : Hamper) : (releaseCups s x).cipherParts = s.cipherParts := rfl
@[simp] theorem releaseCups_digestParts (s : State) (x : Hamper) : (releaseCups s x).digestParts = s.digestParts := rfl
@[simp] theorem releaseCups_cipherOut (s : State) (x : Hamper) : (releaseCups s x).cipherOut = s.cipherOut := rfl
@[simp] theorem releaseCups_digestOut (s : State) (x : Hamper) : (releaseCups s x).digestOut = s.digestOut := rfl
@[simp] theorem releaseCups_ctxSeq (s : State) (x : Hamper) : (releaseCups s x).ctxSeq = s.ctxSeq := rfl
@[simp] theorem releaseCups_lostParts (s : State) (x : Hamper) : (releaseCups s x).lostParts = s.lostParts := rfl
@[simp] theorem releaseCups_meas (s : State) (x : Hamper) : (releaseCups s x).meas = s.meas := rfl
@[simp] theorem releaseCups_snoops (s : State) (x : Hamper) : (releaseCups s x).snoops = s.snoops := rfl
@[simp] theorem releaseCups_issue (s : State) (x : Hamper) : (releaseCups s x).issue = s.issue := rfl
@[simp] theorem releaseCups_drawsStopped (s : State) (x : Hamper) : (releaseCups s x).drawsStopped = s.drawsStopped := rfl
@[simp] theorem releaseCups_debugIssue (s : State) (x : Hamper) : (releaseCups s x).debugIssue = s.debugIssue := rfl
@[simp] theorem releaseCups_mono (s : State) (x : Hamper) : (releaseCups s x).mono = s.mono := rfl
@[simp] theorem releaseCups_live (s : State) (x : Hamper) : (releaseCups s x).live = s.live := rfl
@[simp] theorem releaseCups_writeThrough (s : State) (x : Hamper) : (releaseCups s x).writeThrough = s.writeThrough := rfl
@[simp] theorem releaseCups_trimRefused (s : State) (x : Hamper) : (releaseCups s x).trimRefused = s.trimRefused := rfl
@[simp] theorem releaseCups_meterSel (s : State) (x : Hamper) : (releaseCups s x).meterSel = s.meterSel := rfl
@[simp] theorem releaseCups_fiTarget (s : State) (x : Hamper) : (releaseCups s x).fiTarget = s.fiTarget := rfl
@[simp] theorem releaseCups_fiReact (s : State) (x : Hamper) : (releaseCups s x).fiReact = s.fiReact := rfl
@[simp] theorem releaseCups_fiEccAddr (s : State) (x : Hamper) : (releaseCups s x).fiEccAddr = s.fiEccAddr := rfl
@[simp] theorem releaseCups_fiEccBits (s : State) (x : Hamper) : (releaseCups s x).fiEccBits = s.fiEccBits := rfl

/-! `settleDup` -/

@[simp] theorem settleDup_pending (s : State) (x : Hamper) : (settleDup s x).pending = s.pending := rfl
@[simp] theorem settleDup_boot (s : State) (x : Hamper) : (settleDup s x).boot = s.boot := rfl
@[simp] theorem settleDup_board (s : State) (x : Hamper) : (settleDup s x).board = s.board := rfl
@[simp] theorem settleDup_ports (s : State) (x : Hamper) : (settleDup s x).ports = s.ports := rfl
@[simp] theorem settleDup_rings (s : State) (x : Hamper) : (settleDup s x).rings = s.rings := rfl
@[simp] theorem settleDup_leaf (s : State) (x : Hamper) : (settleDup s x).leaf = s.leaf := rfl
@[simp] theorem settleDup_hampers (s : State) (x : Hamper) : (settleDup s x).hampers = s.hampers := rfl
@[simp] theorem settleDup_nextHamper (s : State) (x : Hamper) : (settleDup s x).nextHamper = s.nextHamper := rfl
@[simp] theorem settleDup_floorFree (s : State) (x : Hamper) : (settleDup s x).floorFree = s.floorFree := rfl
@[simp] theorem settleDup_sharedFree (s : State) (x : Hamper) : (settleDup s x).sharedFree = s.sharedFree := rfl
@[simp] theorem settleDup_claims (s : State) (x : Hamper) : (settleDup s x).claims = s.claims := rfl
@[simp] theorem settleDup_claimTurn (s : State) (x : Hamper) : (settleDup s x).claimTurn = s.claimTurn := rfl
@[simp] theorem settleDup_allocator (s : State) (x : Hamper) : (settleDup s x).allocator = s.allocator := rfl
@[simp] theorem settleDup_dispatchers (s : State) (x : Hamper) : (settleDup s x).dispatchers = s.dispatchers := rfl
@[simp] theorem settleDup_dupOrder (s : State) (x : Hamper) : (settleDup s x).dupOrder = s.dupOrder := rfl
@[simp] theorem settleDup_ageLimit (s : State) (x : Hamper) : (settleDup s x).ageLimit = s.ageLimit := rfl
@[simp] theorem settleDup_domSel (s : State) (x : Hamper) : (settleDup s x).domSel = s.domSel := rfl
@[simp] theorem settleDup_power (s : State) (x : Hamper) : (settleDup s x).power = s.power := rfl
@[simp] theorem settleDup_mem (s : State) (x : Hamper) : (settleDup s x).mem = s.mem := rfl
@[simp] theorem settleDup_mp (s : State) (x : Hamper) : (settleDup s x).mp = s.mp := rfl
@[simp] theorem settleDup_health (s : State) (x : Hamper) : (settleDup s x).health = s.health := rfl
@[simp] theorem settleDup_thermos (s : State) (x : Hamper) : (settleDup s x).thermos = s.thermos := rfl
@[simp] theorem settleDup_journal (s : State) (x : Hamper) : (settleDup s x).journal = s.journal := rfl
@[simp] theorem settleDup_rng (s : State) (x : Hamper) : (settleDup s x).rng = s.rng := rfl
@[simp] theorem settleDup_keys (s : State) (x : Hamper) : (settleDup s x).keys = s.keys := rfl
@[simp] theorem settleDup_loads (s : State) (x : Hamper) : (settleDup s x).loads = s.loads := rfl
@[simp] theorem settleDup_manifests (s : State) (x : Hamper) : (settleDup s x).manifests = s.manifests := rfl
@[simp] theorem settleDup_debugManifests (s : State) (x : Hamper) : (settleDup s x).debugManifests = s.debugManifests := rfl
@[simp] theorem settleDup_usedCells (s : State) (x : Hamper) : (settleDup s x).usedCells = s.usedCells := rfl
@[simp] theorem settleDup_cellsKnown (s : State) (x : Hamper) : (settleDup s x).cellsKnown = s.cellsKnown := rfl
@[simp] theorem settleDup_cipherParts (s : State) (x : Hamper) : (settleDup s x).cipherParts = s.cipherParts := rfl
@[simp] theorem settleDup_digestParts (s : State) (x : Hamper) : (settleDup s x).digestParts = s.digestParts := rfl
@[simp] theorem settleDup_cipherOut (s : State) (x : Hamper) : (settleDup s x).cipherOut = s.cipherOut := rfl
@[simp] theorem settleDup_digestOut (s : State) (x : Hamper) : (settleDup s x).digestOut = s.digestOut := rfl
@[simp] theorem settleDup_ctxSeq (s : State) (x : Hamper) : (settleDup s x).ctxSeq = s.ctxSeq := rfl
@[simp] theorem settleDup_lostParts (s : State) (x : Hamper) : (settleDup s x).lostParts = s.lostParts := rfl
@[simp] theorem settleDup_meas (s : State) (x : Hamper) : (settleDup s x).meas = s.meas := rfl
@[simp] theorem settleDup_snoops (s : State) (x : Hamper) : (settleDup s x).snoops = s.snoops := rfl
@[simp] theorem settleDup_issue (s : State) (x : Hamper) : (settleDup s x).issue = s.issue := rfl
@[simp] theorem settleDup_drawsStopped (s : State) (x : Hamper) : (settleDup s x).drawsStopped = s.drawsStopped := rfl
@[simp] theorem settleDup_debugIssue (s : State) (x : Hamper) : (settleDup s x).debugIssue = s.debugIssue := rfl
@[simp] theorem settleDup_mono (s : State) (x : Hamper) : (settleDup s x).mono = s.mono := rfl
@[simp] theorem settleDup_live (s : State) (x : Hamper) : (settleDup s x).live = s.live := rfl
@[simp] theorem settleDup_writeThrough (s : State) (x : Hamper) : (settleDup s x).writeThrough = s.writeThrough := rfl
@[simp] theorem settleDup_trimRefused (s : State) (x : Hamper) : (settleDup s x).trimRefused = s.trimRefused := rfl
@[simp] theorem settleDup_meterSel (s : State) (x : Hamper) : (settleDup s x).meterSel = s.meterSel := rfl
@[simp] theorem settleDup_fiTarget (s : State) (x : Hamper) : (settleDup s x).fiTarget = s.fiTarget := rfl
@[simp] theorem settleDup_fiReact (s : State) (x : Hamper) : (settleDup s x).fiReact = s.fiReact := rfl
@[simp] theorem settleDup_fiEccAddr (s : State) (x : Hamper) : (settleDup s x).fiEccAddr = s.fiEccAddr := rfl
@[simp] theorem settleDup_fiEccBits (s : State) (x : Hamper) : (settleDup s x).fiEccBits = s.fiEccBits := rfl

/-! `afterDraw` -/

@[simp] theorem afterDraw_pending (s : State) (n : Nat) : (afterDraw s n).pending = s.pending := rfl
@[simp] theorem afterDraw_boot (s : State) (n : Nat) : (afterDraw s n).boot = s.boot := rfl
@[simp] theorem afterDraw_board (s : State) (n : Nat) : (afterDraw s n).board = s.board := rfl
@[simp] theorem afterDraw_ports (s : State) (n : Nat) : (afterDraw s n).ports = s.ports := rfl
@[simp] theorem afterDraw_rings (s : State) (n : Nat) : (afterDraw s n).rings = s.rings := rfl
@[simp] theorem afterDraw_leaf (s : State) (n : Nat) : (afterDraw s n).leaf = s.leaf := rfl
@[simp] theorem afterDraw_hampers (s : State) (n : Nat) : (afterDraw s n).hampers = s.hampers := rfl
@[simp] theorem afterDraw_nextHamper (s : State) (n : Nat) : (afterDraw s n).nextHamper = s.nextHamper := rfl
@[simp] theorem afterDraw_floorFree (s : State) (n : Nat) : (afterDraw s n).floorFree = s.floorFree := rfl
@[simp] theorem afterDraw_sharedFree (s : State) (n : Nat) : (afterDraw s n).sharedFree = s.sharedFree := rfl
@[simp] theorem afterDraw_claims (s : State) (n : Nat) : (afterDraw s n).claims = s.claims := rfl
@[simp] theorem afterDraw_claimTurn (s : State) (n : Nat) : (afterDraw s n).claimTurn = s.claimTurn := rfl
@[simp] theorem afterDraw_allocator (s : State) (n : Nat) : (afterDraw s n).allocator = s.allocator := rfl
@[simp] theorem afterDraw_dispatchers (s : State) (n : Nat) : (afterDraw s n).dispatchers = s.dispatchers := rfl
@[simp] theorem afterDraw_dups (s : State) (n : Nat) : (afterDraw s n).dups = s.dups := rfl
@[simp] theorem afterDraw_dupOrder (s : State) (n : Nat) : (afterDraw s n).dupOrder = s.dupOrder := rfl
@[simp] theorem afterDraw_ageLimit (s : State) (n : Nat) : (afterDraw s n).ageLimit = s.ageLimit := rfl
@[simp] theorem afterDraw_domSel (s : State) (n : Nat) : (afterDraw s n).domSel = s.domSel := rfl
@[simp] theorem afterDraw_power (s : State) (n : Nat) : (afterDraw s n).power = s.power := rfl
@[simp] theorem afterDraw_mem (s : State) (n : Nat) : (afterDraw s n).mem = s.mem := rfl
@[simp] theorem afterDraw_mp (s : State) (n : Nat) : (afterDraw s n).mp = s.mp := rfl
@[simp] theorem afterDraw_health (s : State) (n : Nat) : (afterDraw s n).health = s.health := rfl
@[simp] theorem afterDraw_thermos (s : State) (n : Nat) : (afterDraw s n).thermos = s.thermos := rfl
@[simp] theorem afterDraw_journal (s : State) (n : Nat) : (afterDraw s n).journal = s.journal := rfl
@[simp] theorem afterDraw_keys (s : State) (n : Nat) : (afterDraw s n).keys = s.keys := rfl
@[simp] theorem afterDraw_loads (s : State) (n : Nat) : (afterDraw s n).loads = s.loads := rfl
@[simp] theorem afterDraw_manifests (s : State) (n : Nat) : (afterDraw s n).manifests = s.manifests := rfl
@[simp] theorem afterDraw_debugManifests (s : State) (n : Nat) : (afterDraw s n).debugManifests = s.debugManifests := rfl
@[simp] theorem afterDraw_usedCells (s : State) (n : Nat) : (afterDraw s n).usedCells = s.usedCells := rfl
@[simp] theorem afterDraw_cellsKnown (s : State) (n : Nat) : (afterDraw s n).cellsKnown = s.cellsKnown := rfl
@[simp] theorem afterDraw_cipherParts (s : State) (n : Nat) : (afterDraw s n).cipherParts = s.cipherParts := rfl
@[simp] theorem afterDraw_digestParts (s : State) (n : Nat) : (afterDraw s n).digestParts = s.digestParts := rfl
@[simp] theorem afterDraw_cipherOut (s : State) (n : Nat) : (afterDraw s n).cipherOut = s.cipherOut := rfl
@[simp] theorem afterDraw_digestOut (s : State) (n : Nat) : (afterDraw s n).digestOut = s.digestOut := rfl
@[simp] theorem afterDraw_ctxSeq (s : State) (n : Nat) : (afterDraw s n).ctxSeq = s.ctxSeq := rfl
@[simp] theorem afterDraw_lostParts (s : State) (n : Nat) : (afterDraw s n).lostParts = s.lostParts := rfl
@[simp] theorem afterDraw_meas (s : State) (n : Nat) : (afterDraw s n).meas = s.meas := rfl
@[simp] theorem afterDraw_snoops (s : State) (n : Nat) : (afterDraw s n).snoops = s.snoops := rfl
@[simp] theorem afterDraw_issue (s : State) (n : Nat) : (afterDraw s n).issue = s.issue := rfl
@[simp] theorem afterDraw_drawsStopped (s : State) (n : Nat) : (afterDraw s n).drawsStopped = s.drawsStopped := rfl
@[simp] theorem afterDraw_debugIssue (s : State) (n : Nat) : (afterDraw s n).debugIssue = s.debugIssue := rfl
@[simp] theorem afterDraw_mono (s : State) (n : Nat) : (afterDraw s n).mono = s.mono := rfl
@[simp] theorem afterDraw_live (s : State) (n : Nat) : (afterDraw s n).live = s.live := rfl
@[simp] theorem afterDraw_writeThrough (s : State) (n : Nat) : (afterDraw s n).writeThrough = s.writeThrough := rfl
@[simp] theorem afterDraw_trimRefused (s : State) (n : Nat) : (afterDraw s n).trimRefused = s.trimRefused := rfl
@[simp] theorem afterDraw_meterSel (s : State) (n : Nat) : (afterDraw s n).meterSel = s.meterSel := rfl
@[simp] theorem afterDraw_fiTarget (s : State) (n : Nat) : (afterDraw s n).fiTarget = s.fiTarget := rfl
@[simp] theorem afterDraw_fiReact (s : State) (n : Nat) : (afterDraw s n).fiReact = s.fiReact := rfl
@[simp] theorem afterDraw_fiEccAddr (s : State) (n : Nat) : (afterDraw s n).fiEccAddr = s.fiEccAddr := rfl
@[simp] theorem afterDraw_fiEccBits (s : State) (n : Nat) : (afterDraw s n).fiEccBits = s.fiEccBits := rfl

/-! What the updates write. -/

@[simp] theorem modPort_ports (s : State) (p : Nat) (f : PortState → PortState) :
    (modPort s p f).ports = s.ports.set p (f (portOf s p)) := rfl
@[simp] theorem modPd_power (s : State) (i : Nat) (f : Pd → Pd) :
    (modPd s i f).power = { s.power with pds := s.power.pds.set i (f (pdOf s i)) } := rfl
@[simp] theorem modBlock_health (s : State) (b : Nat) (f : Health → Health) :
    (modBlock s b f).health = s.health.set b (f (blockOf s b)) := rfl
@[simp] theorem setRing_rings (s : State) (r : Nat) (v : Ring) :
    (setRing s r v).rings = assocSet {} s.rings r v := rfl
@[simp] theorem modHamper_hampers (s : State) (h : Nat) (f : Hamper → Hamper) :
    (modHamper s h f).hampers = s.hampers.map (fun x => if x.id = h then f x else x) := rfl
@[simp] theorem modThermos_thermos (s : State) (f : Thermos → Thermos) :
    (modThermos s f).thermos = f s.thermos := rfl

/-! Reading a part after it, or another of its kind, was changed. -/

@[simp] theorem portOf_modPort_same (s : State) (p : Nat) (f : PortState → PortState) (h : p < s.ports.length) :
    portOf (modPort s p f) p = f (portOf s p) := by
  simp [portOf, modPort, h]

theorem portOf_modPort_ne (s : State) {p q : Nat} (f : PortState → PortState) (h : p ≠ q) : portOf (modPort s p f) q = portOf s q := by
  simp [portOf, modPort, h]

@[simp] theorem pdOf_modPd_same (s : State) (i : Nat) (f : Pd → Pd) (h : i < s.power.pds.length) : pdOf (modPd s i f) i = f (pdOf s i) := by
  simp [pdOf, modPd, h]

theorem pdOf_modPd_ne (s : State) {i j : Nat} (f : Pd → Pd) (h : i ≠ j) : pdOf (modPd s i f) j = pdOf s j := by
  simp [pdOf, modPd, h]

@[simp] theorem blockOf_modBlock_same (s : State) (b : Nat) (f : Health → Health) (h : b < s.health.length) :
    blockOf (modBlock s b f) b = f (blockOf s b) := by
  simp [blockOf, modBlock, h]

theorem blockOf_modBlock_ne (s : State) {b c : Nat} (f : Health → Health) (h : b ≠ c) : blockOf (modBlock s b f) c = blockOf s c := by
  simp [blockOf, modBlock, h]

@[simp] theorem portOf_modPd (s : State) (i : Nat) (f : Pd → Pd) (p : Nat) : portOf (modPd s i f) p = portOf s p := rfl
@[simp] theorem portOf_modBlock (s : State) (b : Nat) (f : Health → Health) (p : Nat) : portOf (modBlock s b f) p = portOf s p := rfl
@[simp] theorem portOf_modThermos (s : State) (f : Thermos → Thermos) (p : Nat) : portOf (modThermos s f) p = portOf s p := rfl
@[simp] theorem pdOf_modPort (s : State) (p : Nat) (f : PortState → PortState) (i : Nat) : pdOf (modPort s p f) i = pdOf s i := rfl
@[simp] theorem blockOf_modPort (s : State) (p : Nat) (f : PortState → PortState) (b : Nat) : blockOf (modPort s p f) b = blockOf s b := rfl
@[simp] theorem ringOf_modPort (s : State) (p : Nat) (f : PortState → PortState) (r : Nat) : ringOf (modPort s p f) r = ringOf s r := rfl
@[simp] theorem hamperOf_modPort (s : State) (p : Nat) (f : PortState → PortState) (h : Nat) : hamperOf (modPort s p f) h = hamperOf s h := rfl
@[simp] theorem domOf_modPort (s : State) (p : Nat) (f : PortState → PortState) (d : Nat) : domOf (modPort s p f) d = domOf s d := rfl

theorem ringOf_setRing_same (s : State) (r : Nat) (v : Ring) : ringOf (setRing s r v) r = v := by
  simp [ringOf, setRing, assocGetD_set]

theorem ringOf_setRing_ne (s : State) {r q : Nat} (v : Ring) (h : r ≠ q) :
    ringOf (setRing s r v) q = ringOf s q := by
  simp [ringOf, setRing, assocGetD_set, h]

end Sys2Proof.Laws
end

