-- ==== Sys2Proof/Laws/Frames.lean ====
section
/-! SUPPORT. What a served frame comes to: a read answers, a write is recorded, a register write of a row of its own reaches its register. -/

namespace Sys2Proof.Laws

open Sys2Proof.Machine Sys2Proof.Safety

variable {s : State} {p : Port} {k : Link}

/-- What a port drives is all that `respond` writes. -/
theorem respond_field {α : Type} (f : PortState → α) (hf : ∀ x r, f { x with response := r } = f x) (s : State) (p q : Nat) (r : Response) :
    f (portOf (respond p r s) q) = f (portOf s q) := by
  by_cases hq : p = q
  · subst hq
    by_cases hp : p < s.ports.length
    · simp [respond, hp, hf]
    · simp [respond, modPort, portOf, hp, List.set_eq_of_length_le (not_lt.1 hp)]
  · simp [respond, portOf_modPort_ne _ _ hq]

@[simp] theorem respond_lanes (s : State) (p q : Nat) (r : Response) : (portOf (respond p r s) q).lanes = (portOf s q).lanes :=
  respond_field (·.lanes) (fun _ _ => rfl) s p q r
@[simp] theorem respond_timing (s : State) (p q : Nat) (r : Response) : (portOf (respond p r s) q).timing = (portOf s q).timing :=
  respond_field (·.timing) (fun _ _ => rfl) s p q r
@[simp] theorem respond_crcEn (s : State) (p q : Nat) (r : Response) : (portOf (respond p r s) q).crcEn = (portOf s q).crcEn :=
  respond_field (·.crcEn) (fun _ _ => rfl) s p q r
@[simp] theorem respond_lwSeq (s : State) (p q : Nat) (r : Response) : (portOf (respond p r s) q).lwSeq = (portOf s q).lwSeq :=
  respond_field (·.lwSeq) (fun _ _ => rfl) s p q r
@[simp] theorem respond_lwOpcode (s : State) (p q : Nat) (r : Response) : (portOf (respond p r s) q).lwOpcode = (portOf s q).lwOpcode :=
  respond_field (·.lwOpcode) (fun _ _ => rfl) s p q r
@[simp] theorem respond_lwOutcome (s : State) (p q : Nat) (r : Response) : (portOf (respond p r s) q).lwOutcome = (portOf s q).lwOutcome :=
  respond_field (·.lwOutcome) (fun _ _ => rfl) s p q r
@[simp] theorem respond_linkEvt (s : State) (p q : Nat) (r : Response) : (portOf (respond p r s) q).linkEvt = (portOf s q).linkEvt :=
  respond_field (·.linkEvt) (fun _ _ => rfl) s p q r
@[simp] theorem respond_fetchDone (s : State) (p q : Nat) (r : Response) : (portOf (respond p r s) q).fetchDone = (portOf s q).fetchDone :=
  respond_field (·.fetchDone) (fun _ _ => rfl) s p q r
@[simp] theorem respond_fetch (s : State) (p q : Nat) (r : Response) : (portOf (respond p r s) q).fetch = (portOf s q).fetch :=
  respond_field (·.fetch) (fun _ _ => rfl) s p q r
@[simp] theorem respond_pushBuf (s : State) (p q : Nat) (r : Response) : (portOf (respond p r s) q).pushBuf = (portOf s q).pushBuf :=
  respond_field (·.pushBuf) (fun _ _ => rfl) s p q r
@[simp] theorem respond_xip (s : State) (p q : Nat) (r : Response) : (portOf (respond p r s) q).xip = (portOf s q).xip :=
  respond_field (·.xip) (fun _ _ => rfl) s p q r
@[simp] theorem respond_wip (s : State) (p q : Nat) (r : Response) : (portOf (respond p r s) q).wip = (portOf s q).wip :=
  respond_field (·.wip) (fun _ _ => rfl) s p q r
@[simp] theorem respond_wel (s : State) (p q : Nat) (r : Response) : (portOf (respond p r s) q).wel = (portOf s q).wel :=
  respond_field (·.wel) (fun _ _ => rfl) s p q r
@[simp] theorem respond_err (s : State) (p q : Nat) (r : Response) : (portOf (respond p r s) q).err = (portOf s q).err :=
  respond_field (·.err) (fun _ _ => rfl) s p q r
@[simp] theorem respond_wakeRecords (s : State) (p q : Nat) (r : Response) : (portOf (respond p r s) q).wakeRecords = (portOf s q).wakeRecords :=
  respond_field (·.wakeRecords) (fun _ _ => rfl) s p q r
@[simp] theorem respond_warmCause (s : State) (p q : Nat) (r : Response) : (portOf (respond p r s) q).warmCause = (portOf s q).warmCause :=
  respond_field (·.warmCause) (fun _ _ => rfl) s p q r
@[simp] theorem respond_scratch (s : State) (p q : Nat) (r : Response) : (portOf (respond p r s) q).scratch = (portOf s q).scratch :=
  respond_field (·.scratch) (fun _ _ => rfl) s p q r
@[simp] theorem respond_arenaSel (s : State) (p q : Nat) (r : Response) : (portOf (respond p r s) q).arenaSel = (portOf s q).arenaSel :=
  respond_field (·.arenaSel) (fun _ _ => rfl) s p q r
@[simp] theorem respond_lastRing (s : State) (p q : Nat) (r : Response) : (portOf (respond p r s) q).lastRing = (portOf s q).lastRing :=
  respond_field (·.lastRing) (fun _ _ => rfl) s p q r
@[simp] theorem respond_refusedAny (s : State) (p q : Nat) (r : Response) : (portOf (respond p r s) q).refusedAny = (portOf s q).refusedAny :=
  respond_field (·.refusedAny) (fun _ _ => rfl) s p q r
@[simp] theorem respond_lastResult (s : State) (p q : Nat) (r : Response) : (portOf (respond p r s) q).lastResult = (portOf s q).lastResult :=
  respond_field (·.lastResult) (fun _ _ => rfl) s p q r
@[simp] theorem respond_ringArg0 (s : State) (p q : Nat) (r : Response) : (portOf (respond p r s) q).ringArg0 = (portOf s q).ringArg0 :=
  respond_field (·.ringArg0) (fun _ _ => rfl) s p q r
@[simp] theorem respond_ringArg1 (s : State) (p q : Nat) (r : Response) : (portOf (respond p r s) q).ringArg1 = (portOf s q).ringArg1 :=
  respond_field (·.ringArg1) (fun _ _ => rfl) s p q r
@[simp] theorem respond_ringArg2 (s : State) (p q : Nat) (r : Response) : (portOf (respond p r s) q).ringArg2 = (portOf s q).ringArg2 :=
  respond_field (·.ringArg2) (fun _ _ => rfl) s p q r
@[simp] theorem respond_cmdSeq (s : State) (p q : Nat) (r : Response) : (portOf (respond p r s) q).cmdSeq = (portOf s q).cmdSeq :=
  respond_field (·.cmdSeq) (fun _ _ => rfl) s p q r
@[simp] theorem respond_cmdLast (s : State) (p q : Nat) (r : Response) : (portOf (respond p r s) q).cmdLast = (portOf s q).cmdLast :=
  respond_field (·.cmdLast) (fun _ _ => rfl) s p q r
@[simp] theorem respond_cmdResult (s : State) (p q : Nat) (r : Response) : (portOf (respond p r s) q).cmdResult = (portOf s q).cmdResult :=
  respond_field (·.cmdResult) (fun _ _ => rfl) s p q r
@[simp] theorem respond_queryId (s : State) (p q : Nat) (r : Response) : (portOf (respond p r s) q).queryId = (portOf s q).queryId :=
  respond_field (·.queryId) (fun _ _ => rfl) s p q r
@[simp] theorem respond_queryState (s : State) (p q : Nat) (r : Response) : (portOf (respond p r s) q).queryState = (portOf s q).queryState :=
  respond_field (·.queryState) (fun _ _ => rfl) s p q r
@[simp] theorem respond_pushLog (s : State) (p q : Nat) (r : Response) : (portOf (respond p r s) q).pushLog = (portOf s q).pushLog :=
  respond_field (·.pushLog) (fun _ _ => rfl) s p q r
@[simp] theorem respond_pushLogPos (s : State) (p q : Nat) (r : Response) : (portOf (respond p r s) q).pushLogPos = (portOf s q).pushLogPos :=
  respond_field (·.pushLogPos) (fun _ _ => rfl) s p q r
@[simp] theorem respond_pushDeposited (s : State) (p q : Nat) (r : Response) : (portOf (respond p r s) q).pushDeposited = (portOf s q).pushDeposited :=
  respond_field (·.pushDeposited) (fun _ _ => rfl) s p q r
@[simp] theorem respond_pushRefused (s : State) (p q : Nat) (r : Response) : (portOf (respond p r s) q).pushRefused = (portOf s q).pushRefused :=
  respond_field (·.pushRefused) (fun _ _ => rfl) s p q r
@[simp] theorem respond_measSel (s : State) (p q : Nat) (r : Response) : (portOf (respond p r s) q).measSel = (portOf s q).measSel :=
  respond_field (·.measSel) (fun _ _ => rfl) s p q r
@[simp] theorem respond_histView (s : State) (p q : Nat) (r : Response) : (portOf (respond p r s) q).histView = (portOf s q).histView :=
  respond_field (·.histView) (fun _ _ => rfl) s p q r
@[simp] theorem respond_wdt (s : State) (p q : Nat) (r : Response) : (portOf (respond p r s) q).wdt = (portOf s q).wdt :=
  respond_field (·.wdt) (fun _ _ => rfl) s p q r
@[simp] theorem respond_grant (s : State) (p q : Nat) (r : Response) : (portOf (respond p r s) q).grant = (portOf s q).grant :=
  respond_field (·.grant) (fun _ _ => rfl) s p q r
@[simp] theorem respond_bootstrap (s : State) (p q : Nat) (r : Response) : (portOf (respond p r s) q).bootstrap = (portOf s q).bootstrap :=
  respond_field (·.bootstrap) (fun _ _ => rfl) s p q r
@[simp] theorem respond_hrstReleased (s : State) (p q : Nat) (r : Response) : (portOf (respond p r s) q).hrstReleased = (portOf s q).hrstReleased :=
  respond_field (·.hrstReleased) (fun _ _ => rfl) s p q r
@[simp] theorem respond_hrstPending (s : State) (p q : Nat) (r : Response) : (portOf (respond p r s) q).hrstPending = (portOf s q).hrstPending :=
  respond_field (·.hrstPending) (fun _ _ => rfl) s p q r
@[simp] theorem respond_winQueue (s : State) (p q : Nat) (r : Response) : (portOf (respond p r s) q).winQueue = (portOf s q).winQueue :=
  respond_field (·.winQueue) (fun _ _ => rfl) s p q r
@[simp] theorem respond_slewApplied (s : State) (p q : Nat) (r : Response) : (portOf (respond p r s) q).slewApplied = (portOf s q).slewApplied :=
  respond_field (·.slewApplied) (fun _ _ => rfl) s p q r

@[simp] theorem winGranted_respond (s : State) (p q : Nat) (r : Response) (w : Bool) (a n : Nat) :
    winGranted (respond p r s) q w a n = winGranted s q w a n := by
  have h : ∀ u, winUnit (respond p r s) q w u = winUnit s q w u := by
    intro u
    unfold winUnit
    rw [respond_grant]
    rfl
  have h' : winUnit (respond p r s) q w = winUnit s q w := funext h
  unfold winGranted
  rw [h']
  rfl

theorem atPort_hears (h : Hears s p k) (f g : State → State) : atPort p k f g s = g s := by
  simp [atPort, h.1, h.2.1]

theorem nativeFrame_serves {f : NymsyFrame} (h : Serves s p k f) : nativeFrame p k f s = serveNymsy p k f s := by
  simp [nativeFrame, atPort_hears h.1, h.2.1]

/-- A served read frame whose opcode is one of the five reads. -/
theorem nativeFrame_read {f : NymsyFrame} (h : ServesRead s p k f) (hf : classOf (opcodeOf f) = .read) (hn : ∀ o, f ≠ .other o) :
    nativeFrame p k f s = serveRead p k f s := by
  rw [nativeFrame_serves h.1]
  unfold serveNymsy
  simp only [h.1.1.2.2]
  cases f <;> first | rfl | (exact absurd rfl (hn _)) | (simp [classOf, opcodeOf] at hf)

/-- What a served read drives and leaves. -/
theorem serveRead_done {f : NymsyFrame} (h : ServesRead s p k f) :
    serveRead p k f s = respond p (answer (portOf s p) (match (readFrame p k f s).trailer with
      | .ok | .poison | .busy => fitTo (readLength f) (readFrame p k f s).data
      | .denied | .wake | .crcFail => zeros (readLength f)) (readFrame p k f s).trailer) (readFrame p k f s).state := by
  unfold serveRead
  simp only [h.1.2.2, h.2, if_true] <;> rfl

/-- What a served complete write is recorded as, before a warm reset that it asks for. -/
theorem serveWrite_done {f : NymsyFrame} (hw : Whole s p k f) (hc : crcOk (portOf s p) k f = true) :
    serveWrite p k f s =
      (let w := writeFrame p f (respond p .silent s)
       let u := recordWr p (opcodeOf f) w.outcome w.state
       if asksWarm f && w.outcome == wrOk then warmReset p 1 u else u) := by
  have hs : (if (portOf s p).crcEn then f else withStray k.crc f) = f := by
    cases he : (portOf s p).crcEn with
    | true => rfl
    | false =>
      rw [hw.2 he]
      cases f <;> rfl
  unfold serveWrite
  simp only [hs, hw.1, hc]
  rfl

/-- A served complete write frame. -/
theorem nativeFrame_write {f : NymsyFrame} (h : ServesWrite s p k f) (hf : classOf (opcodeOf f) = .write) :
    nativeFrame p k f s =
      (let w := writeFrame p f (respond p .silent s)
       let u := recordWr p (opcodeOf f) w.outcome w.state
       if asksWarm f && w.outcome == wrOk then warmReset p 1 u else u) := by
  rw [nativeFrame_serves h.1, ← serveWrite_done h.2 h.1.2.2]
  unfold serveNymsy
  simp only [h.1.1.2.2, hf]
  rfl

theorem leNat_toLe4 {v : Nat} (hv : v < 2 ^ 32) : leNat (toLe 4 v) = v := by
  simp only [toLe, leNat, BitVec.toNat_ofNat]
  omega

/-- A served write of a register: its outcome is recorded, a warm reset it asks for follows. -/
theorem regFrame_done {a v : Nat} (h : ServesReg s p k a v) (ha : a < 0x1000) (hv : v < 2 ^ 32) :
    regFrame p k a v s =
      (let r := regWrite p a v (respond p .silent s)
       let u := recordWr p 0x11 r.2 r.1
       if (a == 0x008 && bit v 0) && r.2 == wrOk then warmReset p 1 u else u) := by
  unfold regFrame portFrame
  rw [atPort_hears h.1]
  have h1 : serveNymsy p k (.regWr a (toLe 4 v)) s = serveWrite p k (.regWr a (toLe 4 v)) s := by
    unfold serveNymsy
    simp only [h.1.2.2]
    rfl
  have hm : a % 2 ^ 32 = a := Nat.mod_eq_of_lt (by omega)
  have hr : (respond p .silent s).boot = s.boot := rfl
  rw [h1, serveWrite_done h.2.2.1 h.2.1]
  have hw : writeFrame p (.regWr a (toLe 4 v)) (respond p .silent s) =
      ⟨(regWrite p a v (respond p .silent s)).2, (regWrite p a v (respond p .silent s)).1⟩ := by
    unfold writeFrame
    have hn : ¬((respond p .silent s).boot.mode = .recovery ∧ p.val ≠ 0) := fun c => h.2.2.2.2 c.1
    rw [if_neg hn]
    simp only [hm, leNat_toLe4 hv]
  simp only [hw, asksWarm, hm, leNat_toLe4 hv, opcodeOf]

end Sys2Proof.Laws
end

