-- ==== Sys2Proof/Laws/Keeps.lean ====
section
/-! SUPPORT. What every command keeps, and how it composes: the canonical forms, the parts of the machine, the queue, the scrap fuse, and
time that never runs back. The files named Keeps… hold one lemma per operation. -/

namespace Sys2Proof.Laws

open Sys2Proof.Machine Sys2Proof.Safety

/-- What passes from one state to a later one whatever the device does in between. -/
def Keeps (s t : State) : Prop :=
  (Canonical s → Canonical t) ∧ (Shape s → Shape t) ∧ t.pending = s.pending
    ∧ (s.board.scrapFuse = true → t.board.scrapFuse = true) ∧ s.mono ≤ t.mono

theorem Keeps.refl (s : State) : Keeps s s := ⟨id, id, rfl, id, le_refl _⟩

theorem Keeps.trans {s t u : State} (h : Keeps s t) (k : Keeps t u) : Keeps s u :=
  ⟨fun c => k.1 (h.1 c), fun c => k.2.1 (h.2.1 c), k.2.2.1.trans h.2.2.1, fun c => k.2.2.2.1 (h.2.2.2.1 c), le_trans h.2.2.2.2 k.2.2.2.2⟩

variable {s0 s t : State}

/-- A state written out field by field, which is what a record update of a state is. -/
theorem keeps_mk
    {pending' : List Instr} {boot' : Boot} {board' : Board} {ports' : List PortState} {rings' : Assoc Ring} {leaf' : Assoc (BitVec
    32)} {hampers' : List Hamper} {nextHamper' : Nat} {floorFree' : List Nat} {sharedFree' : Nat} {claims' : List (Option Nat)}
    {claimTurn' : Nat} {allocator' : Arbiter} {dispatchers' : List Arbiter} {dups' : List DupRec} {dupOrder' : Nat} {ageLimit' :
    Nat} {domSel' : Nat} {power' : Power} {mem' : MemState} {mp' : Mp} {health' : List Health} {thermos' : Thermos} {journal' : Option Journal} {rng' : Rng}
    {keys' : Assoc Key} {loads' : List (Nat × Nat)} {manifests' : List KnownManifest} {debugManifests' : List KnownManifest}
    {usedCells' : List Nat} {cellsKnown' : Bool} {cipherParts' : Assoc PartState} {digestParts' : Assoc PartState} {cipherOut' :
    Assoc CtxOut} {digestOut' : Assoc CtxOut} {ctxSeq' : Assoc Nat} {lostParts' : List Nat} {meas' : List Meas} {snoops' : List
    Snoop} {issue' : Assoc Nat} {drawsStopped' : Bool} {debugIssue' : Assoc Nat} {mono' : Nat} {live' : Assoc (List Nat)}
    {writeThrough' : Bool} {trimRefused' : Bool} {meterSel' : Nat} {fiTarget' : Word} {fiReact' : Bool} {fiEccAddr' : Nat}
    {fiEccBits' : Nat}
    (hs : Keeps s0 s) (hq : pending' = s.pending) (hm : mono' = s.mono) (hb : board'.scrapFuse = s.board.scrapFuse)
    (h1 : Memory.wf 0 s.mem.pantry = true → Memory.wf 0 mem'.pantry = true)
    (h2 : Memory.wf 0 s.mem.larder = true → Memory.wf 0 mem'.larder = true)
    (h3 : Memory.wf 0xFF s.mp.flash = true → Memory.wf 0xFF mp'.flash = true)
    (h4 : (∀ x ∈ s.hampers, Memory.wf 0 x.cups = true) → ∀ x ∈ hampers', Memory.wf 0 x.cups = true)
    (h5 : assocWf {} s.rings = true → assocWf {} rings' = true) (h6 : assocWf 0 s.leaf = true → assocWf 0 leaf' = true)
    (l1 : ports'.length = s.ports.length) (l2 : power'.pds.length = s.power.pds.length)
    (l3 : health'.length = s.health.length) (l4 : meas'.length = s.meas.length) (l5 : snoops'.length = s.snoops.length)
    (l6 : floorFree'.length = s.floorFree.length) (l7 : claims'.length = s.claims.length)
    (l8 : dispatchers'.length = s.dispatchers.length) :
    Keeps s0 ⟨pending', boot', board', ports', rings', leaf', hampers', nextHamper', floorFree', sharedFree', claims', claimTurn',
      allocator', dispatchers', dups', dupOrder', ageLimit', domSel', power', mem', mp', health', thermos', journal', rng', keys', loads',
      manifests', debugManifests', usedCells', cellsKnown', cipherParts', digestParts', cipherOut', digestOut', ctxSeq',
      lostParts', meas', snoops', issue', drawsStopped', debugIssue', mono', live', writeThrough', trimRefused', meterSel',
      fiTarget', fiReact', fiEccAddr', fiEccBits'⟩ :=
  Keeps.trans hs ⟨fun c => ⟨h1 c.1, h2 c.2.1, h3 c.2.2.1, h4 c.2.2.2.1, h5 c.2.2.2.2.1, h6 c.2.2.2.2.2⟩,
    fun c => ⟨l1.trans c.1, l2.trans c.2.1, l3.trans c.2.2.1, l4.trans c.2.2.2.1, l5.trans c.2.2.2.2.1, l6.trans c.2.2.2.2.2.1,
      l7.trans c.2.2.2.2.2.2.1, l8.trans c.2.2.2.2.2.2.2⟩, hq, fun c => hb.trans c, le_of_eq hm.symm⟩

theorem keeps_ite {c : Prop} [Decidable c] {x y : State} (hx : Keeps s0 x) (hy : Keeps s0 y) : Keeps s0 (if c then x else y) := by
  split <;> assumption

/-- A change of the taken hampers that leaves canonical cups. -/
theorem keeps_hampers {l : List Hamper} (hs : Keeps s0 s)
    (hl : (∀ x ∈ s.hampers, Memory.wf 0 x.cups = true) → ∀ x ∈ l, Memory.wf 0 x.cups = true) : Keeps s0 { s with hampers := l } :=
  Keeps.trans hs ⟨fun c => ⟨c.1, c.2.1, c.2.2.1, hl c.2.2.2.1, c.2.2.2.2.1, c.2.2.2.2.2⟩, id, rfl, id, le_refl _⟩

/-- A change of the memories and the flash that keeps their forms. -/
theorem keeps_mem {m : MemState} (hs : Keeps s0 s)
    (h1 : Memory.wf 0 s.mem.pantry = true → Memory.wf 0 m.pantry = true) (h2 : Memory.wf 0 s.mem.larder = true → Memory.wf 0 m.larder = true) :
    Keeps s0 { s with mem := m } :=
  Keeps.trans hs ⟨fun c => ⟨h1 c.1, h2 c.2.1, c.2.2⟩, id, rfl, id, le_refl _⟩

theorem keeps_mp {m : Mp} (hs : Keeps s0 s) (h : Memory.wf 0xFF s.mp.flash = true → Memory.wf 0xFF m.flash = true) :
    Keeps s0 { s with mp := m } :=
  Keeps.trans hs ⟨fun c => ⟨c.1, c.2.1, h c.2.2.1, c.2.2.2⟩, id, rfl, id, le_refl _⟩

theorem keeps_rings {m : Assoc Ring} (hs : Keeps s0 s) (h : assocWf {} s.rings = true → assocWf {} m = true) : Keeps s0 { s with rings := m } :=
  Keeps.trans hs ⟨fun c => ⟨c.1, c.2.1, c.2.2.1, c.2.2.2.1, h c.2.2.2.2.1, c.2.2.2.2.2⟩, id, rfl, id, le_refl _⟩

theorem keeps_leaf {m : Assoc (BitVec 32)} (hs : Keeps s0 s) (h : assocWf 0 s.leaf = true → assocWf 0 m = true) : Keeps s0 { s with leaf := m } :=
  Keeps.trans hs ⟨fun c => ⟨c.1, c.2.1, c.2.2.1, c.2.2.2.1, c.2.2.2.2.1, h c.2.2.2.2.2⟩, id, rfl, id, le_refl _⟩

/-- Many operations one after the other. -/
theorem keeps_foldl {β : Type} {f : State → β → State} {l : List β} (hf : ∀ t b, Keeps s0 t → Keeps s0 (f t b)) (hs : Keeps s0 s) :
    Keeps s0 (l.foldl f s) := by
  induction l generalizing s with
  | nil => exact hs
  | cons b l ih => exact ih (hf s b hs)

/-- However an archive change ends, its state keeps. -/
def ArcKeeps (s0 : State) (r : ArcResult) : Prop := Keeps s0 (arcState r)

theorem arcKeeps_done (h : Keeps s0 s) : ArcKeeps s0 (.done s) := h
theorem arcKeeps_full (h : Keeps s0 s) : ArcKeeps s0 (.full s) := h
theorem arcKeeps_failed (h : Keeps s0 s) : ArcKeeps s0 (.failed s) := h

theorem arcKeeps_ite {c : Prop} [Decidable c] {x y : ArcResult} (hx : ArcKeeps s0 x) (hy : ArcKeeps s0 y) : ArcKeeps s0 (if c then x else y) := by
  split <;> assumption

/-- The state an envelope's commit ends in. -/
def endState : EnvEnd → State
  | .applied s _ => s
  | .rejected _ s => s
  | .struck s => s

/-- However an envelope's commit ends, its state keeps. -/
def EndKeeps (s0 : State) (r : EnvEnd) : Prop := Keeps s0 (endState r)

theorem endKeeps_applied {r : Bytes} (h : Keeps s0 s) : EndKeeps s0 (.applied s r) := h
theorem endKeeps_rejected {d : Nat} (h : Keeps s0 s) : EndKeeps s0 (.rejected d s) := h
theorem endKeeps_struck (h : Keeps s0 s) : EndKeeps s0 (.struck s) := h

theorem endKeeps_ite {c : Prop} [Decidable c] {x y : EnvEnd} (hx : EndKeeps s0 x) (hy : EndKeeps s0 y) : EndKeeps s0 (if c then x else y) := by
  split <;> assumption

end Sys2Proof.Laws
end

