-- ==== Sys2Proof/Laws/KeepsOps.lean ====
section
/-! SUPPORT. Every operation of Machine/Ops.lean keeps what `Keeps` says. -/

namespace Sys2Proof.Laws

open Sys2Proof.Machine Sys2Proof.Safety

variable {s0 : State}

theorem keeps_modPort (p : Nat) (f : PortState → PortState) {s : State}  (hk : Keeps s0 s) :
    Keeps s0 (modPort s p f) := by
  unfold modPort
  repeat' first
    | with_reducible assumption
    | (refine keeps_mk ?_ rfl rfl rfl ?_ ?_ ?_ ?_ ?_ ?_ ?_ ?_ ?_ ?_ ?_ ?_ ?_ ?_ <;> first | assumption | rfl | exact id | exact assocWf_clear _ _ | exact memWf_write _ _ | exact assocWf_set _ _ | exact (fun c x hx => c x (List.mem_filter.1 hx).1) | (simp; done) | skip)

theorem keeps_modPd (i : Nat) (f : Pd → Pd) {s : State}  (hk : Keeps s0 s) :
    Keeps s0 (modPd s i f) := by
  unfold modPd
  repeat' first
    | with_reducible assumption
    | (refine keeps_mk ?_ rfl rfl rfl ?_ ?_ ?_ ?_ ?_ ?_ ?_ ?_ ?_ ?_ ?_ ?_ ?_ ?_ <;> first | assumption | rfl | exact id | exact assocWf_clear _ _ | exact memWf_write _ _ | exact assocWf_set _ _ | exact (fun c x hx => c x (List.mem_filter.1 hx).1) | (simp; done) | skip)

theorem keeps_modBlock (b : Nat) (f : Health → Health) {s : State}  (hk : Keeps s0 s) :
    Keeps s0 (modBlock s b f) := by
  unfold modBlock
  repeat' first
    | with_reducible assumption
    | (refine keeps_mk ?_ rfl rfl rfl ?_ ?_ ?_ ?_ ?_ ?_ ?_ ?_ ?_ ?_ ?_ ?_ ?_ ?_ <;> first | assumption | rfl | exact id | exact assocWf_clear _ _ | exact memWf_write _ _ | exact assocWf_set _ _ | exact (fun c x hx => c x (List.mem_filter.1 hx).1) | (simp; done) | skip)

theorem keeps_setRing (r : Nat) (v : Ring) {s : State} (hs : Keeps s0 s) : Keeps s0 (setRing s r v) :=
  keeps_rings hs (assocWf_set r v)

theorem keeps_modRing (r : Nat) (f : Ring → Ring) {s : State}  (hk : Keeps s0 s) :
    Keeps s0 (modRing s r f) := by
  unfold modRing
  repeat' first
    | with_reducible assumption
    | with_reducible apply keeps_setRing

theorem keeps_setLeaf (r : Nat) {s : State} (hs : Keeps s0 s) : Keeps s0 (setLeaf s r) := keeps_leaf hs (assocWf_set _ _)

theorem keeps_clearLeafMask (w : Nat) (m : BitVec 32) {s : State} (hs : Keeps s0 s) : Keeps s0 (clearLeafMask s w m) :=
  keeps_leaf hs (assocWf_set _ _)

theorem keeps_clearLeaf (r : Nat) {s : State}  (hk : Keeps s0 s) :
    Keeps s0 (clearLeaf s r) := by
  unfold clearLeaf
  repeat' first
    | with_reducible assumption
    | with_reducible apply keeps_clearLeafMask

/-- A change of one hamper that leaves its cups canonical. -/
theorem keeps_modHamper_cups (h : Nat) (f : Hamper → Hamper) {s : State}
    (h_f : ∀ x, Memory.wf 0 x.cups = true → Memory.wf 0 (f x).cups = true) (hs : Keeps s0 s) : Keeps s0 (modHamper s h f) := by
  refine keeps_hampers hs fun c x hx => ?_
  obtain ⟨y, hy, rfl⟩ := List.mem_map.1 hx
  split
  · exact h_f y (c y hy)
  · exact c y hy

theorem keeps_modHamper (h : Nat) (f : Hamper → Hamper) {s : State} (h_f : ∀ x, (f x).cups = x.cups) (hs : Keeps s0 s) :
    Keeps s0 (modHamper s h f) :=
  keeps_modHamper_cups h f (fun x hx => (h_f x).symm ▸ hx) hs

theorem keeps_modThermos (f : Thermos → Thermos) {s : State}  (hk : Keeps s0 s) :
    Keeps s0 (modThermos s f) := by
  unfold modThermos
  repeat' first
    | with_reducible assumption
    | (refine keeps_mk ?_ rfl rfl rfl ?_ ?_ ?_ ?_ ?_ ?_ ?_ ?_ ?_ ?_ ?_ ?_ ?_ ?_ <;> first | assumption | rfl | exact id | exact assocWf_clear _ _ | exact memWf_write _ _ | exact assocWf_set _ _ | exact (fun c x hx => c x (List.mem_filter.1 hx).1) | (simp; done) | skip)

theorem keeps_modDom (d : Nat) (f : DomRec → DomRec) {s : State}  (hk : Keeps s0 s) :
    Keeps s0 (modDom s d f) := by
  unfold modDom
  repeat' first
    | with_reducible assumption
    | with_reducible apply keeps_modThermos

theorem keeps_wakeBank (b : Nat) {s : State}  (hk : Keeps s0 s) :
    Keeps s0 (wakeBank s b) := by
  unfold wakeBank
  repeat' first
    | with_reducible assumption
    | with_reducible apply keeps_modPd

theorem keeps_pantryPut (p : Nat) (v : Bytes) {s : State} (hs : Keeps s0 s) : Keeps s0 (pantryPut s p v) :=
  keeps_mem (keeps_wakeBank _ hs) (memWf_write _ _) id

theorem keeps_writeCompletion (r p a : Nat) (e : Bytes) (d : Done) {s : State} (hk : Keeps s0 s) :
    Keeps s0 (writeCompletion s r p a e d) := by
  unfold writeCompletion
  repeat' first
    | with_reducible assumption
    | with_reducible apply keeps_setLeaf
    | with_reducible apply keeps_pantryPut
    | with_reducible apply keeps_ite
    | exact (fun _ h => h)
    | (intro _; rfl)
    | (intro _ _ _)
    | (intro _ _)
    | dsimp only

theorem keeps_settleHead (r : Nat) {s : State}  (hk : Keeps s0 s) :
    Keeps s0 (settleHead s r) := by
  unfold settleHead
  repeat' first
    | with_reducible assumption
    | with_reducible apply keeps_modRing

theorem keeps_unbindRing (r : Nat) {s : State}  (hk : Keeps s0 s) :
    Keeps s0 (unbindRing s r) := by
  unfold unbindRing
  repeat' first
    | with_reducible assumption
    | with_reducible apply keeps_clearLeaf
    | with_reducible apply keeps_setRing
    | dsimp only
    | (refine keeps_mk ?_ rfl rfl rfl ?_ ?_ ?_ ?_ ?_ ?_ ?_ ?_ ?_ ?_ ?_ ?_ ?_ ?_ <;> first | assumption | rfl | exact id | exact assocWf_clear _ _ | exact memWf_write _ _ | exact assocWf_set _ _ | exact (fun c x hx => c x (List.mem_filter.1 hx).1) | (simp; done) | skip)

theorem keeps_endDrain (r : Nat) {s : State}  (hk : Keeps s0 s) :
    Keeps s0 (endDrain s r) := by
  unfold endDrain
  repeat' first
    | with_reducible assumption
    | with_reducible apply keeps_unbindRing
    | with_reducible apply keeps_ite

theorem keeps_freeEngines (h : Nat) {s : State}  (hk : Keeps s0 s) :
    Keeps s0 (freeEngines s h) := by
  unfold freeEngines
  repeat' first
    | with_reducible assumption
    | with_reducible apply keeps_ite
    | (intro _ _ _)
    | (intro _ _)
    | (intro _; rfl)
    | dsimp only
    | (refine keeps_mk ?_ rfl rfl rfl ?_ ?_ ?_ ?_ ?_ ?_ ?_ ?_ ?_ ?_ ?_ ?_ ?_ ?_ <;> first | assumption | rfl | exact id | exact assocWf_clear _ _ | exact memWf_write _ _ | exact assocWf_set _ _ | exact (fun c x hx => c x (List.mem_filter.1 hx).1) | (simp; done) | skip)

theorem keeps_settlePart (r : Nat) (e : Bytes) (d : Done) {s : State} (hk : Keeps s0 s) :
    Keeps s0 (settlePart r e d s) := by
  unfold settlePart
  repeat' first
    | with_reducible assumption
    | with_reducible apply keeps_ite
    | exact (fun _ h => h)
    | (intro _; rfl)
    | (intro _ _ _)
    | (intro _ _)
    | dsimp only
    | (refine keeps_mk ?_ rfl rfl rfl ?_ ?_ ?_ ?_ ?_ ?_ ?_ ?_ ?_ ?_ ?_ ?_ ?_ ?_ <;> first | assumption | rfl | exact id | exact assocWf_clear _ _ | exact memWf_write _ _ | exact assocWf_set _ _ | exact (fun c x hx => c x (List.mem_filter.1 hx).1) | (simp; done) | skip)

theorem keeps_settleCurrent (h : Nat) (d : Done) {s : State} (hk : Keeps s0 s) :
    Keeps s0 (settleCurrent h d s) := by
  unfold settleCurrent
  repeat' first
    | with_reducible assumption
    | with_reducible apply keeps_settlePart
    | with_reducible apply keeps_ite
    | exact (fun _ h => h)
    | (intro _; rfl)
    | (intro _ _ _)
    | (intro _ _)
    | split
    | dsimp only

theorem keeps_finishEntry (h : Nat) (d : Done) {s : State} (hk : Keeps s0 s) :
    Keeps s0 (finishEntry s h d) := by
  unfold finishEntry
  repeat' first
    | with_reducible assumption
    | with_reducible apply keeps_freeEngines
    | with_reducible apply keeps_modHamper
    | with_reducible apply keeps_settleCurrent
    | with_reducible apply keeps_ite
    | exact (fun _ h => h)
    | (intro _; rfl)
    | (intro _ _ _)
    | (intro _ _)
    | dsimp only

theorem keeps_releaseCups (x : Hamper) {s : State}  (hk : Keeps s0 s) :
    Keeps s0 (releaseCups s x) := by
  unfold releaseCups
  repeat' first
    | with_reducible assumption
    | (refine keeps_mk ?_ rfl rfl rfl ?_ ?_ ?_ ?_ ?_ ?_ ?_ ?_ ?_ ?_ ?_ ?_ ?_ ?_ <;> first | assumption | rfl | exact id | exact assocWf_clear _ _ | exact memWf_write _ _ | exact assocWf_set _ _ | exact (fun c x hx => c x (List.mem_filter.1 hx).1) | (simp; done) | skip)

theorem keeps_settleDup (x : Hamper) {s : State}  (hk : Keeps s0 s) :
    Keeps s0 (settleDup s x) := by
  unfold settleDup
  repeat' first
    | with_reducible assumption
    | with_reducible apply keeps_ite
    | exact (fun _ h => h)
    | (intro _ _ _)
    | (intro _ _)
    | (intro _; rfl)
    | split
    | dsimp only
    | (refine keeps_mk ?_ rfl rfl rfl ?_ ?_ ?_ ?_ ?_ ?_ ?_ ?_ ?_ ?_ ?_ ?_ ?_ ?_ <;> first | assumption | rfl | exact id | exact assocWf_clear _ _ | exact memWf_write _ _ | exact assocWf_set _ _ | exact (fun c x hx => c x (List.mem_filter.1 hx).1) | (simp; done) | skip)

theorem keeps_setClaim (p : Nat) (c : Option Nat) {s : State} (hk : Keeps s0 s) : Keeps s0 (setClaim p c s) := by
  refine keeps_mk hk rfl rfl rfl id id id ?_ id id rfl rfl rfl rfl rfl rfl (by simp) rfl
  intro hc x hx
  obtain ⟨y, hy, rfl⟩ := List.mem_map.1 hx
  split <;> exact hc y hy

theorem keeps_nextClaim (p h : Nat) {s : State} (hk : Keeps s0 s) :
    Keeps s0 (nextClaim s p h) := by
  unfold nextClaim
  repeat' first
    | with_reducible assumption
    | with_reducible apply keeps_setClaim
    | with_reducible apply keeps_ite
    | exact (fun _ h => h)
    | (intro _; rfl)
    | (intro _ _ _)
    | (intro _ _)
    | dsimp only

theorem keeps_saveCounters (d : Nat) {s : State}  (hk : Keeps s0 s) :
    Keeps s0 (saveCounters d s) := by
  unfold saveCounters
  repeat' first
    | with_reducible assumption
    | with_reducible apply keeps_modDom
    | with_reducible apply keeps_ite
    | (intro _ _ _)
    | (intro _ _)
    | (intro _; rfl)
    | split
    | dsimp only
    | (refine keeps_mk ?_ rfl rfl rfl ?_ ?_ ?_ ?_ ?_ ?_ ?_ ?_ ?_ ?_ ?_ ?_ ?_ ?_ <;> first | assumption | rfl | exact id | exact assocWf_clear _ _ | exact memWf_write _ _ | exact assocWf_set _ _ | exact (fun c x hx => c x (List.mem_filter.1 hx).1) | (simp; done) | skip)

theorem keeps_countMeter (d : Nat) (k : Nat) (n : Nat) {s : State}  (hk : Keeps s0 s) :
    Keeps s0 (countMeter d k n s) := by
  unfold countMeter
  repeat' first
    | with_reducible assumption
    | with_reducible apply keeps_saveCounters
    | with_reducible apply keeps_ite
    | split
    | dsimp only
    | (refine keeps_mk ?_ rfl rfl rfl ?_ ?_ ?_ ?_ ?_ ?_ ?_ ?_ ?_ ?_ ?_ ?_ ?_ ?_ <;> first | assumption | rfl | exact id | exact assocWf_clear _ _ | exact memWf_write _ _ | exact assocWf_set _ _ | exact (fun c x hx => c x (List.mem_filter.1 hx).1) | (simp; done) | skip)

theorem keeps_completeEntry (x : Hamper) (e : TakenEntry) (d : Done) {s : State} (hk : Keeps s0 s) :
    Keeps s0 (completeEntry s x e d) := by
  unfold completeEntry
  repeat' first
    | with_reducible assumption
    | with_reducible apply keeps_countMeter
    | with_reducible apply keeps_writeCompletion
    | with_reducible apply keeps_ite
    | exact (fun _ h => h)
    | (intro _; rfl)
    | (intro _ _ _)
    | (intro _ _)
    | split
    | dsimp only

theorem keeps_writeCompletions (x : Hamper) (rest : Done) {s : State} (hk : Keeps s0 s) :
    Keeps s0 (writeCompletions s x rest) := by
  unfold writeCompletions
  repeat' first
    | with_reducible assumption
    | with_reducible apply keeps_foldl
    | with_reducible apply keeps_completeEntry
    | with_reducible apply keeps_ite
    | exact (fun _ h => h)
    | (intro _; rfl)
    | (intro _ _ _)
    | (intro _ _)
    | dsimp only

theorem keeps_dropPosted (l : List Nat) {s : State} (hk : Keeps s0 s) :
    Keeps s0 (dropPosted l s) := by
  unfold dropPosted
  repeat' first
    | with_reducible assumption
    | with_reducible apply keeps_modThermos
    | with_reducible apply keeps_ite
    | exact (fun _ h => h)
    | (intro _; rfl)
    | (intro _ _ _)
    | (intro _ _)
    | dsimp only

theorem keeps_closeHamper (x : Hamper) (rest : Done) {s : State} (hs : Keeps s0 s) : Keeps s0 (closeHamper s x rest) := by
  unfold closeHamper
  refine keeps_endDrain _ (keeps_nextClaim _ _ (keeps_settleHead _ (keeps_settleDup _ (keeps_releaseCups _ ?_))))
  refine keeps_hampers (keeps_freeEngines _ (keeps_dropPosted _ (keeps_writeCompletions _ _ (keeps_foldl (fun t e ht => ?_) hs))))
    fun c y hy => c y (List.mem_filter.1 hy).1
  split
  · exact keeps_settlePart _ _ _ ht
  · exact ht

theorem keeps_afterDraw (n : Nat) {s : State} (hk : Keeps s0 s) :
    Keeps s0 (afterDraw s n) := by
  unfold afterDraw
  repeat' first
    | with_reducible assumption
    | with_reducible apply keeps_ite
    | exact (fun _ h => h)
    | (intro _; rfl)
    | (intro _ _ _)
    | (intro _ _)
    | dsimp only
    | (refine keeps_mk ?_ rfl rfl rfl ?_ ?_ ?_ ?_ ?_ ?_ ?_ ?_ ?_ ?_ ?_ ?_ ?_ ?_ <;> first | assumption | rfl | exact id | exact assocWf_clear _ _ | exact memWf_write _ _ | exact assocWf_set _ _ | exact (fun c x hx => c x (List.mem_filter.1 hx).1) | (simp; done) | skip)

theorem keeps_markAlive {s : State} (hk : Keeps s0 s) :
    Keeps s0 (markAlive s) := by
  unfold markAlive
  repeat' first
    | with_reducible assumption
    | with_reducible apply keeps_ite
    | exact (fun _ h => h)
    | (intro _; rfl)
    | (intro _ _ _)
    | (intro _ _)
    | dsimp only
    | (refine keeps_mk ?_ rfl rfl rfl ?_ ?_ ?_ ?_ ?_ ?_ ?_ ?_ ?_ ?_ ?_ ?_ ?_ ?_ <;> first | assumption | rfl | exact id | exact assocWf_clear _ _ | exact memWf_write _ _ | exact assocWf_set _ _ | exact (fun c x hx => c x (List.mem_filter.1 hx).1) | (simp; done) | skip)

theorem keeps_emptyStore {s : State} (hk : Keeps s0 s) :
    Keeps s0 (emptyStore s) := by
  unfold emptyStore
  repeat' first
    | with_reducible assumption
    | with_reducible apply keeps_ite
    | exact (fun _ h => h)
    | (intro _; rfl)
    | (intro _ _ _)
    | (intro _ _)
    | dsimp only
    | (refine keeps_mk ?_ rfl rfl rfl ?_ ?_ ?_ ?_ ?_ ?_ ?_ ?_ ?_ ?_ ?_ ?_ ?_ ?_ <;> first | assumption | rfl | exact id | exact assocWf_clear _ _ | exact memWf_write _ _ | exact assocWf_set _ _ | exact (fun c x hx => c x (List.mem_filter.1 hx).1) | (simp; done) | skip)

theorem keeps_zeroSlots (l : List Nat) {s : State} (hk : Keeps s0 s) :
    Keeps s0 (zeroSlots l s) := by
  unfold zeroSlots
  repeat' first
    | with_reducible assumption
    | with_reducible apply keeps_foldl
    | with_reducible apply keeps_ite
    | exact (fun _ h => h)
    | (intro _; rfl)
    | (intro _ _ _)
    | (intro _ _)
    | dsimp only
    | (refine keeps_mk ?_ rfl rfl rfl ?_ ?_ ?_ ?_ ?_ ?_ ?_ ?_ ?_ ?_ ?_ ?_ ?_ ?_ <;> first | assumption | rfl | exact id | exact assocWf_clear _ _ | exact memWf_write _ _ | exact assocWf_set _ _ | exact (fun c x hx => c x (List.mem_filter.1 hx).1) | (simp; done) | skip)

end Sys2Proof.Laws
end

