-- ==== Sys2Proof/Laws/KeepsEvents.lean ====
section
/-! SUPPORT. Every operation of Machine/Events.lean keeps what `Keeps` says. -/

namespace Sys2Proof.Laws

open Sys2Proof.Machine Sys2Proof.Safety

variable {s0 : State}

theorem keeps_recordOnly (b : Nat) (src : Nat) (detail : Nat) (sev : Nat) (dom : Option Nat) {s : State}  (hk : Keeps s0 s) :
    Keeps s0 (recordOnly b src detail sev dom s) := by
  unfold recordOnly
  repeat' first
    | with_reducible assumption
    | with_reducible apply keeps_modBlock

theorem keeps_rewindWindow (w : Nat) {s : State} (hk : Keeps s0 s) :
    Keeps s0 (rewindWindow s w) := by
  unfold rewindWindow
  repeat' first
    | with_reducible assumption
    | with_reducible apply keeps_ite
    | exact (fun _ h => h)
    | (intro _; rfl)
    | (intro _ _ _)
    | (intro _ _)
    | dsimp only
    | (refine keeps_mk ?_ rfl rfl rfl ?_ ?_ ?_ ?_ ?_ ?_ ?_ ?_ ?_ ?_ ?_ ?_ ?_ ?_ <;> first | assumption | rfl | exact id | exact assocWf_clear _ _ | exact memWf_write _ _ | exact assocWf_set _ _ | exact (fun c x hx => c x (List.mem_filter.1 hx).1) | (simp; done) | skip)

theorem keeps_recordRestart (w : Nat) {s : State} (hk : Keeps s0 s) :
    Keeps s0 (recordRestart s w) := by
  unfold recordRestart
  repeat' first
    | with_reducible assumption
    | with_reducible apply keeps_recordOnly
    | with_reducible apply keeps_rewindWindow
    | with_reducible apply keeps_ite
    | exact (fun _ h => h)
    | (intro _; rfl)
    | (intro _ _ _)
    | (intro _ _)
    | dsimp only

theorem keeps_lowerMarks  {s : State}  (hk : Keeps s0 s) :
    Keeps s0 (lowerMarks s) := by
  unfold lowerMarks
  repeat' first
    | with_reducible assumption
    | with_reducible apply keeps_modDom
    | with_reducible apply keeps_foldl
    | with_reducible apply keeps_ite
    | (intro _ _ _)

theorem keeps_checkpoint  {s : State}  (hk : Keeps s0 s) :
    Keeps s0 (checkpoint s) := by
  unfold checkpoint
  repeat' first
    | with_reducible assumption
    | with_reducible apply keeps_lowerMarks
    | with_reducible apply keeps_saveCounters
    | with_reducible apply keeps_modThermos
    | with_reducible apply keeps_foldl
    | (intro _ _ _)

theorem keeps_eraseEngines {s : State} (hk : Keeps s0 s) :
    Keeps s0 (eraseEngines s) := by
  unfold eraseEngines
  repeat' first
    | with_reducible assumption
    | with_reducible apply keeps_foldl
    | with_reducible apply keeps_recordRestart
    | with_reducible apply keeps_ite
    | exact (fun _ h => h)
    | (intro _; rfl)
    | (intro _ _ _)
    | (intro _ _)
    | dsimp only
    | (refine keeps_mk ?_ rfl rfl rfl ?_ ?_ ?_ ?_ ?_ ?_ ?_ ?_ ?_ ?_ ?_ ?_ ?_ ?_ <;> first | assumption | rfl | exact id | exact assocWf_clear _ _ | exact memWf_write _ _ | exact assocWf_set _ _ | exact (fun c x hx => c x (List.mem_filter.1 hx).1) | (simp; done) | skip)

theorem keeps_quarantineHamper (x : Hamper) {s : State} (hk : Keeps s0 s) :
    Keeps s0 (quarantineHamper s x) := by
  unfold quarantineHamper
  repeat' first
    | with_reducible assumption
    | with_reducible apply keeps_closeHamper
    | with_reducible apply keeps_ite
    | exact (fun _ h => h)
    | (intro _; rfl)
    | (intro _ _ _)
    | (intro _ _)
    | dsimp only

theorem keeps_flagQuarantine (b src : Nat) {s : State} (hk : Keeps s0 s) : Keeps s0 (flagQuarantine b src s) := keeps_modThermos _ hk

/-- The loads of keys are no part of what is kept. -/
theorem keeps_dropLoads {s : State} (hk : Keeps s0 s) : Keeps s0 { s with loads := [] } :=
  keeps_mk hk rfl rfl rfl id id id id id id rfl rfl rfl rfl rfl rfl rfl rfl

theorem keeps_eraseWork {s : State} (hk : Keeps s0 s) : Keeps s0 (eraseWork s) :=
  have h := keeps_dropLoads (keeps_emptyStore (keeps_eraseEngines (keeps_markAlive hk)))
  keeps_ite h (keeps_checkpoint h)

theorem keeps_quarantined {s : State} (hk : Keeps s0 s) : Keeps s0 (quarantined s) :=
  keeps_mk hk rfl rfl rfl id id id id id id rfl rfl rfl rfl rfl rfl rfl rfl

/-- ALIVE stops: nothing kept depends on it. -/
theorem keeps_stopAlive {s : State} (hk : Keeps s0 s) : Keeps s0 { s with boot := { s.boot with aliveStopped := true } } :=
  keeps_mk hk rfl rfl rfl id id id id id id rfl rfl rfl rfl rfl rfl rfl rfl

theorem keeps_enterQuarantine (b src : Nat) {s : State} (hk : Keeps s0 s) :
    Keeps s0 (enterQuarantine b src s) :=
  have h := keeps_flagQuarantine b src hk
  keeps_ite (keeps_stopAlive h) (keeps_quarantined (keeps_foldl (fun _ x hx => keeps_quarantineHamper x hx) (keeps_eraseWork h)))

theorem keeps_suspendByEvent (b src d : Nat) {s : State} (hk : Keeps s0 s) :
    Keeps s0 (suspendByEvent b src d s) := by
  unfold suspendByEvent
  repeat' first
    | with_reducible assumption
    | with_reducible apply keeps_modDom
    | with_reducible apply keeps_modBlock
    | with_reducible apply keeps_ite
    | exact (fun _ h => h)
    | (intro _; rfl)
    | (intro _ _ _)
    | (intro _ _)
    | dsimp only
    | (refine keeps_mk ?_ rfl rfl rfl ?_ ?_ ?_ ?_ ?_ ?_ ?_ ?_ ?_ ?_ ?_ ?_ ?_ ?_ <;> first | assumption | rfl | exact id | exact assocWf_clear _ _ | exact memWf_write _ _ | exact assocWf_set _ _ | exact (fun c x hx => c x (List.mem_filter.1 hx).1) | (simp; done) | skip)

theorem keeps_reactBase (b : Nat) (src : Nat) (sev : Nat) (dom : Option Nat) {s : State}  (hk : Keeps s0 s) :
    Keeps s0 (reactBase b src sev dom s) := by
  unfold reactBase
  repeat' first
    | with_reducible assumption
    | with_reducible apply keeps_enterQuarantine
    | with_reducible apply keeps_suspendByEvent
    | with_reducible apply keeps_ite
    | split

theorem keeps_captureSev (b : Nat) (src : Nat) (detail : Nat) (sev : Nat) (dom : Option Nat) {s : State}  (hk : Keeps s0 s) :
    Keeps s0 (captureSev b src detail sev dom s) := by
  unfold captureSev
  repeat' first
    | with_reducible assumption
    | with_reducible apply keeps_recordOnly
    | with_reducible apply keeps_reactBase
    | with_reducible apply keeps_ite

theorem keeps_capture (b : Nat) (src : Nat) (detail : Nat) (dom : Option Nat) {s : State}  (hk : Keeps s0 s) :
    Keeps s0 (capture b src detail dom s) := by
  unfold capture
  repeat' first
    | with_reducible assumption
    | with_reducible apply keeps_captureSev

theorem keeps_noteDegraded  {s : State}  (hk : Keeps s0 s) :
    Keeps s0 (noteDegraded s) := by
  unfold noteDegraded
  repeat' first
    | with_reducible assumption
    | with_reducible apply keeps_capture
    | with_reducible apply keeps_ite
    | split
    | (refine keeps_mk ?_ rfl rfl rfl ?_ ?_ ?_ ?_ ?_ ?_ ?_ ?_ ?_ ?_ ?_ ?_ ?_ ?_ <;> first | assumption | rfl | exact id | exact assocWf_clear _ _ | exact memWf_write _ _ | exact assocWf_set _ _ | exact (fun c x hx => c x (List.mem_filter.1 hx).1) | (simp; done) | skip)

theorem keeps_logRetirement (kind : Nat) (index : Nat) (cause : Nat) {s : State}  (hk : Keeps s0 s) :
    Keeps s0 (logRetirement s kind index cause) := by
  unfold logRetirement
  repeat' first
    | with_reducible assumption
    | with_reducible apply keeps_modThermos
    | with_reducible apply keeps_ite

theorem keeps_retire (i : Nat) (cause : Nat) {s : State}  (hk : Keeps s0 s) :
    Keeps s0 (retire i cause s) := by
  unfold retire
  repeat' first
    | with_reducible assumption
    | with_reducible apply keeps_logRetirement
    | with_reducible apply keeps_modPd
    | with_reducible apply keeps_noteDegraded
    | with_reducible apply keeps_capture
    | with_reducible apply keeps_ite

theorem keeps_fence (i : Nat) {s : State}  (hk : Keeps s0 s) :
    Keeps s0 (fence i s) := by
  unfold fence
  repeat' first
    | with_reducible assumption
    | with_reducible apply keeps_retire
    | with_reducible apply keeps_modPd
    | with_reducible apply keeps_ite

theorem keeps_reactMajor (b : Nat) (src : Nat) (detail : Nat) (sev : Nat) (dom : Option Nat) {s : State}  (hk : Keeps s0 s) :
    Keeps s0 (reactMajor b src detail sev dom s) := by
  unfold reactMajor
  repeat' first
    | with_reducible assumption
    | with_reducible apply keeps_fence
    | with_reducible apply keeps_ite
    | split

theorem keeps_raiseSev (b : Nat) (src : Nat) (detail : Nat) (sev : Nat) (dom : Option Nat) {s : State}  (hk : Keeps s0 s) :
    Keeps s0 (raiseSev b src detail sev dom s) := by
  unfold raiseSev
  repeat' first
    | with_reducible assumption
    | with_reducible apply keeps_captureSev
    | with_reducible apply keeps_reactMajor
    | with_reducible apply keeps_ite

theorem keeps_raise (b : Nat) (src : Nat) (detail : Nat) (dom : Option Nat) {s : State}  (hk : Keeps s0 s) :
    Keeps s0 (raise b src detail dom s) := by
  unfold raise
  repeat' first
    | with_reducible assumption
    | with_reducible apply keeps_raiseSev

theorem keeps_restartWindow (w : Nat) {s : State} (hk : Keeps s0 s) :
    Keeps s0 (restartWindow s w) := by
  unfold restartWindow
  repeat' first
    | with_reducible assumption
    | with_reducible apply keeps_raise
    | with_reducible apply keeps_rewindWindow
    | with_reducible apply keeps_ite
    | exact (fun _ h => h)
    | (intro _; rfl)
    | (intro _ _ _)
    | (intro _ _)
    | dsimp only

theorem keeps_reactMerged (b : Nat) (l : List MergedEvent) {s : State} (hs : Keeps s0 s) : Keeps s0 (reactMerged b l s) := by
  induction l generalizing s with
  | nil => exact hs
  | cons e t ih => exact ih (keeps_reactMajor _ _ _ _ _ (keeps_reactBase _ _ _ _ hs))

theorem keeps_endReaction (b : Nat) {s : State}  (hk : Keeps s0 s) :
    Keeps s0 (endReaction b s) := by
  unfold endReaction
  repeat' first
    | with_reducible assumption
    | with_reducible apply keeps_reactMerged
    | with_reducible apply keeps_modBlock
    | with_reducible apply keeps_ite

theorem keeps_wrongState (b : Nat) {s : State}  (hk : Keeps s0 s) :
    Keeps s0 (wrongState b s) := by
  unfold wrongState
  repeat' first
    | with_reducible assumption
    | with_reducible apply keeps_modBlock

end Sys2Proof.Laws
end

