-- ==== Sys2Proof/Laws/KeepsInterval.lean ====
section
/-! SUPPORT. Every operation of Machine/Interval.lean keeps what `Keeps` says. -/

namespace Sys2Proof.Laws

open Sys2Proof.Machine Sys2Proof.Safety

variable {s0 : State}

theorem keeps_unpost (seq : Nat) {s : State} (hs : Keeps s0 s) : Keeps s0 (unpost seq s) := by
  refine keeps_hampers hs fun c x hx => ?_
  obtain ⟨y, hy, rfl⟩ := List.mem_map.1 hx
  exact c y hy

theorem keeps_putRecord (d : Nat) (m : MeterRec) {s t : State} (ht : putRecord d m s = some t) (hs : Keeps s0 s) : Keeps s0 t := by
  unfold putRecord at ht
  split at ht
  · cases ht
    exact keeps_ite (keeps_raise _ _ _ _ (keeps_modThermos _ hs)) (keeps_modThermos _ hs)
  · cases h : absorber s m with
    | none => simp [h] at ht
    | some c =>
      simp only [h, Option.map_some, Option.some.injEq] at ht
      subst ht
      exact keeps_raise _ _ _ _ (keeps_unpost _ (keeps_modThermos _ hs))

theorem keeps_holdRecord (d : Nat) {s : State} (hk : Keeps s0 s) :
    Keeps s0 (holdRecord d s) := by
  unfold holdRecord
  repeat' first
    | with_reducible assumption
    | with_reducible apply keeps_modDom
    | with_reducible apply keeps_raise
    | with_reducible apply keeps_ite
    | exact (fun _ h => h)
    | (intro _; rfl)
    | (intro _ _ _)
    | (intro _ _)
    | dsimp only
    | (refine keeps_mk ?_ rfl rfl rfl ?_ ?_ ?_ ?_ ?_ ?_ ?_ ?_ ?_ ?_ ?_ ?_ ?_ ?_ <;> first | assumption | rfl | exact id | exact assocWf_clear _ _ | exact memWf_write _ _ | exact assocWf_set _ _ | exact (fun c x hx => c x (List.mem_filter.1 hx).1) | (simp; done) | skip)

theorem keeps_openRecord (d start cls : Nat) {s : State} (hk : Keeps s0 s) :
    Keeps s0 (openRecord d start cls s) := by
  unfold openRecord
  repeat' first
    | with_reducible assumption
    | with_reducible apply keeps_modDom
    | with_reducible apply keeps_ite
    | exact (fun _ h => h)
    | (intro _; rfl)
    | (intro _ _ _)
    | (intro _ _)
    | dsimp only
    | (refine keeps_mk ?_ rfl rfl rfl ?_ ?_ ?_ ?_ ?_ ?_ ?_ ?_ ?_ ?_ ?_ ?_ ?_ ?_ <;> first | assumption | rfl | exact id | exact assocWf_clear _ _ | exact memWf_write _ _ | exact assocWf_set _ _ | exact (fun c x hx => c x (List.mem_filter.1 hx).1) | (simp; done) | skip)

theorem keeps_dropDue (d : Nat) (stop : Nat) {s : State}  (hk : Keeps s0 s) :
    Keeps s0 (dropDue d stop s) := by
  unfold dropDue
  repeat' first
    | with_reducible assumption
    | with_reducible apply keeps_modThermos

theorem keeps_boundaryDomain (stop extra d : Nat) {s : State} (hs : Keeps s0 s) : Keeps s0 (boundaryDomain stop extra d s) := by
  unfold boundaryDomain
  split
  · exact keeps_dropDue _ _ (keeps_openRecord _ _ _ (keeps_putRecord _ _ (by assumption) hs))
  · exact keeps_holdRecord _ hs

theorem keeps_advanceBoundary (at_ : Nat) {s : State}  (hk : Keeps s0 s) :
    Keeps s0 (advanceBoundary at_ s) := by
  unfold advanceBoundary
  repeat' first
    | with_reducible assumption
    | with_reducible apply keeps_modThermos

theorem keeps_closeBoundary {s : State} (hk : Keeps s0 s) :
    Keeps s0 (closeBoundary s) := by
  unfold closeBoundary
  repeat' first
    | with_reducible assumption
    | with_reducible apply keeps_advanceBoundary
    | with_reducible apply keeps_foldl
    | with_reducible apply keeps_boundaryDomain
    | with_reducible apply keeps_ite
    | exact (fun _ h => h)
    | (intro _; rfl)
    | (intro _ _ _)
    | (intro _ _)
    | dsimp only

theorem keeps_passTime (f t : Nat) {s : State} (hs : Keeps s0 s) : Keeps s0 (passTime f t s) := by
  have h (n : Nat) : Keeps s0 { s with mono := max s.mono n } := Keeps.trans hs ⟨id, id, rfl, id, le_max_left _ _⟩
  induction f generalizing s with
  | zero => exact h t
  | succ f ih =>
    unfold passTime
    split
    · exact ih (keeps_closeBoundary (h _)) fun n => Keeps.trans (keeps_closeBoundary (h _)) ⟨id, id, rfl, id, le_max_left _ _⟩
    · exact h t

theorem keeps_elapseTo (t : Nat) {s : State} (hs : Keeps s0 s) : Keeps s0 (elapseTo t s) := keeps_passTime _ t hs

end Sys2Proof.Laws
end

