-- ==== Sys2Proof/Laws/KeepsMemory.lean ====
section
/-! SUPPORT. Every operation of Machine/Memory.lean keeps what `Keeps` says. -/

namespace Sys2Proof.Laws

open Sys2Proof.Machine Sys2Proof.Safety

variable {s0 : State}

theorem keeps_faultRing (r : Nat) (cause : Nat) {s : State}  (hk : Keeps s0 s) :
    Keeps s0 (faultRing r cause s) := by
  unfold faultRing
  repeat' first
    | with_reducible assumption
    | with_reducible apply keeps_setLeaf
    | with_reducible apply keeps_setRing
    | with_reducible apply keeps_raise
    | with_reducible apply keeps_ite
    | split

theorem keeps_countRow (a : Nat) (n : Nat) {s : State}  (hk : Keeps s0 s) :
    Keeps s0 (countRow a n s) := by
  unfold countRow
  repeat' first
    | with_reducible assumption
    | (refine keeps_mk ?_ rfl rfl rfl ?_ ?_ ?_ ?_ ?_ ?_ ?_ ?_ ?_ ?_ ?_ ?_ ?_ ?_ <;> first | assumption | rfl | exact id | exact assocWf_clear _ _ | exact memWf_write _ _ | exact assocWf_set _ _ | exact (fun c x hx => c x (List.mem_filter.1 hx).1) | (simp; done) | skip)

theorem keeps_recordUe (a : Nat) (kind : Nat) (src : Nat) {s : State}  (hk : Keeps s0 s) :
    Keeps s0 (recordUe a kind src s) := by
  unfold recordUe
  repeat' first
    | with_reducible assumption
    | (refine keeps_mk ?_ rfl rfl rfl ?_ ?_ ?_ ?_ ?_ ?_ ?_ ?_ ?_ ?_ ?_ ?_ ?_ ?_ <;> first | assumption | rfl | exact id | exact assocWf_clear _ _ | exact memWf_write _ _ | exact assocWf_set _ _ | exact (fun c x hx => c x (List.mem_filter.1 hx).1) | (simp; done) | skip)

theorem keeps_zeroUnit (a : Nat) (n : Nat) {s : State}  (hk : Keeps s0 s) :
    Keeps s0 (zeroUnit a n s) := by
  unfold zeroUnit
  repeat' first
    | with_reducible assumption
    | (refine keeps_mk ?_ rfl rfl rfl ?_ ?_ ?_ ?_ ?_ ?_ ?_ ?_ ?_ ?_ ?_ ?_ ?_ ?_ <;> first | assumption | rfl | exact id | exact assocWf_clear _ _ | exact memWf_write _ _ | exact assocWf_set _ _ | exact (fun c x hx => c x (List.mem_filter.1 hx).1) | (simp; done) | skip)

theorem keeps_rebuildLeaf (w : Nat) {s : State}  (hk : Keeps s0 s) :
    Keeps s0 (rebuildLeaf w s) := by
  unfold rebuildLeaf
  repeat' first
    | with_reducible assumption
    | with_reducible apply keeps_foldl
    | with_reducible apply keeps_ite
    | (intro _ _ _)
    | (intro _ _)
    | (intro _; rfl)
    | dsimp only
    | (refine keeps_mk ?_ rfl rfl rfl ?_ ?_ ?_ ?_ ?_ ?_ ?_ ?_ ?_ ?_ ?_ ?_ ?_ ?_ <;> first | assumption | rfl | exact id | exact assocWf_clear _ _ | exact memWf_write _ _ | exact assocWf_set _ _ | exact (fun c x hx => c x (List.mem_filter.1 hx).1) | (simp; done) | skip)

theorem keeps_strikeReserved (a : Nat) {s : State} (hs : Keeps s0 s) : Keeps s0 (strikeReserved a s) := by
  unfold strikeReserved
  repeat' first
    | with_reducible assumption
    | with_reducible apply keeps_ite
    | with_reducible apply keeps_rebuildLeaf
    | with_reducible apply keeps_foldl
    | (intro _ _ _)
    | with_reducible apply keeps_finishEntry
    | dsimp only
    | exact keeps_mk hs rfl rfl rfl id id id id id id rfl rfl rfl rfl rfl rfl rfl rfl

theorem keeps_strikeContext (r : Nat) {s : State} (hk : Keeps s0 s) :
    Keeps s0 (strikeContext r s) := by
  unfold strikeContext
  repeat' first
    | with_reducible assumption
    | with_reducible apply keeps_raise
    | with_reducible apply keeps_setLeaf
    | with_reducible apply keeps_setRing
    | with_reducible apply keeps_faultRing
    | with_reducible apply keeps_modRing
    | with_reducible apply keeps_ite
    | exact (fun _ h => h)
    | (intro _; rfl)
    | (intro _ _ _)
    | (intro _ _)
    | dsimp only

theorem keeps_strikePantry (a : Nat) {s : State} (hs : Keeps s0 s) : Keeps s0 (strikePantry a s) := by
  unfold strikePantry
  split
  · exact keeps_mem (keeps_zeroUnit _ _ hs) id id
  · exact keeps_strikeContext _ hs
  · split
    · exact keeps_modHamper_cups _ _ (fun _ h => assocWf_clear _ _ h) hs
    · exact hs
  · split
    · exact keeps_raise _ _ _ _ (keeps_mk hs rfl rfl rfl id id id id id id rfl rfl rfl rfl rfl rfl rfl rfl)
    · exact hs
  · exact keeps_raise _ _ _ _ (keeps_strikeReserved _ hs)

theorem keeps_settleWords (a n : Nat) {s : State} (hk : Keeps s0 s) :
    Keeps s0 (settleWords a n s) := by
  unfold settleWords
  repeat' first
    | with_reducible assumption
    | with_reducible apply keeps_ite
    | exact (fun _ h => h)
    | (intro _; rfl)
    | (intro _ _ _)
    | (intro _ _)
    | dsimp only
    | (refine keeps_mk ?_ rfl rfl rfl ?_ ?_ ?_ ?_ ?_ ?_ ?_ ?_ ?_ ?_ ?_ ?_ ?_ ?_ <;> first | assumption | rfl | exact id | exact assocWf_clear _ _ | exact memWf_write _ _ | exact assocWf_set _ _ | exact (fun c x hx => c x (List.mem_filter.1 hx).1) | (simp; done) | skip)

theorem keeps_meetWord (a nbits src : Nat) {s : State} (hk : Keeps s0 s) :
    Keeps s0 (meetWord a nbits src s) := by
  unfold meetWord
  repeat' first
    | with_reducible assumption
    | with_reducible apply keeps_settleWords
    | with_reducible apply keeps_countRow
    | with_reducible apply keeps_raise
    | with_reducible apply keeps_recordUe
    | with_reducible apply keeps_strikePantry
    | with_reducible apply keeps_ite
    | exact (fun _ h => h)
    | (intro _; rfl)
    | (intro _ _ _)
    | (intro _ _)
    | dsimp only
    | (refine keeps_mk ?_ rfl rfl rfl ?_ ?_ ?_ ?_ ?_ ?_ ?_ ?_ ?_ ?_ ?_ ?_ ?_ ?_ <;> first | assumption | rfl | exact id | exact assocWf_clear _ _ | exact memWf_write _ _ | exact assocWf_set _ _ | exact (fun c x hx => c x (List.mem_filter.1 hx).1) | (simp; done) | skip)

theorem keeps_touchPantry (a : Nat) (n : Nat) (src : Nat) {s : State}  (hk : Keeps s0 s) :
    Keeps s0 (touchPantry a n src s) := by
  unfold touchPantry
  repeat' first
    | with_reducible assumption
    | with_reducible apply keeps_meetWord
    | with_reducible apply keeps_foldl
    | (intro _ _ _)

theorem keeps_touchKind (kind : Nat) (f : State → Nat → Bool) {s : State} (hk : Keeps s0 s) :
    Keeps s0 (touchKind kind f s) := by
  unfold touchKind
  repeat' first
    | with_reducible assumption
    | with_reducible apply keeps_foldl
    | with_reducible apply keeps_meetWord
    | with_reducible apply keeps_ite
    | exact (fun _ h => h)
    | (intro _; rfl)
    | (intro _ _ _)
    | (intro _ _)
    | dsimp only

theorem keeps_touchCups (h : Nat) {s : State} (hk : Keeps s0 s) :
    Keeps s0 (touchCups h s) := by
  unfold touchCups
  repeat' first
    | with_reducible assumption
    | with_reducible apply keeps_touchKind
    | with_reducible apply keeps_ite
    | exact (fun _ h => h)
    | (intro _; rfl)
    | (intro _ _ _)
    | (intro _ _)
    | dsimp only

theorem keeps_touchDups (d : Nat) {s : State} (hk : Keeps s0 s) :
    Keeps s0 (touchDups d s) := by
  unfold touchDups
  repeat' first
    | with_reducible assumption
    | with_reducible apply keeps_touchKind
    | with_reducible apply keeps_ite
    | exact (fun _ h => h)
    | (intro _; rfl)
    | (intro _ _ _)
    | (intro _ _)
    | dsimp only

theorem keeps_touchReserved (lo hi : Nat) {s : State} (hk : Keeps s0 s) :
    Keeps s0 (touchReserved lo hi s) := by
  unfold touchReserved
  repeat' first
    | with_reducible assumption
    | with_reducible apply keeps_touchKind
    | with_reducible apply keeps_ite
    | exact (fun _ h => h)
    | (intro _; rfl)
    | (intro _ _ _)
    | (intro _ _)
    | dsimp only

theorem keeps_failLine (u : Nat) {s : State}  (hk : Keeps s0 s) :
    Keeps s0 (failLine u s) := by
  unfold failLine
  repeat' first
    | with_reducible assumption
    | with_reducible apply keeps_raise
    | with_reducible apply keeps_recordUe
    | dsimp only
    | (refine keeps_mk ?_ rfl rfl rfl ?_ ?_ ?_ ?_ ?_ ?_ ?_ ?_ ?_ ?_ ?_ ?_ ?_ ?_ <;> first | assumption | rfl | exact id | exact assocWf_clear _ _ | exact memWf_write _ _ | exact assocWf_set _ _ | exact (fun c x hx => c x (List.mem_filter.1 hx).1) | (simp; done) | skip)

theorem keeps_touchLarder (a : Nat) (n : Nat) {s : State}  (hk : Keeps s0 s) :
    Keeps s0 (touchLarder a n s) := by
  unfold touchLarder
  repeat' first
    | with_reducible assumption
    | with_reducible apply keeps_failLine
    | with_reducible apply keeps_foldl
    | with_reducible apply keeps_ite
    | (intro _ _ _)

theorem keeps_touchParts (a n : Nat) {s : State} (hk : Keeps s0 s) :
    Keeps s0 (touchParts a n s) := by
  unfold touchParts
  repeat' first
    | with_reducible assumption
    | with_reducible apply keeps_foldl
    | with_reducible apply keeps_failLine
    | with_reducible apply keeps_ite
    | exact (fun _ h => h)
    | (intro _; rfl)
    | (intro _ _ _)
    | (intro _ _)
    | dsimp only

theorem keeps_touch (a n : Nat) {s : State} (hk : Keeps s0 s) :
    Keeps s0 (touch a n s) := by
  unfold touch
  repeat' first
    | with_reducible assumption
    | with_reducible apply keeps_touchLarder
    | with_reducible apply keeps_touchReserved
    | with_reducible apply keeps_touchPantry
    | with_reducible apply keeps_ite
    | exact (fun _ h => h)
    | (intro _; rfl)
    | (intro _ _ _)
    | (intro _ _)
    | dsimp only

theorem keeps_larderPut (a : Nat) (v : Bytes) {s : State} (hk : Keeps s0 s) :
    Keeps s0 (larderPut s a v) := by
  unfold larderPut
  repeat' first
    | with_reducible assumption
    | with_reducible apply keeps_foldl
    | with_reducible apply keeps_ite
    | exact (fun _ h => h)
    | (intro _; rfl)
    | (intro _ _ _)
    | (intro _ _)
    | dsimp only
    | (refine keeps_mk ?_ rfl rfl rfl ?_ ?_ ?_ ?_ ?_ ?_ ?_ ?_ ?_ ?_ ?_ ?_ ?_ ?_ <;> first | assumption | rfl | exact id | exact assocWf_clear _ _ | exact memWf_write _ _ | exact assocWf_set _ _ | exact (fun c x hx => c x (List.mem_filter.1 hx).1) | (simp; done) | skip)

theorem keeps_touchEdges (a : Nat) (n : Nat) {s : State}  (hk : Keeps s0 s) :
    Keeps s0 (touchEdges a n s) := by
  unfold touchEdges
  repeat' first
    | with_reducible assumption
    | with_reducible apply keeps_touchPantry
    | with_reducible apply keeps_ite

theorem keeps_arenaPut (a : Nat) (v : Bytes) {s : State} (hk : Keeps s0 s) :
    Keeps s0 (arenaPut s a v) := by
  unfold arenaPut
  repeat' first
    | with_reducible assumption
    | with_reducible apply keeps_touchEdges
    | with_reducible apply keeps_foldl
    | with_reducible apply keeps_wakeBank
    | with_reducible apply keeps_settleWords
    | with_reducible apply keeps_ite
    | exact (fun _ h => h)
    | (intro _; rfl)
    | (intro _ _ _)
    | (intro _ _)
    | dsimp only
    | (refine keeps_mk ?_ rfl rfl rfl ?_ ?_ ?_ ?_ ?_ ?_ ?_ ?_ ?_ ?_ ?_ ?_ ?_ ?_ <;> first | assumption | rfl | exact id | exact assocWf_clear _ _ | exact memWf_write _ _ | exact assocWf_set _ _ | exact (fun c x hx => c x (List.mem_filter.1 hx).1) | (simp; done) | skip)

theorem keeps_writeArena (a : Nat) (v : Bytes) {s : State} (hk : Keeps s0 s) :
    Keeps s0 (writeArena a v s) := by
  unfold writeArena
  repeat' first
    | with_reducible assumption
    | with_reducible apply keeps_larderPut
    | with_reducible apply keeps_touchParts
    | with_reducible apply keeps_arenaPut
    | with_reducible apply keeps_ite
    | exact (fun _ h => h)
    | (intro _; rfl)
    | (intro _ _ _)
    | (intro _ _)
    | dsimp only

theorem keeps_wipeRange (a n : Nat) {s : State} (hk : Keeps s0 s) :
    Keeps s0 (wipeRange a n s) := by
  unfold wipeRange
  repeat' first
    | with_reducible assumption
    | with_reducible apply keeps_ite
    | exact (fun _ h => h)
    | (intro _; rfl)
    | (intro _ _ _)
    | (intro _ _)
    | dsimp only
    | (refine keeps_mk ?_ rfl rfl rfl ?_ ?_ ?_ ?_ ?_ ?_ ?_ ?_ ?_ ?_ ?_ ?_ ?_ ?_ <;> first | assumption | rfl | exact id | exact assocWf_clear _ _ | exact memWf_write _ _ | exact assocWf_set _ _ | exact (fun c x hx => c x (List.mem_filter.1 hx).1) | (simp; done) | skip)

theorem keeps_copyRow (bank : Nat) (row : Nat) {s : State}  (hk : Keeps s0 s) :
    Keeps s0 (copyRow bank row s) := by
  unfold copyRow
  repeat' first
    | with_reducible assumption
    | with_reducible apply keeps_meetWord
    | with_reducible apply keeps_foldl
    | (intro _ _ _)
    | (intro _ _)
    | (intro _; rfl)
    | dsimp only
    | (refine keeps_mk ?_ rfl rfl rfl ?_ ?_ ?_ ?_ ?_ ?_ ?_ ?_ ?_ ?_ ?_ ?_ ?_ ?_ <;> first | assumption | rfl | exact id | exact assocWf_clear _ _ | exact memWf_write _ _ | exact assocWf_set _ _ | exact (fun c x hx => c x (List.mem_filter.1 hx).1) | (simp; done) | skip)

theorem keeps_remapRow (bank : Nat) (row : Nat) (j : Nat) {s : State}  (hk : Keeps s0 s) :
    Keeps s0 (remapRow bank row j s) := by
  unfold remapRow
  repeat' first
    | with_reducible assumption
    | with_reducible apply keeps_modThermos

theorem keeps_remapEffect (bank : Nat) (row : Nat) {s : State}  (hk : Keeps s0 s) :
    Keeps s0 (remapEffect bank row s) := by
  unfold remapEffect
  repeat' first
    | with_reducible assumption
    | with_reducible apply keeps_raise
    | with_reducible apply keeps_remapRow
    | with_reducible apply keeps_copyRow
    | with_reducible apply keeps_ite
    | split
    | (refine keeps_mk ?_ rfl rfl rfl ?_ ?_ ?_ ?_ ?_ ?_ ?_ ?_ ?_ ?_ ?_ ?_ ?_ ?_ <;> first | assumption | rfl | exact id | exact assocWf_clear _ _ | exact memWf_write _ _ | exact assocWf_set _ _ | exact (fun c x hx => c x (List.mem_filter.1 hx).1) | (simp; done) | skip)

theorem keeps_writebackEffect (a : Nat) {s : State}  (hk : Keeps s0 s) :
    Keeps s0 (writebackEffect a s) := by
  unfold writebackEffect
  repeat' first
    | with_reducible assumption
    | with_reducible apply keeps_ite
    | (refine keeps_mk ?_ rfl rfl rfl ?_ ?_ ?_ ?_ ?_ ?_ ?_ ?_ ?_ ?_ ?_ ?_ ?_ ?_ <;> first | assumption | rfl | exact id | exact assocWf_clear _ _ | exact memWf_write _ _ | exact assocWf_set _ _ | exact (fun c x hx => c x (List.mem_filter.1 hx).1) | (simp; done) | skip)

end Sys2Proof.Laws
end

