-- ==== Sys2Proof/Laws/KeepsWindow.lean ====
section
/-! SUPPORT. Every operation of Machine/Window.lean keeps what `Keeps` says. -/

namespace Sys2Proof.Laws

open Sys2Proof.Machine Sys2Proof.Safety

variable {s0 : State}

theorem keeps_flashPut (a : Nat) (v : Bytes) {s : State}  (hk : Keeps s0 s) :
    Keeps s0 (flashPut a v s) := by
  unfold flashPut
  repeat' first
    | with_reducible assumption
    | (refine keeps_mk ?_ rfl rfl rfl ?_ ?_ ?_ ?_ ?_ ?_ ?_ ?_ ?_ ?_ ?_ ?_ ?_ ?_ <;> first | assumption | rfl | exact id | exact assocWf_clear _ _ | exact memWf_write _ _ | exact assocWf_set _ _ | exact (fun c x hx => c x (List.mem_filter.1 hx).1) | (simp; done) | skip)

theorem keeps_fillLine (u : Nat) (xip : Bool) {s : State}  (hk : Keeps s0 s) :
    Keeps s0 (fillLine u xip s) := by
  unfold fillLine
  repeat' first
    | with_reducible assumption
    | (intro _ _ _)
    | (intro _ _)
    | (intro _; rfl)
    | split
    | dsimp only
    | (refine keeps_mk ?_ rfl rfl rfl ?_ ?_ ?_ ?_ ?_ ?_ ?_ ?_ ?_ ?_ ?_ ?_ ?_ ?_ <;> first | assumption | rfl | exact id | exact assocWf_clear _ _ | exact memWf_write _ _ | exact assocWf_set _ _ | exact (fun c x hx => c x (List.mem_filter.1 hx).1) | (simp; done) | skip)

theorem keeps_emptyCache  {s : State}  (hk : Keeps s0 s) :
    Keeps s0 (emptyCache s) := by
  unfold emptyCache
  repeat' first
    | with_reducible assumption
    | (refine keeps_mk ?_ rfl rfl rfl ?_ ?_ ?_ ?_ ?_ ?_ ?_ ?_ ?_ ?_ ?_ ?_ ?_ ?_ <;> first | assumption | rfl | exact id | exact assocWf_clear _ _ | exact memWf_write _ _ | exact assocWf_set _ _ | exact (fun c x hx => c x (List.mem_filter.1 hx).1) | (simp; done) | skip)

theorem keeps_requestWake (i : Nat) {s : State}  (hk : Keeps s0 s) :
    Keeps s0 (requestWake i s) := by
  unfold requestWake
  repeat' first
    | with_reducible assumption
    | with_reducible apply keeps_modPd
    | with_reducible apply keeps_ite
    | (intro _ _ _)
    | (intro _ _)
    | (intro _; rfl)
    | split
    | dsimp only
    | (refine keeps_mk ?_ rfl rfl rfl ?_ ?_ ?_ ?_ ?_ ?_ ?_ ?_ ?_ ?_ ?_ ?_ ?_ ?_ <;> first | assumption | rfl | exact id | exact assocWf_clear _ _ | exact memWf_write _ _ | exact assocWf_set _ _ | exact (fun c x hx => c x (List.mem_filter.1 hx).1) | (simp; done) | skip)

theorem keeps_beginNext {s : State} (hk : Keeps s0 s) :
    Keeps s0 (beginNext s) := by
  unfold beginNext
  repeat' first
    | with_reducible assumption
    | with_reducible apply keeps_ite
    | exact (fun _ h => h)
    | (intro _; rfl)
    | (intro _ _ _)
    | (intro _ _)
    | dsimp only
    | (refine keeps_mk ?_ rfl rfl rfl ?_ ?_ ?_ ?_ ?_ ?_ ?_ ?_ ?_ ?_ ?_ ?_ ?_ ?_ <;> first | assumption | rfl | exact id | exact assocWf_clear _ _ | exact memWf_write _ _ | exact assocWf_set _ _ | exact (fun c x hx => c x (List.mem_filter.1 hx).1) | (simp; done) | skip)

theorem keeps_endTransaction {s : State} (hk : Keeps s0 s) :
    Keeps s0 (endTransaction s) := by
  unfold endTransaction
  repeat' first
    | with_reducible assumption
    | with_reducible apply keeps_ite
    | exact (fun _ h => h)
    | (intro _; rfl)
    | (intro _ _ _)
    | (intro _ _)
    | dsimp only
    | (refine keeps_mk ?_ rfl rfl rfl ?_ ?_ ?_ ?_ ?_ ?_ ?_ ?_ ?_ ?_ ?_ ?_ ?_ ?_ <;> first | assumption | rfl | exact id | exact assocWf_clear _ _ | exact memWf_write _ _ | exact assocWf_set _ _ | exact (fun c x hx => c x (List.mem_filter.1 hx).1) | (simp; done) | skip)

theorem keeps_queueWork (w : MpWork) {s : State} (hk : Keeps s0 s) :
    Keeps s0 (queueWork w s) := by
  unfold queueWork
  repeat' first
    | with_reducible assumption
    | with_reducible apply keeps_beginNext
    | with_reducible apply keeps_requestWake
    | with_reducible apply keeps_ite
    | exact (fun _ h => h)
    | (intro _; rfl)
    | (intro _ _ _)
    | (intro _ _)
    | dsimp only
    | (refine keeps_mk ?_ rfl rfl rfl ?_ ?_ ?_ ?_ ?_ ?_ ?_ ?_ ?_ ?_ ?_ ?_ ?_ ?_ <;> first | assumption | rfl | exact id | exact assocWf_clear _ _ | exact memWf_write _ _ | exact assocWf_set _ _ | exact (fun c x hx => c x (List.mem_filter.1 hx).1) | (simp; done) | skip)

theorem keeps_queuePrefetch (p : Port) (u : Nat) {s : State}  (hk : Keeps s0 s) :
    Keeps s0 (queuePrefetch p u s) := by
  unfold queuePrefetch
  repeat' first
    | with_reducible assumption
    | with_reducible apply keeps_queueWork
    | with_reducible apply keeps_foldl
    | with_reducible apply keeps_ite
    | (intro _ _ _)
    | (intro _ _)
    | (intro _; rfl)
    | split

theorem keeps_extendMeas (i : Nat) (v : Bytes) {s : State}  (hk : Keeps s0 s) :
    Keeps s0 (extendMeas i v s) := by
  unfold extendMeas
  repeat' first
    | with_reducible assumption
    | dsimp only
    | (refine keeps_mk ?_ rfl rfl rfl ?_ ?_ ?_ ?_ ?_ ?_ ?_ ?_ ?_ ?_ ?_ ?_ ?_ ?_ <;> first | assumption | rfl | exact id | exact assocWf_clear _ _ | exact memWf_write _ _ | exact assocWf_set _ _ | exact (fun c x hx => c x (List.mem_filter.1 hx).1) | (simp; done) | skip)

theorem keeps_finishWindow (w : Nat) {s : State}  (hk : Keeps s0 s) :
    Keeps s0 (finishWindow w s) := by
  unfold finishWindow
  repeat' first
    | with_reducible assumption
    | with_reducible apply keeps_raise
    | with_reducible apply keeps_extendMeas
    | with_reducible apply keeps_ite
    | dsimp only
    | (refine keeps_mk ?_ rfl rfl rfl ?_ ?_ ?_ ?_ ?_ ?_ ?_ ?_ ?_ ?_ ?_ ?_ ?_ ?_ <;> first | assumption | rfl | exact id | exact assocWf_clear _ _ | exact memWf_write _ _ | exact assocWf_set _ _ | exact (fun c x hx => c x (List.mem_filter.1 hx).1) | (simp; done) | skip)

theorem keeps_feedWindow (w : Nat) (a : Nat) (b : Bytes) {s : State}  (hk : Keeps s0 s) :
    Keeps s0 (feedWindow w a b s) := by
  unfold feedWindow
  repeat' first
    | with_reducible assumption
    | with_reducible apply keeps_finishWindow
    | with_reducible apply keeps_ite
    | dsimp only
    | (refine keeps_mk ?_ rfl rfl rfl ?_ ?_ ?_ ?_ ?_ ?_ ?_ ?_ ?_ ?_ ?_ ?_ ?_ ?_ <;> first | assumption | rfl | exact id | exact assocWf_clear _ _ | exact memWf_write _ _ | exact assocWf_set _ _ | exact (fun c x hx => c x (List.mem_filter.1 hx).1) | (simp; done) | skip)

theorem keeps_armWindow (w : Nat) (a : Nat) (n : Nat) {s : State}  (hk : Keeps s0 s) :
    Keeps s0 (armWindow w a n s) := by
  unfold armWindow
  repeat' first
    | with_reducible assumption
    | with_reducible apply keeps_ite
    | dsimp only
    | (refine keeps_mk ?_ rfl rfl rfl ?_ ?_ ?_ ?_ ?_ ?_ ?_ ?_ ?_ ?_ ?_ ?_ ?_ ?_ <;> first | assumption | rfl | exact id | exact assocWf_clear _ _ | exact memWf_write _ _ | exact assocWf_set _ _ | exact (fun c x hx => c x (List.mem_filter.1 hx).1) | (simp; done) | skip)

theorem keeps_tongsRead (a : Nat) (b : Bytes) {s : State}  (hk : Keeps s0 s) :
    Keeps s0 (tongsRead a b s) := by
  unfold tongsRead
  repeat' first
    | with_reducible assumption
    | with_reducible apply keeps_feedWindow
    | with_reducible apply keeps_armWindow
    | with_reducible apply keeps_foldl
    | (intro _ _ _)

theorem keeps_queueMisses (p : Port) (a n : Nat) {s : State} (hk : Keeps s0 s) :
    Keeps s0 (queueMisses p a n s) := by
  unfold queueMisses
  repeat' first
    | with_reducible assumption
    | with_reducible apply keeps_foldl
    | with_reducible apply keeps_queueWork
    | with_reducible apply keeps_ite
    | exact (fun _ h => h)
    | (intro _; rfl)
    | (intro _ _ _)
    | (intro _ _)
    | dsimp only

theorem keeps_windowRead (p : Port) (a n : Nat) (ready : Bool) {s : State} (hk : Keeps s0 s) :
    Keeps s0 (windowRead p a n ready s).1 := by
  unfold windowRead
  repeat' first
    | with_reducible assumption
    | with_reducible apply keeps_foldl
    | with_reducible apply keeps_queuePrefetch
    | with_reducible apply keeps_fillLine
    | with_reducible apply keeps_tongsRead
    | with_reducible apply keeps_queueMisses
    | with_reducible apply keeps_ite
    | exact (fun _ h => h)
    | (intro _; rfl)
    | (intro _ _ _)
    | (intro _ _)
    | split
    | dsimp only

theorem keeps_dropLines (a n : Nat) {s : State} (hk : Keeps s0 s) : Keeps s0 (dropLines a n s) := keeps_mp hk id

theorem keeps_setOp (p : Nat) (o : WinOp) {s : State}  (hk : Keeps s0 s) :
    Keeps s0 (setOp p o s) := by
  unfold setOp
  repeat' first
    | with_reducible assumption
    | with_reducible apply keeps_modPort

theorem keeps_dropOp (p : Nat) (seq : Nat) {s : State}  (hk : Keeps s0 s) :
    Keeps s0 (dropOp p seq s) := by
  unfold dropOp
  repeat' first
    | with_reducible assumption
    | with_reducible apply keeps_modPort

theorem keeps_refreshLines (a : Nat) (n : Nat) {s : State}  (hk : Keeps s0 s) :
    Keeps s0 (refreshLines a n s) := by
  unfold refreshLines
  repeat' first
    | with_reducible assumption
    | with_reducible apply keeps_ite
    | (intro _ _ _)
    | (intro _ _)
    | (intro _; rfl)
    | dsimp only
    | (refine keeps_mk ?_ rfl rfl rfl ?_ ?_ ?_ ?_ ?_ ?_ ?_ ?_ ?_ ?_ ?_ ?_ ?_ ?_ <;> first | assumption | rfl | exact id | exact assocWf_clear _ _ | exact memWf_write _ _ | exact assocWf_set _ _ | exact (fun c x hx => c x (List.mem_filter.1 hx).1) | (simp; done) | skip)

theorem keeps_endOp (p : Nat) (o : WinOp) (ok : Bool) {s : State}  (hk : Keeps s0 s) :
    Keeps s0 (endOp p o ok s) := by
  unfold endOp
  repeat' first
    | with_reducible assumption
    | with_reducible apply keeps_refreshLines
    | with_reducible apply keeps_dropOp
    | with_reducible apply keeps_modPort
    | with_reducible apply keeps_ite

theorem keeps_startOps (n : Nat) {s : State} (hs : Keeps s0 s) : Keeps s0 (startOps n s) := by
  induction n generalizing s with
  | zero => exact hs
  | succ f ih =>
    unfold startOps
    refine keeps_ite ?_ hs
    split
    · exact hs
    · refine keeps_ite hs ?_
      exact keeps_ite (ih (keeps_endOp _ _ _ (keeps_setOp _ _ hs))) (keeps_setOp _ _ hs)

theorem keeps_enqueueOp (p : Nat) (kind : WinKind) (a : Nat) (v : Bytes) {s : State}  (hk : Keeps s0 s) :
    Keeps s0 (enqueueOp p kind a v s) := by
  unfold enqueueOp
  repeat' first
    | with_reducible assumption
    | with_reducible apply keeps_modPort
    | with_reducible apply keeps_startOps
    | with_reducible apply keeps_requestWake

theorem keeps_failOp (p : Nat) (o : WinOp) {s : State}  (hk : Keeps s0 s) :
    Keeps s0 (failOp p o s) := by
  unfold failOp
  repeat' first
    | with_reducible assumption
    | with_reducible apply keeps_startOps
    | with_reducible apply keeps_endOp
    | with_reducible apply keeps_raise
    | with_reducible apply keeps_flashPut
    | with_reducible apply keeps_ite
    | (intro _ _ _)
    | (intro _ _)
    | (intro _; rfl)
    | dsimp only
    | (refine keeps_mk ?_ rfl rfl rfl ?_ ?_ ?_ ?_ ?_ ?_ ?_ ?_ ?_ ?_ ?_ ?_ ?_ ?_ <;> first | assumption | rfl | exact id | exact assocWf_clear _ _ | exact memWf_write _ _ | exact assocWf_set _ _ | exact (fun c x hx => c x (List.mem_filter.1 hx).1) | (simp; done) | skip)

theorem keeps_stepDone (p : Nat) (o : WinOp) {s : State}  (hk : Keeps s0 s) :
    Keeps s0 (stepDone p o s) := by
  unfold stepDone
  repeat' first
    | with_reducible assumption
    | with_reducible apply keeps_startOps
    | with_reducible apply keeps_endOp
    | with_reducible apply keeps_flashPut
    | with_reducible apply keeps_setOp
    | with_reducible apply keeps_ite
    | split
    | dsimp only
    | (refine keeps_mk ?_ rfl rfl rfl ?_ ?_ ?_ ?_ ?_ ?_ ?_ ?_ ?_ ?_ ?_ ?_ ?_ ?_ <;> first | assumption | rfl | exact id | exact assocWf_clear _ _ | exact memWf_write _ _ | exact assocWf_set _ _ | exact (fun c x hx => c x (List.mem_filter.1 hx).1) | (simp; done) | skip)

theorem wf_tornFlash {s : State} (h : Memory.wf 0xFF s.mp.flash = true) : Memory.wf 0xFF (tornFlash s) = true := by
  unfold tornFlash
  split
  · exact memWf_write _ _ h
  · exact h

/-- A cut-off write changes no byte outside its target (R399). -/
theorem tornFlash_other {s : State} {a : Nat} (h : ∀ r, tornRange s = some r → a < r.1 ∨ r.1 + r.2 ≤ a) :
    assocGetD 0xFF (tornFlash s) a = assocGetD 0xFF s.mp.flash a := by
  unfold tornFlash
  split
  · rename_i r hr
    exact memWrite_other (by simpa using h r hr)
  · rfl

end Sys2Proof.Laws
end

