-- ==== Sys2Proof/Laws/KeepsReset.lean ====
section
/-! SUPPORT. Every operation of Machine/Reset.lean keeps what `Keeps` says. -/

namespace Sys2Proof.Laws

open Sys2Proof.Machine Sys2Proof.Safety

variable {s0 : State}

theorem keeps_clearedState (cause : Nat) {s : State} (hk : Keeps s0 s) : Keeps s0 (clearedState cause s) := by
  refine Keeps.trans hk ⟨fun c => ⟨rfl, rfl, wf_tornFlash c.2.2.1, ?_, rfl, rfl⟩, fun _ => ⟨rfl, rfl, rfl, rfl, rfl, rfl, rfl, rfl⟩, rfl, id, le_refl _⟩
  intro x hx
  cases hx

theorem keeps_powerOn  {s : State}  (hk : Keeps s0 s) :
    Keeps s0 (powerOn s) := by
  unfold powerOn
  repeat' first
    | with_reducible assumption
    | with_reducible apply keeps_clearedState
    | (refine keeps_mk ?_ rfl rfl rfl ?_ ?_ ?_ ?_ ?_ ?_ ?_ ?_ ?_ ?_ ?_ ?_ ?_ ?_ <;> first | assumption | rfl | exact id | exact assocWf_clear _ _ | exact memWf_write _ _ | exact assocWf_set _ _ | exact (fun c x hx => c x (List.mem_filter.1 hx).1) | (simp; done) | skip)

end Sys2Proof.Laws
end

