-- ==== Sys2Proof/Laws/KeepsQueue.lean ====
section
/-! SUPPORT. Every operation of Machine/Queue.lean keeps what `Keeps` says. -/

namespace Sys2Proof.Laws

open Sys2Proof.Machine Sys2Proof.Safety

variable {s0 : State}

theorem keeps_examine (r f i : Nat) (ph : Bool) (have_ room : Nat) (acc : List TakenEntry) {s : State} (hs : Keeps s0 s) :
    Keeps s0 (examine r f i ph have_ room acc s).1 := by
  induction f generalizing i ph have_ room acc s with
  | zero => exact hs
  | succ f ih =>
    unfold examine
    dsimp only
    have ht := keeps_wakeBank (bankOf (entryAddr (ringOf s r) i)) (keeps_touchPantry (entryAddr (ringOf s r) i) 64 0 hs)
    repeat' first
      | with_reducible exact hs
      | with_reducible exact ht
      | with_reducible exact ih _ _ _ _ _ ht
      | split

theorem keeps_advanceTail (r : Nat) (n : Nat) {s : State}  (hk : Keeps s0 s) :
    Keeps s0 (advanceTail r n s) := by
  unfold advanceTail
  repeat' first
    | with_reducible assumption
    | with_reducible apply keeps_modRing

theorem keeps_takeEntries (r : Nat) (es : List TakenEntry) (closed : Bool) {s : State} (hs : Keeps s0 s) :
    Keeps s0 (takeEntries r es closed s) := by
  unfold takeEntries
  split
  · exact keeps_modHamper _ _ (fun _ => rfl) (keeps_advanceTail _ _ hs)
  · refine keeps_mk (keeps_advanceTail r es.length hs) rfl rfl rfl id id id ?_ id id rfl rfl rfl rfl rfl rfl rfl rfl
    intro c x hx
    rcases List.mem_append.1 hx with hx | hx
    · exact c x hx
    · rw [List.mem_singleton.1 hx]
      rfl

theorem keeps_rejectHamper (h : Nat) (d : Done) {s : State}  (hk : Keeps s0 s) :
    Keeps s0 (rejectHamper h d s) := by
  unfold rejectHamper
  repeat' first
    | with_reducible assumption
    | with_reducible apply keeps_closeHamper
    | split

theorem keeps_rejectTooBig (r : Nat) {s : State}  (hk : Keeps s0 s) :
    Keeps s0 (rejectTooBig r s) := by
  unfold rejectTooBig
  repeat' first
    | with_reducible assumption
    | with_reducible apply keeps_rejectHamper
    | exact (fun _ h => h)
    | (intro _ _ _)
    | (intro _ _)
    | (intro _; rfl)
    | split

theorem keeps_takeOne (r : Nat) {s : State} (hk : Keeps s0 s) :
    Keeps s0 (takeOne r s).1 := by
  unfold takeOne
  repeat' first
    | with_reducible assumption
    | with_reducible apply keeps_examine
    | with_reducible apply keeps_takeEntries
    | with_reducible apply keeps_rejectTooBig
    | with_reducible apply keeps_faultRing
    | with_reducible apply keeps_ite
    | exact (fun _ h => h)
    | (intro _; rfl)
    | (intro _ _ _)
    | (intro _ _)
    | split
    | dsimp only

theorem keeps_takeAll (r n : Nat) {s : State} (hs : Keeps s0 s) : Keeps s0 (takeAll r n s) := by
  induction n generalizing s with
  | zero => exact hs
  | succ f ih => exact keeps_ite (ih (keeps_takeOne _ hs)) (keeps_takeOne _ hs)

theorem keeps_readRing (r : Nat) {s : State} (hk : Keeps s0 s) :
    Keeps s0 (readRing r s) := by
  unfold readRing
  repeat' first
    | with_reducible assumption
    | with_reducible apply keeps_touchReserved
    | with_reducible apply keeps_touchPantry
    | with_reducible apply keeps_takeAll
    | with_reducible apply keeps_ite
    | exact (fun _ h => h)
    | (intro _; rfl)
    | (intro _ _ _)
    | (intro _ _)
    | dsimp only

theorem keeps_readRings (f : Ring → Bool) {s : State}  (hk : Keeps s0 s) :
    Keeps s0 (readRings f s) := by
  unfold readRings
  repeat' first
    | with_reducible assumption
    | with_reducible apply keeps_readRing
    | with_reducible apply keeps_foldl
    | (intro _ _ _)

theorem keeps_noteStretch (before : State) (p : Nat) {s : State}  (hk : Keeps s0 s) :
    Keeps s0 (noteStretch before p s) := by
  unfold noteStretch
  repeat' first
    | with_reducible assumption
    | with_reducible apply keeps_raise
    | with_reducible apply keeps_ite

theorem keeps_logPush (p : Nat) (it : PushItem) (reason : Nat) (index : Nat) {s : State}  (hk : Keeps s0 s) :
    Keeps s0 (logPush p it reason index s) := by
  unfold logPush
  repeat' first
    | with_reducible assumption
    | with_reducible apply keeps_modPort

theorem keeps_depositEntry (it : PushItem) {s : State} (hk : Keeps s0 s) :
    Keeps s0 (depositEntry it s) := by
  unfold depositEntry
  repeat' first
    | with_reducible assumption
    | with_reducible apply keeps_pantryPut
    | with_reducible apply keeps_takeEntries
    | with_reducible apply keeps_rejectTooBig
    | with_reducible apply keeps_ite
    | exact (fun _ h => h)
    | (intro _; rfl)
    | (intro _ _ _)
    | (intro _ _)
    | dsimp only

theorem keeps_pushLine (r : Nat) {s : State} (hk : Keeps s0 s) :
    Keeps s0 (pushLine r s).1 := by
  unfold pushLine
  repeat' first
    | with_reducible assumption
    | with_reducible apply keeps_wakeBank
    | with_reducible apply keeps_touchPantry
    | with_reducible apply keeps_faultRing
    | with_reducible apply keeps_ite
    | exact (fun _ h => h)
    | (intro _; rfl)
    | (intro _ _ _)
    | (intro _ _)
    | split
    | dsimp only

theorem keeps_pushDepositEffect (p : Nat) {s : State} (hk : Keeps s0 s) :
    Keeps s0 (pushDepositEffect p s) := by
  unfold pushDepositEffect
  repeat' first
    | with_reducible assumption
    | with_reducible apply keeps_touchPantry
    | with_reducible apply keeps_modPort
    | with_reducible apply keeps_pushLine
    | with_reducible apply keeps_depositEntry
    | with_reducible apply keeps_logPush
    | with_reducible apply keeps_raise
    | with_reducible apply keeps_ite
    | exact (fun _ h => h)
    | (intro _; rfl)
    | (intro _ _ _)
    | (intro _ _)
    | split
    | dsimp only

theorem keeps_walkEntries (r f i : Nat) (ph : Bool) (done run : List TakenEntry) {s : State} (hs : Keeps s0 s) :
    Keeps s0 (walkEntries r f i ph done run s).1 := by
  induction f generalizing i ph done run s with
  | zero => exact hs
  | succ f ih =>
    unfold walkEntries
    dsimp only
    have ht := keeps_wakeBank (bankOf (entryAddr (ringOf s r) i)) (keeps_touchPantry (entryAddr (ringOf s r) i) 64 0 hs)
    repeat' first
      | with_reducible exact ht
      | with_reducible exact ih _ _ _ _ ht
      | split

theorem keeps_walkRing (r status : Nat) {s : State} (hk : Keeps s0 s) :
    Keeps s0 (walkRing r status s) := by
  unfold walkRing
  repeat' first
    | with_reducible assumption
    | with_reducible apply keeps_walkEntries
    | with_reducible apply keeps_advanceTail
    | with_reducible apply keeps_foldl
    | with_reducible apply keeps_writeCompletion
    | with_reducible apply keeps_settleHead
    | with_reducible apply keeps_faultRing
    | with_reducible apply keeps_ite
    | exact (fun _ h => h)
    | (intro _; rfl)
    | (intro _ _ _)
    | (intro _ _)
    | dsimp only

theorem keeps_abortUnadmitted (r : Nat) (status : Nat) (detail : Hamper → Nat) {s : State}  (hk : Keeps s0 s) :
    Keeps s0 (abortUnadmitted r status detail s) := by
  unfold abortUnadmitted
  repeat' first
    | with_reducible assumption
    | with_reducible apply keeps_closeHamper
    | with_reducible apply keeps_foldl
    | (intro _ _ _)

theorem keeps_shutdownRing (r : Nat) {s : State} (hk : Keeps s0 s) :
    Keeps s0 (shutdownRing r s) := by
  unfold shutdownRing
  repeat' first
    | with_reducible assumption
    | with_reducible apply keeps_modRing
    | with_reducible apply keeps_abortUnadmitted
    | with_reducible apply keeps_walkRing
    | with_reducible apply keeps_endDrain
    | with_reducible apply keeps_ite
    | exact (fun _ h => h)
    | (intro _; rfl)
    | (intro _ _ _)
    | (intro _ _)
    | dsimp only

theorem keeps_cmdEffect (p : Nat) (cmd : Nat) (r : Nat) (a1 : Nat) (a2 : Nat) {s : State}  (hk : Keeps s0 s) :
    Keeps s0 (cmdEffect p cmd r a1 a2 s) := by
  unfold cmdEffect
  repeat' first
    | with_reducible assumption
    | with_reducible apply keeps_noteStretch
    | with_reducible apply keeps_setRing
    | with_reducible apply keeps_modRing
    | with_reducible apply keeps_readRing
    | with_reducible apply keeps_shutdownRing
    | with_reducible apply keeps_unbindRing
    | (intro _ _ _)
    | (intro _ _)
    | (intro _; rfl)
    | split

theorem keeps_refreshQuery (p : Nat) (cmd : Nat) (r : Nat) {s : State}  (hk : Keeps s0 s) :
    Keeps s0 (refreshQuery p cmd r s) := by
  unfold refreshQuery
  repeat' first
    | with_reducible assumption
    | with_reducible apply keeps_modPort

theorem keeps_ringCommand (p : Nat) (cmd : Nat) {s : State}  (hk : Keeps s0 s) :
    Keeps s0 (ringCommand p cmd s) := by
  unfold ringCommand
  repeat' first
    | with_reducible assumption
    | with_reducible apply keeps_touchPantry
    | with_reducible apply keeps_refreshQuery
    | with_reducible apply keeps_cmdEffect
    | with_reducible apply keeps_wrongState
    | with_reducible apply keeps_modPort
    | with_reducible apply keeps_ite

theorem keeps_ackWord (p : Nat) (w : Nat) (m : Nat) {s : State}  (hk : Keeps s0 s) :
    Keeps s0 (ackWord p w m s) := by
  unfold ackWord
  repeat' first
    | with_reducible assumption
    | with_reducible apply keeps_clearLeafMask

end Sys2Proof.Laws
end

