-- ==== Sys2Proof/Laws/KeepsOperands.lean ====
section
/-! SUPPORT. Every operation of Machine/Operands.lean keeps what `Keeps` says. -/

namespace Sys2Proof.Laws

open Sys2Proof.Machine Sys2Proof.Safety

variable {s0 : State}

theorem keeps_noteRead (a : Nat) (n : Nat) {s : State}  (hk : Keeps s0 s) :
    Keeps s0 (noteRead a n s) := by
  unfold noteRead
  repeat' first
    | with_reducible assumption
    | with_reducible apply keeps_fillLine
    | with_reducible apply keeps_tongsRead
    | with_reducible apply keeps_requestWake
    | with_reducible apply keeps_wakeBank
    | with_reducible apply keeps_touch
    | with_reducible apply keeps_foldl
    | with_reducible apply keeps_ite
    | (intro _ _ _)

theorem keeps_noteReads (l : List (Nat × Nat)) {s : State}  (hk : Keeps s0 s) :
    Keeps s0 (noteReads l s) := by
  unfold noteReads
  repeat' first
    | with_reducible assumption
    | with_reducible apply keeps_noteRead
    | with_reducible apply keeps_foldl
    | (intro _ _ _)

theorem keeps_awaitReads (l : List (Nat × Nat)) {s : State}  (hk : Keeps s0 s) :
    Keeps s0 (awaitReads l s) := by
  unfold awaitReads
  repeat' first
    | with_reducible assumption
    | with_reducible apply keeps_queueWork
    | with_reducible apply keeps_requestWake
    | with_reducible apply keeps_foldl
    | with_reducible apply keeps_ite
    | (intro _ _ _)

theorem keeps_writeAt (h p : Nat) (v : Bytes) {s : State} (hs : Keeps s0 s) : Keeps s0 (writeAt h p v s) := by
  unfold writeAt
  split
  · exact hs
  · refine keeps_ite hs (keeps_ite ?_ (keeps_ite (keeps_writeArena _ _ hs) hs))
    refine keeps_hampers hs fun c x hx => ?_
    obtain ⟨y, hy, rfl⟩ := List.mem_map.1 hx
    split
    · exact memWf_write _ _ (c y hy)
    · exact c y hy

theorem keeps_failEntry (h : Nat) (status : Nat) (detail : Nat) {s : State}  (hk : Keeps s0 s) :
    Keeps s0 (failEntry h status detail s) := by
  unfold failEntry
  repeat' first
    | with_reducible assumption
    | with_reducible apply keeps_finishEntry
    | with_reducible apply keeps_modHamper
    | with_reducible apply keeps_ite
    | (intro _ _ _)
    | (intro _ _)
    | (intro _; rfl)
    | split

theorem keeps_shortEntry (h : Nat) (detail : Nat) (need : Nat) {s : State}  (hk : Keeps s0 s) :
    Keeps s0 (shortEntry h detail need s) := by
  unfold shortEntry
  repeat' first
    | with_reducible assumption
    | with_reducible apply keeps_failEntry
    | with_reducible apply keeps_finishEntry
    | with_reducible apply keeps_ite
    | split

theorem keeps_finishOk (h : Nat) (a : Nat) (out : Bytes) (d : Done) {s : State}  (hk : Keeps s0 s) :
    Keeps s0 (finishOk h a out d s) := by
  unfold finishOk
  repeat' first
    | with_reducible assumption
    | with_reducible apply keeps_finishEntry
    | with_reducible apply keeps_modHamper
    | with_reducible apply keeps_writeAt
    | with_reducible apply keeps_ite
    | (intro _ _ _)
    | (intro _ _)
    | (intro _; rfl)
    | split

theorem keeps_strikeHamper (h status detail : Nat) {s : State} (hk : Keeps s0 s) :
    Keeps s0 (strikeHamper h status detail s) := by
  unfold strikeHamper
  repeat' first
    | with_reducible assumption
    | with_reducible apply keeps_failEntry
    | with_reducible apply keeps_writeAt
    | with_reducible apply keeps_ite
    | exact (fun _ h => h)
    | (intro _; rfl)
    | (intro _ _ _)
    | (intro _ _)
    | split
    | dsimp only

theorem keeps_strikeOccupant (status : Nat) (detail : Nat) (o : Occupant) {s : State}  (hk : Keeps s0 s) :
    Keeps s0 (strikeOccupant status detail o s) := by
  unfold strikeOccupant
  repeat' first
    | with_reducible assumption
    | with_reducible apply keeps_strikeHamper
    | with_reducible apply keeps_restartWindow
    | split

theorem keeps_eraseEngine (status detail : Nat) (i : Nat) {s : State} (hk : Keeps s0 s) :
    Keeps s0 (eraseEngine status detail i s) := by
  unfold eraseEngine
  repeat' first
    | with_reducible assumption
    | with_reducible apply keeps_foldl
    | with_reducible apply keeps_strikeOccupant
    | with_reducible apply keeps_modPd
    | with_reducible apply keeps_ite
    | exact (fun _ h => h)
    | (intro _; rfl)
    | (intro _ _ _)
    | (intro _ _)
    | split
    | dsimp only

theorem keeps_alarmOn (l : List Nat) {s : State} (hk : Keeps s0 s) :
    Keeps s0 (alarmOn l s) := by
  unfold alarmOn
  repeat' first
    | with_reducible assumption
    | with_reducible apply keeps_foldl
    | with_reducible apply keeps_eraseEngine
    | with_reducible apply keeps_fence
    | with_reducible apply keeps_raise
    | with_reducible apply keeps_ite
    | exact (fun _ h => h)
    | (intro _; rfl)
    | (intro _ _ _)
    | (intro _ _)
    | dsimp only

theorem keeps_alarmEngine (i : Nat) {s : State} (hk : Keeps s0 s) :
    Keeps s0 (alarmEngine i s) := by
  unfold alarmEngine
  repeat' first
    | with_reducible assumption
    | with_reducible apply keeps_alarmOn
    | with_reducible apply keeps_ite
    | exact (fun _ h => h)
    | (intro _; rfl)
    | (intro _ _ _)
    | (intro _ _)
    | dsimp only

theorem keeps_alarmAll {s : State} (hk : Keeps s0 s) :
    Keeps s0 (alarmAll s) := by
  unfold alarmAll
  repeat' first
    | with_reducible assumption
    | with_reducible apply keeps_alarmOn
    | with_reducible apply keeps_ite
    | exact (fun _ h => h)
    | (intro _; rfl)
    | (intro _ _ _)
    | (intro _ _)
    | dsimp only

end Sys2Proof.Laws
end

