-- ==== Sys2Proof/Laws/KeepsKeys.lean ====
section
/-! SUPPORT. Every operation of Machine/Keys.lean keeps what `Keeps` says. -/

namespace Sys2Proof.Laws

open Sys2Proof.Machine Sys2Proof.Safety

variable {s0 : State}

theorem keeps_keepManifest (d : Nat) {s : State} (hk : Keeps s0 s) :
    Keeps s0 (keepManifest d s) := by
  unfold keepManifest
  repeat' first
    | with_reducible assumption
    | with_reducible apply keeps_ite
    | exact (fun _ h => h)
    | (intro _; rfl)
    | (intro _ _ _)
    | (intro _ _)
    | split
    | dsimp only
    | (refine keeps_mk ?_ rfl rfl rfl ?_ ?_ ?_ ?_ ?_ ?_ ?_ ?_ ?_ ?_ ?_ ?_ ?_ ?_ <;> first | assumption | rfl | exact id | exact assocWf_clear _ _ | exact memWf_write _ _ | exact assocWf_set _ _ | exact (fun c x hx => c x (List.mem_filter.1 hx).1) | (simp; done) | skip)

theorem keeps_loadEvent (d : Nat) (f : LoadFail) {s : State} (hk : Keeps s0 s) :
    Keeps s0 (loadEvent d f s) := by
  unfold loadEvent
  repeat' first
    | with_reducible assumption
    | with_reducible apply keeps_keepManifest
    | with_reducible apply keeps_raise
    | with_reducible apply keeps_modDom
    | with_reducible apply keeps_ite
    | exact (fun _ h => h)
    | (intro _; rfl)
    | (intro _ _ _)
    | (intro _ _)
    | split
    | dsimp only

theorem keeps_storeKeys (d : Nat) (ks : List (Nat × Key)) {s : State} (hk : Keeps s0 s) :
    Keeps s0 (storeKeys d ks s) := by
  unfold storeKeys
  repeat' first
    | with_reducible assumption
    | with_reducible apply keeps_keepManifest
    | with_reducible apply keeps_foldl
    | with_reducible apply keeps_ite
    | exact (fun _ h => h)
    | (intro _; rfl)
    | (intro _ _ _)
    | (intro _ _)
    | dsimp only
    | (refine keeps_mk ?_ rfl rfl rfl ?_ ?_ ?_ ?_ ?_ ?_ ?_ ?_ ?_ ?_ ?_ ?_ ?_ ?_ <;> first | assumption | rfl | exact id | exact assocWf_clear _ _ | exact memWf_write _ _ | exact assocWf_set _ _ | exact (fun c x hx => c x (List.mem_filter.1 hx).1) | (simp; done) | skip)

theorem keeps_wakeForLoad  {s : State}  (hk : Keeps s0 s) :
    Keeps s0 (wakeForLoad s) := by
  unfold wakeForLoad
  repeat' first
    | with_reducible assumption
    | with_reducible apply keeps_requestWake
    | with_reducible apply keeps_ite

theorem keeps_requestLoads (d : Nat) (hs : List Nat) {s : State}  (hk : Keeps s0 s) :
    Keeps s0 (requestLoads d hs s) := by
  unfold requestLoads
  repeat' first
    | with_reducible assumption
    | with_reducible apply keeps_wakeForLoad
    | with_reducible apply keeps_ite
    | (intro _ _ _)
    | (intro _ _)
    | (intro _; rfl)
    | dsimp only
    | (refine keeps_mk ?_ rfl rfl rfl ?_ ?_ ?_ ?_ ?_ ?_ ?_ ?_ ?_ ?_ ?_ ?_ ?_ ?_ <;> first | assumption | rfl | exact id | exact assocWf_clear _ _ | exact memWf_write _ _ | exact assocWf_set _ _ | exact (fun c x hx => c x (List.mem_filter.1 hx).1) | (simp; done) | skip)

theorem keeps_finishLoad (d h : Nat) {s : State} (hs : Keeps s0 s) : Keeps s0 (finishLoad d h s) := by
  unfold finishLoad
  refine keeps_ite hs (keeps_ite (keeps_wakeForLoad hs) ?_)
  have ht : Keeps s0 { s with loads := s.loads.filter (· != (d, h)) } :=
    keeps_mk hs rfl rfl rfl id id id id id id rfl rfl rfl rfl rfl rfl rfl rfl
  refine keeps_ite ht ?_
  split
  · exact keeps_requestLoads _ _ (keeps_storeKeys _ _ ht)
  · exact keeps_loadEvent _ _ ht

theorem keeps_dropKey (h : Nat) {s : State} (hk : Keeps s0 s) :
    Keeps s0 (dropKey h s) := by
  unfold dropKey
  repeat' first
    | with_reducible assumption
    | with_reducible apply keeps_raise
    | with_reducible apply keeps_zeroSlots
    | with_reducible apply keeps_ite
    | exact (fun _ h => h)
    | (intro _; rfl)
    | (intro _ _ _)
    | (intro _ _)
    | split
    | dsimp only
    | (refine keeps_mk ?_ rfl rfl rfl ?_ ?_ ?_ ?_ ?_ ?_ ?_ ?_ ?_ ?_ ?_ ?_ ?_ ?_ <;> first | assumption | rfl | exact id | exact assocWf_clear _ _ | exact memWf_write _ _ | exact assocWf_set _ _ | exact (fun c x hx => c x (List.mem_filter.1 hx).1) | (simp; done) | skip)

theorem keeps_settleHeld {s : State} (hs : Keeps s0 s) : Keeps s0 (settleHeld s) := by
  refine keeps_hampers hs fun c x hx => ?_
  obtain ⟨y, hy, rfl⟩ := List.mem_map.1 hx
  split <;> exact c y hy

end Sys2Proof.Laws
end

