-- ==== Sys2Proof/Laws/KeepsSched.lean ====
section
/-! SUPPORT. Every operation of Machine/Sched.lean keeps what `Keeps` says. -/

namespace Sys2Proof.Laws

open Sys2Proof.Machine Sys2Proof.Safety

variable {s0 : State}

theorem keeps_hashReads (h : Nat) (l : List (Nat × Nat)) (go : State → State) {s : State} (h_go : ∀ t, Keeps s0 t → Keeps s0 (go t)) (hk : Keeps s0 s) :
    Keeps s0 (hashReads h l go s) := by
  unfold hashReads
  repeat' first
    | with_reducible assumption
    | with_reducible apply keeps_awaitReads
    | with_reducible apply keeps_noteReads
    | with_reducible apply keeps_rejectHamper
    | with_reducible apply h_go
    | with_reducible apply keeps_ite
    | exact (fun _ h => h)
    | (intro _; rfl)
    | (intro _ _ _)
    | (intro _ _)
    | split
    | dsimp only

theorem keeps_dupHash (h : Nat) {s : State} (hk : Keeps s0 s) :
    Keeps s0 (dupHash h s) := by
  unfold dupHash
  repeat' first
    | with_reducible assumption
    | with_reducible apply keeps_hashReads
    | with_reducible apply keeps_modHamper
    | with_reducible apply keeps_ite
    | exact (fun _ h => h)
    | (intro _; rfl)
    | (intro _ _ _)
    | (intro _ _)
    | split
    | dsimp only

theorem keeps_takeCups (x : Hamper) {s : State}  (hk : Keeps s0 s) :
    Keeps s0 (takeCups x s) := by
  unfold takeCups
  repeat' first
    | with_reducible assumption
    | with_reducible apply keeps_modHamper
    | exact (fun _ h => h)
    | (intro _ _ _)
    | (intro _ _)
    | (intro _; rfl)
    | dsimp only
    | (refine keeps_mk ?_ rfl rfl rfl ?_ ?_ ?_ ?_ ?_ ?_ ?_ ?_ ?_ ?_ ?_ ?_ ?_ ?_ <;> first | assumption | rfl | exact id | exact assocWf_clear _ _ | exact memWf_write _ _ | exact assocWf_set _ _ | exact (fun c x hx => c x (List.mem_filter.1 hx).1) | (simp; done) | skip)

theorem keeps_reserveDup (x : Hamper) {s : State} (hs : Keeps s0 s) : Keeps s0 (reserveDup x s) := by
  unfold reserveDup
  exact keeps_modHamper _ _ (fun _ => rfl)
    (keeps_mk (keeps_afterDraw 16 hs) rfl rfl rfl id id id id id id rfl rfl rfl rfl rfl rfl rfl rfl)

theorem keeps_claimMet (x : Hamper) {s : State}  (hk : Keeps s0 s) :
    Keeps s0 (claimMet x s) := by
  unfold claimMet
  repeat' first
    | with_reducible assumption
    | with_reducible apply keeps_nextClaim
    | with_reducible apply keeps_ite
    | exact (fun _ h => h)
    | (refine keeps_mk ?_ rfl rfl rfl ?_ ?_ ?_ ?_ ?_ ?_ ?_ ?_ ?_ ?_ ?_ ?_ ?_ ?_ <;> first | assumption | rfl | exact id | exact assocWf_clear _ _ | exact memWf_write _ _ | exact assocWf_set _ _ | exact (fun c x hx => c x (List.mem_filter.1 hx).1) | (simp; done) | skip)

theorem keeps_admitHamper (x : Hamper) (rep : Option DupRec) {s : State} (hk : Keeps s0 s) :
    Keeps s0 (admitHamper x rep s) := by
  unfold admitHamper
  repeat' first
    | with_reducible assumption
    | with_reducible apply keeps_takeCups
    | with_reducible apply keeps_modHamper
    | with_reducible apply keeps_reserveDup
    | with_reducible apply keeps_claimMet
    | with_reducible apply keeps_requestLoads
    | with_reducible apply keeps_ite
    | exact (fun _ h => h)
    | (intro _; rfl)
    | (intro _ _ _)
    | (intro _ _)
    | split
    | dsimp only
    | (refine keeps_mk ?_ rfl rfl rfl ?_ ?_ ?_ ?_ ?_ ?_ ?_ ?_ ?_ ?_ ?_ ?_ ?_ ?_ <;> first | assumption | rfl | exact id | exact assocWf_clear _ _ | exact memWf_write _ _ | exact assocWf_set _ _ | exact (fun c x hx => c x (List.mem_filter.1 hx).1) | (simp; done) | skip)

theorem keeps_refuseCups (x : Hamper) {s : State} (hk : Keeps s0 s) :
    Keeps s0 (refuseCups x s) := by
  unfold refuseCups
  repeat' first
    | with_reducible assumption
    | with_reducible apply keeps_modHamper
    | with_reducible apply keeps_setClaim
    | with_reducible apply keeps_ite
    | exact (fun _ h => h)
    | (intro _; rfl)
    | (intro _ _ _)
    | (intro _ _)
    | dsimp only

theorem keeps_awaitSeed (x : Hamper) {s : State} (hk : Keeps s0 s) :
    Keeps s0 (awaitSeed x s) := by
  unfold awaitSeed
  repeat' first
    | with_reducible assumption
    | with_reducible apply keeps_requestWake
    | with_reducible apply keeps_ite
    | exact (fun _ h => h)
    | (intro _; rfl)
    | (intro _ _ _)
    | (intro _ _)
    | dsimp only

theorem keeps_lookTag (x : Hamper) {s : State} (hk : Keeps s0 s) :
    Keeps s0 (lookTag x s) := by
  unfold lookTag
  repeat' first
    | with_reducible assumption
    | with_reducible apply keeps_touchDups
    | with_reducible apply keeps_ite
    | exact (fun _ h => h)
    | (intro _; rfl)
    | (intro _ _ _)
    | (intro _ _)
    | dsimp only

theorem keeps_tryAdmit (l : List Hamper) {s : State} (hs : Keeps s0 s) : Keeps s0 (tryAdmit l s) := by
  induction l generalizing s with
  | nil => exact hs
  | cons x t ih =>
    unfold tryAdmit
    have hl := keeps_lookTag x hs
    split
    · exact keeps_rejectHamper _ _ hs
    · dsimp only
      split
      · exact keeps_admitHamper _ _ hl
      · exact keeps_admitHamper _ _ hl
      · exact keeps_raise _ _ _ _ (keeps_rejectHamper _ _ hl)
      · exact ih (keeps_refuseCups _ hl)
      · exact ih (keeps_awaitSeed _ hl)

theorem keeps_allocatorStep  {s : State}  (hk : Keeps s0 s) :
    Keeps s0 (allocatorStep s) := by
  unfold allocatorStep
  repeat' first
    | with_reducible assumption
    | with_reducible apply keeps_tryAdmit
    | with_reducible apply keeps_ite

theorem keeps_claimWait (p : Nat) {s : State} (hk : Keeps s0 s) :
    Keeps s0 (claimWait p s) := by
  unfold claimWait
  repeat' first
    | with_reducible assumption
    | with_reducible apply keeps_raise
    | with_reducible apply keeps_elapseTo
    | with_reducible apply keeps_ite
    | exact (fun _ h => h)
    | (intro _; rfl)
    | (intro _ _ _)
    | (intro _ _)
    | split
    | dsimp only

theorem keeps_capRefuse (h : Nat) {s : State}  (hk : Keeps s0 s) :
    Keeps s0 (capRefuse h s) := by
  unfold capRefuse
  repeat' first
    | with_reducible assumption
    | with_reducible apply keeps_ite
    | split
    | (refine keeps_mk ?_ rfl rfl rfl ?_ ?_ ?_ ?_ ?_ ?_ ?_ ?_ ?_ ?_ ?_ ?_ ?_ ?_ <;> first | assumption | rfl | exact id | exact assocWf_clear _ _ | exact memWf_write _ _ | exact assocWf_set _ _ | exact (fun c x hx => c x (List.mem_filter.1 hx).1) | (simp; done) | skip)

theorem keeps_noteDispatch (c : Nat) (x : Hamper) {s : State}  (hk : Keeps s0 s) :
    Keeps s0 (noteDispatch c x s) := by
  unfold noteDispatch
  repeat' first
    | with_reducible assumption
    | (refine keeps_mk ?_ rfl rfl rfl ?_ ?_ ?_ ?_ ?_ ?_ ?_ ?_ ?_ ?_ ?_ ?_ ?_ ?_ <;> first | assumption | rfl | exact id | exact assocWf_clear _ _ | exact memWf_write _ _ | exact assocWf_set _ _ | exact (fun c x hx => c x (List.mem_filter.1 hx).1) | (simp; done) | skip)

theorem keeps_slotError (x : Hamper) {s : State} (hk : Keeps s0 s) :
    Keeps s0 (slotError x s) := by
  unfold slotError
  repeat' first
    | with_reducible assumption
    | with_reducible apply keeps_requestLoads
    | with_reducible apply keeps_dropKey
    | with_reducible apply keeps_ite
    | exact (fun _ h => h)
    | (intro _; rfl)
    | (intro _ _ _)
    | (intro _ _)
    | split
    | dsimp only

theorem keeps_startEntry (x : Hamper) (l : List Nat) (slotErr : Bool) {s : State} (hk : Keeps s0 s) :
    Keeps s0 (startEntry x l slotErr s) := by
  unfold startEntry
  repeat' first
    | with_reducible assumption
    | with_reducible apply keeps_slotError
    | with_reducible apply keeps_modHamper
    | with_reducible apply keeps_ite
    | exact (fun _ h => h)
    | (intro _; rfl)
    | (intro _ _ _)
    | (intro _ _)
    | dsimp only
    | (refine keeps_mk ?_ rfl rfl rfl ?_ ?_ ?_ ?_ ?_ ?_ ?_ ?_ ?_ ?_ ?_ ?_ ?_ ?_ <;> first | assumption | rfl | exact id | exact assocWf_clear _ _ | exact memWf_write _ _ | exact assocWf_set _ _ | exact (fun c x hx => c x (List.mem_filter.1 hx).1) | (simp; done) | skip)

theorem keeps_grantEngines (x : Hamper) (l : List Nat) (slotErr : Bool) {s : State} (hk : Keeps s0 s) :
    Keeps s0 (grantEngines x l slotErr s) := by
  unfold grantEngines
  repeat' first
    | with_reducible assumption
    | with_reducible apply keeps_noteDispatch
    | with_reducible apply keeps_startEntry
    | with_reducible apply keeps_foldl
    | with_reducible apply keeps_modPd
    | with_reducible apply keeps_ite
    | exact (fun _ h => h)
    | (intro _; rfl)
    | (intro _ _ _)
    | (intro _ _)
    | dsimp only
    | (refine keeps_mk ?_ rfl rfl rfl ?_ ?_ ?_ ?_ ?_ ?_ ?_ ?_ ?_ ?_ ?_ ?_ ?_ ?_ <;> first | assumption | rfl | exact id | exact assocWf_clear _ _ | exact memWf_write _ _ | exact assocWf_set _ _ | exact (fun c x hx => c x (List.mem_filter.1 hx).1) | (simp; done) | skip)

theorem keeps_engineGrant (e : Nat) (slotErr : Bool) {s : State} (hk : Keeps s0 s) :
    Keeps s0 (engineGrant e slotErr s) := by
  unfold engineGrant
  repeat' first
    | with_reducible assumption
    | with_reducible apply keeps_grantEngines
    | with_reducible apply keeps_capRefuse
    | with_reducible apply keeps_ite
    | exact (fun _ h => h)
    | (intro _; rfl)
    | (intro _ _ _)
    | (intro _ _)
    | split
    | dsimp only

theorem keeps_agePromote (h : Nat) {s : State}  (hk : Keeps s0 s) :
    Keeps s0 (agePromote h s) := by
  unfold agePromote
  repeat' first
    | with_reducible assumption
    | with_reducible apply keeps_elapseTo
    | with_reducible apply keeps_raise
    | with_reducible apply keeps_modHamper
    | with_reducible apply keeps_ite
    | (intro _ _ _)
    | (intro _ _)
    | (intro _; rfl)
    | split

theorem keeps_suspendFor (x v : Hamper) (i : Nat) {s : State} (hk : Keeps s0 s) :
    Keeps s0 (suspendFor x v i s) := by
  unfold suspendFor
  repeat' first
    | with_reducible assumption
    | with_reducible apply keeps_modHamper
    | with_reducible apply keeps_raise
    | with_reducible apply keeps_startEntry
    | with_reducible apply keeps_modPd
    | with_reducible apply keeps_ite
    | exact (fun _ h => h)
    | (intro _; rfl)
    | (intro _ _ _)
    | (intro _ _)
    | dsimp only

theorem keeps_preempt (h : Nat) {s : State}  (hk : Keeps s0 s) :
    Keeps s0 (preempt h s) := by
  unfold preempt
  repeat' first
    | with_reducible assumption
    | with_reducible apply keeps_suspendFor
    | with_reducible apply keeps_ite
    | split

theorem keeps_completeHamper (h : Nat) {s : State}  (hk : Keeps s0 s) :
    Keeps s0 (completeHamper h s) := by
  unfold completeHamper
  repeat' first
    | with_reducible assumption
    | with_reducible apply keeps_closeHamper
    | with_reducible apply keeps_ite
    | split

theorem keeps_touchEntry (x : Hamper) (e : Bytes) {s : State} (hk : Keeps s0 s) :
    Keeps s0 (touchEntry x e s) := by
  unfold touchEntry
  repeat' first
    | with_reducible assumption
    | with_reducible apply keeps_touchCups
    | with_reducible apply keeps_touchReserved
    | with_reducible apply keeps_ite
    | exact (fun _ h => h)
    | (intro _; rfl)
    | (intro _ _ _)
    | (intro _ _)
    | dsimp only

theorem keeps_touchRun (op h : Nat) {s : State} (hk : Keeps s0 s) :
    Keeps s0 (touchRun op h s) := by
  unfold touchRun
  repeat' first
    | with_reducible assumption
    | with_reducible apply keeps_touchEntry
    | with_reducible apply keeps_ite
    | exact (fun _ h => h)
    | (intro _; rfl)
    | (intro _ _ _)
    | (intro _ _)
    | split
    | dsimp only

theorem keeps_runEntry (op h : Nat) (body : Hamper → Bytes → State → State) {s : State} (h_body : ∀ b0 b1 t, Keeps s0 t → Keeps s0 (body b0 b1 t)) (hk : Keeps s0 s) :
    Keeps s0 (runEntry op h body s) := by
  unfold runEntry
  repeat' first
    | with_reducible assumption
    | with_reducible apply keeps_touchRun
    | with_reducible apply keeps_strikeHamper
    | with_reducible apply keeps_failEntry
    | with_reducible apply keeps_wrongState
    | with_reducible apply h_body
    | with_reducible apply keeps_ite
    | exact (fun _ h => h)
    | (intro _; rfl)
    | (intro _ _ _)
    | (intro _ _)
    | split
    | dsimp only

theorem keeps_nopRun (h : Nat) {s : State} (hk : Keeps s0 s) :
    Keeps s0 (nopRun h s) := by
  unfold nopRun
  repeat' first
    | with_reducible assumption
    | with_reducible apply keeps_failEntry
    | with_reducible apply keeps_runEntry
    | with_reducible apply keeps_finishOk
    | with_reducible apply keeps_ite
    | exact (fun _ h => h)
    | (intro _; rfl)
    | (intro _ _ _)
    | (intro _ _)
    | split
    | dsimp only

theorem keeps_unavailable (h : Nat) (x : Hamper) (n : Need) {s : State}  (hk : Keeps s0 s) :
    Keeps s0 (unavailable h x n s) := by
  unfold unavailable
  repeat' first
    | with_reducible assumption
    | with_reducible apply keeps_raise
    | with_reducible apply keeps_failEntry

theorem keeps_drawFor (x : Hamper) (n : Nat) {s : State} {r : Bytes × State} (hr : drawFor x n s = some r) (hs : Keeps s0 s) :
    Keeps s0 r.2 := by
  unfold drawFor at hr
  split at hr
  · cases hr
    exact keeps_modHamper _ _ (fun _ => rfl) hs
  · split at hr
    · cases hr
      exact keeps_afterDraw _ hs
    · cases hr

theorem keeps_awaitRng  {s : State}  (hk : Keeps s0 s) :
    Keeps s0 (awaitRng s) := by
  unfold awaitRng
  repeat' first
    | with_reducible assumption
    | with_reducible apply keeps_requestWake

theorem keeps_keyFailure (h : Nat) (d : Nat) (r : KeyRes) {s : State}  (hk : Keeps s0 s) :
    Keeps s0 (keyFailure h d r s) := by
  unfold keyFailure
  repeat' first
    | with_reducible assumption
    | with_reducible apply keeps_loadEvent
    | with_reducible apply keeps_failEntry
    | with_reducible apply keeps_requestLoads
    | split

end Sys2Proof.Laws
end

