-- ==== Sys2Proof/Laws/KeepsEntry.lean ====
section
/-! SUPPORT. Every operation of Machine/Entry.lean keeps what `Keeps` says. -/

namespace Sys2Proof.Laws

open Sys2Proof.Machine Sys2Proof.Safety

variable {s0 : State}

theorem keeps_noteWrong (h : Nat) {s : State}  (hk : Keeps s0 s) :
    Keeps s0 (noteWrong h s) := by
  unfold noteWrong
  repeat' first
    | with_reducible assumption
    | with_reducible apply keeps_wrongState
    | split

theorem keeps_endBad (h : Nat) (b : Bad) {s : State}  (hk : Keeps s0 s) :
    Keeps s0 (endBad h b s) := by
  unfold endBad
  repeat' first
    | with_reducible assumption
    | with_reducible apply keeps_noteWrong
    | with_reducible apply keeps_shortEntry
    | with_reducible apply keeps_failEntry
    | with_reducible apply keeps_ite

theorem keeps_withEngines (h : Nat) (x : Hamper) (n : Need) (run : State → State) {s : State} (h_run : ∀ t, Keeps s0 t → Keeps s0 (run t)) (hk : Keeps s0 s) :
    Keeps s0 (withEngines h x n run s) := by
  unfold withEngines
  repeat' first
    | with_reducible assumption
    | with_reducible apply keeps_unavailable
    | with_reducible apply keeps_ite
    | with_reducible apply h_run

theorem keeps_hashDone (h : Nat) (m : Bytes) {s : State} (hk : Keeps s0 s) :
    Keeps s0 (hashDone h m s) := by
  unfold hashDone
  repeat' first
    | with_reducible assumption
    | with_reducible apply keeps_freeEngines
    | with_reducible apply keeps_modHamper
    | with_reducible apply keeps_ite
    | exact (fun _ h => h)
    | (intro _; rfl)
    | (intro _ _ _)
    | (intro _ _)
    | dsimp only

theorem keeps_withPk (h : Nat) (x : Hamper) (e : Bytes) (run : State → State) {s : State} (h_run : ∀ t, Keeps s0 t → Keeps s0 (run t)) (hk : Keeps s0 s) :
    Keeps s0 (withPk h x e run s) := by
  unfold withPk
  repeat' first
    | with_reducible assumption
    | with_reducible apply keeps_unavailable
    | with_reducible apply keeps_withEngines
    | with_reducible apply keeps_ite

theorem keeps_clearSuspended (x : Hamper) {s : State}  (hk : Keeps s0 s) :
    Keeps s0 (clearSuspended x s) := by
  unfold clearSuspended
  repeat' first
    | with_reducible assumption
    | with_reducible apply keeps_strikeOccupant
    | with_reducible apply keeps_modPd
    | with_reducible apply keeps_foldl
    | with_reducible apply keeps_ite
    | (intro _ _ _)
    | (intro _ _)
    | (intro _; rfl)
    | split

theorem keeps_withReads (h : Nat) (x : Hamper) (l : List (Nat × Nat)) (run : State → State) {s : State} (h_run : ∀ t, Keeps s0 t → Keeps s0 (run t)) (hk : Keeps s0 s) :
    Keeps s0 (withReads h x l run s) := by
  unfold withReads
  repeat' first
    | with_reducible assumption
    | with_reducible apply keeps_awaitReads
    | with_reducible apply keeps_noteReads
    | with_reducible apply keeps_failEntry
    | with_reducible apply keeps_clearSuspended
    | with_reducible apply keeps_ite
    | with_reducible apply h_run
    | (intro _ _ _)
    | (intro _ _)
    | (intro _; rfl)
    | split
    | dsimp only

theorem keeps_withRoom (e : Bytes) (n : Nat) (run : State → State) {s : State} (h_run : ∀ t, Keeps s0 t → Keeps s0 (run t)) (hk : Keeps s0 s) :
    Keeps s0 (withRoom e n run s) := by
  unfold withRoom
  repeat' first
    | with_reducible assumption
    | with_reducible apply keeps_requestWake
    | with_reducible apply keeps_ite
    | with_reducible apply h_run

theorem keeps_takeShare (h : Nat) (x : Hamper) (k n : Nat) {s : State} (hk : Keeps s0 s) :
    Keeps s0 (takeShare h x k n s) := by
  unfold takeShare
  repeat' first
    | with_reducible assumption
    | with_reducible apply keeps_modHamper
    | with_reducible apply keeps_ite
    | exact (fun _ h => h)
    | (intro _; rfl)
    | (intro _ _ _)
    | (intro _ _)
    | dsimp only

theorem keeps_complete (h : Nat) (e out : Bytes) (d : Done) {s : State} (hk : Keeps s0 s) :
    Keeps s0 (complete h e out d s) := by
  unfold complete
  repeat' first
    | with_reducible assumption
    | with_reducible apply keeps_finishOk
    | with_reducible apply keeps_ite
    | exact (fun _ h => h)
    | (intro _; rfl)
    | (intro _ _ _)
    | (intro _ _)
    | dsimp only

theorem keeps_putPart (dig : Bool) (r : Nat) (p : PartState) {s : State}  (hk : Keeps s0 s) :
    Keeps s0 (putPart dig r p s) := by
  unfold putPart
  repeat' first
    | with_reducible assumption
    | with_reducible apply keeps_ite
    | (refine keeps_mk ?_ rfl rfl rfl ?_ ?_ ?_ ?_ ?_ ?_ ?_ ?_ ?_ ?_ ?_ ?_ ?_ ?_ <;> first | assumption | rfl | exact id | exact assocWf_clear _ _ | exact memWf_write _ _ | exact assocWf_set _ _ | exact (fun c x hx => c x (List.mem_filter.1 hx).1) | (simp; done) | skip)

theorem keeps_freePart (dig : Bool) (r : Nat) {s : State}  (hk : Keeps s0 s) :
    Keeps s0 (freePart dig r s) := by
  unfold freePart
  repeat' first
    | with_reducible assumption
    | with_reducible apply keeps_ite
    | (refine keeps_mk ?_ rfl rfl rfl ?_ ?_ ?_ ?_ ?_ ?_ ?_ ?_ ?_ ?_ ?_ ?_ ?_ ?_ <;> first | assumption | rfl | exact id | exact assocWf_clear _ _ | exact memWf_write _ _ | exact assocWf_set _ _ | exact (fun c x hx => c x (List.mem_filter.1 hx).1) | (simp; done) | skip)

theorem keeps_endPart (dig : Bool) (h : Nat) (x : Hamper) (e : Bytes) (b : Bad) {s : State} (hk : Keeps s0 s) :
    Keeps s0 (endPart dig h x e b s) := by
  unfold endPart
  repeat' first
    | with_reducible assumption
    | with_reducible apply keeps_endBad
    | with_reducible apply keeps_ite
    | exact (fun _ h => h)
    | (intro _; rfl)
    | (intro _ _ _)
    | (intro _ _)
    | dsimp only
    | (refine keeps_mk ?_ rfl rfl rfl ?_ ?_ ?_ ?_ ?_ ?_ ?_ ?_ ?_ ?_ ?_ ?_ ?_ ?_ <;> first | assumption | rfl | exact id | exact assocWf_clear _ _ | exact memWf_write _ _ | exact assocWf_set _ _ | exact (fun c x hx => c x (List.mem_filter.1 hx).1) | (simp; done) | skip)

theorem keeps_nextPart (dig : Bool) (h : Nat) (x : Hamper) (e : Bytes) (q : PartState) (fin : State → State) {s : State} (h_fin : ∀ t, Keeps s0 t → Keeps s0 (fin t)) (hk : Keeps s0 s) :
    Keeps s0 (nextPart dig h x e q fin s) := by
  unfold nextPart
  repeat' first
    | with_reducible assumption
    | with_reducible apply keeps_putPart
    | with_reducible apply h_fin
    | with_reducible apply keeps_ite
    | exact (fun _ h => h)
    | (intro _; rfl)
    | (intro _ _ _)
    | (intro _ _)
    | dsimp only

theorem keeps_partKeyFailure (dig : Bool) (h : Nat) (x : Hamper) (e : Bytes) (r : KeyRes) {s : State} (hk : Keeps s0 s) :
    Keeps s0 (partKeyFailure dig h x e r s) := by
  unfold partKeyFailure
  repeat' first
    | with_reducible assumption
    | with_reducible apply keeps_loadEvent
    | with_reducible apply keeps_endPart
    | with_reducible apply keeps_requestLoads
    | with_reducible apply keeps_ite
    | exact (fun _ h => h)
    | (intro _; rfl)
    | (intro _ _ _)
    | (intro _ _)
    | split
    | dsimp only

theorem keeps_redundantFault (h : Nat) (x : Hamper) (src : Nat) (detail : Nat) {s : State}  (hk : Keeps s0 s) :
    Keeps s0 (redundantFault h x src detail s) := by
  unfold redundantFault
  repeat' first
    | with_reducible assumption
    | with_reducible apply keeps_raise
    | with_reducible apply keeps_strikeHamper
    | with_reducible apply keeps_fence
    | with_reducible apply keeps_foldl
    | (intro _ _ _)

theorem keeps_railsFault (h : Nat) (x : Hamper) (blk : Nat) (src : Nat) (d : Done) {s : State}  (hk : Keeps s0 s) :
    Keeps s0 (railsFault h x blk src d s) := by
  unfold railsFault
  repeat' first
    | with_reducible assumption
    | with_reducible apply keeps_failEntry
    | with_reducible apply keeps_finishEntry
    | with_reducible apply keeps_raise
    | with_reducible apply keeps_foldl
    | with_reducible apply keeps_ite
    | (intro _ _ _)
    | (intro _ _)
    | (intro _; rfl)
    | split

theorem keeps_sealFault (dig : Bool) (h : Nat) (x : Hamper) (e : Bytes) {s : State}  (hk : Keeps s0 s) :
    Keeps s0 (sealFault dig h x e s) := by
  unfold sealFault
  repeat' first
    | with_reducible assumption
    | with_reducible apply keeps_endPart
    | with_reducible apply keeps_raise

end Sys2Proof.Laws
end

