-- ==== Sys2Proof/Laws/KeepsCipher.lean ====
section
/-! SUPPORT. Every operation of Machine/Cipher.lean keeps what `Keeps` says. -/

namespace Sys2Proof.Laws

open Sys2Proof.Machine Sys2Proof.Safety

variable {s0 : State}

theorem keeps_withMasks (x : Hamper) (run : State → State) {s : State} (h_run : ∀ t, Keeps s0 t → Keeps s0 (run t)) (hk : Keeps s0 s) :
    Keeps s0 (withMasks x run s) := by
  unfold withMasks
  repeat' first
    | with_reducible assumption
    | with_reducible apply keeps_raise
    | with_reducible apply keeps_foldl
    | with_reducible apply h_run
    | with_reducible apply keeps_ite
    | exact (fun _ h => h)
    | (intro _; rfl)
    | (intro _ _ _)
    | (intro _ _)
    | dsimp only

theorem keeps_cipherFrame (h : Nat) (x : Hamper) (e : Bytes) (use : Nat) (early : Option Bad) (later : Key → Option Bad) (extra : List (Nat × Nat)) (outLen : Nat) (share : Nat × Nat) (run : Key → State → State) {s : State} (h_run : ∀ b0 t, Keeps s0 t → Keeps s0 (run b0 t)) (hk : Keeps s0 s) :
    Keeps s0 (cipherFrame h x e use early later extra outLen share run s) := by
  unfold cipherFrame
  repeat' first
    | with_reducible assumption
    | with_reducible apply keeps_endPart
    | with_reducible apply keeps_withEngines
    | with_reducible apply keeps_withMasks
    | with_reducible apply keeps_withReads
    | with_reducible apply keeps_withRoom
    | with_reducible apply keeps_takeShare
    | with_reducible apply keeps_partKeyFailure
    | with_reducible apply h_run
    | with_reducible apply keeps_ite
    | exact (fun _ h => h)
    | (intro _; rfl)
    | (intro _ _ _)
    | (intro _ _)
    | split
    | dsimp only

theorem keeps_cipherExecute (h : Nat) (flt : OpFault) (x : Hamper) (e : Bytes) (k : Key) {s : State} (hk : Keeps s0 s) :
    Keeps s0 (cipherExecute h flt x e k s) := by
  unfold cipherExecute
  repeat' first
    | with_reducible assumption
    | with_reducible apply keeps_redundantFault
    | with_reducible apply keeps_sealFault
    | with_reducible apply keeps_nextPart
    | with_reducible apply keeps_complete
    | with_reducible apply keeps_ite
    | exact (fun _ h => h)
    | (intro _; rfl)
    | (intro _ _ _)
    | (intro _ _)
    | split
    | dsimp only

theorem keeps_cipherRun (flt : OpFault) (h : Nat) (x : Hamper) (e : Bytes) {s : State} (hk : Keeps s0 s) :
    Keeps s0 (cipherRun flt h x e s) := by
  unfold cipherRun
  repeat' first
    | with_reducible assumption
    | with_reducible apply keeps_cipherFrame
    | with_reducible apply keeps_cipherExecute
    | with_reducible apply keeps_ite
    | exact (fun _ h => h)
    | (intro _; rfl)
    | (intro _ _ _)
    | (intro _ _)
    | dsimp only

theorem keeps_sealFinish (h : Nat) (x : Hamper) (e : Bytes) (k : Key) (q : PartState) (nonce : Bytes) {s : State} (hk : Keeps s0 s) :
    Keeps s0 (sealFinish h x e k q nonce s) := by
  unfold sealFinish
  repeat' first
    | with_reducible assumption
    | with_reducible apply keeps_nextPart
    | with_reducible apply keeps_complete
    | with_reducible apply keeps_ite
    | exact (fun _ h => h)
    | (intro _; rfl)
    | (intro _ _ _)
    | (intro _ _)
    | dsimp only

theorem keeps_sealExecute (h : Nat) (flt : OpFault) (x : Hamper) (e : Bytes) (k : Key) {s : State}  (hk : Keeps s0 s) :
    Keeps s0 (sealExecute h flt x e k s) := by
  unfold sealExecute
  repeat' first
    | with_reducible assumption
    | with_reducible apply keeps_redundantFault
    | with_reducible apply keeps_sealFault
    | with_reducible apply keeps_sealFinish
    | with_reducible apply keeps_drawFor
    | with_reducible apply keeps_awaitRng
    | with_reducible apply keeps_ite
    | split

theorem keeps_verdictEnd (h : Nat) (x : Hamper) (e : Bytes) (flt : OpFault) (matched : Bool) (out : Bytes) (blk src : Nat) {s : State} (hk : Keeps s0 s) :
    Keeps s0 (verdictEnd h x e flt matched out blk src s) := by
  unfold verdictEnd
  repeat' first
    | with_reducible assumption
    | with_reducible apply keeps_railsFault
    | with_reducible apply keeps_writeAt
    | with_reducible apply keeps_complete
    | with_reducible apply keeps_failEntry
    | with_reducible apply keeps_finishEntry
    | with_reducible apply keeps_ite
    | exact (fun _ h => h)
    | (intro _; rfl)
    | (intro _ _ _)
    | (intro _ _)
    | split
    | dsimp only

theorem keeps_openExecute (h : Nat) (flt : OpFault) (x : Hamper) (e : Bytes) (k : Key) {s : State} (hk : Keeps s0 s) :
    Keeps s0 (openExecute h flt x e k s) := by
  unfold openExecute
  repeat' first
    | with_reducible assumption
    | with_reducible apply keeps_redundantFault
    | with_reducible apply keeps_sealFault
    | with_reducible apply keeps_nextPart
    | with_reducible apply keeps_complete
    | with_reducible apply keeps_verdictEnd
    | with_reducible apply keeps_ite
    | exact (fun _ h => h)
    | (intro _; rfl)
    | (intro _ _ _)
    | (intro _ _)
    | split
    | dsimp only

theorem keeps_macExecute (h : Nat) (flt : OpFault) (x : Hamper) (e : Bytes) (k : Key) {s : State} (hk : Keeps s0 s) :
    Keeps s0 (macExecute h flt x e k s) := by
  unfold macExecute
  repeat' first
    | with_reducible assumption
    | with_reducible apply keeps_redundantFault
    | with_reducible apply keeps_sealFault
    | with_reducible apply keeps_nextPart
    | with_reducible apply keeps_complete
    | with_reducible apply keeps_verdictEnd
    | with_reducible apply keeps_ite
    | exact (fun _ h => h)
    | (intro _; rfl)
    | (intro _ _ _)
    | (intro _ _)
    | split
    | dsimp only

theorem keeps_macRun (flt : OpFault) (h : Nat) (x : Hamper) (e : Bytes) {s : State} (hk : Keeps s0 s) :
    Keeps s0 (macRun flt h x e s) := by
  unfold macRun
  repeat' first
    | with_reducible assumption
    | with_reducible apply keeps_cipherFrame
    | with_reducible apply keeps_macExecute
    | with_reducible apply keeps_ite
    | exact (fun _ h => h)
    | (intro _; rfl)
    | (intro _ _ _)
    | (intro _ _)
    | dsimp only

end Sys2Proof.Laws
end

