-- ==== Sys2Proof/Laws/KeepsDigest.lean ====
section
/-! SUPPORT. Every operation of Machine/Digest.lean keeps what `Keeps` says. -/

namespace Sys2Proof.Laws

open Sys2Proof.Machine Sys2Proof.Safety

variable {s0 : State}

theorem keeps_digestFrame (h : Nat) (x : Hamper) (e : Bytes) (n : Need) (bad : Option Bad) (reads : List (Nat × Nat)) (outLen : Nat) (run : State → State) {s : State} (h_run : ∀ t, Keeps s0 t → Keeps s0 (run t)) (hk : Keeps s0 s) :
    Keeps s0 (digestFrame h x e n bad reads outLen run s) := by
  unfold digestFrame
  repeat' first
    | with_reducible assumption
    | with_reducible apply keeps_endPart
    | with_reducible apply keeps_withEngines
    | with_reducible apply keeps_withReads
    | with_reducible apply keeps_withRoom
    | with_reducible apply keeps_ite
    | with_reducible apply h_run
    | (intro _ _ _)
    | (intro _ _)
    | (intro _; rfl)
    | split

theorem keeps_digestExecute (h : Nat) (x : Hamper) (e : Bytes) {s : State} (hk : Keeps s0 s) :
    Keeps s0 (digestExecute h x e s) := by
  unfold digestExecute
  repeat' first
    | with_reducible assumption
    | with_reducible apply keeps_nextPart
    | with_reducible apply keeps_complete
    | with_reducible apply keeps_ite
    | exact (fun _ h => h)
    | (intro _; rfl)
    | (intro _ _ _)
    | (intro _ _)
    | dsimp only

theorem keeps_digestRun (h : Nat) (x : Hamper) (e : Bytes) {s : State}  (hk : Keeps s0 s) :
    Keeps s0 (digestRun h x e s) := by
  unfold digestRun
  repeat' first
    | with_reducible assumption
    | with_reducible apply keeps_digestFrame
    | with_reducible apply keeps_digestExecute

theorem keeps_hmacExecute (h : Nat) (flt : OpFault) (x : Hamper) (e : Bytes) (k : Key) {s : State} (hk : Keeps s0 s) :
    Keeps s0 (hmacExecute h flt x e k s) := by
  unfold hmacExecute
  repeat' first
    | with_reducible assumption
    | with_reducible apply keeps_redundantFault
    | with_reducible apply keeps_sealFault
    | with_reducible apply keeps_nextPart
    | with_reducible apply keeps_complete
    | with_reducible apply keeps_verdictEnd
    | with_reducible apply keeps_ite
    | exact (fun _ h => h)
    | (intro _; rfl)
    | (intro _ _ _)
    | (intro _ _)
    | split
    | dsimp only

theorem keeps_hmacRun (flt : OpFault) (h : Nat) (x : Hamper) (e : Bytes) {s : State} (hk : Keeps s0 s) :
    Keeps s0 (hmacRun flt h x e s) := by
  unfold hmacRun
  repeat' first
    | with_reducible assumption
    | with_reducible apply keeps_endPart
    | with_reducible apply keeps_withEngines
    | with_reducible apply keeps_withReads
    | with_reducible apply keeps_withRoom
    | with_reducible apply keeps_hmacExecute
    | with_reducible apply keeps_takeShare
    | with_reducible apply keeps_partKeyFailure
    | with_reducible apply keeps_ite
    | exact (fun _ h => h)
    | (intro _; rfl)
    | (intro _ _ _)
    | (intro _ _)
    | split
    | dsimp only

theorem keeps_compareExecute (h : Nat) (flt : OpFault) (x : Hamper) (e : Bytes) {s : State} (hk : Keeps s0 s) :
    Keeps s0 (compareExecute h flt x e s) := by
  unfold compareExecute
  repeat' first
    | with_reducible assumption
    | with_reducible apply keeps_railsFault
    | with_reducible apply keeps_complete
    | with_reducible apply keeps_finishEntry
    | with_reducible apply keeps_ite
    | exact (fun _ h => h)
    | (intro _; rfl)
    | (intro _ _ _)
    | (intro _ _)
    | split
    | dsimp only

theorem keeps_extendExecute (h : Nat) (x : Hamper) (e : Bytes) {s : State} (hk : Keeps s0 s) :
    Keeps s0 (extendExecute h x e s) := by
  unfold extendExecute
  repeat' first
    | with_reducible assumption
    | with_reducible apply keeps_extendMeas
    | with_reducible apply keeps_complete
    | with_reducible apply keeps_ite
    | exact (fun _ h => h)
    | (intro _; rfl)
    | (intro _ _ _)
    | (intro _ _)
    | dsimp only

theorem keeps_selfCheckFault (h : Nat) (x : Hamper) {s : State}  (hk : Keeps s0 s) :
    Keeps s0 (selfCheckFault h x s) := by
  unfold selfCheckFault
  repeat' first
    | with_reducible assumption
    | with_reducible apply keeps_raise
    | with_reducible apply keeps_strikeHamper
    | with_reducible apply keeps_fence
    | with_reducible apply keeps_foldl
    | (intro _ _ _)

theorem keeps_internalFault (h : Nat) (x : Hamper) (flt : OpFault) (good : Bool) (run : State → State) {s : State} (h_run : ∀ t, Keeps s0 t → Keeps s0 (run t)) (hk : Keeps s0 s) :
    Keeps s0 (internalFault h x flt good run s) := by
  unfold internalFault
  repeat' first
    | with_reducible assumption
    | with_reducible apply keeps_selfCheckFault
    | with_reducible apply keeps_railsFault
    | with_reducible apply h_run
    | with_reducible apply keeps_ite
    | exact (fun _ h => h)
    | (intro _; rfl)
    | (intro _ _ _)
    | (intro _ _)
    | split
    | dsimp only

theorem keeps_quoteHash (h : Nat) (x : Hamper) (e : Bytes) {s : State} (hk : Keeps s0 s) :
    Keeps s0 (quoteHash h x e s) := by
  unfold quoteHash
  repeat' first
    | with_reducible assumption
    | with_reducible apply keeps_hashDone
    | with_reducible apply keeps_ite
    | exact (fun _ h => h)
    | (intro _; rfl)
    | (intro _ _ _)
    | (intro _ _)
    | dsimp only

theorem keeps_quoteExecute (h : Nat) (flt : OpFault) (x : Hamper) (e : Bytes) {s : State} (hk : Keeps s0 s) :
    Keeps s0 (quoteExecute h flt x e s) := by
  unfold quoteExecute
  repeat' first
    | with_reducible assumption
    | with_reducible apply keeps_internalFault
    | with_reducible apply keeps_complete
    | with_reducible apply keeps_ite
    | exact (fun _ h => h)
    | (intro _; rfl)
    | (intro _ _ _)
    | (intro _ _)
    | dsimp only

theorem keeps_putExport (dig : Bool) (r : Nat) (c : Option CtxOut) {s : State}  (hk : Keeps s0 s) :
    Keeps s0 (putExport dig r c s) := by
  unfold putExport
  repeat' first
    | with_reducible assumption
    | with_reducible apply keeps_ite
    | (intro _ _ _)
    | (intro _ _)
    | (intro _; rfl)
    | split
    | dsimp only
    | (refine keeps_mk ?_ rfl rfl rfl ?_ ?_ ?_ ?_ ?_ ?_ ?_ ?_ ?_ ?_ ?_ ?_ ?_ ?_ <;> first | assumption | rfl | exact id | exact assocWf_clear _ _ | exact memWf_write _ _ | exact assocWf_set _ _ | exact (fun c x hx => c x (List.mem_filter.1 hx).1) | (simp; done) | skip)

theorem keeps_exportExecute (h : Nat) (x : Hamper) (e : Bytes) {s : State} (hk : Keeps s0 s) :
    Keeps s0 (exportExecute h x e s) := by
  unfold exportExecute
  repeat' first
    | with_reducible assumption
    | with_reducible apply keeps_drawFor
    | with_reducible apply keeps_putExport
    | with_reducible apply keeps_freePart
    | with_reducible apply keeps_complete
    | with_reducible apply keeps_awaitRng
    | with_reducible apply keeps_ite
    | exact (fun _ h => h)
    | (intro _; rfl)
    | (intro _ _ _)
    | (intro _ _)
    | split
    | dsimp only
    | (refine keeps_mk ?_ rfl rfl rfl ?_ ?_ ?_ ?_ ?_ ?_ ?_ ?_ ?_ ?_ ?_ ?_ ?_ ?_ <;> first | assumption | rfl | exact id | exact assocWf_clear _ _ | exact memWf_write _ _ | exact assocWf_set _ _ | exact (fun c x hx => c x (List.mem_filter.1 hx).1) | (simp; done) | skip)

theorem keeps_importExecute (h : Nat) (x : Hamper) (e : Bytes) {s : State} (hk : Keeps s0 s) :
    Keeps s0 (importExecute h x e s) := by
  unfold importExecute
  repeat' first
    | with_reducible assumption
    | with_reducible apply keeps_endBad
    | with_reducible apply keeps_complete
    | with_reducible apply keeps_putExport
    | with_reducible apply keeps_putPart
    | with_reducible apply keeps_ite
    | exact (fun _ h => h)
    | (intro _; rfl)
    | (intro _ _ _)
    | (intro _ _)
    | split
    | dsimp only

theorem keeps_clearEngine (e : Nat) (cause : ClearCause) {s : State}  (hk : Keeps s0 s) :
    Keeps s0 (clearEngine e cause s) := by
  unfold clearEngine
  repeat' first
    | with_reducible assumption
    | with_reducible apply keeps_alarmEngine
    | with_reducible apply keeps_strikeOccupant
    | with_reducible apply keeps_fence
    | with_reducible apply keeps_raise
    | with_reducible apply keeps_modPd
    | (intro _ _ _)
    | (intro _ _)
    | (intro _; rfl)
    | split
    | dsimp only

theorem keeps_tongsTake (w i : Nat) {s : State} (hk : Keeps s0 s) :
    Keeps s0 (tongsTake w i s) := by
  unfold tongsTake
  repeat' first
    | with_reducible assumption
    | with_reducible apply keeps_modPd
    | with_reducible apply keeps_ite
    | exact (fun _ h => h)
    | (intro _; rfl)
    | (intro _ _ _)
    | (intro _ _)
    | dsimp only
    | (refine keeps_mk ?_ rfl rfl rfl ?_ ?_ ?_ ?_ ?_ ?_ ?_ ?_ ?_ ?_ ?_ ?_ ?_ ?_ <;> first | assumption | rfl | exact id | exact assocWf_clear _ _ | exact memWf_write _ _ | exact assocWf_set _ _ | exact (fun c x hx => c x (List.mem_filter.1 hx).1) | (simp; done) | skip)

theorem keeps_deliver (a : Nat) (b : Bytes) {s : State} (hk : Keeps s0 s) :
    Keeps s0 (deliver a b s) := by
  unfold deliver
  repeat' first
    | with_reducible assumption
    | with_reducible apply keeps_foldl
    | with_reducible apply keeps_feedWindow
    | with_reducible apply keeps_ite
    | exact (fun _ h => h)
    | (intro _; rfl)
    | (intro _ _ _)
    | (intro _ _)
    | dsimp only

theorem keeps_backfill {s : State} (hk : Keeps s0 s) :
    Keeps s0 (backfill s) := by
  unfold backfill
  repeat' first
    | with_reducible assumption
    | with_reducible apply keeps_modPd
    | with_reducible apply keeps_deliver
    | with_reducible apply keeps_tongsTake
    | with_reducible apply keeps_ite
    | exact (fun _ h => h)
    | (intro _; rfl)
    | (intro _ _ _)
    | (intro _ _)
    | split
    | dsimp only

end Sys2Proof.Laws
end

