-- ==== Sys2Proof/Laws/KeepsPk.lean ====
section
/-! SUPPORT. Every operation of Machine/Pk.lean keeps what `Keeps` says. -/

namespace Sys2Proof.Laws

open Sys2Proof.Machine Sys2Proof.Safety

variable {s0 : State}

theorem keeps_withDraw (x : Hamper) (n : Nat) (run : Bytes → State → State) {s : State} (h_run : ∀ b t, Keeps s0 t → Keeps s0 (run b t)) (hk : Keeps s0 s) :
    Keeps s0 (withDraw x n run s) := by
  unfold withDraw
  repeat' first
    | with_reducible assumption
    | with_reducible apply keeps_drawFor
    | with_reducible apply keeps_awaitRng
    | with_reducible apply keeps_ite
    | with_reducible apply h_run
    | (intro _ _ _)
    | (intro _ _)
    | (intro _; rfl)
    | split

theorem keeps_signExecute (h : Nat) (flt : OpFault) (x : Hamper) (e : Bytes) (k : Key) (m : Bytes) {s : State} (hk : Keeps s0 s) :
    Keeps s0 (signExecute h flt x e k m s) := by
  unfold signExecute
  repeat' first
    | with_reducible assumption
    | with_reducible apply keeps_withDraw
    | with_reducible apply keeps_internalFault
    | with_reducible apply keeps_complete
    | with_reducible apply keeps_ite
    | exact (fun _ h => h)
    | (intro _; rfl)
    | (intro _ _ _)
    | (intro _ _)
    | dsimp only

theorem keeps_signRun (flt : OpFault) (h : Nat) (x : Hamper) (e : Bytes) {s : State} (hk : Keeps s0 s) :
    Keeps s0 (signRun flt h x e s) := by
  unfold signRun
  repeat' first
    | with_reducible assumption
    | with_reducible apply keeps_endBad
    | with_reducible apply keeps_withPk
    | with_reducible apply keeps_withRoom
    | with_reducible apply keeps_signExecute
    | with_reducible apply keeps_withReads
    | with_reducible apply keeps_hashDone
    | with_reducible apply keeps_takeShare
    | with_reducible apply keeps_keyFailure
    | with_reducible apply keeps_ite
    | exact (fun _ h => h)
    | (intro _; rfl)
    | (intro _ _ _)
    | (intro _ _)
    | split
    | dsimp only

theorem keeps_verifyExecute (h : Nat) (flt : OpFault) (x : Hamper) (e : Bytes) (k : Option Key) (m : Bytes) {s : State} (hk : Keeps s0 s) :
    Keeps s0 (verifyExecute h flt x e k m s) := by
  unfold verifyExecute
  repeat' first
    | with_reducible assumption
    | with_reducible apply keeps_failEntry
    | with_reducible apply keeps_railsFault
    | with_reducible apply keeps_complete
    | with_reducible apply keeps_finishEntry
    | with_reducible apply keeps_ite
    | exact (fun _ h => h)
    | (intro _; rfl)
    | (intro _ _ _)
    | (intro _ _)
    | split
    | dsimp only

theorem keeps_verifyRun (flt : OpFault) (h : Nat) (x : Hamper) (e : Bytes) {s : State} (hk : Keeps s0 s) :
    Keeps s0 (verifyRun flt h x e s) := by
  unfold verifyRun
  repeat' first
    | with_reducible assumption
    | with_reducible apply keeps_withPk
    | with_reducible apply keeps_withReads
    | with_reducible apply keeps_verifyExecute
    | with_reducible apply keeps_endBad
    | with_reducible apply keeps_hashDone
    | with_reducible apply keeps_takeShare
    | with_reducible apply keeps_keyFailure
    | with_reducible apply keeps_ite
    | exact (fun _ h => h)
    | (intro _; rfl)
    | (intro _ _ _)
    | (intro _ _)
    | split
    | dsimp only

theorem keeps_putTemp (h : Nat) (i : Nat) (t : Temp) {s : State}  (hk : Keeps s0 s) :
    Keeps s0 (putTemp h i t s) := by
  unfold putTemp
  repeat' first
    | with_reducible assumption
    | with_reducible apply keeps_modHamper
    | (intro _ _ _)
    | (intro _ _)
    | (intro _; rfl)

theorem keeps_agreeExecute (h : Nat) (flt : OpFault) (x : Hamper) (e : Bytes) (k : Option Key) {s : State} (hk : Keeps s0 s) :
    Keeps s0 (agreeExecute h flt x e k s) := by
  unfold agreeExecute
  repeat' first
    | with_reducible assumption
    | with_reducible apply keeps_redundantFault
    | with_reducible apply keeps_railsFault
    | with_reducible apply keeps_withDraw
    | with_reducible apply keeps_failEntry
    | with_reducible apply keeps_complete
    | with_reducible apply keeps_putTemp
    | with_reducible apply keeps_ite
    | exact (fun _ h => h)
    | (intro _; rfl)
    | (intro _ _ _)
    | (intro _ _)
    | split
    | dsimp only

theorem keeps_agreeRun (flt : OpFault) (h : Nat) (x : Hamper) (e : Bytes) {s : State} (hk : Keeps s0 s) :
    Keeps s0 (agreeRun flt h x e s) := by
  unfold agreeRun
  repeat' first
    | with_reducible assumption
    | with_reducible apply keeps_endBad
    | with_reducible apply keeps_withPk
    | with_reducible apply keeps_withReads
    | with_reducible apply keeps_withRoom
    | with_reducible apply keeps_agreeExecute
    | with_reducible apply keeps_takeShare
    | with_reducible apply keeps_keyFailure
    | with_reducible apply keeps_ite
    | exact (fun _ h => h)
    | (intro _; rfl)
    | (intro _ _ _)
    | (intro _ _)
    | split
    | dsimp only

theorem keeps_rsaExecute (h : Nat) (flt : OpFault) (x : Hamper) (e : Bytes) (k : Key) {s : State} (hk : Keeps s0 s) :
    Keeps s0 (rsaExecute h flt x e k s) := by
  unfold rsaExecute
  repeat' first
    | with_reducible assumption
    | with_reducible apply keeps_internalFault
    | with_reducible apply keeps_complete
    | with_reducible apply keeps_failEntry
    | with_reducible apply keeps_ite
    | exact (fun _ h => h)
    | (intro _; rfl)
    | (intro _ _ _)
    | (intro _ _)
    | split
    | dsimp only

theorem keeps_rsaRun (flt : OpFault) (h : Nat) (x : Hamper) (e : Bytes) {s : State} (hk : Keeps s0 s) :
    Keeps s0 (rsaRun flt h x e s) := by
  unfold rsaRun
  repeat' first
    | with_reducible assumption
    | with_reducible apply keeps_endBad
    | with_reducible apply keeps_withPk
    | with_reducible apply keeps_withReads
    | with_reducible apply keeps_withRoom
    | with_reducible apply keeps_rsaExecute
    | with_reducible apply keeps_takeShare
    | with_reducible apply keeps_keyFailure
    | with_reducible apply keeps_ite
    | exact (fun _ h => h)
    | (intro _; rfl)
    | (intro _ _ _)
    | (intro _ _)
    | split
    | dsimp only

theorem keeps_modExecute (h : Nat) (x : Hamper) (e : Bytes) {s : State} (hk : Keeps s0 s) :
    Keeps s0 (modExecute h x e s) := by
  unfold modExecute
  repeat' first
    | with_reducible assumption
    | with_reducible apply keeps_failEntry
    | with_reducible apply keeps_complete
    | with_reducible apply keeps_ite
    | exact (fun _ h => h)
    | (intro _; rfl)
    | (intro _ _ _)
    | (intro _ _)
    | split
    | dsimp only

theorem keeps_drawIssue (d : Nat) {s : State}  (hk : Keeps s0 s) :
    Keeps s0 (drawIssue d s) := by
  unfold drawIssue
  repeat' first
    | with_reducible assumption
    | with_reducible apply keeps_modDom
    | with_reducible apply keeps_ite
    | (intro _ _ _)
    | (intro _ _)
    | (intro _; rfl)
    | dsimp only
    | (refine keeps_mk ?_ rfl rfl rfl ?_ ?_ ?_ ?_ ?_ ?_ ?_ ?_ ?_ ?_ ?_ ?_ ?_ ?_ <;> first | assumption | rfl | exact id | exact assocWf_clear _ _ | exact memWf_write _ _ | exact assocWf_set _ _ | exact (fun c x hx => c x (List.mem_filter.1 hx).1) | (simp; done) | skip)

theorem keeps_issueDraw (h : Nat) (x : Hamper) (e : Bytes) {s : State} (hk : Keeps s0 s) :
    Keeps s0 (issueDraw h x e s) := by
  unfold issueDraw
  repeat' first
    | with_reducible assumption
    | with_reducible apply keeps_modHamper
    | with_reducible apply keeps_unavailable
    | with_reducible apply keeps_endBad
    | with_reducible apply keeps_drawIssue
    | with_reducible apply keeps_takeShare
    | with_reducible apply keeps_ite
    | exact (fun _ h => h)
    | (intro _; rfl)
    | (intro _ _ _)
    | (intro _ _)
    | split
    | dsimp only
    | (refine keeps_mk ?_ rfl rfl rfl ?_ ?_ ?_ ?_ ?_ ?_ ?_ ?_ ?_ ?_ ?_ ?_ ?_ ?_ <;> first | assumption | rfl | exact id | exact assocWf_clear _ _ | exact memWf_write _ _ | exact assocWf_set _ _ | exact (fun c x hx => c x (List.mem_filter.1 hx).1) | (simp; done) | skip)

theorem keeps_issueHash (h : Nat) (x : Hamper) (e : Bytes) {s : State} (hk : Keeps s0 s) :
    Keeps s0 (issueHash h x e s) := by
  unfold issueHash
  repeat' first
    | with_reducible assumption
    | with_reducible apply keeps_hashDone
    | with_reducible apply keeps_ite
    | exact (fun _ h => h)
    | (intro _; rfl)
    | (intro _ _ _)
    | (intro _ _)
    | split
    | dsimp only

theorem keeps_issueExecute (h : Nat) (flt : OpFault) (x : Hamper) (e : Bytes) (k : Key) {s : State} (hk : Keeps s0 s) :
    Keeps s0 (issueExecute h flt x e k s) := by
  unfold issueExecute
  repeat' first
    | with_reducible assumption
    | with_reducible apply keeps_withDraw
    | with_reducible apply keeps_internalFault
    | with_reducible apply keeps_complete
    | with_reducible apply keeps_modDom
    | with_reducible apply keeps_ite
    | exact (fun _ h => h)
    | (intro _; rfl)
    | (intro _ _ _)
    | (intro _ _)
    | split
    | dsimp only
    | (refine keeps_mk ?_ rfl rfl rfl ?_ ?_ ?_ ?_ ?_ ?_ ?_ ?_ ?_ ?_ ?_ ?_ ?_ ?_ <;> first | assumption | rfl | exact id | exact assocWf_clear _ _ | exact memWf_write _ _ | exact assocWf_set _ _ | exact (fun c x hx => c x (List.mem_filter.1 hx).1) | (simp; done) | skip)

theorem keeps_issueRun (flt : OpFault) (h : Nat) (x : Hamper) (e : Bytes) {s : State} (hk : Keeps s0 s) :
    Keeps s0 (issueRun flt h x e s) := by
  unfold issueRun
  repeat' first
    | with_reducible assumption
    | with_reducible apply keeps_endBad
    | with_reducible apply keeps_withPk
    | with_reducible apply keeps_withReads
    | with_reducible apply keeps_issueHash
    | with_reducible apply keeps_withRoom
    | with_reducible apply keeps_issueExecute
    | with_reducible apply keeps_issueDraw
    | with_reducible apply keeps_keyFailure
    | with_reducible apply keeps_ite
    | exact (fun _ h => h)
    | (intro _; rfl)
    | (intro _ _ _)
    | (intro _ _)
    | split
    | dsimp only

theorem keeps_deriveExecute (h : Nat) (flt : OpFault) (x : Hamper) (e : Bytes) (k : Key) {s : State} (hk : Keeps s0 s) :
    Keeps s0 (deriveExecute h flt x e k s) := by
  unfold deriveExecute
  repeat' first
    | with_reducible assumption
    | with_reducible apply keeps_redundantFault
    | with_reducible apply keeps_railsFault
    | with_reducible apply keeps_complete
    | with_reducible apply keeps_putTemp
    | with_reducible apply keeps_ite
    | exact (fun _ h => h)
    | (intro _; rfl)
    | (intro _ _ _)
    | (intro _ _)
    | split
    | dsimp only

theorem keeps_deriveRun (flt : OpFault) (h : Nat) (x : Hamper) (e : Bytes) {s : State} (hk : Keeps s0 s) :
    Keeps s0 (deriveRun flt h x e s) := by
  unfold deriveRun
  repeat' first
    | with_reducible assumption
    | with_reducible apply keeps_endBad
    | with_reducible apply keeps_withReads
    | with_reducible apply keeps_withRoom
    | with_reducible apply keeps_deriveExecute
    | with_reducible apply keeps_withEngines
    | with_reducible apply keeps_withMasks
    | with_reducible apply keeps_takeShare
    | with_reducible apply keeps_keyFailure
    | with_reducible apply keeps_ite
    | exact (fun _ h => h)
    | (intro _; rfl)
    | (intro _ _ _)
    | (intro _ _)
    | split
    | dsimp only

theorem keeps_randomExecute (h : Nat) (x : Hamper) (e : Bytes) {s : State} (hk : Keeps s0 s) :
    Keeps s0 (randomExecute h x e s) := by
  unfold randomExecute
  repeat' first
    | with_reducible assumption
    | with_reducible apply keeps_withDraw
    | with_reducible apply keeps_complete
    | with_reducible apply keeps_ite
    | exact (fun _ h => h)
    | (intro _; rfl)
    | (intro _ _ _)
    | (intro _ _)
    | dsimp only
    | (refine keeps_mk ?_ rfl rfl rfl ?_ ?_ ?_ ?_ ?_ ?_ ?_ ?_ ?_ ?_ ?_ ?_ ?_ ?_ <;> first | assumption | rfl | exact id | exact assocWf_clear _ _ | exact memWf_write _ _ | exact assocWf_set _ _ | exact (fun c x hx => c x (List.mem_filter.1 hx).1) | (simp; done) | skip)

theorem keeps_attestUnsigned (h : Nat) (x : Hamper) (e : Bytes) {s : State}  (hk : Keeps s0 s) :
    Keeps s0 (attestUnsigned h x e s) := by
  unfold attestUnsigned
  repeat' first
    | with_reducible assumption
    | with_reducible apply keeps_failEntry
    | with_reducible apply keeps_finishEntry
    | with_reducible apply keeps_writeAt
    | with_reducible apply keeps_ite

theorem keeps_attestHash (h : Nat) (x : Hamper) (e : Bytes) {s : State} (hk : Keeps s0 s) :
    Keeps s0 (attestHash h x e s) := by
  unfold attestHash
  repeat' first
    | with_reducible assumption
    | with_reducible apply keeps_hashDone
    | with_reducible apply keeps_ite
    | exact (fun _ h => h)
    | (intro _; rfl)
    | (intro _ _ _)
    | (intro _ _)
    | dsimp only

theorem keeps_attestExecute (h : Nat) (flt : OpFault) (x : Hamper) (e : Bytes) {s : State} (hk : Keeps s0 s) :
    Keeps s0 (attestExecute h flt x e s) := by
  unfold attestExecute
  repeat' first
    | with_reducible assumption
    | with_reducible apply keeps_internalFault
    | with_reducible apply keeps_complete
    | with_reducible apply keeps_ite
    | exact (fun _ h => h)
    | (intro _; rfl)
    | (intro _ _ _)
    | (intro _ _)
    | dsimp only

end Sys2Proof.Laws
end

