-- ==== Sys2Proof/Laws/KeepsMeter.lean ====
section
/-! SUPPORT. Every operation of Machine/Meter.lean keeps what `Keeps` says. -/

namespace Sys2Proof.Laws

open Sys2Proof.Machine Sys2Proof.Safety

variable {s0 : State}

theorem keeps_meterBoundary {s : State} (hk : Keeps s0 s) :
    Keeps s0 (meterBoundary s) := by
  unfold meterBoundary
  repeat' first
    | with_reducible assumption
    | with_reducible apply keeps_elapseTo
    | with_reducible apply keeps_ite
    | exact (fun _ h => h)
    | (intro _; rfl)
    | (intro _ _ _)
    | (intro _ _)
    | dsimp only

theorem keeps_splitRecord (d cls : Nat) {s : State} (hs : Keeps s0 s) : Keeps s0 (splitRecord d cls s) := by
  unfold splitRecord
  split
  · exact keeps_openRecord _ _ _ (keeps_putRecord _ _ (by assumption) hs)
  · exact hs

theorem keeps_endRecord (d : Nat) {s t : State} (ht : endRecord d s = some t) (hs : Keeps s0 s) : Keeps s0 t := by
  unfold endRecord at ht
  split at ht
  · cases ht
    exact hs
  · exact keeps_putRecord _ _ ht hs

theorem keeps_restoreDomain (last : Option Nat) (gone : Nat) (clean debug : Bool) (d : Nat) {s : State} (hk : Keeps s0 s) :
    Keeps s0 (restoreDomain last gone clean debug d s) := by
  unfold restoreDomain
  repeat' first
    | with_reducible assumption
    | with_reducible apply keeps_modDom
    | with_reducible apply keeps_boundaryDomain
    | with_reducible apply keeps_ite
    | exact (fun _ h => h)
    | (intro _; rfl)
    | (intro _ _ _)
    | (intro _ _)
    | split
    | dsimp only
    | (refine keeps_mk ?_ rfl rfl rfl ?_ ?_ ?_ ?_ ?_ ?_ ?_ ?_ ?_ ?_ ?_ ?_ ?_ ?_ <;> first | assumption | rfl | exact id | exact assocWf_clear _ _ | exact memWf_write _ _ | exact assocWf_set _ _ | exact (fun c x hx => c x (List.mem_filter.1 hx).1) | (simp; done) | skip)

theorem keeps_restoreMeters {s : State} (hk : Keeps s0 s) :
    Keeps s0 (restoreMeters s) := by
  unfold restoreMeters
  repeat' first
    | with_reducible assumption
    | with_reducible apply keeps_foldl
    | with_reducible apply keeps_restoreDomain
    | with_reducible apply keeps_advanceBoundary
    | with_reducible apply keeps_modThermos
    | with_reducible apply keeps_raise
    | with_reducible apply keeps_ite
    | exact (fun _ h => h)
    | (intro _; rfl)
    | (intro _ _ _)
    | (intro _ _)
    | split
    | dsimp only

theorem keeps_postDeliver (h : Nat) (e : Bytes) {s : State} (hk : Keeps s0 s) :
    Keeps s0 (postDeliver h e s) := by
  unfold postDeliver
  repeat' first
    | with_reducible assumption
    | with_reducible apply keeps_complete
    | with_reducible apply keeps_modHamper
    | with_reducible apply keeps_ite
    | exact (fun _ h => h)
    | (intro _; rfl)
    | (intro _ _ _)
    | (intro _ _)
    | dsimp only

theorem keeps_postRun (flt : OpFault) (h : Nat) (x : Hamper) (e : Bytes) {s : State} (hk : Keeps s0 s) :
    Keeps s0 (postRun flt h x e s) := by
  unfold postRun
  repeat' first
    | with_reducible assumption
    | with_reducible apply keeps_endBad
    | with_reducible apply keeps_postDeliver
    | with_reducible apply keeps_modHamper
    | with_reducible apply keeps_withEngines
    | with_reducible apply keeps_withRoom
    | with_reducible apply keeps_internalFault
    | with_reducible apply keeps_ite
    | exact (fun _ h => h)
    | (intro _; rfl)
    | (intro _ _ _)
    | (intro _ _)
    | split
    | dsimp only

end Sys2Proof.Laws
end

