-- ==== Sys2Proof/Laws/KeepsArchive.lean ====
section
/-! SUPPORT. Every operation of Machine/Archive.lean keeps what `Keeps` says. -/

namespace Sys2Proof.Laws

open Sys2Proof.Machine Sys2Proof.Safety

variable {s0 : State}

theorem keeps_learnCells  {s : State}  (hk : Keeps s0 s) :
    Keeps s0 (learnCells s) := by
  unfold learnCells
  repeat' first
    | with_reducible assumption
    | with_reducible apply keeps_foldl
    | with_reducible apply keeps_ite
    | (intro _ _ _)
    | (intro _ _)
    | (intro _; rfl)
    | (refine keeps_mk ?_ rfl rfl rfl ?_ ?_ ?_ ?_ ?_ ?_ ?_ ?_ ?_ ?_ ?_ ?_ ?_ ?_ <;> first | assumption | rfl | exact id | exact assocWf_clear _ _ | exact memWf_write _ _ | exact assocWf_set _ _ | exact (fun c x hx => c x (List.mem_filter.1 hx).1) | (simp; done) | skip)

theorem keeps_programCells (c : Nat) (b : Bytes) {s : State}  (hk : Keeps s0 s) :
    Keeps s0 (programCells c b s) := by
  unfold programCells
  repeat' first
    | with_reducible assumption
    | with_reducible apply keeps_flashPut
    | with_reducible apply keeps_foldl
    | (intro _ _ _)
    | (intro _ _)
    | (intro _; rfl)
    | (refine keeps_mk ?_ rfl rfl rfl ?_ ?_ ?_ ?_ ?_ ?_ ?_ ?_ ?_ ?_ ?_ ?_ ?_ ?_ <;> first | assumption | rfl | exact id | exact assocWf_clear _ _ | exact memWf_write _ _ | exact assocWf_set _ _ | exact (fun c x hx => c x (List.mem_filter.1 hx).1) | (simp; done) | skip)

theorem keeps_commitManifest (d : Nat) (debug : Bool) (cell : Nat) (m : Bytes) {s : State}  (hk : Keeps s0 s) :
    Keeps s0 (commitManifest d debug cell m s) := by
  unfold commitManifest
  repeat' first
    | with_reducible assumption
    | with_reducible apply keeps_modDom
    | with_reducible apply keeps_ite
    | (intro _ _ _)
    | (intro _ _)
    | (intro _; rfl)
    | dsimp only
    | (refine keeps_mk ?_ rfl rfl rfl ?_ ?_ ?_ ?_ ?_ ?_ ?_ ?_ ?_ ?_ ?_ ?_ ?_ ?_ <;> first | assumption | rfl | exact id | exact assocWf_clear _ _ | exact memWf_write _ _ | exact assocWf_set _ _ | exact (fun c x hx => c x (List.mem_filter.1 hx).1) | (simp; done) | skip)

theorem keeps_applyChange (c : ArcChange) (cells : List Nat) {s : State}  (hk : Keeps s0 s) :
    Keeps s0 (applyChange c cells s) := by
  unfold applyChange
  repeat' first
    | with_reducible assumption
    | with_reducible apply keeps_programCells
    | with_reducible apply keeps_commitManifest
    | with_reducible apply keeps_foldl
    | (intro _ _ _)

theorem keeps_emptySector (k : Nat) (l : List LiveManifest) {s t : State} (ht : emptySector k l s = some t) (hs : Keeps s0 s) :
    Keeps s0 t := by
  induction l generalizing s with
  | nil =>
    cases ht
    exact hs
  | cons x l ih =>
    unfold emptySector at ht
    split at ht
    · exact ih ht hs
    · split at ht
      · exact ih ht (keeps_applyChange _ _ hs)
      · cases ht

theorem keeps_eraseSector (k : Nat) {s : State}  (hk : Keeps s0 s) :
    Keeps s0 (eraseSector k s) := by
  unfold eraseSector
  repeat' first
    | with_reducible assumption
    | with_reducible apply keeps_flashPut
    | (intro _ _ _)
    | (intro _ _)
    | (intro _; rfl)
    | dsimp only
    | (refine keeps_mk ?_ rfl rfl rfl ?_ ?_ ?_ ?_ ?_ ?_ ?_ ?_ ?_ ?_ ?_ ?_ ?_ ?_ <;> first | assumption | rfl | exact id | exact assocWf_clear _ _ | exact memWf_write _ _ | exact assocWf_set _ _ | exact (fun c x hx => c x (List.mem_filter.1 hx).1) | (simp; done) | skip)

theorem keeps_compact (c : ArcChange) (n : Nat) {s : State} (hs : Keeps s0 s) : Keeps s0 (compact c n s) := by
  induction n generalizing s with
  | zero => exact hs
  | succ f ih =>
    unfold compact
    refine keeps_ite hs ?_
    split
    · exact hs
    · split
      · exact ih (keeps_eraseSector _ (keeps_emptySector _ _ (by assumption) hs))
      · exact hs

theorem keeps_noteLow  {s : State}  (hk : Keeps s0 s) :
    Keeps s0 (noteLow s) := by
  unfold noteLow
  repeat' first
    | with_reducible assumption
    | with_reducible apply keeps_raise
    | with_reducible apply keeps_ite

theorem keeps_brokenCells (cell n : Nat) {s : State} (hk : Keeps s0 s) :
    Keeps s0 (brokenCells cell n s) := by
  unfold brokenCells
  repeat' first
    | with_reducible assumption
    | with_reducible apply keeps_programCells
    | with_reducible apply keeps_raise
    | with_reducible apply keeps_ite
    | exact (fun _ h => h)
    | (intro _; rfl)
    | (intro _ _ _)
    | (intro _ _)
    | dsimp only
    | (refine keeps_mk ?_ rfl rfl rfl ?_ ?_ ?_ ?_ ?_ ?_ ?_ ?_ ?_ ?_ ?_ ?_ ?_ ?_ <;> first | assumption | rfl | exact id | exact assocWf_clear _ _ | exact memWf_write _ _ | exact assocWf_set _ _ | exact (fun c x hx => c x (List.mem_filter.1 hx).1) | (simp; done) | skip)

theorem keeps_brokenChange (c : ArcChange) (cells : List Nat) {s : State} (hk : Keeps s0 s) :
    Keeps s0 (brokenChange c cells s) := by
  unfold brokenChange
  repeat' first
    | with_reducible assumption
    | with_reducible apply keeps_brokenCells
    | with_reducible apply keeps_ite
    | exact (fun _ h => h)
    | (intro _; rfl)
    | (intro _ _ _)
    | (intro _ _)
    | dsimp only

theorem keeps_brokenCompaction {s : State} (hk : Keeps s0 s) :
    Keeps s0 (brokenCompaction s) := by
  unfold brokenCompaction
  repeat' first
    | with_reducible assumption
    | with_reducible apply keeps_brokenCells
    | with_reducible apply keeps_foldl
    | with_reducible apply keeps_brokenChange
    | with_reducible apply keeps_ite
    | exact (fun _ h => h)
    | (intro _; rfl)
    | (intro _ _ _)
    | (intro _ _)
    | split
    | dsimp only

theorem keeps_placeChange (ok : Bool) (c : ArcChange) {s : State} (hk : Keeps s0 s) :
    ArcKeeps s0 (placeChange ok c s) := by
  unfold placeChange
  repeat' first
    | with_reducible assumption
    | with_reducible apply keeps_raise
    | with_reducible apply keeps_applyChange
    | with_reducible apply keeps_brokenChange
    | with_reducible apply arcKeeps_ite
    | with_reducible apply arcKeeps_done
    | with_reducible apply arcKeeps_full
    | with_reducible apply arcKeeps_failed
    | with_reducible apply keeps_ite
    | exact (fun _ h => h)
    | (intro _; rfl)
    | (intro _ _ _)
    | (intro _ _)
    | split
    | dsimp only

theorem keeps_makeRoom (c : ArcChange) {s : State} (hk : Keeps s0 s) :
    Keeps s0 (makeRoom c s) := by
  unfold makeRoom
  repeat' first
    | with_reducible assumption
    | with_reducible apply keeps_noteLow
    | with_reducible apply keeps_compact
    | with_reducible apply keeps_ite
    | exact (fun _ h => h)
    | (intro _; rfl)
    | (intro _ _ _)
    | (intro _ _)
    | dsimp only

theorem keeps_writeChange (ok sound : Bool) (c : ArcChange) {s : State} (hk : Keeps s0 s) :
    ArcKeeps s0 (writeChange ok sound c s) := by
  unfold writeChange
  repeat' first
    | with_reducible assumption
    | with_reducible apply keeps_learnCells
    | with_reducible apply keeps_brokenCompaction
    | with_reducible apply keeps_placeChange
    | with_reducible apply keeps_makeRoom
    | with_reducible apply arcKeeps_ite
    | with_reducible apply arcKeeps_done
    | with_reducible apply arcKeeps_full
    | with_reducible apply arcKeeps_failed
    | with_reducible apply keeps_ite
    | exact (fun _ h => h)
    | (intro _; rfl)
    | (intro _ _ _)
    | (intro _ _)
    | dsimp only

theorem keeps_dropKeys (hs : List Nat) {s : State} (hk : Keeps s0 s) :
    Keeps s0 (dropKeys hs s) := by
  unfold dropKeys
  repeat' first
    | with_reducible assumption
    | with_reducible apply keeps_zeroSlots
    | with_reducible apply keeps_ite
    | exact (fun _ h => h)
    | (intro _; rfl)
    | (intro _ _ _)
    | (intro _ _)
    | dsimp only
    | (refine keeps_mk ?_ rfl rfl rfl ?_ ?_ ?_ ?_ ?_ ?_ ?_ ?_ ?_ ?_ ?_ ?_ ?_ ?_ <;> first | assumption | rfl | exact id | exact assocWf_clear _ _ | exact memWf_write _ _ | exact assocWf_set _ _ | exact (fun c x hx => c x (List.mem_filter.1 hx).1) | (simp; done) | skip)

end Sys2Proof.Laws
end

