-- ==== Sys2Proof/Laws/KeepsEnvelope.lean ====
section
/-! SUPPORT. Every operation of Machine/Envelope.lean keeps what `Keeps` says. -/

namespace Sys2Proof.Laws

open Sys2Proof.Machine Sys2Proof.Safety

variable {s0 : State}

theorem keeps_rejectEnvelope (h : Nat) (x : Hamper) (v : Bytes) (d : Nat) {s : State}  (hk : Keeps s0 s) :
    Keeps s0 (rejectEnvelope h x v d s) := by
  unfold rejectEnvelope
  repeat' first
    | with_reducible assumption
    | with_reducible apply keeps_failEntry
    | with_reducible apply keeps_wrongState
    | with_reducible apply keeps_raise
    | with_reducible apply keeps_ite

theorem keeps_replayEnvelope (h : Nat) (x : Hamper) (v : Bytes) (d : Nat) {s : State}  (hk : Keeps s0 s) :
    Keeps s0 (replayEnvelope h x v d s) := by
  unfold replayEnvelope
  repeat' first
    | with_reducible assumption
    | with_reducible apply keeps_raise
    | with_reducible apply keeps_failEntry

theorem keeps_endEnvelope (h : Nat) (status : Nat) (e : Bytes) (v : Bytes) (reply : Bytes) {s : State}  (hk : Keeps s0 s) :
    Keeps s0 (endEnvelope h status e v reply s) := by
  unfold endEnvelope
  repeat' first
    | with_reducible assumption
    | with_reducible apply keeps_failEntry
    | with_reducible apply keeps_finishEntry
    | with_reducible apply keeps_writeAt
    | with_reducible apply keeps_ite

theorem keeps_commitAuthority (v reply : Bytes) {s : State} (hk : Keeps s0 s) :
    Keeps s0 (commitAuthority v reply s) := by
  unfold commitAuthority
  repeat' first
    | with_reducible assumption
    | with_reducible apply keeps_modThermos
    | with_reducible apply keeps_modDom
    | with_reducible apply keeps_ite
    | exact (fun _ h => h)
    | (intro _; rfl)
    | (intro _ _ _)
    | (intro _ _)
    | dsimp only
    | (refine keeps_mk ?_ rfl rfl rfl ?_ ?_ ?_ ?_ ?_ ?_ ?_ ?_ ?_ ?_ ?_ ?_ ?_ ?_ <;> first | assumption | rfl | exact id | exact assocWf_clear _ _ | exact memWf_write _ _ | exact assocWf_set _ _ | exact (fun c x hx => c x (List.mem_filter.1 hx).1) | (simp; done) | skip)

theorem keeps_endTimeSet {s : State} (hk : Keeps s0 s) :
    Keeps s0 (endTimeSet s) := by
  unfold endTimeSet
  repeat' first
    | with_reducible assumption
    | with_reducible apply keeps_modThermos
    | with_reducible apply keeps_ite
    | exact (fun _ h => h)
    | (intro _; rfl)
    | (intro _ _ _)
    | (intro _ _)
    | dsimp only
    | (refine keeps_mk ?_ rfl rfl rfl ?_ ?_ ?_ ?_ ?_ ?_ ?_ ?_ ?_ ?_ ?_ ?_ ?_ ?_ <;> first | assumption | rfl | exact id | exact assocWf_clear _ _ | exact memWf_write _ _ | exact assocWf_set _ _ | exact (fun c x hx => c x (List.mem_filter.1 hx).1) | (simp; done) | skip)

theorem keeps_cutOff (c : PowerCut) (v : Bytes) {old new : State} (ho : Keeps s0 old) (hn : Keeps s0 new) : Keeps s0 (cutOff c v old new) := by
  unfold cutOff
  refine keeps_powerOn ⟨fun k => ?_, ho.2.1, ho.2.2.1, ho.2.2.2.1, ho.2.2.2.2⟩
  exact ⟨(ho.1 k).1, (ho.1 k).2.1, (hn.1 k).2.2.1, (ho.1 k).2.2.2⟩

/-- The commit of a type keeps. -/
def SpecKeeps (s0 : State) (sp : EnvSpec) : Prop :=
  ∀ run h x v p t, Keeps s0 t → EndKeeps s0 (sp.apply run h x v p t)

theorem keeps_acceptEnvelope (sp : EnvSpec) (run : EnvelopeRun) (h : Nat) (x : Hamper) (e v p : Bytes) {s : State}
    (hsp : SpecKeeps s0 sp) (hs : Keeps s0 s) : Keeps s0 (acceptEnvelope sp run h x e v p s) := by
  have hr := fun d => keeps_rejectEnvelope h x v d hs
  unfold acceptEnvelope
  refine keeps_ite (hr 8) (keeps_ite (hr 9) (keeps_ite (keeps_shortEntry _ _ _ hs) (keeps_ite (hr 11)
    (keeps_ite (keeps_requestWake _ hs) (keeps_ite (keeps_awaitRng hs) (keeps_ite (keeps_requestWake _ hs) ?_))))))
  have := hsp run h x v p s hs
  split
  · rename_i t r heq
    rw [heq] at this
    have ht := keeps_commitAuthority v r this
    exact keeps_ite (keeps_endEnvelope _ _ _ _ _ (keeps_endTimeSet ht)) (keeps_cutOff _ _ hs ht)
  · rename_i heq
    rw [heq] at this
    exact keeps_rejectEnvelope _ _ _ _ this
  · rename_i heq
    rw [heq] at this
    exact this

theorem keeps_repeatEnvelope (h : Nat) (e v : Bytes) {s : State} (hk : Keeps s0 s) :
    Keeps s0 (repeatEnvelope h e v s) := by
  unfold repeatEnvelope
  repeat' first
    | with_reducible assumption
    | with_reducible apply keeps_shortEntry
    | with_reducible apply keeps_requestWake
    | with_reducible apply keeps_endEnvelope
    | with_reducible apply keeps_ite
    | exact (fun _ h => h)
    | (intro _; rfl)
    | (intro _ _ _)
    | (intro _ _)
    | dsimp only

theorem keeps_runEnvelope (sp : EnvSpec) (run : EnvelopeRun) (h : Nat) (x : Hamper) (e v : Bytes) {s : State}
    (hsp : SpecKeeps s0 sp) (hs : Keeps s0 s) : Keeps s0 (runEnvelope sp run h x e v s) := by
  have hb : Keeps s0 { s with board := { s.board with claimEn := run.claimEn.getD s.board.claimEn } } :=
    keeps_mk hs rfl rfl rfl id id id id id id rfl rfl rfl rfl rfl rfl rfl rfl
  unfold runEnvelope
  dsimp only
  split
  · exact keeps_rejectEnvelope _ _ _ _ hb
  · exact keeps_replayEnvelope _ _ _ _ hb
  · exact keeps_repeatEnvelope _ _ _ hb
  · exact keeps_unavailable _ _ _ hb
  · exact hb
  · exact keeps_freeEngines _ (keeps_modHamper _ _ (fun _ => rfl) hb)
  · exact keeps_railsFault _ _ _ _ _ hb
  · exact keeps_acceptEnvelope _ _ _ _ _ _ _ hsp hb

theorem keeps_runStaged (sp : EnvSpec) (run : EnvelopeRun) (h : Nat) (x : Hamper) (e v : Bytes) {s : State}
    (hsp : SpecKeeps s0 sp) (hs : Keeps s0 s) : Keeps s0 (runStaged sp run h x e v s) :=
  keeps_ite hs (keeps_runEnvelope _ _ _ _ _ _ hsp hs)

theorem keeps_stageEnvelope (h : Nat) (v : Bytes) {s : State} (hk : Keeps s0 s) :
    Keeps s0 (stageEnvelope h v s) := by
  unfold stageEnvelope
  repeat' first
    | with_reducible assumption
    | with_reducible apply keeps_modHamper
    | with_reducible apply keeps_ite
    | exact (fun _ h => h)
    | (intro _; rfl)
    | (intro _ _ _)
    | (intro _ _)
    | dsimp only

theorem keeps_envelopeEntry (sp : EnvSpec) (run : EnvelopeRun) (h : Nat) {s : State} (hsp : SpecKeeps s0 sp) (hs : Keeps s0 s) :
    Keeps s0 (envelopeEntry sp run h s) := by
  unfold envelopeEntry
  refine keeps_runEntry _ _ _ (fun x e t ht => ?_) hs
  split
  · exact keeps_endBad _ _ ht
  · exact keeps_ite ht (keeps_ite (keeps_runStaged _ _ _ _ _ _ hsp ht)
      (keeps_withReads _ _ _ _ (fun u hu => keeps_runStaged _ _ _ _ _ _ hsp (keeps_stageEnvelope _ _ hu)) ht))

theorem keeps_archiveEnd (post : State → State) (reply : Bytes) {r : ArcResult} (hpost : ∀ t, Keeps s0 t → Keeps s0 (post t))
    (hr : ArcKeeps s0 r) : EndKeeps s0 (archiveEnd post reply r) := by
  cases r with
  | done => exact hpost _ hr
  | full => exact hr
  | failed => exact hr

theorem keeps_changeArchive (run : EnvelopeRun) (c : ArcChange) (post : State → State) (reply : Bytes) {s : State}
    (hpost : ∀ t, Keeps s0 t → Keeps s0 (post t)) (hs : Keeps s0 s) : EndKeeps s0 (changeArchive run c post reply s) :=
  keeps_archiveEnd post reply hpost (keeps_writeChange _ _ _ hs)

end Sys2Proof.Laws
end

