-- ==== Sys2Proof/Laws/KeepsDomains.lean ====
section
/-! SUPPORT. Every operation of Machine/Domains.lean keeps what `Keeps` says. -/

namespace Sys2Proof.Laws

open Sys2Proof.Machine Sys2Proof.Safety

variable {s0 : State}

theorem keeps_placeDomain (d : Nat) (r : DomRec) {s : State}  (hk : Keeps s0 s) :
    Keeps s0 (placeDomain d r s) := by
  unfold placeDomain
  repeat' first
    | with_reducible assumption
    | with_reducible apply keeps_modDom
    | with_reducible apply keeps_modThermos
    | (intro _ _ _)
    | (intro _ _)
    | (intro _; rfl)
    | dsimp only
    | (refine keeps_mk ?_ rfl rfl rfl ?_ ?_ ?_ ?_ ?_ ?_ ?_ ?_ ?_ ?_ ?_ ?_ ?_ ?_ <;> first | assumption | rfl | exact id | exact assocWf_clear _ _ | exact memWf_write _ _ | exact assocWf_set _ _ | exact (fun c x hx => c x (List.mem_filter.1 hx).1) | (simp; done) | skip)

theorem keeps_createApply (run : EnvelopeRun) (x1 : Nat) (x2 : Hamper) (x3 : Bytes) (p : Bytes) {s : State} (hk : Keeps s0 s) :
    EndKeeps s0 (createApply run x1 x2 x3 p s) := by
  unfold createApply
  extract_lets d epoch r0 r
  with_reducible exact keeps_changeArchive run _ _ _ (fun t h => keeps_placeDomain d r h) hk

theorem keeps_clearDomain (d : Nat) {s : State} (hk : Keeps s0 s) :
    Keeps s0 (clearDomain d s) := by
  unfold clearDomain
  repeat' first
    | with_reducible assumption
    | with_reducible apply keeps_modThermos
    | with_reducible apply keeps_zeroSlots
    | with_reducible apply keeps_ite
    | exact (fun _ h => h)
    | (intro _; rfl)
    | (intro _ _ _)
    | (intro _ _)
    | dsimp only
    | (refine keeps_mk ?_ rfl rfl rfl ?_ ?_ ?_ ?_ ?_ ?_ ?_ ?_ ?_ ?_ ?_ ?_ ?_ ?_ <;> first | assumption | rfl | exact id | exact assocWf_clear _ _ | exact memWf_write _ _ | exact assocWf_set _ _ | exact (fun c x hx => c x (List.mem_filter.1 hx).1) | (simp; done) | skip)

theorem keeps_faultDomainRings (d : Nat) {s : State}  (hk : Keeps s0 s) :
    Keeps s0 (faultDomainRings d s) := by
  unfold faultDomainRings
  repeat' first
    | with_reducible assumption
    | with_reducible apply keeps_faultRing
    | with_reducible apply keeps_foldl
    | (intro _ _ _)

theorem keeps_destroyApply (x0 : EnvelopeRun) (x1 : Nat) (x2 : Hamper) (x3 : Bytes) (p : Bytes) {s : State} (hk : Keeps s0 s) :
    EndKeeps s0 (destroyApply x0 x1 x2 x3 p s) := by
  have he : Keeps s0 ((endRecord (leAt p 0 2) s).getD s) := by
    cases h : endRecord (leAt p 0 2) s with
    | none => exact hk
    | some t => exact keeps_endRecord _ h hk
  exact endKeeps_applied (keeps_faultDomainRings _ (keeps_modThermos _ (keeps_clearDomain _ (keeps_modDom _ _ he))))

theorem keeps_quotaApply (x0 : EnvelopeRun) (x1 : Nat) (x2 : Hamper) (x3 : Bytes) (p : Bytes) {s : State}  (hk : Keeps s0 s) :
    EndKeeps s0 (quotaApply x0 x1 x2 x3 p s) := by
  unfold quotaApply
  repeat' first
    | with_reducible assumption
    | with_reducible apply keeps_modDom
    | with_reducible apply endKeeps_applied
    | (intro _ _ _)
    | (intro _ _)
    | (intro _; rfl)
    | dsimp only
    | (refine keeps_mk ?_ rfl rfl rfl ?_ ?_ ?_ ?_ ?_ ?_ ?_ ?_ ?_ ?_ ?_ ?_ ?_ ?_ <;> first | assumption | rfl | exact id | exact assocWf_clear _ _ | exact memWf_write _ _ | exact assocWf_set _ _ | exact (fun c x hx => c x (List.mem_filter.1 hx).1) | (simp; done) | skip)

theorem keeps_rateApply (x0 : EnvelopeRun) (x1 : Nat) (x2 : Hamper) (x3 : Bytes) (p : Bytes) {s : State}  (hk : Keeps s0 s) :
    EndKeeps s0 (rateApply x0 x1 x2 x3 p s) := by
  unfold rateApply
  repeat' first
    | with_reducible assumption
    | with_reducible apply keeps_modThermos
    | with_reducible apply keeps_splitRecord
    | with_reducible apply endKeeps_applied
    | (intro _ _ _)
    | (intro _ _)
    | (intro _; rfl)
    | split

theorem keeps_meterApply (x0 : EnvelopeRun) (x1 : Nat) (x2 : Hamper) (x3 : Bytes) (p : Bytes) {s : State}  (hk : Keeps s0 s) :
    EndKeeps s0 (meterApply x0 x1 x2 x3 p s) := by
  unfold meterApply
  repeat' first
    | with_reducible assumption
    | with_reducible apply keeps_modThermos
    | with_reducible apply endKeeps_applied

theorem keeps_timeApply (x0 : EnvelopeRun) (x1 : Nat) (x2 : Hamper) (x3 p : Bytes) {s : State} (hk : Keeps s0 s) :
    EndKeeps s0 (timeApply x0 x1 x2 x3 p s) := by
  unfold timeApply
  repeat' first
    | with_reducible assumption
    | with_reducible apply keeps_modThermos
    | with_reducible apply keeps_raise
    | with_reducible apply endKeeps_ite
    | with_reducible apply endKeeps_applied
    | with_reducible apply endKeeps_rejected
    | with_reducible apply endKeeps_struck
    | with_reducible apply keeps_ite
    | exact (fun _ h => h)
    | (intro _; rfl)
    | (intro _ _ _)
    | (intro _ _)
    | dsimp only

end Sys2Proof.Laws
end

