-- ==== Sys2Proof/Laws/KeepsAuthority.lean ====
section
/-! SUPPORT. Every operation of Machine/Authority.lean keeps what `Keeps` says. -/

namespace Sys2Proof.Laws

open Sys2Proof.Machine Sys2Proof.Safety

variable {s0 : State}

theorem keeps_startReset (h : Nat) (on : Bool) {s : State} (hk : Keeps s0 s) :
    Keeps s0 (startReset h on s) := by
  unfold startReset
  repeat' first
    | with_reducible assumption
    | with_reducible apply keeps_ite
    | exact (fun _ h => h)
    | (intro _; rfl)
    | (intro _ _ _)
    | (intro _ _)
    | dsimp only
    | (refine keeps_mk ?_ rfl rfl rfl ?_ ?_ ?_ ?_ ?_ ?_ ?_ ?_ ?_ ?_ ?_ ?_ ?_ ?_ <;> first | assumption | rfl | exact id | exact assocWf_clear _ _ | exact memWf_write _ _ | exact assocWf_set _ _ | exact (fun c x hx => c x (List.mem_filter.1 hx).1) | (simp; done) | skip)

theorem keeps_newRoot {s : State} (hk : Keeps s0 s) :
    Keeps s0 (newRoot s) := by
  unfold newRoot
  repeat' first
    | with_reducible assumption
    | with_reducible apply keeps_modThermos
    | with_reducible apply keeps_afterDraw
    | with_reducible apply keeps_ite
    | exact (fun _ h => h)
    | (intro _; rfl)
    | (intro _ _ _)
    | (intro _ _)
    | dsimp only

theorem keeps_freeDomains {s : State} (hk : Keeps s0 s) :
    Keeps s0 (freeDomains s) := by
  unfold freeDomains
  repeat' first
    | with_reducible assumption
    | with_reducible apply keeps_modThermos
    | with_reducible apply keeps_ite
    | exact (fun _ h => h)
    | (intro _; rfl)
    | (intro _ _ _)
    | (intro _ _)
    | dsimp only
    | (refine keeps_mk ?_ rfl rfl rfl ?_ ?_ ?_ ?_ ?_ ?_ ?_ ?_ ?_ ?_ ?_ ?_ ?_ ?_ <;> first | assumption | rfl | exact id | exact assocWf_clear _ _ | exact memWf_write _ _ | exact assocWf_set _ _ | exact (fun c x hx => c x (List.mem_filter.1 hx).1) | (simp; done) | skip)

theorem keeps_forgetDomains {s : State} (hk : Keeps s0 s) :
    Keeps s0 (forgetDomains s) := by
  unfold forgetDomains
  repeat' first
    | with_reducible assumption
    | with_reducible apply keeps_modThermos
    | with_reducible apply keeps_emptyStore
    | with_reducible apply keeps_ite
    | exact (fun _ h => h)
    | (intro _; rfl)
    | (intro _ _ _)
    | (intro _ _)
    | dsimp only
    | (refine keeps_mk ?_ rfl rfl rfl ?_ ?_ ?_ ?_ ?_ ?_ ?_ ?_ ?_ ?_ ?_ ?_ ?_ ?_ <;> first | assumption | rfl | exact id | exact assocWf_clear _ _ | exact memWf_write _ _ | exact assocWf_set _ _ | exact (fun c x hx => c x (List.mem_filter.1 hx).1) | (simp; done) | skip)

theorem keeps_abortRing (r : Nat) {s : State} (hk : Keeps s0 s) :
    Keeps s0 (abortRing r s) := by
  unfold abortRing
  repeat' first
    | with_reducible assumption
    | with_reducible apply keeps_shutdownRing
    | with_reducible apply keeps_foldl
    | with_reducible apply keeps_closeHamper
    | with_reducible apply keeps_unbindRing
    | with_reducible apply keeps_ite
    | exact (fun _ h => h)
    | (intro _; rfl)
    | (intro _ _ _)
    | (intro _ _)
    | dsimp only

theorem keeps_endBootstrap (p : Nat) {s : State} (hk : Keeps s0 s) :
    Keeps s0 (endBootstrap p s) := by
  unfold endBootstrap
  repeat' first
    | with_reducible assumption
    | with_reducible apply keeps_modPort
    | with_reducible apply keeps_abortRing
    | with_reducible apply keeps_wipeRange
    | with_reducible apply keeps_ite
    | exact (fun _ h => h)
    | (intro _; rfl)
    | (intro _ _ _)
    | (intro _ _)
    | dsimp only

theorem keeps_claimPorts (p : Nat) {s : State}  (hk : Keeps s0 s) :
    Keeps s0 (claimPorts p s) := by
  unfold claimPorts
  repeat' first
    | with_reducible assumption
    | with_reducible apply keeps_endBootstrap
    | with_reducible apply keeps_modPort
    | with_reducible apply keeps_foldl
    | (intro _ _ _)

theorem keeps_claimRecords (x : Hamper) (v p : Bytes) (r m : DomRec) {s : State} (hk : Keeps s0 s) :
    Keeps s0 (claimRecords x v p r m s) := by
  unfold claimRecords
  repeat' first
    | with_reducible assumption
    | with_reducible apply keeps_forgetDomains
    | with_reducible apply keeps_freeDomains
    | with_reducible apply keeps_newRoot
    | with_reducible apply keeps_modDom
    | with_reducible apply keeps_modThermos
    | with_reducible apply keeps_placeDomain
    | with_reducible apply keeps_ite
    | exact (fun _ h => h)
    | (intro _; rfl)
    | (intro _ _ _)
    | (intro _ _)
    | dsimp only
    | (refine keeps_mk ?_ rfl rfl rfl ?_ ?_ ?_ ?_ ?_ ?_ ?_ ?_ ?_ ?_ ?_ ?_ ?_ ?_ <;> first | assumption | rfl | exact id | exact assocWf_clear _ _ | exact memWf_write _ _ | exact assocWf_set _ _ | exact (fun c x hx => c x (List.mem_filter.1 hx).1) | (simp; done) | skip)

theorem keeps_claimCommit (h : Nat) (x : Hamper) (v p : Bytes) (r m : DomRec) {s : State} (hk : Keeps s0 s) :
    Keeps s0 (claimCommit h x v p r m s) := by
  unfold claimCommit
  repeat' first
    | with_reducible assumption
    | with_reducible apply keeps_claimRecords
    | with_reducible apply keeps_claimPorts
    | with_reducible apply keeps_startReset
    | with_reducible apply keeps_ite
    | exact (fun _ h => h)
    | (intro _; rfl)
    | (intro _ _ _)
    | (intro _ _)
    | dsimp only

theorem keeps_claimEnd (h : Nat) (x : Hamper) (v p : Bytes) (r : DomRec) {e : EnvEnd} (he : EndKeeps s0 e) : EndKeeps s0 (claimEnd h x v p r e) := by
  cases e with
  | applied t b => exact keeps_claimCommit h x v p r (domOf t 0) he
  | rejected => exact he
  | struck => exact he

theorem keeps_claimApply (run : EnvelopeRun) (h : Nat) (x : Hamper) (v p : Bytes) {s : State} (hk : Keeps s0 s) :
    EndKeeps s0 (claimApply run h x v p s) := by
  unfold claimApply
  repeat' first
    | with_reducible assumption
    | with_reducible apply keeps_claimCommit
    | with_reducible apply keeps_claimEnd
    | with_reducible apply keeps_changeArchive
    | with_reducible apply endKeeps_ite
    | with_reducible apply endKeeps_applied
    | with_reducible apply endKeeps_rejected
    | with_reducible apply endKeeps_struck
    | with_reducible apply keeps_ite
    | exact (fun _ h => h)
    | (intro _; rfl)
    | (intro _ _ _)
    | (intro _ _)
    | dsimp only

theorem keeps_operatorApply (x0 : EnvelopeRun) (x1 : Nat) (x2 : Hamper) (x3 : Bytes) (p : Bytes) {s : State}  (hk : Keeps s0 s) :
    EndKeeps s0 (operatorApply x0 x1 x2 x3 p s) := by
  unfold operatorApply
  repeat' first
    | with_reducible assumption
    | with_reducible apply keeps_modThermos
    | with_reducible apply endKeeps_applied

theorem keeps_ownerApply (x0 : EnvelopeRun) (x1 : Nat) (x2 : Hamper) (v : Bytes) (p : Bytes) {s : State}  (hk : Keeps s0 s) :
    EndKeeps s0 (ownerApply x0 x1 x2 v p s) := by
  unfold ownerApply
  repeat' first
    | with_reducible assumption
    | with_reducible apply keeps_modDom
    | with_reducible apply endKeeps_applied

theorem keeps_unlockApply (x0 : EnvelopeRun) (h : Nat) (x1 : Hamper) (x2 p : Bytes) {s : State} (hk : Keeps s0 s) :
    EndKeeps s0 (unlockApply x0 h x1 x2 p s) := by
  unfold unlockApply
  repeat' first
    | with_reducible assumption
    | with_reducible apply keeps_startReset
    | with_reducible apply keeps_modThermos
    | with_reducible apply endKeeps_ite
    | with_reducible apply endKeeps_applied
    | with_reducible apply endKeeps_rejected
    | with_reducible apply endKeeps_struck
    | with_reducible apply keeps_ite
    | exact (fun _ h => h)
    | (intro _; rfl)
    | (intro _ _ _)
    | (intro _ _)
    | dsimp only

theorem keeps_authApply (x0 : EnvelopeRun) (h : Nat) (x1 : Hamper) (x2 x3 : Bytes) {s : State} (hk : Keeps s0 s) :
    EndKeeps s0 (authApply x0 h x1 x2 x3 s) := by
  unfold authApply
  repeat' first
    | with_reducible assumption
    | with_reducible apply keeps_startReset
    | with_reducible apply keeps_modThermos
    | with_reducible apply endKeeps_ite
    | with_reducible apply endKeeps_applied
    | with_reducible apply endKeeps_rejected
    | with_reducible apply endKeeps_struck
    | with_reducible apply keeps_ite
    | exact (fun _ h => h)
    | (intro _; rfl)
    | (intro _ _ _)
    | (intro _ _)
    | dsimp only
    | (refine keeps_mk ?_ rfl rfl rfl ?_ ?_ ?_ ?_ ?_ ?_ ?_ ?_ ?_ ?_ ?_ ?_ ?_ ?_ <;> first | assumption | rfl | exact id | exact assocWf_clear _ _ | exact memWf_write _ _ | exact assocWf_set _ _ | exact (fun c x hx => c x (List.mem_filter.1 hx).1) | (simp; done) | skip)

theorem keeps_reRooted {s : State} (hk : Keeps s0 s) :
    Keeps s0 (reRooted s) := by
  unfold reRooted
  repeat' first
    | with_reducible assumption
    | with_reducible apply keeps_modThermos
    | with_reducible apply keeps_forgetDomains
    | with_reducible apply keeps_freeDomains
    | with_reducible apply keeps_newRoot
    | with_reducible apply keeps_ite
    | exact (fun _ h => h)
    | (intro _; rfl)
    | (intro _ _ _)
    | (intro _ _)
    | dsimp only

/-- The fuse may blow: `Keeps` only says that it never heals. -/
theorem keeps_blowFuse {s : State} (hk : Keeps s0 s) : Keeps s0 { s with board := { s.board with scrapFuse := true } } :=
  Keeps.trans hk ⟨id, id, rfl, fun _ => rfl, le_refl _⟩

theorem keeps_scrapped {s : State} (hk : Keeps s0 s) : Keeps s0 (scrapped s) :=
  keeps_blowFuse (keeps_modThermos _ (keeps_forgetDomains hk))

theorem keeps_rootApply (x0 : EnvelopeRun) (h : Nat) (x1 : Hamper) (x2 p : Bytes) {s : State} (hk : Keeps s0 s) :
    EndKeeps s0 (rootApply x0 h x1 x2 p s) := by
  unfold rootApply
  repeat' first
    | with_reducible assumption
    | with_reducible apply keeps_startReset
    | with_reducible apply keeps_scrapped
    | with_reducible apply keeps_reRooted
    | with_reducible apply endKeeps_ite
    | with_reducible apply endKeeps_applied
    | with_reducible apply endKeeps_rejected
    | with_reducible apply endKeeps_struck
    | with_reducible apply keeps_ite
    | exact (fun _ h => h)
    | (intro _; rfl)
    | (intro _ _ _)
    | (intro _ _)
    | dsimp only

end Sys2Proof.Laws
end

