-- ==== Sys2Proof/Laws/KeepsKeyEnvelopes.lean ====
section
/-! SUPPORT. Every operation of Machine/KeyEnvelopes.lean keeps what `Keeps` says. -/

namespace Sys2Proof.Laws

open Sys2Proof.Machine Sys2Proof.Safety

variable {s0 : State}

theorem keeps_storeKey (run : EnvelopeRun) (d : Nat) (h : Nat) (parent : Nat) (k : Key) (iv : Bytes) (gone : List Nat)
    (post : State → State) (reply : Bytes) {s : State} (h_post : ∀ t, Keeps s0 t → Keeps s0 (post t)) (hk : Keeps s0 s) :
    EndKeeps s0 (storeKey run d h parent k iv gone post reply s) := by
  unfold storeKey
  split
  · with_reducible exact endKeeps_rejected (keeps_loadEvent _ _ hk)
  · split
    · with_reducible exact endKeeps_rejected (keeps_loadEvent _ _ hk)
    · with_reducible exact keeps_changeArchive _ _ _ _ h_post hk

theorem keeps_importApply (run : EnvelopeRun) (x1 : Nat) (x2 : Hamper) (v : Bytes) (p : Bytes) {s : State}  (hk : Keeps s0 s) :
    EndKeeps s0 (importApply run x1 x2 v p s) := by
  unfold importApply
  repeat' first
    | with_reducible assumption
    | with_reducible apply keeps_storeKey
    | with_reducible apply keeps_afterDraw
    | exact (fun _ h => h)

theorem keeps_replaceApply (run : EnvelopeRun) (x1 : Nat) (x2 : Hamper) (v : Bytes) (p : Bytes) {s : State}  (hk : Keeps s0 s) :
    EndKeeps s0 (replaceApply run x1 x2 v p s) := by
  unfold replaceApply
  repeat' first
    | with_reducible assumption
    | with_reducible apply keeps_loadEvent
    | with_reducible apply keeps_storeKey
    | with_reducible apply keeps_dropKeys
    | with_reducible apply keeps_afterDraw
    | with_reducible apply keeps_ite
    | with_reducible apply endKeeps_rejected
    | (intro _ _ _)
    | (intro _ _)
    | (intro _; rfl)
    | split
    | dsimp only

theorem keeps_generateApply (run : EnvelopeRun) (h : Nat) (x : Hamper) (v p : Bytes) {s : State} (hk : Keeps s0 s) :
    EndKeeps s0 (generateApply run h x v p s) := by
  unfold generateApply
  repeat' first
    | with_reducible assumption
    | with_reducible apply keeps_afterDraw
    | with_reducible apply keeps_selfCheckFault
    | with_reducible apply keeps_storeKey
    | with_reducible apply endKeeps_ite
    | with_reducible apply endKeeps_applied
    | with_reducible apply endKeeps_rejected
    | with_reducible apply endKeeps_struck
    | with_reducible apply keeps_ite
    | exact (fun _ h => h)
    | (intro _; rfl)
    | (intro _ _ _)
    | (intro _ _)
    | dsimp only

theorem keeps_referenceApply (run : EnvelopeRun) (x1 : Nat) (x2 : Hamper) (v : Bytes) (p : Bytes) {s : State}  (hk : Keeps s0 s) :
    EndKeeps s0 (referenceApply run x1 x2 v p s) := by
  unfold referenceApply
  repeat' first
    | with_reducible assumption
    | with_reducible apply keeps_storeKey
    | with_reducible apply keeps_dropKeys
    | with_reducible apply keeps_afterDraw

theorem keeps_destroyKeyApply (run : EnvelopeRun) (x1 : Nat) (x2 : Hamper) (v : Bytes) (p : Bytes) {s : State} (hk : Keeps s0 s) :
    EndKeeps s0 (destroyKeyApply run x1 x2 v p s) := by
  unfold destroyKeyApply
  extract_lets d h
  split
  · with_reducible exact endKeeps_rejected (keeps_loadEvent _ _ hk)
  · with_reducible exact keeps_changeArchive _ _ _ _ (fun t ht => keeps_dropKeys _ ht) hk

theorem keeps_resealSlot (h : Nat) (ref : Nat) (meas : Nat) {s : State}  (hk : Keeps s0 s) :
    Keeps s0 (resealSlot h ref meas s) := by
  unfold resealSlot
  repeat' first
    | with_reducible assumption
    | with_reducible apply keeps_ite
    | (intro _ _ _)
    | (intro _ _)
    | (intro _; rfl)
    | dsimp only
    | (refine keeps_mk ?_ rfl rfl rfl ?_ ?_ ?_ ?_ ?_ ?_ ?_ ?_ ?_ ?_ ?_ ?_ ?_ ?_ <;> first | assumption | rfl | exact id | exact assocWf_clear _ _ | exact memWf_write _ _ | exact assocWf_set _ _ | exact (fun c x hx => c x (List.mem_filter.1 hx).1) | (simp; done) | skip)

theorem keeps_sealApply (run : EnvelopeRun) (x1 : Nat) (x2 : Hamper) (v : Bytes) (p : Bytes) {s : State}  (hk : Keeps s0 s) :
    EndKeeps s0 (sealApply run x1 x2 v p s) := by
  unfold sealApply
  repeat' first
    | with_reducible assumption
    | with_reducible apply keeps_storeKey
    | with_reducible apply keeps_resealSlot
    | with_reducible apply keeps_afterDraw
    | with_reducible apply keeps_loadEvent
    | with_reducible apply endKeeps_rejected
    | (intro _ _ _)
    | (intro _ _)
    | (intro _; rfl)
    | split
    | dsimp only

end Sys2Proof.Laws
end

