-- ==== Sys2Proof/Laws/KeepsGrants.lean ====
section
/-! SUPPORT. Every operation of Machine/Grants.lean keeps what `Keeps` says. -/

namespace Sys2Proof.Laws

open Sys2Proof.Machine Sys2Proof.Safety

variable {s0 : State}

theorem keeps_storeDevice (run : EnvelopeRun) (h : Nat) (k : Key) (form : Nat) (post : State → State) {s : State}
    (h_post : ∀ t, Keeps s0 t → Keeps s0 (post t)) (hk : Keeps s0 s) : EndKeeps s0 (storeDevice run h k form post s) := by
  unfold storeDevice
  extract_lets iv hd
  split
  · with_reducible exact keeps_changeArchive _ _ _ _ h_post (keeps_afterDraw _ hk)
  all_goals with_reducible exact endKeeps_rejected (keeps_loadEvent _ _ hk)

theorem keeps_settleBanks (before : State) (g : Grant) {s : State}  (hk : Keeps s0 s) :
    Keeps s0 (settleBanks before g s) := by
  unfold settleBanks
  repeat' first
    | with_reducible assumption
    | with_reducible apply keeps_modPd
    | with_reducible apply keeps_requestWake
    | with_reducible apply keeps_foldl
    | with_reducible apply keeps_ite
    | (intro _ _ _)

theorem keeps_settleRings (p : Nat) (before : State) {s : State} (hk : Keeps s0 s) :
    Keeps s0 (settleRings p before s) := by
  unfold settleRings
  repeat' first
    | with_reducible assumption
    | with_reducible apply keeps_foldl
    | with_reducible apply keeps_faultRing
    | with_reducible apply keeps_shutdownRing
    | with_reducible apply keeps_ite
    | exact (fun _ h => h)
    | (intro _; rfl)
    | (intro _ _ _)
    | (intro _ _)
    | dsimp only

theorem keeps_wipeLost (old : Grant) (new : Grant) {s : State}  (hk : Keeps s0 s) :
    Keeps s0 (wipeLost old new s) := by
  unfold wipeLost
  repeat' first
    | with_reducible assumption
    | with_reducible apply keeps_wipeRange
    | with_reducible apply keeps_foldl
    | (intro _ _ _)

theorem keeps_grantEffects (p : Bytes) {s : State} (hk : Keeps s0 s) :
    Keeps s0 (grantEffects p s) := by
  unfold grantEffects
  repeat' first
    | with_reducible assumption
    | with_reducible apply keeps_modThermos
    | with_reducible apply keeps_modPort
    | with_reducible apply keeps_wipeLost
    | with_reducible apply keeps_settleRings
    | with_reducible apply keeps_settleBanks
    | with_reducible apply keeps_ite
    | exact (fun _ h => h)
    | (intro _; rfl)
    | (intro _ _ _)
    | (intro _ _)
    | dsimp only

theorem keeps_grantApply (run : EnvelopeRun) (x1 : Nat) (x2 : Hamper) (x3 : Bytes) (p : Bytes) {s : State}  (hk : Keeps s0 s) :
    EndKeeps s0 (grantApply run x1 x2 x3 p s) := by
  unfold grantApply
  repeat' first
    | with_reducible assumption
    | with_reducible apply keeps_loadEvent
    | with_reducible apply keeps_storeDevice
    | with_reducible apply keeps_grantEffects
    | with_reducible apply endKeeps_rejected
    | (intro _ _ _)
    | (intro _ _)
    | (intro _; rfl)
    | split

theorem keeps_layoutApply (run : EnvelopeRun) (x1 : Nat) (x2 : Hamper) (x3 : Bytes) (p : Bytes) {s : State}  (hk : Keeps s0 s) :
    EndKeeps s0 (layoutApply run x1 x2 x3 p s) := by
  unfold layoutApply
  repeat' first
    | with_reducible assumption
    | with_reducible apply keeps_storeDevice
    | (intro _ _ _)
    | (intro _ _)
    | (intro _; rfl)
    | dsimp only
    | (refine keeps_mk ?_ rfl rfl rfl ?_ ?_ ?_ ?_ ?_ ?_ ?_ ?_ ?_ ?_ ?_ ?_ ?_ ?_ <;> first | assumption | rfl | exact id | exact assocWf_clear _ _ | exact memWf_write _ _ | exact assocWf_set _ _ | exact (fun c x hx => c x (List.mem_filter.1 hx).1) | (simp; done) | skip)

end Sys2Proof.Laws
end

