-- ==== Sys2Proof/Laws/KeepsMemPort.lean ====
section
/-! SUPPORT. Every operation of Machine/MemPort.lean keeps what `Keeps` says. -/

namespace Sys2Proof.Laws

open Sys2Proof.Machine Sys2Proof.Safety

variable {s0 : State}

theorem keeps_advanceFetch (p : Port) (u : Nat) {s : State}  (hk : Keeps s0 s) :
    Keeps s0 (advanceFetch p u s) := by
  unfold advanceFetch
  repeat' first
    | with_reducible assumption
    | with_reducible apply keeps_modPort
    | with_reducible apply keeps_queueWork
    | with_reducible apply keeps_ite
    | (intro _ _ _)
    | (intro _ _)
    | (intro _; rfl)
    | split

theorem keeps_fetchRead (p : Port) (u : Nat) {s : State} (hk : Keeps s0 s) :
    Keeps s0 (fetchRead p u s) := by
  unfold fetchRead
  repeat' first
    | with_reducible assumption
    | with_reducible apply keeps_tongsRead
    | with_reducible apply keeps_ite
    | exact (fun _ h => h)
    | (intro _; rfl)
    | (intro _ _ _)
    | (intro _ _)
    | split
    | dsimp only

theorem keeps_lineDone (w : MpWork) {s : State} (hk : Keeps s0 s) :
    Keeps s0 (lineDone w s) := by
  unfold lineDone
  repeat' first
    | with_reducible assumption
    | with_reducible apply keeps_fillLine
    | with_reducible apply keeps_advanceFetch
    | with_reducible apply keeps_fetchRead
    | with_reducible apply keeps_ite
    | exact (fun _ h => h)
    | (intro _; rfl)
    | (intro _ _ _)
    | (intro _ _)
    | split
    | dsimp only
    | (refine keeps_mk ?_ rfl rfl rfl ?_ ?_ ?_ ?_ ?_ ?_ ?_ ?_ ?_ ?_ ?_ ?_ ?_ ?_ <;> first | assumption | rfl | exact id | exact assocWf_clear _ _ | exact memWf_write _ _ | exact assocWf_set _ _ | exact (fun c x hx => c x (List.mem_filter.1 hx).1) | (simp; done) | skip)

theorem keeps_drainLarder {s : State} (hk : Keeps s0 s) :
    Keeps s0 (drainLarder s) := by
  unfold drainLarder
  repeat' first
    | with_reducible assumption
    | with_reducible apply keeps_ite
    | exact (fun _ h => h)
    | (intro _; rfl)
    | (intro _ _ _)
    | (intro _ _)
    | dsimp only
    | (refine keeps_mk ?_ rfl rfl rfl ?_ ?_ ?_ ?_ ?_ ?_ ?_ ?_ ?_ ?_ ?_ ?_ ?_ ?_ <;> first | assumption | rfl | exact id | exact assocWf_clear _ _ | exact memWf_write _ _ | exact assocWf_set _ _ | exact (fun c x hx => c x (List.mem_filter.1 hx).1) | (simp; done) | skip)

theorem keeps_carryOut (t : Transaction) {s : State} (hk : Keeps s0 s) :
    Keeps s0 (carryOut t s) := by
  unfold carryOut
  repeat' first
    | with_reducible assumption
    | with_reducible apply keeps_lineDone
    | with_reducible apply keeps_drainLarder
    | with_reducible apply keeps_startOps
    | with_reducible apply keeps_ite
    | exact (fun _ h => h)
    | (intro _; rfl)
    | (intro _ _ _)
    | (intro _ _)
    | split
    | dsimp only

theorem keeps_transactionDone {s : State} (hk : Keeps s0 s) :
    Keeps s0 (transactionDone s) := by
  unfold transactionDone
  repeat' first
    | with_reducible assumption
    | with_reducible apply keeps_beginNext
    | with_reducible apply keeps_carryOut
    | with_reducible apply keeps_endTransaction
    | with_reducible apply keeps_ite
    | exact (fun _ h => h)
    | (intro _; rfl)
    | (intro _ _ _)
    | (intro _ _)
    | split
    | dsimp only

theorem keeps_dropFetch (p : Nat) {s : State}  (hk : Keeps s0 s) :
    Keeps s0 (dropFetch p s) := by
  unfold dropFetch
  repeat' first
    | with_reducible assumption
    | with_reducible apply keeps_modPort
    | (intro _ _ _)
    | (intro _ _)
    | (intro _; rfl)
    | dsimp only
    | (refine keeps_mk ?_ rfl rfl rfl ?_ ?_ ?_ ?_ ?_ ?_ ?_ ?_ ?_ ?_ ?_ ?_ ?_ ?_ <;> first | assumption | rfl | exact id | exact assocWf_clear _ _ | exact memWf_write _ _ | exact assocWf_set _ _ | exact (fun c x hx => c x (List.mem_filter.1 hx).1) | (simp; done) | skip)

theorem keeps_abortFetch (p : Nat) {s : State} (hk : Keeps s0 s) :
    Keeps s0 (abortFetch p s) := by
  unfold abortFetch
  repeat' first
    | with_reducible assumption
    | with_reducible apply keeps_modPort
    | with_reducible apply keeps_dropFetch
    | with_reducible apply keeps_ite
    | exact (fun _ h => h)
    | (intro _; rfl)
    | (intro _ _ _)
    | (intro _ _)
    | split
    | dsimp only

theorem keeps_readStatus (equalBytes : Bool) (reentryOk : Bool) {s : State}  (hk : Keeps s0 s) :
    Keeps s0 (readStatus equalBytes reentryOk s) := by
  unfold readStatus
  repeat' first
    | with_reducible assumption
    | with_reducible apply keeps_raise
    | with_reducible apply keeps_ite
    | dsimp only
    | (refine keeps_mk ?_ rfl rfl rfl ?_ ?_ ?_ ?_ ?_ ?_ ?_ ?_ ?_ ?_ ?_ ?_ ?_ ?_ <;> first | assumption | rfl | exact id | exact assocWf_clear _ _ | exact memWf_write _ _ | exact assocWf_set _ _ | exact (fun c x hx => c x (List.mem_filter.1 hx).1) | (simp; done) | skip)

theorem keeps_stepMismatch (p : Nat) (o : WinOp) {s : State}  (hk : Keeps s0 s) :
    Keeps s0 (stepMismatch p o s) := by
  unfold stepMismatch
  repeat' first
    | with_reducible assumption
    | with_reducible apply keeps_setOp
    | with_reducible apply keeps_failOp
    | with_reducible apply keeps_ite
    | (refine keeps_mk ?_ rfl rfl rfl ?_ ?_ ?_ ?_ ?_ ?_ ?_ ?_ ?_ ?_ ?_ ?_ ?_ ?_ <;> first | assumption | rfl | exact id | exact assocWf_clear _ _ | exact memWf_write _ _ | exact assocWf_set _ _ | exact (fun c x hx => c x (List.mem_filter.1 hx).1) | (simp; done) | skip)

theorem keeps_statusPoll (equalBytes wip verifyOk reentryOk : Bool) {s : State} (hk : Keeps s0 s) :
    Keeps s0 (statusPoll equalBytes wip verifyOk reentryOk s) := by
  unfold statusPoll
  repeat' first
    | with_reducible assumption
    | with_reducible apply keeps_readStatus
    | with_reducible apply keeps_beginNext
    | with_reducible apply keeps_startOps
    | with_reducible apply keeps_stepDone
    | with_reducible apply keeps_stepMismatch
    | with_reducible apply keeps_ite
    | exact (fun _ h => h)
    | (intro _; rfl)
    | (intro _ _ _)
    | (intro _ _)
    | split
    | dsimp only

theorem keeps_taintWindow (w : Nat) {s : State}  (hk : Keeps s0 s) :
    Keeps s0 (taintWindow w s) := by
  unfold taintWindow
  repeat' first
    | with_reducible assumption
    | with_reducible apply keeps_extendMeas
    | with_reducible apply keeps_raise
    | with_reducible apply keeps_ite
    | dsimp only
    | (refine keeps_mk ?_ rfl rfl rfl ?_ ?_ ?_ ?_ ?_ ?_ ?_ ?_ ?_ ?_ ?_ ?_ ?_ ?_ <;> first | assumption | rfl | exact id | exact assocWf_clear _ _ | exact memWf_write _ _ | exact assocWf_set _ _ | exact (fun c x hx => c x (List.mem_filter.1 hx).1) | (simp; done) | skip)

theorem keeps_taintAll  {s : State}  (hk : Keeps s0 s) :
    Keeps s0 (taintAll s) := by
  unfold taintAll
  repeat' first
    | with_reducible assumption
    | with_reducible apply keeps_taintWindow
    | with_reducible apply keeps_foldl
    | (intro _ _ _)

theorem keeps_interruptFlash  {s : State}  (hk : Keeps s0 s) :
    Keeps s0 (interruptFlash s) := by
  unfold interruptFlash
  repeat' first
    | with_reducible assumption
    | with_reducible apply keeps_setOp
    | with_reducible apply keeps_ite
    | split
    | dsimp only
    | (refine keeps_mk ?_ rfl rfl rfl ?_ ?_ ?_ ?_ ?_ ?_ ?_ ?_ ?_ ?_ ?_ ?_ ?_ ?_ <;> first | assumption | rfl | exact id | exact assocWf_clear _ _ | exact memWf_write _ _ | exact assocWf_set _ _ | exact (fun c x hx => c x (List.mem_filter.1 hx).1) | (simp; done) | skip)

theorem keeps_dropAbandoned  {s : State}  (hk : Keeps s0 s) :
    Keeps s0 (dropAbandoned s) := by
  unfold dropAbandoned
  repeat' first
    | with_reducible assumption
    | with_reducible apply keeps_dropFetch
    | with_reducible apply keeps_foldl
    | with_reducible apply keeps_ite
    | (intro _ _ _)

theorem keeps_breakOff {s : State} (hk : Keeps s0 s) :
    Keeps s0 (breakOff s) := by
  unfold breakOff
  repeat' first
    | with_reducible assumption
    | with_reducible apply keeps_endTransaction
    | with_reducible apply keeps_interruptFlash
    | with_reducible apply keeps_dropAbandoned
    | with_reducible apply keeps_ite
    | exact (fun _ h => h)
    | (intro _; rfl)
    | (intro _ _ _)
    | (intro _ _)
    | dsimp only

theorem keeps_xselFall {s : State} (hk : Keeps s0 s) :
    Keeps s0 (xselFall s) := by
  unfold xselFall
  repeat' first
    | with_reducible assumption
    | with_reducible apply keeps_breakOff
    | with_reducible apply keeps_taintAll
    | with_reducible apply keeps_raise
    | with_reducible apply keeps_ite
    | exact (fun _ h => h)
    | (intro _; rfl)
    | (intro _ _ _)
    | (intro _ _)
    | dsimp only
    | (refine keeps_mk ?_ rfl rfl rfl ?_ ?_ ?_ ?_ ?_ ?_ ?_ ?_ ?_ ?_ ?_ ?_ ?_ ?_ <;> first | assumption | rfl | exact id | exact assocWf_clear _ _ | exact memWf_write _ _ | exact assocWf_set _ _ | exact (fun c x hx => c x (List.mem_filter.1 hx).1) | (simp; done) | skip)

theorem keeps_foreignWrites (l : List (Nat × Byte)) {s : State}  (hk : Keeps s0 s) :
    Keeps s0 (foreignWrites l s) := by
  unfold foreignWrites
  repeat' first
    | with_reducible assumption
    | with_reducible apply keeps_flashPut
    | with_reducible apply keeps_foldl
    | with_reducible apply keeps_ite
    | (intro _ _ _)

theorem keeps_xselRise (heldUs : Nat) (foreign : List (Nat × Byte)) {s : State} (hk : Keeps s0 s) :
    Keeps s0 (xselRise heldUs foreign s) := by
  unfold xselRise
  repeat' first
    | with_reducible assumption
    | with_reducible apply keeps_foreignWrites
    | with_reducible apply keeps_elapseTo
    | with_reducible apply keeps_emptyCache
    | with_reducible apply keeps_ite
    | exact (fun _ h => h)
    | (intro _; rfl)
    | (intro _ _ _)
    | (intro _ _)
    | dsimp only
    | (refine keeps_mk ?_ rfl rfl rfl ?_ ?_ ?_ ?_ ?_ ?_ ?_ ?_ ?_ ?_ ?_ ?_ ?_ ?_ <;> first | assumption | rfl | exact id | exact assocWf_clear _ _ | exact memWf_write _ _ | exact assocWf_set _ _ | exact (fun c x hx => c x (List.mem_filter.1 hx).1) | (simp; done) | skip)

theorem keeps_checkConfig (equalBytes reentryOk : Bool) {s : State} (hk : Keeps s0 s) :
    Keeps s0 (checkConfig equalBytes reentryOk s) := by
  unfold checkConfig
  repeat' first
    | with_reducible assumption
    | with_reducible apply keeps_readStatus
    | with_reducible apply keeps_beginNext
    | with_reducible apply keeps_startOps
    | with_reducible apply keeps_ite
    | exact (fun _ h => h)
    | (intro _; rfl)
    | (intro _ _ _)
    | (intro _ _)
    | dsimp only
    | (refine keeps_mk ?_ rfl rfl rfl ?_ ?_ ?_ ?_ ?_ ?_ ?_ ?_ ?_ ?_ ?_ ?_ ?_ ?_ <;> first | assumption | rfl | exact id | exact assocWf_clear _ _ | exact memWf_write _ _ | exact assocWf_set _ _ | exact (fun c x hx => c x (List.mem_filter.1 hx).1) | (simp; done) | skip)

theorem keeps_holdLimit (overMs : Bool) {s : State} (hk : Keeps s0 s) :
    Keeps s0 (holdLimit overMs s) := by
  unfold holdLimit
  repeat' first
    | with_reducible assumption
    | with_reducible apply keeps_raise
    | with_reducible apply keeps_elapseTo
    | with_reducible apply keeps_ite
    | exact (fun _ h => h)
    | (intro _; rfl)
    | (intro _ _ _)
    | (intro _ _)
    | dsimp only

end Sys2Proof.Laws
end

