-- ==== Sys2Proof/Laws/KeepsPower.lean ====
section
/-! SUPPORT. Every operation of Machine/Power.lean keeps what `Keeps` says. -/

namespace Sys2Proof.Laws

open Sys2Proof.Machine Sys2Proof.Safety

variable {s0 : State}

theorem keeps_idleGate (i : Nat) {s : State}  (hk : Keeps s0 s) :
    Keeps s0 (idleGate i s) := by
  unfold idleGate
  repeat' first
    | with_reducible assumption
    | with_reducible apply keeps_modPd
    | with_reducible apply keeps_ite

theorem keeps_bankOff (b : Nat) {s : State}  (hk : Keeps s0 s) :
    Keeps s0 (bankOff b s) := by
  unfold bankOff
  repeat' first
    | with_reducible assumption
    | with_reducible apply keeps_wipeRange
    | (intro _ _ _)
    | (intro _ _)
    | (intro _; rfl)
    | dsimp only
    | (refine keeps_mk ?_ rfl rfl rfl ?_ ?_ ?_ ?_ ?_ ?_ ?_ ?_ ?_ ?_ ?_ ?_ ?_ ?_ <;> first | assumption | rfl | exact id | exact assocWf_clear _ _ | exact memWf_write _ _ | exact assocWf_set _ _ | exact (fun c x hx => c x (List.mem_filter.1 hx).1) | (simp; done) | skip)

theorem keeps_switchOff (i : Nat) {s : State} (hk : Keeps s0 s) :
    Keeps s0 (switchOff i s) := by
  unfold switchOff
  repeat' first
    | with_reducible assumption
    | with_reducible apply keeps_modPd
    | with_reducible apply keeps_bankOff
    | with_reducible apply keeps_emptyCache
    | with_reducible apply keeps_emptyStore
    | with_reducible apply keeps_ite
    | exact (fun _ h => h)
    | (intro _; rfl)
    | (intro _ _ _)
    | (intro _ _)
    | dsimp only
    | (refine keeps_mk ?_ rfl rfl rfl ?_ ?_ ?_ ?_ ?_ ?_ ?_ ?_ ?_ ?_ ?_ ?_ ?_ ?_ <;> first | assumption | rfl | exact id | exact assocWf_clear _ _ | exact memWf_write _ _ | exact assocWf_set _ _ | exact (fun c x hx => c x (List.mem_filter.1 hx).1) | (simp; done) | skip)

theorem keeps_gateDomain (i : Nat) {s : State}  (hk : Keeps s0 s) :
    Keeps s0 (gateDomain i s) := by
  unfold gateDomain
  repeat' first
    | with_reducible assumption
    | with_reducible apply keeps_switchOff
    | with_reducible apply keeps_requestWake
    | with_reducible apply keeps_ite

theorem keeps_startQueued  {s : State}  (hk : Keeps s0 s) :
    Keeps s0 (startQueued s) := by
  unfold startQueued
  repeat' first
    | with_reducible assumption
    | with_reducible apply keeps_modPd
    | with_reducible apply keeps_foldl
    | with_reducible apply keeps_ite
    | (intro _ _ _)
    | (intro _ _)
    | (intro _; rfl)
    | dsimp only
    | (refine keeps_mk ?_ rfl rfl rfl ?_ ?_ ?_ ?_ ?_ ?_ ?_ ?_ ?_ ?_ ?_ ?_ ?_ ?_ <;> first | assumption | rfl | exact id | exact assocWf_clear _ _ | exact memWf_write _ _ | exact assocWf_set _ _ | exact (fun c x hx => c x (List.mem_filter.1 hx).1) | (simp; done) | skip)

theorem keeps_wakeOne (h : Nat) (n : Nat) (l : List Nat) {s : State}  (hk : Keeps s0 s) :
    Keeps s0 (wakeOne h n l s) := by
  unfold wakeOne
  repeat' first
    | with_reducible assumption
    | with_reducible apply keeps_requestWake
    | with_reducible apply keeps_capRefuse
    | with_reducible apply keeps_ite
    | (intro _ _ _)
    | (intro _ _)
    | (intro _; rfl)
    | split

theorem keeps_wakeFor (h : Nat) (n : Need) {s : State}  (hk : Keeps s0 s) :
    Keeps s0 (wakeFor h n s) := by
  unfold wakeFor
  repeat' first
    | with_reducible assumption
    | with_reducible apply keeps_wakeOne
    | with_reducible apply keeps_ite
    | split

theorem keeps_holdWake (h : Nat) {s : State}  (hk : Keeps s0 s) :
    Keeps s0 (holdWake h s) := by
  unfold holdWake
  repeat' first
    | with_reducible assumption
    | with_reducible apply keeps_wakeFor
    | split

theorem keeps_bankPrewake (r : Nat) {s : State}  (hk : Keeps s0 s) :
    Keeps s0 (bankPrewake r s) := by
  unfold bankPrewake
  repeat' first
    | with_reducible assumption
    | with_reducible apply keeps_requestWake
    | with_reducible apply keeps_ite

theorem keeps_scrubBank (b : Nat) {s : State} (hk : Keeps s0 s) :
    Keeps s0 (scrubBank b s) := by
  unfold scrubBank
  repeat' first
    | with_reducible assumption
    | with_reducible apply keeps_foldl
    | with_reducible apply keeps_meetWord
    | with_reducible apply keeps_ite
    | exact (fun _ h => h)
    | (intro _; rfl)
    | (intro _ _ _)
    | (intro _ _)
    | dsimp only
    | (refine keeps_mk ?_ rfl rfl rfl ?_ ?_ ?_ ?_ ?_ ?_ ?_ ?_ ?_ ?_ ?_ ?_ ?_ ?_ <;> first | assumption | rfl | exact id | exact assocWf_clear _ _ | exact memWf_write _ _ | exact assocWf_set _ _ | exact (fun c x hx => c x (List.mem_filter.1 hx).1) | (simp; done) | skip)

theorem keeps_reachOn (i : Nat) {s : State} (hk : Keeps s0 s) :
    Keeps s0 (reachOn i s) := by
  unfold reachOn
  repeat' first
    | with_reducible assumption
    | with_reducible apply keeps_modPd
    | with_reducible apply keeps_scrubBank
    | with_reducible apply keeps_ite
    | exact (fun _ h => h)
    | (intro _; rfl)
    | (intro _ _ _)
    | (intro _ _)
    | dsimp only

theorem keeps_recordWr (p : Nat) (opc : Nat) (outcome : Nat) {s : State}  (hk : Keeps s0 s) :
    Keeps s0 (recordWr p opc outcome s) := by
  unfold recordWr
  repeat' first
    | with_reducible assumption
    | with_reducible apply keeps_modPort

theorem keeps_portAwake (p : Nat) {s : State}  (hk : Keeps s0 s) :
    Keeps s0 (portAwake p s) := by
  unfold portAwake
  repeat' first
    | with_reducible assumption
    | with_reducible apply keeps_modPort
    | with_reducible apply keeps_reachOn
    | with_reducible apply keeps_recordWr
    | with_reducible apply keeps_foldl
    | (intro _ _ _)

theorem keeps_rewakeHeld  {s : State}  (hk : Keeps s0 s) :
    Keeps s0 (rewakeHeld s) := by
  unfold rewakeHeld
  repeat' first
    | with_reducible assumption
    | with_reducible apply keeps_holdWake
    | with_reducible apply keeps_foldl
    | exact (fun _ h => h)
    | (intro _ _ _)

theorem keeps_engineAwake (i : Nat) (pass : Bool) {s : State}  (hk : Keeps s0 s) :
    Keeps s0 (engineAwake i pass s) := by
  unfold engineAwake
  repeat' first
    | with_reducible assumption
    | with_reducible apply keeps_rewakeHeld
    | with_reducible apply keeps_retire
    | with_reducible apply keeps_reachOn
    | with_reducible apply keeps_ite

theorem keeps_rngAwake (pass : Bool) {s : State} (hk : Keeps s0 s) :
    Keeps s0 (rngAwake pass s) := by
  unfold rngAwake
  repeat' first
    | with_reducible assumption
    | with_reducible apply keeps_reachOn
    | with_reducible apply keeps_raise
    | with_reducible apply keeps_ite
    | exact (fun _ h => h)
    | (intro _; rfl)
    | (intro _ _ _)
    | (intro _ _)
    | dsimp only
    | (refine keeps_mk ?_ rfl rfl rfl ?_ ?_ ?_ ?_ ?_ ?_ ?_ ?_ ?_ ?_ ?_ ?_ ?_ ?_ <;> first | assumption | rfl | exact id | exact assocWf_clear _ _ | exact memWf_write _ _ | exact assocWf_set _ _ | exact (fun c x hx => c x (List.mem_filter.1 hx).1) | (simp; done) | skip)

theorem keeps_wakeDone (i : Nat) (pass : Bool) {s : State}  (hk : Keeps s0 s) :
    Keeps s0 (wakeDone i pass s) := by
  unfold wakeDone
  repeat' first
    | with_reducible assumption
    | with_reducible apply keeps_engineAwake
    | with_reducible apply keeps_reachOn
    | with_reducible apply keeps_portAwake
    | with_reducible apply keeps_startOps
    | with_reducible apply keeps_rngAwake
    | with_reducible apply keeps_ite

theorem keeps_wakeTimeout (i : Nat) {s : State}  (hk : Keeps s0 s) :
    Keeps s0 (wakeTimeout i s) := by
  unfold wakeTimeout
  repeat' first
    | with_reducible assumption
    | with_reducible apply keeps_rewakeHeld
    | with_reducible apply keeps_retire
    | with_reducible apply keeps_raise
    | with_reducible apply keeps_modPd
    | with_reducible apply keeps_ite
    | (intro _ _ _)
    | (intro _ _)
    | (intro _; rfl)
    | dsimp only
    | (refine keeps_mk ?_ rfl rfl rfl ?_ ?_ ?_ ?_ ?_ ?_ ?_ ?_ ?_ ?_ ?_ ?_ ?_ ?_ <;> first | assumption | rfl | exact id | exact assocWf_clear _ _ | exact memWf_write _ _ | exact assocWf_set _ _ | exact (fun c x hx => c x (List.mem_filter.1 hx).1) | (simp; done) | skip)

theorem keeps_fenceRetest (i : Nat) {s : State}  (hk : Keeps s0 s) :
    Keeps s0 (fenceRetest i s) := by
  unfold fenceRetest
  repeat' first
    | with_reducible assumption
    | with_reducible apply keeps_modPd
    | with_reducible apply keeps_requestWake
    | with_reducible apply keeps_ite

theorem keeps_capWait (h : Nat) {s : State}  (hk : Keeps s0 s) :
    Keeps s0 (capWait h s) := by
  unfold capWait
  repeat' first
    | with_reducible assumption
    | with_reducible apply keeps_raise
    | with_reducible apply keeps_ite
    | split

theorem keeps_tjThrottle (tj : Int) {s : State}  (hk : Keeps s0 s) :
    Keeps s0 (tjThrottle tj s) := by
  unfold tjThrottle
  repeat' first
    | with_reducible assumption
    | with_reducible apply keeps_raise
    | with_reducible apply keeps_ite
    | (refine keeps_mk ?_ rfl rfl rfl ?_ ?_ ?_ ?_ ?_ ?_ ?_ ?_ ?_ ?_ ?_ ?_ ?_ ?_ <;> first | assumption | rfl | exact id | exact assocWf_clear _ _ | exact memWf_write _ _ | exact assocWf_set _ _ | exact (fun c x hx => c x (List.mem_filter.1 hx).1) | (simp; done) | skip)

theorem keeps_tjCritical (tj : Int) {s : State}  (hk : Keeps s0 s) :
    Keeps s0 (tjCritical tj s) := by
  unfold tjCritical
  repeat' first
    | with_reducible assumption
    | with_reducible apply keeps_raise
    | with_reducible apply keeps_alarmAll
    | with_reducible apply keeps_ite
    | (refine keeps_mk ?_ rfl rfl rfl ?_ ?_ ?_ ?_ ?_ ?_ ?_ ?_ ?_ ?_ ?_ ?_ ?_ ?_ <;> first | assumption | rfl | exact id | exact assocWf_clear _ _ | exact memWf_write _ _ | exact assocWf_set _ _ | exact (fun c x hx => c x (List.mem_filter.1 hx).1) | (simp; done) | skip)

theorem keeps_drbgReseed {s : State} (hk : Keeps s0 s) :
    Keeps s0 (drbgReseed s) := by
  unfold drbgReseed
  repeat' first
    | with_reducible assumption
    | with_reducible apply keeps_ite
    | exact (fun _ h => h)
    | (intro _; rfl)
    | (intro _ _ _)
    | (intro _ _)
    | dsimp only
    | (refine keeps_mk ?_ rfl rfl rfl ?_ ?_ ?_ ?_ ?_ ?_ ?_ ?_ ?_ ?_ ?_ ?_ ?_ ?_ <;> first | assumption | rfl | exact id | exact assocWf_clear _ _ | exact memWf_write _ _ | exact assocWf_set _ _ | exact (fun c x hx => c x (List.mem_filter.1 hx).1) | (simp; done) | skip)

theorem keeps_rngFail  {s : State}  (hk : Keeps s0 s) :
    Keeps s0 (rngFail s) := by
  unfold rngFail
  repeat' first
    | with_reducible assumption
    | with_reducible apply keeps_raise
    | with_reducible apply keeps_alarmEngine
    | with_reducible apply keeps_foldl
    | with_reducible apply keeps_ite
    | (intro _ _ _)
    | (intro _ _)
    | (intro _; rfl)
    | dsimp only
    | (refine keeps_mk ?_ rfl rfl rfl ?_ ?_ ?_ ?_ ?_ ?_ ?_ ?_ ?_ ?_ ?_ ?_ ?_ ?_ <;> first | assumption | rfl | exact id | exact assocWf_clear _ _ | exact memWf_write _ _ | exact assocWf_set _ _ | exact (fun c x hx => c x (List.mem_filter.1 hx).1) | (simp; done) | skip)

theorem keeps_rngRestarted (pass : Bool) {s : State} (hk : Keeps s0 s) :
    Keeps s0 (rngRestarted pass s) := by
  unfold rngRestarted
  repeat' first
    | with_reducible assumption
    | with_reducible apply keeps_raise
    | with_reducible apply keeps_ite
    | exact (fun _ h => h)
    | (intro _; rfl)
    | (intro _ _ _)
    | (intro _ _)
    | dsimp only
    | (refine keeps_mk ?_ rfl rfl rfl ?_ ?_ ?_ ?_ ?_ ?_ ?_ ?_ ?_ ?_ ?_ ?_ ?_ ?_ <;> first | assumption | rfl | exact id | exact assocWf_clear _ _ | exact memWf_write _ _ | exact assocWf_set _ _ | exact (fun c x hx => c x (List.mem_filter.1 hx).1) | (simp; done) | skip)

theorem keeps_drsFault  {s : State}  (hk : Keeps s0 s) :
    Keeps s0 (drsFault s) := by
  unfold drsFault
  repeat' first
    | with_reducible assumption
    | with_reducible apply keeps_raise
    | with_reducible apply keeps_modThermos

theorem keeps_whiskRun (shareOk : Bool) (errs : List Nat) (ms : Nat) {s : State} (hk : Keeps s0 s) :
    Keeps s0 (whiskRun shareOk errs ms s) := by
  unfold whiskRun
  repeat' first
    | with_reducible assumption
    | with_reducible apply keeps_modThermos
    | with_reducible apply keeps_afterDraw
    | with_reducible apply keeps_foldl
    | with_reducible apply keeps_dropKey
    | with_reducible apply keeps_drsFault
    | with_reducible apply keeps_ite
    | exact (fun _ h => h)
    | (intro _; rfl)
    | (intro _ _ _)
    | (intro _ _)
    | dsimp only
    | (refine keeps_mk ?_ rfl rfl rfl ?_ ?_ ?_ ?_ ?_ ?_ ?_ ?_ ?_ ?_ ?_ ?_ ?_ ?_ <;> first | assumption | rfl | exact id | exact assocWf_clear _ _ | exact memWf_write _ _ | exact assocWf_set _ _ | exact (fun c x hx => c x (List.mem_filter.1 hx).1) | (simp; done) | skip)

theorem keeps_thermosEcc (o : Nat) (sev : Nat) {s : State}  (hk : Keeps s0 s) :
    Keeps s0 (thermosEcc o sev s) := by
  unfold thermosEcc
  repeat' first
    | with_reducible assumption
    | with_reducible apply keeps_raiseSev

theorem keeps_rebuildMeter  {s : State}  (hk : Keeps s0 s) :
    Keeps s0 (rebuildMeter s) := by
  unfold rebuildMeter
  repeat' first
    | with_reducible assumption
    | with_reducible apply keeps_modThermos

theorem keeps_dropRetirement (k : Nat) {s : State}  (hk : Keeps s0 s) :
    Keeps s0 (dropRetirement k s) := by
  unfold dropRetirement
  repeat' first
    | with_reducible assumption
    | with_reducible apply keeps_modThermos
    | with_reducible apply keeps_modPd
    | with_reducible apply keeps_ite
    | (intro _ _ _)
    | (intro _ _)
    | (intro _; rfl)
    | split
    | dsimp only
    | (refine keeps_mk ?_ rfl rfl rfl ?_ ?_ ?_ ?_ ?_ ?_ ?_ ?_ ?_ ?_ ?_ ?_ ?_ ?_ <;> first | assumption | rfl | exact id | exact assocWf_clear _ _ | exact memWf_write _ _ | exact assocWf_set _ _ | exact (fun c x hx => c x (List.mem_filter.1 hx).1) | (simp; done) | skip)

theorem keeps_dropRemap (b : Nat) (j : Nat) {s : State}  (hk : Keeps s0 s) :
    Keeps s0 (dropRemap b j s) := by
  unfold dropRemap
  repeat' first
    | with_reducible assumption
    | with_reducible apply keeps_modThermos

theorem keeps_strikeRepair (o : Nat) {s : State}  (hk : Keeps s0 s) :
    Keeps s0 (strikeRepair o s) := by
  unfold strikeRepair
  repeat' first
    | with_reducible assumption
    | with_reducible apply keeps_dropRetirement
    | with_reducible apply keeps_dropRemap
    | with_reducible apply keeps_ite

theorem keeps_strikeThermos (o : Nat) {s : State} (hk : Keeps s0 s) :
    Keeps s0 (strikeThermos o s) := by
  unfold strikeThermos
  repeat' first
    | with_reducible assumption
    | with_reducible apply keeps_recordUe
    | with_reducible apply keeps_thermosEcc
    | with_reducible apply keeps_modThermos
    | with_reducible apply keeps_raise
    | with_reducible apply keeps_modDom
    | with_reducible apply keeps_rebuildMeter
    | with_reducible apply keeps_strikeRepair
    | with_reducible apply keeps_ite
    | exact (fun _ h => h)
    | (intro _; rfl)
    | (intro _ _ _)
    | (intro _ _)
    | dsimp only
    | (refine keeps_mk ?_ rfl rfl rfl ?_ ?_ ?_ ?_ ?_ ?_ ?_ ?_ ?_ ?_ ?_ ?_ ?_ ?_ <;> first | assumption | rfl | exact id | exact assocWf_clear _ _ | exact memWf_write _ _ | exact assocWf_set _ _ | exact (fun c x hx => c x (List.mem_filter.1 hx).1) | (simp; done) | skip)

theorem keeps_scrubSlot (h : Nat) (n : Nat) {s : State}  (hk : Keeps s0 s) :
    Keeps s0 (scrubSlot h n s) := by
  unfold scrubSlot
  repeat' first
    | with_reducible assumption
    | with_reducible apply keeps_raise
    | with_reducible apply keeps_dropKey
    | with_reducible apply keeps_recordUe
    | with_reducible apply keeps_ite
    | (refine keeps_mk ?_ rfl rfl rfl ?_ ?_ ?_ ?_ ?_ ?_ ?_ ?_ ?_ ?_ ?_ ?_ ?_ ?_ <;> first | assumption | rfl | exact id | exact assocWf_clear _ _ | exact memWf_write _ _ | exact assocWf_set _ _ | exact (fun c x hx => c x (List.mem_filter.1 hx).1) | (simp; done) | skip)

theorem keeps_addLatent (errs : List (Nat × Nat)) {s : State} (hk : Keeps s0 s) :
    Keeps s0 (addLatent errs s) := by
  unfold addLatent
  repeat' first
    | with_reducible assumption
    | with_reducible apply keeps_foldl
    | with_reducible apply keeps_ite
    | exact (fun _ h => h)
    | (intro _; rfl)
    | (intro _ _ _)
    | (intro _ _)
    | dsimp only
    | (refine keeps_mk ?_ rfl rfl rfl ?_ ?_ ?_ ?_ ?_ ?_ ?_ ?_ ?_ ?_ ?_ ?_ ?_ ?_ <;> first | assumption | rfl | exact id | exact assocWf_clear _ _ | exact memWf_write _ _ | exact assocWf_set _ _ | exact (fun c x hx => c x (List.mem_filter.1 hx).1) | (simp; done) | skip)

theorem keeps_scrubPantry (errs : List (Nat × Nat)) {s : State} (hk : Keeps s0 s) :
    Keeps s0 (scrubPantry errs s) := by
  unfold scrubPantry
  repeat' first
    | with_reducible assumption
    | with_reducible apply keeps_foldl
    | with_reducible apply keeps_scrubBank
    | with_reducible apply keeps_addLatent
    | with_reducible apply keeps_ite
    | exact (fun _ h => h)
    | (intro _; rfl)
    | (intro _ _ _)
    | (intro _ _)
    | dsimp only
    | (refine keeps_mk ?_ rfl rfl rfl ?_ ?_ ?_ ?_ ?_ ?_ ?_ ?_ ?_ ?_ ?_ ?_ ?_ ?_ <;> first | assumption | rfl | exact id | exact assocWf_clear _ _ | exact memWf_write _ _ | exact assocWf_set _ _ | exact (fun c x hx => c x (List.mem_filter.1 hx).1) | (simp; done) | skip)

theorem keeps_scrubLines (errs : List (Nat × Nat)) {s : State} (hk : Keeps s0 s) :
    Keeps s0 (scrubLines errs s) := by
  unfold scrubLines
  repeat' first
    | with_reducible assumption
    | with_reducible apply keeps_foldl
    | with_reducible apply keeps_failLine
    | with_reducible apply keeps_ite
    | exact (fun _ h => h)
    | (intro _; rfl)
    | (intro _ _ _)
    | (intro _ _)
    | dsimp only

theorem keeps_scrubPass (errs : List (Nat × Nat)) {s : State} (hk : Keeps s0 s) :
    Keeps s0 (scrubPass errs s) := by
  unfold scrubPass
  repeat' first
    | with_reducible assumption
    | with_reducible apply keeps_scrubPantry
    | with_reducible apply keeps_foldl
    | with_reducible apply keeps_scrubSlot
    | with_reducible apply keeps_strikeThermos
    | with_reducible apply keeps_scrubLines
    | with_reducible apply keeps_ite
    | exact (fun _ h => h)
    | (intro _; rfl)
    | (intro _ _ _)
    | (intro _ _)
    | dsimp only
    | (refine keeps_mk ?_ rfl rfl rfl ?_ ?_ ?_ ?_ ?_ ?_ ?_ ?_ ?_ ?_ ?_ ?_ ?_ ?_ <;> first | assumption | rfl | exact id | exact assocWf_clear _ _ | exact memWf_write _ _ | exact assocWf_set _ _ | exact (fun c x hx => c x (List.mem_filter.1 hx).1) | (simp; done) | skip)

end Sys2Proof.Laws
end

