-- ==== Sys2Proof/Laws/KeepsBoot.lean ====
section
/-! SUPPORT. Every operation of Machine/Boot.lean keeps what `Keeps` says. -/

namespace Sys2Proof.Laws

open Sys2Proof.Machine Sys2Proof.Safety

variable {s0 : State}

theorem keeps_setStraps (b : BootEnv) {s : State} (hk : Keeps s0 s) :
    Keeps s0 (setStraps b s) := by
  unfold setStraps
  repeat' first
    | with_reducible assumption
    | with_reducible apply keeps_ite
    | exact (fun _ h => h)
    | (intro _; rfl)
    | (intro _ _ _)
    | (intro _ _)
    | dsimp only
    | (refine keeps_mk ?_ rfl rfl rfl ?_ ?_ ?_ ?_ ?_ ?_ ?_ ?_ ?_ ?_ ?_ ?_ ?_ ?_ <;> first | assumption | rfl | exact id | exact assocWf_clear _ _ | exact memWf_write _ _ | exact assocWf_set _ _ | exact (fun c x hx => c x (List.mem_filter.1 hx).1) | (simp; done) | skip)

theorem keeps_sampleStraps {s : State} (hk : Keeps s0 s) :
    Keeps s0 (sampleStraps s) := by
  unfold sampleStraps
  repeat' first
    | with_reducible assumption
    | with_reducible apply keeps_ite
    | exact (fun _ h => h)
    | (intro _; rfl)
    | (intro _ _ _)
    | (intro _ _)
    | dsimp only
    | (refine keeps_mk ?_ rfl rfl rfl ?_ ?_ ?_ ?_ ?_ ?_ ?_ ?_ ?_ ?_ ?_ ?_ ?_ ?_ <;> first | assumption | rfl | exact id | exact assocWf_clear _ _ | exact memWf_write _ _ | exact assocWf_set _ _ | exact (fun c x hx => c x (List.mem_filter.1 hx).1) | (simp; done) | skip)

theorem keeps_stepAon (b : BootEnv) {s : State}  (hk : Keeps s0 s) :
    Keeps s0 (stepAon b s) := by
  unfold stepAon
  repeat' first
    | with_reducible assumption
    | with_reducible apply keeps_modPd
    | with_reducible apply keeps_modThermos
    | with_reducible apply keeps_foldl
    | with_reducible apply keeps_ite
    | (intro _ _ _)
    | (intro _ _)
    | (intro _; rfl)
    | dsimp only
    | (refine keeps_mk ?_ rfl rfl rfl ?_ ?_ ?_ ?_ ?_ ?_ ?_ ?_ ?_ ?_ ?_ ?_ ?_ ?_ <;> first | assumption | rfl | exact id | exact assocWf_clear _ _ | exact memWf_write _ _ | exact assocWf_set _ _ | exact (fun c x hx => c x (List.mem_filter.1 hx).1) | (simp; done) | skip)

theorem keeps_failSpare (c : Nat × Nat) {s : State}  (hk : Keeps s0 s) :
    Keeps s0 (failSpare c s) := by
  unfold failSpare
  repeat' first
    | with_reducible assumption
    | with_reducible apply keeps_modThermos
    | with_reducible apply keeps_logRetirement
    | with_reducible apply keeps_ite
    | (intro _ _ _)
    | (intro _ _)
    | (intro _; rfl)
    | split
    | dsimp only

theorem keeps_stepRepair (b : BootEnv) {s : State}  (hk : Keeps s0 s) :
    Keeps s0 (stepRepair b s) := by
  unfold stepRepair
  repeat' first
    | with_reducible assumption
    | with_reducible apply keeps_modPd
    | with_reducible apply keeps_noteDegraded
    | with_reducible apply keeps_failSpare
    | with_reducible apply keeps_foldl
    | (intro _ _ _)

theorem keeps_stepEntropy (b : BootEnv) {s : State} (hk : Keeps s0 s) :
    Keeps s0 (stepEntropy b s) := by
  unfold stepEntropy
  repeat' first
    | with_reducible assumption
    | with_reducible apply keeps_modPd
    | with_reducible apply keeps_raise
    | with_reducible apply keeps_ite
    | exact (fun _ h => h)
    | (intro _; rfl)
    | (intro _ _ _)
    | (intro _ _)
    | dsimp only
    | (refine keeps_mk ?_ rfl rfl rfl ?_ ?_ ?_ ?_ ?_ ?_ ?_ ?_ ?_ ?_ ?_ ?_ ?_ ?_ <;> first | assumption | rfl | exact id | exact assocWf_clear _ _ | exact memWf_write _ _ | exact assocWf_set _ _ | exact (fun c x hx => c x (List.mem_filter.1 hx).1) | (simp; done) | skip)

theorem keeps_replayJournal {s : State} (hk : Keeps s0 s) :
    Keeps s0 (replayJournal s) := by
  unfold replayJournal
  repeat' first
    | with_reducible assumption
    | with_reducible apply keeps_raise
    | with_reducible apply keeps_ite
    | exact (fun _ h => h)
    | (intro _; rfl)
    | (intro _ _ _)
    | (intro _ _)
    | split
    | dsimp only
    | (refine keeps_mk ?_ rfl rfl rfl ?_ ?_ ?_ ?_ ?_ ?_ ?_ ?_ ?_ ?_ ?_ ?_ ?_ ?_ <;> first | assumption | rfl | exact id | exact assocWf_clear _ _ | exact memWf_write _ _ | exact assocWf_set _ _ | exact (fun c x hx => c x (List.mem_filter.1 hx).1) | (simp; done) | skip)

theorem keeps_loseRecovery  {s : State}  (hk : Keeps s0 s) :
    Keeps s0 (loseRecovery s) := by
  unfold loseRecovery
  repeat' first
    | with_reducible assumption
    | with_reducible apply keeps_modThermos

theorem keeps_failRecord (o : Nat) {s : State} (hk : Keeps s0 s) :
    Keeps s0 (failRecord o s) := by
  unfold failRecord
  repeat' first
    | with_reducible assumption
    | with_reducible apply keeps_modThermos
    | with_reducible apply keeps_modDom
    | with_reducible apply keeps_strikeThermos
    | with_reducible apply keeps_ite
    | exact (fun _ h => h)
    | (intro _; rfl)
    | (intro _ _ _)
    | (intro _ _)
    | dsimp only

theorem keeps_stepThermos (b : BootEnv) {s : State} (hk : Keeps s0 s) :
    Keeps s0 (stepThermos b s) := by
  unfold stepThermos
  repeat' first
    | with_reducible assumption
    | with_reducible apply keeps_foldl
    | with_reducible apply keeps_failRecord
    | with_reducible apply keeps_replayJournal
    | with_reducible apply keeps_modThermos
    | with_reducible apply keeps_endTimeSet
    | with_reducible apply keeps_loseRecovery
    | with_reducible apply keeps_raise
    | with_reducible apply keeps_ite
    | exact (fun _ h => h)
    | (intro _; rfl)
    | (intro _ _ _)
    | (intro _ _)
    | dsimp only

theorem keeps_stepRoot  {s : State}  (hk : Keeps s0 s) :
    Keeps s0 (stepRoot s) := by
  unfold stepRoot
  repeat' first
    | with_reducible assumption
    | with_reducible apply keeps_afterDraw
    | with_reducible apply keeps_ite
    | (refine keeps_mk ?_ rfl rfl rfl ?_ ?_ ?_ ?_ ?_ ?_ ?_ ?_ ?_ ?_ ?_ ?_ ?_ ?_ <;> first | assumption | rfl | exact id | exact assocWf_clear _ _ | exact memWf_write _ _ | exact assocWf_set _ _ | exact (fun c x hx => c x (List.mem_filter.1 hx).1) | (simp; done) | skip)

theorem keeps_stepPantry (b : BootEnv) {s : State}  (hk : Keeps s0 s) :
    Keeps s0 (stepPantry b s) := by
  unfold stepPantry
  repeat' first
    | with_reducible assumption
    | with_reducible apply keeps_retire
    | with_reducible apply keeps_modPd
    | with_reducible apply keeps_foldl
    | with_reducible apply keeps_ite
    | (intro _ _ _)

theorem keeps_testClass (b : BootEnv) (l : List Nat) {s : State} (hk : Keeps s0 s) : Keeps s0 (testClass b l s) := by
  induction l generalizing s with
  | nil => exact hk
  | cons i t ih =>
    unfold testClass
    exact keeps_ite (ih hk) (keeps_ite (ih (keeps_retire _ _ hk)) (keeps_modPd _ _ hk))

theorem keeps_stepEngines (b : BootEnv) {s : State} (hk : Keeps s0 s) : Keeps s0 (stepEngines b s) := by
  unfold stepEngines
  with_reducible exact keeps_ite hk (keeps_testClass b _ (keeps_testClass b _ (keeps_testClass b _ (keeps_testClass b _ hk))))

theorem keeps_stepDiscovery (b : BootEnv) {s : State}  (hk : Keeps s0 s) :
    Keeps s0 (stepDiscovery b s) := by
  unfold stepDiscovery
  repeat' first
    | with_reducible assumption
    | with_reducible apply keeps_modPd
    | with_reducible apply keeps_raise
    | with_reducible apply keeps_ite
    | (intro _ _ _)
    | (intro _ _)
    | (intro _; rfl)
    | split
    | dsimp only
    | (refine keeps_mk ?_ rfl rfl rfl ?_ ?_ ?_ ?_ ?_ ?_ ?_ ?_ ?_ ?_ ?_ ?_ ?_ ?_ <;> first | assumption | rfl | exact id | exact assocWf_clear _ _ | exact memWf_write _ _ | exact assocWf_set _ _ | exact (fun c x hx => c x (List.mem_filter.1 hx).1) | (simp; done) | skip)

theorem keeps_bootSteps (b : BootEnv) {s : State}  (hk : Keeps s0 s) :
    Keeps s0 (bootSteps b s) := by
  unfold bootSteps
  repeat' first
    | with_reducible assumption
    | with_reducible apply keeps_stepDiscovery
    | with_reducible apply keeps_stepEngines
    | with_reducible apply keeps_stepPantry
    | with_reducible apply keeps_stepRoot
    | with_reducible apply keeps_stepThermos
    | with_reducible apply keeps_stepEntropy
    | with_reducible apply keeps_stepRepair
    | with_reducible apply keeps_stepAon
    | with_reducible apply keeps_ite
    | dsimp only
    | (refine keeps_mk ?_ rfl rfl rfl ?_ ?_ ?_ ?_ ?_ ?_ ?_ ?_ ?_ ?_ ?_ ?_ ?_ ?_ <;> first | assumption | rfl | exact id | exact assocWf_clear _ _ | exact memWf_write _ _ | exact assocWf_set _ _ | exact (fun c x hx => c x (List.mem_filter.1 hx).1) | (simp; done) | skip)

theorem keeps_fullReset (cause : Nat) (b : BootEnv) {s : State} (hk : Keeps s0 s) :
    Keeps s0 (fullReset cause b s) := by
  unfold fullReset
  repeat' first
    | with_reducible assumption
    | with_reducible apply keeps_bootSteps
    | with_reducible apply keeps_sampleStraps
    | with_reducible apply keeps_setStraps
    | with_reducible apply keeps_clearedState
    | with_reducible apply keeps_ite
    | exact (fun _ h => h)
    | (intro _; rfl)
    | (intro _ _ _)
    | (intro _ _)
    | dsimp only

theorem keeps_deviceReset (b : BootEnv) {s : State} (hk : Keeps s0 s) :
    Keeps s0 (deviceReset b s) := by
  unfold deviceReset
  repeat' first
    | with_reducible assumption
    | with_reducible apply keeps_fullReset
    | with_reducible apply keeps_checkpoint
    | with_reducible apply keeps_ite
    | exact (fun _ h => h)
    | (intro _; rfl)
    | (intro _ _ _)
    | (intro _ _)
    | dsimp only

theorem keeps_watchdogReset (b : BootEnv) {s : State}  (hk : Keeps s0 s) :
    Keeps s0 (watchdogReset b s) := by
  unfold watchdogReset
  repeat' first
    | with_reducible assumption
    | with_reducible apply keeps_fullReset
    | with_reducible apply keeps_checkpoint
    | with_reducible apply keeps_ite

/-- The loss of the backup node keeps the forms and the parts, and nothing of the time. -/
theorem lostNode_forms {s : State} : (Canonical s → Canonical (lostNode s)) ∧ (Shape s → Shape (lostNode s)) ∧
    (lostNode s).pending = s.pending ∧ (lostNode s).board = s.board :=
  ⟨id, fun c => ⟨c.1, c.2.1, (List.length_set ..).trans c.2.2.1, c.2.2.2⟩, rfl, rfl⟩

theorem keeps_resumeIssue  {s : State}  (hk : Keeps s0 s) :
    Keeps s0 (resumeIssue s) := by
  unfold resumeIssue
  repeat' first
    | with_reducible assumption
    | with_reducible apply keeps_modDom
    | with_reducible apply keeps_raise
    | with_reducible apply keeps_foldl
    | with_reducible apply keeps_ite
    | (intro _ _ _)
    | (intro _ _)
    | (intro _; rfl)
    | dsimp only
    | (refine keeps_mk ?_ rfl rfl rfl ?_ ?_ ?_ ?_ ?_ ?_ ?_ ?_ ?_ ?_ ?_ ?_ ?_ ?_ <;> first | assumption | rfl | exact id | exact assocWf_clear _ _ | exact memWf_write _ _ | exact assocWf_set _ _ | exact (fun c x hx => c x (List.mem_filter.1 hx).1) | (simp; done) | skip)

theorem keeps_enterFlags (m : Mode) {s : State} (hk : Keeps s0 s) :
    Keeps s0 (enterFlags m s) := by
  unfold enterFlags
  repeat' first
    | with_reducible assumption
    | with_reducible apply keeps_modThermos
    | with_reducible apply keeps_ite
    | exact (fun _ h => h)
    | (intro _; rfl)
    | (intro _ _ _)
    | (intro _ _)
    | split
    | dsimp only

theorem keeps_settleClaim {s : State} (hk : Keeps s0 s) : Keeps s0 (settleClaim s) :=
  keeps_ite (keeps_writeChange _ _ _ hk) hk

theorem keeps_readLayout  {s : State}  (hk : Keeps s0 s) :
    Keeps s0 (readLayout s).2 := by
  unfold readLayout
  repeat' first
    | with_reducible assumption
    | with_reducible apply keeps_raise
    | with_reducible apply keeps_loadEvent
    | with_reducible apply keeps_ite
    | split

theorem keeps_applyLayout {s : State} (hk : Keeps s0 s) : Keeps s0 (applyLayout s) := by
  have h := keeps_readLayout hk
  refine Keeps.trans h ⟨fun c => c, fun c => ⟨c.1, c.2.1, c.2.2.1, c.2.2.2.1, ?_, c.2.2.2.2.2⟩, rfl, id, le_refl _⟩
  show (if (readLayout s).2.mp.flashOk then (List.range 8).map (snoopOf (readLayout s).1) else (readLayout s).2.snoops).length = 8
  split
  · simp
  · exact c.2.2.2.2.1

theorem keeps_readGrants  {s : State}  (hk : Keeps s0 s) :
    Keeps s0 (readGrants s).2 := by
  unfold readGrants
  repeat' first
    | with_reducible assumption
    | with_reducible apply keeps_raise
    | with_reducible apply keeps_loadEvent
    | with_reducible apply keeps_ite
    | (intro _ _ _)
    | (intro _ _)
    | (intro _; rfl)
    | split

theorem keeps_applyGrants  {s : State}  (hk : Keeps s0 s) :
    Keeps s0 (applyGrants s) := by
  unfold applyGrants
  repeat' first
    | with_reducible assumption
    | with_reducible apply keeps_readGrants
    | with_reducible apply keeps_modPort
    | with_reducible apply keeps_raise
    | with_reducible apply keeps_foldl
    | with_reducible apply keeps_ite
    | (intro _ _ _)

theorem keeps_openView (p : Nat) {s : State}  (hk : Keeps s0 s) :
    Keeps s0 (openView p s) := by
  unfold openView
  repeat' first
    | with_reducible assumption
    | with_reducible apply keeps_setRing
    | with_reducible apply keeps_modPort

theorem keeps_openViews (m : Mode) {s : State}  (hk : Keeps s0 s) :
    Keeps s0 (openViews m s) := by
  unfold openViews
  repeat' first
    | with_reducible assumption
    | with_reducible apply keeps_openView
    | with_reducible apply keeps_foldl
    | with_reducible apply keeps_ite
    | (intro _ _ _)
    | (intro _ _)
    | (intro _; rfl)
    | split

theorem keeps_wakeAllocated {s : State} (hk : Keeps s0 s) :
    Keeps s0 (wakeAllocated s) := by
  unfold wakeAllocated
  repeat' first
    | with_reducible assumption
    | with_reducible apply keeps_foldl
    | with_reducible apply keeps_requestWake
    | with_reducible apply keeps_ite
    | exact (fun _ h => h)
    | (intro _; rfl)
    | (intro _ _ _)
    | (intro _ _)
    | dsimp only

theorem keeps_releaseHost (m : Mode) (p : Nat) {s : State}  (hk : Keeps s0 s) :
    Keeps s0 (releaseHost m p s) := by
  unfold releaseHost
  repeat' first
    | with_reducible assumption
    | with_reducible apply keeps_modPort

theorem keeps_enterMode {s : State} (hk : Keeps s0 s) :
    Keeps s0 (enterMode s) := by
  unfold enterMode
  repeat' first
    | with_reducible assumption
    | with_reducible apply keeps_enterFlags
    | with_reducible apply keeps_resumeIssue
    | with_reducible apply keeps_applyGrants
    | with_reducible apply keeps_applyLayout
    | with_reducible apply keeps_settleClaim
    | with_reducible apply keeps_wakeAllocated
    | with_reducible apply keeps_openViews
    | with_reducible apply keeps_restoreMeters
    | with_reducible apply keeps_foldl
    | with_reducible apply keeps_releaseHost
    | with_reducible apply keeps_ite
    | exact (fun _ h => h)
    | (intro _; rfl)
    | (intro _ _ _)
    | (intro _ _)
    | dsimp only
    | (refine keeps_mk ?_ rfl rfl rfl ?_ ?_ ?_ ?_ ?_ ?_ ?_ ?_ ?_ ?_ ?_ ?_ ?_ ?_ <;> first | assumption | rfl | exact id | exact assocWf_clear _ _ | exact memWf_write _ _ | exact assocWf_set _ _ | exact (fun c x hx => c x (List.mem_filter.1 hx).1) | (simp; done) | skip)

end Sys2Proof.Laws
end

