-- ==== Sys2Proof/Laws/KeepsFaults.lean ====
section
/-! SUPPORT. Every operation of Machine/Faults.lean keeps what `Keeps` says. -/

namespace Sys2Proof.Laws

open Sys2Proof.Machine Sys2Proof.Safety

variable {s0 : State}

theorem keeps_restartCount (p : Nat) {s : State}  (hk : Keeps s0 s) :
    Keeps s0 (restartCount p s) := by
  unfold restartCount
  repeat' first
    | with_reducible assumption
    | with_reducible apply keeps_modPort

theorem keeps_liftHold (p : Nat) {s : State}  (hk : Keeps s0 s) :
    Keeps s0 (liftHold p s) := by
  unfold liftHold
  repeat' first
    | with_reducible assumption
    | with_reducible apply keeps_readRings
    | with_reducible apply keeps_modPort
    | with_reducible apply keeps_ite

theorem keeps_reclaimHamper (h : Nat) {s : State} (hk : Keeps s0 s) :
    Keeps s0 (reclaimHamper h s) := by
  unfold reclaimHamper
  repeat' first
    | with_reducible assumption
    | with_reducible apply keeps_modHamper
    | with_reducible apply keeps_finishEntry
    | with_reducible apply keeps_strikeHamper
    | with_reducible apply keeps_closeHamper
    | with_reducible apply keeps_ite
    | exact (fun _ h => h)
    | (intro _; rfl)
    | (intro _ _ _)
    | (intro _ _)
    | split
    | dsimp only

theorem keeps_freeParts (p : Nat) {s : State}  (hk : Keeps s0 s) :
    Keeps s0 (freeParts p s) := by
  unfold freeParts
  repeat' first
    | with_reducible assumption
    | (intro _ _ _)
    | (intro _ _)
    | (intro _; rfl)
    | dsimp only
    | (refine keeps_mk ?_ rfl rfl rfl ?_ ?_ ?_ ?_ ?_ ?_ ?_ ?_ ?_ ?_ ?_ ?_ ?_ ?_ <;> first | assumption | rfl | exact id | exact assocWf_clear _ _ | exact memWf_write _ _ | exact assocWf_set _ _ | exact (fun c x hx => c x (List.mem_filter.1 hx).1) | (simp; done) | skip)

theorem keeps_reclaim (p : Nat) {s : State}  (hk : Keeps s0 s) :
    Keeps s0 (reclaim p s) := by
  unfold reclaim
  repeat' first
    | with_reducible assumption
    | with_reducible apply keeps_modRing
    | with_reducible apply keeps_abortUnadmitted
    | with_reducible apply keeps_walkRing
    | with_reducible apply keeps_reclaimHamper
    | with_reducible apply keeps_freeParts
    | with_reducible apply keeps_foldl
    | with_reducible apply keeps_ite
    | exact (fun _ h => h)
    | (intro _ _ _)

theorem keeps_setActing (p : Nat) {s : State}  (hk : Keeps s0 s) :
    Keeps s0 (setActing p s) := by
  unfold setActing
  repeat' first
    | with_reducible assumption
    | with_reducible apply keeps_modPort

theorem keeps_wdtFail (p : Nat) (cause : Nat) {s : State}  (hk : Keeps s0 s) :
    Keeps s0 (wdtFail p cause s) := by
  unfold wdtFail
  repeat' first
    | with_reducible assumption
    | with_reducible apply keeps_modPort
    | with_reducible apply keeps_raise
    | with_reducible apply keeps_setActing
    | with_reducible apply keeps_reclaim
    | with_reducible apply keeps_checkpoint
    | (intro _ _ _)
    | (intro _ _)
    | (intro _; rfl)
    | split
    | dsimp only
    | (refine keeps_mk ?_ rfl rfl rfl ?_ ?_ ?_ ?_ ?_ ?_ ?_ ?_ ?_ ?_ ?_ ?_ ?_ ?_ <;> first | assumption | rfl | exact id | exact assocWf_clear _ _ | exact memWf_write _ _ | exact assocWf_set _ _ | exact (fun c x hx => c x (List.mem_filter.1 hx).1) | (simp; done) | skip)

theorem keeps_wdtServed (p : Nat) {s : State}  (hk : Keeps s0 s) :
    Keeps s0 (wdtServed p s) := by
  unfold wdtServed
  repeat' first
    | with_reducible assumption
    | with_reducible apply keeps_liftHold
    | with_reducible apply keeps_modPort

theorem keeps_wdtKey (p : Nat) (key : Nat) {s : State}  (hk : Keeps s0 s) :
    Keeps s0 (wdtKey p key s) := by
  unfold wdtKey
  repeat' first
    | with_reducible assumption
    | with_reducible apply keeps_wdtFail
    | with_reducible apply keeps_modPort
    | with_reducible apply keeps_wdtServed
    | with_reducible apply keeps_ite

theorem keeps_wdtControl (p : Nat) (en : Bool) (action : Nat) {s : State}  (hk : Keeps s0 s) :
    Keeps s0 (wdtControl p en action s) := by
  unfold wdtControl
  repeat' first
    | with_reducible assumption
    | with_reducible apply keeps_modPort
    | with_reducible apply keeps_restartCount
    | with_reducible apply keeps_liftHold
    | with_reducible apply keeps_ite

theorem keeps_fatalReset (b : BootEnv) {s : State}  (hk : Keeps s0 s) :
    Keeps s0 (fatalReset b s) := by
  unfold fatalReset
  repeat' first
    | with_reducible assumption
    | with_reducible apply keeps_fullReset
    | with_reducible apply keeps_ite

theorem keeps_wdtTimeout (p : Nat) (b : BootEnv) {s : State}  (hk : Keeps s0 s) :
    Keeps s0 (wdtTimeout p b s) := by
  unfold wdtTimeout
  repeat' first
    | with_reducible assumption
    | with_reducible apply keeps_fatalReset
    | with_reducible apply keeps_wdtFail
    | with_reducible apply keeps_elapseTo
    | with_reducible apply keeps_ite

theorem keeps_lockTimer (q : Nat) (action : Nat) {s : State}  (hk : Keeps s0 s) :
    Keeps s0 (lockTimer q action s) := by
  unfold lockTimer
  repeat' first
    | with_reducible assumption
    | with_reducible apply keeps_modPort

theorem keeps_noteGlitch  {s : State}  (hk : Keeps s0 s) :
    Keeps s0 (noteGlitch s) := by
  unfold noteGlitch
  repeat' first
    | with_reducible assumption
    | (refine keeps_mk ?_ rfl rfl rfl ?_ ?_ ?_ ?_ ?_ ?_ ?_ ?_ ?_ ?_ ?_ ?_ ?_ ?_ <;> first | assumption | rfl | exact id | exact assocWf_clear _ _ | exact memWf_write _ _ | exact assocWf_set _ _ | exact (fun c x hx => c x (List.mem_filter.1 hx).1) | (simp; done) | skip)

theorem keeps_glitchAlarm (src : Nat) (detail : Nat) {s : State}  (hk : Keeps s0 s) :
    Keeps s0 (glitchAlarm src detail s) := by
  unfold glitchAlarm
  repeat' first
    | with_reducible assumption
    | with_reducible apply keeps_raise
    | with_reducible apply keeps_alarmAll
    | with_reducible apply keeps_noteGlitch

theorem keeps_parityFault (i : Nat) {s : State}  (hk : Keeps s0 s) :
    Keeps s0 (parityFault i s) := by
  unfold parityFault
  repeat' first
    | with_reducible assumption
    | with_reducible apply keeps_alarmEngine
    | with_reducible apply keeps_raise
    | with_reducible apply keeps_ite

theorem keeps_rtcStop  {s : State}  (hk : Keeps s0 s) :
    Keeps s0 (rtcStop s) := by
  unfold rtcStop
  repeat' first
    | with_reducible assumption
    | with_reducible apply keeps_raise
    | with_reducible apply keeps_modDom
    | with_reducible apply keeps_foldl
    | with_reducible apply keeps_ite
    | (intro _ _ _)
    | (intro _ _)
    | (intro _; rfl)
    | dsimp only
    | (refine keeps_mk ?_ rfl rfl rfl ?_ ?_ ?_ ?_ ?_ ?_ ?_ ?_ ?_ ?_ ?_ ?_ ?_ ?_ <;> first | assumption | rfl | exact id | exact assocWf_clear _ _ | exact memWf_write _ _ | exact assocWf_set _ _ | exact (fun c x hx => c x (List.mem_filter.1 hx).1) | (simp; done) | skip)

theorem keeps_settleJournal {s : State} (hk : Keeps s0 s) :
    Keeps s0 (settleJournal s) := by
  unfold settleJournal
  repeat' first
    | with_reducible assumption
    | with_reducible apply keeps_ite
    | exact (fun _ h => h)
    | (intro _; rfl)
    | (intro _ _ _)
    | (intro _ _)
    | split
    | dsimp only
    | (refine keeps_mk ?_ rfl rfl rfl ?_ ?_ ?_ ?_ ?_ ?_ ?_ ?_ ?_ ?_ ?_ ?_ ?_ ?_ <;> first | assumption | rfl | exact id | exact assocWf_clear _ _ | exact memWf_write _ _ | exact assocWf_set _ _ | exact (fun c x hx => c x (List.mem_filter.1 hx).1) | (simp; done) | skip)

theorem keeps_tamperZero (src : Nat) {s : State} (hk : Keeps s0 s) :
    Keeps s0 (tamperZero src s) := by
  unfold tamperZero
  repeat' first
    | with_reducible assumption
    | with_reducible apply keeps_modThermos
    | with_reducible apply keeps_settleJournal
    | with_reducible apply keeps_ite
    | exact (fun _ h => h)
    | (intro _; rfl)
    | (intro _ _ _)
    | (intro _ _)
    | dsimp only

theorem keeps_eraseKeys {s : State} (hk : Keeps s0 s) :
    Keeps s0 (eraseKeys s) := by
  unfold eraseKeys
  repeat' first
    | with_reducible assumption
    | with_reducible apply keeps_emptyStore
    | with_reducible apply keeps_ite
    | exact (fun _ h => h)
    | (intro _; rfl)
    | (intro _ _ _)
    | (intro _ _)
    | dsimp only
    | (refine keeps_mk ?_ rfl rfl rfl ?_ ?_ ?_ ?_ ?_ ?_ ?_ ?_ ?_ ?_ ?_ ?_ ?_ ?_ <;> first | assumption | rfl | exact id | exact assocWf_clear _ _ | exact memWf_write _ _ | exact assocWf_set _ _ | exact (fun c x hx => c x (List.mem_filter.1 hx).1) | (simp; done) | skip)

theorem keeps_abandonWakes {s : State} (hk : Keeps s0 s) :
    Keeps s0 (abandonWakes s) := by
  unfold abandonWakes
  repeat' first
    | with_reducible assumption
    | with_reducible apply keeps_foldl
    | with_reducible apply keeps_modPd
    | with_reducible apply keeps_ite
    | exact (fun _ h => h)
    | (intro _; rfl)
    | (intro _ _ _)
    | (intro _ _)
    | dsimp only

theorem keeps_tamper (src detail : Nat) {s : State} (hk : Keeps s0 s) :
    Keeps s0 (tamper src detail s) := by
  unfold tamper
  repeat' first
    | with_reducible assumption
    | with_reducible apply keeps_eraseKeys
    | with_reducible apply keeps_abandonWakes
    | with_reducible apply keeps_alarmAll
    | with_reducible apply keeps_tamperZero
    | with_reducible apply keeps_raise
    | with_reducible apply keeps_enterQuarantine
    | with_reducible apply keeps_ite
    | exact (fun _ h => h)
    | (intro _; rfl)
    | (intro _ _ _)
    | (intro _ _)
    | dsimp only

theorem keeps_meshTrip (pin : Nat) {s : State}  (hk : Keeps s0 s) :
    Keeps s0 (meshTrip pin s) := by
  unfold meshTrip
  repeat' first
    | with_reducible assumption
    | with_reducible apply keeps_tamper
    | with_reducible apply keeps_ite
    | dsimp only
    | (refine keeps_mk ?_ rfl rfl rfl ?_ ?_ ?_ ?_ ?_ ?_ ?_ ?_ ?_ ?_ ?_ ?_ ?_ ?_ <;> first | assumption | rfl | exact id | exact assocWf_clear _ _ | exact memWf_write _ _ | exact assocWf_set _ _ | exact (fun c x hx => c x (List.mem_filter.1 hx).1) | (simp; done) | skip)

theorem keeps_lidTrip (k : Nat) {s : State}  (hk : Keeps s0 s) :
    Keeps s0 (lidTrip k s) := by
  unfold lidTrip
  repeat' first
    | with_reducible assumption
    | with_reducible apply keeps_tamper
    | with_reducible apply keeps_ite
    | dsimp only
    | (refine keeps_mk ?_ rfl rfl rfl ?_ ?_ ?_ ?_ ?_ ?_ ?_ ?_ ?_ ?_ ?_ ?_ ?_ ?_ <;> first | assumption | rfl | exact id | exact assocWf_clear _ _ | exact memWf_write _ _ | exact assocWf_set _ _ | exact (fun c x hx => c x (List.mem_filter.1 hx).1) | (simp; done) | skip)

theorem keeps_pfailAssert  {s : State}  (hk : Keeps s0 s) :
    Keeps s0 (pfailAssert s) := by
  unfold pfailAssert
  repeat' first
    | with_reducible assumption
    | with_reducible apply keeps_checkpoint
    | with_reducible apply keeps_ite
    | dsimp only
    | (refine keeps_mk ?_ rfl rfl rfl ?_ ?_ ?_ ?_ ?_ ?_ ?_ ?_ ?_ ?_ ?_ ?_ ?_ ?_ <;> first | assumption | rfl | exact id | exact assocWf_clear _ _ | exact memWf_write _ _ | exact assocWf_set _ _ | exact (fun c x hx => c x (List.mem_filter.1 hx).1) | (simp; done) | skip)

theorem keeps_pfailRelease  {s : State}  (hk : Keeps s0 s) :
    Keeps s0 (pfailRelease s) := by
  unfold pfailRelease
  repeat' first
    | with_reducible assumption
    | with_reducible apply keeps_modThermos
    | with_reducible apply keeps_ite
    | (intro _ _ _)
    | (intro _ _)
    | (intro _; rfl)
    | dsimp only
    | (refine keeps_mk ?_ rfl rfl rfl ?_ ?_ ?_ ?_ ?_ ?_ ?_ ?_ ?_ ?_ ?_ ?_ ?_ ?_ <;> first | assumption | rfl | exact id | exact assocWf_clear _ _ | exact memWf_write _ _ | exact assocWf_set _ _ | exact (fun c x hx => c x (List.mem_filter.1 hx).1) | (simp; done) | skip)

theorem keeps_warmReset (p : Nat) (cause : Nat) {s : State}  (hk : Keeps s0 s) :
    Keeps s0 (warmReset p cause s) := by
  unfold warmReset
  repeat' first
    | with_reducible assumption
    | with_reducible apply keeps_modPort

theorem keeps_hpLoss {s : State} (hk : Keeps s0 s) :
    Keeps s0 (hpLoss s) := by
  unfold hpLoss
  repeat' first
    | with_reducible assumption
    | with_reducible apply keeps_foldl
    | with_reducible apply keeps_raise
    | with_reducible apply keeps_modPort
    | with_reducible apply keeps_ite
    | exact (fun _ h => h)
    | (intro _; rfl)
    | (intro _ _ _)
    | (intro _ _)
    | dsimp only
    | (refine keeps_mk ?_ rfl rfl rfl ?_ ?_ ?_ ?_ ?_ ?_ ?_ ?_ ?_ ?_ ?_ ?_ ?_ ?_ <;> first | assumption | rfl | exact id | exact assocWf_clear _ _ | exact memWf_write _ _ | exact assocWf_set _ _ | exact (fun c x hx => c x (List.mem_filter.1 hx).1) | (simp; done) | skip)

theorem keeps_injectReact (b src detail : Nat) {s : State} (hk : Keeps s0 s) :
    Keeps s0 (injectReact b src detail s) := by
  unfold injectReact
  repeat' first
    | with_reducible assumption
    | with_reducible apply keeps_tamper
    | with_reducible apply keeps_glitchAlarm
    | with_reducible apply keeps_raise
    | with_reducible apply keeps_alarmAll
    | with_reducible apply keeps_parityFault
    | with_reducible apply keeps_rngFail
    | with_reducible apply keeps_drsFault
    | with_reducible apply keeps_modDom
    | with_reducible apply keeps_ite
    | exact (fun _ h => h)
    | (intro _; rfl)
    | (intro _ _ _)
    | (intro _ _)
    | split
    | dsimp only

theorem keeps_inject  {s : State}  (hk : Keeps s0 s) :
    Keeps s0 (inject s) := by
  unfold inject
  repeat' first
    | with_reducible assumption
    | with_reducible apply keeps_injectReact
    | with_reducible apply keeps_recordOnly
    | with_reducible apply keeps_ite

theorem keeps_injectEcc (n : Nat) {s : State}  (hk : Keeps s0 s) :
    Keeps s0 (injectEcc n s) := by
  unfold injectEcc
  repeat' first
    | with_reducible assumption
    | dsimp only
    | (refine keeps_mk ?_ rfl rfl rfl ?_ ?_ ?_ ?_ ?_ ?_ ?_ ?_ ?_ ?_ ?_ ?_ ?_ ?_ <;> first | assumption | rfl | exact id | exact assocWf_clear _ _ | exact memWf_write _ _ | exact assocWf_set _ _ | exact (fun c x hx => c x (List.mem_filter.1 hx).1) | (simp; done) | skip)

/-- The test access port blows no fuse. -/
theorem tapClock_scrapFuse (n : Nat) (tms tdi : Bool) (b : Board) : (tapClock n tms tdi b).scrapFuse = b.scrapFuse := by
  have ha : (tapAct n tdi b).scrapFuse = b.scrapFuse := by
    unfold tapAct
    split <;> rfl
  have he : ∀ st (c : Board), (tapEnter st c).scrapFuse = c.scrapFuse := by
    intro st c
    unfold tapEnter
    dsimp only
    split <;> first | rfl | (split <;> rfl)
  exact (he _ _).trans ha

theorem keeps_tapStep (op : TapOp) {s : State} (hk : Keeps s0 s) : Keeps s0 (tapStep op s) := by
  refine Keeps.trans hk ⟨id, id, rfl, fun h => ?_, le_refl _⟩
  refine Eq.trans ?_ h
  unfold tapStep
  split
  · rfl
  · cases op
    · exact tapClock_scrapFuse _ _ _ _
    · rfl

end Sys2Proof.Laws
end

