-- ==== Sys2Proof/Laws/KeepsRegWrite.lean ====
section
/-! SUPPORT. Every operation of Machine/RegWrite.lean keeps what `Keeps` says. -/

namespace Sys2Proof.Laws

open Sys2Proof.Machine Sys2Proof.Safety

variable {s0 : State}

/-- The state a register write leaves keeps, accepted or refused. -/
def OutKeeps (s0 : State) (r : RegOut) : Prop := Keeps s0 r.state

theorem outKeeps_ite {c : Prop} [Decidable c] {x y : RegOut} (hx : OutKeeps s0 x) (hy : OutKeeps s0 y) :
    OutKeeps s0 (if c then x else y) := by
  split <;> assumption

theorem outKeeps_accept {s : State} (h : Keeps s0 s) : OutKeeps s0 (accept s) := h

theorem outKeeps_refuse {s : State} (h : Keeps s0 s) : OutKeeps s0 (refuse s) := h

theorem outKeeps_refuseBy {b : Nat} {s : State} (h : Keeps s0 s) : OutKeeps s0 (refuseBy b s) := h

theorem outKeeps_acceptIf {c : Bool} {s t : State} (hs : Keeps s0 s) (ht : Keeps s0 t) : OutKeeps s0 (acceptIf c s t) :=
  outKeeps_ite ht hs

theorem keeps_writeLanes (p : Nat) (v : Nat) {s : State}  (hk : Keeps s0 s) :
    OutKeeps s0 (writeLanes p v s) := by
  unfold writeLanes
  repeat' first
    | with_reducible assumption
    | with_reducible apply keeps_modPort
    | with_reducible apply outKeeps_acceptIf

theorem keeps_writeTiming (p : Nat) (v : Nat) {s : State}  (hk : Keeps s0 s) :
    OutKeeps s0 (writeTiming p v s) := by
  unfold writeTiming
  repeat' first
    | with_reducible assumption
    | with_reducible apply keeps_modPort
    | with_reducible apply outKeeps_acceptIf

theorem keeps_writePortCtrl (p : Nat) (v : Nat) {s : State}  (hk : Keeps s0 s) :
    OutKeeps s0 (writePortCtrl p v s) := by
  unfold writePortCtrl
  repeat' first
    | with_reducible assumption
    | with_reducible apply keeps_modPort
    | with_reducible apply keeps_abortFetch
    | with_reducible apply keeps_ite
    | with_reducible apply outKeeps_ite
    | with_reducible apply outKeeps_accept

theorem keeps_writeWdtCfg (p v : Nat) {s : State} (hk : Keeps s0 s) :
    OutKeeps s0 (writeWdtCfg p v s) := by
  unfold writeWdtCfg
  repeat' first
    | with_reducible assumption
    | with_reducible apply keeps_modPort
    | with_reducible apply outKeeps_ite
    | with_reducible apply outKeeps_acceptIf
    | with_reducible apply outKeeps_refuse
    | with_reducible apply outKeeps_refuseBy
    | with_reducible apply outKeeps_accept
    | with_reducible apply keeps_ite
    | exact (fun _ h => h)
    | (intro _; rfl)
    | (intro _ _ _)
    | (intro _ _)
    | dsimp only
    | (refine keeps_mk ?_ rfl rfl rfl ?_ ?_ ?_ ?_ ?_ ?_ ?_ ?_ ?_ ?_ ?_ ?_ ?_ ?_ <;> first | assumption | rfl | exact id | exact assocWf_clear _ _ | exact memWf_write _ _ | exact assocWf_set _ _ | exact (fun c x hx => c x (List.mem_filter.1 hx).1) | (simp; done) | skip)

theorem keeps_writeWdtStatus (p : Nat) (v : Nat) {s : State}  (hk : Keeps s0 s) :
    OutKeeps s0 (writeWdtStatus p v s) := by
  unfold writeWdtStatus
  repeat' first
    | with_reducible assumption
    | with_reducible apply keeps_wdtControl
    | with_reducible apply keeps_ite
    | with_reducible apply outKeeps_ite
    | with_reducible apply outKeeps_accept
    | with_reducible apply outKeeps_refuse

theorem keeps_writeRollAck (p : Nat) (v : Nat) {s : State}  (hk : Keeps s0 s) :
    OutKeeps s0 (writeRollAck p v s) := by
  unfold writeRollAck
  repeat' first
    | with_reducible assumption
    | with_reducible apply keeps_ackWord
    | with_reducible apply keeps_clearLeaf
    | with_reducible apply keeps_ite
    | with_reducible apply outKeeps_ite
    | with_reducible apply outKeeps_acceptIf

theorem keeps_writeRingCmd (p : Nat) (v : Nat) {s : State}  (hk : Keeps s0 s) :
    OutKeeps s0 (writeRingCmd p v s) := by
  unfold writeRingCmd
  repeat' first
    | with_reducible assumption
    | with_reducible apply keeps_ringCommand
    | with_reducible apply outKeeps_acceptIf

theorem keeps_writeKick (p : Nat) (v : Nat) {s : State}  (hk : Keeps s0 s) :
    OutKeeps s0 (writeKick p v s) := by
  unfold writeKick
  repeat' first
    | with_reducible assumption
    | with_reducible apply keeps_touchPantry
    | with_reducible apply keeps_readRing
    | with_reducible apply keeps_ite
    | with_reducible apply outKeeps_ite
    | with_reducible apply outKeeps_accept
    | with_reducible apply outKeeps_refuse
    | with_reducible apply outKeeps_refuseBy

theorem keeps_writePort (p : Nat) (a : Nat) (v : Nat) {s : State}  (hk : Keeps s0 s) :
    OutKeeps s0 (writePort p a v s) := by
  unfold writePort
  repeat' first
    | with_reducible assumption
    | with_reducible apply keeps_writePortCtrl
    | with_reducible apply keeps_writeLanes
    | with_reducible apply keeps_writeTiming
    | with_reducible apply keeps_modPort
    | with_reducible apply keeps_writeWdtCfg
    | with_reducible apply keeps_wdtKey
    | with_reducible apply keeps_writeWdtStatus
    | with_reducible apply keeps_writeRollAck
    | with_reducible apply keeps_writeRingCmd
    | with_reducible apply keeps_writeKick
    | with_reducible apply outKeeps_acceptIf
    | with_reducible apply outKeeps_accept
    | with_reducible apply outKeeps_refuse
    | (intro _ _ _)
    | (intro _ _)
    | (intro _; rfl)
    | split

theorem keeps_refuseTrim (p : Nat) {s : State}  (hk : Keeps s0 s) :
    OutKeeps s0 (refuseTrim p s) := by
  unfold refuseTrim
  repeat' first
    | with_reducible assumption
    | with_reducible apply keeps_raise
    | with_reducible apply outKeeps_refuseBy
    | (refine keeps_mk ?_ rfl rfl rfl ?_ ?_ ?_ ?_ ?_ ?_ ?_ ?_ ?_ ?_ ?_ ?_ ?_ ?_ <;> first | assumption | rfl | exact id | exact assocWf_clear _ _ | exact memWf_write _ _ | exact assocWf_set _ _ | exact (fun c x hx => c x (List.mem_filter.1 hx).1) | (simp; done) | skip)

theorem keeps_applyTrim (d : Int) {s : State}  (hk : Keeps s0 s) :
    Keeps s0 (applyTrim d s) := by
  unfold applyTrim
  repeat' first
    | with_reducible assumption
    | with_reducible apply keeps_modThermos

theorem keeps_writeTrim (p : Nat) (v : Nat) {s : State}  (hk : Keeps s0 s) :
    OutKeeps s0 (writeTrim p v s) := by
  unfold writeTrim
  repeat' first
    | with_reducible assumption
    | with_reducible apply keeps_refuseTrim
    | with_reducible apply keeps_applyTrim
    | with_reducible apply keeps_ite
    | with_reducible apply outKeeps_ite
    | with_reducible apply outKeeps_accept

theorem keeps_writeTime (p : Nat) (a : Nat) (v : Nat) {s : State}  (hk : Keeps s0 s) :
    OutKeeps s0 (writeTime p a v s) := by
  unfold writeTime
  repeat' first
    | with_reducible assumption
    | with_reducible apply keeps_writeTrim
    | with_reducible apply keeps_ite
    | with_reducible apply outKeeps_ite
    | with_reducible apply outKeeps_accept
    | with_reducible apply outKeeps_refuse
    | with_reducible apply outKeeps_refuseBy
    | split
    | (refine keeps_mk ?_ rfl rfl rfl ?_ ?_ ?_ ?_ ?_ ?_ ?_ ?_ ?_ ?_ ?_ ?_ ?_ ?_ <;> first | assumption | rfl | exact id | exact assocWf_clear _ _ | exact memWf_write _ _ | exact assocWf_set _ _ | exact (fun c x hx => c x (List.mem_filter.1 hx).1) | (simp; done) | skip)

theorem keeps_writeSev (p : Nat) (b : Nat) (v : Nat) {s : State}  (hk : Keeps s0 s) :
    OutKeeps s0 (writeSev p b v s) := by
  unfold writeSev
  repeat' first
    | with_reducible assumption
    | with_reducible apply keeps_modBlock
    | with_reducible apply keeps_modPort
    | with_reducible apply keeps_ite
    | with_reducible apply outKeeps_ite
    | with_reducible apply outKeeps_acceptIf

theorem keeps_endCause (d k : Nat) {s : State} (hk : Keeps s0 s) :
    Keeps s0 (endCause d k s) := by
  unfold endCause
  repeat' first
    | with_reducible assumption
    | with_reducible apply keeps_modDom
    | with_reducible apply keeps_readRings
    | with_reducible apply keeps_ite
    | exact (fun _ h => h)
    | (intro _; rfl)
    | (intro _ _ _)
    | (intro _ _)
    | dsimp only

theorem keeps_clearEvents (b : Nat) (mask : Nat) {s : State}  (hk : Keeps s0 s) :
    Keeps s0 (clearEvents b mask s) := by
  unfold clearEvents
  repeat' first
    | with_reducible assumption
    | with_reducible apply keeps_modBlock
    | with_reducible apply keeps_endCause
    | with_reducible apply keeps_foldl
    | with_reducible apply keeps_ite
    | (intro _ _ _)

theorem keeps_writeHealth (p : Nat) (a : Nat) (v : Nat) {s : State}  (hk : Keeps s0 s) :
    OutKeeps s0 (writeHealth p a v s) := by
  unfold writeHealth
  repeat' first
    | with_reducible assumption
    | with_reducible apply keeps_clearEvents
    | with_reducible apply keeps_writeSev
    | with_reducible apply keeps_ite
    | with_reducible apply outKeeps_ite
    | with_reducible apply outKeeps_accept
    | with_reducible apply outKeeps_refuse
    | with_reducible apply outKeeps_refuseBy
    | split

theorem keeps_setPolicy (i : Nat) (pol : Nat) (bist : Bool) {s : State}  (hk : Keeps s0 s) :
    Keeps s0 (setPolicy i pol bist s) := by
  unfold setPolicy
  repeat' first
    | with_reducible assumption
    | with_reducible apply keeps_modPd
    | with_reducible apply keeps_requestWake
    | with_reducible apply keeps_ite
    | (intro _ _ _)
    | (intro _ _)
    | (intro _; rfl)
    | split

theorem keeps_writePolicy (w : Nat) (v : Nat) {s : State}  (hk : Keeps s0 s) :
    OutKeeps s0 (writePolicy w v s) := by
  unfold writePolicy
  repeat' first
    | with_reducible assumption
    | with_reducible apply keeps_setPolicy
    | with_reducible apply keeps_foldl
    | with_reducible apply keeps_ite
    | with_reducible apply outKeeps_ite
    | with_reducible apply outKeeps_accept
    | with_reducible apply outKeeps_refuse
    | with_reducible apply outKeeps_refuseBy
    | (intro _ _ _)

theorem keeps_writePower (a : Nat) (v : Nat) {s : State}  (hk : Keeps s0 s) :
    OutKeeps s0 (writePower a v s) := by
  unfold writePower
  repeat' first
    | with_reducible assumption
    | with_reducible apply keeps_writePolicy
    | with_reducible apply keeps_ite
    | with_reducible apply outKeeps_ite
    | with_reducible apply outKeeps_acceptIf
    | with_reducible apply outKeeps_accept
    | with_reducible apply outKeeps_refuse
    | split
    | dsimp only
    | (refine keeps_mk ?_ rfl rfl rfl ?_ ?_ ?_ ?_ ?_ ?_ ?_ ?_ ?_ ?_ ?_ ?_ ?_ ?_ <;> first | assumption | rfl | exact id | exact assocWf_clear _ _ | exact memWf_write _ _ | exact assocWf_set _ _ | exact (fun c x hx => c x (List.mem_filter.1 hx).1) | (simp; done) | skip)

theorem keeps_writeTamperArm (v : Nat) {s : State}  (hk : Keeps s0 s) :
    OutKeeps s0 (writeTamperArm v s) := by
  unfold writeTamperArm
  repeat' first
    | with_reducible assumption
    | with_reducible apply keeps_modThermos
    | with_reducible apply keeps_ite
    | with_reducible apply outKeeps_ite
    | with_reducible apply outKeeps_accept
    | with_reducible apply outKeeps_refuseBy

theorem keeps_writeLockCfg (q v : Nat) {s : State} (hk : Keeps s0 s) :
    OutKeeps s0 (writeLockCfg q v s) := by
  unfold writeLockCfg
  repeat' first
    | with_reducible assumption
    | with_reducible apply keeps_modPort
    | with_reducible apply outKeeps_ite
    | with_reducible apply outKeeps_acceptIf
    | with_reducible apply outKeeps_refuse
    | with_reducible apply outKeeps_refuseBy
    | with_reducible apply outKeeps_accept
    | with_reducible apply keeps_ite
    | exact (fun _ h => h)
    | (intro _; rfl)
    | (intro _ _ _)
    | (intro _ _)
    | dsimp only
    | (refine keeps_mk ?_ rfl rfl rfl ?_ ?_ ?_ ?_ ?_ ?_ ?_ ?_ ?_ ?_ ?_ ?_ ?_ ?_ <;> first | assumption | rfl | exact id | exact assocWf_clear _ _ | exact memWf_write _ _ | exact assocWf_set _ _ | exact (fun c x hx => c x (List.mem_filter.1 hx).1) | (simp; done) | skip)

theorem keeps_writeLock (q v : Nat) {s : State} (hk : Keeps s0 s) :
    OutKeeps s0 (writeLock q v s) := by
  unfold writeLock
  repeat' first
    | with_reducible assumption
    | with_reducible apply keeps_modPort
    | with_reducible apply keeps_lockTimer
    | with_reducible apply outKeeps_ite
    | with_reducible apply outKeeps_acceptIf
    | with_reducible apply outKeeps_refuse
    | with_reducible apply outKeeps_refuseBy
    | with_reducible apply outKeeps_accept
    | with_reducible apply keeps_ite
    | exact (fun _ h => h)
    | (intro _; rfl)
    | (intro _ _ _)
    | (intro _ _)
    | dsimp only
    | (refine keeps_mk ?_ rfl rfl rfl ?_ ?_ ?_ ?_ ?_ ?_ ?_ ?_ ?_ ?_ ?_ ?_ ?_ ?_ <;> first | assumption | rfl | exact id | exact assocWf_clear _ _ | exact memWf_write _ _ | exact assocWf_set _ _ | exact (fun c x hx => c x (List.mem_filter.1 hx).1) | (simp; done) | skip)

theorem keeps_writePins (a v : Nat) {s : State} (hk : Keeps s0 s) :
    OutKeeps s0 (writePins a v s) := by
  unfold writePins
  repeat' first
    | with_reducible assumption
    | with_reducible apply keeps_markAlive
    | with_reducible apply keeps_writeTamperArm
    | with_reducible apply keeps_writeLockCfg
    | with_reducible apply keeps_writeLock
    | with_reducible apply outKeeps_ite
    | with_reducible apply outKeeps_acceptIf
    | with_reducible apply outKeeps_refuse
    | with_reducible apply outKeeps_refuseBy
    | with_reducible apply outKeeps_accept
    | with_reducible apply keeps_ite
    | exact (fun _ h => h)
    | (intro _; rfl)
    | (intro _ _ _)
    | (intro _ _)
    | split
    | dsimp only
    | (refine keeps_mk ?_ rfl rfl rfl ?_ ?_ ?_ ?_ ?_ ?_ ?_ ?_ ?_ ?_ ?_ ?_ ?_ ?_ <;> first | assumption | rfl | exact id | exact assocWf_clear _ _ | exact memWf_write _ _ | exact assocWf_set _ _ | exact (fun c x hx => c x (List.mem_filter.1 hx).1) | (simp; done) | skip)

theorem keeps_writeSlew (v : Nat) {s : State} (hk : Keeps s0 s) :
    OutKeeps s0 (writeSlew v s) := by
  unfold writeSlew
  repeat' first
    | with_reducible assumption
    | with_reducible apply outKeeps_ite
    | with_reducible apply outKeeps_acceptIf
    | with_reducible apply outKeeps_refuse
    | with_reducible apply outKeeps_refuseBy
    | with_reducible apply outKeeps_accept
    | with_reducible apply keeps_ite
    | exact (fun _ h => h)
    | (intro _; rfl)
    | (intro _ _ _)
    | (intro _ _)
    | dsimp only
    | (refine keeps_mk ?_ rfl rfl rfl ?_ ?_ ?_ ?_ ?_ ?_ ?_ ?_ ?_ ?_ ?_ ?_ ?_ ?_ <;> first | assumption | rfl | exact id | exact assocWf_clear _ _ | exact memWf_write _ _ | exact assocWf_set _ _ | exact (fun c x hx => c x (List.mem_filter.1 hx).1) | (simp; done) | skip)

theorem keeps_writeMem (a : Nat) (v : Nat) {s : State}  (hk : Keeps s0 s) :
    OutKeeps s0 (writeMem a v s) := by
  unfold writeMem
  repeat' first
    | with_reducible assumption
    | with_reducible apply outKeeps_acceptIf
    | with_reducible apply outKeeps_accept
    | with_reducible apply outKeeps_refuse
    | split
    | (refine keeps_mk ?_ rfl rfl rfl ?_ ?_ ?_ ?_ ?_ ?_ ?_ ?_ ?_ ?_ ?_ ?_ ?_ ?_ <;> first | assumption | rfl | exact id | exact assocWf_clear _ _ | exact memWf_write _ _ | exact assocWf_set _ _ | exact (fun c x hx => c x (List.mem_filter.1 hx).1) | (simp; done) | skip)

theorem keeps_writeMp (a : Nat) (v : Nat) {s : State}  (hk : Keeps s0 s) :
    OutKeeps s0 (writeMp a v s) := by
  unfold writeMp
  repeat' first
    | with_reducible assumption
    | with_reducible apply keeps_emptyCache
    | with_reducible apply keeps_ite
    | with_reducible apply outKeeps_ite
    | with_reducible apply outKeeps_acceptIf
    | with_reducible apply outKeeps_refuse
    | split
    | dsimp only
    | (refine keeps_mk ?_ rfl rfl rfl ?_ ?_ ?_ ?_ ?_ ?_ ?_ ?_ ?_ ?_ ?_ ?_ ?_ ?_ <;> first | assumption | rfl | exact id | exact assocWf_clear _ _ | exact memWf_write _ _ | exact assocWf_set _ _ | exact (fun c x hx => c x (List.mem_filter.1 hx).1) | (simp; done) | skip)

theorem keeps_writeOperator (a : Nat) (v : Nat) {s : State}  (hk : Keeps s0 s) :
    OutKeeps s0 (writeOperator a v s) := by
  unfold writeOperator
  repeat' first
    | with_reducible assumption
    | with_reducible apply keeps_writePower
    | with_reducible apply keeps_writePins
    | with_reducible apply keeps_writeSlew
    | with_reducible apply keeps_writeMem
    | with_reducible apply keeps_writeMp
    | with_reducible apply keeps_checkpoint
    | with_reducible apply keeps_ite
    | with_reducible apply outKeeps_ite
    | with_reducible apply outKeeps_acceptIf
    | with_reducible apply outKeeps_accept
    | with_reducible apply outKeeps_refuse
    | (refine keeps_mk ?_ rfl rfl rfl ?_ ?_ ?_ ?_ ?_ ?_ ?_ ?_ ?_ ?_ ?_ ?_ ?_ ?_ <;> first | assumption | rfl | exact id | exact assocWf_clear _ _ | exact memWf_write _ _ | exact assocWf_set _ _ | exact (fun c x hx => c x (List.mem_filter.1 hx).1) | (simp; done) | skip)

theorem keeps_writeFactory (a : Nat) (v : Nat) {s : State}  (hk : Keeps s0 s) :
    OutKeeps s0 (writeFactory a v s) := by
  unfold writeFactory
  repeat' first
    | with_reducible assumption
    | with_reducible apply keeps_inject
    | with_reducible apply keeps_injectEcc
    | with_reducible apply keeps_ite
    | with_reducible apply outKeeps_ite
    | with_reducible apply outKeeps_acceptIf
    | with_reducible apply outKeeps_accept
    | with_reducible apply outKeeps_refuse
    | split
    | dsimp only
    | (refine keeps_mk ?_ rfl rfl rfl ?_ ?_ ?_ ?_ ?_ ?_ ?_ ?_ ?_ ?_ ?_ ?_ ?_ ?_ <;> first | assumption | rfl | exact id | exact assocWf_clear _ _ | exact memWf_write _ _ | exact assocWf_set _ _ | exact (fun c x hx => c x (List.mem_filter.1 hx).1) | (simp; done) | skip)

theorem keeps_writeReg (p a v : Nat) {s : State} (hk : Keeps s0 s) :
    OutKeeps s0 (writeReg p a v s) := by
  unfold writeReg
  repeat' first
    | with_reducible assumption
    | with_reducible apply keeps_refuseTrim
    | with_reducible apply keeps_writePort
    | with_reducible apply keeps_writeTime
    | with_reducible apply keeps_modPort
    | with_reducible apply keeps_writeHealth
    | with_reducible apply keeps_writeOperator
    | with_reducible apply keeps_writeFactory
    | with_reducible apply outKeeps_ite
    | with_reducible apply outKeeps_acceptIf
    | with_reducible apply outKeeps_refuse
    | with_reducible apply outKeeps_refuseBy
    | with_reducible apply outKeeps_accept
    | with_reducible apply keeps_ite
    | exact (fun _ h => h)
    | (intro _; rfl)
    | (intro _ _ _)
    | (intro _ _)
    | split
    | dsimp only

theorem keeps_noteDenied (p : Nat) (owner : Option Nat) {s : State}  (hk : Keeps s0 s) :
    Keeps s0 (noteDenied p owner s) := by
  unfold noteDenied
  repeat' first
    | with_reducible assumption
    | with_reducible apply keeps_raise
    | with_reducible apply keeps_wrongState
    | with_reducible apply keeps_ite
    | split

theorem keeps_regWrite (p : Nat) (a : Nat) (v : Nat) {s : State} (hk : Keeps s0 s) : Keeps s0 (regWrite p a v s).1 := by
  have h : Keeps s0 (writeReg p a v s).state := keeps_writeReg p a v hk
  unfold regWrite
  dsimp only
  split
  · exact h
  · exact keeps_noteDenied _ _ h

end Sys2Proof.Laws
end

