-- ==== Sys2Proof/Laws/KeepsNymsy.lean ====
section
/-! SUPPORT. Every operation of Machine/Nymsy.lean keeps what `Keeps` says. -/

namespace Sys2Proof.Laws

open Sys2Proof.Machine Sys2Proof.Safety

variable {s0 : State}

/-- The state a read leaves keeps, whatever its trailer. -/
def ReadKeeps (s0 : State) (r : ReadOut) : Prop := Keeps s0 r.state

theorem readKeeps_ite {c : Prop} [Decidable c] {x y : ReadOut} (hx : ReadKeeps s0 x) (hy : ReadKeeps s0 y) :
    ReadKeeps s0 (if c then x else y) := by
  split <;> assumption

theorem readKeeps_mk {t : Trailer} {d : Bytes} {s : State} (h : Keeps s0 s) : ReadKeeps s0 ⟨t, d, s⟩ := h

theorem keeps_readDenied (p : Nat) {s : State} (hk : Keeps s0 s) : ReadKeeps s0 (readDenied p s) :=
  keeps_noteDenied _ _ hk

theorem keeps_readBusy  {s : State}  (hk : Keeps s0 s) :
    ReadKeeps s0 (readBusy s) := by
  unfold readBusy
  repeat' first
    | with_reducible assumption
    | with_reducible apply readKeeps_ite
    | with_reducible apply readKeeps_mk

theorem keeps_readFixed (x : PortState) (k : Link) (d : Bytes) {s : State}  (hk : Keeps s0 s) :
    ReadKeeps s0 (readFixed x k d s) := by
  unfold readFixed
  repeat' first
    | with_reducible assumption
    | with_reducible apply keeps_readBusy
    | with_reducible apply keeps_ite
    | with_reducible apply readKeeps_ite
    | with_reducible apply readKeeps_mk

theorem keeps_readRegs (p : Nat) (k : Link) (a : Nat) (n : Nat) {s : State} (hk : Keeps s0 s) : ReadKeeps s0 (readRegs p k a n s) := by
  have h1 := fun x d => keeps_readFixed x k d hk
  have h2 := keeps_readDenied p hk
  have h3 : ReadKeeps s0 (readBusy s) := keeps_readBusy hk
  unfold readRegs
  extract_lets x fine
  generalize s.boot.mode = m
  cases m
  all_goals first
    | with_reducible exact readKeeps_ite (h1 _ _) h2
    | with_reducible exact readKeeps_ite (h1 _ _) h3

theorem keeps_readPantry (x : PortState) (k : Link) (a : Nat) (n : Nat) {s : State}  (hk : Keeps s0 s) :
    ReadKeeps s0 (readPantry x k a n s) := by
  unfold readPantry
  repeat' first
    | with_reducible assumption
    | with_reducible apply keeps_touch
    | with_reducible apply keeps_readBusy
    | with_reducible apply keeps_wakeBank
    | with_reducible apply keeps_foldl
    | with_reducible apply keeps_ite
    | with_reducible apply readKeeps_ite
    | with_reducible apply readKeeps_mk
    | (intro _ _ _)

theorem keeps_larderAwake (x : PortState) (k : Link) {s : State} (hk : Keeps s0 s) :
    Keeps s0 (larderAwake x k s) := by
  unfold larderAwake
  repeat' first
    | with_reducible assumption
    | with_reducible apply keeps_requestWake
    | with_reducible apply keeps_wakeDone
    | with_reducible apply keeps_ite
    | exact (fun _ h => h)
    | (intro _; rfl)
    | (intro _ _ _)
    | (intro _ _)
    | dsimp only

theorem keeps_readLarder (x : PortState) (k : Link) (a n : Nat) {s : State} (hk : Keeps s0 s) :
    ReadKeeps s0 (readLarder x k a n s) := by
  unfold readLarder
  repeat' first
    | with_reducible assumption
    | with_reducible apply keeps_larderAwake
    | with_reducible apply keeps_touch
    | with_reducible apply keeps_readBusy
    | with_reducible apply readKeeps_ite
    | with_reducible apply readKeeps_mk
    | with_reducible apply keeps_ite
    | exact (fun _ h => h)
    | (intro _; rfl)
    | (intro _ _ _)
    | (intro _ _)
    | dsimp only

theorem keeps_readMem (p : Nat) (k : Link) (a : Nat) (n : Nat) {s : State}  (hk : Keeps s0 s) :
    ReadKeeps s0 (readMem p k a n s) := by
  unfold readMem
  repeat' first
    | with_reducible assumption
    | with_reducible apply keeps_readDenied
    | with_reducible apply keeps_readLarder
    | with_reducible apply keeps_readPantry
    | with_reducible apply keeps_ite
    | with_reducible apply readKeeps_ite

theorem keeps_lateWindow (a n : Nat) {s : State} (hk : Keeps s0 s) : ReadKeeps s0 (lateWindow a n s) := by
  unfold lateWindow
  exact readKeeps_ite (keeps_readBusy hk) (readKeeps_mk (keeps_tongsRead _ _ hk))

theorem keeps_readWindow (p : Port) (k : Link) (a : Nat) (n : Nat) {s : State} (hk : Keeps s0 s) :
    ReadKeeps s0 (readWindow p k a n s) := by
  unfold readWindow
  extract_lets x o
  have h : Keeps s0 (windowRead p o n (k.ready && winHold x) s).1 := keeps_windowRead p o n _ hk
  generalize windowRead p o n (k.ready && winHold x) s = r at h ⊢
  with_reducible refine readKeeps_ite (keeps_readDenied _ hk) (readKeeps_ite (keeps_readBusy (keeps_queueMisses _ _ _ hk)) ?_)
  obtain ⟨t, _ | d⟩ := r
  · exact keeps_lateWindow _ _ h
  · exact readKeeps_mk h

theorem keeps_readRoll (p : Nat) (k : Link) (a : Nat) (n : Nat) {s : State}  (hk : Keeps s0 s) :
    ReadKeeps s0 (readRoll p k a n s) := by
  unfold readRoll
  repeat' first
    | with_reducible assumption
    | with_reducible apply keeps_readFixed
    | with_reducible apply keeps_readDenied
    | with_reducible apply keeps_ite
    | with_reducible apply readKeeps_ite

theorem keeps_readStatusFrame (p : Nat) (k : Link) {s : State} (hk : Keeps s0 s) : ReadKeeps s0 (readStatusFrame p k s) := by
  have h : ReadKeeps s0 (readFixed (portOf s p) k (statusBytes s p) s) := keeps_readFixed _ _ _ hk
  unfold readStatusFrame
  generalize readFixed (portOf s p) k (statusBytes s p) s = r at h ⊢
  obtain ⟨t, d, u⟩ := r
  cases t
  · exact keeps_modPort _ _ hk
  all_goals exact h

theorem keeps_readFrame (p : Port) (k : Link) (f : NymsyFrame) {s : State} (hk : Keeps s0 s) : ReadKeeps s0 (readFrame p k f s) := by
  have hb : ReadKeeps s0 (readBusy s) := keeps_readBusy hk
  unfold readFrame
  refine readKeeps_ite (keeps_readDenied _ hk) ?_
  extract_lets boot
  cases f
  · exact keeps_readRegs _ _ _ _ hk
  · exact hb
  · exact readKeeps_ite hb (keeps_readMem _ _ _ _ hk)
  · exact hb
  · exact hb
  · exact readKeeps_ite hb (keeps_readWindow _ _ _ _ hk)
  · exact hb
  · exact hb
  · exact readKeeps_ite hb (keeps_readStatusFrame _ _ hk)
  · exact readKeeps_ite hb (keeps_readRoll _ _ _ _ hk)
  all_goals exact hb

theorem keeps_respond (p : Nat) (r : Response) {s : State}  (hk : Keeps s0 s) :
    Keeps s0 (respond p r s) := by
  unfold respond
  repeat' first
    | with_reducible assumption
    | with_reducible apply keeps_modPort

theorem keeps_linkEvent (p : Nat) (src : Nat) {s : State}  (hk : Keeps s0 s) :
    Keeps s0 (linkEvent p src s) := by
  unfold linkEvent
  repeat' first
    | with_reducible assumption
    | with_reducible apply keeps_raise
    | with_reducible apply keeps_modPort

theorem keeps_serveRead (p : Port) (k : Link) (f : NymsyFrame) {s : State} (hk : Keeps s0 s) : Keeps s0 (serveRead p k f s) := by
  have h1 : ReadKeeps s0 (readFrame p k f s) := keeps_readFrame p k f hk
  have h2 : ReadKeeps s0 ⟨.crcFail, [], linkEvent p 2 s⟩ := readKeeps_mk (keeps_linkEvent _ _ hk)
  have h : ReadKeeps s0 (if crcOk (portOf s p) k f then readFrame p k f s else ⟨.crcFail, [], linkEvent p 2 s⟩) := readKeeps_ite h1 h2
  exact keeps_respond _ _ (keeps_ite h hk)

/-- The state a write frame leaves keeps, whatever its outcome. -/
def WriteKeeps (s0 : State) (r : WriteOut) : Prop := Keeps s0 r.state

theorem writeKeeps_ite {c : Prop} [Decidable c] {x y : WriteOut} (hx : WriteKeeps s0 x) (hy : WriteKeeps s0 y) :
    WriteKeeps s0 (if c then x else y) := by
  split <;> assumption

theorem writeKeeps_mk {o : Nat} {s : State} (h : Keeps s0 s) : WriteKeeps s0 ⟨o, s⟩ := h

theorem keeps_writeDenied (p : Nat) (o : Option Nat) {s : State} (hk : Keeps s0 s) : WriteKeeps s0 (writeDenied p o s) :=
  keeps_noteDenied _ _ hk

theorem keeps_frameMemWr (p : Nat) (a : Nat) (d : Bytes) {s : State} (hk : Keeps s0 s) :
    WriteKeeps s0 (frameMemWr p a d s) := by
  unfold frameMemWr
  repeat' first
    | with_reducible assumption
    | with_reducible apply keeps_writeDenied
    | with_reducible apply keeps_writeArena
    | with_reducible apply keeps_requestWake
    | with_reducible apply writeKeeps_ite
    | with_reducible apply writeKeeps_mk
    | with_reducible apply keeps_ite
    | exact (fun _ h => h)
    | (intro _; rfl)
    | (intro _ _ _)
    | (intro _ _)
    | dsimp only

theorem keeps_framePush (p : Nat) (a : Nat) (d : Bytes) {s : State}  (hk : Keeps s0 s) :
    WriteKeeps s0 (framePush p a d s) := by
  unfold framePush
  repeat' first
    | with_reducible assumption
    | with_reducible apply keeps_writeDenied
    | with_reducible apply keeps_modPort
    | with_reducible apply keeps_ite
    | with_reducible apply writeKeeps_ite
    | with_reducible apply writeKeeps_mk

theorem keeps_frameWinWr (p : Nat) (a : Nat) (d : Bytes) {s : State}  (hk : Keeps s0 s) :
    WriteKeeps s0 (frameWinWr p a d s) := by
  unfold frameWinWr
  repeat' first
    | with_reducible assumption
    | with_reducible apply keeps_writeDenied
    | with_reducible apply keeps_raise
    | with_reducible apply keeps_enqueueOp
    | with_reducible apply keeps_ite
    | with_reducible apply writeKeeps_ite
    | with_reducible apply writeKeeps_mk

theorem keeps_frameWinFetch (p : Port) (a n : Nat) {s : State} (hk : Keeps s0 s) :
    WriteKeeps s0 (frameWinFetch p a n s) := by
  unfold frameWinFetch
  repeat' first
    | with_reducible assumption
    | with_reducible apply keeps_writeDenied
    | with_reducible apply keeps_queueWork
    | with_reducible apply keeps_modPort
    | with_reducible apply writeKeeps_ite
    | with_reducible apply writeKeeps_mk
    | with_reducible apply keeps_ite
    | exact (fun _ h => h)
    | (intro _; rfl)
    | (intro _ _ _)
    | (intro _ _)
    | dsimp only

theorem keeps_frameSetLanes (p : Nat) (d : Bytes) {s : State} (hk : Keeps s0 s) : WriteKeeps s0 (frameSetLanes p d s) := by
  have h : OutKeeps s0 (writeLanes p (leNat d) s) := keeps_writeLanes p _ hk
  unfold frameSetLanes
  exact writeKeeps_ite (writeKeeps_mk h) (keeps_writeDenied _ _ hk)

theorem keeps_writeFrame (p : Port) (f : NymsyFrame) {s : State} (hk : Keeps s0 s) : WriteKeeps s0 (writeFrame p f s) := by
  have hd : WriteKeeps s0 (writeDenied p none s) := keeps_writeDenied _ _ hk
  have ht : WriteKeeps s0 ⟨wrTruncated, linkEvent p 1 s⟩ := writeKeeps_mk (keeps_linkEvent _ _ hk)
  unfold writeFrame
  refine writeKeeps_ite hd ?_
  extract_lets boot
  cases f
  · exact ht
  · exact writeKeeps_mk (keeps_regWrite _ _ _ hk)
  · exact ht
  · exact writeKeeps_ite hd (keeps_frameMemWr _ _ _ hk)
  · exact writeKeeps_ite hd (keeps_framePush _ _ _ hk)
  · exact ht
  · exact writeKeeps_ite hd (keeps_frameWinWr _ _ _ hk)
  · exact writeKeeps_ite hd (keeps_frameWinFetch _ _ _ hk)
  · exact ht
  · exact ht
  · exact keeps_frameSetLanes _ _ hk
  all_goals exact ht

theorem keeps_serveWrite (p : Port) (k : Link) (f : NymsyFrame) {s : State} (hk : Keeps s0 s) : Keeps s0 (serveWrite p k f s) := by
  have hr : Keeps s0 (respond p .silent s) := keeps_respond _ _ hk
  have hu : ∀ o g, Keeps s0 (recordWr p o (writeFrame p g (respond p .silent s)).outcome (writeFrame p g (respond p .silent s)).state) :=
    fun _ _ => keeps_recordWr _ _ _ (keeps_writeFrame _ _ hr)
  have hl : ∀ o c n, Keeps s0 (recordWr p o c (linkEvent p n (respond p .silent s))) :=
    fun _ _ _ => keeps_recordWr _ _ _ (keeps_linkEvent _ _ hr)
  unfold serveWrite
  dsimp only
  with_reducible exact keeps_ite (hl _ _ _) (keeps_ite (hl _ _ _) (keeps_ite (keeps_warmReset _ _ (hu _ _)) (hu _ _)))

theorem keeps_serveUnknown (p : Nat) (o : Nat) {s : State}  (hk : Keeps s0 s) :
    Keeps s0 (serveUnknown p o s) := by
  unfold serveUnknown
  repeat' first
    | with_reducible assumption
    | with_reducible apply keeps_noteDenied
    | with_reducible apply keeps_respond
    | with_reducible apply keeps_modPort

theorem keeps_serveNymsy (p : Port) (k : Link) (f : NymsyFrame) {s : State}  (hk : Keeps s0 s) :
    Keeps s0 (serveNymsy p k f s) := by
  unfold serveNymsy
  repeat' first
    | with_reducible assumption
    | with_reducible apply keeps_linkEvent
    | with_reducible apply keeps_respond
    | with_reducible apply keeps_serveRead
    | with_reducible apply keeps_serveWrite
    | with_reducible apply keeps_serveUnknown
    | with_reducible apply keeps_ite
    | split

theorem keeps_discardWrite (p : Nat) (o : Nat) {s : State}  (hk : Keeps s0 s) :
    Keeps s0 (discardWrite p o s) := by
  unfold discardWrite
  repeat' first
    | with_reducible assumption
    | with_reducible apply keeps_raise
    | with_reducible apply keeps_recordWr
    | with_reducible apply keeps_modPort
    | with_reducible apply keeps_ite

theorem keeps_sentinelWake (p : Nat) {s : State} (hk : Keeps s0 s) :
    Keeps s0 (sentinelWake p s) := by
  unfold sentinelWake
  repeat' first
    | with_reducible assumption
    | with_reducible apply keeps_requestWake
    | with_reducible apply keeps_respond
    | with_reducible apply keeps_ite
    | exact (fun _ h => h)
    | (intro _; rfl)
    | (intro _ _ _)
    | (intro _ _)
    | dsimp only

theorem keeps_sentinelNymsy (p : Nat) (k : Link) (f : NymsyFrame) {s : State} (hk : Keeps s0 s) :
    Keeps s0 (sentinelNymsy p k f s) := by
  unfold sentinelNymsy
  repeat' first
    | with_reducible assumption
    | with_reducible apply keeps_sentinelWake
    | with_reducible apply keeps_linkEvent
    | with_reducible apply keeps_respond
    | with_reducible apply keeps_raise
    | with_reducible apply keeps_discardWrite
    | with_reducible apply keeps_ite
    | exact (fun _ h => h)
    | (intro _; rfl)
    | (intro _ _ _)
    | (intro _ _)
    | split
    | dsimp only

theorem keeps_atPort (p : Port) (k : Link) (sentinel : State → State) (logic : State → State) {s : State} (h_sentinel : ∀ t, Keeps s0 t → Keeps s0 (sentinel t)) (h_logic : ∀ t, Keeps s0 t → Keeps s0 (logic t)) (hk : Keeps s0 s) :
    Keeps s0 (atPort p k sentinel logic s) := by
  unfold atPort
  repeat' first
    | with_reducible assumption
    | with_reducible apply keeps_respond
    | with_reducible apply keeps_ite
    | with_reducible apply h_sentinel
    | with_reducible apply h_logic

theorem keeps_portFrame (p : Port) (k : Link) (f : NymsyFrame) {s : State}  (hk : Keeps s0 s) :
    Keeps s0 (portFrame p k f s) := by
  unfold portFrame
  repeat' first
    | with_reducible assumption
    | with_reducible apply keeps_atPort
    | with_reducible apply keeps_sentinelNymsy
    | with_reducible apply keeps_serveNymsy

theorem keeps_regFrame (p : Port) (k : Link) (a : Nat) (v : Nat) {s : State}  (hk : Keeps s0 s) :
    Keeps s0 (regFrame p k a v s) := by
  unfold regFrame
  repeat' first
    | with_reducible assumption
    | with_reducible apply keeps_portFrame

theorem keeps_laneReset (p : Nat) {s : State}  (hk : Keeps s0 s) :
    Keeps s0 (laneReset p s) := by
  unfold laneReset
  repeat' first
    | with_reducible assumption
    | with_reducible apply keeps_recordWr
    | with_reducible apply keeps_requestWake
    | with_reducible apply keeps_respond
    | with_reducible apply keeps_modPort
    | with_reducible apply keeps_ite

end Sys2Proof.Laws
end

