-- ==== Sys2Proof/Laws/KeepsXip.lean ====
section
/-! SUPPORT. Every operation of Machine/Xip.lean keeps what `Keeps` says. -/

namespace Sys2Proof.Laws

open Sys2Proof.Machine Sys2Proof.Safety

variable {s0 : State}

theorem keeps_xipAtNymsy (p : Port) (k : Link) (code : Nat) {s : State}  (hk : Keeps s0 s) :
    Keeps s0 (xipAtNymsy p k code s) := by
  unfold xipAtNymsy
  repeat' first
    | with_reducible assumption
    | with_reducible apply keeps_serveNymsy
    | with_reducible apply keeps_linkEvent
    | with_reducible apply keeps_respond
    | with_reducible apply keeps_ite

theorem keeps_sentinelXip (p : Nat) (k : Link) (r : Option Nat) {s : State} (hk : Keeps s0 s) :
    Keeps s0 (sentinelXip p k r s) := by
  unfold sentinelXip
  repeat' first
    | with_reducible assumption
    | with_reducible apply keeps_sentinelWake
    | with_reducible apply keeps_linkEvent
    | with_reducible apply keeps_respond
    | with_reducible apply keeps_raise
    | with_reducible apply keeps_ite
    | exact (fun _ h => h)
    | (intro _; rfl)
    | (intro _ _ _)
    | (intro _ _)
    | split
    | dsimp only

theorem keeps_sentinelAtNymsy (p : Port) (k : Link) (code : Nat) {s : State} (hk : Keeps s0 s) :
    Keeps s0 (sentinelAtNymsy p k code s) := by
  unfold sentinelAtNymsy
  repeat' first
    | with_reducible assumption
    | with_reducible apply keeps_sentinelNymsy
    | with_reducible apply keeps_linkEvent
    | with_reducible apply keeps_sentinelWake
    | with_reducible apply keeps_ite
    | exact (fun _ h => h)
    | (intro _; rfl)
    | (intro _ _ _)
    | (intro _ _)
    | dsimp only

theorem keeps_xipCommand (p : Port) (k : Link) (code : Nat) (read : Option Nat) (busyRuns : Bool) (run : State → State) {s : State} (h_run : ∀ t, Keeps s0 t → Keeps s0 (run t)) (hk : Keeps s0 s) :
    Keeps s0 (xipCommand p k code read busyRuns run s) := by
  unfold xipCommand
  repeat' first
    | with_reducible assumption
    | with_reducible apply keeps_atPort
    | with_reducible apply keeps_sentinelXip
    | with_reducible apply keeps_sentinelAtNymsy
    | with_reducible apply keeps_xipAtNymsy
    | with_reducible apply keeps_linkEvent
    | with_reducible apply keeps_respond
    | with_reducible apply h_run
    | with_reducible apply keeps_ite
    | exact (fun _ h => h)
    | (intro _; rfl)
    | (intro _ _ _)
    | (intro _ _)
    | dsimp only

theorem keeps_readPieces (p : Port) (ready : Bool) (l : List (Nat × Nat)) (got : Bytes) {s : State} (hk : Keeps s0 s) :
    Keeps s0 (readPieces p ready l got s).1 := by
  induction l generalizing got s with
  | nil => exact hk
  | cons c t ih =>
    obtain ⟨a, n⟩ := c
    have hw : Keeps s0 (windowRead p a n ready s).1 := keeps_windowRead p a n _ hk
    unfold readPieces
    split
    · exact ih _ hk
    · generalize windowRead p a n ready s = r at hw ⊢
      obtain ⟨u, _ | d⟩ := r
      · exact hw
      · exact ih _ hw

theorem keeps_xipRead (p : Port) (k : Link) (a : Nat) (n : Nat) {s : State} (hk : Keeps s0 s) : Keeps s0 (xipRead p k a n s) := by
  have hr : Keeps s0 (readPieces p k.ready (linePieces a n) [] s).1 := keeps_readPieces p k.ready _ _ hk
  unfold xipRead
  dsimp only
  generalize readPieces p k.ready (linePieces a n) [] s = r at hr ⊢
  with_reducible exact keeps_ite (keeps_respond _ _ hk) (keeps_ite (keeps_respond _ _ hr) (keeps_respond _ _ (keeps_raise _ _ _ _ hr)))

theorem keeps_xipRefuse (p : Nat) {s : State} (hk : Keeps s0 s) :
    Keeps s0 (xipRefuse p s) := by
  unfold xipRefuse
  repeat' first
    | with_reducible assumption
    | with_reducible apply keeps_noteDenied
    | with_reducible apply keeps_modPort
    | with_reducible apply keeps_ite
    | exact (fun _ h => h)
    | (intro _; rfl)
    | (intro _ _ _)
    | (intro _ _)
    | dsimp only

theorem keeps_xipShort (p : Nat) {s : State} (hk : Keeps s0 s) :
    Keeps s0 (xipShort p s) := by
  unfold xipShort
  repeat' first
    | with_reducible assumption
    | with_reducible apply keeps_linkEvent
    | with_reducible apply keeps_modPort
    | with_reducible apply keeps_ite
    | exact (fun _ h => h)
    | (intro _; rfl)
    | (intro _ _ _)
    | (intro _ _)
    | dsimp only

theorem keeps_xipWrite (p : Port) (kind : WinKind) (a n : Nat) (d : Bytes) {s : State} (hk : Keeps s0 s) :
    Keeps s0 (xipWrite p kind a n d s) := by
  unfold xipWrite
  repeat' first
    | with_reducible assumption
    | with_reducible apply keeps_xipRefuse
    | with_reducible apply keeps_raise
    | with_reducible apply keeps_enqueueOp
    | with_reducible apply keeps_modPort
    | with_reducible apply keeps_ite
    | exact (fun _ h => h)
    | (intro _; rfl)
    | (intro _ _ _)
    | (intro _ _)
    | dsimp only

theorem keeps_xipProgram (p : Port) (k : Link) (a : Nat) (d : Bytes) {s : State} (hk : Keeps s0 s) :
    Keeps s0 (xipProgram p k a d s) := by
  unfold xipProgram
  repeat' first
    | with_reducible assumption
    | with_reducible apply keeps_respond
    | with_reducible apply keeps_xipShort
    | with_reducible apply keeps_xipRefuse
    | with_reducible apply keeps_xipWrite
    | with_reducible apply keeps_ite
    | exact (fun _ h => h)
    | (intro _; rfl)
    | (intro _ _ _)
    | (intro _ _)
    | dsimp only

theorem keeps_xipErase (p : Port) (k : Link) (a : Nat) {s : State} (hk : Keeps s0 s) :
    Keeps s0 (xipErase p k a s) := by
  unfold xipErase
  repeat' first
    | with_reducible assumption
    | with_reducible apply keeps_respond
    | with_reducible apply keeps_xipShort
    | with_reducible apply keeps_xipWrite
    | with_reducible apply keeps_dropLines
    | with_reducible apply keeps_ite
    | exact (fun _ h => h)
    | (intro _; rfl)
    | (intro _ _ _)
    | (intro _ _)
    | dsimp only

theorem keeps_xipPart (p : Nat) (o : Nat) {s : State} (hk : Keeps s0 s) :
    Keeps s0 (xipPart p o s) := by
  unfold xipPart
  repeat' first
    | with_reducible assumption
    | with_reducible apply keeps_respond
    | with_reducible apply keeps_modPort
    | with_reducible apply keeps_xipShort
    | with_reducible apply keeps_ite
    | exact (fun _ h => h)
    | (intro _; rfl)
    | (intro _ _ _)
    | (intro _ _)
    | dsimp only

theorem keeps_xipNative (p : Port) (k : Link) (f : NymsyFrame) {s : State} (hk : Keeps s0 s) :
    Keeps s0 (xipNative p k f s) := by
  unfold xipNative
  repeat' first
    | with_reducible assumption
    | with_reducible apply keeps_linkEvent
    | with_reducible apply keeps_respond
    | with_reducible apply keeps_xipPart
    | with_reducible apply keeps_ite
    | exact (fun _ h => h)
    | (intro _; rfl)
    | (intro _ _ _)
    | (intro _ _)
    | dsimp only

theorem keeps_sentinelNative (p : Port) (k : Link) (f : NymsyFrame) {s : State} (hk : Keeps s0 s) :
    Keeps s0 (sentinelNative p k f s) := by
  unfold sentinelNative
  repeat' first
    | with_reducible assumption
    | with_reducible apply keeps_sentinelNymsy
    | with_reducible apply keeps_linkEvent
    | with_reducible apply keeps_sentinelWake
    | with_reducible apply keeps_sentinelXip
    | with_reducible apply keeps_ite
    | exact (fun _ h => h)
    | (intro _; rfl)
    | (intro _ _ _)
    | (intro _ _)
    | dsimp only

theorem keeps_nativeFrame (p : Port) (k : Link) (f : NymsyFrame) {s : State} (hk : Keeps s0 s) :
    Keeps s0 (nativeFrame p k f s) := by
  unfold nativeFrame
  repeat' first
    | with_reducible assumption
    | with_reducible apply keeps_atPort
    | with_reducible apply keeps_sentinelNative
    | with_reducible apply keeps_xipNative
    | with_reducible apply keeps_serveNymsy
    | with_reducible apply keeps_ite
    | exact (fun _ h => h)
    | (intro _; rfl)
    | (intro _ _ _)
    | (intro _ _)
    | dsimp only

end Sys2Proof.Laws
end

