-- ==== Sys2Proof/Laws/KeepsClock.lean ====
section
/-! SUPPORT. Every operation of Machine/Clock.lean keeps what `Keeps` says. -/

namespace Sys2Proof.Laws

open Sys2Proof.Machine Sys2Proof.Safety

variable {s0 : State}

theorem keeps_tick {s : State} (hk : Keeps s0 s) : Keeps s0 (tick s) :=
  have hp : Keeps s0 { s with power := { s.power with wakesNow := 0 } } := keeps_mk hk rfl rfl rfl id id id id id id rfl rfl rfl rfl rfl rfl rfl rfl
  keeps_ite (keeps_elapseTo _ hp) hp

end Sys2Proof.Laws
end

