-- ==== Sys2Proof/Laws/KeepsExec.lean ====
section
/-! SUPPORT. Every command but BACKUP_NODE_POWER_UP keeps what `Keeps` says; that one resets the clock. -/

namespace Sys2Proof.Laws

open Sys2Proof.Machine Sys2Proof.Safety

variable {s0 : State}

theorem keeps_createSpec : SpecKeeps s0 createSpec := by
  intro run h x v p t ht
  unfold createSpec
  with_reducible exact keeps_createApply run h x v p ht

theorem keeps_destroySpec : SpecKeeps s0 destroySpec := fun run h x v p _ ht => keeps_destroyApply run h x v p ht

theorem keeps_quotaSpec : SpecKeeps s0 quotaSpec := fun run h x v p _ ht => keeps_quotaApply run h x v p ht

theorem keeps_rateSpec : SpecKeeps s0 rateSpec := fun run h x v p _ ht => keeps_rateApply run h x v p ht

theorem keeps_meterSpec : SpecKeeps s0 meterSpec := fun run h x v p _ ht => keeps_meterApply run h x v p ht

theorem keeps_timeSpec : SpecKeeps s0 timeSpec := fun run h x v p _ ht => keeps_timeApply run h x v p ht

theorem keeps_claimSpec : SpecKeeps s0 claimSpec := fun run h x v p _ ht => keeps_claimApply run h x v p ht

theorem keeps_operatorSpec : SpecKeeps s0 operatorSpec := fun run h x v p _ ht => keeps_operatorApply run h x v p ht

theorem keeps_ownerSpec : SpecKeeps s0 ownerSpec := fun run h x v p _ ht => keeps_ownerApply run h x v p ht

theorem keeps_unlockSpec : SpecKeeps s0 unlockSpec := fun run h x v p _ ht => keeps_unlockApply run h x v p ht

theorem keeps_authSpec : SpecKeeps s0 authSpec := fun run h x v p _ ht => keeps_authApply run h x v p ht

theorem keeps_rootSpec : SpecKeeps s0 rootSpec := fun run h x v p _ ht => keeps_rootApply run h x v p ht

theorem keeps_importSpec : SpecKeeps s0 importSpec := fun run h x v p _ ht => keeps_importApply run h x v p ht

theorem keeps_replaceSpec : SpecKeeps s0 replaceSpec := fun run h x v p _ ht => keeps_replaceApply run h x v p ht

theorem keeps_generateSpec : SpecKeeps s0 generateSpec := fun run h x v p _ ht => keeps_generateApply run h x v p ht

theorem keeps_referenceSpec : SpecKeeps s0 referenceSpec := fun run h x v p _ ht => keeps_referenceApply run h x v p ht

theorem keeps_destroyKeySpec : SpecKeeps s0 destroyKeySpec := fun run h x v p _ ht => keeps_destroyKeyApply run h x v p ht

theorem keeps_sealSpec : SpecKeeps s0 sealSpec := fun run h x v p _ ht => keeps_sealApply run h x v p ht

theorem keeps_grantSpec : SpecKeeps s0 grantSpec := fun run h x v p _ ht => keeps_grantApply run h x v p ht

theorem keeps_layoutSpec : SpecKeeps s0 layoutSpec := fun run h x v p _ ht => keeps_layoutApply run h x v p ht

theorem execRegRd_keeps (p : Port) (k : Link) (addr : Nat) (len : Nat) {s t : State} (he : execRegRd p k addr len s = .next t) : Keeps s t := by
  cases he
  have hk := Keeps.refl s
  repeat' first
    | with_reducible assumption
    | with_reducible apply keeps_nativeFrame

theorem execRegisterWrite_keeps (p : Port) (k : Link) (addr : Nat) (data : Bytes) {s t : State} (he : execRegisterWrite p k addr data s = .next t) : Keeps s t := by
  cases he
  have hk := Keeps.refl s
  repeat' first
    | with_reducible assumption
    | with_reducible apply keeps_nativeFrame

theorem execMemRd_keeps (p : Port) (k : Link) (addr : Nat) (len : Nat) {s t : State} (he : execMemRd p k addr len s = .next t) : Keeps s t := by
  cases he
  have hk := Keeps.refl s
  repeat' first
    | with_reducible assumption
    | with_reducible apply keeps_nativeFrame

theorem execMemWr_keeps (p : Port) (k : Link) (addr : Nat) (data : Bytes) {s t : State} (he : execMemWr p k addr data s = .next t) : Keeps s t := by
  cases he
  have hk := Keeps.refl s
  repeat' first
    | with_reducible assumption
    | with_reducible apply keeps_nativeFrame

theorem execPush_keeps (p : Port) (k : Link) (addr : Nat) (data : Bytes) {s t : State} (he : execPush p k addr data s = .next t) : Keeps s t := by
  cases he
  have hk := Keeps.refl s
  repeat' first
    | with_reducible assumption
    | with_reducible apply keeps_nativeFrame

theorem execWinRd_keeps (p : Port) (k : Link) (addr : Nat) (len : Nat) {s t : State} (he : execWinRd p k addr len s = .next t) : Keeps s t := by
  cases he
  have hk := Keeps.refl s
  repeat' first
    | with_reducible assumption
    | with_reducible apply keeps_nativeFrame

theorem execWinWr_keeps (p : Port) (k : Link) (addr : Nat) (data : Bytes) {s t : State} (he : execWinWr p k addr data s = .next t) : Keeps s t := by
  cases he
  have hk := Keeps.refl s
  repeat' first
    | with_reducible assumption
    | with_reducible apply keeps_nativeFrame

theorem execWinFetch_keeps (p : Port) (k : Link) (addr : Nat) (len : Nat) {s t : State} (he : execWinFetch p k addr len s = .next t) : Keeps s t := by
  cases he
  have hk := Keeps.refl s
  repeat' first
    | with_reducible assumption
    | with_reducible apply keeps_nativeFrame

theorem execStatus_keeps (p : Port) (k : Link) {s t : State} (he : execStatus p k s = .next t) : Keeps s t := by
  cases he
  have hk := Keeps.refl s
  repeat' first
    | with_reducible assumption
    | with_reducible apply keeps_nativeFrame

theorem execRoll_keeps (p : Port) (k : Link) (addr : Nat) (len : Nat) {s t : State} (he : execRoll p k addr len s = .next t) : Keeps s t := by
  cases he
  have hk := Keeps.refl s
  repeat' first
    | with_reducible assumption
    | with_reducible apply keeps_nativeFrame

theorem execSetLanes_keeps (p : Port) (k : Link) (data : Bytes) {s t : State} (he : execSetLanes p k data s = .next t) : Keeps s t := by
  cases he
  have hk := Keeps.refl s
  repeat' first
    | with_reducible assumption
    | with_reducible apply keeps_nativeFrame

theorem execNop_keeps (p : Port) (k : Link) {s t : State} (he : execNop p k s = .next t) : Keeps s t := by
  cases he
  have hk := Keeps.refl s
  repeat' first
    | with_reducible assumption
    | with_reducible apply keeps_nativeFrame

theorem execLaneReset_keeps (p : Port) {s t : State} (he : execLaneReset p s = .next t) : Keeps s t := by
  cases he
  have hk := Keeps.refl s
  repeat' first
    | with_reducible assumption
    | with_reducible apply keeps_laneReset

theorem execGatedPortFrame_keeps (p : Port) (k : Link) (f : NymsyFrame) {s t : State} (he : execGatedPortFrame p k f s = .next t) : Keeps s t := by
  cases he
  have hk := Keeps.refl s
  repeat' first
    | with_reducible assumption
    | with_reducible apply keeps_nativeFrame

theorem execPortWakeDone_keeps (p : Port) {s t : State} (he : execPortWakeDone p s = .next t) : Keeps s t := by
  cases he
  have hk := Keeps.refl s
  repeat' first
    | with_reducible assumption
    | with_reducible apply keeps_portAwake
    | with_reducible apply keeps_ite

theorem execXipRead_keeps (p : Port) (k : Link) (addr : Nat) (len : Nat) {s t : State} (he : execXipRead p k addr len s = .next t) : Keeps s t := by
  cases he
  have hk := Keeps.refl s
  repeat' first
    | with_reducible assumption
    | with_reducible apply keeps_xipCommand
    | with_reducible apply keeps_xipRead

theorem execXipReadStatus_keeps (p : Port) (k : Link) (len : Nat) {s t : State} (he : execXipReadStatus p k len s = .next t) : Keeps s t := by
  cases he
  have hk := Keeps.refl s
  repeat' first
    | with_reducible assumption
    | with_reducible apply keeps_xipCommand
    | with_reducible apply keeps_respond
    | (intro _ _ _)
    | (intro _ _)

theorem execXipWriteEnable_keeps (p : Port) (k : Link) {s t : State} (he : execXipWriteEnable p k s = .next t) : Keeps s t := by
  cases he
  have hk := Keeps.refl s
  repeat' first
    | with_reducible assumption
    | with_reducible apply keeps_xipCommand
    | with_reducible apply keeps_modPort

theorem execXipWriteDisable_keeps (p : Port) (k : Link) {s t : State} (he : execXipWriteDisable p k s = .next t) : Keeps s t := by
  cases he
  have hk := Keeps.refl s
  repeat' first
    | with_reducible assumption
    | with_reducible apply keeps_xipCommand
    | with_reducible apply keeps_modPort

theorem execXipPageProgram_keeps (p : Port) (k : Link) (addr : Nat) (data : Bytes) {s t : State} (he : execXipPageProgram p k addr data s = .next t) : Keeps s t := by
  cases he
  have hk := Keeps.refl s
  repeat' first
    | with_reducible assumption
    | with_reducible apply keeps_xipCommand
    | with_reducible apply keeps_xipProgram

theorem execXipSectorErase_keeps (p : Port) (k : Link) (addr : Nat) {s t : State} (he : execXipSectorErase p k addr s = .next t) : Keeps s t := by
  cases he
  have hk := Keeps.refl s
  repeat' first
    | with_reducible assumption
    | with_reducible apply keeps_xipCommand
    | with_reducible apply keeps_xipErase

theorem execXipReadId_keeps (p : Port) (k : Link) (len : Nat) {s t : State} (he : execXipReadId p k len s = .next t) : Keeps s t := by
  cases he
  have hk := Keeps.refl s
  repeat' first
    | with_reducible assumption
    | with_reducible apply keeps_xipCommand
    | with_reducible apply keeps_respond

theorem execXipReadSfdp_keeps (p : Port) (k : Link) (addr : Nat) (len : Nat) {s t : State} (he : execXipReadSfdp p k addr len s = .next t) : Keeps s t := by
  cases he
  have hk := Keeps.refl s
  repeat' first
    | with_reducible assumption
    | with_reducible apply keeps_xipCommand
    | with_reducible apply keeps_respond
    | (intro _ _ _)
    | (intro _ _)

theorem execNymsyEscape_keeps (p : Port) (k : Link) (f : NymsyFrame) {s t : State} (he : execNymsyEscape p k f s = .next t) : Keeps s t := by
  cases he
  have hk := Keeps.refl s
  repeat' first
    | with_reducible assumption
    | with_reducible apply keeps_atPort
    | with_reducible apply keeps_sentinelNymsy
    | with_reducible apply keeps_sentinelAtNymsy
    | with_reducible apply keeps_serveNymsy
    | with_reducible apply keeps_xipAtNymsy
    | with_reducible apply keeps_ite
    | exact (fun _ h => h)
    | (intro _ _ _ _)
    | (intro _ _ _)
    | (intro _ _)
    | (intro _; rfl)
    | dsimp only

theorem execWarmReset_keeps (p : Port) (k : Link) (scratch : BitVec 16) {s t : State} (he : execWarmReset p k scratch s = .next t) : Keeps s t := by
  cases he
  have hk := Keeps.refl s
  repeat' first
    | with_reducible assumption
    | with_reducible apply keeps_regFrame

theorem execFetchAbort_keeps (p : Port) (k : Link) (scratch : BitVec 16) {s t : State} (he : execFetchAbort p k scratch s = .next t) : Keeps s t := by
  cases he
  have hk := Keeps.refl s
  repeat' first
    | with_reducible assumption
    | with_reducible apply keeps_regFrame

theorem execCreate_keeps (p : Port) (k : Link) {s t : State} (he : execCreate p k s = .next t) : Keeps s t := by
  cases he
  have hk := Keeps.refl s
  repeat' first
    | with_reducible assumption
    | with_reducible apply keeps_regFrame

theorem execPause_keeps (p : Port) (k : Link) {s t : State} (he : execPause p k s = .next t) : Keeps s t := by
  cases he
  have hk := Keeps.refl s
  repeat' first
    | with_reducible assumption
    | with_reducible apply keeps_regFrame

theorem execResume_keeps (p : Port) (k : Link) {s t : State} (he : execResume p k s = .next t) : Keeps s t := by
  cases he
  have hk := Keeps.refl s
  repeat' first
    | with_reducible assumption
    | with_reducible apply keeps_regFrame

theorem execShutdown_keeps (p : Port) (k : Link) {s t : State} (he : execShutdown p k s = .next t) : Keeps s t := by
  cases he
  have hk := Keeps.refl s
  repeat' first
    | with_reducible assumption
    | with_reducible apply keeps_regFrame

theorem execRelease_keeps (p : Port) (k : Link) {s t : State} (he : execRelease p k s = .next t) : Keeps s t := by
  cases he
  have hk := Keeps.refl s
  repeat' first
    | with_reducible assumption
    | with_reducible apply keeps_regFrame

theorem execQuery_keeps (p : Port) (k : Link) {s t : State} (he : execQuery p k s = .next t) : Keeps s t := by
  cases he
  have hk := Keeps.refl s
  repeat' first
    | with_reducible assumption
    | with_reducible apply keeps_regFrame

theorem execRingKick_keeps (p : Port) (k : Link) (ring : BitVec 16) {s t : State} (he : execRingKick p k ring s = .next t) : Keeps s t := by
  cases he
  have hk := Keeps.refl s
  repeat' first
    | with_reducible assumption
    | with_reducible apply keeps_regFrame

theorem execRollAckRing_keeps (p : Port) (k : Link) (ring : BitVec 16) {s t : State} (he : execRollAckRing p k ring s = .next t) : Keeps s t := by
  cases he
  have hk := Keeps.refl s
  repeat' first
    | with_reducible assumption
    | with_reducible apply keeps_regFrame

theorem execRollAckWord_keeps (p : Port) (k : Link) (word : BitVec 11) (upper : Bool) (mask : BitVec 16) {s t : State} (he : execRollAckWord p k word upper mask s = .next t) : Keeps s t := by
  cases he
  have hk := Keeps.refl s
  repeat' first
    | with_reducible assumption
    | with_reducible apply keeps_regFrame

theorem execRingPoll_keeps (ring : BitVec 16) {s t : State} (he : execRingPoll ring s = .next t) : Keeps s t := by
  cases he
  have hk := Keeps.refl s
  repeat' first
    | with_reducible assumption
    | with_reducible apply keeps_readRing
    | with_reducible apply keeps_ite

theorem execPushDeposit_keeps (p : Port) {s t : State} (he : execPushDeposit p s = .next t) : Keeps s t := by
  cases he
  have hk := Keeps.refl s
  repeat' first
    | with_reducible assumption
    | with_reducible apply keeps_pushDepositEffect

theorem execDupHashDone_keeps (h : Nat) {s t : State} (he : execDupHashDone h s = .next t) : Keeps s t := by
  cases he
  have hk := Keeps.refl s
  repeat' first
    | with_reducible assumption
    | with_reducible apply keeps_dupHash

theorem execHamperAdmission_keeps  {s t : State} (he : execHamperAdmission s = .next t) : Keeps s t := by
  cases he
  have hk := Keeps.refl s
  repeat' first
    | with_reducible assumption
    | with_reducible apply keeps_allocatorStep

theorem execEngineGrant_keeps (e : EngineGrant) {s t : State} (he : execEngineGrant e s = .next t) : Keeps s t := by
  cases he
  have hk := Keeps.refl s
  repeat' first
    | with_reducible assumption
    | with_reducible apply keeps_engineGrant
    | with_reducible apply keeps_ite
    | exact (fun _ h => h)
    | (intro _ _ _ _)
    | (intro _ _ _)
    | (intro _ _)
    | (intro _; rfl)
    | dsimp only

theorem execAgePromotion_keeps (h : Nat) {s t : State} (he : execAgePromotion h s = .next t) : Keeps s t := by
  cases he
  have hk := Keeps.refl s
  repeat' first
    | with_reducible assumption
    | with_reducible apply keeps_agePromote

theorem execClaimWait_keeps (p : Port) {s t : State} (he : execClaimWait p s = .next t) : Keeps s t := by
  cases he
  have hk := Keeps.refl s
  repeat' first
    | with_reducible assumption
    | with_reducible apply keeps_claimWait
    | with_reducible apply keeps_ite
    | exact (fun _ h => h)
    | (intro _ _ _ _)
    | (intro _ _ _)
    | (intro _ _)
    | (intro _; rfl)
    | dsimp only

theorem execPreemptSuspend_keeps (h : Nat) {s t : State} (he : execPreemptSuspend h s = .next t) : Keeps s t := by
  cases he
  have hk := Keeps.refl s
  repeat' first
    | with_reducible assumption
    | with_reducible apply keeps_preempt

theorem execHamperComplete_keeps (h : Nat) {s t : State} (he : execHamperComplete h s = .next t) : Keeps s t := by
  cases he
  have hk := Keeps.refl s
  repeat' first
    | with_reducible assumption
    | with_reducible apply keeps_completeHamper

theorem execNopEntry_keeps (h : Nat) {s t : State} (he : execNopEntry h s = .next t) : Keeps s t := by
  cases he
  have hk := Keeps.refl s
  repeat' first
    | with_reducible assumption
    | with_reducible apply keeps_nopRun

theorem execRandom_keeps (h : Nat) (_flt : OpFault) {s t : State} (he : execRandom h _flt s = .next t) : Keeps s t := by
  cases he
  have hk := Keeps.refl s
  repeat' first
    | with_reducible assumption
    | with_reducible apply keeps_runEntry
    | with_reducible apply keeps_endBad
    | with_reducible apply keeps_withRoom
    | with_reducible apply keeps_randomExecute
    | split
    | (intro _ _ _ _)

theorem execCipher_keeps (h : Nat) (flt : OpFault) {s t : State} (he : execCipher h flt s = .next t) : Keeps s t := by
  cases he
  have hk := Keeps.refl s
  repeat' first
    | with_reducible assumption
    | with_reducible apply keeps_runEntry
    | with_reducible apply keeps_cipherRun

theorem execAeadSeal_keeps (h : Nat) (flt : OpFault) {s t : State} (he : execAeadSeal h flt s = .next t) : Keeps s t := by
  cases he
  have hk := Keeps.refl s
  repeat' first
    | with_reducible assumption
    | with_reducible apply keeps_runEntry
    | with_reducible apply keeps_cipherFrame
    | with_reducible apply keeps_sealExecute
    | with_reducible apply keeps_ite
    | exact (fun _ h => h)
    | (intro _ _ _ _)
    | (intro _ _ _)
    | (intro _ _)
    | (intro _; rfl)
    | dsimp only

theorem execAeadOpen_keeps (h : Nat) (flt : OpFault) {s t : State} (he : execAeadOpen h flt s = .next t) : Keeps s t := by
  cases he
  have hk := Keeps.refl s
  repeat' first
    | with_reducible assumption
    | with_reducible apply keeps_runEntry
    | with_reducible apply keeps_cipherFrame
    | with_reducible apply keeps_openExecute
    | with_reducible apply keeps_ite
    | exact (fun _ h => h)
    | (intro _ _ _ _)
    | (intro _ _ _)
    | (intro _ _)
    | (intro _; rfl)
    | dsimp only

theorem execMacGen_keeps (h : Nat) (flt : OpFault) {s t : State} (he : execMacGen h flt s = .next t) : Keeps s t := by
  cases he
  have hk := Keeps.refl s
  repeat' first
    | with_reducible assumption
    | with_reducible apply keeps_runEntry
    | with_reducible apply keeps_macRun

theorem execMacCheck_keeps (h : Nat) (flt : OpFault) {s t : State} (he : execMacCheck h flt s = .next t) : Keeps s t := by
  cases he
  have hk := Keeps.refl s
  repeat' first
    | with_reducible assumption
    | with_reducible apply keeps_runEntry
    | with_reducible apply keeps_macRun

theorem execDigest_keeps (h : Nat) (_flt : OpFault) {s t : State} (he : execDigest h _flt s = .next t) : Keeps s t := by
  cases he
  have hk := Keeps.refl s
  repeat' first
    | with_reducible assumption
    | with_reducible apply keeps_runEntry
    | with_reducible apply keeps_digestRun

theorem execHmacGen_keeps (h : Nat) (flt : OpFault) {s t : State} (he : execHmacGen h flt s = .next t) : Keeps s t := by
  cases he
  have hk := Keeps.refl s
  repeat' first
    | with_reducible assumption
    | with_reducible apply keeps_runEntry
    | with_reducible apply keeps_hmacRun

theorem execHmacCheck_keeps (h : Nat) (flt : OpFault) {s t : State} (he : execHmacCheck h flt s = .next t) : Keeps s t := by
  cases he
  have hk := Keeps.refl s
  repeat' first
    | with_reducible assumption
    | with_reducible apply keeps_runEntry
    | with_reducible apply keeps_hmacRun

theorem execCompare_keeps (h : Nat) (flt : OpFault) {s t : State} (he : execCompare h flt s = .next t) : Keeps s t := by
  cases he
  have hk := Keeps.refl s
  repeat' first
    | with_reducible assumption
    | with_reducible apply keeps_runEntry
    | with_reducible apply keeps_endBad
    | with_reducible apply keeps_withReads
    | with_reducible apply keeps_compareExecute
    | split
    | (intro _ _ _ _)

theorem execExtend_keeps (h : Nat) (_flt : OpFault) {s t : State} (he : execExtend h _flt s = .next t) : Keeps s t := by
  cases he
  have hk := Keeps.refl s
  repeat' first
    | with_reducible assumption
    | with_reducible apply keeps_runEntry
    | with_reducible apply keeps_digestFrame
    | with_reducible apply keeps_extendExecute
    | (intro _ _ _ _)

theorem execQuote_keeps (h : Nat) (flt : OpFault) {s t : State} (he : execQuote h flt s = .next t) : Keeps s t := by
  cases he
  have hk := Keeps.refl s
  repeat' first
    | with_reducible assumption
    | with_reducible apply keeps_runEntry
    | with_reducible apply keeps_withPk
    | with_reducible apply keeps_withRoom
    | with_reducible apply keeps_quoteExecute
    | with_reducible apply keeps_endBad
    | with_reducible apply keeps_quoteHash
    | with_reducible apply keeps_ite
    | exact (fun _ h => h)
    | (intro _ _ _ _)
    | (intro _ _ _)
    | (intro _ _)
    | (intro _; rfl)
    | split
    | dsimp only

theorem execCtxExport_keeps (h : Nat) (_flt : OpFault) {s t : State} (he : execCtxExport h _flt s = .next t) : Keeps s t := by
  cases he
  have hk := Keeps.refl s
  repeat' first
    | with_reducible assumption
    | with_reducible apply keeps_runEntry
    | with_reducible apply keeps_endBad
    | with_reducible apply keeps_withRoom
    | with_reducible apply keeps_exportExecute
    | with_reducible apply keeps_ite
    | split
    | (intro _ _ _ _)

theorem execCtxImport_keeps (h : Nat) (_flt : OpFault) {s t : State} (he : execCtxImport h _flt s = .next t) : Keeps s t := by
  cases he
  have hk := Keeps.refl s
  repeat' first
    | with_reducible assumption
    | with_reducible apply keeps_runEntry
    | with_reducible apply keeps_endBad
    | with_reducible apply keeps_withReads
    | with_reducible apply keeps_importExecute
    | with_reducible apply keeps_ite
    | split
    | (intro _ _ _ _)

theorem execSign_keeps (h : Nat) (flt : OpFault) {s t : State} (he : execSign h flt s = .next t) : Keeps s t := by
  cases he
  have hk := Keeps.refl s
  repeat' first
    | with_reducible assumption
    | with_reducible apply keeps_runEntry
    | with_reducible apply keeps_signRun

theorem execVerify_keeps (h : Nat) (flt : OpFault) {s t : State} (he : execVerify h flt s = .next t) : Keeps s t := by
  cases he
  have hk := Keeps.refl s
  repeat' first
    | with_reducible assumption
    | with_reducible apply keeps_runEntry
    | with_reducible apply keeps_verifyRun

theorem execAgree_keeps (h : Nat) (flt : OpFault) {s t : State} (he : execAgree h flt s = .next t) : Keeps s t := by
  cases he
  have hk := Keeps.refl s
  repeat' first
    | with_reducible assumption
    | with_reducible apply keeps_runEntry
    | with_reducible apply keeps_agreeRun

theorem execRsaDecrypt_keeps (h : Nat) (flt : OpFault) {s t : State} (he : execRsaDecrypt h flt s = .next t) : Keeps s t := by
  cases he
  have hk := Keeps.refl s
  repeat' first
    | with_reducible assumption
    | with_reducible apply keeps_runEntry
    | with_reducible apply keeps_rsaRun

theorem execModmath_keeps (h : Nat) (_flt : OpFault) {s t : State} (he : execModmath h _flt s = .next t) : Keeps s t := by
  cases he
  have hk := Keeps.refl s
  repeat' first
    | with_reducible assumption
    | with_reducible apply keeps_runEntry
    | with_reducible apply keeps_endBad
    | with_reducible apply keeps_withPk
    | with_reducible apply keeps_withReads
    | with_reducible apply keeps_withRoom
    | with_reducible apply keeps_modExecute
    | split
    | (intro _ _ _ _)
    | (intro _ _ _)
    | (intro _ _)

theorem execIssue_keeps (h : Nat) (flt : OpFault) {s t : State} (he : execIssue h flt s = .next t) : Keeps s t := by
  cases he
  have hk := Keeps.refl s
  repeat' first
    | with_reducible assumption
    | with_reducible apply keeps_runEntry
    | with_reducible apply keeps_issueRun

theorem execDeriveExport_keeps (h : Nat) (flt : OpFault) {s t : State} (he : execDeriveExport h flt s = .next t) : Keeps s t := by
  cases he
  have hk := Keeps.refl s
  repeat' first
    | with_reducible assumption
    | with_reducible apply keeps_runEntry
    | with_reducible apply keeps_deriveRun

theorem execDeriveTemp_keeps (h : Nat) (flt : OpFault) {s t : State} (he : execDeriveTemp h flt s = .next t) : Keeps s t := by
  cases he
  have hk := Keeps.refl s
  repeat' first
    | with_reducible assumption
    | with_reducible apply keeps_runEntry
    | with_reducible apply keeps_deriveRun

theorem execAttest_keeps (h : Nat) (flt : OpFault) {s t : State} (he : execAttest h flt s = .next t) : Keeps s t := by
  cases he
  have hk := Keeps.refl s
  repeat' first
    | with_reducible assumption
    | with_reducible apply keeps_runEntry
    | with_reducible apply keeps_withPk
    | with_reducible apply keeps_withRoom
    | with_reducible apply keeps_attestExecute
    | with_reducible apply keeps_endBad
    | with_reducible apply keeps_attestUnsigned
    | with_reducible apply keeps_attestHash
    | with_reducible apply keeps_ite
    | exact (fun _ h => h)
    | (intro _ _ _ _)
    | (intro _ _ _)
    | (intro _ _)
    | (intro _; rfl)
    | split
    | dsimp only

theorem execMeterPost_keeps (h : Nat) (flt : OpFault) {s t : State} (he : execMeterPost h flt s = .next t) : Keeps s t := by
  cases he
  have hk := Keeps.refl s
  repeat' first
    | with_reducible assumption
    | with_reducible apply keeps_runEntry
    | with_reducible apply keeps_postRun

theorem execMeterPostTimeout_keeps (h : Nat) (_flt : OpFault) {s t : State} (he : execMeterPostTimeout h _flt s = .next t) : Keeps s t := by
  cases he
  have hk := Keeps.refl s
  repeat' first
    | with_reducible assumption
    | with_reducible apply keeps_runEntry
    | with_reducible apply keeps_elapseTo
    | with_reducible apply keeps_postDeliver
    | with_reducible apply keeps_ite
    | exact (fun _ h => h)
    | (intro _ _ _ _)
    | (intro _ _ _)
    | (intro _ _)
    | (intro _; rfl)
    | dsimp only

theorem execClaim_keeps (h : Nat) (run : EnvelopeRun) {s t : State} (he : execClaim h run s = .next t) : Keeps s t := by
  cases he
  have hk := Keeps.refl s
  repeat' first
    | with_reducible assumption
    | with_reducible exact keeps_claimSpec
    | with_reducible apply keeps_envelopeEntry

theorem execOperatorRotate_keeps (h : Nat) (run : EnvelopeRun) {s t : State} (he : execOperatorRotate h run s = .next t) : Keeps s t := by
  cases he
  have hk := Keeps.refl s
  repeat' first
    | with_reducible assumption
    | with_reducible exact keeps_operatorSpec
    | with_reducible apply keeps_envelopeEntry

theorem execDomainCreate_keeps (h : Nat) (run : EnvelopeRun) {s t : State} (he : execDomainCreate h run s = .next t) : Keeps s t := by
  cases he
  have hk := Keeps.refl s
  repeat' first
    | with_reducible assumption
    | with_reducible exact keeps_createSpec
    | with_reducible apply keeps_envelopeEntry

theorem execDomainDestroy_keeps (h : Nat) (run : EnvelopeRun) {s t : State} (he : execDomainDestroy h run s = .next t) : Keeps s t := by
  cases he
  have hk := Keeps.refl s
  repeat' first
    | with_reducible assumption
    | with_reducible exact keeps_destroySpec
    | with_reducible apply keeps_envelopeEntry

theorem execDomainOwnerRotate_keeps (h : Nat) (run : EnvelopeRun) {s t : State} (he : execDomainOwnerRotate h run s = .next t) : Keeps s t := by
  cases he
  have hk := Keeps.refl s
  repeat' first
    | with_reducible assumption
    | with_reducible exact keeps_ownerSpec
    | with_reducible apply keeps_envelopeEntry

theorem execPortGrant_keeps (h : Nat) (run : EnvelopeRun) {s t : State} (he : execPortGrant h run s = .next t) : Keeps s t := by
  cases he
  have hk := Keeps.refl s
  repeat' first
    | with_reducible assumption
    | with_reducible exact keeps_grantSpec
    | with_reducible apply keeps_envelopeEntry

theorem execQuotaSet_keeps (h : Nat) (run : EnvelopeRun) {s t : State} (he : execQuotaSet h run s = .next t) : Keeps s t := by
  cases he
  have hk := Keeps.refl s
  repeat' first
    | with_reducible assumption
    | with_reducible exact keeps_quotaSpec
    | with_reducible apply keeps_envelopeEntry

theorem execRateSchedule_keeps (h : Nat) (run : EnvelopeRun) {s t : State} (he : execRateSchedule h run s = .next t) : Keeps s t := by
  cases he
  have hk := Keeps.refl s
  repeat' first
    | with_reducible assumption
    | with_reducible exact keeps_rateSpec
    | with_reducible apply keeps_envelopeEntry

theorem execMeterConfig_keeps (h : Nat) (run : EnvelopeRun) {s t : State} (he : execMeterConfig h run s = .next t) : Keeps s t := by
  cases he
  have hk := Keeps.refl s
  repeat' first
    | with_reducible assumption
    | with_reducible exact keeps_meterSpec
    | with_reducible apply keeps_envelopeEntry

theorem execTimeSet_keeps (h : Nat) (run : EnvelopeRun) {s t : State} (he : execTimeSet h run s = .next t) : Keeps s t := by
  cases he
  have hk := Keeps.refl s
  repeat' first
    | with_reducible assumption
    | with_reducible exact keeps_timeSpec
    | with_reducible apply keeps_envelopeEntry

theorem execFlashLayout_keeps (h : Nat) (run : EnvelopeRun) {s t : State} (he : execFlashLayout h run s = .next t) : Keeps s t := by
  cases he
  have hk := Keeps.refl s
  repeat' first
    | with_reducible assumption
    | with_reducible exact keeps_layoutSpec
    | with_reducible apply keeps_envelopeEntry

theorem execReferenceSet_keeps (h : Nat) (run : EnvelopeRun) {s t : State} (he : execReferenceSet h run s = .next t) : Keeps s t := by
  cases he
  have hk := Keeps.refl s
  repeat' first
    | with_reducible assumption
    | with_reducible exact keeps_referenceSpec
    | with_reducible apply keeps_envelopeEntry

theorem execKeyImport_keeps (h : Nat) (run : EnvelopeRun) {s t : State} (he : execKeyImport h run s = .next t) : Keeps s t := by
  cases he
  have hk := Keeps.refl s
  repeat' first
    | with_reducible assumption
    | with_reducible exact keeps_importSpec
    | with_reducible apply keeps_envelopeEntry

theorem execKeyGenerate_keeps (h : Nat) (run : EnvelopeRun) {s t : State} (he : execKeyGenerate h run s = .next t) : Keeps s t := by
  cases he
  have hk := Keeps.refl s
  repeat' first
    | with_reducible assumption
    | with_reducible exact keeps_generateSpec
    | with_reducible apply keeps_envelopeEntry

theorem execKeyReplace_keeps (h : Nat) (run : EnvelopeRun) {s t : State} (he : execKeyReplace h run s = .next t) : Keeps s t := by
  cases he
  have hk := Keeps.refl s
  repeat' first
    | with_reducible assumption
    | with_reducible exact keeps_replaceSpec
    | with_reducible apply keeps_envelopeEntry

theorem execKeyDestroy_keeps (h : Nat) (run : EnvelopeRun) {s t : State} (he : execKeyDestroy h run s = .next t) : Keeps s t := by
  cases he
  have hk := Keeps.refl s
  repeat' first
    | with_reducible assumption
    | with_reducible exact keeps_destroyKeySpec
    | with_reducible apply keeps_envelopeEntry

theorem execSealPolicy_keeps (h : Nat) (run : EnvelopeRun) {s t : State} (he : execSealPolicy h run s = .next t) : Keeps s t := by
  cases he
  have hk := Keeps.refl s
  repeat' first
    | with_reducible assumption
    | with_reducible exact keeps_sealSpec
    | with_reducible apply keeps_envelopeEntry

theorem execDebugUnlock_keeps (h : Nat) (run : EnvelopeRun) {s t : State} (he : execDebugUnlock h run s = .next t) : Keeps s t := by
  cases he
  have hk := Keeps.refl s
  repeat' first
    | with_reducible assumption
    | with_reducible exact keeps_unlockSpec
    | with_reducible apply keeps_envelopeEntry

theorem execRecoveryAuth_keeps (h : Nat) (run : EnvelopeRun) {s t : State} (he : execRecoveryAuth h run s = .next t) : Keeps s t := by
  cases he
  have hk := Keeps.refl s
  repeat' first
    | with_reducible assumption
    | with_reducible exact keeps_authSpec
    | with_reducible apply keeps_envelopeEntry

theorem execReRoot_keeps (h : Nat) (run : EnvelopeRun) {s t : State} (he : execReRoot h run s = .next t) : Keeps s t := by
  cases he
  have hk := Keeps.refl s
  repeat' first
    | with_reducible assumption
    | with_reducible exact keeps_rootSpec
    | with_reducible apply keeps_envelopeEntry

theorem execKeyLoadDone_keeps (d handle : Nat) {s t : State} (he : execKeyLoadDone d handle s = .next t) : Keeps s t := by
  cases he
  have hk := Keeps.refl s
  repeat' first
    | with_reducible assumption
    | with_reducible apply keeps_settleHeld
    | with_reducible apply keeps_finishLoad
    | with_reducible apply keeps_ite
    | exact (fun _ h => h)
    | (intro _ _ _ _)
    | (intro _ _ _)
    | (intro _ _)
    | (intro _; rfl)
    | dsimp only

theorem execDeviceFullReset_keeps (b : BootEnv) {s t : State} (he : execDeviceFullReset b s = .next t) : Keeps s t := by
  cases he
  have hk := Keeps.refl s
  repeat' first
    | with_reducible assumption
    | with_reducible apply keeps_deviceReset

theorem execPowerOnReset_keeps  {s t : State} (he : execPowerOnReset s = .next t) : Keeps s t := by
  cases he
  have hk := Keeps.refl s
  repeat' first
    | with_reducible assumption
    | with_reducible apply keeps_powerOn

theorem execPorRelease_keeps (b : BootEnv) {s t : State} (he : execPorRelease b s = .next t) : Keeps s t := by
  cases he
  have hk := Keeps.refl s
  repeat' first
    | with_reducible assumption
    | with_reducible apply keeps_bootSteps
    | with_reducible apply keeps_sampleStraps
    | with_reducible apply keeps_setStraps
    | with_reducible apply keeps_ite
    | exact (fun _ h => h)
    | (intro _ _ _ _)
    | (intro _ _ _)
    | (intro _ _)
    | (intro _; rfl)
    | dsimp only
    | (with_reducible refine keeps_mk ?_ rfl rfl rfl ?_ ?_ ?_ ?_ ?_ ?_ ?_ ?_ ?_ ?_ ?_ ?_ ?_ ?_ <;> first | assumption | rfl | exact id | exact assocWf_clear _ _ | (simp; done) | skip)

theorem execPllLockRetry_keeps (b : BootEnv) {s t : State} (he : execPllLockRetry b s = .next t) : Keeps s t := by
  cases he
  have hk := Keeps.refl s
  repeat' first
    | with_reducible assumption
    | with_reducible apply keeps_bootSteps
    | with_reducible apply keeps_ite

theorem execBootComplete_keeps  {s t : State} (he : execBootComplete s = .next t) : Keeps s t := by
  cases he
  have hk := Keeps.refl s
  repeat' first
    | with_reducible assumption
    | with_reducible apply keeps_enterMode
    | with_reducible apply keeps_ite

theorem execHrstRelease_keeps (p : Port) {s t : State} (he : execHrstRelease p s = .next t) : Keeps s t := by
  cases he
  have hk := Keeps.refl s
  repeat' first
    | with_reducible assumption
    | with_reducible apply keeps_modPort
    | with_reducible apply keeps_ite

theorem execPfailAssert_keeps  {s t : State} (he : execPfailAssert s = .next t) : Keeps s t := by
  cases he
  have hk := Keeps.refl s
  repeat' first
    | with_reducible assumption
    | with_reducible apply keeps_pfailAssert

theorem execPfailRelease_keeps  {s t : State} (he : execPfailRelease s = .next t) : Keeps s t := by
  cases he
  have hk := Keeps.refl s
  repeat' first
    | with_reducible assumption
    | with_reducible apply keeps_pfailRelease

theorem execBrownoutWarning_keeps (completes : Bool) {s t : State} (he : execBrownoutWarning completes s = .next t) : Keeps s t := by
  cases he
  have hk := Keeps.refl s
  repeat' first
    | with_reducible assumption
    | with_reducible apply keeps_checkpoint
    | with_reducible apply keeps_ite

theorem execBackupSwitchover_keeps (auxMv : Nat) {s t : State} (he : execBackupSwitchover auxMv s = .next t) : Keeps s t := by
  cases he
  have hk := Keeps.refl s
  repeat' first
    | with_reducible assumption
    | with_reducible apply keeps_ite
    | (intro _ _ _)
    | (intro _ _)
    | (intro _; rfl)
    | dsimp only
    | (with_reducible refine keeps_mk ?_ rfl rfl rfl ?_ ?_ ?_ ?_ ?_ ?_ ?_ ?_ ?_ ?_ ?_ ?_ ?_ ?_ <;> first | assumption | rfl | exact id | exact assocWf_clear _ _ | (simp; done) | skip)

theorem execVddioHpLoss_keeps  {s t : State} (he : execVddioHpLoss s = .next t) : Keeps s t := by
  cases he
  have hk := Keeps.refl s
  repeat' first
    | with_reducible assumption
    | with_reducible apply keeps_hpLoss

theorem execVddioHpReturn_keeps  {s t : State} (he : execVddioHpReturn s = .next t) : Keeps s t := by
  cases he
  have hk := Keeps.refl s
  repeat' first
    | with_reducible assumption
    | with_reducible apply keeps_foldl
    | with_reducible apply keeps_warmReset
    | with_reducible apply keeps_ite
    | exact (fun _ h => h)
    | (intro _ _ _ _)
    | (intro _ _ _)
    | (intro _ _)
    | (intro _; rfl)
    | dsimp only
    | (with_reducible refine keeps_mk ?_ rfl rfl rfl ?_ ?_ ?_ ?_ ?_ ?_ ?_ ?_ ?_ ?_ ?_ ?_ ?_ ?_ <;> first | assumption | rfl | exact id | exact assocWf_clear _ _ | (simp; done) | skip)

theorem execVddioMpLoss_keeps  {s t : State} (he : execVddioMpLoss s = .next t) : Keeps s t := by
  cases he
  have hk := Keeps.refl s
  repeat' first
    | with_reducible assumption
    | with_reducible apply keeps_breakOff
    | with_reducible apply keeps_raise
    | with_reducible apply keeps_ite
    | exact (fun _ h => h)
    | (intro _ _ _ _)
    | (intro _ _ _)
    | (intro _ _)
    | (intro _; rfl)
    | dsimp only
    | (with_reducible refine keeps_mk ?_ rfl rfl rfl ?_ ?_ ?_ ?_ ?_ ?_ ?_ ?_ ?_ ?_ ?_ ?_ ?_ ?_ <;> first | assumption | rfl | exact id | exact assocWf_clear _ _ | (simp; done) | skip)

theorem execVddioMpReturn_keeps (equalBytes _wip reentryOk : Bool) {s t : State} (he : execVddioMpReturn equalBytes _wip reentryOk s = .next t) : Keeps s t := by
  cases he
  have hk := Keeps.refl s
  repeat' first
    | with_reducible assumption
    | with_reducible apply keeps_checkConfig
    | with_reducible apply keeps_ite
    | exact (fun _ h => h)
    | (intro _ _ _ _)
    | (intro _ _ _)
    | (intro _ _)
    | (intro _; rfl)
    | dsimp only
    | (with_reducible refine keeps_mk ?_ rfl rfl rfl ?_ ?_ ?_ ?_ ?_ ?_ ?_ ?_ ?_ ?_ ?_ ?_ ?_ ?_ <;> first | assumption | rfl | exact id | exact assocWf_clear _ _ | (simp; done) | skip)

theorem execLowBatteryCheck_keeps (vbatMv : Nat) {s t : State} (he : execLowBatteryCheck vbatMv s = .next t) : Keeps s t := by
  cases he
  have hk := Keeps.refl s
  repeat' first
    | with_reducible assumption
    | with_reducible apply keeps_raise
    | with_reducible apply keeps_ite

theorem execSpreadCfgWrite_keeps (p : Port) (k : Link) (depth : BitVec 2) {s t : State} (he : execSpreadCfgWrite p k depth s = .next t) : Keeps s t := by
  cases he
  have hk := Keeps.refl s
  repeat' first
    | with_reducible assumption
    | with_reducible apply keeps_regFrame

theorem execSpreadApplied_keeps  {s t : State} (he : execSpreadApplied s = .next t) : Keeps s t := by
  cases he
  have hk := Keeps.refl s
  repeat' first
    | with_reducible assumption
    | (intro _ _ _)
    | (intro _ _)
    | (intro _; rfl)
    | dsimp only
    | (with_reducible refine keeps_mk ?_ rfl rfl rfl ?_ ?_ ?_ ?_ ?_ ?_ ?_ ?_ ?_ ?_ ?_ ?_ ?_ ?_ <;> first | assumption | rfl | exact id | exact assocWf_clear _ _ | (simp; done) | skip)

theorem execSlewCfgWrite_keeps (p : Port) (k : Link) (v : BitVec 20) {s t : State} (he : execSlewCfgWrite p k v s = .next t) : Keeps s t := by
  cases he
  have hk := Keeps.refl s
  repeat' first
    | with_reducible assumption
    | with_reducible apply keeps_regFrame

theorem execWinCacheInvalidate_keeps (p : Port) (k : Link) (xipWays : BitVec 4) (depth : BitVec 4) {s t : State} (he : execWinCacheInvalidate p k xipWays depth s = .next t) : Keeps s t := by
  cases he
  have hk := Keeps.refl s
  repeat' first
    | with_reducible assumption
    | with_reducible apply keeps_regFrame

theorem execTimeTrim_keeps (p : Port) (k : Link) (delta : BitVec 18) {s t : State} (he : execTimeTrim p k delta s = .next t) : Keeps s t := by
  cases he
  have hk := Keeps.refl s
  repeat' first
    | with_reducible assumption
    | with_reducible apply keeps_regFrame

theorem execCkptNow_keeps (p : Port) (k : Link) {s t : State} (he : execCkptNow p k s = .next t) : Keeps s t := by
  cases he
  have hk := Keeps.refl s
  repeat' first
    | with_reducible assumption
    | with_reducible apply keeps_regFrame

theorem execTamperArmWrite_keeps (p : Port) (k : Link) (v : BitVec 9) {s t : State} (he : execTamperArmWrite p k v s = .next t) : Keeps s t := by
  cases he
  have hk := Keeps.refl s
  repeat' first
    | with_reducible assumption
    | with_reducible apply keeps_regFrame

theorem execPdPolicyWrite_keeps (p : Port) (k : Link) (w : Fin 7) (v : Word) {s t : State} (he : execPdPolicyWrite p k w v s = .next t) : Keeps s t := by
  cases he
  have hk := Keeps.refl s
  repeat' first
    | with_reducible assumption
    | with_reducible apply keeps_regFrame

theorem execEventClear_keeps (p : Port) (k : Link) (b : Fin 21) (mask : BitVec 8) {s t : State} (he : execEventClear p k b mask s = .next t) : Keeps s t := by
  cases he
  have hk := Keeps.refl s
  repeat' first
    | with_reducible assumption
    | with_reducible apply keeps_regFrame

theorem execForceStop_keeps (p : Port) (k : Link) (on : Bool) (rate : BitVec 3) {s t : State} (he : execForceStop p k on rate s = .next t) : Keeps s t := by
  cases he
  have hk := Keeps.refl s
  repeat' first
    | with_reducible assumption
    | with_reducible apply keeps_regFrame

theorem execWdtEnable_keeps (p : Port) (k : Link) (action : BitVec 2) {s t : State} (he : execWdtEnable p k action s = .next t) : Keeps s t := by
  cases he
  have hk := Keeps.refl s
  repeat' first
    | with_reducible assumption
    | with_reducible apply keeps_regFrame

theorem execWdtDisable_keeps (p : Port) (k : Link) (action : BitVec 2) {s t : State} (he : execWdtDisable p k action s = .next t) : Keeps s t := by
  cases he
  have hk := Keeps.refl s
  repeat' first
    | with_reducible assumption
    | with_reducible apply keeps_regFrame

theorem execWdtSvc_keeps (p : Port) (k : Link) (key : Word) (b : BootEnv) {s t : State} (he : execWdtSvc p k key b s = .next t) : Keeps s t := by
  cases he
  have hk := Keeps.refl s
  repeat' first
    | with_reducible assumption
    | with_reducible apply keeps_fatalReset
    | with_reducible apply keeps_regFrame

theorem execWdtTimeout_keeps (p : Port) (b : BootEnv) {s t : State} (he : execWdtTimeout p b s = .next t) : Keeps s t := by
  cases he
  have hk := Keeps.refl s
  repeat' first
    | with_reducible assumption
    | with_reducible apply keeps_wdtTimeout

theorem execWdtLockSet_keeps (p : Port) (k : Link) (q : Port) (action : BitVec 2) {s t : State} (he : execWdtLockSet p k q action s = .next t) : Keeps s t := by
  cases he
  have hk := Keeps.refl s
  repeat' first
    | with_reducible assumption
    | with_reducible apply keeps_regFrame

theorem execWdtLockClear_keeps (p : Port) (k : Link) (q : Port) (action : BitVec 2) {s t : State} (he : execWdtLockClear p k q action s = .next t) : Keeps s t := by
  cases he
  have hk := Keeps.refl s
  repeat' first
    | with_reducible assumption
    | with_reducible apply keeps_regFrame

theorem execSeqWdtExpire_keeps (b : BootEnv) {s t : State} (he : execSeqWdtExpire b s = .next t) : Keeps s t := by
  cases he
  have hk := Keeps.refl s
  repeat' first
    | with_reducible assumption
    | with_reducible apply keeps_watchdogReset

theorem execReactionEnd_keeps (blk : Fin 21) {s t : State} (he : execReactionEnd blk s = .next t) : Keeps s t := by
  cases he
  have hk := Keeps.refl s
  repeat' first
    | with_reducible assumption
    | with_reducible apply keeps_endReaction

theorem execClockGlitch_keeps (detail : Fin 3) {s t : State} (he : execClockGlitch detail s = .next t) : Keeps s t := by
  cases he
  have hk := Keeps.refl s
  repeat' first
    | with_reducible assumption
    | with_reducible apply keeps_glitchAlarm
    | with_reducible apply keeps_ite

theorem execSupplyGlitch_keeps (detail : Fin 2) {s t : State} (he : execSupplyGlitch detail s = .next t) : Keeps s t := by
  cases he
  have hk := Keeps.refl s
  repeat' first
    | with_reducible assumption
    | with_reducible apply keeps_glitchAlarm
    | with_reducible apply keeps_ite

theorem execParityFault_keeps (e : Fin 36) {s t : State} (he : execParityFault e s = .next t) : Keeps s t := by
  cases he
  have hk := Keeps.refl s
  repeat' first
    | with_reducible assumption
    | with_reducible apply keeps_parityFault

theorem execRtcStop_keeps  {s t : State} (he : execRtcStop s = .next t) : Keeps s t := by
  cases he
  have hk := Keeps.refl s
  repeat' first
    | with_reducible assumption
    | with_reducible apply keeps_rtcStop

theorem execMeshTrip_keeps (pin : Fin 4) {s t : State} (he : execMeshTrip pin s = .next t) : Keeps s t := by
  cases he
  have hk := Keeps.refl s
  repeat' first
    | with_reducible assumption
    | with_reducible apply keeps_meshTrip

theorem execLidTrip_keeps (sw : Fin 2) {s t : State} (he : execLidTrip sw s = .next t) : Keeps s t := by
  cases he
  have hk := Keeps.refl s
  repeat' first
    | with_reducible assumption
    | with_reducible apply keeps_lidTrip

theorem execLightTrip_keeps {s t : State} (he : execLightTrip s = .next t) : Keeps s t := by
  obtain rfl : tamper 2 0 s = t := Host.Outcome.next.inj he
  exact keeps_tamper _ _ (Keeps.refl s)

theorem execTempTamperTrip_keeps (high : Bool) {s t : State} (he : execTempTamperTrip high s = .next t) : Keeps s t := by
  cases he
  have hk := Keeps.refl s
  repeat' first
    | with_reducible assumption
    | with_reducible apply keeps_tamper
    | with_reducible apply keeps_ite

theorem execVbatUvTrip_keeps (nodeMv : Nat) {s t : State} (he : execVbatUvTrip nodeMv s = .next t) : Keeps s t := by
  cases he
  have hk := Keeps.refl s
  repeat' first
    | with_reducible assumption
    | with_reducible apply keeps_tamper
    | with_reducible apply keeps_ite

theorem execGlitchTamperTrip_keeps (stopped : Bool) {s t : State} (he : execGlitchTamperTrip stopped s = .next t) : Keeps s t := by
  cases he
  have hk := Keeps.refl s
  repeat' first
    | with_reducible assumption
    | with_reducible apply keeps_tamper
    | with_reducible apply keeps_ite

theorem execFiFire_keeps (p : Port) (k : Link) (react : Bool) {s t : State} (he : execFiFire p k react s = .next t) : Keeps s t := by
  cases he
  have hk := Keeps.refl s
  repeat' first
    | with_reducible assumption
    | with_reducible apply keeps_regFrame

theorem execFiEccGo_keeps (p : Port) (k : Link) (bits : BitVec 2) {s t : State} (he : execFiEccGo p k bits s = .next t) : Keeps s t := by
  cases he
  have hk := Keeps.refl s
  repeat' first
    | with_reducible assumption
    | with_reducible apply keeps_regFrame

theorem execXselFall_keeps  {s t : State} (he : execXselFall s = .next t) : Keeps s t := by
  cases he
  have hk := Keeps.refl s
  repeat' first
    | with_reducible assumption
    | with_reducible apply keeps_xselFall

theorem execXselBackoffEnd_keeps (equalBytes : Bool) (_wip : Bool) (reentryOk : Bool) {s t : State} (he : execXselBackoffEnd equalBytes _wip reentryOk s = .next t) : Keeps s t := by
  cases he
  have hk := Keeps.refl s
  repeat' first
    | with_reducible assumption
    | with_reducible apply keeps_checkConfig
    | with_reducible apply keeps_ite
    | (intro _ _ _)
    | (intro _ _)
    | (intro _; rfl)
    | dsimp only
    | (with_reducible refine keeps_mk ?_ rfl rfl rfl ?_ ?_ ?_ ?_ ?_ ?_ ?_ ?_ ?_ ?_ ?_ ?_ ?_ ?_ <;> first | assumption | rfl | exact id | exact assocWf_clear _ _ | (simp; done) | skip)

theorem execHoldLimit_keeps (overMs : Bool) {s t : State} (he : execHoldLimit overMs s = .next t) : Keeps s t := by
  cases he
  have hk := Keeps.refl s
  repeat' first
    | with_reducible assumption
    | with_reducible apply keeps_holdLimit
    | with_reducible apply keeps_ite
    | exact (fun _ h => h)
    | (intro _ _ _ _)
    | (intro _ _ _)
    | (intro _ _)
    | (intro _; rfl)
    | dsimp only

theorem execMpTransactionDone_keeps  {s t : State} (he : execMpTransactionDone s = .next t) : Keeps s t := by
  cases he
  have hk := Keeps.refl s
  repeat' first
    | with_reducible assumption
    | with_reducible apply keeps_transactionDone

theorem execFlashStatusPoll_keeps (equalBytes : Bool) (wip : Bool) (verifyOk : Bool) (reentryOk : Bool) {s t : State} (he : execFlashStatusPoll equalBytes wip verifyOk reentryOk s = .next t) : Keeps s t := by
  cases he
  have hk := Keeps.refl s
  repeat' first
    | with_reducible assumption
    | with_reducible apply keeps_statusPoll

theorem execFlashOpTimeout_keeps  {s t : State} (he : execFlashOpTimeout s = .next t) : Keeps s t := by
  cases he
  have hk := Keeps.refl s
  repeat' first
    | with_reducible assumption
    | with_reducible apply keeps_beginNext
    | with_reducible apply keeps_failOp
    | with_reducible apply keeps_ite
    | exact (fun _ h => h)
    | (intro _ _ _ _)
    | (intro _ _ _)
    | (intro _ _)
    | (intro _; rfl)
    | split
    | dsimp only

theorem execTongsBackfill_keeps  {s t : State} (he : execTongsBackfill s = .next t) : Keeps s t := by
  cases he
  have hk := Keeps.refl s
  repeat' first
    | with_reducible assumption
    | with_reducible apply keeps_backfill

theorem execEngineStateClear_keeps (e : Fin 8) (cause : ClearCause) {s t : State} (he : execEngineStateClear e cause s = .next t) : Keeps s t := by
  cases he
  have hk := Keeps.refl s
  repeat' first
    | with_reducible assumption
    | with_reducible apply keeps_clearEngine

theorem execScrubPass_keeps (errs : List (Nat × Nat)) {s t : State} (he : execScrubPass errs s = .next t) : Keeps s t := by
  cases he
  have hk := Keeps.refl s
  repeat' first
    | with_reducible assumption
    | with_reducible apply keeps_scrubPass

theorem execScrubLate_keeps  {s t : State} (he : execScrubLate s = .next t) : Keeps s t := by
  cases he
  have hk := Keeps.refl s
  repeat' first
    | with_reducible assumption
    | with_reducible apply keeps_raise

theorem execCorrectionWriteback_keeps (addr : Nat) {s t : State} (he : execCorrectionWriteback addr s = .next t) : Keeps s t := by
  cases he
  have hk := Keeps.refl s
  repeat' first
    | with_reducible assumption
    | with_reducible apply keeps_writebackEffect

theorem execRowRemap_keeps (bank : Nat) (row : Nat) {s t : State} (he : execRowRemap bank row s = .next t) : Keeps s t := by
  cases he
  have hk := Keeps.refl s
  repeat' first
    | with_reducible assumption
    | with_reducible apply keeps_remapEffect

theorem execWhiskPass_keeps (shareOk : Bool) (slotErrs : List Nat) (ms : Nat) {s t : State} (he : execWhiskPass shareOk slotErrs ms s = .next t) : Keeps s t := by
  cases he
  have hk := Keeps.refl s
  repeat' first
    | with_reducible assumption
    | with_reducible apply keeps_whiskRun

theorem execWhiskStall_keeps  {s t : State} (he : execWhiskStall s = .next t) : Keeps s t := by
  cases he
  have hk := Keeps.refl s
  repeat' first
    | with_reducible assumption
    | with_reducible apply keeps_raise
    | with_reducible apply keeps_ite

theorem execIdleFlush_keeps  {s t : State} (he : execIdleFlush s = .next t) : Keeps s t := by
  cases he
  have hk := Keeps.refl s
  repeat' first
    | with_reducible assumption
    | with_reducible apply keeps_emptyStore
    | with_reducible apply keeps_ite
    | exact (fun _ h => h)
    | (intro _ _ _ _)
    | (intro _ _ _)
    | (intro _ _)
    | (intro _; rfl)
    | dsimp only

theorem execDrbgReseed_keeps  {s t : State} (he : execDrbgReseed s = .next t) : Keeps s t := by
  cases he
  have hk := Keeps.refl s
  repeat' first
    | with_reducible assumption
    | with_reducible apply keeps_drbgReseed
    | with_reducible apply keeps_ite

theorem execRngHealthFail_keeps  {s t : State} (he : execRngHealthFail s = .next t) : Keeps s t := by
  cases he
  have hk := Keeps.refl s
  repeat' first
    | with_reducible assumption
    | with_reducible apply keeps_rngFail

theorem execRngRestartDone_keeps (pass : Bool) {s t : State} (he : execRngRestartDone pass s = .next t) : Keeps s t := by
  cases he
  have hk := Keeps.refl s
  repeat' first
    | with_reducible assumption
    | with_reducible apply keeps_rngRestarted

theorem execMeterBoundary_keeps  {s t : State} (he : execMeterBoundary s = .next t) : Keeps s t := by
  cases he
  have hk := Keeps.refl s
  repeat' first
    | with_reducible assumption
    | with_reducible apply keeps_meterBoundary

theorem execMeterCounterWrite_keeps (d : Nat) {s t : State} (he : execMeterCounterWrite d s = .next t) : Keeps s t := by
  cases he
  have hk := Keeps.refl s
  repeat' first
    | with_reducible assumption
    | with_reducible apply keeps_saveCounters

theorem execTjSample_keeps (tj : Int) {s t : State} (he : execTjSample tj s = .next t) : Keeps s t := by
  cases he
  have hk := Keeps.refl s
  repeat' first
    | with_reducible assumption
    | with_reducible apply keeps_tjCritical
    | with_reducible apply keeps_tjThrottle
    | (intro _ _ _)
    | (intro _ _)
    | (intro _; rfl)
    | dsimp only
    | (with_reducible refine keeps_mk ?_ rfl rfl rfl ?_ ?_ ?_ ?_ ?_ ?_ ?_ ?_ ?_ ?_ ?_ ?_ ?_ ?_ <;> first | assumption | rfl | exact id | exact assocWf_clear _ _ | (simp; done) | skip)

theorem execIdleGate_keeps (pd : Fin 50) {s t : State} (he : execIdleGate pd s = .next t) : Keeps s t := by
  cases he
  have hk := Keeps.refl s
  repeat' first
    | with_reducible assumption
    | with_reducible apply keeps_idleGate

theorem execDomainGated_keeps (pd : Fin 50) {s t : State} (he : execDomainGated pd s = .next t) : Keeps s t := by
  cases he
  have hk := Keeps.refl s
  repeat' first
    | with_reducible assumption
    | with_reducible apply keeps_gateDomain

theorem execHoldWake_keeps (h : Nat) {s t : State} (he : execHoldWake h s = .next t) : Keeps s t := by
  cases he
  have hk := Keeps.refl s
  repeat' first
    | with_reducible assumption
    | with_reducible apply keeps_holdWake

theorem execBankPrewake_keeps (ring : BitVec 16) {s t : State} (he : execBankPrewake ring s = .next t) : Keeps s t := by
  cases he
  have hk := Keeps.refl s
  repeat' first
    | with_reducible assumption
    | with_reducible apply keeps_bankPrewake

theorem execDomainWakeDone_keeps (pd : Fin 50) (pass : Bool) {s t : State} (he : execDomainWakeDone pd pass s = .next t) : Keeps s t := by
  cases he
  have hk := Keeps.refl s
  repeat' first
    | with_reducible assumption
    | with_reducible apply keeps_wakeDone

theorem execWakeTimeout_keeps (pd : Fin 50) {s t : State} (he : execWakeTimeout pd s = .next t) : Keeps s t := by
  cases he
  have hk := Keeps.refl s
  repeat' first
    | with_reducible assumption
    | with_reducible apply keeps_wakeTimeout

theorem execFenceRetest_keeps (e : Fin 36) {s t : State} (he : execFenceRetest e s = .next t) : Keeps s t := by
  cases he
  have hk := Keeps.refl s
  repeat' first
    | with_reducible assumption
    | with_reducible apply keeps_fenceRetest

theorem execCapWait_keeps (h : Nat) {s t : State} (he : execCapWait h s = .next t) : Keeps s t := by
  cases he
  have hk := Keeps.refl s
  repeat' first
    | with_reducible assumption
    | with_reducible apply keeps_capWait

theorem execUnknownOpcodeFrame_keeps (p : Port) (k : Link) (opcode : Byte) {s t : State} (he : execUnknownOpcodeFrame p k opcode s = .next t) : Keeps s t := by
  cases he
  have hk := Keeps.refl s
  repeat' first
    | with_reducible assumption
    | with_reducible apply keeps_nativeFrame

theorem execXselRise_keeps (heldUs : Nat) (foreign : List (Nat × Byte)) {s t : State} (he : execXselRise heldUs foreign s = .next t) : Keeps s t := by
  cases he
  have hk := Keeps.refl s
  repeat' first
    | with_reducible assumption
    | with_reducible apply keeps_xselRise

theorem execRtcResume_keeps  {s t : State} (he : execRtcResume s = .next t) : Keeps s t := by
  cases he
  have hk := Keeps.refl s
  repeat' first
    | with_reducible assumption
    | (intro _ _ _)
    | (intro _ _)
    | (intro _; rfl)
    | dsimp only
    | (with_reducible refine keeps_mk ?_ rfl rfl rfl ?_ ?_ ?_ ?_ ?_ ?_ ?_ ?_ ?_ ?_ ?_ ?_ ?_ ?_ <;> first | assumption | rfl | exact id | exact assocWf_clear _ _ | (simp; done) | skip)

theorem execJtagTapOperation_keeps (op : TapOp) {s t : State} (he : execJtagTapOperation op s = .next t) : Keeps s t := by
  cases he
  have hk := Keeps.refl s
  repeat' first
    | with_reducible assumption
    | with_reducible apply keeps_tapStep

theorem execQueuedWakeStart_keeps  {s t : State} (he : execQueuedWakeStart s = .next t) : Keeps s t := by
  cases he
  have hk := Keeps.refl s
  repeat' first
    | with_reducible assumption
    | with_reducible apply keeps_startQueued

/-- BACKUP_NODE_POWER_UP keeps all of it but the time, which starts again at zero. -/
theorem execBackupNodePowerUp_forms (b : BootEnv) {s t : State} (he : execBackupNodePowerUp b s = .next t) :
    (Canonical s → Canonical t) ∧ (Shape s → Shape t) ∧ t.pending = s.pending ∧ (s.board.scrapFuse = true → t.board.scrapFuse = true) := by
  obtain rfl : (if s.board.porHigh then fullReset 0 b (lostNode s) else powerOn (lostNode s)) = t := Host.Outcome.next.inj he
  have h0 := lostNode_forms (s := s)
  have hk : Keeps (lostNode s) (if s.board.porHigh then fullReset 0 b (lostNode s) else powerOn (lostNode s)) :=
    keeps_ite (keeps_fullReset _ _ (Keeps.refl _)) (keeps_powerOn (Keeps.refl _))
  exact ⟨fun c => hk.1 (h0.1 c), fun c => hk.2.1 (h0.2.1 c), hk.2.2.1.trans h0.2.2.1, fun c => hk.2.2.2.1 c⟩

end Sys2Proof.Laws
end

