-- ==== Sys2Proof/Laws/Time.lean ====
section
/-! SUPPORT. What passing time does: the clock moves to the tick, and with no boundary on the way nothing else changes. -/

namespace Sys2Proof.Laws

open Sys2Proof.Machine

theorem passTime_quiet {t : Nat} {s : State} (h : boundaryDue t s = false) : ∀ f, passTime f t s = { s with mono := max s.mono t }
  | 0 => rfl
  | f + 1 => by simp [passTime, h]

/-- Time in which no boundary falls moves the clock alone (R346). -/
theorem elapseTo_quiet {t : Nat} {s : State} (h : boundaryDue t s = false) : elapseTo t s = { s with mono := max s.mono t } :=
  passTime_quiet h _

theorem passTime_mono (t : Nat) : ∀ (f : Nat) (s : State), t ≤ (passTime f t s).mono
  | 0, _ => Nat.le_max_right _ _
  | f + 1, s => by
    rw [passTime]
    split
    · exact passTime_mono t f _
    · exact Nat.le_max_right _ _

/-- After passing time the clock has reached the tick, or was past it (R346). -/
theorem elapseTo_mono (t : Nat) (s : State) : t ≤ (elapseTo t s).mono := passTime_mono t _ _

end Sys2Proof.Laws
end

