-- ==== Sys2Proof/Machine/Larder.lean ====
section
/-! DEFINITION. What the PSRAM holds: the encrypted Larder lines, their tags, and the check every line read makes (R364 to R367). -/

namespace Sys2Proof.Machine

/-- The tag key TK (R365): from the boot key, label `SP6516 LARDER TAG`, an empty context. -/
def larderTagKey (root bootId : Bytes) : Bytes := kdf (bootKey root bootId) "SP6516 LARDER TAG" [] 32
/-- The number of the Larder line an address lies in (R365). -/
def lineIndex (a : Nat) : Nat := (a - 0x10000000) / 256
/-- Encrypt (`false`) or decrypt (`true`) one line: XTS-AES-256, the line one data unit, its number the tweak (R365). -/
def lineCipher (dec : Bool) (key : Bytes) (i : Nat) (b : Bytes) : Bytes := xtsUnit dec key (toLe 16 i) b
/-- The tag of line `i` with these ciphertext octets (R365). -/
def lineTag (tk : Bytes) (i : Nat) (c : Bytes) : Bytes := (cmac tk (toLe 4 i ++ c)).take 8
/-- The tag a poisoned line carries (R365). -/
def poisonTag (tk : Bytes) (i : Nat) : Bytes := (cmac tk (toLe 4 i ++ ascii "POISONED")).take 8

/-- What the check of a line read from the PSRAM finds (R366): its octets, a poisoned line, or an uncorrectable error. -/
inductive LineCheck where
  | data (b : Bytes)
  | poisoned
  | failed
  deriving DecidableEq, Repr
/-- The check every Larder read makes on a line (R366). -/
def checkLine (key tk : Bytes) (i : Nat) (c tag : Bytes) : LineCheck :=
  if tag = poisonTag tk i then .poisoned
  else if tag = lineTag tk i c then .data (lineCipher true key i c)
  else .failed

/-- Octets of the PSRAM fitted (R364). -/
def psramOctets (s : State) : Nat := s.mem.larderMB * 0x100000
/-- PSRAM address of the tag of line `i` (R365). -/
def tagAddr (s : State) (i : Nat) : Nat := psramOctets s / 32 * 31 + 8 * i
/-- The PSRAM holds the line as the device left it: written in this boot, no octet of it waiting in the write buffer (R367, R368). -/
def lineStored (s : State) (u : Nat) : Bool :=
  s.mem.written.contains u && s.mem.buffer.all (fun c => decide (c.1 + c.2 ≤ u) || decide (u + 256 ≤ c.1))
/-- The ciphertext the PSRAM holds for a stored line (R365). -/
def storedCipher (s : State) (u : Nat) : Bytes :=
  lineCipher false (larderKey s.thermos.drs s.boot.bootId) (lineIndex u) (memRead 0 s.mem.larder u 256)
/-- The tag the PSRAM holds for a stored line (R365, R366). -/
def storedTag (s : State) (u : Nat) : Bytes :=
  let tk := larderTagKey s.thermos.drs s.boot.bootId
  if s.mem.poison.contains u then poisonTag tk (lineIndex u) else lineTag tk (lineIndex u) (storedCipher s u)
/-- An octet of the PSRAM: the stored lines' ciphertext below 31/32 of it, their tags above. What a line holds that the device has not
left there, or that failed its check since, is a free value (DESIGN CHOICE, log entry 99). -/
def psramOctet (s : State) (a : Nat) : Byte :=
  let low := decide (a < psramOctets s / 32 * 31)
  let i := if low then a / 256 else (a - psramOctets s / 32 * 31) / 8
  let u := 0x10000000 + 256 * i
  if lineStored s u && !s.mem.badTags.contains u then
    if low then (if s.mem.poison.contains u then Config.psramByte a s.mono else (storedCipher s u).getD (a % 256) 0)
    else (storedTag s u).getD (a % 8) 0
  else Config.psramByte a s.mono

end Sys2Proof.Machine
end

