-- ==== Sys2Proof/Machine/Thermos.lean ====
section
/-! DEFINITION. The octets of the Thermos: every record of its map with its check (R295, R308, R309, R350, R357, R452). -/

namespace Sys2Proof.Machine

/-- A record of `n` octets: its fields, reserved octets zero, a CRC-32 in the last four. -/
def crcRecord (n : Nat) (b : Bytes) : Bytes :=
  let v := (b ++ zeros n).take (n - 4)
  v ++ toLe 4 (crc32 v)
/-- A bit field of a record, from bit 0. -/
def bitsOf (l : List Bool) : Nat := (l.zipIdx.map (fun c => b2n c.1 * 2 ^ c.2)).sum
/-- A signed number of `n` octets. -/
def toLeInt (n : Nat) (i : Int) : Bytes := toLe n (i % (2 ^ (8 * n) : Int)).toNat
/-- A tick that may never have been (DESIGN CHOICE, log entry 98). -/
def monoField (m : Option Nat) : Bytes := toLe 8 (m.getD (2 ^ 64 - 1))

/-- Header (R308). -/
def headerRecord (t : Thermos) : Bytes := crcRecord 64 (ascii "STH1" ++ octets [1] ++ toLe 4 t.layoutGen)
/-- SHARE_A of the DRS: the DRS under SHARE_B (R307, R308). -/
def drsShareA (t : Thermos) : Bytes := xorBytes t.drs t.drsMask
/-- DRS record (R308); cleared, it is zero (R431). -/
def drsRecord (t : Thermos) : Bytes := if t.drs = [] then zeros 128 else crcRecord 128 (drsShareA t ++ t.drsMask ++ drsCheck t.drs ++ toLe 4 t.drsGeneration)
/-- The host-reset policy of a port: DELAY, HOLD, IN_RECOVERY (R308). -/
def releaseWord (r : Nat × Bool × Bool) : Nat := r.1 % 256 + 256 * bitsOf [r.2.1, r.2.2]
/-- Recovery record (R308). -/
def recoveryRecord (t : Thermos) : Bytes :=
  crcRecord 512 (octets [b2n t.claimed, t.opPort, t.opAlg, bitsOf [t.quarantine, t.debugPending, t.reRooted], t.sessions] ++ zeros 3
    ++ toLe 8 t.opCounter ++ (t.opAnchor.getD [] ++ zeros 32).take 32 ++ (t.opLastEnv ++ zeros 32).take 32
    ++ t.release.flatMap (fun r => toLe 2 (releaseWord r)) ++ toLe 4 t.qCause ++ toLe 4 t.epochFloor)
/-- Time record (R357). -/
def timeRecord (t : Thermos) : Bytes :=
  crcRecord 64 (toLeInt 8 t.offset ++ octets [b2n t.wallSet, b2n t.setPending] ++ zeros 6 ++ monoField t.lastStepMono ++ monoField t.lastTrimMono)
/-- Meter record (R357); the backlog stands from its first place on (DESIGN CHOICE, log entry 100). -/
def meterControl (t : Thermos) : Bytes :=
  crcRecord 64 (toLe 4 t.intervalS ++ toLe 4 t.nextIntervalS ++ toLe 8 t.boundaryMono ++ toLe 8 t.recSeq ++ toLe 2 0 ++ toLe 2 t.backlog.length
    ++ octets [if t.cleanStop then 0xC5 else 0, b2n t.debugSeen] ++ toLe 8 t.lastCkptMono)
/-- Trim log (R357). -/
def trimWords (t : Thermos) : Bytes := t.trimLog.flatMap (fun c => toLe 8 (c.1 % 2 ^ 48 + 2 ^ 48 * c.2))
/-- Schedule pool (R357). -/
def poolWords (t : Thermos) : Bytes :=
  t.pool.flatMap (fun e => toLe 2 e.domain ++ octets [e.cls, e.order] ++ toLe 4 e.epoch ++ toLe 8 e.whenTicks)
/-- Header of the repair map (R452). -/
def repairHeader (t : Thermos) : Bytes := crcRecord 64 (ascii "SRM1" ++ octets [1] ++ toLe 2 t.retirements.length)
/-- A retirement entry (R452). -/
def retireEntry (r : RetireRec) : Bytes := crcRecord 16 (octets [r.kind, r.index, r.cause, 0] ++ toLe 6 r.stamp)
/-- A place of the remap table: bank `k`, spare `j` (R452). -/
def remapEntry (t : Thermos) (k j : Nat) : Bytes :=
  if t.badSpares.contains (k, j) then crcRecord 8 (toLe 2 0xFFFF ++ octets [2])
  else match t.remaps.find? (fun c => c.1 == k && c.2.1 == j) with
    | some c => crcRecord 8 (toLe 2 c.2.2 ++ octets [1])
    | none => crcRecord 8 (toLe 2 0xFFFF ++ octets [0])
/-- START_OFFSET: OFFSET at START_MONO ÷ 256, rounded down, signed (R357). -/
def startOffsetField (r : DomRec) : Bytes := toLeInt 5 (r.startOffset / 256)
/-- RSTATE (R357). -/
def rstateRecord (r : DomRec) : Bytes :=
  octets [r.rateClass + 16 * bitsOf [r.held, r.unclean, r.debugGap]] ++ toLe 6 r.startMono ++ startOffsetField r
/-- A domain-table entry (R295, R357). -/
def domainEntry (r : DomRec) : Bytes :=
  crcRecord 256 (octets [r.state, bitsOf [r.nondecTime, r.timeSeen], r.anchorAlg, r.suspend] ++ toLe 4 r.epoch ++ toLe 8 r.envCounter
    ++ (r.anchor ++ zeros 32).take 32 ++ (r.lastEnv ++ zeros 32).take 32 ++ toLe 8 r.issueMark ++ toLe 8 r.wLast
    ++ (r.manifestDigest ++ zeros 32).take 32 ++ toLe 2 r.manifestEntries ++ toLe 2 r.slotFirst ++ toLe 2 r.slotCount ++ toLe 2 r.dupShare
    ++ toLe 4 r.manifestCell ++ toLe 4 r.extendMask ++ octets [r.weight] ++ zeros 15
    ++ (List.range 5).flatMap (fun i => toLe 4 (r.caps.getD i 0)) ++ rstateRecord r ++ (List.range 5).flatMap (fun i => toLe 8 (r.meters.getD i 0)))

/-- The records of a Thermos with their offsets; what no record covers is zero (R308). -/
def thermosRecords (t : Thermos) : List (Nat × Bytes) :=
  [(0, headerRecord t), (0x40, drsRecord t), (0x100, recoveryRecord t), (0x300, timeRecord t), (0x340, meterControl t), (0x380, trimWords t),
   (0x580, poolWords t), (0x2000, repairHeader t)]
  ++ t.retirements.zipIdx.map (fun c => (0x2040 + 16 * c.2, retireEntry c.1))
  ++ (List.range 256).map (fun i => (0x2440 + 8 * i, remapEntry t (i / 32) (i % 32)))
  ++ (List.range 1024).map (fun d => (0x4000 + 256 * d, domainEntry (assocGetD { epoch := t.epochBase } t.domains d)))
  ++ t.backlog.zipIdx.map (fun c => (0x44000 + 128 * c.2, recordBytes c.1))
/-- The octets of a Thermos from `a` on. -/
def thermosOctets (t : Thermos) (a n : Nat) : Bytes :=
  (List.range n).map (fun i =>
    ((thermosRecords t).find? (fun c => decide (c.1 ≤ a + i) && decide (a + i < c.1 + c.2.length))).elim 0 (fun c => c.2.getD (a + i - c.1) 0))

/-- The extents of a two-phase write: the records it makes new (R309). -/
def journalExtents (old new : Thermos) : List (Nat × Bytes) := (thermosRecords new).filter (fun c => !(thermosRecords old).contains c)
/-- The journal of a two-phase write: extents by offset and length, the new bytes, a CRC-32, and last the commit marker (R309). The widths of
an extent's fields are the model's (DESIGN CHOICE, log entry 100). -/
def journalOctets (old : Thermos) (j : Journal) : Bytes :=
  let x := (journalExtents old j.after).take 16
  let b := x.flatMap (fun c => toLe 4 c.1 ++ toLe 4 c.2.length) ++ zeros (8 * (16 - x.length)) ++ x.flatMap (·.2)
  b ++ toLe 4 (crc32 b) ++ toLe 4 (if j.marked then 0xC03117ED else 0)

end Sys2Proof.Machine
end

