-- ==== Sys2Proof/WellFormed.lean ====
section
/-! DEFINITION. Well-formed commands: the operand ranges the spec gives what a host, the board or the device itself can command. The
machine runs every command; these checks say which ones a sender can produce. -/

namespace Sys2Proof

/-- An address phase has 32 bits, a length phase 16 (R52, R54). -/
def addrWf (a : Nat) : Bool := decide (a < 2 ^ 32)
def lenWf (n : Nat) : Bool := decide (n < 2 ^ 16)

/-- SCK runs between 1 MHz and the 133 MHz of R76. -/
def Link.wf (k : Link) : Bool := decide (1 ≤ k.sckMHz) && decide (k.sckMHz ≤ 133)

/-- A Nymsy frame whose phases fit their widths (R54); `other` carries no opcode of the table. -/
def NymsyFrame.wf (f : NymsyFrame) : Bool :=
  match f with
  | .regRd a n | .memRd a n | .winRd a n | .winFetch a n | .roll a n => addrWf a && lenWf n
  | .regWr a _ | .memWr a _ | .push a _ | .winWr a _ => addrWf a
  | .status | .setLanes _ | .nop => true
  | .other o =>
    !([0x10, 0x11, 0x20, 0x21, 0x30, 0x40, 0x41, 0x42, 0x50, 0x51, 0x60, 0x7F].contains o.toNat)

/-- A Thermos record offset (R308), a spare of a bank (R375), an engine domain (R434). -/
def BootEnv.wf (b : BootEnv) : Bool :=
  b.badRecords.all (fun o => decide (o < 0x80000)) && b.badSpares.all (fun c => decide (c.1 < 8) && decide (c.2 < 32))
    && b.badBanks.all (fun k => decide (k < 8)) && b.badEngines.all (fun i => decide (i < 36)) && decide (b.readDummy < 256)

/-- Error sites of a scrub pass: Pantry words, Larder lines, key slots, Thermos records, one or two bits (R370, R373). -/
def errWf (c : Nat × Nat) : Bool :=
  (c.2 == 1 || c.2 == 2) &&
    (decide (c.1 < 0x01000000) || (decide (0x10000000 ≤ c.1) && decide (c.1 < 0x14000000))
      || (decide (0x40000000 ≤ c.1) && decide (c.1 < 0x40004000)) || (decide (0x50000000 ≤ c.1) && decide (c.1 < 0x50080000)))

/-- Operand ranges of a command. -/
def Instr.wf (i : Instr) : Bool :=
  match i with
  | .regRd _ k a n | .memRd _ k a n | .winRd _ k a n | .winFetch _ k a n | .roll _ k a n => k.wf && addrWf a && lenWf n
  | .registerWrite _ k a _ | .memWr _ k a _ | .push _ k a _ | .winWr _ k a _ => k.wf && addrWf a
  | .xipRead _ k a _ | .xipReadSfdp _ k a _ | .xipPageProgram _ k a _ | .xipSectorErase _ k a => k.wf && addrWf a
  | .gatedPortFrame _ k f | .nymsyEscape _ k f => k.wf && f.wf
  | .unknownOpcodeFrame _ k o => k.wf && (NymsyFrame.other o).wf
  | .status _ k | .setLanes _ k _ | .nop _ k | .xipReadStatus _ k _ | .xipWriteEnable _ k | .xipWriteDisable _ k | .xipReadId _ k _
  | .warmReset _ k _ | .fetchAbort _ k _ | .create _ k | .pause _ k | .resume _ k | .shutdown _ k | .release _ k | .query _ k
  | .ringKick _ k _ | .rollAckRing _ k _ | .rollAckWord _ k _ _ _ | .spreadCfgWrite _ k _ | .slewCfgWrite _ k _
  | .winCacheInvalidate _ k _ _ | .timeTrim _ k _ | .ckptNow _ k | .tamperArmWrite _ k _ | .pdPolicyWrite _ k _ _ | .eventClear _ k _ _
  | .forceStop _ k _ _ | .wdtEnable _ k _ | .wdtDisable _ k _ | .wdtLockSet _ k _ _ | .wdtLockClear _ k _ _ | .fiFire _ k _
  | .fiEccGo _ k _ => k.wf
  | .wdtSvc _ k _ b => k.wf && b.wf
  | .wdtTimeout _ b | .deviceFullReset b | .porRelease b | .pllLockRetry b | .seqWdtExpire b | .backupNodePowerUp b => b.wf
  | .engineGrant e => decide (e.engine < 36)
  | .keyLoadDone d h => decide (d < 1024) && decide (h < 0x4000)
  | .meterCounterWrite d => decide (d < 1024)
  | .scrubPass errs => errs.all errWf
  | .correctionWriteback a => decide (a < 0x01000000) && a % 8 == 0
  | .rowRemap b r => decide (b < 8) && decide (r < 1024)
  | .whiskPass _ errs _ => errs.all (fun h => decide (h < 0x4000))
  | .xselRise _ l => l.all (fun c => decide (c.1 < 2 ^ 28))
  | .laneReset _ | .portWakeDone _ | .ringPoll _ | .pushDeposit _ | .dupHashDone _ | .hamperAdmission | .agePromotion _ | .claimWait _
  | .preemptSuspend _ | .hamperComplete _ | .nopEntry _ | .random _ _ | .cipher _ _ | .aeadSeal _ _ | .aeadOpen _ _ | .macGen _ _
  | .macCheck _ _ | .digest _ _ | .hmacGen _ _ | .hmacCheck _ _ | .compare _ _ | .extend _ _ | .quote _ _ | .ctxExport _ _
  | .ctxImport _ _ | .sign _ _ | .verify _ _ | .agree _ _ | .rsaDecrypt _ _ | .modmath _ _ | .issue _ _ | .deriveExport _ _
  | .deriveTemp _ _ | .attest _ _ | .meterPost _ _ | .meterPostTimeout _ _ | .claim _ _ | .operatorRotate _ _ | .domainCreate _ _
  | .domainDestroy _ _ | .domainOwnerRotate _ _ | .portGrant _ _ | .quotaSet _ _ | .rateSchedule _ _ | .meterConfig _ _ | .timeSet _ _
  | .flashLayout _ _ | .referenceSet _ _ | .keyImport _ _ | .keyGenerate _ _ | .keyReplace _ _ | .keyDestroy _ _ | .sealPolicy _ _
  | .debugUnlock _ _ | .recoveryAuth _ _ | .reRoot _ _ | .powerOnReset | .bootComplete | .hrstRelease _ | .pfailAssert | .pfailRelease
  | .brownoutWarning _ | .backupSwitchover _ | .vddioHpLoss | .vddioHpReturn | .vddioMpLoss | .vddioMpReturn _ _ _ | .lowBatteryCheck _
  | .spreadApplied | .reactionEnd _ | .clockGlitch _ | .supplyGlitch _ | .parityFault _ | .rtcStop | .meshTrip _ | .lidTrip _
  | .lightTrip | .tempTamperTrip _ | .vbatUvTrip _ | .glitchTamperTrip _ | .xselFall | .xselBackoffEnd _ _ _ | .holdLimit _
  | .mpTransactionDone | .flashStatusPoll _ _ _ _ | .flashOpTimeout | .tongsBackfill | .engineStateClear _ _ | .scrubLate | .whiskStall
  | .idleFlush | .drbgReseed | .rngHealthFail | .rngRestartDone _ | .meterBoundary | .tjSample _ | .idleGate _ | .domainGated _
  | .holdWake _ | .bankPrewake _ | .domainWakeDone _ _ | .wakeTimeout _ | .fenceRetest _ | .capWait _ | .rtcResume
  | .jtagTapOperation _ | .queuedWakeStart => true

end Sys2Proof
end

