-- ==== Sys2Proof/Tests/Slice0.lean ====
section
/-! SUPPORT. Tests: ill-formed commands are refused, worked values of the spec, and a witness of every statement's hypotheses. -/

namespace Sys2Proof.Tests

set_option Elab.async false

open Sys2Proof.Machine Sys2Proof.Safety

/-- A port with four rings, four Pantry granules, two Larder granules, a window region and domains 0 and 5. -/
def portUp (p : Nat) : PortState :=
  { portReset with grant := {
      rings := some (16 * p, 16 * p + 15), extendMask := 0xFFFFFFFF, winRd := 1, winWr := 1, pantry := [4 * p, 4 * p + 1, 4 * p + 2, 4 * p + 3],
      larder := [2 * p, 2 * p + 1], domains := [0, 5] } }

/-- A domain that is ACTIVE with eight slots. -/
def domUp (first : Nat) : DomRec :=
  { state := 1, slotFirst := first, slotCount := 8, dupShare := 4, meters := [0, 0, 0, 0, 0], extendMask := 0xFFFFFFFF, issueMark := 256 }

/-- A claimed device in OPERATIONAL, its parts ON, `HP_0` its operator port, domains 0 and 5. -/
def up : State :=
  { State.reset with
    boot := { mode := .operational, answering := true }
    board := { State.reset.board with porHigh := true, pllLocked := true }
    ports := (List.range 4).map portUp
    power := { pds := List.replicate 50 { st := .on, tested := true } }
    mp := { flashOk := true, densityLog2 := 27, rstReleased := true
            layout := [{ kind := 1, index := 0, attr := 0, base := 0x100000, length := 0x100000 }] }
    mem := { larderMB := 8 }
    thermos := { drs := zeros 32, claimed := true, opAlg := 2, opAnchor := some [], release := releaseDefault, boundaryMono := 3600 * 32768
                 wallSet := true, domains := [(0, domUp 0), (5, domUp 8)] }
    mono := 1000 }

/-- A frame with a wrong complement byte. -/
def torn : Link := { cplOk := false }
/-- The same device with the CRC of `HP_0` enabled. -/
def upCrc : State := modPort up 0 (fun x => { x with crcEn := true })
/-- The same device with `HP_2` an XIP port. -/
def upXip : State := modPort up 2 (fun x => { x with xip := true, grant := { x.grant with xip := true } })
/-- The same device with the flash range of the region measured by window 0. -/
def upMeasured : State := { up with snoops := up.snoops.set 0 { state := 2, base := 0x100000, length := 0x1000 } }
/-- The same device with the push buffer of `HP_0` full. -/
def upFull : State := modPort up 0 (fun x => { x with pushBuf := List.replicate 8 { ring := 0, entry := zeros 64, seq := 0 } })
/-- The same device with `HP_1` gated. -/
def upGated : State := modPd up 45 (fun d => { d with st := .off })

theorem some_pair {α : Type} {x : α × Option Bytes} {n : Nat} (h : x.2.map List.length = some n) : ∃ t d, x = (t, some d) ∧ d.length = n := by
  obtain ⟨t, o⟩ := x
  cases o with
  | none => simp at h
  | some d => exact ⟨t, d, rfl, by simpa using h⟩

theorem flag_pair {α : Type} {x : α × Bytes × Bool} (h : x.2.2 = true) : ∃ t d, x = (t, d, true) := by
  obtain ⟨t, d, o⟩ := x
  exact ⟨t, d, by simpa using h⟩

theorem exec_answers (c : Instr) (s : State) (h : (match exec c s with | .next _ => true | .fault _ => false | .refused _ => false) = true) :
    ∃ t, exec c s = .next t := by
  split at h <;> simp_all

theorem witness_Steps : ({ up with pending := [.nop 0 {}] } : State).pending = .nop 0 {} :: [] ∧ up.pending = [] ∧ Canonical up ∧ Shape up
    ∧ step up = .next (tick up) ∧ exec (.nop 0 {}) up = .next (nativeFrame 0 {} .nop up)
    ∧ (∀ b, up.pending.head? ≠ some (.backupNodePowerUp b)) ∧ ({ up with board := { up.board with scrapFuse := true } } : State).board.scrapFuse = true :=
  ⟨rfl, rfl, by unfold Canonical; decide +kernel, by unfold Shape; decide +kernel, rfl, rfl, by simp [up, State.reset], rfl⟩
theorem witness_IdleStepIsOneTick :
    clockRuns { up with board := { up.board with rtcRunning := false, porHigh := false } } = false ∧ clockRuns up = true ∧ up.pending = []
      ∧ boundaryDue (up.mono + 1) up = false ∧ up.boot.mode = .operational
      ∧ ({ up with mono := 3600 * 32768 - 1 } : State).thermos.boundaryMono = ({ up with mono := 3600 * 32768 - 1 } : State).mono + 1
      ∧ 1 ≤ nextInterval up := by decide +kernel

theorem witness_LaneMismatchChangesNothingElse :
    portDead up = false ∧ sentinelAnswers up 3 torn = false ∧ (portOf up 3).xip = false ∧ torn.cplOk = false := by decide +kernel

theorem witness_WrongRequestCrcAnswersCrcFail :
    Shape upCrc ∧ Hears upCrc 0 {} ∧ (portOf upCrc 0).xip = false ∧ (portOf upCrc 0).crcEn = true
      ∧ ({} : Link).crc ≠ some (frameCrc (.regRd 0 4)) ∧ ({ crc := some 0 } : Link).crc ≠ some (frameCrc (.memRd 0x400000 64))
      ∧ ({} : Link).crc ≠ some (frameCrc .status) := by
  simp only [Shape, Hears]; decide +kernel

theorem witness_RegRdAnswersTheRegisters :
    ServesRead up 0 {} (.regRd 0 4) ∧ Open up ∧ covers (portOf up 0) {} 30 = true ∧ ServesRead up 3 {} (.regRd 0xF00 256) := by
  simp only [ServesRead, Serves, Hears, Open]; decide +kernel

theorem witness_IdentityAndInvisibleWords :
    isOperator up 1 = false ∧ up.boot.mode ≠ .factory ∧ up.boot.mode ≠ .debug ∧ up.boot.mode ≠ .recovery := by decide +kernel

theorem witness_RegisterWriteIsRecorded :
    Open up ∧ ServesWrite up 1 {} (.regWr 0x088 (toLe 4 0xFFFFFFFF)) ∧ ServesWrite up 1 {} (.regWr 0x018 (toLe 4 1))
      ∧ ServesWrite up 1 {} (.regWr 0x000 (toLe 4 0)) ∧ ServesWrite up 1 {} (.regWr 0x010 (toLe 4 64)) ∧ 64 % 64 < 4
      ∧ ServesWrite up 1 {} (.regWr 0x010 (toLe 4 3)) := by
  simp only [ServesWrite, Serves, Hears, Whole, Open]; decide +kernel

theorem witness_MemRdReturnsThePantry :
    ServesRead up 0 {} (.memRd 0x400000 4096) ∧ Open up ∧ Clean up ∧ arenaGranted up 0 0x400000 4096 = true
      ∧ (banksOf 0x400000 4096).all (bankOn up) = true ∧ covers (portOf up 0) {} 80 = true := by
  simp only [ServesRead, Serves, Hears, Open, Clean]; decide +kernel

theorem witness_MemWrStoresItsBytes :
    Shape up ∧ ServesWrite up 0 {} (.memWr 0x43FFFF [7]) ∧ Open up ∧ Clean up ∧ arenaGranted up 0 0x43FFFF 1 = true := by
  simp only [Shape, ServesWrite, Serves, Hears, Whole, Open, Clean]; decide +kernel

theorem witness_PushIsBufferedOrBusy :
    ServesWrite up 0 {} (.push 15 (zeros 64)) ∧ Open up ∧ up.boot.mode ≠ .quarantine ∧ ringGranted up 0 15 = true ∧ (portOf up 0).pushBuf.length < 8
      ∧ ServesWrite upFull 0 {} (.push 15 (zeros 64)) ∧ ringGranted upFull 0 15 = true ∧ 8 ≤ (portOf upFull 0).pushBuf.length := by
  simp only [ServesWrite, Serves, Hears, Whole, Open]; decide +kernel

theorem witness_WindowReadAndFetch :
    Open up ∧ winGranted up 0 false 0x100000 4 = true ∧ ServesRead up 0 {} (.winRd 0x20100000 4) ∧ winHold (portOf up 0) = true
      ∧ (∃ t d, windowRead 0 0x100000 4 true up = (t, some d) ∧ d.length = 4)
      ∧ ServesWrite up 0 {} (.winFetch 0x20100000 4096) ∧ winGranted up 0 false 0x100000 4096 = true ∧ (portOf up 0).fetch = none :=
  have h : (windowRead 0 0x100000 4 true up).2.map List.length = some 4 := by decide +kernel
  ⟨by simp only [Open]; decide +kernel, by decide +kernel, by simp only [ServesRead, Serves, Hears]; decide +kernel, by decide +kernel, some_pair h,
    by simp only [ServesWrite, Serves, Hears, Whole]; decide +kernel, by decide +kernel, by decide +kernel⟩

theorem witness_WinWrJoinsTheWriteQueue :
    Open up ∧ ServesWrite up 0 {} (.winWr 0x20100000 [1]) ∧ winGranted up 0 true 0x100000 1 = true ∧ (portOf up 0).winQueue.length < 4
      ∧ measured up 0x100000 1 = false ∧ ServesWrite upMeasured 0 {} (.winWr 0x20100FFF [1]) ∧ winGranted upMeasured 0 true 0x100FFF 1 = true
      ∧ measured upMeasured 0x100FFF 1 = true := by
  simp only [Open, ServesWrite, Serves, Hears, Whole]; decide +kernel

theorem witness_StatusAndRollAnswer :
    Open up ∧ covers (portOf up 0) {} 30 = true ∧ ServesRead up 0 {} .status ∧ ServesRead up 0 {} (.roll 2047 4) := by
  simp only [Open, ServesRead, Serves, Hears]; decide +kernel

theorem witness_LaneFramesReconfigure :
    Open up ∧ ServesWrite up 0 {} (.setLanes (toLe 4 0x222)) ∧ Serves up 0 {} .nop ∧ (pdOf up 44).st = .on ∧ (pdOf up 44).closed = false
      ∧ up.board.porHigh = true ∧ up.board.vddioHpOk = true := by
  simp only [Open, ServesWrite, Serves, Hears, Whole]; decide +kernel

theorem witness_GatedPortAnswersThroughItsSentinel :
    portDead upGated = false ∧ (pdOf upGated 45).st = .off ∧ (pdOf upGated 45).closed = false ∧ (pdOf upGated 45).retired = false
      ∧ (pdOf upGated 45).policy = .auto ∧ ({} : Link).cplOk = true ∧ (portOf upGated 1).xip = false ∧ sevOf upGated 1 5 ≤ 1
      ∧ (let s := modPd upXip 46 (fun d => { d with st := .off }); portDead s = false ∧ (pdOf s 46).st = .off ∧ (portOf s 2).xip = true)
      ∧ (pdOf (requestWake 45 upGated) 45).st = .waking
      ∧ Hears up 0 {} ∧ (portOf up 0).xip = false ∧ classOf 0x33 = .unknown := by
  simp only [Hears]; decide +kernel

theorem witness_XipReadsAnswer :
    Hears upXip 2 {} ∧ (portOf upXip 2).xip = true ∧ (portOf upXip 2).wip = false
      ∧ (let s := modPort upXip 2 (fun x => { x with lanes := 0x777, wip := true }); Hears s 2 {} ∧ (portOf s 2).wip = true)
      ∧ (∀ c ∈ linePieces 0x300000 4, 0x10000000 < c.1 + c.2 ∨ winGranted upXip 2 false c.1 c.2 = false)
      ∧ ∃ t d, readPieces 2 true (linePieces 0x100000 4) [] upXip = (t, d, true) :=
  ⟨by simp only [Hears]; decide +kernel, by decide +kernel, by decide +kernel, by simp only [Hears]; decide +kernel, by decide +kernel,
    flag_pair (by decide +kernel)⟩

/-- `HP_2` has had WREN. -/
def upWel : State := modPort upXip 2 (fun x => { x with wel := true })
theorem witness_XipWritesAndEscape :
    Hears upWel 2 {} ∧ (portOf upWel 2).xip = true ∧ ({} : Link).whole = true ∧ ({ whole := false } : Link).whole = false ∧ (portOf upWel 2).wip = false ∧ (portOf upWel 2).wel = true
      ∧ inOctal (portOf (modPort upWel 2 (fun x => { x with lanes := 0x777 })) 2) = true
      ∧ winGranted upWel 2 true 0x100000 256 = true ∧ measured upWel 0x100000 256 = false ∧ winGranted upWel 2 true 0x100000 4096 = true
      ∧ measured upWel 0x100000 4096 = false ∧ Hears upXip 2 {} ∧ (portOf upXip 2).wel = false
      ∧ crcOk (portOf upXip 2) {} .status = true ∧ Open upXip ∧ covers (portOf upXip 2) {} 30 = true := by
  simp only [Hears, Open]; decide +kernel

/-- The line a WIN_FETCH of `HP_2` waits for is on the bus. -/
def upFetching : State :=
  let s := modPort up 2 (fun x => { x with fetch := some { first := 0x100000, next := 0x100000, stop := 0x100200 } })
  { s with mp := { s.mp with work := [.line 0x100000 (.fetch 2)], current := some (.read (.line 0x100000 (.fetch 2))) } }
theorem witness_WarmResetAndFetchAbort :
    ServesReg up 2 {} 0x008 (0xBEEF * 0x10000 + 1) ∧ ServesReg upFetching 2 {} 0x008 (0xBEEF * 0x10000 + 2) ∧ upFetching.mp.current = some (.read (.line 0x100000 (.fetch 2)))
      ∧ fetchWork 2 (.line 0x100000 (.fetch 2)) = true ∧ fetchWork 1 (.line 0x100000 (.fetch 2)) = false := by
  simp only [ServesReg, Hears, Whole, Open]; decide +kernel

/-- The 64 bytes of an entry from its fields (R148); HDR is given whole. -/
def ent (h slot aux src sl dst dl : Nat) (param : Bytes) : Bytes :=
  toLe 4 h ++ toLe 2 slot ++ toLe 2 aux ++ zeros 8 ++ toLe 4 src ++ toLe 4 sl ++ toLe 4 dst ++ toLe 4 dl ++ param
/-- A NOP entry handed over in the first lap: OWN and PHASE set. -/
def nopEnt : Bytes := ent 0xC0000000 0 0 0 0 0 0 (zeros 32)

/-- Ring 0 of `HP_0`, four entries at the first arena byte, bound to domain 5. -/
def ring0 : Ring :=
  { state := .active, base := 0x400000, headPhase := true, tailPhase := true, domain := 5, cls := 1, poll := 1, sizeLog2 := 2 }
/-- The device with ring 0. -/
def upRing : State := { up with rings := [(0, ring0)] }
/-- The device with ring 0 and an entry at its TAIL. -/
def upEntry : State := { upRing with mem := { upRing.mem with pantry := memWrite 0 upRing.mem.pantry 0x400000 nopEnt } }
/-- A state whose `HP_0` has the ring-command arguments. -/
def args (a0 a1 a2 : Nat) (s : State) : State :=
  modPort s 0 (fun x => { x with ringArg0 := BitVec.ofNat 32 a0, ringArg1 := BitVec.ofNat 32 a1, ringArg2 := BitVec.ofNat 32 a2 })

theorem witness_RingCreateBindsAndQueryReports :
    Shape up ∧ Clean up ∧ sevOf up 5 0 ≤ 1 ∧ ServesReg (args 1 0x400100 0x00201005 up) 0 {} 0x080 1
      ∧ cmdResult (args 1 0x400100 0x00201005 up) 0 1 1 0x400100 0x00201005 = 1
      ∧ ServesReg upRing 0 {} 0x080 6 ∧ ringGranted upRing 0 0 = true ∧ cmdAllowedInMode upRing 0 6 = true ∧ (ringOf upRing 0).poisoned = false := by
  simp only [Shape, Clean, ServesReg, Hears, Whole, Open]; decide +kernel

theorem witness_RingPauseResumeReleaseShutdown :
    Shape upRing ∧ Clean upRing ∧ sevOf upRing 5 0 ≤ 1 ∧ ringGranted upRing 0 0 = true ∧ (ringOf upRing 0).poisoned = false ∧ upRing.hampers = []
      ∧ ownBit (entryBytes upRing (ringOf upRing 0) (ringOf upRing 0).tail) = false
      ∧ (∀ n ∈ [2, 4, 5], ServesReg upRing 0 {} 0x080 n ∧ cmdAllowedInMode upRing 0 n = true) ∧ (ringOf upRing 0).state = .active
      ∧ (ringOf { up with rings := [(0, { ring0 with state := .paused })] } 0).state = .paused := by
  simp only [Shape, Clean, ServesReg, Hears, Whole, Open]; decide +kernel

theorem witness_RingCommandOutOfStateIsRefused :
    Shape upRing ∧ Clean upRing ∧ ringGranted upRing 0 15 = true ∧ (ringOf upRing 15).poisoned = false
      ∧ ServesReg (args 15 0 0 upRing) 0 {} 0x080 2 ∧ (ringOf upRing 15).state ≠ .active
      ∧ ServesReg upRing 0 {} 0x080 1 ∧ (ringOf upRing 0).state ≠ .unbound := by
  simp only [Shape, Clean, ServesReg, Hears, Whole, Open]; decide +kernel

theorem witness_PollAndKickTakeAHamper :
    Shape upEntry ∧ Clean upEntry ∧ ringServed upEntry 0 = true ∧ ring0.tail < 2 ^ ring0.sizeLog2 ∧ ringRoom ring0 ≠ 0 ∧ openHamper upEntry 0 = none
      ∧ entryBytes upEntry ring0 0 = nopEnt ∧ ownBit nopEnt = true ∧ phaseBit nopEnt = true ∧ chainBit nopEnt = false
      ∧ ownBit (entryBytes upEntry ring0 (nextIndex ring0 0 true).1) = false ∧ ring0.poll ≠ 0 ∧ ServesReg upEntry 0 {} 0x0A0 0 := by
  simp only [Shape, Clean, ServesReg, Hears, Whole, Open]; decide +kernel

theorem witness_RollAckClearsLeafBits :
    ServesReg up 0 {} 0x058 15 ∧ ringGranted up 0 15 = true ∧ ServesReg up 0 {} 0x058 (2 ^ 31 + 2 ^ 27 + 2047 * 2 ^ 16 + 0x8000)
      ∧ (leafWord { up with leaf := [(0, 0x8000)] } 0).getLsbD 15 = true := by
  simp only [ServesReg, Hears, Whole, Open]; decide +kernel

theorem witness_SpreadSlewCacheAndTrim :
    ServesOperator up 0 {} 0x8C0 3 ∧ ServesOperator up 0 {} 0x8C4 0xAAAAA ∧ 2 ≤ 0xAAAAA / 0x10000 % 4
      ∧ ServesOperator up 0 {} 0x944 (2 ^ 31 + 8 * 256 + 15) ∧ ServesReg up 0 {} 0x410 0x3FFFF ∧ (BitVec.ofNat 18 0x3FFFF).toInt = -1
      ∧ trimOk (-1) up = true ∧ ServesReg up 0 {} 0x410 (32768 + 1) ∧ ¬((BitVec.ofNat 18 (32768 + 1)).toInt ≤ 32768)
      ∧ Shape up ∧ sevOf up 19 3 ≤ 1 ∧ sevOf up 0 3 ≤ 1 := by
  simp only [ServesOperator, ServesReg, Hears, Whole, Open, Shape]; constructorm* _ ∧ _ <;> decide +kernel

theorem witness_CheckpointsWriteCountersAndMarks :
    ServesOperator up 0 {} 0x9C0 1 ∧ up.board.pfailN = true ∧ up.boot.mode ≠ .boot ∧ domExists up 5 = true
      ∧ ({ up with issue := [(5, 7)] } : State).issue = [(5, 7)] ∧ ({ up with board := { up.board with pfailN := false } } : State).board.pfailN = false := by
  simp only [ServesOperator, ServesReg, Hears, Whole, Open]; decide +kernel

/-- The tamper configuration is locked. -/
def upLocked : State := { up with thermos := { up.thermos with tamperArm := 0x10F } }
theorem witness_TamperArmForceStopAndPolicy :
    ServesOperator up 0 {} 0x888 0x10F ∧ bit up.thermos.tamperArm 8 = false ∧ (∀ j < 4, cannotArm up j = false)
      ∧ ServesOperator upLocked 0 {} 0x888 0 ∧ bit upLocked.thermos.tamperArm 8 = true ∧ Shape upLocked ∧ sevOf upLocked 0 3 ≤ 1
      ∧ ServesOperator up 0 {} 0x884 (b2n true * 256 + 4) ∧ ServesOperator up 0 {} 0x820 0x00000026
      ∧ (policyDomains 0).all (fun i => policyListed i (policyField 0 0x26 i up)) = true ∧ policyWrong 0 0x26 up = false := by
  simp only [ServesOperator, ServesReg, Hears, Whole, Open, Shape]; decide +kernel

/-- An event of the scheduler is recorded and its reaction runs. -/
def upEvent : State := modBlock up 6 (fun b => { b with event := 5, stored := [(0, 0), (2, 2)], handling := true })
theorem witness_EventClearAndReactionEnd :
    ServesReg upEvent 0 {} (0x604 + 16 * 6) 4 ∧ Shape upEvent ∧ groupWrite upEvent 0 6 = true ∧ (blockOf upEvent 6).named = []
      ∧ (blockOf upEvent 6).handling = true ∧ (blockOf upEvent 6).merged = [] ∧ (blockOf up 6).handling = false
      ∧ ServesReg upEvent 0 {} (0x604 + 16 * 12) 0xFF ∧ (blockOf upEvent 12).event.testBit 1 = false := by
  simp only [ServesReg, Hears, Whole, Open, Shape]; decide +kernel

/-- The Egg timer of `HP_1` runs with a window, an action, half a service, its locks. -/
def upEgg (w : Wdt) : State := modPort up 1 (fun x => { x with wdt := w })
theorem witness_EggTimerRegistersAndLocks :
    ServesReg up 1 {} 0x028 7 ∧ (portOf up 1).wdt.lock = false ∧ ServesReg (upEgg { en := true, lock := true, action := 3 }) 1 {} 0x028 7
      ∧ ServesReg up 1 {} 0x028 0 ∧ (portOf up 1).wdt.quiesced = false ∧ ServesReg (upEgg { en := true, lock := true }) 1 {} 0x028 0
      ∧ Clean (upEgg { en := true, quiesced := true }) ∧ ServesReg (upEgg { en := true, quiesced := true }) 1 {} 0x028 0
      ∧ (∀ q < 4, ServesOperator up 0 {} (0x894 + 8 * q) 0x103 ∧ ServesOperator up 0 {} (0x894 + 8 * q) 3)
      ∧ lockCfgOk (portOf (upEgg { lockCfg := 0x00640032 }) 1).wdt.lockCfg.toNat = true
      ∧ (portOf (upEgg { lockCfg := 0x00640032 }) 1).wdt.lockCfg ≠ 0 := by
  simp only [ServesOperator, ServesReg, Hears, Whole, Open, Clean]; constructorm* _ ∧ _ <;> decide +kernel

theorem witness_EggTimerServiceAndFailure :
    (∀ w ∈ ([{ en := true }, { en := true, half := true }, { en := true, windowMs := 100 }, { en := true, action := 1 }, { en := true, action := 2 },
        { en := true, action := 3 }] : List Wdt), boundaryDue (w.start + msTicks w.timeoutMs) (upEgg w) = false ∧
      Shape (upEgg w) ∧ wdtCounts (upEgg w) = true ∧ (portOf (upEgg w) 1).wdt.en = true ∧ (upEgg w).boot.fatal = false ∧ sevOf (upEgg w) 1 6 ≤ 1
      ∧ ServesReg (upEgg w) 1 {} 0x024 0x6E3A ∧ ServesReg (upEgg w) 1 {} 0x024 0x91C5 ∧ ServesReg (upEgg w) 1 {} 0x024 0)
      ∧ wdtOpen (upEgg { en := true }) 1 = true ∧ wdtOpen (upEgg { en := true, windowMs := 100 }) 1 = false := by
  simp only [ServesReg, Hears, Whole, Open, Shape]; decide +kernel

/-- A push of a whole entry, and of one with OWN clear, waits on `HP_0`. -/
def upPush (e : Bytes) : State := modPort upRing 0 (fun x => { x with pushBuf := [{ ring := 0, entry := e, seq := 9 }] })
theorem witness_PushDepositTakesOrRefusesItsEntry :
    (portOf up 0).pushBuf = [] ∧ Shape (upPush nopEnt) ∧ Clean (upPush nopEnt) ∧ (portOf (upPush nopEnt) 0).pushLog.length = 16 ∧ nopEnt.length = 64
      ∧ pushReason (upPush nopEnt) { ring := 0, entry := nopEnt, seq := 9 } = 0 ∧ chainBit nopEnt = false ∧ openHamper (upPush nopEnt) 0 = none
      ∧ pushReason (upPush (zeros 64)) { ring := 0, entry := zeros 64, seq := 9 } = 4 ∧ sevOf (upPush nopEnt) 5 2 ≤ 1 := by
  simp only [Shape, Clean]; decide +kernel

/-- A hamper of one entry, taken from ring 0. -/
def taken (e : Bytes) : Hamper :=
  { id := 7, ring := 0, domain := 5, port := 0, entries := [{ index := 0, bytes := e }], closedRun := true, cls := 1, agedAt := 0 }
/-- That hamper admitted, with engines. -/
def running (e : Bytes) (l : List Nat) : Hamper := { taken e with admitted := true, admitNo := 1, engines := l }
/-- Keys of domain 5: an AES-128 key, a REDUNDANT HMAC key, a P-256 and an RSA-2048 private key. -/
def keys5 : Assoc Key :=
  let k : Key := { typ := 0x01, span := 1, cls := 1, debug := false, usage := 0x7C, domain := 5, size := 0, sealRef := 0, sealMeas := 0, param := 0, value := zeros 64 }
  [(8, k), (9, { k with typ := 0x07, cls := 2, usage := 0x10, param := 32 }), (10, { k with typ := 0x10, span := 2, usage := 0x183, value := toBe 32 1 ++ toBe 32 p256.gx ++ toBe 32 p256.gy ++ zeros 32 }),
   (12, { k with typ := 0x20, span := 10, usage := 0x0D, value := zeros 640 })]
/-- The device with these hampers, ring 0 past the entry it took. -/
def withHampers (l : List Hamper) : State :=
  { up with rings := [(0, { ring0 with tail := 1 })], hampers := l, nextHamper := 8, keys := keys5 }
/-- The device with one hamper that runs an entry on its engines. -/
def runs (e : Bytes) (l : List Nat) : State :=
  l.foldl (fun s i => modPd s i (fun d => { d with running := some (.hamper 7) })) (withHampers [running e l])
/-- The device with octets stored in the arena. -/
def stored (a : Nat) (v : Bytes) (s : State) : State := { s with mem := { s.mem with pantry := memWrite 0 s.mem.pantry a v } }
/-- HDR of an entry that stands alone, in the first lap. -/
def hd (op fl : Nat) : Nat := 0xC0000000 + op * 0x10000 + fl
/-- PARAM from its first octets. -/
def prm (v : Bytes) : Bytes := fitTo 32 v

/-- That hamper past its digest-engine phase, which has kept `m`. -/
def hashedRunning (e : Bytes) (l : List Nat) (m : Bytes) : Hamper := { running e l with hashed := true, template := m }
def hashedRuns (e : Bytes) (l : List Nat) (m : Bytes) : State := modHamper (runs e l) 7 (fun y => { y with hashed := true, template := m })

/-- An idempotent NOP. -/
def idempEnt : Bytes := toLe 4 0xC8000000 ++ zeros 4 ++ toLe 8 0x77 ++ zeros 48
/-- A NOP that declares 16 cups, as its destination. -/
def cupEnt : Bytes := ent (hd 0x10 0x20) 8 0 0x410000 16 0xF00FF000 16 (prm (zeros 20 ++ [128]))
/-- The record an earlier submission of `idempEnt` left. -/
def dup7 : DupRec := { tag := 0x77, hash := zeros 16, seed := zeros 16, domain := 5, closed := true, admittedMs := 0, order := 0, owner := 3 }
/-- No cup is free. -/
def noCups (s : State) : State := { s with floorFree := [0, 0, 0, 0], sharedFree := 0 }

theorem witness_AdmissionHashesAdmitsAndClaims :
    (let x := taken idempEnt; let s := withHampers [x]
      hamperOf s 7 = some x ∧ x.admitted = false ∧ x.closedRun = true ∧ asksIdemp x = true ∧ x.hash = none ∧ hamperDefect s x = none
        ∧ Reads s s 7 (hashedLists s x) ∧ Reads s s 7 (hashedPieces s x))
    ∧ (let x := taken nopEnt; let s := withHampers [x]
      hamperOf s 7 = some x ∧ hamperDefect s x = none ∧ oldestTurn s.allocator = false ∧ readyClaims s (candidates s) = []
        ∧ arbitration s s.allocator (candidates s) = [x] ∧ cupsFit s x = true ∧ asksIdemp x = false)
    ∧ (let x := { taken idempEnt with hash := some (zeros 16) }; let s := { withHampers [x] with dups := [dup7], allocator := { grants := 15 } }
      oldestTurn s.allocator = true ∧ candidates s = [x] ∧ hamperDefect s x = none ∧ dupOf s x = some dup7 ∧ cupsFit s x = true)
    ∧ (let x := taken cupEnt; let s := noCups (withHampers [x])
      hamperDefect s x = none ∧ readyClaims s (candidates s) = [] ∧ arbitration s s.allocator (candidates s) = [x] ∧ cupsFit s x = false
        ∧ asksIdemp x = false)
    ∧ (let x := taken nopEnt; let s := { withHampers [x] with claims := [some 7, none, none, none] };
      (s.claims.getD 0 none).bind (hamperOf s) = some x ∧ boundaryDue (x.claimSince + msTicks s.ageLimit + 1) s = false ∧ (s.claims.getD 1 none).bind (hamperOf s) = none) := by
  simp only [Reads, Clean]; decide +kernel

/-- CIPHER in CTR mode over 16 octets. -/
def cipherEnt : Bytes := ent (hd 0x10 0x20) 8 0 0x410000 16 0x420000 16 (prm (zeros 20 ++ [128]))
/-- An URGENT hamper after one that runs on every GUARDED engine it may use. -/
def urgent : State :=
  let s := withHampers [running cipherEnt [0], { running cipherEnt [] with id := 9, cls := 3 }]
  (List.range 8).foldl (fun s i => modPd s i (fun d => { d with running := some (.hamper (if i = 0 then 7 else 30)) })) s
theorem witness_EnginesAreGrantedAndSuspended :
    Shape up ∧ engineFree up 0 = true ∧ grantable up 0 = []
    ∧ (let x := running cipherEnt []; let s := withHampers [x]
      Shape s ∧ engineFree s 3 = true ∧ hamperOf s 7 = some x ∧ x = atDispatch x
        ∧ arbiterOrder s (s.dispatchers.getD (dispatcherOf 3) {}) ((grantable s 3).map atDispatch) = [x] ∧ waitingNeed s x = some [guardedPds] ∧ grantSet s [guardedPds] 3 = some [3] ∧ capFits s 7 (setCharge [3]) = true ∧ hashPhase x = false)
    ∧ (let x := running (ent (hd 0x30 0) 10 0 0x410000 16 0x420000 64 (prm [1, 1])) []; let s := withHampers [x]
      x = atDispatch x ∧ arbiterOrder s (s.dispatchers.getD (dispatcherOf 16) {}) ((grantable s 16).map atDispatch) = [x] ∧ waitingNeed s x = some [digestPds]
        ∧ grantSet s [digestPds] 16 = some [16] ∧ capFits s 7 (setCharge [16]) = true ∧ hashPhase x = true)
    ∧ (∃ x v, hamperOf urgent 9 = some x ∧ x.cls = 3 ∧ waitingNeed urgent x = some [guardedPds] ∧ guardedPds.any (engineFree urgent) = false
        ∧ pickVictim urgent guardedPds = some (0, v) ∧ hashPhase x = false ∧ sevOf urgent 6 3 ≤ 1)
    ∧ (let x := taken nopEnt; let s := withHampers [x]
      hamperOf s 7 = some x ∧ x.cls < 2 ∧ isWaiting s x = true ∧ sevOf s 6 0 ≤ 1 ∧ boundaryDue (x.agedAt + msTicks s.ageLimit) s = false) := by
  simp only [Shape]
  refine ⟨by decide +kernel, by decide +kernel, by decide +kernel, by decide +kernel, by decide +kernel,
    ⟨{ running cipherEnt [] with id := 9, cls := 3 }, running cipherEnt [0], ?_⟩, by decide +kernel⟩
  decide +kernel

/-- A hamper whose one entry has finished. -/
def stopped : Hamper := { running nopEnt [] with base := 0x400000, entries := [{ index := 0, bytes := nopEnt, done := some { status := 0, param := some (zeros 32) } }] }
theorem witness_CompletionWritesEveryEntry :
    (let s := withHampers [stopped];
      hamperOf s 7 = some stopped ∧ hamperStopped stopped = true ∧ stopped.reclaimed = false ∧ (ringOf s 0).state = .active
        ∧ stopped.admitted = true ∧ (stopped.entries.map (·.index)).Nodup ∧ arenaGranted s stopped.port (stopped.base + 64 * 0) 64 = true
        ∧ nopEnt.length = 64 ∧ (zeros 32).length = 32 ∧ domExists s 5 = true ∧ s.boot.mode ≠ .debug)
    ∧ (let s := runs nopEnt []; Runs s 7 0 (running nopEnt []) nopEnt ∧ nopFields nopEnt = true)
    ∧ (let e := ent (hd 0x70 0) 0 0 0 0 0 0 (zeros 32); let s := runs e []
      runnable s 7 = some (running e [], e) ∧ opcodeKnown (opcode e) = false) := by
  simp only [Runs]; decide +kernel

/-- The key of a slot. -/
def key5 (h : Nat) : Key := (assocGet keys5 h).getD (keys5.head (by decide)).2

/-- AEAD_SEAL and AEAD_OPEN in GCM mode: 16 octets of payload, a nonce of 12 octets, a tag of 16. -/
def sealEnt (fl : Nat) : Bytes := ent (hd 0x11 (0x40 + fl)) 8 0 0x410000 16 0x420000 32 (prm (zeros 16 ++ [12, 16]))
def openEnt : Bytes := ent (hd 0x12 0x40) 8 0 0x410000 32 0x420000 16 (prm (zeros 16 ++ [12, 16]))

theorem witness_CipherAndAeadEntries_cipher :
    let s := runs cipherEnt [0]; let x := running cipherEnt [0]; let e := cipherEnt
      x.engines ≠ [] ∧ s.rng.stopped = false ∧ isPart (flags e) = false ∧ Runs s 7 0x10 x e ∧ cipherEarly s x e = none
        ∧ keyStep s x (slotOf e) (cipherJudge useEncrypt (modeOf e)) = .key (key5 8) ∧ cipherLater s x e (key5 8) = none
        ∧ (let n := takeShare 7 x 4 (srcTotal s x e) s; Reads n n 7 (readRanges s x e) ∧ dstReady n (dstOf e) (srcTotal s x e) = true) := by
  simp only [Runs, Reads, Clean]; decide +kernel
theorem witness_CipherAndAeadEntries_seal :
    ∀ fl ∈ [0, 0x100], let e := sealEnt fl; let s := runs e [0]; let x := running e [0]
      Runs s 7 0x11 x e ∧ aeadEarly s x e = none ∧ keyStep s x (slotOf e) (cipherJudge useEncrypt (modeOf e)) = .key (key5 8)
        ∧ aeadLater s x e (key5 8) = none ∧ (aadOf e).2 = 0
        ∧ (let n := takeShare 7 x 4 (aeadPayload s x e) s; Reads n n 7 (readRanges s x e) ∧ dstReady n (dstOf e) (aeadOutLen s x e) = true
          ∧ rngReady n = true) ∧ x.seed = none := by
  simp only [Runs, Reads, Clean]; decide +kernel
theorem witness_CipherAndAeadEntries_open :
    let e := openEnt; let s := runs e [0]; let x := running e [0]
      Runs s 7 0x12 x e ∧ aeadEarly s x e = none ∧ keyStep s x (slotOf e) (cipherJudge useDecrypt (modeOf e)) = .key (key5 8)
        ∧ aeadLater s x e (key5 8) = none ∧ endsMessage (flags e) = true
        ∧ (let n := takeShare 7 x 4 (aeadPayload s x e) s; Reads n n 7 (readRanges s x e) ∧ dstReady n (dstOf e) (aeadOutLen s x e) = true) := by
  simp only [Runs, Reads, Clean]; decide +kernel

/-- MAC_GEN and MAC_CHECK by CMAC with a tag of 16 octets; DIGEST by SHA-256; HMAC_GEN and HMAC_CHECK by SHA-256, the expected tag at 0x430000. -/
def macGenEnt : Bytes := ent (hd 0x13 0x70) 8 0 0x410000 16 0 0 (prm (zeros 28 ++ [16]))
def macCheckEnt (t : Bytes) : Bytes := ent (hd 0x14 0x70) 8 0 0x410000 16 0 0 (prm (t ++ zeros 12 ++ [16]))
def digestEnt (fl dl : Nat) : Bytes := ent (hd 0x20 (0x10 + fl)) 0 0 0x410000 16 (if dl = 0 then 0 else 0x420000) dl (zeros 32)
def hmacGenEnt : Bytes := ent (hd 0x21 0x10) 9 0 0x410000 16 0x420000 32 (prm [32])
def hmacCheckEnt : Bytes := ent (hd 0x22 0x10) 9 0 0x410000 16 0 0 (prm (toLe 4 0x430000 ++ [32]))

theorem witness_MacAndDigestEntries_macGen :
    let e := macGenEnt; let s := runs e [0]; let x := running e [0];
      Runs s 7 0x13 x e ∧ s.rng.stopped = false ∧ isPart (flags e) = false ∧ macEarly s x e = none
        ∧ keyStep s x (slotOf e) (cipherJudge useMac (modeOf e)) = .key (key5 8) ∧ macLater s x e (key5 8) = none
        ∧ endsMessage (flags e) = true ∧ (let n := takeShare 7 x 3 1 s; Reads n n 7 (readRanges s x e) ∧ dstReady n (dstOf e) 0 = true) := by
  simp only [Runs, Reads, Clean]; decide +kernel
theorem witness_MacAndDigestEntries_macCheck :
    let e := macCheckEnt (zeros 16); let s := runs e [0]; let x := running e [0];
      Runs s 7 0x14 x e ∧ macEarly s x e = none ∧ keyStep s x (slotOf e) (cipherJudge useMac (modeOf e)) = .key (key5 8)
        ∧ macLater s x e (key5 8) = none ∧ (let n := takeShare 7 x 3 1 s; Reads n n 7 (readRanges s x e)) := by
  simp only [Runs, Reads, Clean]; decide +kernel
theorem witness_MacAndDigestEntries_digest :
    ∀ c ∈ ([(0x100, 0), (0, 32)] : List (Nat × Nat)), let e := digestEnt c.1 c.2; let s := runs e [16]; let x := running e [16];
      Runs s 7 0x20 x e ∧ digestBad s x e = none ∧ Reads s s 7 (readRanges s x e) ∧ dstReady s (dstOf e) (digestOutLen (carriedDigest s x e)) = true := by
  simp only [Runs, Reads, Clean]; decide +kernel
theorem witness_MacAndDigestEntries_hmac :
    ∀ c ∈ ([(0x21, hmacGenEnt, []), (0x22, hmacCheckEnt, [(0x430000, 32)])] : List (Nat × Bytes × List (Nat × Nat))),
      let e := c.2.1; let s := runs e [16, 17]; let x := running e [16, 17];
      Runs s 7 c.1 x e ∧ (if c.1 = 0x21 then hmacGenEarly s x e else hmacCheckEarly s x e) = none
        ∧ keyStep s x (slotOf e) hmacJudge = .key (key5 9) ∧ hmacLater s x e c.2.2 = none
        ∧ (let n := takeShare 7 x 3 1 s; Reads n n 7 (readRanges s x e ++ c.2.2) ∧ dstReady n (dstOf e) (hmacTagLen (carriedDigest s x e)) = true) := by
  simp only [Runs, Reads, Clean]; decide +kernel

/-- COMPARE of two source ranges; EXTEND of register 8; QUOTE of register 8; an export and an import of ring 0's digest message. -/
def compareEnt (a : Nat) : Bytes := ent (hd 0x23 0) 0 0 0x410000 16 0 0 (prm (toLe 4 a))
def extendEnt (dl : Nat) : Bytes := ent (hd 0x24 0) 0 0 0x410000 16 (if dl = 0 then 0 else 0x420000) dl (prm [8])
def quoteEnt : Bytes := ent (hd 0x25 0) 0xFF03 0 0 0 0x420000 216 (prm (toLe 4 0x100))
def exportEnt : Bytes := ent (hd 0x26 0x200) 0 0 0 0 0x420000 288 (zeros 32)
def importEnt : Bytes := ent (hd 0x27 0x200) 0 0 0x410000 288 0 0 (zeros 32)
/-- Ring 0's open digest message. -/
def part0 : PartState := { opcode := 0x20, flags := 0x11, slot := 0, port := 0, domain := 5, param := zeros 32, chain := [], aad := [], acc := zeros 64, total := 64 }
/-- The device that runs the export, its message open. -/
def exporting : State := { runs exportEnt [] with digestParts := [(0, part0)] }

theorem witness_CompareExtendQuoteAndContext_compareEqual :
    let e := compareEnt 0x410010; let s := runs e []; let x := running e [];
      Runs s 7 0x23 x e ∧ compareBad s x e = none ∧ Reads s s 7 (readRanges s x e ++ bRange e)
        ∧ readAll s x (srcRanges s x e) = readAll s x (bRange e) := by
  simp only [Runs, Reads, Clean]; decide +kernel
theorem witness_CompareExtendQuoteAndContext_compareUnequal :
    let e := compareEnt 0x400000; let s := runs e []; let x := running e [];
      Runs s 7 0x23 x e ∧ compareBad s x e = none := by
  simp only [Runs]; decide +kernel
theorem witness_CompareExtendQuoteAndContext_extend :
    ∀ dl ∈ [0, 48], let e := extendEnt dl; let s := runs e [16]; let x := running e [16];
      Runs s 7 0x24 x e ∧ x.engines ≠ [] ∧ extendBad s x e = none ∧ Reads s s 7 (readRanges s x e) ∧ dstReady s (dstOf e) 48 = true ∧ s.meas.length = 32 := by
  simp only [Runs, Reads, Clean]; decide +kernel
theorem witness_CompareExtendQuoteAndContext_quote :
    (let e := quoteEnt; let s := runs e [16]; let x := running e [16];
      Runs s 7 0x25 x e ∧ x.engines ≠ [] ∧ x.hashed = false ∧ quoteBad s x e = none)
    ∧ (let e := quoteEnt; let s := hashedRuns e [24] [1]; let x := hashedRunning e [24] [1];
      Runs s 7 0x25 x e ∧ x.hashed = true ∧ x.engines ≠ [] ∧ Clean s ∧ dstReady s (dstOf e) (dstLenOf e) = true) := by
  simp only [Runs, Clean]; decide +kernel
theorem witness_CompareExtendQuoteAndContext_ctxExport :
    let e := exportEnt; let s := exporting; let x := running e [];
      Runs s 7 0x26 x e ∧ earlierTouch s x (kindDigest e) = false ∧ exportBad s x e = none ∧ Clean s ∧ dstReady s (dstOf e) 288 = true
        ∧ openPart s (kindDigest e) x.ring = some part0 ∧ rngReady s = true ∧ x.seed = none := by
  simp only [Runs, Clean]; decide +kernel

/-- The base point of P-256, a valid public key. -/
def baseP256 : Bytes := toBe 32 p256.gx ++ toBe 32 p256.gy

/-- SIGN by ECDSA over SHA-256; VERIFY by Ed25519 with an inline key; AGREE over P-256 and, ephemeral, X25519; RSA_DECRYPT; MODMATH. -/
def signEnt : Bytes := ent (hd 0x30 0) 10 0 0x410000 16 0x420000 64 (prm [1, 1])
/-- SIGN over a digest that the host computed. -/
def signDigestEnt : Bytes := ent (hd 0x30 0x100) 10 0 0x410000 32 0x420000 64 (prm [1, 1])
def verifyEnt : Bytes := ent (hd 0x31 0x200) 0 0 0x410000 16 0 0 (prm ([4, 0, 0, 0, 0, 0, 0, 0] ++ toLe 4 0x430000 ++ toLe 4 64 ++ toLe 4 0x430040 ++ toLe 2 32))
/-- VERIFY by ECDSA P-256 of a digest with an inline key. -/
def verifyDigestEnt : Bytes := ent (hd 0x31 0x300) 0 0 0x410000 32 0 0 (prm ([1, 1, 0, 0, 0, 0, 0, 0] ++ toLe 4 0x430000 ++ toLe 4 64 ++ toLe 4 0x430040 ++ toLe 2 64))
def agreeEnt : Bytes := ent (hd 0x32 0) 10 0 0x410000 64 0 0 (prm [0x10])
def ephemeralEnt : Bytes := ent (hd 0x32 0x200) 0 0 0x410000 32 0x420000 32 (prm [0x12])
def rsaEnt : Bytes := ent (hd 0x33 0) 12 0 0x410000 256 0x420000 190 (prm [1])
def modEnt (op : Nat) : Bytes :=
  ent (hd 0x34 0) 0 0 0x410000 2 0x420000 2 (prm (toLe 2 op ++ toLe 2 2 ++ (if op = 2 then zeros 6 else toLe 4 0x410010 ++ toLe 2 2) ++ zeros 2 ++ toLe 4 0x430000))

theorem witness_PublicKeyEntries_sign :
    (∀ c ∈ [(signEnt, 16, true), (signDigestEnt, 24, false)], let e := c.1; let s := runs e [c.2.1]; let x := running e [c.2.1]; let n := takeShare 7 x 1 1 s;
      x.engines ≠ [] ∧ dstReady n (dstOf e) (dstLenOf e) = true ∧ Runs s 7 0x30 x e ∧ signEarly e = none
        ∧ keyStep s x (slotOf e) (pkJudge useSign [privateType (schemeOf e)]) = .key (key5 10) ∧ signLater s x e (key5 10) = none
        ∧ x.hashed = false ∧ hashesFirst e = c.2.2 ∧ Reads n n 7 (readRanges s x e) ∧ signDraw e = 0)
    ∧ (let e := signEnt; let s := hashedRuns e [24] (zeros 16); let x := hashedRunning e [24] (zeros 16);
      x.engines ≠ [] ∧ dstReady s (dstOf e) (dstLenOf e) = true ∧ Runs s 7 0x30 x e ∧ signEarly e = none ∧ x.hashed = true ∧ Clean s
        ∧ keyStep s x (slotOf e) (pkJudge useSign [privateType (schemeOf e)]) = .key (key5 10)) := by
  simp only [Runs, Reads, Clean]; decide +kernel
theorem witness_PublicKeyEntries_verify :
    (let e := verifyDigestEnt; let s := stored 0x430040 baseP256 (runs e [24]); let x := running e [24]; let n := takeShare 7 x 2 1 s;
      Runs s 7 0x31 x e ∧ verifyEarly e = none ∧ keyInline e = true ∧ verifyLater s x e = none ∧ Reads n n 7 (readRanges s x e ++ verifyExtra e)
        ∧ x.hashed = false ∧ hashesFirst e = false ∧ dstReady n (dstOf e) (dstLenOf e) = true
        ∧ publicOk (schemeOf e) (readAt n x (pubRange e).1 (pubRange e).2) (leAt (paramOf e) 0x18 4) = true)
    ∧ (let e := verifyEnt; let s := runs e [16]; let x := running e [16]; let n := takeShare 7 x 2 1 s;
      Runs s 7 0x31 x e ∧ verifyEarly e = none ∧ keyInline e = true ∧ verifyLater s x e = none ∧ Reads n n 7 (readRanges s x e) ∧ hashesFirst e = true)
    ∧ (let e := verifyEnt; let s := hashedRuns e [24] (zeros 16); let x := hashedRunning e [24] (zeros 16);
      Runs s 7 0x31 x e ∧ x.hashed = true ∧ Reads s s 7 (verifyExtra e)
        ∧ publicOk (schemeOf e) (readAt s x (pubRange e).1 (pubRange e).2) (leAt (paramOf e) 0x18 4) = true) := by
  simp only [Runs, Reads, Clean]; decide +kernel
theorem witness_PublicKeyEntries_agree :
    (let e := agreeEnt; let s := stored 0x410000 baseP256 (runs e [24]); let x := running e [24];
      Runs s 7 0x32 x e ∧ agreeEarly e = none ∧ ephemeral e = false
        ∧ keyStep s x (slotOf e) (pkJudge useAgree [privateType (schemeOf e)]) = .key (key5 10) ∧ agreeLater s x e = none
        ∧ (let n := takeShare 7 x 1 1 s; Reads n n 7 (readRanges s x e)
          ∧ (agreeSecret (schemeOf e) [] (beNat (slice (key5 10).value 0 32)) (readAll n x (srcRanges n x e))).isSome = true))
    ∧ (let e := ephemeralEnt; let s := runs e [24]; let x := running e [24];
      Runs s 7 0x32 x e ∧ agreeEarly e = none ∧ ephemeral e = true ∧ rngReady s = true ∧ x.seed = none ∧ agreeLater s x e = none
        ∧ (let n := takeShare 7 x 1 1 s; Reads n n 7 (readRanges s x e) ∧ rngReady n = true)) := by
  simp only [Runs, Reads, Clean]; decide +kernel
theorem witness_PublicKeyEntries_rsaDecrypt :
    let e := rsaEnt; let s := runs e [24, 25]; let x := running e [24, 25];
      Runs s 7 0x33 x e ∧ rsaEarly e = none ∧ keyStep s x (slotOf e) (pkJudge useDecrypt [0x20]) = .key (key5 12) ∧ rsaLater s x e (key5 12) = none
        ∧ (let n := takeShare 7 x 1 1 s; Reads n n 7 (readRanges s x e ++ labelReads e) ∧ dstReady n (dstOf e) (dstLenOf e) = true) := by
  simp only [Runs, Reads, Clean]; decide +kernel
theorem witness_PublicKeyEntries_modmath :
    ∀ op ∈ [1, 2], let e := modEnt op; let s := stored 0x430000 [0, 7] (runs e [24]); let x := running e [24];
      Runs s 7 0x34 x e ∧ modBad s x e = none ∧ Reads s s 7 (readRanges s x e ++ modExtra e) ∧ dstReady s (dstOf e) (modLen e) = true
        ∧ beNat (readAt s x (modM e).1 (modM e).2) = 7 ∧ beNat (readAll s x (srcRanges s x e)) < 7 := by
  simp only [Runs, Reads, Clean]; decide +kernel

/-- ISSUE by ECDSA with the number in the first octets; the two derivations from the AES key; RANDOM; ATTEST. -/
def issueEnt : Bytes := ent (hd 0x38 0) 10 0 0x410000 16 0x420000 80 (prm [1, 1, 0, 0, 0, 0, 8])
def deriveEnt (op fl dl : Nat) (p : Bytes) : Bytes := ent (hd op fl) 8 0 0x410000 16 (if dl = 0 then 0 else 0x420000) dl (prm p)
def randomEnt (fl dl : Nat) : Bytes := ent (hd 0x01 fl) 0 0 0 0 (if dl = 0 then 0 else 0x420000) dl (prm [16])
def attestEnt : Bytes := ent (hd 0x51 0) 0 0 0 0 0x420000 304 (zeros 32)
/-- The device whose hamper has drawn its issue number. -/
def issuing (l : List Nat) (b : Bool) : State := modHamper (runs issueEnt l) 7 (fun y => { y with drawn := some (256, 0), hashed := b, template := if b then zeros 16 else [] })

theorem witness_IssueDeriveRandomAndAttest_issue :
    (let e := issueEnt; let s := runs e []; let x := running e [];
      Runs s 7 0x38 x e ∧ issueEarly e = none ∧ keyStep s x (slotOf e) (pkJudge useIssue [privateType (schemeOf e)]) = .key (key5 10)
        ∧ Reads s s 7 (readRanges s x e) ∧ x.drawn = none ∧ x.replay = none ∧ issueLater s x e (key5 10) = none ∧ s.drawsStopped = false
        ∧ issueRules s x e = none ∧ capBad s x 0 1 = none ∧ canServe s ((mainNeed s x e).getD []) = true ∧ canServe s [digestPds] = true)
    ∧ (let e := issueEnt; let s := issuing [16] false; let x := { running e [16] with drawn := some (256, 0) };
      Runs s 7 0x38 x e ∧ issueEarly e = none ∧ x.engines ≠ [] ∧ x.hashed = false ∧ Reads s s 7 (readRanges s x e))
    ∧ (let e := issueEnt; let s := issuing [24] true; let x := { hashedRunning e [24] (zeros 16) with drawn := some (256, 0) };
      Runs s 7 0x38 x e ∧ x.engines ≠ [] ∧ Clean s ∧ dstReady s (dstOf e) (dstLenOf e) = true ∧ signDraw e = 0
        ∧ keyStep s x (slotOf e) (pkJudge useIssue [privateType (schemeOf e)]) = .key (key5 10)) := by
  simp only [Runs, Reads, Clean]; decide +kernel
theorem witness_IssueDeriveRandomAndAttest_derive :
    ∀ c ∈ ([(0x40, 0x100, 0, [0, 0, 16]), (0x40, 0, 16, [0, 0, 16]), (0x41, 0, 0, [0, 0, 16, 7, 4])] : List (Nat × Nat × Nat × Bytes)),
      let e := deriveEnt c.1 c.2.1 c.2.2.1 c.2.2.2; let s := runs e [0]; let x := running e [0];
      Runs s 7 c.1 x e ∧ x.engines ≠ [] ∧ (if c.1 = 0x40 then exportEarly e else tempEarly e) = none
        ∧ keyStep s x (slotOf e) (deriveJudge e) = .key (key5 8) ∧ deriveLater s x e = none ∧ s.rng.stopped = false
        ∧ (let n := takeShare 7 x 3 1 s; Reads n n 7 (readRanges s x e) ∧ dstReady n (dstOf e) (outLen e) = true) := by
  simp only [Runs, Reads, Clean]; decide +kernel
theorem witness_IssueDeriveRandomAndAttest_random :
    ∀ c ∈ ([(0x100, 0), (0, 16)] : List (Nat × Nat)), let e := randomEnt c.1 c.2; let s := runs e []; let x := running e [];
      Runs s 7 0x01 x e ∧ randomBad s x e = none ∧ Clean s ∧ dstReady s (dstOf e) (countOf e) = true ∧ rngReady s = true ∧ x.seed = none := by
  simp only [Runs, Clean]; decide +kernel
theorem witness_IssueDeriveRandomAndAttest_attest :
    (let e := attestEnt; let s := runs e [16]; let x := running e [16];
      Runs s 7 0x51 x e ∧ x.hashed = false ∧ x.engines ≠ [] ∧ attestBad s x e = none ∧ Clean s ∧ (rootOf s).isSome = true)
    ∧ (let e := attestEnt; let s := hashedRuns e [24] [1]; let x := hashedRunning e [24] [1];
      Runs s 7 0x51 x e ∧ x.hashed = true ∧ x.engines ≠ [] ∧ Clean s ∧ dstReady s (dstOf e) 304 = true)
    ∧ (let e := attestEnt; let s := { runs e [] with thermos := { up.thermos with drs := [] } }; let x := running e [];
      Runs s 7 0x51 x e ∧ attestBad s x e = none ∧ Clean s ∧ rootOf s = none ∧ dstReady s (dstOf e) 208 = true) := by
  simp only [Runs, Clean]; decide +kernel

/-- METER_POST of one record at the most, with a wait. -/
def postEnt (wait : Nat) : Bytes := ent (hd 0x60 0) 0 0 0 0 0x420000 224 (prm (toLe 4 1 ++ toLe 4 wait))
/-- The device that runs it for the operator, with a backlog. -/
def posting (wait : Nat) (l : List Nat) (b : List MeterRec) : State :=
  let s := modHamper (runs (postEnt wait) l) 7 (fun y => { y with domain := 0 })
  { s with thermos := { s.thermos with backlog := b } }
/-- A closed record. -/
def record0 : MeterRec :=
  { cls := 0, flags := 0, domain := 5, classMask := 1, epoch := 0, seq := 0, monoStart := 0, monoEnd := 9, wallStart := 0, wallEnd := 9,
    counts := [0, 0, 0, 0, 0], intervals := 1, intervalS := 3600 }
theorem witness_MeteringPostsClosesAndSaves :
    (∀ c ∈ ([(0, [24], [record0]), (0, [], []), (9, [], [])] : List (Nat × List Nat × List MeterRec)),
      let s := posting c.1 c.2.1 c.2.2; let x := { running (postEnt c.1) c.2.1 with domain := 0 };
      Runs s 7 0x60 x (postEnt c.1) ∧ postBad s x (postEnt c.1) = none ∧ laterPost s x = false ∧ Clean s ∧ x.replay = none
        ∧ dstReady s 0x420000 224 = true ∧ s.thermos.backlog = c.2.2 ∧ waitMs (postEnt c.1) = c.1)
    ∧ up.boot.mode = .operational ∧ (meterDomains up).Nodup ∧ up.thermos.backlog.length + (meterDomains up).length ≤ 256 ∧ sevOf up 19 0 ≤ 1
    ∧ 1 ≤ nextInterval up ∧ up.mono ≤ up.thermos.boundaryMono ∧ (meterDomains up).length = 2 ∧ State.reset.boot.mode ≠ .operational ∧ assocGet up.live 5 = none
    ∧ assocGet ({ up with live := [(5, [1, 2, 3, 4, 5])] } : State).live 5 = some [1, 2, 3, 4, 5] ∧ domExists up 5 = true := by
  simp only [Runs, Clean]; decide +kernel
theorem witness_MeteringPostsClosesAndSaves_timeout :
    let e := postEnt 9; let x := { running e [] with domain := 0, waiting := true }; let s := modHamper (posting 9 [] []) 7 (fun y => { y with waiting := true })
    Runs s 7 0x60 x e ∧ postBad s x e = none ∧ laterPost s x = false ∧ Clean s ∧ x.replay = none ∧ s.thermos.backlog = [] ∧ x.waiting = true
      ∧ boundaryDue (x.waitSince + msTicks (waitMs e)) s = false := by
  simp only [Runs, Clean]; decide +kernel

/-- A BOOT whose tests pass, as the environment reports it by default. -/
theorem witness_fair_boot : Fair ({} : BootEnv) := by simp only [Fair]; decide +kernel
theorem witness_ResetsClearWhatTheyClear :
    Fair ({} : BootEnv) ∧ up.thermos.recoveryOk = true ∧ (∀ c ∈ up.thermos.domains, c.2.failed = false) ∧ drsPresent up = true
      ∧ ({ pllLocks := false } : BootEnv).pllLocks = false ∧ up.boot.resetPending = false ∧ causeWritten up = true
      ∧ (let s := { withHampers [running nopEnt []] with boot := { up.boot with resetPending := true, resetBy := some 7 } };
          causeWritten s = false ∧ s.boot.resetBy = some 7 ∧ hamperOf s 7 = some (running nopEnt []))
      ∧ ({ up with boot := { up.boot with fatal := true } } : State).boot.fatal = true ∧ up.board.porHigh = true ∧ up.boot.mode ≠ .boot ∧ up.boot.fatal = false
      ∧ State.reset.boot.mode = .boot ∧ State.reset.board.porHigh = false := by
  simp only [Fair]; decide +kernel

/-- BOOT answers and its last step is due. -/
def booting (th : Thermos) (b : Board) : State := { up with boot := { mode := .boot, answering := true }, thermos := th, board := b }
theorem witness_BootEndsInTheModeItsConditionsName :
    (∀ th ∈ [up.thermos, { up.thermos with quarantine := true }, { up.thermos with debugPending := true },
        { up.thermos with claimed := false, domains := [], opAnchor := none }],
      Shape (booting th up.board) ∧ (booting th up.board).boot.mode = .boot ∧ (booting th up.board).boot.answering = true
        ∧ ∀ k ∈ ([4, 8, 11, 12, 19] : List Nat), ∀ src < 8, sevOf (booting th up.board) k src ≤ 3)
    ∧ (∀ b ∈ [{ up.board with recovSampled := false }, { up.board with openFuseIntact := true, testSampled := true }, { up.board with scrapFuse := true }],
      Shape (booting up.thermos b) ∧ (booting up.thermos b).boot.mode = .boot)
    ∧ up.boot.mode ≠ .boot := by
  simp only [Shape]; decide +kernel
theorem witness_severities (s : State) (k src : Nat) (h : (blockOf s k).sevs.all (fun v => decide (v ≤ 3)) = true) : sevOf s k src ≤ 3 := by
  unfold sevOf
  rcases Nat.lt_or_ge src (blockOf s k).sevs.length with hl | hl
  · rw [List.getD_eq_getElem _ _ hl]
    exact of_decide_eq_true (List.all_eq_true.mp h _ (List.getElem_mem hl))
  · rw [List.getD_eq_default _ _ hl]; decide

/-- A supply is lost; a flash write runs, cut short or not. -/
def noHp : State := { up with board := { up.board with vddioHpOk := false } }
def noMp : State := { up with board := { up.board with vddioMpOk := false }, mp := { up.mp with supplyLost := true } }
/-- A window write whose page is being programmed. -/
def writing : State :=
  modPort up 1 (fun x => { x with winQueue := [{ kind := .winWr, seq := 0, addr := 0x100000, data := [0x55], started := true, steps := [some 0] }] })
/-- A page program of an XIP port. -/
def programming : State :=
  modPort upXip 2 (fun x => { x with wip := true, winQueue := [{ kind := .program, seq := 0, addr := 0x100000, data := [0x55], started := true, steps := [some 0] }] })
theorem witness_SuppliesFallAndReturn :
    Shape up ∧ up.board.vddioHpOk = true ∧ up.board.porHigh = true ∧ (∀ p < 4, sevOf up p 4 ≤ 1) ∧ noHp.board.porHigh = true
      ∧ State.reset.board.porHigh = false ∧ noMp.mp.supplyLost = true ∧ ({ noMp with mp := up.mp } : State).mp.supplyLost = false ∧ Shape noHp ∧ noHp.board.vddioHpOk = false
      ∧ up.board.vddioMpOk = true ∧ sevOf up 4 6 ≤ 1 ∧ mastering writing = true ∧ (runningOp writing).isSome = true
      ∧ Shape noMp ∧ noMp.board.vddioMpOk = false ∧ busFree { noMp with board := up.board, mp := up.mp } = true ∧ noMp.mp.flashOk = true ∧ sevOf noMp 4 4 ≤ 1
      ∧ up.board.onVbat = false ∧ sevOf up 14 7 ≤ 1 := by
  simp only [Shape]; decide +kernel

/-- `CE_0` and `DE_0` run a hamper's entry. -/
def working (i : Nat) : State := runs cipherEnt [i]
theorem witness_AlarmsEraseEnginesAndTamperErasesRoots :
    Shape (working 0) ∧ Clean (working 0) ∧ (∀ k ∈ ([9, 10, 11, 17, 18] : List Nat), ∀ src < 8, sevOf (working 0) k src ≤ 3)
      ∧ sevOf (working 0) 16 2 ≤ 3 ∧ sevOf (working 0) 16 3 ≤ 3 ∧ (working 0).board.porHigh = true ∧ (pdOf (working 0) 0).running = some (.hamper 7)
      ∧ (hamperOf (working 0) 7).isSome = true ∧ (pdOf (working 0) 1).running = none ∧ (pdOf (working 0) 1).fences < 3
      ∧ (pdOf (working 16) 16).running.isSome = true
      ∧ bit upLocked.thermos.tamperArm 0 = true ∧ bit upLocked.thermos.tamperArm 3 = true ∧ bit up.thermos.tamperArm 0 = false
      ∧ ({ up with board := { up.board with onVbat := true } } : State).board.onVbat = true
      ∧ 4 ≤ (recentGlitches { up with board := { up.board with glitches := [1000, 1000, 1000, 1000] } }).length ∧ (recentGlitches up).length < 4 := by
  simp only [Shape, Clean]; decide +kernel

/-- A demand line, a drain, a queued window write wait at the memory port; the Tongs measure. -/
def lineDue (w : LineFor) : State := { up with mp := { up.mp with work := [.line 0x100000 w] } }
def writeDue : State := modPort up 1 (fun x => { x with winQueue := [{ kind := .winWr, seq := 0, addr := 0x100000, data := [0x55] }] })
def measuring (b : Bool) : State :=
  let s := { up with snoops := up.snoops.set 0 { state := 2, base := 0x100000, length := 1, chunk := if b then 4096 else 0 } }
  if b then modPd s 16 (fun d => { d with running := some (.tongs 0) }) else s
theorem witness_MemoryPortFinishesItsWork :
    Shape up ∧ onBus up = none ∧ onBus { up with mem := { up.mem with buffer := [(0x10000000, 256)] } } = some .drain
      ∧ onBus { up with mp := { up.mp with current := some .drain } } = some .drain
      ∧ (∀ w ∈ [LineFor.entry, .host 1, .fetch 1, .prefetch 1], onBus (lineDue w) = some (.read (.line 0x100000 w))
          ∧ (lineDue w).mp.flashOk = true ∧ waysFor (lineDue w) false ≠ [])
      ∧ onBus upFetching = some (.read (.line 0x100000 (.fetch 2))) ∧ (portOf upFetching 2).fetch = some { first := 0x100000, next := 0x100000, stop := 0x100200 }
      ∧ (let n : Snoop := { state := 1, base := 0x100000, length := 0x1000 }; max 0x100000 0x100000 < n.base + n.length ∧ n.base < min (0x100000 + 256) 0x100200)
      ∧ onBus writeDue = some .flash ∧ nextTransaction writeDue = some .flash ∧ (winOps writeDue).map (·.1) = [1] ∧ (winOps writeDue).all (fun c => (planOp writeDue c.2).steps != []) = true
      ∧ busFree writing = true ∧ (runningOp writing).map (·.1) = some 1 ∧ (runningOp programming).map (·.1) = some 2 ∧ sevOf writing 4 2 ≤ 1
      ∧ writing.mp.interrupted = false ∧ busFree up = true ∧ runningOp up = none ∧ up.mp.statusDue = false
      ∧ ({ up with mp := { up.mp with statusDue := true } } : State).mp.statusDue = true
      ∧ backfillOpen (measuring false) = true ∧ tongsEngine (measuring false) = none
      ∧ (measuring false).snoops.zipIdx.find? (fun c => c.1.state == 2) = some ({ state := 2, base := 0x100000, length := 1 }, 0)
      ∧ tongsGrant (measuring false) = some 16 ∧ tongsEngine (measuring true) = some (16, 0) ∧ sevOf (measuring true) 18 0 ≤ 1
      ∧ chunkOver ((measuring false).snoops.getD 0 {}) = true ∧ chunkOver ((measuring true).snoops.getD 0 {}) = false
      ∧ backfillOpen (measuring true) = true ∧ writeCovers (measuring true) 0x100000 1 = false := by
  simp only [Shape]; constructorm* _ ∧ _ <;> decide +kernel

/-- The external master holds the bus, or has just let it go. -/
def held : State := { upMeasured with board := { upMeasured.board with xselN := false }, mp := { upMeasured.mp with holdActive := true } }
def backedOff : State := { up with mp := { up.mp with backoffPending := true } }
theorem witness_ExternalMasterHoldsTheBus :
    Shape upMeasured ∧ upMeasured.board.xselN = true ∧ upMeasured.boot.mode ≠ .recovery ∧ upMeasured.board.porHigh = true
      ∧ State.reset.board.porHigh = false ∧ boundaryDue (held.mp.holdSince + 75 * 32768 / 1000000) held = false ∧ boundaryDue (held.mp.holdSince + 328) held = false
      ∧ 50000 < holdTotal { held with mono := 2000 } ∧ holdTotal up ≤ 50000 ∧ sevOf upMeasured 4 1 ≤ 1 ∧ sevOf upMeasured 18 1 ≤ 1
      ∧ mastering upMeasured = false ∧ mastering writing = true ∧ 2 ≤ (upMeasured.snoops.getD 0 {}).state ∧ (upMeasured.snoops.getD 1 {}).state < 2
      ∧ Shape held ∧ held.board.xselN = false ∧ held.mp.holdActive = true ∧ up.mp.backoffPending = false
      ∧ backedOff.mp.backoffPending = true ∧ backedOff.mp.holdActive = false ∧ busFree { backedOff with mp := up.mp } = true ∧ backedOff.mp.flashOk = true
      ∧ sevOf backedOff 4 4 ≤ 1 ∧ sevOf held 4 3 ≤ 1 ∧ held.boot.mode ≠ .recovery := by
  simp only [Shape]; decide +kernel

/-- Row 5 of bank 2 has been corrected three times; no spare of the bank is left. -/
def worn (b : Bool) : State :=
  { up with mem := { up.mem with rowCounts := [(2053, 3)], sparesOut := [] }
            thermos := { up.thermos with badSpares := if b then (List.range 32).map (fun j => (2, j)) else [] } }
theorem witness_ScrubWhiskAndEntropy :
    Shape up ∧ Clean up ∧ (pdOf up (36 + bankOf 0x400008)).st = .on ∧ up.mem.writeback.contains 0x400008 = false ∧ wordPoisoned up 0x400008 = false
      ∧ (∀ c ∈ ([(7, 0), (7, 1), (7, 2), (7, 3), (7, 6), (12, 2), (13, 0)] : List (Nat × Nat)), sevOf up c.1 c.2 ≤ 1)
      ∧ 3 ≤ assocGetD 0 (worn false).mem.rowCounts (2 * 1024 + 5) ∧ freeSpare (worn false) 2 = some 0 ∧ freeSpare (worn true) 2 = none
      ∧ (worn true).mem.sparesOut.contains 2 = false ∧ rngReady up = true ∧ (slotKey (runs nopEnt []) 8).isSome = true ∧ (pdOf up 49).st = .on
      ∧ (∀ c ∈ ([(9, 0), (15, 0), (16, 2), (16, 3), (18, 2)] : List (Nat × Nat)), sevOf up c.1 c.2 ≤ 3) ∧ up.rng.restarting = false
      ∧ ({ up with rng := { up.rng with restarting := true } } : State).rng.restarting = true
      ∧ sevOf up 15 1 = 4 ∧ (blockOf up 15).handling = false ∧ rngReady State.reset = false := by
  simp only [Shape, Clean]; decide +kernel

/-- A domain in another state, or closed. -/
def pdIn (i : Nat) (f : Pd → Pd) : State := modPd up i f
/-- Every GUARDED engine is gated while a hamper waits for one; the cap leaves room or not. -/
def gatedCe (cap : Nat) : State :=
  let s := withHampers [running cipherEnt []]
  let s := (List.range 8).foldl (fun s i => modPd s i (fun d => { d with st := .off })) s
  modPd { s with power := { s.power with capMw := cap } } 16 (fun d => { d with running := some (.hamper 30) })
theorem witness_DomainsGateWakeAndThrottle :
    Shape up ∧ pdIdle up 0 = true ∧ (pdOf up 0).policy = .auto ∧ (pdOf up 0).st = .on ∧ (pdOf up 0).closed = false
      ∧ drained (pdIn 0 (fun d => { d with closed := true })) 0 = true ∧ (pdOf (pdIn 40 (fun d => { d with closed := true })) 40).st = .on
      ∧ ({ up with power := { up.power with wakeQueue := [3, 5] } } : State).power.wakeQueue.take 4 = [3, 5]
      ∧ (pdOf (pdIn 3 (fun d => { d with st := .waking })) 3).st = .waking ∧ (pdOf (pdIn 49 (fun d => { d with st := .waking })) 49).st = .waking
      ∧ (pdOf (pdIn 45 (fun d => { d with st := .waking })) 45).st = .waking
      ∧ (let s := { pdIn 38 (fun d => { d with st := .waking }) with mem := { up.mem with missed := [2] } }; (pdOf s 38).st = .waking ∧ s.mem.missed.contains 2 = true ∧ s.mem.latent = [])
      ∧ (let s := gatedCe 8000; (hamperOf s 7).bind (waitingNeed s) = some [guardedPds] ∧ guardedPds.any (fun i => awake (pdOf s i) || coming (pdOf s i)) = false
          ∧ guardedPds.find? (fun i => wakeable (pdOf s i)) = some 0 ∧ capFits s 7 (setCharge [0]) = true ∧ (pdOf s 0).closed = false ∧ s.power.wakesNow < 4)
      ∧ (let s := gatedCe 500; capFits s 7 (setCharge [0]) = false ∧ s.power.capClaim = none ∧ capFits s 7 (needCharge [guardedPds]) = false)
      ∧ (let s := modPd upRing 38 (fun d => { d with st := .retain }); bankOf (entryAddr ring0 ring0.tail) = 2 ∧ (pdOf s 38).st = .retain ∧ ring0.poll ≠ 0
          ∧ (pdOf s 38).closed = false ∧ (pdOf s 38).retired = false ∧ (pdOf s 38).policy = .auto)
      ∧ (pdOf (pdIn 2 (fun d => { d with fenced := true })) 2).fenced = true
      ∧ (pdOf (pdIn 2 (fun d => { d with fenced := true, st := .off })) 2).st = .off ∧ sevOf up 16 0 ≤ 1 ∧ sevOf up 16 4 ≤ 1
      ∧ up.power.throttled = false ∧ up.power.tjCritical = false := by
  simp only [Shape]; decide +kernel

/-- The device in FACTORY, an injection aimed at the memory block, at an event that does not exist, at a tamper sensor. -/
def factory (v : Nat) : State := { up with boot := { up.boot with mode := .factory }, fiTarget := BitVec.ofNat 32 v }
theorem witness_TapClockStopsAndInjections :
    Shape up ∧ jtagOpen up = false ∧ jtagOpen (factory 0) = true ∧ up.board.rtcRunning = true ∧ up.board.porHigh = true ∧ sevOf up 17 2 ≤ 3
      ∧ (∀ v ∈ [0x00010703, 0x00001507, 0x00000E02], (factory v).boot.mode = .factory ∧ ServesReg (factory v) 1 {} 0xC44 1 ∧ ServesReg (factory v) 1 {} 0xC44 3)
      ∧ bits 0x00010703 12 8 = 7 ∧ 3 < sourceCount 7 ∧ bits 0x00001507 12 8 = 21 ∧ bits 0x00000E02 12 8 = 14
      ∧ ServesReg (factory 0) 1 {} 0xC4C 17 ∧ ServesReg (factory 0) 1 {} 0xC4C 18 := by
  simp only [Shape, ServesReg, Hears, Whole, Open]; decide +kernel

/-! Ill-formed commands: one for each check of WellFormed. -/

theorem test_wf_refuses_slow_clock : Instr.wf (.status 0 { sckMHz := 0 }) = false := by decide
theorem test_wf_refuses_fast_clock : Instr.wf (.nop 0 { sckMHz := 134 }) = false := by decide
theorem test_wf_refuses_long_address : Instr.wf (.memWr 0 {} (2 ^ 32) []) = false ∧ Instr.wf (.xipRead 2 {} (2 ^ 32) 1) = false := by decide
theorem test_wf_refuses_long_length : Instr.wf (.regRd 0 {} 0 (2 ^ 16)) = false := by decide
theorem test_wf_refuses_known_other : Instr.wf (.unknownOpcodeFrame 0 {} 0x50) = false ∧ Instr.wf (.gatedPortFrame 0 {} (.other 0x7F)) = false := by decide
theorem test_wf_refuses_boot_findings :
    Instr.wf (.porRelease { badRecords := [0x80000] }) = false ∧ Instr.wf (.porRelease { badSpares := [(8, 0)] }) = false
      ∧ Instr.wf (.seqWdtExpire { badBanks := [8] }) = false ∧ Instr.wf (.deviceFullReset { badEngines := [36] }) = false
      ∧ Instr.wf (.wdtTimeout 0 { readDummy := 256 }) = false := by decide
theorem test_wf_refuses_engine : Instr.wf (.engineGrant { engine := 36 }) = false := by decide
theorem test_wf_refuses_handle : Instr.wf (.keyLoadDone 5 0x4000) = false ∧ Instr.wf (.keyLoadDone 1024 8) = false := by decide
theorem test_wf_refuses_domain : Instr.wf (.meterCounterWrite 1024) = false := by decide
theorem test_wf_refuses_error_site : Instr.wf (.scrubPass [(0x01000000, 1)]) = false ∧ Instr.wf (.scrubPass [(0, 3)]) = false := by decide
theorem test_wf_refuses_word : Instr.wf (.correctionWriteback 4) = false ∧ Instr.wf (.correctionWriteback 0x01000000) = false := by decide
theorem test_wf_refuses_row : Instr.wf (.rowRemap 8 0) = false ∧ Instr.wf (.rowRemap 0 1024) = false := by decide
theorem test_wf_refuses_whisk_slot : Instr.wf (.whiskPass true [0x4000] 0) = false := by decide
theorem test_wf_refuses_foreign_write : Instr.wf (.xselRise 1 [(2 ^ 28, 0)]) = false := by decide
theorem test_wf_takes_a_frame : Instr.wf (.memRd 3 {} 0x400000 64) = true := by decide

/-! Values that the spec works out. -/

/-- R70: the check value of the CRC over "123456789". -/
theorem test_crc_check_value : crc16 (ascii "123456789") = 0x29B1 := by decide +kernel
/-- The walk-through of STATUS with the CRC enabled: the request CRC over 0x50, 0xAF. -/
theorem test_status_request_crc : frameCrc .status = 0x57B5 := by decide +kernel
/-- R99: PORT_ID of `HP_1`. -/
theorem test_port_id : regWord up 1 0 = 0x6516010B := by decide +kernel
/-- FIPS 180-4: SHA-256 of "abc". -/
theorem test_sha256 : sha256 (ascii "abc") = toBe 32 0xBA7816BF8F01CFEA414140DE5DAE2223B00361A396177A9CB410FF61F20015AD := by decide +kernel
/-- FIPS 202: SHA3-256 of the empty message. -/
theorem test_sha3 : hashAlg 5 32 [] = toBe 32 0xA7FFC6F8BF1ED76651C14756A061D662F580FF4DE43B49FA82D80A4B80F8434A := by decide +kernel

/-! Envelopes. The device UID is free (log entry 6), so an envelope for it is signed here by the one Ed25519 key pair whose signature of
every message is known: the neutral element, with R the neutral element and S zero. -/

theorem powModFuel_eq (m : Nat) : ∀ f b e, e < 2 ^ f → powModFuel f b e m = b ^ e % m
  | 0, b, e, h => by
    have : e = 0 := by simpa using h
    subst this; rfl
  | f + 1, b, e, h => by
    have hf : e / 2 < 2 ^ f := by omega
    have ih := powModFuel_eq m f (b * b % m) (e / 2) hf
    have hp : (b * b % m) ^ (e / 2) % m = (b * b) ^ (e / 2) % m := by rw [← Nat.pow_mod]
    have hb : (b * b) ^ (e / 2) = b ^ (2 * (e / 2)) := by rw [pow_mul, pow_two]
    have he : e = 2 * (e / 2) + e % 2 := by omega
    simp only [powModFuel, ih, hp, hb]
    split
    · rename_i h1
      conv_rhs => rw [he, h1, pow_succ, mul_comm]
      simp [Nat.mul_mod]
    · rename_i h1
      have : e % 2 = 0 := by omega
      conv_rhs => rw [he, this, Nat.add_zero]

theorem powMod_eq (b e m : Nat) : powMod b e m = b ^ e % m := by
  rw [powMod, powModFuel_eq _ _ _ _ (Nat.lt_log2_self), ← Nat.pow_mod]

/-- The neutral element, in any of its representations with a power of two for Z. -/
def Neutral (q : Ed) : Prop := ∃ j, q = (0, 2 ^ j % edP, 2 ^ j % edP, 0)

theorem neutral_zero : Neutral (0, 1, 1, 0) := ⟨0, rfl⟩

theorem edAdd_neutral {a b : Ed} (ha : Neutral a) (hb : Neutral b) : Neutral (edAdd a b) := by
  obtain ⟨i, rfl⟩ := ha
  obtain ⟨j, rfl⟩ := hb
  refine ⟨(i + j + 1) + (i + j + 1), ?_⟩
  simp only [edAdd]
  generalize edP = p
  have h1 : (2 ^ i % p + p - 0) * (2 ^ j % p + p - 0) % p = 2 ^ (i + j) % p := by simp [Nat.mul_mod, pow_add]
  have h2 : (2 ^ i % p + 0) * (2 ^ j % p + 0) % p = 2 ^ (i + j) % p := by simp [Nat.mul_mod, pow_add]
  have h3 : 2 * (2 ^ i % p) * (2 ^ j % p) % p = 2 ^ (i + j + 1) % p := by
    rw [pow_succ, pow_add, mul_comm (2 ^ i * 2 ^ j) 2, ← mul_assoc]; simp [Nat.mul_mod]
  have h4 : (2 ^ (i + j) % p + 2 ^ (i + j) % p) % p = 2 ^ (i + j + 1) % p := by
    rw [pow_succ, mul_two]; simp [Nat.add_mod]
  have h5 : (2 ^ (i + j + 1) % p) * (2 ^ (i + j + 1) % p) % p = 2 ^ ((i + j + 1) + (i + j + 1)) % p := by
    rw [← Nat.mul_mod, ← pow_add]
  have h6 : (2 ^ (i + j) % p + p - 2 ^ (i + j) % p) % p = 0 := by rw [Nat.add_sub_cancel_left, Nat.mod_self]
  have h7 : (2 ^ (i + j + 1) % p + p - 2 * 0 * 0 % p * edD % p) % p = 2 ^ (i + j + 1) % p := by simp
  have h8 : (2 ^ (i + j + 1) % p + 2 * 0 * 0 % p * edD % p) % p = 2 ^ (i + j + 1) % p := by simp
  simp only [h1, h2, h3, h4, h6, h7, h8, h5, Nat.zero_mul, Nat.zero_mod]

theorem edMul_neutral : ∀ f k {q : Ed}, Neutral q → Neutral (edMul f k q)
  | 0, _, _, _ => neutral_zero
  | f + 1, k, q, h => by
    have ih := edMul_neutral f (k / 2) (edAdd_neutral h h)
    simp only [edMul]
    split
    · exact edAdd_neutral h ih
    · exact ih

theorem edMul_zero : ∀ f (q : Ed), edMul f 0 q = (0, 1, 1, 0)
  | 0, _ => rfl
  | f + 1, q => by simp [edMul, edMul_zero f]

theorem edEncode_neutral {q : Ed} (h : Neutral q) : edEncode q = toLe 32 1 := by
  obtain ⟨j, rfl⟩ := h
  have hf : 2 ^ (edP - 1) % edP = 1 := by rw [← powMod_eq]; decide +kernel
  have hp : edP - 2 + 1 = edP - 1 := by decide
  have hy : 2 ^ j % edP * invMod (2 ^ j % edP) edP % edP = 1 := by
    have h1 : 1 % edP = 1 := by decide
    rw [invMod, powMod_eq, ← Nat.pow_mod]
    rw [Nat.mod_mul_mod, Nat.mul_mod_mod, ← pow_succ', hp, ← pow_mul, mul_comm, pow_mul, Nat.pow_mod, hf, one_pow, h1]
  simp [edEncode, hy]

/-- The neutral element as a public key, and its signature of every message. -/
def neutralPub : Bytes := toLe 32 1
def neutralSig : Bytes := toLe 32 1 ++ zeros 32

theorem edDecode_neutral : edDecode (toLe 32 1) = some (0, 1, 1, 0) := by
  have hv : leNat (toLe 32 1) = 1 := by decide
  have hp : 1 < edP := by decide
  have he : (edP + 3) / 8 ≠ 0 := by decide
  have hx : edX 1 0 = some 0 := by
    have hu : (1 * 1 + edP - 1) % edP = 0 := by simp
    simp only [edX, hu, powMod_eq, Nat.zero_mul, Nat.zero_mod, zero_pow he]
    simp [Nat.not_le.mpr hp]
  simp [edDecode, hv, hx]

theorem verify_neutral (m : Bytes) : verifyEd neutralPub m neutralSig = .holds := by
  have hl : neutralSig.length = 64 := by decide
  have ht : neutralSig.take 32 = toLe 32 1 := by decide
  have hd : leNat (neutralSig.drop 32) = 0 := by decide
  have hL : ¬(edL ≤ 0) := by decide
  have hv : ∀ rb, edVerify neutralPub (0, 1, 1, 0) (0, 1, 1, 0) rb 0 m = true := by
    intro rb
    simp only [edVerify, edMul_zero]
    rw [edEncode_neutral (edMul_neutral 4 8 neutral_zero),
      edEncode_neutral (edMul_neutral 4 8 (edAdd_neutral neutral_zero (edMul_neutral 256 _ neutral_zero)))]
    simp
  simp only [verifyEd, hl, ht, hd, neutralPub, edDecode_neutral, hL]
  simp only [neutralPub] at hv
  simp [hv, verdictOf]

/-- SIGNER_PUB of that key. -/
def signer : Bytes := neutralPub ++ zeros 64
/-- An envelope for this device from an authority, signed by that key; `c` is its CLEAR byte, 1 in the clear (R317). -/
def envOf (c typ dom ctr : Nat) (p : Bytes) : Bytes :=
  octets [0x5A, 0x55, 0x4F, 0x31, 0x01, typ, 2, c] ++ uid ++ toLe 2 dom ++ zeros 2 ++ toLe 4 p.length ++ toLe 8 ctr ++ zeros 8 ++ zeros 112
    ++ signer ++ p ++ zeros 16 ++ neutralSig ++ zeros 32
/-- The ENVELOPE entry that delivers a payload of a length. -/
def envEnt (n : Nat) : Bytes := ent (hd 0x50 0) 0 0 0x410000 (368 + n) 0x420000 400 (zeros 32)
/-- The hamper that runs it on a digest and a public-key engine, the envelope staged. -/
def envHamper (v : Bytes) (n : Nat) : Hamper := { running (envEnt n) [16, 24] with staged := v }
/-- A device of a state with that hamper on ring 0; operator and domain 5 have the key above. -/
def delivers (v : Bytes) (n : Nat) (s : State) : State :=
  let t := s.thermos
  [16, 24].foldl (fun s i => modPd s i (fun d => { d with running := some (.hamper 7) })) { s with
    rings := [(0, { ring0 with tail := 1 })], hampers := [envHamper v n]
    thermos := { t with opAnchor := t.opAnchor.map (fun _ => sha256 signer),
                        domains := t.domains.map (fun c => (c.1, { c.2 with anchorAlg := 2, anchor := sha256 signer })) } }

theorem slice_middle (a m b : Bytes) (n k : Nat) (hn : a.length = n) (hk : m.length = k) : slice (a ++ m ++ b) n k = m := by
  subst hn hk
  simp [slice]

theorem length_toLe : ∀ n v, (toLe n v).length = n
  | 0, _ => rfl
  | n + 1, v => by simp [toLe, length_toLe n]

theorem leNat_toLe : ∀ n v, leNat (toLe n v) = v % 256 ^ n
  | 0, v => by simp [toLe, leNat, Nat.mod_one]
  | n + 1, v => by
    rw [toLe, leNat, leNat_toLe n, pow_succ', Nat.mod_mul]
    simp

theorem note_stored (n : Nat) (v : Bytes) (b : State) (hl : b.mem.latent = []) (hn : n ≠ 0) :
    noteReads [(0x410000, n)] (stored 0x410000 v b) = stored 0x410000 v (noteReads [(0x410000, n)] b) := by
  have h1 : isCup 0x410000 = false := by decide
  have h2 : isWindow 0x410000 = false := by decide
  have h3 : inLarder 0x410000 = false := by decide
  simp only [noteReads, List.foldl, noteRead, h1, h2, h3, hn, touch, touchPantry, if_false, Bool.false_eq_true, or_self]
  show List.foldl _ _ (List.filter _ b.mem.latent) = stored _ _ (List.foldl _ _ (List.filter _ b.mem.latent))
  rw [hl]
  rfl

/-- What of the rules of the entry and of steps 1 to 5 of R323 can be evaluated. -/
def envChecks (c typ dom ctr : Nat) (p : Bytes) (s0 : State) : Bool :=
  let n := p.length; let v := envOf c typ dom ctr p; let s := delivers v n s0; let e := envEnt n; let x := envHamper v n
  enginesRun s x && !hamperStopped x && decide (opcode e = 0x50) && decide (bits (hdr e) 26 24 = 0) && opAllowed s 0x50 && !laterEnvelope s x
    && decide (srcLenOf e = 368 + n) && decide (s0.mem.latent = [] ∧ s0.mem.badTags = [] ∧ s0.mem.poison = []) && decide (envTyp v = typ)
    && formatOk v (368 + n) && typeAccepted s x v && authorityOk s v && canServe s [digestPds] && canServe s [pkPds] && signerFormOk v
    && decide (envAlg v = 2) && decide (p.length < 0x8000)
/-- What of the checks after the signature can be evaluated. -/
def specChecks (sp : EnvSpec) (dom ctr : Nat) (p : Bytes) (s0 : State) : Bool :=
  let n := p.length; let v := envOf 1 sp.typ dom ctr p; let s := delivers v n s0; let e := envEnt n
  decide (judgeCounter s (envHamper v n) v = .accept p) && sp.payloadOk s p && !sp.conflict s v p && decide (sp.replyLen p ≤ dstLenOf e)
    && (!sp.archive || decide (s.boot.mode = .recovery) || s.mp.flashOk) && (!sp.archive || !s.mp.flashOk || mpReady s)
    && (!sp.draws s p || rngReady s) && dstReady s (dstOf e) (sp.replyLen p) && !s.thermos.setPending

theorem uid_length : uid.length = 16 := by simp [uid]

theorem env_uid (c typ dom ctr : Nat) (p : Bytes) : slice (envOf c typ dom ctr p) 8 16 = uid := by
  unfold envOf
  simp only [List.append_assoc]
  rw [← List.append_assoc]
  exact slice_middle _ _ _ _ _ rfl uid_length

theorem env_signer (c typ dom ctr : Nat) (p : Bytes) : envSigner (envOf c typ dom ctr p) = signer := by
  unfold envSigner envOf
  have h := slice_middle (octets [0x5A, 0x55, 0x4F, 0x31, 0x01, typ, 2, c] ++ uid ++ toLe 2 dom ++ zeros 2 ++ toLe 4 p.length ++ toLe 8 ctr ++ zeros 8 ++ zeros 112)
    signer (p ++ zeros 16 ++ neutralSig ++ zeros 32) 0xA0 96 (by simp [octets, uid_length, length_toLe, zeros]) (by decide)
  simpa only [List.append_assoc] using h

theorem env_len (c typ dom ctr : Nat) (p : Bytes) (hp : p.length < 2 ^ 32) : envLen (envOf c typ dom ctr p) = p.length := by
  unfold envLen envOf leAt
  have h := slice_middle (octets [0x5A, 0x55, 0x4F, 0x31, 0x01, typ, 2, c] ++ uid ++ toLe 2 dom ++ zeros 2) (toLe 4 p.length)
    (toLe 8 ctr ++ zeros 8 ++ zeros 112 ++ signer ++ p ++ zeros 16 ++ neutralSig ++ zeros 32) 0x1C 4
    (by simp [octets, uid_length, length_toLe, zeros]) (length_toLe _ _)
  simp only [List.append_assoc] at h ⊢
  rw [h, leNat_toLe, Nat.mod_eq_of_lt (by simpa using hp)]

theorem env_sig (c typ dom ctr : Nat) (p : Bytes) (hp : p.length < 2 ^ 32) : envSignature (envOf c typ dom ctr p) = neutralSig ++ zeros 32 := by
  unfold envSignature
  rw [env_len _ _ _ _ _ hp]
  unfold envOf
  have h := slice_middle (octets [0x5A, 0x55, 0x4F, 0x31, 0x01, typ, 2, c] ++ uid ++ toLe 2 dom ++ zeros 2 ++ toLe 4 p.length ++ toLe 8 ctr ++ zeros 8 ++ zeros 112
    ++ signer ++ p ++ zeros 16) (neutralSig ++ zeros 32) [] (0x110 + p.length) 96 (by
      have hs : signer.length = 96 := by decide
      simp [octets, uid_length, length_toLe, zeros, hs]; omega) (by decide)
  simpa only [List.append_assoc, List.append_nil] using h

theorem env_length (c typ dom ctr : Nat) (p : Bytes) : (envOf c typ dom ctr p).length = 368 + p.length := by
  have hs : signer.length = 96 := by decide
  have hn : neutralSig.length = 64 := by decide
  have ho : (octets [0x5A, 0x55, 0x4F, 0x31, 0x01, typ, 2, c]).length = 8 := rfl
  have hz : ∀ n, (zeros n).length = n := fun n => List.length_replicate
  simp only [envOf, List.length_append, ho, hz, uid_length, length_toLe, hs, hn]
  omega

theorem env_signature (c typ dom ctr : Nat) (p : Bytes) (ha : envAlg (envOf c typ dom ctr p) = 2) (hp : p.length < 2 ^ 32) :
    signatureOk (envOf c typ dom ctr p) = true := by
  have h1 : allZero ((neutralSig ++ zeros 32).drop 64) = true := by decide
  have h2 : (neutralSig ++ zeros 32).take 64 = neutralSig := by decide
  have h3 : signer.take 32 = neutralPub := by decide
  simp [signatureOk, ha, env_signer, env_sig _ _ _ _ _ hp, h1, h2, h3, verify_neutral]

theorem staged_env (c typ dom ctr : Nat) (p : Bytes) (s0 : State) (hc : envChecks c typ dom ctr p s0 = true)
    (ho : signerOk (delivers (envOf c typ dom ctr p) p.length s0) (envOf c typ dom ctr p) = true) :
    let s := delivers (envOf c typ dom ctr p) p.length s0
    let v := envOf c typ dom ctr p
    Stages typ {} s s 7 (envHamper v p.length) (envEnt p.length) v
      ∧ judgeEnvelope s (envHamper v p.length) .none v (srcLenOf (envEnt p.length)) = judgeCounter s (envHamper v p.length) v := by
  intro s v
  simp only [envChecks, Bool.and_eq_true, decide_eq_true_eq, Bool.not_eq_true'] at hc
  obtain ⟨⟨⟨⟨⟨⟨⟨⟨⟨⟨⟨⟨⟨⟨⟨⟨c1, c2⟩, c3⟩, c4⟩, c5⟩, c6⟩, c7⟩, c8⟩, c9⟩, c10⟩, c11⟩, c12⟩, c13⟩, c14⟩, c15⟩, c16⟩, c17⟩ := hc
  have hr : runnable s 7 = some (envHamper v p.length, envEnt p.length) := by
    have h : hamperOf s 7 = some (envHamper v p.length) := rfl
    have ha : (envHamper v p.length).admitted = true := rfl
    simp only [runnable, h, ha, c1, c2, s, v]
    rfl
  have hcl : Clean s := c8
  refine ⟨⟨⟨rfl, rfl, rfl, rfl⟩, ⟨hr, c3, rfl, c4, c5, Laws.touchEntry_clean hcl _ _⟩, c6, rfl, by simp [v, envOf, octets], c9, rfl⟩, ?_⟩
  have hx : ((envHamper v p.length).engines = []) = False := by simp [envHamper, running]
  rw [c7]
  simp only [judgeEnvelope, c10, env_uid, c11, c12, c13, c14, ho, env_signature c typ dom ctr p c16 (by omega), hx, s, v]
  simp

theorem accepts_env (sp : EnvSpec) (dom ctr : Nat) (p : Bytes) (s0 : State) (hc : envChecks 1 sp.typ dom ctr p s0 = true) (hk : specChecks sp dom ctr p s0 = true)
    (ho : signerOk (delivers (envOf 1 sp.typ dom ctr p) p.length s0) (envOf 1 sp.typ dom ctr p) = true) :
    Accepts sp {} (delivers (envOf 1 sp.typ dom ctr p) p.length s0) (delivers (envOf 1 sp.typ dom ctr p) p.length s0) 7
      (envHamper (envOf 1 sp.typ dom ctr p) p.length) (envEnt p.length) (envOf 1 sp.typ dom ctr p) p := by
  obtain ⟨hs, hj⟩ := staged_env 1 sp.typ dom ctr p s0 hc ho
  simp only [specChecks, Bool.and_eq_true, decide_eq_true_eq, Bool.not_eq_true', Bool.or_eq_true] at hk
  obtain ⟨⟨⟨⟨⟨⟨⟨⟨k0, k1⟩, k2⟩, k3⟩, k4⟩, k5⟩, k6⟩, k7⟩, k8⟩ := hk
  refine ⟨hs, hj.trans k0, k1, k2, k3, ?_, ?_, ?_, k7, k8⟩
  · intro h; rcases k4 with (h' | h') | h'
    · rw [h] at h'; cases h'
    · exact Or.inl h'
    · exact Or.inr h'
  · intro h hf; rcases k5 with (h' | h') | h'
    · rw [h] at h'; cases h'
    · rw [hf] at h'; cases h'
    · exact h'
  · intro h; rcases k6 with h' | h'
    · rw [h] at h'; cases h'
    · exact h'

theorem signer_operator (c typ ctr : Nat) (p : Bytes) (n : Nat) (s0 : State) (h : (signerFormOk (envOf c typ 0xFFFF ctr p) && fromOperator (envOf c typ 0xFFFF ctr p)
    && decide (envAlg (envOf c typ 0xFFFF ctr p) = 2) && decide (s0.thermos.opAlg = 2)) = true) :
    signerOk (delivers (envOf c typ 0xFFFF ctr p) n s0) (envOf c typ 0xFFFF ctr p) = true := by
  simp only [Bool.and_eq_true, decide_eq_true_eq] at h
  obtain ⟨⟨⟨h1, h2⟩, h3⟩, h4⟩ := h
  rw [signerOk, h1, h2, env_signer, h3]
  cases hz : s0.thermos.opAnchor <;> simp [operatorKnown, delivers, modPd, hz, h4]

theorem signer_issuer (c typ ctr : Nat) (p : Bytes) (n : Nat) (s0 : State) (h : (signerFormOk (envOf c typ 5 ctr p) && !fromOperator (envOf c typ 5 ctr p)
    && decide (envAlg (envOf c typ 5 ctr p) = 2) && decide (envDomain (envOf c typ 5 ctr p) = 5)
    && decide (s0.thermos.domains = up.thermos.domains)) = true) :
    signerOk (delivers (envOf c typ 5 ctr p) n s0) (envOf c typ 5 ctr p) = true := by
  simp only [Bool.and_eq_true, decide_eq_true_eq, Bool.not_eq_true'] at h
  obtain ⟨⟨⟨⟨h1, h2⟩, h3⟩, h4⟩, h5⟩ := h
  have hd : domOf (delivers (envOf c typ 5 ctr p) n s0) 5 = { domUp 8 with anchorAlg := 2, anchor := sha256 signer } := by
    simp [domOf, delivers, modPd, h5, up, assocGetD, assocGet]
  rw [signerOk, h1, h2, env_signer, h3, h4, hd]
  simp [domUp]

/-- What an envelope's witness says: delivered to this device, it is accepted with its payload. -/
def Accepted (sp : EnvSpec) (dom : Nat) (p : Bytes) (s0 : State) : Prop :=
  let v := envOf 1 sp.typ dom 1 p
  Accepts sp {} (delivers v p.length s0) (delivers v p.length s0) 7 (envHamper v p.length) (envEnt p.length) v p

theorem accepted_operator (sp : EnvSpec) (p : Bytes) (s0 : State) (h : (envChecks 1 sp.typ 0xFFFF 1 p s0 && specChecks sp 0xFFFF 1 p s0
    && (signerFormOk (envOf 1 sp.typ 0xFFFF 1 p) && fromOperator (envOf 1 sp.typ 0xFFFF 1 p) && decide (envAlg (envOf 1 sp.typ 0xFFFF 1 p) = 2)
      && decide (s0.thermos.opAlg = 2))) = true) : Accepted sp 0xFFFF p s0 := by
  rw [Bool.and_eq_true, Bool.and_eq_true] at h
  exact accepts_env sp 0xFFFF 1 p s0 h.1.1 h.1.2 (signer_operator _ _ _ _ _ _ h.2)

theorem accepted_issuer (sp : EnvSpec) (p : Bytes) (s0 : State) (h : (envChecks 1 sp.typ 5 1 p s0 && specChecks sp 5 1 p s0
    && (signerFormOk (envOf 1 sp.typ 5 1 p) && !fromOperator (envOf 1 sp.typ 5 1 p) && decide (envAlg (envOf 1 sp.typ 5 1 p) = 2)
      && decide (envDomain (envOf 1 sp.typ 5 1 p) = 5) && decide (s0.thermos.domains = up.thermos.domains))) = true) : Accepted sp 5 p s0 := by
  rw [Bool.and_eq_true, Bool.and_eq_true] at h
  exact accepts_env sp 5 1 p s0 h.1.1 h.1.2 (signer_issuer _ _ _ _ _ _ h.2)

/-- The claimed device in RECOVERY, its operator at the terminal. -/
def recovering (auth : Bool) : State := { up with boot := { up.boot with mode := .recovery, recoveryAuth := auth } }
/-- The device whose manifests of domains 0 and 5 are known and whose archive is blank; key 8 of domain 5 is listed and loaded. -/
def archived : State :=
  { up with
    cellsKnown := true, keys := keys5
    manifests := [{ domain := 0, bytes := manBytes 0 0 [] },
      { domain := 5, bytes := manBytes 5 0 [{ handle := 8, span := 1, orphan := false, cell := 9, parent := 0xFFFF, typ := 1, tag := zeros 16 }] }] }
/-- An unclaimed device that has shown CLAIM_EN, on its bootstrap ring. -/
def unclaimed (m : Mode) : State :=
  modPort { up with
    boot := { up.boot with mode := m }, board := { up.board with claimEn := true }, cellsKnown := true
    thermos := { up.thermos with claimed := false, opAnchor := none } } 0 (fun x => { x with bootstrap := true, grant := bootGrant 0 })

theorem witness_AuthorityEnvelopesCommit_operatorRotate : Accepted operatorSpec 0xFFFF (toLe 8 2 ++ signer) up := accepted_operator _ _ _ (by decide +kernel)
theorem witness_AuthorityEnvelopesCommit_ownerRotate : Accepted ownerSpec 5 (toLe 8 2 ++ signer) up := accepted_issuer _ _ _ (by decide +kernel)
theorem witness_AuthorityEnvelopesCommit_debugUnlock : Accepted unlockSpec 0xFFFF (zeros 8) up := accepted_operator _ _ _ (by decide +kernel)
theorem witness_AuthorityEnvelopesCommit_recoveryAuth : Accepted authSpec 0xFFFF [] (recovering false) := accepted_operator _ _ _ (by decide +kernel)
theorem witness_AuthorityEnvelopesCommit_reRoot : Accepted rootSpec 0xFFFF (zeros 8) (recovering true) := accepted_operator _ _ _ (by decide +kernel)
theorem witness_AuthorityEnvelopesCommit_scrap : Accepted rootSpec 0xFFFF (toLe 8 0xA5) (recovering true) := accepted_operator _ _ _ (by decide +kernel)
/-- The payload of a CLAIM: slots 1 to 7 for domain 0, issue numbers from 1. -/
def claimPayload : Bytes := toLe 2 1 ++ toLe 2 7 ++ zeros 12 ++ toLe 8 1 ++ zeros 24
theorem witness_AuthorityEnvelopesCommit_claim : Accepted claimSpec 0xFFFF claimPayload (unclaimed .recovery) := accepted_operator _ _ _ (by decide +kernel)
theorem witness_AuthorityEnvelopesCommit_claimHere : Accepted claimSpec 0xFFFF claimPayload (unclaimed .operational) := accepted_operator _ _ _ (by decide +kernel)

theorem witness_DomainAndTimeEnvelopesCommit_create :
    Accepted createSpec 0xFFFF (toLe 2 6 ++ toLe 2 16 ++ toLe 2 8 ++ [2, 0] ++ zeros 8 ++ toLe 8 1 ++ zeros 8 ++ zeros 96) archived := accepted_operator _ _ _ (by decide +kernel)
theorem witness_DomainAndTimeEnvelopesCommit_destroy : Accepted destroySpec 0xFFFF (toLe 8 5) up := accepted_operator _ _ _ (by decide +kernel)
theorem witness_DomainAndTimeEnvelopesCommit_quota : Accepted quotaSpec 0xFFFF (toLe 2 5 ++ toLe 2 1 ++ zeros 28) up := accepted_operator _ _ _ (by decide +kernel)
theorem witness_DomainAndTimeEnvelopesCommit_rate :
    Accepted rateSpec 0xFFFF (toLe 2 5 ++ toLe 6 2 ++ toLe 8 3 ++ toLe 8 whenNow ++ toLe 8 1 ++ toLe 8 99 ++ zeros 96) up := accepted_operator _ _ _ (by decide +kernel)
theorem witness_DomainAndTimeEnvelopesCommit_meter : Accepted meterSpec 0xFFFF (toLe 16 60) up := accepted_operator _ _ _ (by decide +kernel)
theorem witness_DomainAndTimeEnvelopesCommit_time : Accepted timeSpec 0xFFFF (toLe 16 5000) up := accepted_operator _ _ _ (by decide +kernel)

/-! Envelopes of keys and devices, repeated and refused envelopes, loads, archive changes. -/

theorem witness_KeyAndDeviceEnvelopesCommit_layout :
    Accepted layoutSpec 0xFFFF (octets [0x53, 0x46, 0x4C, 0x31, 0x01, 2] ++ zeros 10 ++ octets [1, 0, 0, 0] ++ toLe 4 0x200000 ++ toLe 4 0x1000 ++ zeros 4
      ++ octets [2, 0, 0, 0] ++ toLe 4 0x7000000 ++ toLe 4 0x1000000 ++ zeros 4) archived := accepted_operator _ _ _ (by decide +kernel)
/-- A PORT_GRANT for HP_1: rings 16 to 20, granule 4, domain 5. -/
def grantPayload : Bytes :=
  octets [1, 4] ++ toLe 2 0 ++ toLe 2 16 ++ toLe 2 20 ++ zeros 24 ++ toLe 24 16 ++ zeros 8 ++ zeros 128 ++ toLe 128 32
theorem witness_KeyAndDeviceEnvelopesCommit_grant : Accepted grantSpec 0xFFFF grantPayload archived := accepted_operator _ _ _ (by decide +kernel)
theorem witness_KeyAndDeviceEnvelopesCommit_reference : Accepted referenceSpec 5 (toLe 8 9 ++ zeros 48) archived := accepted_issuer _ _ _ (by decide +kernel)
/-- A key header: an AES-128 key at slot 9. -/
def headerPayload : Bytes := toLe 2 9 ++ octets [1, 1] ++ toLe 2 4 ++ toLe 2 0xFFFF ++ zeros 24
theorem witness_KeyAndDeviceEnvelopesCommit_generate : Accepted generateSpec 5 headerPayload archived := accepted_issuer _ _ _ (by decide +kernel)
/-- KEY_IMPORT and KEY_REPLACE are encrypted to a key that the device's free UID is part of: staged, they pass every step but that, and
their payload every later one. -/
def importPayload (h : Nat) : Bytes := toLe 2 h ++ headerPayload.drop 2 ++ zeros 64
theorem witness_KeyAndDeviceEnvelopesCommit_import :
    ∀ c ∈ [(importSpec, 9), (replaceSpec, 8)],
      let sp := c.1; let p := importPayload c.2; let v := envOf 0 sp.typ 5 1 p; let s := delivers v p.length archived
      Stages sp.typ {} s s 7 (envHamper v p.length) (envEnt p.length) v
        ∧ judgeEnvelope s (envHamper v p.length) .none v (srcLenOf (envEnt p.length)) = .verified
        ∧ sp.payloadOk s p = true ∧ sp.conflict s v p = false ∧ sp.replyLen p ≤ dstLenOf (envEnt p.length) ∧ s.mp.flashOk = true ∧ mpReady s = true
        ∧ rngReady s = true ∧ dstReady s (dstOf (envEnt p.length)) (sp.replyLen p) = true ∧ s.thermos.setPending = false := by
  intro c hm
  simp only [List.mem_cons, List.not_mem_nil, or_false] at hm
  rcases hm with rfl | rfl
  · have h := staged_env 0 0x0D 5 1 (importPayload 9) archived (by decide +kernel) (signer_issuer _ _ _ _ _ _ (by decide +kernel))
    exact ⟨h.1, h.2.trans (by decide +kernel), by decide +kernel⟩
  · have h := staged_env 0 0x0F 5 1 (importPayload 8) archived (by decide +kernel) (signer_issuer _ _ _ _ _ _ (by decide +kernel))
    exact ⟨h.1, h.2.trans (by decide +kernel), by decide +kernel⟩
theorem witness_KeyAndDeviceEnvelopesCommit_destroyKey : Accepted destroyKeySpec 5 (toLe 8 8) archived := accepted_issuer _ _ _ (by decide +kernel)
theorem witness_KeyAndDeviceEnvelopesCommit_seal : Accepted sealSpec 5 (toLe 8 8) archived := accepted_issuer _ _ _ (by decide +kernel)

/-- Firsts of a run of cells below a bound have room after it. -/
theorem firstFit_isSome (n B : Nat) : ∀ (l : List Nat) (c : Nat), c ≤ B → (∀ u ∈ l, u < B) → B + n ≤ archiveCells → (firstFit n l c).isSome = true
  | [], c, hc, _, hB => by simp [firstFit, show c + n ≤ archiveCells by omega]
  | u :: t, c, hc, hl, hB => by
    rw [firstFit]
    split
    · rfl
    · exact firstFit_isSome n B t _ (by have := hl u (by simp); omega) (fun v hv => hl v (by simp [hv])) hB

theorem mem_insertNat : ∀ (l : List Nat) (a x : Nat), x ∈ insertNat l a → x ∈ l ∨ x = a
  | [], a, x, h => by simpa [insertNat] using h
  | k :: t, a, x, h => by
    rw [insertNat] at h
    split at h
    · simp at h ⊢; tauto
    · split at h
      · exact Or.inl h
      · rcases List.mem_cons.1 h with h | h
        · exact Or.inl (by simp [h])
        · rcases mem_insertNat t a x h with h | h
          · exact Or.inl (by simp [h])
          · exact Or.inr h

theorem mem_fold_insertNat (l : List Nat) : ∀ (u : List Nat) (x : Nat), x ∈ l.foldl insertNat u → x ∈ u ∨ x ∈ l := by
  induction l with
  | nil => intro u x h; exact Or.inl h
  | cons a t ih =>
    intro u x h
    rcases ih _ x h with h | h
    · rcases mem_insertNat _ _ _ h with h | h
      · exact Or.inl h
      · exact Or.inr (by simp [h])
    · exact Or.inr (by simp [h])

/-- Two short runs have room in an empty archive. -/
theorem placeRuns_two (a b : Nat) (h : a + b ≤ 1000) : ∃ l, placeRuns [a, b] [] = some l := by
  have h1 : firstFit a [] 0 = some 0 := by simp [firstFit, archiveCells]; omega
  have h2 : (firstFit b ((cellRun 0 a).foldl insertNat []) 0).isSome = true := by
    refine firstFit_isSome b a _ 0 (Nat.zero_le _) (fun u hu => ?_) (by simp only [archiveCells]; omega)
    rcases mem_fold_insertNat _ _ _ hu with h' | h'
    · simp at h'
    · simp [cellRun] at h'; exact h'
  obtain ⟨c, hc⟩ := Option.isSome_iff_exists.1 h2
  exact ⟨[0, c], by simp [placeRuns, h1, hc]⟩

theorem sum_chunksFuel (n : Nat) : ∀ (f : Nat) (b : Bytes), ((chunksFuel f n b).map List.length).sum ≤ b.length
  | 0, b => by simp [chunksFuel]
  | f + 1, [] => by simp [chunksFuel]
  | f + 1, x :: t => by
    have := sum_chunksFuel n f ((x :: t).drop n)
    simp only [chunksFuel, List.map_cons, List.sum_cons, List.length_take, List.length_drop] at *
    omega

theorem length_ctr (n : Nat) (ks : List Bytes) : ∀ (l : List Bytes) (a : Bytes × Bytes),
    (l.foldl (fun (s : Bytes × Bytes) b => (s.1 ++ xorBytes b (aesEncWith ks s.2), ctrNext n s.2)) a).1.length ≤ a.1.length + (l.map List.length).sum
  | [], a => by simp
  | b :: t, a => by
    have := length_ctr n ks t (a.1 ++ xorBytes b (aesEncWith ks a.2), ctrNext n a.2)
    simp only [List.foldl_cons, List.map_cons, List.sum_cons, List.length_append, xorBytes, List.length_zipWith] at *
    omega

theorem length_gcmCrypt (k iv : Bytes) (m : Bytes) : (gcmCrypt k iv 0 m).length ≤ m.length := by
  simp only [gcmCrypt, aesCtr]
  have h := sum_chunksFuel 16 m.length m
  refine (length_ctr _ _ _ _).trans ?_
  simpa only [chunks, List.length_nil, Nat.zero_add] using h

theorem length_gcmTag (k iv a c : Bytes) : (gcmTag k iv a c).length ≤ 16 := by
  simp only [gcmTag, xorBytes, List.length_zipWith, ghash, toBe, List.length_reverse, length_toLe]
  exact Nat.min_le_right _ _

theorem length_fitTo (n : Nat) (b : Bytes) : (fitTo n b).length = n := by simp only [fitTo, slice, List.length_append, List.length_take, List.length_drop, List.length_replicate]; omega

theorem length_blob (w hd v iv : Bytes) : (blobBytes w hd v iv).length ≤ hd.length + v.length + 16 := by
  have h1 := length_gcmCrypt w iv v
  have h2 := length_gcmTag w iv hd (gcmCrypt w iv 0 v)
  simp only [blobBytes, List.length_append]
  omega

theorem length_header (d h p e : Nat) (k : Key) (iv : Bytes) : (blobHeader d h p e k iv).length = 48 := by
  simp [blobHeader, octets, length_toLe, length_fitTo, zeros]

/-- A top-level key finds room in an empty archive whose manifests are known. -/
theorem stored_witness (s : State) (d h : Nat) (k : Key) (iv : Bytes) (gone : List Nat) (hm : manifestTrouble s d = none) (hl : learnCells s = s)
    (hu : s.usedCells = []) (hk : k.span ≤ 20)
    (he : ∀ e : ManEntry, e.handle = h → (putManEntry e (orphan gone (editEntries s d))).length ≤ 64) :
    ∃ u, Stored s u d h 0xFFFF k iv gone := by
  obtain ⟨w, hw⟩ : ∃ w, wrapFor s d h k.typ 0xFFFF = .ok w := ⟨_, by simp [wrapFor]; rfl⟩
  set b := blobBytes w (blobHeader d h 0xFFFF (domOf s d).epoch k iv) (fitTo (64 * k.span) k.value) iv with hb
  have hlen : b.length ≤ 48 + 64 * k.span + 16 := by
    have := length_blob w (blobHeader d h 0xFFFF (domOf s d).epoch k iv) (fitTo (64 * k.span) k.value) iv
    rw [length_header, length_fitTo] at this
    exact this
  let e : ManEntry := { handle := h, span := k.span, orphan := false, cell := 0, parent := 0xFFFF, typ := k.typ, tag := slice b (48 + 64 * k.span) 16 }
  have hwk : wrapKey s d h 0xFFFF k iv = .ok (b, e) := by simp [wrapKey, wrapBlob, hw, Except.map, ← hb, e]
  let c : ArcChange := { domain := d, debug := onTestRoot s, epoch := (domOf s d).epoch, entries := putManEntry e (orphan gone (editEntries s d)), blobs := [(h, b)] }
  obtain ⟨l, hp⟩ : ∃ l, placeRuns (changeRuns c) s.usedCells = some l := by
    rw [hu]
    refine placeRuns_two _ _ ?_
    have := he e rfl
    simp only [manCells, c]
    omega
  refine ⟨applyChange c l s, (b, e), hm, hwk, ?_⟩
  have hr : roomy c s = true := by rw [hu] at hp; simp [roomy, hp, hu, archiveCells]
  show writeChange true true c s = _
  simp [writeChange, hl, compactFails, makeRoom, hr, placeChange, hp]

theorem witness_KeyAndDeviceEnvelopesCommit_stored :
    (∀ (k : Key) (iv : Bytes), k.span ≤ 20 → ∃ u, Stored (afterDraw archived 12) u 5 9 0xFFFF k iv [])
    ∧ ∀ (k : Key) (iv : Bytes), k.span ≤ 20 → ∃ u, Stored (afterDraw archived 12) u 5 8 0xFFFF k iv [] := by
  refine ⟨fun k iv hk => stored_witness _ _ _ _ _ _ (by decide +kernel) rfl rfl hk ?_, fun k iv hk => stored_witness _ _ _ _ _ _ (by decide +kernel) rfl rfl hk ?_⟩
  all_goals
    intro e he
    have : editEntries (afterDraw archived 12) 5 = [{ handle := 8, span := 1, orphan := false, cell := 9, parent := 0xFFFF, typ := 1, tag := zeros 16 }] := by decide +kernel
    rw [this]
    simp [orphan, putManEntry, he]

/-- A change without blobs finds room in an empty archive. -/
theorem change_witness (s : State) (c : ArcChange) (hl : learnCells s = s) (hu : s.usedCells = []) (hb : c.blobs = []) (he : c.entries.length ≤ 64) :
    ∃ u, writeChange true true c s = .done u := by
  obtain ⟨l, hp⟩ : ∃ l, placeRuns (changeRuns c) s.usedCells = some l := by
    have h : firstFit (manCells c.entries.length) [] 0 = some 0 := by simp [firstFit, manCells, archiveCells]; omega
    exact ⟨[0], by simp [changeRuns, hb, hu, placeRuns, h]⟩
  refine ⟨applyChange c l s, ?_⟩
  have hr : roomy c s = true := by rw [hu] at hp; simp [roomy, hp, hu, archiveCells]
  simp [writeChange, hl, compactFails, makeRoom, hr, placeChange, hp]

theorem witness_DomainAndTimeEnvelopesCommit_archive : ∃ u, writeChange true true (emptyManifest 6 2) archived = .done u :=
  change_witness _ _ rfl rfl rfl (by decide)
theorem witness_AuthorityEnvelopesCommit_archive : ∃ u, writeChange true true (emptyManifest 0 1) (unclaimed .operational) = .done u :=
  change_witness _ _ rfl rfl rfl (by decide)
theorem witness_KeyAndDeviceEnvelopesCommit_change :
    ∃ u, writeChange true true { domain := 5, debug := onTestRoot archived, epoch := (domOf archived 5).epoch, entries := (orphan [] (editEntries archived 5)).filter (fun o => o.handle != 8), blobs := [] } archived = .done u :=
  change_witness _ _ rfl rfl rfl (by decide +kernel)

/-- Slot 9 of domain 5 is listed as a child of the loaded key 8; its blob stands in cell 9. -/
def childTag : Bytes := octets [119, 111, 217, 208, 65, 129, 96, 247, 192, 31, 12, 118, 57, 57, 72, 251]
/-- The header of that blob. -/
def childHeader : Bytes :=
  blobHeader 5 9 8 0 { typ := 1, span := 1, cls := 1, debug := false, usage := 4, domain := 5, size := 0, sealRef := 0, sealMeas := 0, param := 0, value := [] } (zeros 12)
/-- The device that is loading it. -/
def loading : State :=
  { up with
    keys := keys5.filter (fun c => c.1 == 8), loads := [(5, 9)]
    manifests := [{ domain := 5, bytes := manBytes 5 0 [{ handle := 9, span := 1, orphan := false, cell := 9, parent := 8, typ := 1, tag := childTag }] }]
    mp := { up.mp with flash := memWrite 0xFF [] (2 ^ 27 - 0x01000000 + 128 * 9) (childHeader ++ zeros 64 ++ childTag) } }
theorem witness_EnvelopeRepeatsReplaysAndLoads_load :
    loading.loads.contains (5, 9) = true ∧ mpReady loading = true ∧ rngReady loading = true ∧ slotKey loading 9 = none ∧ domActive loading 5 = true
      ∧ ∃ ks, loadOutcome loading 5 9 = .ok ks := by
  have h : (match loadOutcome loading 5 9 with | .ok _ => true | .error _ => false) = true := by decide +kernel
  refine ⟨by decide +kernel, by decide +kernel, by decide +kernel, by decide +kernel, by decide +kernel, ?_⟩
  cases hk : loadOutcome loading 5 9 with
  | ok ks => exact ⟨ks, rfl⟩
  | error e => rw [hk] at h; cases h

/-- The operator's stored counter and last hash. -/
def countedUp (ctr : Nat) (last : Bytes) : State := { up with thermos := { up.thermos with opCounter := ctr, opLastEnv := last } }
/-- The payload of a TIME_SET, and the envelope, in the clear or not. -/
def timePayload : Bytes := toLe 16 5000
def timeEnv (c : Nat) : Bytes := envOf c 0x0A 0xFFFF 1 timePayload

theorem timeSpec_listed (run : EnvelopeRun) (h : Nat) : (timeSpec, Instr.timeSet h run) ∈ envelopeCommands run h := by simp [envelopeCommands]

theorem staged_time (c ctr : Nat) (last : Bytes) (h : (envChecks c 0x0A 0xFFFF 1 timePayload (countedUp ctr last)
    && (signerFormOk (timeEnv c) && fromOperator (timeEnv c) && decide (envAlg (timeEnv c) = 2) && decide ((countedUp ctr last).thermos.opAlg = 2))) = true) :
    let s := delivers (timeEnv c) 16 (countedUp ctr last)
    Stages timeSpec.typ {} s s 7 (envHamper (timeEnv c) 16) (envEnt 16) (timeEnv c)
      ∧ judgeEnvelope s (envHamper (timeEnv c) 16) .none (timeEnv c) (srcLenOf (envEnt 16)) = judgeCounter s (envHamper (timeEnv c) 16) (timeEnv c) := by
  rw [Bool.and_eq_true] at h
  exact staged_env c 0x0A 0xFFFF 1 timePayload (countedUp ctr last) h.1 (signer_operator _ _ _ _ _ _ h.2)

theorem stored_time (c ctr : Nat) (last : Bytes) (h : fromOperator (timeEnv c) = true) :
    storedCounter (delivers (timeEnv c) 16 (countedUp ctr last)) (timeEnv c) = (ctr, last) := by
  have ho : operatorKnown (delivers (timeEnv c) 16 (countedUp ctr last)) = true := rfl
  simp only [storedCounter, h, ho, if_true]
  rfl

/-- The envelope was applied before, it comes after another, it awaits its cipher engine. -/
theorem witness_EnvelopeRepeatsReplaysAndLoads_repeats :
    (let s := delivers (timeEnv 1) 16 (countedUp 1 (envHash (timeEnv 1))); let x := envHamper (timeEnv 1) 16
      Stages timeSpec.typ {} s s 7 x (envEnt 16) (timeEnv 1) ∧ judgeEnvelope s x .none (timeEnv 1) (srcLenOf (envEnt 16)) = .applied
        ∧ lastReply s (timeEnv 1) = [] ∧ dstReady s (dstOf (envEnt 16)) 0 = true)
    ∧ (let s := delivers (timeEnv 1) 16 (countedUp 2 []); let x := envHamper (timeEnv 1) 16
      Stages timeSpec.typ {} s s 7 x (envEnt 16) (timeEnv 1) ∧ judgeEnvelope s x .none (timeEnv 1) (srcLenOf (envEnt 16)) = .replay 1 ∧ sevOf s 20 1 ≤ 1)
    ∧ (let s := delivers (timeEnv 0) 16 (countedUp 0 []); let x := envHamper (timeEnv 0) 16
      Stages timeSpec.typ {} s s 7 x (envEnt 16) (timeEnv 0) ∧ judgeEnvelope s x .none (timeEnv 0) (srcLenOf (envEnt 16)) = .verified) := by
  have hc : envCounter (timeEnv 1) = 1 := by decide +kernel
  have hf : fromOperator (timeEnv 1) = true := by decide +kernel
  have h1 := staged_time 1 1 (envHash (timeEnv 1)) (by decide +kernel)
  have h2 := staged_time 1 2 [] (by decide +kernel)
  have h3 := staged_time 0 0 [] (by decide +kernel)
  refine ⟨⟨h1.1, h1.2.trans ?_, ?_, by decide +kernel⟩, ⟨h2.1, h2.2.trans ?_, by decide +kernel⟩, h3.1, h3.2.trans (by decide +kernel)⟩
  · simp [judgeCounter, stored_time _ _ _ hf, hc]
  · simp only [lastReply, hf, if_true]; rfl
  · simp [judgeCounter, stored_time _ _ _ hf, hc]

/-- An envelope whose format byte is wrong. -/
def badEnv : Bytes := octets [0, 0, 0, 0, 0, 0x0A] ++ zeros 378
theorem witness_EnvelopeRepeatsReplaysAndLoads_reject :
    let s := delivers badEnv 16 up; let x := envHamper badEnv 16; let e := envEnt 16
    Stages timeSpec.typ {} s s 7 x e badEnv ∧ judgeEnvelope s x .none badEnv (srcLenOf e) = .reject 1 ∧ sevOf s 20 0 ≤ 1 := by
  simp only [Stages, Undisturbed, Runs]; decide +kernel

/-- The envelope stands in the arena and its entry is admitted, or another ENVELOPE entry was admitted before it. -/
def arrives0 : State := { up with rings := [(0, { ring0 with tail := 1 })], hampers := [running (envEnt 16) []] }
def arrives : State := stored 0x410000 (timeEnv 1) arrives0
def behind : State := { arrives0 with hampers := [{ running (envEnt 16) [] with id := 6, admitNo := 0 }, running (envEnt 16) []] }
theorem timeEnv_length : (timeEnv 1).length = 384 := env_length _ _ _ _ _
theorem witness_EnvelopeRepeatsReplaysAndLoads_staging :
    (let s := arrives; let x := running (envEnt 16) []; let e := envEnt 16; let v := timeEnv 1
      Runs s 7 0x50 x e ∧ x.staged = [] ∧ envelopeBad s x e = none ∧ laterEnvelope s x = false ∧ Reads s s 7 [(srcOf e, srcLenOf e)]
        ∧ v = readAt s x (srcOf e) (srcLenOf e) ∧ envTyp v = timeSpec.typ ∧ judgeEnvelope (stageEnvelope 7 v s) x .none v (srcLenOf e) = .waits)
    ∧ (let s := behind; let x := running (envEnt 16) []; let e := envEnt 16
      Runs s 7 0x50 x e ∧ laterEnvelope s x = true ∧ envelopeBad s x e = none) := by
  have h8 : srcOf (envEnt 16) = 0x410000 := by decide
  have h9 : srcLenOf (envEnt 16) = 384 := by decide
  refine ⟨⟨⟨by decide +kernel, by decide, rfl, by decide, by decide +kernel, Laws.touchEntry_clean ⟨rfl, rfl, rfl⟩ _ _⟩, rfl, by decide +kernel, by decide +kernel,
    ⟨by decide +kernel, ?_, ⟨rfl, rfl, rfl⟩, rfl⟩, ?_, by decide +kernel, ?_⟩, by simp only [Runs]; decide +kernel⟩
  · have h := note_stored 384 (timeEnv 1) arrives0 rfl (by decide)
    have h0 : noteReads [(0x410000, 384)] arrives0 = arrives0 := by decide +kernel
    rw [h0] at h
    rw [h8, h9]; exact h.symm
  · have h0 : ¬((timeEnv 1).length = 0) := by rw [timeEnv_length]; decide
    have h1 : isCup 0x410000 = false := by decide
    have h2 : isWindow 0x410000 = false := by decide
    have h3 : inLarder 0x410000 = false := by decide
    rw [h8, h9, ← timeEnv_length]
    simp only [readAt, h0, h1, h2, if_false, readArena, h3, arrives, stored, Bool.false_eq_true]
    exact (memRead_write _ _ _ _).symm
  · have hb : (formatOk (timeEnv 1) 384 && typeAccepted (stageEnvelope 7 (timeEnv 1) arrives) (running (envEnt 16) []) (timeEnv 1)
      && authorityOk (stageEnvelope 7 (timeEnv 1) arrives) (timeEnv 1) && canServe (stageEnvelope 7 (timeEnv 1) arrives) [digestPds]
      && canServe (stageEnvelope 7 (timeEnv 1) arrives) [pkPds]) = true := by decide +kernel
    simp only [Bool.and_eq_true] at hb
    obtain ⟨⟨⟨⟨b1, b2⟩, b3⟩, b4⟩, b5⟩ := hb
    have hu : slice (timeEnv 1) 8 16 = uid := env_uid _ _ _ _ _
    have hx : (running (envEnt 16) []).engines = [] := rfl
    rw [h9]
    simp [judgeEnvelope, b1, hu, b2, b3, b4, b5, hx]

/-! An import of an exported digest message. -/

/-- The device that runs the import, its export outstanding; its blob up to the tag, and the blob. -/
def importing0 : State :=
  { runs importEnt [] with boot := { up.boot with bootId := zeros 8 }, digestOut := [(0, { seq := 1, state := part0 })] }
def ctxHead : Bytes := ctxHeader importing0 (running importEnt []) true 1
def ctxTag : Bytes := gcmTag (ringCtxKey importing0 (running importEnt [])) (zeros 12) ctxHead (zeros 224)
def ctxBytes : Bytes := ctxHead ++ zeros 240 ++ ctxTag
def importing : State := stored 0x410000 ctxBytes importing0

theorem ctxTag_length : ctxTag.length = 16 := by decide +kernel

theorem witness_CompareExtendQuoteAndContext_ctxImport :
    let e := importEnt; let s := importing; let x := running e [];
      (Runs s 7 0x27 x e ∧ earlierTouch s x (kindDigest e) = false ∧ importBad s x e = none ∧ Reads s s 7 (readRanges s x e))
        ∧ blobBad s x e (readAll s x (srcRanges s x e)) = none ∧ exportOut s (kindDigest e) x.ring = some { seq := 1, state := part0 } := by
  intro e s x
  have hl : ctxBytes.length = 288 := by
    have : (ctxHead ++ zeros 240).length = 272 := by decide +kernel
    rw [ctxBytes, List.length_append, this, ctxTag_length]
  have hr : readAll s x (srcRanges s x e) = ctxBytes := by
    have h1 : srcRanges s x e = [(0x410000, ctxBytes.length)] := by rw [hl]; decide +kernel
    have h2 : isCup 0x410000 = false := by decide
    have h3 : isWindow 0x410000 = false := by decide
    have h4 : inLarder 0x410000 = false := by decide
    have h5 : ¬(ctxBytes.length = 0) := by omega
    rw [h1]
    simp only [readAll, List.flatMap_cons, List.flatMap_nil, List.append_nil, readAt, h2, h3, h4, h5, if_false, readArena, Bool.false_eq_true, s, importing, stored]
    exact memRead_write _ _ _ _
  have ht : slice ctxBytes 0x110 16 = ctxTag := by
    have h := slice_middle (ctxHead ++ zeros 240) ctxTag [] 0x110 16 (by decide +kernel) ctxTag_length
    rw [List.append_nil] at h; exact h
  have hb : noteReads [(0x410000, 288)] s = s := by
    have h := note_stored 288 ctxBytes importing0 rfl (by decide)
    have h0 : noteReads [(0x410000, 288)] importing0 = importing0 := by decide +kernel
    rw [h0] at h; exact h
  refine ⟨⟨⟨by decide +kernel, by decide, rfl, by decide, by decide +kernel, Laws.touchEntry_clean ⟨rfl, rfl, rfl⟩ _ _⟩, by decide +kernel, by decide +kernel, ?_⟩,
    ?_, by decide +kernel⟩
  · have hq : readRanges s x e = [(0x410000, 288)] := by decide +kernel
    rw [hq]
    exact ⟨by decide +kernel, hb.symm, by simp only [Clean]; decide +kernel, rfl⟩
  · rw [hr]
    have hk : gcmTag (contextKey ((rootOf s).getD []) s.boot.bootId (leAt ctxBytes 6 2) (leAt ctxBytes 8 2)) (slice ctxBytes 0x20 12) (ctxBytes.take 32)
        (slice ctxBytes 0x30 224) = ctxTag := by
      have h1 : leAt ctxBytes 6 2 = 5 := by decide +kernel
      have h2 : leAt ctxBytes 8 2 = 0 := by decide +kernel
      have h3 : slice ctxBytes 0x20 12 = zeros 12 := by decide +kernel
      have h4 : ctxBytes.take 32 = ctxHead := by decide +kernel
      have h5 : slice ctxBytes 0x30 224 = zeros 224 := by decide +kernel
      have h6 : (rootOf s).getD [] = (rootOf importing0).getD [] := by decide +kernel
      have h7 : s.boot.bootId = importing0.boot.bootId := by decide +kernel
      rw [h1, h2, h3, h4, h5, h6, h7]
      unfold ctxTag ringCtxKey
      have h8 : (running importEnt []).domain = 5 := by decide
      have h9 : (running importEnt []).ring = 0 := by decide
      rw [h8, h9]
    simp only [blobBad, hk, ht]
    have b1 : (slice ctxBytes 0 5 != octets [0x53, 0x43, 0x58, 0x31, 0x01] || leAt ctxBytes 5 1 != b2n (kindDigest e) || !allZero (slice ctxBytes 0x0A 2)
      || !allZero (slice ctxBytes 0x18 8) || !allZero (slice ctxBytes 0x2C 4)) = false := by decide +kernel
    have b2 : slice ctxBytes 0x10 8 = fitTo 8 s.boot.bootId := by decide +kernel
    have b3 : (leAt ctxBytes 6 2 != x.domain || leAt ctxBytes 8 2 != x.ring) = false := by decide +kernel
    have b4 : (openPart s (kindDigest e) x.ring).isSome = false := by decide +kernel
    have b5 : ((exportOut s (kindDigest e) x.ring).map (·.seq) != some (leAt ctxBytes 0x0C 4)) = false := by decide +kernel
    have b6 : partsFull s (kindDigest e) x.port = false := by decide +kernel
    simp [firstBad, b1, b2, b3, b4, b5, b6]

end Sys2Proof.Tests
end

section
/-! PROOFS. Served register writes: a register of the port page (R97), `PORT_CTRL` with the fetch it aborts (R96, R101, R102), and what
FORCE_STOP leaves besides its register (R419). -/

namespace Sys2Proof.Proofs

open Sys2Proof.Machine Sys2Proof.Safety Sys2Proof.Laws

/-- Two changes of one port are one change; a port the machine does not have takes neither. -/
theorem modPort_modPort (s : State) (p : Nat) (f g : PortState → PortState) :
    modPort (modPort s p f) p g = modPort s p (fun x => g (f x)) := by
  by_cases hp : p < s.ports.length
  · simp [modPort, portOf, hp]
  · simp [modPort, List.set_eq_of_length_le (not_lt.1 hp)]

section
variable {s t : State} {p : Port} {k : Link} {a v : Nat}

theorem open_respond (h : Open s) (r : Response) : Open (respond p r s) := h

/-- A register write that is accepted. -/
theorem regWrite_accept {p : Nat} (h : writeReg p a v s = accept t) : regWrite p a v s = (t, wrOk) := by
  simp [regWrite, h, accept]

/-- A register write that only the port counts as refused (R94). -/
theorem regWrite_refuse {p : Nat} (h : writeReg p a v s = refuse t) : regWrite p a v s = (noteDenied p none t, wrDenied) := by
  simp [regWrite, h, refuse]

/-- Outside BOOT and RECOVERY the mode leaves a port every register (R95). -/
theorem modeWrites_open {p : Nat} (h : Open s) : modeWrites s p a = true := by
  obtain ⟨hb, hr⟩ := h
  unfold modeWrites
  cases hm : s.boot.mode
  case boot => exact absurd hm hb
  case recovery => exact absurd hm hr
  all_goals rfl

theorem writeReg_portPage {p : Nat} (h : Open s) (ha : a < 0x100) (h4 : a % 4 = 0) : writeReg p a v s = writePort p a v s := by
  have hx : ¬(a % 4 ≠ 0 ∨ 0x1000 ≤ a) := by omega
  simp [writeReg, hx, modeWrites_open h, ha]

/-- The native frame and the register frame of a served write are one (R85). -/
theorem nativeFrame_regWr (h : ServesWrite s p k (.regWr a (toLe 4 v))) :
    nativeFrame p k (.regWr a (toLe 4 v)) s = regFrame p k a v s := by
  rw [nativeFrame_serves h.1, regFrame, portFrame, atPort_hears h.1.1]

theorem servesReg_of_servesWrite (h : ServesWrite s p k (.regWr a (toLe 4 v))) (ho : Open s) : ServesReg s p k a v := by
  obtain ⟨⟨hears, -, hcrc⟩, hwhole⟩ := h
  exact ⟨hears, hcrc, hwhole, ho⟩

/-- A served write of a register other than `PORT_CTRL` is recorded, and no warm reset follows. -/
theorem regFrame_recorded (h : ServesReg s p k a v) (ha : a < 0x1000) (h8 : a ≠ 0x008) (hv : v < 2 ^ 32) :
    regFrame p k a v s = recordWr p 0x11 (regWrite p a v (respond p .silent s)).2 (regWrite p a v (respond p .silent s)).1 := by
  rw [regFrame_done h ha hv]
  simp [h8]

/-- A REGISTER_WRITE of the port page, other than `PORT_CTRL`, that its register accepts. -/
theorem registerWrite_accept (h : ServesWrite s p k (.regWr a (toLe 4 v))) (ho : Open s) (ha : a < 0x100) (h4 : a % 4 = 0)
    (h8 : a ≠ 0x008) (hv : v < 2 ^ 32) (hw : writePort p a v (respond p .silent s) = accept t) :
    exec (.registerWrite p k a (toLe 4 v)) s = .next (recordWr p 0x11 wrOk t) := by
  have hr := regWrite_accept ((writeReg_portPage (open_respond ho .silent) ha h4).trans hw)
  change Host.Outcome.next (nativeFrame p k (.regWr a (toLe 4 v)) s) = _
  rw [nativeFrame_regWr h, regFrame_recorded (servesReg_of_servesWrite h ho) (by omega) h8 hv, hr]

/-- A REGISTER_WRITE of the port page, other than `PORT_CTRL`, that its register refuses. -/
theorem registerWrite_refuse (h : ServesWrite s p k (.regWr a (toLe 4 v))) (ho : Open s) (ha : a < 0x100) (h4 : a % 4 = 0)
    (h8 : a ≠ 0x008) (hv : v < 2 ^ 32) (hw : writePort p a v (respond p .silent s) = refuse t) :
    exec (.registerWrite p k a (toLe 4 v)) s = .next (recordWr p 0x11 wrDenied (noteDenied p none t)) := by
  have hr := regWrite_refuse ((writeReg_portPage (open_respond ho .silent) ha h4).trans hw)
  change Host.Outcome.next (nativeFrame p k (.regWr a (toLe 4 v)) s) = _
  rw [nativeFrame_regWr h, regFrame_recorded (servesReg_of_servesWrite h ho) (by omega) h8 hv, hr]

end

/-- `HP_TIMING` refuses fewer than 4 dummy cycles (R104). -/
theorem writeTiming_refuse {p v : Nat} {s : State} (h : v % 64 < 4) : writeTiming p v s = refuse s := by
  have h4 : ¬(4 ≤ v % 64) := by omega
  simp [writeTiming, acceptIf, h4]

/-! `PORT_CTRL` and the fetch it aborts -/

section
variable {s t : State} {p : Port} {k : Link} {v c : Nat}

/-- The low half of a `PORT_CTRL` word holds its command bits (R101). -/
theorem bit_portCtrl {i : Nat} (hc : c < 2 ^ 16) (hi : i < 16) : bit (v * 0x10000 + c) i = bit c i := by
  have h : v * 0x10000 + c = 2 ^ 16 * v + c := by omega
  rw [bit, h, Nat.testBit_two_pow_mul_add v hc, if_pos hi, bit]

/-- The high half of a `PORT_CTRL` word is the scratch field (R101). -/
theorem scratch_portCtrl (hc : c < 0x10000) : (v * 0x10000 + c) / 0x10000 = v := by omega

/-- What a `PORT_CTRL` word with the scratch field `v` and the command bits `c` does before its record (R101, R102). -/
theorem writePortCtrl_word {p : Nat} (hc : c < 0x10000) : writePortCtrl p (v * 0x10000 + c) s =
    accept (if bit c 1 then abortFetch p (modPort s p (fun x => { x with scratch := v })) else modPort s p (fun x => { x with scratch := v })) := by
  rw [writePortCtrl, scratch_portCtrl hc, bit_portCtrl hc (by decide)]

/-- A port's fetch with no line of it on the bus ends at once (R102). -/
theorem abortFetch_waiting {p : Nat} (h : ∀ w, s.mp.current = some (.read w) → fetchWork p w = false) :
    abortFetch p s = dropFetch p s := by
  unfold abortFetch
  split
  case h_1 w hw => simp [h w hw]
  case h_2 => rfl

/-- A port's fetch with a line of it on the bus is abandoned and the line completes (R102). -/
theorem abortFetch_onBus {p : Nat} {w : MpWork} (hw : s.mp.current = some (.read w)) (h : fetchWork p w = true) :
    abortFetch p s = modPort s p (fun x => { x with fetch := x.fetch.map (fun f => { f with abandoned := true }) }) := by
  simp [abortFetch, hw, h]

/-- A served write of `PORT_CTRL` is accepted whatever its word; a warm reset it asks for follows its record (R96, R101). -/
theorem regFrame_portCtrl (h : ServesReg s p k 0x008 v) (hv : v < 2 ^ 32) :
    regFrame p k 0x008 v s =
      (let u := recordWr p 0x11 wrOk (writePortCtrl p v (respond p .silent s)).state
       if bit v 0 then warmReset p 1 u else u) := by
  have ho : Open s := h.2.2.2
  have hacc : writePortCtrl p v (respond p .silent s) = accept (writePortCtrl p v (respond p .silent s)).state := rfl
  have hpage : writeReg p 0x008 v (respond p .silent s) = writePortCtrl p v (respond p .silent s) :=
    writeReg_portPage (open_respond ho .silent) (by decide) (by decide)
  rw [regFrame_done h (by decide) hv, regWrite_accept (hpage.trans hacc)]
  simp

/-- WARM_RESET: the reset of the port's registers follows the record of its write (R96). -/
theorem regFrame_warmReset (hv : v < 2 ^ 16) (h : ServesReg s p k 0x008 (v * 0x10000 + 1)) :
    regFrame p k 0x008 (v * 0x10000 + 1) s =
      warmReset p 1 (recordWr p 0x11 wrOk (modPort (respond p .silent s) p (fun x => { x with scratch := v }))) := by
  rw [regFrame_portCtrl h (by omega), writePortCtrl_word (by decide), bit_portCtrl (by decide) (by decide)]
  rfl

/-- FETCH_ABORT: the fetch is aborted before the record of its write (R102). -/
theorem regFrame_fetchAbort (hv : v < 2 ^ 16) (h : ServesReg s p k 0x008 (v * 0x10000 + 2)) :
    regFrame p k 0x008 (v * 0x10000 + 2) s =
      recordWr p 0x11 wrOk (abortFetch p (modPort (respond p .silent s) p (fun x => { x with scratch := v }))) := by
  rw [regFrame_portCtrl h (by omega), writePortCtrl_word (by decide), bit_portCtrl (by decide) (by decide)]
  rfl

end

/-- The end of a fetch, after its port's scratch field was set. -/
theorem dropFetch_scratch (p n : Nat) (s : State) :
    dropFetch p (modPort s p (fun x => { x with scratch := n })) =
      { modPort s p (fun x => { x with scratch := n, fetch := none }) with
        mp := { s.mp with work := s.mp.work.filter (fun w => !fetchWork p w) } } :=
  modPort_modPort { s with mp := { s.mp with work := s.mp.work.filter (fun w => !fetchWork p w) } } p
    (fun x => { x with scratch := n }) (fun x => { x with fetch := none })

/-- Settles O15: each of the four writes reaches its register, which accepts it or refuses it. -/
theorem registerWriteIsRecorded : Obligations.RegisterWriteIsRecorded := by
  intro s p k v
  have hv : v.toNat < 2 ^ 32 := v.isLt
  refine ⟨fun h ho => ?_, fun h ho => ?_, fun h ho => ?_, fun h ho hd => ?_⟩
  · have hw : writePort p 0x088 v.toNat (respond p .silent s) =
        accept (modPort (respond p .silent s) p (fun x => { x with ringArg1 := v })) := by simp [writePort]
    exact registerWrite_accept h ho (by decide) (by decide) (by decide) hv hw
  · exact registerWrite_accept h ho (by decide) (by decide) (by decide) hv rfl
  · exact registerWrite_refuse h ho (by decide) (by decide) (by decide) hv rfl
  · exact registerWrite_refuse h ho (by decide) (by decide) (by decide) hv (writeTiming_refuse hd)

/-- Settles O26: both commands are words of `PORT_CTRL`; the reset follows its record, the abort comes before it. -/
theorem warmResetAndFetchAbort : Obligations.WarmResetAndFetchAbort := by
  intro s p k v
  refine ⟨fun h => ?_, fun h => ⟨fun hcur => ?_, fun w hw hf => ?_⟩⟩
  · change Host.Outcome.next (regFrame p k 0x008 (v.toNat * 0x10000 + 1) s) = _
    rw [regFrame_warmReset v.isLt h]
    simp only [warmReset, recordWr, respond, modPort_modPort]
  · change Host.Outcome.next (regFrame p k 0x008 (v.toNat * 0x10000 + 2) s) = _
    rw [regFrame_fetchAbort v.isLt h, abortFetch_waiting, dropFetch_scratch]
    · rfl
    · exact hcur
  · change Host.Outcome.next (regFrame p k 0x008 (v.toNat * 0x10000 + 2) s) = _
    rw [regFrame_fetchAbort v.isLt h, abortFetch_onBus (w := w), modPort_modPort]
    · exact hw
    · exact hf

/-! FORCE_STOP stops `ALIVE` (R419). -/

/-- A claimed device in OPERATIONAL whose `ALIVE` toggles; `HP_0` is its operator port. -/
def aliveToggling : State :=
  { State.reset with
    boot := { mode := .operational, answering := true }
    board := { State.reset.board with porHigh := true, pllLocked := true }
    power := { pds := List.replicate 50 { st := .on, tested := true } }
    thermos := { State.reset.thermos with claimed := true }
    mono := 1000 }

theorem aliveToggling_serves : ServesOperator aliveToggling 0 {} 0x884 (b2n true * 256 + (2 : BitVec 3).toNat) := by
  simp only [ServesOperator, ServesReg, Hears, Whole, Open]
  decide +kernel

/-- FORCE_STOP set while `ALIVE` toggles stops it, and the device notes when: `ALIVE` stays at its last level (R419). -/
theorem forceStop_aliveMark :
    (regFrame 0 {} 0x884 (b2n true * 256 + (2 : BitVec 3).toNat) aliveToggling).boot.aliveMark = some 1000 := by
  decide +kernel

/-- Refutes O34: a write that sets FORCE_STOP while `ALIVE` toggles also records the moment at which it stops (R419), which the
statement has unchanged. -/
theorem not_tamperArmForceStopAndPolicy : ¬ Obligations.TamperArmForceStopAndPolicy := by
  intro h
  obtain ⟨-, hforce, -⟩ := h aliveToggling 0 {}
  have hnext := hforce true 2 aliveToggling_serves (by decide)
  have hmark := congrArg (fun t => t.boot.aliveMark) (Host.Outcome.next.inj hnext)
  exact absurd (forceStop_aliveMark.symm.trans hmark) (by decide)

end Sys2Proof.Proofs
end

section
/-! PROOFS. What recording an event writes and leaves (R411 to R417), and the severities at which raising it does no more (R413). -/

namespace Sys2Proof.Proofs

open Sys2Proof.Machine Sys2Proof.Safety Sys2Proof.Laws

@[simp] theorem bit_setBit_same (v i : Nat) : bit (setBit v i) i = true := by
  cases h : v.testBit i with
  | true => simp [setBit, bit, h]
  | false => simp [setBit, bit, h, Nat.add_comm v, Nat.testBit_two_pow_add_eq]

/-- Setting a clear bit changes no bit above it: the sum carries nothing. -/
theorem testBit_add_two_pow_above {v i j : Nat} (h : v.testBit i = false) (hj : i < j) : (v + 2 ^ i).testBit j = v.testBit j := by
  have hp : 2 ^ (i + 1) = 2 ^ i + 2 ^ i := by rw [pow_succ]; omega
  have hr : v % 2 ^ (i + 1) < 2 ^ (i + 1) := Nat.mod_lt _ (by positivity)
  have hlow : v % 2 ^ (i + 1) < 2 ^ i := by
    by_contra hge
    have hb := Nat.testBit_of_two_pow_le_and_two_pow_add_one_gt (Nat.le_of_not_lt hge) hr
    rw [Nat.testBit_mod_two_pow] at hb
    simp [h] at hb
  have hv := Nat.div_add_mod v (2 ^ (i + 1))
  have hs : v + 2 ^ i = 2 ^ (i + 1) * (v / 2 ^ (i + 1)) + (v % 2 ^ (i + 1) + 2 ^ i) := by omega
  have hj' : ¬j < i + 1 := by omega
  rw [hs, Nat.testBit_two_pow_mul_add _ (by omega), if_neg hj']
  conv_rhs => rw [← hv, Nat.testBit_two_pow_mul_add _ hr, if_neg hj']

/-- A bit that is set stays set. -/
theorem bit_setBit_mono {v j : Nat} (i : Nat) (h : bit v j = true) : bit (setBit v i) j = true := by
  unfold setBit
  split
  · exact h
  · next hi =>
    have hi : v.testBit i = false := by simpa [bit] using hi
    rcases Nat.lt_trichotomy j i with hj | hj | hj
    · rw [bit, Nat.add_comm, Nat.testBit_two_pow_add_gt hj]; exact h
    · subst hj; exact absurd h (by simp [bit, hi])
    · rw [bit, testBit_add_two_pow_above hi hj]; exact h

/-! Health blocks -/

theorem storeSev_event (h : Health) (src sev : Nat) : bit (storeSev h src sev).event src = true := by
  unfold storeSev
  split
  · assumption
  · exact bit_setBit_same _ _

theorem storeSev_event_mono {h : Health} {j : Nat} (src sev : Nat) (hj : bit h.event j = true) : bit (storeSev h src sev).event j = true := by
  unfold storeSev
  split
  · exact hj
  · exact bit_setBit_mono _ hj

@[simp] theorem historyPush_event (h : Health) (e : HistEntry) : (historyPush h e).event = h.event := by
  unfold historyPush; split <;> rfl
@[simp] theorem historyPush_sevs (h : Health) (e : HistEntry) : (historyPush h e).sevs = h.sevs := by
  unfold historyPush; split <;> rfl
@[simp] theorem historyPush_wrongState (h : Health) (e : HistEntry) : (historyPush h e).wrongState = h.wrongState := by
  unfold historyPush; split <;> rfl

@[simp] theorem storeSev_sevs (h : Health) (src sev : Nat) : (storeSev h src sev).sevs = h.sevs := by
  unfold storeSev; split <;> rfl
@[simp] theorem storeSev_wrongState (h : Health) (src sev : Nat) : (storeSev h src sev).wrongState = h.wrongState := by
  unfold storeSev; split <;> rfl

/-- What a capture makes of a block: its EVENT bits are those of `storeSev`, its severities and its count of refusals stay. -/
theorem captureFresh_keeps (h : Health) (src detail sev stamp : Nat) :
    (captureFresh h src detail sev stamp).event = (storeSev h src sev).event
      ∧ (captureFresh h src detail sev stamp).sevs = h.sevs ∧ (captureFresh h src detail sev stamp).wrongState = h.wrongState := by
  unfold captureFresh
  dsimp only
  split <;> simp

theorem captureMerged_keeps (h : Health) (src detail sev : Nat) (dom : Option Nat) :
    (captureMerged h src detail sev dom).event = (storeSev h src sev).event
      ∧ (captureMerged h src detail sev dom).sevs = h.sevs ∧ (captureMerged h src detail sev dom).wrongState = h.wrongState := by
  unfold captureMerged
  dsimp only
  split <;> simp

section
variable {s : State} {b src detail sev : Nat} {dom : Option Nat}

/-- Recording an event changes one block: its EVENT bits, none of its severities, no count of refusals. -/
theorem blockOf_recordOnly_same (hb : b < s.health.length) :
    (blockOf (recordOnly b src detail sev dom s) b).event = (storeSev (blockOf s b) src sev).event
      ∧ (blockOf (recordOnly b src detail sev dom s) b).sevs = (blockOf s b).sevs
      ∧ (blockOf (recordOnly b src detail sev dom s) b).wrongState = (blockOf s b).wrongState := by
  unfold recordOnly
  dsimp only
  rw [blockOf_modBlock_same _ _ _ hb]
  split
  · exact captureMerged_keeps _ _ _ _ _
  · exact captureFresh_keeps _ _ _ _ _

/-- A block outside the table of blocks is no block: changing it changes nothing. -/
theorem modBlock_of_le {f : Health → Health} (hb : s.health.length ≤ b) : modBlock s b f = s := by
  simp [modBlock, List.set_eq_of_length_le hb]

theorem recordOnly_of_le (hb : s.health.length ≤ b) : recordOnly b src detail sev dom s = s := by
  unfold recordOnly; exact modBlock_of_le hb

theorem blockOf_recordOnly_ne {c : Nat} (h : b ≠ c) : blockOf (recordOnly b src detail sev dom s) c = blockOf s c :=
  blockOf_modBlock_ne s _ h

@[simp] theorem recordOnly_health_length : (recordOnly b src detail sev dom s).health.length = s.health.length := by
  simp [recordOnly]

theorem raised_recordOnly (hb : b < s.health.length) : Raised (recordOnly b src detail sev dom s) b src := by
  rw [Raised, (blockOf_recordOnly_same hb).1]
  exact storeSev_event _ _ _

/-- An event that is recorded stays recorded while others are. -/
theorem raised_recordOnly_mono {c k : Nat} (h : Raised s c k) : Raised (recordOnly b src detail sev dom s) c k := by
  by_cases hb : b < s.health.length
  · by_cases hc : b = c
    · subst hc
      rw [Raised, (blockOf_recordOnly_same hb).1]
      exact storeSev_event_mono _ _ h
    · rw [Raised, blockOf_recordOnly_ne hc]
      exact h
  · rw [recordOnly_of_le (Nat.le_of_not_lt hb)]
    exact h

@[simp] theorem sevOf_recordOnly (c k : Nat) : sevOf (recordOnly b src detail sev dom s) c k = sevOf s c k := by
  by_cases hb : b < s.health.length
  · by_cases hc : b = c
    · subst hc
      rw [sevOf, (blockOf_recordOnly_same hb).2.1, sevOf]
    · rw [sevOf, blockOf_recordOnly_ne hc, sevOf]
  · rw [recordOnly_of_le (Nat.le_of_not_lt hb)]

@[simp] theorem wrongState_recordOnly (c : Nat) : (blockOf (recordOnly b src detail sev dom s) c).wrongState = (blockOf s c).wrongState := by
  by_cases hb : b < s.health.length
  · by_cases hc : b = c
    · subst hc
      exact (blockOf_recordOnly_same hb).2.2
    · rw [blockOf_recordOnly_ne hc]
  · rw [recordOnly_of_le (Nat.le_of_not_lt hb)]

/-! Reactions -/

/-- Below DEVICE an event that concerns no domain has no reaction of its base (R413). -/
theorem reactBase_domainless (h : sev ≠ 4) : reactBase b src sev none s = s := by simp [reactBase, h]
/-- Below DOMAIN no event has one (R413). -/
theorem reactBase_low (h : sev ≤ 2) : reactBase b src sev dom s = s := by
  cases dom with
  | none => exact reactBase_domainless (by omega)
  | some d => simp [reactBase, show sev ≠ 4 by omega, show sev ≠ 3 by omega]

theorem captureSev_low (h : sev ≤ 2) : captureSev b src detail sev dom s = recordOnly b src detail sev dom s := by
  simp [captureSev, reactBase_low h]
theorem captureSev_domainless (h : sev ≠ 4) : captureSev b src detail sev none s = recordOnly b src detail sev none s := by
  simp [captureSev, reactBase_domainless h]

/-- INFO and MINOR events have no reaction (R413). -/
theorem raise_minor (h : sevOf s b src ≤ 1) : raise b src detail dom s = recordOnly b src detail (sevOf s b src) dom s := by
  have hm (t : State) : reactMajor b src detail (sevOf s b src) dom t = t := by
    simp [reactMajor, show sevOf s b src ≠ 2 by omega, show sevOf s b src ≠ 3 by omega]
  simp [raise, raiseSev, captureSev_low (show sevOf s b src ≤ 2 by omega), hm]

/-- An event that concerns no domain and names no engine domain has no reaction below DEVICE (R413). -/
theorem raise_domainless (h : sevOf s b src ≠ 4) (hf : fenceTarget b src detail = none) :
    raise b src detail none s = recordOnly b src detail (sevOf s b src) none s := by
  have hm (t : State) : reactMajor b src detail (sevOf s b src) none t = t := by
    simp [reactMajor, hf]
  simp [raise, raiseSev, captureSev_domainless h, hm]

/-- Only the three engine blocks have events that name an engine domain (R413). -/
theorem fenceTarget_none (h : b ≠ 9 ∧ b ≠ 10 ∧ b ≠ 11) : fenceTarget b src detail = none := by
  obtain ⟨h9, h10, h11⟩ := h
  simp [fenceTarget, h9, h10, h11]

end

end Sys2Proof.Proofs
end

section
/-! PROOFS. Operator registers of clocks, slew and cache, and the trim of the clock (R41 to R43, R341, R391, R408). -/

namespace Sys2Proof.Proofs

open Sys2Proof.Machine Sys2Proof.Safety Sys2Proof.Laws

section
variable {s t : State} {p : Port} {k : Link} {a v : Nat}

/-- A served write of a register other than `PORT_CTRL` that its register accepts. -/
theorem regFrame_accept (h : ServesReg s p k a v) (ha : a < 0x1000) (h8 : a ≠ 0x008) (hv : v < 2 ^ 32)
    (hw : writeReg p a v (respond p .silent s) = accept t) : regFrame p k a v s = recordWr p 0x11 wrOk t := by
  rw [regFrame_recorded h ha h8 hv, regWrite_accept hw]

/-- A write of the operator page from the operator port reaches its register (R89, R113). -/
theorem writeReg_operatorPage {p : Nat} (ho : Open s) (hp : isOperator s p = true) (h4 : a % 4 = 0) (hlo : 0x800 ≤ a) (hhi : a < 0xC00) :
    writeReg p a v s = writeOperator a v s := by
  have hx : ¬(a % 4 ≠ 0 ∨ 0x1000 ≤ a) := by omega
  have h5 : ¬a = 0x500 := by omega
  simp [writeReg, hx, modeWrites_open ho, hp, hhi, h5, show ¬a < 0x100 by omega, show ¬a < 0x400 by omega, show ¬a < 0x500 by omega,
    show ¬a < 0x600 by omega, show ¬a < 0x800 by omega]

/-- A served write of the operator page that its register accepts. -/
theorem regFrame_operator (h : ServesOperator s p k a v) (h4 : a % 4 = 0) (hlo : 0x800 ≤ a) (hhi : a < 0xC00) (hv : v < 2 ^ 32)
    (hw : writeOperator a v (respond p .silent s) = accept t) : regFrame p k a v s = recordWr p 0x11 wrOk t :=
  regFrame_accept h.1 (by omega) (by omega) hv
    ((writeReg_operatorPage (open_respond h.1.2.2.2 .silent) h.2 h4 hlo hhi).trans hw)

/-- A write of the time page reaches its register (R342). -/
theorem writeReg_timePage {p : Nat} (ho : Open s) (h4 : a % 4 = 0) (hlo : 0x400 ≤ a) (hhi : a < 0x500) :
    writeReg p a v s = writeTime p a v s := by
  have hx : ¬(a % 4 ≠ 0 ∨ 0x1000 ≤ a) := by omega
  simp [writeReg, hx, modeWrites_open ho, hhi, show ¬a < 0x100 by omega, show ¬a < 0x400 by omega]

end

/-! The registers -/

section
variable {s : State} {v : Nat}

theorem writeOperator_spread (hv : v < 4) : writeOperator 0x8C0 v s = accept { s with board := { s.board with spreadDepth := v } } := by
  simp [writeOperator, Nat.mod_eq_of_lt hv]

/-- `SLEW_CFG` with a listed strength for the memory port (R42, R43). -/
theorem writeOperator_slew (hv : v < 2 ^ 20) (hmp : 2 ≤ v / 0x10000 % 4) :
    writeOperator 0x8C4 v s = accept { s with
      board := { s.board with slew := v }
      mp := { s.mp with slewApplied := if s.mp.current.isSome then s.mp.slewApplied else v / 0x10000 }
      ports := s.ports.zipIdx.map (fun c => { c.1 with slewApplied := v / 16 ^ c.2 % 16 }) } := by
  have hn : v % 0x100000 = v := Nat.mod_eq_of_lt hv
  have hlow : bits v 17 16 = v / 0x10000 % 4 := rfl
  have hfield : bits v 19 16 = v / 0x10000 := Nat.mod_eq_of_lt (show v / 0x10000 < 16 by omega)
  simp [writeOperator, writeSlew, acceptIf, hn, hlow, hfield, hmp]

/-- `WIN_CACHE` with INVALIDATE: its two fields, and an empty cache (R391, R408). -/
theorem writeOperator_winCache (hw : bits v 11 8 ≤ 8) (hgo : bit v 31 = true) :
    writeOperator 0x944 v s =
      accept { s with mp := { s.mp with xipWays := bits v 11 8, prefetchDepth := v % 16, cache := [] } } := by
  simp [writeOperator, writeMp, acceptIf, hgo, hw, emptyCache]

/-- The fields of a `WIN_CACHE` word with INVALIDATE (R408). -/
theorem winCache_word {w d : Nat} (hw : w < 16) (hd : d < 16) :
    bits (2 ^ 31 + w * 256 + d) 11 8 = w ∧ (2 ^ 31 + w * 256 + d) % 16 = d ∧ bit (2 ^ 31 + w * 256 + d) 31 = true := by
  refine ⟨?_, by omega, ?_⟩
  · change (2 ^ 31 + w * 256 + d) / 256 % 16 = w
    omega
  · rw [bit, show 2 ^ 31 + w * 256 + d = 2 ^ 31 * 1 + (w * 256 + d) by omega, Nat.testBit_two_pow_mul_add _ (by omega)]
    rfl

/-- DELTA as `TIME_TRIM` holds it (R341). -/
theorem signedOf_toNat (d : BitVec 18) : signedOf 18 (d.toNat % 0x40000) = d.toInt := by
  have hd : d.toNat < 2 ^ 18 := d.isLt
  rw [BitVec.toInt_eq_toNat_cond, signedOf, Nat.mod_eq_of_lt (show d.toNat < 0x40000 from hd)]
  split <;> split <;> omega

/-- A trim that R341 allows. -/
theorem writeTrim_accept {p : Nat} (d : BitVec 18) (hlo : -32768 ≤ d.toInt) (hhi : d.toInt ≤ 32768) (hok : trimOk d.toInt s = true) :
    writeTrim p d.toNat s = accept (if d.toInt = 0 then s else applyTrim d.toInt s) := by
  have h : ¬(d.toInt < -32768 ∨ 32768 < d.toInt ∨ trimOk d.toInt s = false) := by
    rintro (h | h | h)
    · omega
    · omega
    · exact absurd (hok.symm.trans h) (by decide)
  simp only [writeTrim, signedOf_toNat, if_neg h]

/-- Any other trim is refused. -/
theorem writeTrim_refuse {p : Nat} (d : BitVec 18) (h : ¬(-32768 ≤ d.toInt ∧ d.toInt ≤ 32768 ∧ trimOk d.toInt s = true)) :
    writeTrim p d.toNat s = refuseTrim p s := by
  have h' : d.toInt < -32768 ∨ 32768 < d.toInt ∨ trimOk d.toInt s = false := by
    by_cases hlo : -32768 ≤ d.toInt
    · by_cases hhi : d.toInt ≤ 32768
      · exact .inr (.inr (by simpa [hlo, hhi] using h))
      · exact .inr (.inl (by omega))
    · exact .inl (by omega)
  simp only [writeTrim, signedOf_toNat, if_pos h']

end

/-! Refusals -/

section
variable {s : State}

theorem wrongState_count {b : Nat} (hb : b < s.health.length) :
    (blockOf (wrongState b s) b).wrongState = min 0xFFFF ((blockOf s b).wrongState + 1) := by
  rw [wrongState, blockOf_modBlock_same _ _ _ hb, sat]

@[simp] theorem sevOf_wrongState (c b k : Nat) : sevOf (wrongState c s) b k = sevOf s b k := by
  by_cases hc : c < s.health.length
  · by_cases h : c = b
    · subst h; rw [sevOf, wrongState, blockOf_modBlock_same _ _ _ hc, sevOf]
    · rw [sevOf, wrongState, blockOf_modBlock_ne s _ h, sevOf]
  · rw [wrongState, modBlock_of_le (Nat.le_of_not_lt hc)]

/-- A refusal that records DENIED, its event INFO or MINOR: the event is recorded, the port and the owner count it (R86, R94, R126). -/
theorem noteDenied_owner {p b : Nat} (hb : b ≠ p) (hsev : sevOf s p 3 ≤ 1) :
    noteDenied p (some b) s = wrongState b (recordOnly p 3 0 (sevOf s p 3) none (wrongState p s)) := by
  have h := raise_minor (s := wrongState p s) (b := p) (src := 3) (detail := 0) (dom := none) (by simpa using hsev)
  simp only [sevOf_wrongState] at h
  simp [noteDenied, h, hb]

/-- A refused trim on a served write: TRIM_REFUSED and its event, then the refusal, counted at METER (R341). -/
theorem regFrame_refusedTrim {p : Port} {k : Link} {v : Nat} (h : ServesReg s p k 0x410 v) (hv : v < 2 ^ 32)
    (hw : writeTrim p v (respond p .silent s) = refuseTrim p (respond p .silent s)) (h19 : sevOf s 19 3 ≤ 1) (hp : sevOf s p 3 ≤ 1) :
    regFrame p k 0x410 v s = recordWr p 0x11 wrDenied (wrongState 19 (recordOnly p 3 0 (sevOf s p 3) none (wrongState p
      (recordOnly 19 3 p (sevOf s 19 3) none { respond p .silent s with trimRefused := true })))) := by
  have hreg : writeReg p 0x410 v (respond p .silent s) = refuseTrim p (respond p .silent s) :=
    (writeReg_timePage (open_respond h.2.2.2 .silent) (by decide) (by decide) (by decide)).trans hw
  have hraise : raise 19 3 p none { respond p .silent s with trimRefused := true } =
      recordOnly 19 3 p (sevOf s 19 3) none { respond p .silent s with trimRefused := true } := raise_minor h19
  have hne : (19 : Nat) ≠ p := by have := p.isLt; omega
  have hsev : sevOf (recordOnly 19 3 p (sevOf s 19 3) none { respond p .silent s with trimRefused := true }) p 3 = sevOf s p 3 := by
    rw [sevOf_recordOnly]; rfl
  rw [regFrame_recorded h (by decide) (by decide) hv]
  simp only [regWrite, hreg, refuseTrim, refuseBy, hraise, Bool.false_eq_true, if_false]
  rw [noteDenied_owner hne (by rw [hsev]; exact hp), hsev]

end

theorem portOf_lwOutcome_recordWr {s : State} {p o c : Nat} (hp : p < s.ports.length) : (portOf (recordWr p o c s) p).lwOutcome = c := by
  simp [recordWr, hp]

/-- Settles O32: each register of the operator page holds what its word gives; a trim is applied or refused by the conditions of R341. -/
theorem spreadSlewCacheAndTrim : Obligations.SpreadSlewCacheAndTrim := by
  intro s p k b
  refine ⟨fun v h => ?_, rfl, fun v h hmp => ?_, fun w d h hw => ?_, fun d h => ⟨fun ⟨hlo, hhi, hok⟩ => ?_, fun hno hshape h19 hp => ?_⟩⟩
  · exact congrArg _ (regFrame_operator h (by decide) (by decide) (by decide) (by omega) (writeOperator_spread v.isLt))
  · exact congrArg _ (regFrame_operator h (by decide) (by decide) (by decide) (by omega) (writeOperator_slew v.isLt hmp))
  · obtain ⟨hways, hdepth, hgo⟩ := winCache_word w.isLt d.isLt
    have hreg := writeOperator_winCache (s := b) (hways.symm ▸ hw) hgo
    rw [hways, hdepth] at hreg
    exact congrArg _ (regFrame_operator h (by decide) (by decide) (by decide) (by omega) hreg)
  · have hreg : writeReg p 0x410 d.toNat b = accept (if d.toInt = 0 then b else applyTrim d.toInt b) :=
      (writeReg_timePage (open_respond h.2.2.2 .silent) (by decide) (by decide) (by decide)).trans (writeTrim_accept d hlo hhi hok)
    exact congrArg Host.Outcome.next (regFrame_accept h (by decide) (by decide) (by omega) hreg)
  · have hframe := regFrame_refusedTrim h (by omega) (writeTrim_refuse (s := b) d hno) h19 hp
    obtain ⟨hports, -, hhealth, -⟩ := hshape
    have hp4 := p.isLt
    refine ⟨_, congrArg Host.Outcome.next hframe, rfl, rfl, rfl, portOf_lwOutcome_recordWr ?_, ?_⟩
    · change p.val < (s.ports.set _ _).length
      simp [hports]
    · rw [recordWr, blockOf_modPort, wrongState_count (by simp [wrongState, respond, hhealth]), wrongState_recordOnly, wrongState,
        blockOf_modBlock_ne _ _ (by omega), wrongState_recordOnly]
      rfl

end Sys2Proof.Proofs
end

section
/-! PROOFS. Supplies that fall and return: the ports of a lost host supply, the bus of a lost memory supply (R26, R27, R33, R96, R405, R406). -/

namespace Sys2Proof.Proofs

open Sys2Proof.Machine Sys2Proof.Safety Sys2Proof.Laws

theorem workStands_recordOnly (b src detail sev : Nat) (dom : Option Nat) (s : State) : WorkStands s (recordOnly b src detail sev dom s) :=
  ⟨rfl, rfl, rfl, rfl, rfl, rfl, rfl⟩

/-! Every port changes in the same way -/

/-- One change of several ports leaves everything but the ports. -/
theorem foldl_modPort (g : PortState → PortState) (l : List Nat) (s : State) :
    l.foldl (fun s p => modPort s p g) s = { s with ports := (l.foldl (fun s p => modPort s p g) s).ports } := by
  induction l generalizing s with
  | nil => rfl
  | cons p l ih => exact ih (modPort s p g)

@[simp] theorem foldl_modPort_ports_length (g : PortState → PortState) (l : List Nat) (s : State) :
    (l.foldl (fun s p => modPort s p g) s).ports.length = s.ports.length := by
  induction l generalizing s with
  | nil => rfl
  | cons p l ih => simpa using ih (modPort s p g)

/-- Each port listed once takes the change once; another port stays. -/
theorem portOf_foldl_modPort (g : PortState → PortState) {l : List Nat} (hl : l.Nodup) {s : State} {q : Nat} (hq : q < s.ports.length) :
    portOf (l.foldl (fun s p => modPort s p g) s) q = if q ∈ l then g (portOf s q) else portOf s q := by
  induction l generalizing s with
  | nil => rfl
  | cons p l ih =>
    obtain ⟨hp, hl⟩ := List.nodup_cons.1 hl
    have h := ih hl (s := modPort s p g) (by simpa using hq)
    rw [List.foldl_cons, h]
    by_cases hpq : p = q
    · subst hpq
      simp [hp, hq]
    · simp [portOf_modPort_ne _ _ hpq, Ne.symm hpq]

/-- Events of minor severity recorded at several blocks, one after the other. -/
def recordAll (src : Nat) (sev : Nat → Nat) (l : List Nat) (s : State) : State :=
  l.foldl (fun s b => recordOnly b src 0 (sev b) none s) s

theorem recordAll_frame (src : Nat) (sev : Nat → Nat) (l : List Nat) (s : State) :
    recordAll src sev l s = { s with health := (recordAll src sev l s).health } := by
  unfold recordAll
  induction l generalizing s with
  | nil => rfl
  | cons b l ih => exact ih (recordOnly b src 0 (sev b) none s)

theorem raised_recordAll_mono {src : Nat} {sev : Nat → Nat} {l : List Nat} {s : State} {b k : Nat} (h : Raised s b k) :
    Raised (recordAll src sev l s) b k := by
  unfold recordAll
  induction l generalizing s with
  | nil => exact h
  | cons c l ih => exact ih (raised_recordOnly_mono h)

theorem raised_recordAll {src : Nat} {sev : Nat → Nat} {l : List Nat} {s : State} {b : Nat} (hb : b ∈ l) (hlen : b < s.health.length) :
    Raised (recordAll src sev l s) b src := by
  unfold recordAll
  induction l generalizing s with
  | nil => cases hb
  | cons c l ih =>
    rcases List.mem_cons.1 hb with rfl | hb
    · exact raised_recordAll_mono (l := l) (raised_recordOnly hlen)
    · exact ih hb (by simpa using hlen)

/-- Recording an event and changing ports do not see each other. -/
theorem recordOnly_foldl_modPort (b src detail sev : Nat) (dom : Option Nat) (g : PortState → PortState) (l : List Nat) (s : State) :
    l.foldl (fun s p => modPort s p g) (recordOnly b src detail sev dom s) =
      recordOnly b src detail sev dom (l.foldl (fun s p => modPort s p g) s) := by
  induction l generalizing s with
  | nil => rfl
  | cons p l ih => exact ih (modPort s p g)

/-- Ports change and record an event of minor severity each: first the changes, then the records. -/
theorem foldl_raise_modPort (g : PortState → PortState) (src : Nat) (sev : Nat → Nat) {l : List Nat} {s : State}
    (h : ∀ p ∈ l, sevOf s p src = sev p ∧ sev p ≤ 1) :
    l.foldl (fun s p => raise p src 0 none (modPort s p g)) s = recordAll src sev l (l.foldl (fun s p => modPort s p g) s) := by
  induction l generalizing s with
  | nil => rfl
  | cons p l ih =>
    obtain ⟨hp, hl⟩ := List.forall_mem_cons.1 h
    have hsev : sevOf (modPort s p g) p src = sev p := hp.1
    have hraise : raise p src 0 none (modPort s p g) = recordOnly p src 0 (sev p) none (modPort s p g) := by
      rw [raise_minor (hsev ▸ hp.2), hsev]
    have hrest : ∀ q ∈ l, sevOf (recordOnly p src 0 (sev p) none (modPort s p g)) q src = sev q ∧ sev q ≤ 1 := by
      intro q hq
      rw [sevOf_recordOnly]
      exact hl q hq
    rw [List.foldl_cons, hraise, ih hrest, recordOnly_foldl_modPort]
    rfl

/-- A port whose pads take their reset states (R33). -/
def silent (x : PortState) : PortState := { x with response := .silent }
/-- The ports once VDDIO_HP has fallen (R33). -/
def hpFallen (s : State) : State :=
  (List.range 4).foldl (fun s p => modPort s p silent) { s with board := { s.board with vddioHpOk := false } }

theorem hpFallen_frame (s : State) : hpFallen s = { s with board := { s.board with vddioHpOk := false }, ports := (hpFallen s).ports } :=
  foldl_modPort silent _ _

theorem portOf_hpFallen {s : State} {p : Nat} (hp : p < 4) (hlen : s.ports.length = 4) : portOf (hpFallen s) p = silent (portOf s p) := by
  rw [hpFallen, portOf_foldl_modPort silent List.nodup_range (by simpa [hlen] using hp), if_pos (List.mem_range.2 hp)]
  rfl

/-- VDDIO_HP falls while the device runs: every port is silent and has recorded SUPPLY (R33). -/
theorem hpLoss_running {s : State} (hok : s.board.vddioHpOk = true) (hpor : s.board.porHigh = true) (hsev : ∀ p < 4, sevOf s p 4 ≤ 1) :
    hpLoss s = recordAll 4 (sevOf s · 4) (List.range 4) (hpFallen s) := by
  have h := foldl_raise_modPort (s := { s with board := { s.board with vddioHpOk := false } }) (l := List.range 4)
    silent 4 (sevOf s · 4) (fun p hp => ⟨rfl, hsev p (List.mem_range.1 hp)⟩)
  rw [hpLoss, if_neg (by simp [hok]), if_neg (by simp [hpor])]
  exact h

/-! The memory port's bus -/

/-- From `s` to `t` only ports and memory port have changed; flash and configuration are as they were, the supply and the check due too. -/
def BusOnly (s t : State) : Prop :=
  t = { s with ports := t.ports, mp := t.mp } ∧ t.mp.flash = s.mp.flash ∧ t.mp.flashOk = s.mp.flashOk ∧ t.mp.supplyLost = s.mp.supplyLost
    ∧ t.mp.statusDue = s.mp.statusDue

section
variable {s t u : State}

theorem BusOnly.refl (s : State) : BusOnly s s := ⟨rfl, rfl, rfl, rfl, rfl⟩

theorem BusOnly.trans (h : BusOnly s t) (k : BusOnly t u) : BusOnly s u := by
  obtain ⟨h0, h1, h2, h3, h4⟩ := h
  obtain ⟨k0, k1, k2, k3, k4⟩ := k
  refine ⟨?_, k1.trans h1, k2.trans h2, k3.trans h3, k4.trans h4⟩
  rw [k0, h0]

theorem BusOnly.foldl {β : Type} {f : State → β → State} (hf : ∀ s b, BusOnly s (f s b)) (l : List β) (s : State) : BusOnly s (l.foldl f s) := by
  induction l generalizing s with
  | nil => exact .refl s
  | cons b l ih => exact (hf s b).trans (ih _)

theorem BusOnly.workStands (h : BusOnly s t) : WorkStands s t := by
  rw [h.1]; exact ⟨rfl, rfl, rfl, rfl, rfl, rfl, rfl⟩
theorem BusOnly.board (h : BusOnly s t) : t.board = s.board := by rw [h.1]
theorem BusOnly.health (h : BusOnly s t) : t.health = s.health := by rw [h.1]

theorem busOnly_modPort (s : State) (p : Nat) (f : PortState → PortState) : BusOnly s (modPort s p f) := ⟨rfl, rfl, rfl, rfl, rfl⟩
theorem busOnly_setOp (p : Nat) (o : WinOp) (s : State) : BusOnly s (setOp p o s) := busOnly_modPort _ _ _

theorem busOnly_endOp (p : Nat) (o : WinOp) (ok : Bool) (s : State) : BusOnly s (endOp p o ok s) := by
  unfold endOp
  dsimp only
  split
  · exact ⟨rfl, rfl, rfl, rfl, rfl⟩
  · exact ⟨rfl, rfl, rfl, rfl, rfl⟩

theorem busOnly_startOps (n : Nat) (s : State) : BusOnly s (startOps n s) := by
  induction n generalizing s with
  | zero => exact .refl s
  | succ n ih =>
    unfold startOps
    split
    · split
      · exact .refl s
      · dsimp only
        split
        · exact .refl s
        · split
          · exact (busOnly_setOp _ _ _).trans ((busOnly_endOp _ _ _ _).trans (ih _))
          · exact busOnly_setOp _ _ _
    · exact .refl s

theorem busOnly_beginNext (s : State) : BusOnly s (beginNext s) := by
  unfold beginNext
  split
  · exact .refl s
  · exact ⟨rfl, rfl, rfl, rfl, rfl⟩

theorem busOnly_dropFetch (p : Nat) (s : State) : BusOnly s (dropFetch p s) := ⟨rfl, rfl, rfl, rfl, rfl⟩

theorem busOnly_dropAbandoned (s : State) : BusOnly s (dropAbandoned s) := by
  refine .foldl (fun s p => ?_) _ s
  split
  · exact busOnly_dropFetch p s
  · exact .refl s

theorem busOnly_endTransaction (s : State) : BusOnly s (endTransaction s) := ⟨rfl, rfl, rfl, rfl, rfl⟩

/-- The program or erase in progress is marked as cut short (R403). -/
def markInterrupted (s : State) : State := { s with mp := { s.mp with interrupted := true } }

theorem busOnly_markInterrupted (s : State) : BusOnly s (markInterrupted s) := ⟨rfl, rfl, rfl, rfl, rfl⟩

theorem interruptFlash_idle (h : runningOp s = none) : interruptFlash s = s := by simp [interruptFlash, h]

theorem interruptFlash_running {p : Nat} {o : WinOp} (h : runningOp s = some (p, o)) :
    interruptFlash s = markInterrupted (if s.mp.interrupted then setOp p { o with repeated := true } s else s) := by
  rw [interruptFlash, h]; rfl

theorem busOnly_interruptFlash (s : State) : BusOnly s (interruptFlash s) := by
  cases h : runningOp s with
  | none => rw [interruptFlash_idle h]; exact .refl s
  | some c =>
    rw [interruptFlash_running h]
    split
    · exact (busOnly_setOp _ _ _).trans (busOnly_markInterrupted _)
    · exact busOnly_markInterrupted s

theorem busOnly_breakOff (s : State) : BusOnly s (breakOff s) :=
  (busOnly_dropAbandoned s).trans ((busOnly_interruptFlash _).trans (busOnly_endTransaction _))

/-! What breaking off an access does -/

theorem dropAbandoned_cache (s : State) : (dropAbandoned s).mp.cache = s.mp.cache := by
  unfold dropAbandoned
  induction List.range 4 generalizing s with
  | nil => rfl
  | cons p l ih =>
    rw [List.foldl_cons, ih]
    split <;> rfl

theorem interruptFlash_cache (s : State) : (interruptFlash s).mp.cache = s.mp.cache := by
  cases h : runningOp s with
  | none => rw [interruptFlash_idle h]
  | some c =>
    rw [interruptFlash_running h, markInterrupted]
    split <;> rfl

theorem breakOff_cache (s : State) : (breakOff s).mp.cache = s.mp.cache := by
  rw [breakOff, endTransaction, interruptFlash_cache, dropAbandoned_cache]

/-- The writes of the window are those of the ports' queues. -/
theorem winOps_congr (h : t.ports.map (·.winQueue) = s.ports.map (·.winQueue)) : winOps t = winOps s := by
  have hflat (l : List PortState) : l.zipIdx.flatMap (fun c => c.1.winQueue.map (fun o => (c.2, o))) =
      (l.map (·.winQueue)).zipIdx.flatMap (fun c => c.1.map (fun o => (c.2, o))) := by
    rw [List.zipIdx_map, List.flatMap_map]; rfl
  unfold winOps
  rw [hflat, hflat, h]

theorem winQueues_modPort {p : Nat} {f : PortState → PortState} (hf : ∀ x, (f x).winQueue = x.winQueue) :
    (modPort s p f).ports.map (·.winQueue) = s.ports.map (·.winQueue) := by
  by_cases hp : p < s.ports.length
  · rw [modPort_ports, List.map_set, hf]
    refine List.ext_getElem (by simp) fun i hi _ => ?_
    simp only [List.getElem_set, List.getElem_map]
    split
    · next h => subst h; simp [portOf, hp]
    · rfl
  · rw [modPort_ports, List.set_eq_of_length_le (Nat.le_of_not_lt hp)]

theorem winQueues_dropAbandoned (s : State) : (dropAbandoned s).ports.map (·.winQueue) = s.ports.map (·.winQueue) := by
  unfold dropAbandoned
  induction List.range 4 generalizing s with
  | nil => rfl
  | cons p l ih =>
    rw [List.foldl_cons, ih]
    split
    · exact winQueues_modPort (fun _ => rfl)
    · rfl

theorem runningOp_dropAbandoned (s : State) : runningOp (dropAbandoned s) = runningOp s := by
  rw [runningOp, winOps_congr (winQueues_dropAbandoned s), runningOp]

/-- A program or erase that runs is marked as cut short (R403). -/
theorem interruptFlash_interrupted (h : (runningOp s).isSome = true) : (interruptFlash s).mp.interrupted = true := by
  obtain ⟨c, hc⟩ := Option.isSome_iff_exists.1 h
  rw [interruptFlash_running hc]; rfl

theorem endTransaction_interrupted (s : State) : (endTransaction s).mp.interrupted = s.mp.interrupted := rfl

theorem breakOff_interrupted (h : (runningOp s).isSome = true) : (breakOff s).mp.interrupted = true := by
  have hdrop : (runningOp (dropAbandoned s)).isSome = true := by rwa [runningOp_dropAbandoned]
  rw [breakOff, endTransaction_interrupted]
  exact interruptFlash_interrupted hdrop

end

section
variable {s : State}

/-- The bus at the loss of VDDIO_MP: an access in progress is broken off (R406). -/
def busLost (s : State) : State := if mastering s then breakOff s else s

theorem busOnly_busLost (s : State) : BusOnly s (busLost s) := by
  unfold busLost; split
  · exact busOnly_breakOff s
  · exact .refl s

theorem busLost_cache (s : State) : (busLost s).mp.cache = s.mp.cache := by
  unfold busLost; split
  · exact breakOff_cache s
  · rfl

/-- VDDIO_MP falls while the device runs: the event is recorded over the broken-off bus (R33, R406). -/
theorem vddioMpLoss_running (hok : s.board.vddioMpOk = true) (hpor : s.board.porHigh = true) (hsev : sevOf s 4 6 ≤ 1) :
    exec .vddioMpLoss s = .next (recordOnly 4 6 0 (sevOf s 4 6) none { busLost s with
      board := { (busLost s).board with vddioMpOk := false }, mp := { (busLost s).mp with supplyLost := true } }) := by
  have hs (t : State) (ht : t.health = s.health) : sevOf t 4 6 = sevOf s 4 6 := by rw [sevOf, blockOf, ht]; rfl
  have hlost := hs { busLost s with board := { (busLost s).board with vddioMpOk := false }, mp := { (busLost s).mp with supplyLost := true } }
    (busOnly_busLost s).health
  have hraise := raise_minor (detail := 0) (dom := none) (hlost.trans_le hsev)
  rw [hlost] at hraise
  rw [← hraise]
  change Host.Outcome.next _ = _
  simp [hok, hpor, busLost]

/-- The check of the configuration is due where there is a flash (R405). -/
def checkDue (s : State) : State := { s with mp := { s.mp with statusDue := s.mp.flashOk } }
/-- The check is done: the status register has been read (R405). -/
def checkDone (s : State) : State := { s with mp := { s.mp with statusDue := false } }
/-- Window and archive are unavailable (R405). -/
def flashGone (s : State) : State := { s with mp := { s.mp with flashOk := false } }

/-- The check waits while the bus is not free, and where there is no flash (R405, R406). -/
theorem checkConfig_waits {e r : Bool} (h : busFree s = false ∨ s.mp.flashOk = false) : checkConfig e r s = checkDue s := by
  have hc : (busFree (checkDue s) && (checkDue s).mp.flashOk) = false := Bool.and_eq_false_iff.2 h
  exact if_neg (by rw [← checkDue, hc]; decide)

/-- On a free bus the check is made at once (R405). -/
theorem checkConfig_free {e r : Bool} (hfree : busFree s = true) (hok : s.mp.flashOk = true) :
    checkConfig e r s = if (readStatus e r (checkDue s)).mp.flashOk then beginNext (startOps 16 (readStatus e r (checkDue s)))
      else beginNext (readStatus e r (checkDue s)) := by
  have hc : (busFree (checkDue s) && (checkDue s).mp.flashOk) = true := Bool.and_eq_true_iff.2 ⟨hfree, hok⟩
  exact if_pos hc

/-- Two equal status bytes end the check, and queued work starts (R405). -/
theorem checkConfig_equal {r : Bool} (hfree : busFree s = true) (hok : s.mp.flashOk = true) :
    checkConfig true r s = beginNext (startOps 16 (checkDone s)) := by
  rw [checkConfig_free hfree hok]
  exact if_pos hok

/-- Two unequal ones are recorded; a flash that does not re-enter its configuration is unusable (R405). -/
theorem checkConfig_lost (hfree : busFree s = true) (hok : s.mp.flashOk = true) (hsev : sevOf s 4 4 ≤ 1) :
    checkConfig false false s = beginNext (flashGone (recordOnly 4 4 0 (sevOf s 4 4) none (checkDone s))) := by
  have hraise : readStatus false false (checkDue s) = flashGone (recordOnly 4 4 0 (sevOf s 4 4) none (checkDone s)) :=
    congrArg flashGone (raise_minor (s := checkDone s) hsev)
  rw [checkConfig_free hfree hok, hraise]
  exact if_neg Bool.false_ne_true

/-- A port whose registers a warm reset has put back (R96). -/
def warmed (cause : Nat) (x : PortState) : PortState :=
  { x with
    lanes := 0, timing := 0x00400108, crcEn := false, lwSeq := 0, lwOpcode := 0, lwOutcome := 0, scratch := 0, arenaSel := 0,
    ringArg0 := 0, ringArg1 := 0, ringArg2 := 0, cmdSeq := 0, cmdLast := 0, cmdResult := 0, queryId := 0, queryState := 0,
    warmCause := cause, linkEvt := false, fetchDone := false, fetch := x.fetch.map (fun f => { f with announce := false }) }

theorem warmReset_modPort (p cause : Nat) (s : State) : warmReset p cause s = modPort s p (warmed cause) := rfl

/-- VDDIO_HP returns while the device runs: every port has a warm reset of cause 2 (R96). -/
theorem vddioHpReturn_running (hok : s.board.vddioHpOk = false) (hpor : s.board.porHigh = true) :
    exec .vddioHpReturn s =
      .next ((List.range 4).foldl (fun s p => modPort s p (warmed 2)) { s with board := { s.board with vddioHpOk := true } }) := by
  change Host.Outcome.next _ = _
  simp only [hok, hpor, Bool.not_true, Bool.false_eq_true, if_false, warmReset_modPort]

end

/-! The clauses of O54, one state at a time -/

section
variable {s : State}

/-- The loss of VDDIO_HP silences every port and holds every host in reset (R33). -/
theorem hpLoss_silences (hshape : Shape s) (hok : s.board.vddioHpOk = true) (hpor : s.board.porHigh = true) (hsev : ∀ p < 4, sevOf s p 4 ≤ 1) :
    ∃ t, exec .vddioHpLoss s = .next t ∧ t.board = { s.board with vddioHpOk := false } ∧ WorkStands s t
      ∧ ∀ p < 4, portOf t p = { portOf s p with response := .silent } ∧ hrstHigh t p = false ∧ portDead t = true ∧ Raised t p 4 := by
  obtain ⟨hports, -, hhealth, -⟩ := hshape
  have hframe := recordAll_frame 4 (sevOf s · 4) (List.range 4) (hpFallen s)
  rw [hpFallen_frame s] at hframe
  refine ⟨_, congrArg Host.Outcome.next (hpLoss_running hok hpor hsev), ?_, ?_, fun p hp => ?_⟩
  · rw [hpFallen_frame, hframe]
  · rw [hpFallen_frame, hframe]; exact ⟨rfl, rfl, rfl, rfl, rfl, rfl, rfl⟩
  · have hboard : (recordAll 4 (sevOf s · 4) (List.range 4) (hpFallen s)).board.vddioHpOk = false := by rw [hpFallen_frame, hframe]
    have hport : portOf (recordAll 4 (sevOf s · 4) (List.range 4) (hpFallen s)) p = portOf (hpFallen s) p := by
      rw [recordAll_frame]; rfl
    refine ⟨hport.trans (portOf_hpFallen hp hports), ?_, ?_, raised_recordAll (List.mem_range.2 hp) ?_⟩
    · simp [hrstHigh, hboard]
    · simp [portDead, hboard]
    · rw [hpFallen_frame]; simpa [hhealth] using Nat.lt_trans hp (by decide)

/-- The return of VDDIO_HP warm-resets every port and changes nothing else but the level (R96). -/
theorem hpReturn_warms (hshape : Shape s) (hok : s.board.vddioHpOk = false) (hpor : s.board.porHigh = true) :
    ∃ t, exec .vddioHpReturn s = .next t ∧ t.board = { s.board with vddioHpOk := true } ∧ WorkStands s t ∧ t.health = s.health
      ∧ ∀ p < 4, portOf t p = warmed 2 (portOf s p) := by
  have hframe := foldl_modPort (warmed 2) (List.range 4) { s with board := { s.board with vddioHpOk := true } }
  refine ⟨_, vddioHpReturn_running hok hpor, ?_, ?_, ?_, fun p hp => ?_⟩
  · rw [hframe]
  · rw [hframe]; exact ⟨rfl, rfl, rfl, rfl, rfl, rfl, rfl⟩
  · rw [hframe]
  · rw [portOf_foldl_modPort _ List.nodup_range (by simpa [hshape.1] using hp), if_pos (List.mem_range.2 hp)]; rfl

/-- The loss of VDDIO_MP stops the bus where it is (R33, R406). -/
theorem mpLoss_stops (hshape : Shape s) (hok : s.board.vddioMpOk = true) (hpor : s.board.porHigh = true) (hsev : sevOf s 4 6 ≤ 1) :
    ∃ t, exec .vddioMpLoss s = .next t ∧ t.board = { s.board with vddioMpOk := false } ∧ t.mp.supplyLost = true ∧ mpReady t = false
      ∧ Raised t 4 6 ∧ (mastering s = true → t.mp.current = none) ∧ (mastering s = true → (runningOp s).isSome = true → t.mp.interrupted = true)
      ∧ t.mp.flash = s.mp.flash ∧ t.mp.cache = s.mp.cache ∧ WorkStands s t := by
  have hbus := busOnly_busLost s
  have hhealth : 4 < s.health.length := by rw [hshape.2.2.1]; decide
  refine ⟨_, vddioMpLoss_running hok hpor hsev, ?_, rfl, ?_, raised_recordOnly ?_, fun hm => ?_, fun hm hrun => ?_, hbus.2.1, busLost_cache s, ?_⟩
  · exact congrArg (fun b : Board => { b with vddioMpOk := false }) hbus.board
  · simp [mpReady, recordOnly]
  · exact hbus.health ▸ hhealth
  · change (busLost s).mp.current = none
    rw [busLost, if_pos hm]; rfl
  · change (busLost s).mp.interrupted = true
    rw [busLost, if_pos hm]
    exact breakOff_interrupted hrun
  · exact hbus.workStands

/-! Where only a level changes, or nothing -/

theorem hpLoss_absent (h : s.board.vddioHpOk = false) : hpLoss s = s := by
  rw [hpLoss, if_pos (by simp [h])]

theorem hpLoss_inReset (hpor : s.board.porHigh = false) : hpLoss s = { s with board := { s.board with vddioHpOk := false } } := by
  cases hok : s.board.vddioHpOk with
  | false =>
    rw [hpLoss_absent hok, ← hok]
  | true => rw [hpLoss, if_neg (by simp [hok]), if_pos (by simp [hpor])]

theorem hpReturn_present (h : s.board.vddioHpOk = true) : exec .vddioHpReturn s = .next s :=
  congrArg Host.Outcome.next (if_pos h)

theorem hpReturn_inReset (hpor : s.board.porHigh = false) :
    exec .vddioHpReturn s = .next { s with board := { s.board with vddioHpOk := true } } := by
  cases hok : s.board.vddioHpOk with
  | true => rw [hpReturn_present hok, ← hok]
  | false => exact congrArg Host.Outcome.next ((if_neg (by simp [hok])).trans (if_pos (by simp [hpor])))

theorem vddioMpLoss_absent (h : s.board.vddioMpOk = false) : exec .vddioMpLoss s = .next s :=
  congrArg Host.Outcome.next (if_pos (by simp [h]))

theorem vddioMpLoss_inReset (hpor : s.board.porHigh = false) :
    exec .vddioMpLoss s = .next { s with board := { s.board with vddioMpOk := false } } := by
  cases hok : s.board.vddioMpOk with
  | false => rw [vddioMpLoss_absent hok, ← hok]
  | true => exact congrArg Host.Outcome.next ((if_neg (by simp [hok])).trans (if_pos (by simp [hpor])))

theorem vddioMpReturn_present {e w r : Bool} (h : s.board.vddioMpOk = true) : exec (.vddioMpReturn e w r) s = .next s :=
  congrArg Host.Outcome.next (if_pos h)

theorem vddioMpReturn_levelOnly {e w r : Bool} (hok : s.board.vddioMpOk = false) (hlost : s.mp.supplyLost = false) :
    exec (.vddioMpReturn e w r) s = .next { s with board := { s.board with vddioMpOk := true } } :=
  congrArg Host.Outcome.next ((if_neg (by simp [hok])).trans (if_pos (by simp [hlost])))

/-- The return of VDDIO_MP where the supply was lost in a run: the check, due or made (R405, R406). -/
theorem vddioMpReturn_checks {e w r : Bool} (hok : s.board.vddioMpOk = false) (hlost : s.mp.supplyLost = true) :
    exec (.vddioMpReturn e w r) s = .next (checkConfig e r { s with
      board := { s.board with vddioMpOk := true }, mp := { s.mp with supplyLost := false } }) := by
  change Host.Outcome.next _ = _
  simp only [hok, hlost, Bool.not_true, Bool.false_eq_true, if_false]

/-- A check that finds the two status bytes equal leaves flash and records as they are (R405). -/
theorem checkConfig_equal_leaves {r : Bool} (hfree : busFree s = true) (hok : s.mp.flashOk = true) :
    BusOnly (checkDone s) (checkConfig true r s) := by
  rw [checkConfig_equal hfree hok]
  exact (busOnly_startOps _ _).trans (busOnly_beginNext _)

/-- One that loses the flash records it and leaves the flash's content (R405). -/
theorem checkConfig_lost_leaves (hfree : busFree s = true) (hok : s.mp.flashOk = true) (hsev : sevOf s 4 4 ≤ 1) :
    BusOnly (flashGone (recordOnly 4 4 0 (sevOf s 4 4) none (checkDone s))) (checkConfig false false s) := by
  rw [checkConfig_lost hfree hok hsev]
  exact busOnly_beginNext _

end

/-- Settles O54: what each supply does at its fall and at its return, by the state of the bus and of POR_N. -/
theorem suppliesFallAndReturn : Obligations.SuppliesFallAndReturn := by
  intro s hshape
  have hlen : 4 < s.health.length := by rw [hshape.2.2.1]; decide
  have h14 : 14 < s.health.length := by rw [hshape.2.2.1]; decide
  refine ⟨hpLoss_silences hshape, fun hno => ?_, fun hpor => ⟨?_, ?_, ?_⟩, hpReturn_warms hshape, fun hok => ?_, mpLoss_stops hshape,
    fun hno w r => ⟨?_, fun hlost q => ?_, fun u hlost hu => ⟨fun hwait => ⟨?_, ?_⟩, fun hfree hflash => ⟨?_, fun hsev => ?_⟩⟩⟩,
    fun hok e w r => ?_, fun mv => rfl, fun mv => ⟨fun h => ?_, fun hbat hmv hsev => ?_⟩⟩
  -- the host supply
  · exact congrArg Host.Outcome.next (hpLoss_absent hno)
  · exact congrArg Host.Outcome.next (hpLoss_inReset hpor)
  · exact hpReturn_inReset hpor
  · exact vddioMpLoss_inReset hpor
  · exact hpReturn_present hok
  -- the memory supply
  · exact vddioMpLoss_absent hno
  · exact vddioMpReturn_levelOnly hno hlost
  · subst hu
    exact (vddioMpReturn_checks hno hlost).trans (congrArg Host.Outcome.next (checkConfig_waits hwait))
  · subst hu
    exact (vddioMpReturn_checks hno hlost).trans (congrArg Host.Outcome.next (checkConfig_waits hwait))
  · subst hu
    have hbus := checkConfig_equal_leaves (r := r) hfree hflash
    exact ⟨_, vddioMpReturn_checks hno hlost, hbus.board, hbus.2.2.2.2, hbus.2.2.2.1, hbus.2.2.1.trans hflash, hbus.2.1, hbus.health,
      hbus.workStands⟩
  · subst hu
    have hbus := checkConfig_lost_leaves hfree hflash hsev
    refine ⟨_, vddioMpReturn_checks hno hlost, hbus.board, hbus.2.2.1, ?_, hbus.2.1, hbus.workStands⟩
    rw [Raised, blockOf, hbus.health]
    exact raised_recordOnly hlen
  · exact vddioMpReturn_present hok
  -- the battery
  · exact congrArg Host.Outcome.next (if_neg (by rcases h with h | h <;> simp [h]))
  · refine ⟨_, congrArg Host.Outcome.next (if_pos (by simp [hbat, hmv])), ?_⟩
    rw [raise_minor hsev]
    exact ⟨raised_recordOnly h14, workStands_recordOnly _ _ _ _ _ _, rfl, rfl⟩

end Sys2Proof.Proofs
end

section
/-! PROOFS. The TAP (R46), the RTC that stops (R428), and injected events and errors short of the tamper sequence (R371, R433). -/

namespace Sys2Proof.Proofs

open Sys2Proof.Machine Sys2Proof.Safety Sys2Proof.Laws

/-! The TAP -/

section
variable {b : Board} {mono : Nat} {tms tdi : Bool}

theorem tapEnter_tap (st : Nat) (b : Board) : (tapEnter st b).tap = st := by
  unfold tapEnter
  dsimp only
  split
  · rfl
  · split <;> rfl
  · rfl
  · rfl

theorem tapEnter_tapShift (st : Nat) (b : Board) : (tapEnter st b).tapShift = b.tapShift := by
  unfold tapEnter
  dsimp only
  split
  · rfl
  · split <;> rfl
  · rfl
  · rfl

theorem tapClock_tap : (tapClock mono tms tdi b).tap = tapNext b.tap tms := tapEnter_tap _ _

/-- What a clock leaves in the shift register is what its edge captured or shifted. -/
theorem tapClock_tapShift : (tapClock mono tms tdi b).tapShift = (tapAct mono tdi b).tapShift := tapEnter_tapShift _ _

/-- Capture-DR loads the IDCODE, which Shift-DR then moves out (R46). -/
theorem tapAct_idcode (hir : b.tapIr = 1) :
    (b.tap = 3 → (tapAct mono tdi b).tapShift = 0xB6516C7B)
      ∧ (b.tap = 4 → (tapAct mono tdi b).tapShift = b.tapShift / 2 + b2n tdi * 2 ^ 31) := by
  constructor <;> intro hst <;> simp [tapAct, hst, hir, shiftIn]

/-- Entering Test-Logic-Reset selects IDCODE. -/
theorem tapClock_reset (h : tapNext b.tap tms = 0) : (tapClock mono tms tdi b).tapIr = 1 := by
  simp [tapClock, h, tapEnter]

/-- Five steps with TMS 1 lead from every state to Test-Logic-Reset (IEEE 1149.1). -/
theorem tapNext_five (st : Nat) : tapNext (tapNext (tapNext (tapNext (tapNext st true) true) true) true) true = 0 := by
  match st with
  | 0 | 1 | 2 | 3 | 4 | 5 | 6 | 7 | 8 | 9 | 10 | 11 | 12 | 13 | 14 | 15 => rfl
  | st + 16 =>
    have hup : tapNext (st + 16) true = 2 := by simp [tapNext]
    rw [hup]; rfl

end

section
variable {s : State}

theorem tapStep_closed (op : TapOp) (h : jtagOpen s = false) : (tapStep op s).board = tapHeld s.board := by simp [tapStep, h]
theorem tapStep_clock {tms tdi : Bool} (h : jtagOpen s = true) : (tapStep (.clock tms tdi) s).board = tapClock s.mono tms tdi s.board := by
  simp [tapStep, h]
theorem tapStep_trst : (tapStep .trst s).board = tapHeld s.board := by
  cases h : jtagOpen s with
  | false => exact tapStep_closed _ h
  | true => simp [tapStep, h]

theorem tap_tapStep {tms tdi : Bool} (h : jtagOpen s = true) : (tapStep (.clock tms tdi) s).board.tap = tapNext s.board.tap tms := by
  rw [tapStep_clock h, tapClock_tap]

/-- Five clocks with TMS 1 reach Test-Logic-Reset with IDCODE selected, where JTAG is open and where the TAP is held there (R46). -/
theorem tapStep_five (a b c d e : Bool) (s : State) :
    (tapStep (.clock true e) (tapStep (.clock true d) (tapStep (.clock true c) (tapStep (.clock true b) (tapStep (.clock true a) s))))).board.tap = 0
      ∧ (tapStep (.clock true e)
          (tapStep (.clock true d) (tapStep (.clock true c) (tapStep (.clock true b) (tapStep (.clock true a) s))))).board.tapIr = 1 := by
  cases h : jtagOpen s with
  | false => rw [tapStep_closed]; exact ⟨rfl, rfl⟩; exact h
  | true =>
    have hlast : tapNext (tapStep (.clock true d) (tapStep (.clock true c) (tapStep (.clock true b) (tapStep (.clock true a) s)))).board.tap true = 0 := by
      rw [tap_tapStep, tap_tapStep, tap_tapStep, tap_tapStep h]
      · exact tapNext_five _
      all_goals exact h
    rw [tapStep_clock]
    · exact ⟨tapClock_tap.trans hlast, tapClock_reset hlast⟩
    · exact h

end

/-! The RTC -/

/-- A domain-table entry after the change of one. -/
theorem domOf_modDom (s : State) (d e : Nat) (f : DomRec → DomRec) :
    domOf (modDom s d f) e = if d = e then f (domOf s d) else domOf s e := by
  rw [domOf, modDom, modThermos, assocGetD, assocGet_put]
  split
  · rfl
  · rfl

/-- The open record of a domain carries UNCLEAN_STOP (R428). -/
def unclean (r : DomRec) : DomRec := { r with unclean := true }

theorem foldl_modDom_frame (f : DomRec → DomRec) (l : List Nat) (s : State) :
    l.foldl (fun s d => modDom s d f) s = { s with thermos := (l.foldl (fun s d => modDom s d f) s).thermos } := by
  induction l generalizing s with
  | nil => rfl
  | cons d l ih => exact ih (modDom s d f)

/-- Several domains change in the same way, which a second change does not take further. -/
theorem domOf_foldl_modDom {f : DomRec → DomRec} (hf : ∀ r, f (f r) = f r) (l : List Nat) (s : State) (d : Nat) :
    domOf (l.foldl (fun s d => modDom s d f) s) d = if d ∈ l then f (domOf s d) else domOf s d := by
  induction l generalizing s with
  | nil => rfl
  | cons c l ih =>
    rw [List.foldl_cons, ih, domOf_modDom]
    by_cases hc : c = d
    · subst hc
      simp [hf]
    · simp [hc, Ne.symm hc]

section
variable {s : State}

/-- The open records after the RTC has stopped (R428). -/
def rtcMarked (s : State) : State := (meterDomains s).foldl (fun s d => modDom s d unclean) { s with board := { s.board with rtcRunning := false } }

theorem rtcStop_stopped (h : s.board.rtcRunning = false) : rtcStop s = s := by
  rw [rtcStop, if_pos (by simp [h])]

theorem rtcStop_inReset (h : s.board.rtcRunning = true) (hpor : s.board.porHigh = false) :
    rtcStop s = { s with board := { s.board with rtcRunning := false } } := by
  rw [rtcStop, if_neg (by simp [h])]
  exact if_neg (by simp [hpor])

/-- Where VDD_AON is present the stop is recorded over the marked records (R428). -/
theorem rtcStop_recorded (h : s.board.rtcRunning = true) (hpor : s.board.porHigh = true) (hsev : sevOf s 17 2 ≤ 3) :
    rtcStop s = recordOnly 17 2 0 (sevOf s 17 2) none (rtcMarked s) := by
  have hhealth : (rtcMarked s).health = s.health := by rw [rtcMarked, foldl_modDom_frame]
  have hs : sevOf (rtcMarked s) 17 2 = sevOf s 17 2 := by simp only [sevOf, blockOf, hhealth]
  have hraise : raise 17 2 0 none (rtcMarked s) = recordOnly 17 2 0 (sevOf s 17 2) none (rtcMarked s) := by
    rw [raise_domainless (by omega) (fenceTarget_none (by decide)), hs]
  rw [← hraise, rtcStop, if_neg (by simp [h])]
  exact if_pos hpor

/-- RTC_STOP on a running device: the event, the marked records, and nothing of the work (R428). -/
theorem rtcStop_marks (hlen : 17 < s.health.length) (h : s.board.rtcRunning = true) (hpor : s.board.porHigh = true) (hsev : sevOf s 17 2 ≤ 3) :
    ∃ t, exec .rtcStop s = .next t ∧ Raised t 17 2 ∧ t.board = { s.board with rtcRunning := false }
      ∧ (∀ d, domOf t d = if d ∈ meterDomains s then { domOf s d with unclean := true } else domOf s d)
      ∧ t.rings = s.rings ∧ t.hampers = s.hampers ∧ t.mem = s.mem ∧ t.keys = s.keys ∧ t.mono = s.mono := by
  have hframe : rtcMarked s = { s with board := { s.board with rtcRunning := false }, thermos := (rtcMarked s).thermos } := foldl_modDom_frame _ _ _
  have hdom (d : Nat) : domOf (rtcMarked s) d = if d ∈ meterDomains s then unclean (domOf s d) else domOf s d :=
    domOf_foldl_modDom (f := unclean) (fun _ => rfl) _ _ d
  refine ⟨_, congrArg Host.Outcome.next (rtcStop_recorded h hpor hsev), raised_recordOnly ?_, ?_, hdom, ?_⟩
  · rw [hframe]; exact hlen
  · change (rtcMarked s).board = _
    rw [hframe]
  · obtain ⟨hrings, -, hhampers, hmem, -, hkeys, hmono⟩ : WorkStands (rtcMarked s) (recordOnly 17 2 0 (sevOf s 17 2) none (rtcMarked s)) :=
      workStands_recordOnly _ _ _ _ _ _
    rw [hrings, hhampers, hmem, hkeys, hmono, hframe]
    exact ⟨rfl, rfl, rfl, rfl, rfl⟩

end

/-! Fault injection -/

section
variable {s t : State} {p : Port} {k : Link} {a v : Nat}

/-- In FACTORY a write to the fault-injection page reaches its register (R433). -/
theorem writeReg_factoryPage {p : Nat} (hm : s.boot.mode = .factory) (h4 : a % 4 = 0) (hlo : 0xC00 ≤ a) (hhi : a < 0x1000) :
    writeReg p a v s = writeFactory a v s := by
  have hx : ¬(a % 4 ≠ 0 ∨ 0x1000 ≤ a) := by omega
  have hw : modeWrites s p a = true := modeWrites_open ⟨by simp [hm], by simp [hm]⟩
  simp [writeReg, hx, hw, hm, show ¬a = 0x500 by omega, show ¬a < 0x100 by omega, show ¬a < 0x400 by omega, show ¬a < 0x500 by omega,
    show ¬a < 0x600 by omega, show ¬a < 0x800 by omega, show ¬a < 0xC00 by omega]

/-- A served write of that page that its register accepts. -/
theorem regFrame_factory (h : ServesReg s p k a v) (hm : s.boot.mode = .factory) (h4 : a % 4 = 0) (hlo : 0xC00 ≤ a) (hhi : a < 0x1000)
    (hv : v < 2 ^ 32) (hw : writeFactory a v (respond p .silent s) = accept t) : regFrame p k a v s = recordWr p 0x11 wrOk t :=
  regFrame_accept h hhi (by omega) hv ((writeReg_factoryPage (s := respond p .silent s) hm h4 hlo hhi).trans hw)

/-- `FI_CTL` with FIRE (R433). -/
theorem writeFactory_fire (react : Bool) : writeFactory 0xC44 (b2n react * 2 + 1) s = accept (inject { s with fiReact := react }) := by
  cases react <;> rfl

/-- FI_FIRE injects once REACT is set (R433). -/
theorem regFrame_fire {react : Bool} (h : ServesReg s p k 0xC44 (b2n react * 2 + 1)) (hm : s.boot.mode = .factory) :
    regFrame p k 0xC44 (b2n react * 2 + 1) s = recordWr p 0x11 wrOk (inject { respond p .silent s with fiReact := react }) :=
  regFrame_factory h hm (by decide) (by decide) (by decide) (by cases react <;> decide) (writeFactory_fire react)

/-- A source its block does not define is none (R433). -/
theorem inject_undefined (h : 21 ≤ bits s.fiTarget.toNat 12 8 ∨ sourceCount (bits s.fiTarget.toNat 12 8) ≤ bits s.fiTarget.toNat 2 0) :
    inject s = s := by
  rw [inject]
  exact if_neg (by omega)

/-- Without REACT the event is recorded, and no more (R433). -/
theorem inject_recorded (hb : bits s.fiTarget.toNat 12 8 < 21) (hsrc : bits s.fiTarget.toNat 2 0 < sourceCount (bits s.fiTarget.toNat 12 8))
    (hr : s.fiReact = false) :
    inject s = recordOnly (bits s.fiTarget.toNat 12 8) (bits s.fiTarget.toNat 2 0) (bits s.fiTarget.toNat 31 16)
      (sevOf s (bits s.fiTarget.toNat 12 8) (bits s.fiTarget.toNat 2 0))
      (injectedDomain (bits s.fiTarget.toNat 12 8) (bits s.fiTarget.toNat 2 0) (bits s.fiTarget.toNat 31 16)) s := by
  rw [inject]
  exact (if_pos ⟨hb, hsrc⟩).trans (if_neg (by simp [hr]))

/-- A tamper source with REACT runs the sequence of R431 (R433). -/
theorem inject_tamper (hb : bits s.fiTarget.toNat 12 8 = 14) (hsrc : bits s.fiTarget.toNat 2 0 < 6) (hr : s.fiReact = true) :
    inject s = tamper (bits s.fiTarget.toNat 2 0) (bits s.fiTarget.toNat 31 16) s := by
  have hcount : bits s.fiTarget.toNat 2 0 < sourceCount 14 := Nat.lt_trans hsrc (by decide)
  simp [inject, injectReact, hb, hsrc, hr, hcount]

/-- `FI_ECC_CTL` with GO and one or two bits (R433). -/
theorem writeFactory_ecc {n : Nat} (hn : n = 1 ∨ n = 2) :
    writeFactory 0xC4C (16 + n) s = accept (injectEcc n { s with fiEccBits := n }) := by
  rcases hn with rfl | rfl <;> rfl

end
end Sys2Proof.Proofs
end

section
/-! PROOFS. What only goes away: while engines are struck, events react and hampers leave, nothing of R431's erasure comes back, no hamper
and no engine work appears, and a device in QUARANTINE stays empty. One lemma for each operation of Machine/Ops.lean and Machine/Events.lean. -/

namespace Sys2Proof.Proofs

open Sys2Proof.Machine Sys2Proof.Safety Sys2Proof.Laws

/-- TAMPER_ZERO has cleared the Thermos and the journal, and Q_CAUSE is `q` (R431). -/
def Zeroed (q : Nat) (s : State) : Prop :=
  s.thermos.drs = [] ∧ s.thermos.drsMask = [] ∧ s.thermos.domains = [] ∧ s.thermos.tableLost = true ∧ s.journal = none
    ∧ s.thermos.quarantine = true ∧ s.thermos.qCause = q
/-- No engine runs or suspends a message. -/
def Idle (s : State) : Prop := ∀ i, (pdOf s i).running = none ∧ (pdOf s i).suspended = none
/-- No engine wakes. -/
def Asleep (s : State) : Prop := ∀ i < 36, (pdOf s i).st ≠ .waking
/-- In QUARANTINE no work stands (R135). -/
def Settled (s : State) : Prop := s.boot.mode = .quarantine → s.hampers = [] ∧ Idle s
/-- No key, no load and no BOOT_ID. -/
def Erased (s : State) : Prop := s.keys = [] ∧ s.loads = [] ∧ s.boot.bootId = []
/-- The tags of the Larder lines stand: those that match nothing, and the written lines. -/
def TagsStand (s t : State) : Prop := t.mem.badTags = s.mem.badTags ∧ t.mem.written = s.mem.written

/-- From `s` to `t` things only go away; with `κ` no Larder line is written or checked. -/
structure Wanes (κ : Prop) (s t : State) : Prop where
  zeroed : ∀ q, Zeroed q s → Zeroed q t
  mode : t.boot.mode = s.boot.mode ∨ (s.boot.mode ≠ .boot ∧ t.boot.mode = .quarantine)
  settled : Settled s → Settled t
  taken : ∀ y ∈ t.hampers, ∃ x ∈ s.hampers, x.id = y.id
  idle : Idle s → Idle t
  asleep : Asleep s → Asleep t
  erased : Erased s → Erased t
  raised : ∀ b c, Raised s b c → Raised t b c
  tags : κ → TagsStand s t

section
variable {κ : Prop} {s0 s t : State}

theorem Wanes.refl (s : State) : Wanes κ s s :=
  ⟨fun _ => id, .inl rfl, id, fun y hy => ⟨y, hy, rfl⟩, id, id, id, fun _ _ => id, fun _ => ⟨rfl, rfl⟩⟩

theorem Wanes.trans {u : State} (h : Wanes κ s t) (k : Wanes κ t u) : Wanes κ s u where
  zeroed q hq := k.zeroed q (h.zeroed q hq)
  mode := by
    rcases k.mode with hk | ⟨hk, hu⟩
    · rw [hk]; exact h.mode
    · refine .inr ⟨fun hs => ?_, hu⟩
      rcases h.mode with ht | ⟨ht, -⟩
      · exact hk (ht.trans hs)
      · exact ht hs
  settled hs := k.settled (h.settled hs)
  taken y hy := by
    obtain ⟨x, hx, hid⟩ := k.taken y hy
    obtain ⟨w, hw, hwid⟩ := h.taken x hx
    exact ⟨w, hw, hwid.trans hid⟩
  idle hs := k.idle (h.idle hs)
  asleep hs := k.asleep (h.asleep hs)
  erased hs := k.erased (h.erased hs)
  raised b c hs := k.raised b c (h.raised b c hs)
  tags hκ := ⟨(k.tags hκ).1.trans (h.tags hκ).1, (k.tags hκ).2.trans (h.tags hκ).2⟩

/-- The mode stays other than BOOT. -/
theorem Wanes.running (h : Wanes κ s t) (hm : s.boot.mode ≠ .boot) : t.boot.mode ≠ .boot := by
  rcases h.mode with hk | ⟨-, hk⟩
  · rwa [hk]
  · simp [hk]

/-- What `Wanes` speaks of. -/
def core (s : State) : Thermos × Option Journal × Mode × Bytes × List Hamper × List Pd × Assoc Key × List (Nat × Nat) × List Health × List Nat × List Nat :=
  (s.thermos, s.journal, s.boot.mode, s.boot.bootId, s.hampers, s.power.pds, s.keys, s.loads, s.health, s.mem.badTags, s.mem.written)

/-- A change of what `Wanes` does not speak of. -/
theorem wanes_aside (hs : Wanes κ s0 s) (h : core t = core s) : Wanes κ s0 t := by
  simp only [core, Prod.mk.injEq] at h
  obtain ⟨hth, hj, hm, hid, hh, hp, hk, hl, hb, htag, hw⟩ := h
  have hpd (i : Nat) : pdOf t i = pdOf s i := by simp only [pdOf, hp]
  have hidle : Idle t ↔ Idle s := by simp only [Idle, hpd]
  refine hs.trans ⟨fun q => ?_, .inl hm, fun c => ?_, fun y hy => ⟨y, hh ▸ hy, rfl⟩, hidle.2, ?_, ?_, fun b c => ?_, fun _ => ⟨htag, hw⟩⟩
  · rw [Zeroed, Zeroed, hth, hj]; exact id
  · rw [Settled, hm, hh, hidle]; exact c
  · simp only [Asleep, hpd]; exact id
  · rw [Erased, Erased, hk, hl, hid]; exact id
  · rw [Raised, Raised, blockOf, blockOf, hb]; exact id

theorem wanes_ite {c : Prop} [Decidable c] {x y : State} (hx : Wanes κ s0 x) (hy : Wanes κ s0 y) : Wanes κ s0 (if c then x else y) := by
  split <;> assumption

/-- Many operations one after the other. -/
theorem wanes_foldl {β : Type} {f : State → β → State} {l : List β} (hf : ∀ t b, Wanes κ s0 t → Wanes κ s0 (f t b)) (hs : Wanes κ s0 s) :
    Wanes κ s0 (l.foldl f s) := by
  induction l generalizing s with
  | nil => exact hs
  | cons b l ih => exact ih (hf s b hs)

/-- Hampers that leave or change under their own numbers. -/
theorem wanes_hampers {l : List Hamper} (hs : Wanes κ s0 s) (h : ∀ y ∈ l, ∃ x ∈ s.hampers, x.id = y.id) : Wanes κ s0 { s with hampers := l } :=
  hs.trans
    { zeroed := fun _ => id
      mode := .inl rfl
      settled := fun c hm => ⟨List.eq_nil_iff_forall_not_mem.2 fun y hy => by
        obtain ⟨x, hx, -⟩ := h y hy
        simp [(c hm).1] at hx, (c hm).2⟩
      taken := h
      idle := id
      asleep := id
      erased := id
      raised := fun _ _ => id
      tags := fun _ => ⟨rfl, rfl⟩ }

/-- Engines that lose work and start no wake. -/
theorem wanes_power {w : Power} (hs : Wanes κ s0 s) (hidle : Idle s → Idle { s with power := w }) (hasleep : Asleep s → Asleep { s with power := w }) :
    Wanes κ s0 { s with power := w } :=
  hs.trans
    { zeroed := fun _ => id
      mode := .inl rfl
      settled := fun c hm => ⟨(c hm).1, hidle (c hm).2⟩
      taken := fun y hy => ⟨y, hy, rfl⟩
      idle := hidle
      asleep := hasleep
      erased := id
      raised := fun _ _ => id
      tags := fun _ => ⟨rfl, rfl⟩ }

theorem wanes_modThermos {f : Thermos → Thermos} (hs : Wanes κ s0 s) (hf : ∀ q, Zeroed q s → Zeroed q (modThermos s f)) :
    Wanes κ s0 (modThermos s f) :=
  hs.trans
    { zeroed := hf
      mode := .inl rfl
      settled := id
      taken := fun y hy => ⟨y, hy, rfl⟩
      idle := id
      asleep := id
      erased := id
      raised := fun _ _ => id
      tags := fun _ => ⟨rfl, rfl⟩ }

/-- After TAMPER_ZERO no domain exists. -/
theorem Zeroed.domExists {q : Nat} (h : Zeroed q s) (d : Nat) : domExists s d = false := by
  obtain ⟨-, -, hdom, -⟩ := h
  simp [Machine.domExists, domOf, hdom, assocGetD, assocGet]

/-- The entry of a domain that exists changes. -/
theorem wanes_modDom {d : Nat} {f : DomRec → DomRec} (hd : domExists s d = true) (hs : Wanes κ s0 s) : Wanes κ s0 (modDom s d f) :=
  wanes_modThermos hs fun q hq => by rw [hq.domExists d] at hd; cases hd

/-- A health block whose EVENT keeps its bits. -/
theorem wanes_health {l : List Health} (hs : Wanes κ s0 s) (h : ∀ b c, Raised s b c → Raised { s with health := l } b c) :
    Wanes κ s0 { s with health := l } :=
  hs.trans
    { zeroed := fun _ => id
      mode := .inl rfl
      settled := id
      taken := fun y hy => ⟨y, hy, rfl⟩
      idle := id
      asleep := id
      erased := id
      raised := h
      tags := fun _ => ⟨rfl, rfl⟩ }

theorem wanes_modBlock (b : Nat) {f : Health → Health} (hf : ∀ h c, bit h.event c = true → bit (f h).event c = true) (hs : Wanes κ s0 s) :
    Wanes κ s0 (modBlock s b f) := by
  refine wanes_health hs fun e c he => ?_
  change bit (blockOf (modBlock s b f) e).event c = true
  by_cases hb : b < s.health.length
  · by_cases hbe : b = e
    · rw [← hbe, blockOf_modBlock_same s b f hb]
      exact hf _ c (hbe ▸ he)
    · rw [blockOf_modBlock_ne s f hbe]
      exact he
  · rw [modBlock_of_le (by omega)]
    exact he

/-! Machine/Ops.lean -/

theorem pdOf_modPd (s : State) (i j : Nat) (f : Pd → Pd) : pdOf (modPd s i f) j = pdOf s j ∨ (i = j ∧ pdOf (modPd s i f) j = f (pdOf s j)) := by
  by_cases hij : i = j
  · subst hij
    by_cases hi : i < s.power.pds.length
    · exact .inr ⟨rfl, pdOf_modPd_same s i f hi⟩
    · exact .inl (by simp [pdOf, modPd, hi])
  · exact .inl (pdOf_modPd_ne s f hij)

/-- A domain that takes no work and starts no engine's wake. -/
theorem wanes_modPd {i : Nat} {f : Pd → Pd} (hs : Wanes κ s0 s)
    (hidle : ∀ d, d.running = none ∧ d.suspended = none → (f d).running = none ∧ (f d).suspended = none)
    (hasleep : ∀ d, i < 36 → d.st ≠ .waking → (f d).st ≠ .waking) : Wanes κ s0 (modPd s i f) := by
  refine wanes_power hs (fun c j => ?_) (fun c j hj => ?_)
  · rcases pdOf_modPd s i j f with h | ⟨-, h⟩ <;> (change (pdOf (modPd s i f) j).running = none ∧ (pdOf (modPd s i f) j).suspended = none; rw [h])
    · exact c j
    · exact hidle _ (c j)
  · rcases pdOf_modPd s i j f with h | ⟨hij, h⟩ <;> (change (pdOf (modPd s i f) j).st ≠ .waking; rw [h])
    · exact c j hj
    · exact hasleep _ (hij ▸ hj) (c j hj)

theorem wanes_modHamper (h : Nat) {f : Hamper → Hamper} (hf : ∀ x, (f x).id = x.id) (hs : Wanes κ s0 s) : Wanes κ s0 (modHamper s h f) :=
  wanes_hampers hs fun y hy => by
    obtain ⟨x, hx, rfl⟩ := List.mem_map.1 hy
    exact ⟨x, hx, by split <;> simp [hf]⟩

theorem wanes_setRing (r : Nat) (v : Ring) (hs : Wanes κ s0 s) : Wanes κ s0 (setRing s r v) := wanes_aside hs rfl
theorem wanes_setLeaf (r : Nat) (hs : Wanes κ s0 s) : Wanes κ s0 (setLeaf s r) := wanes_aside hs rfl
theorem wanes_settleHead (r : Nat) (hs : Wanes κ s0 s) : Wanes κ s0 (settleHead s r) := wanes_aside hs rfl
theorem wanes_unbindRing (r : Nat) (hs : Wanes κ s0 s) : Wanes κ s0 (unbindRing s r) := wanes_aside hs rfl
theorem wanes_endDrain (r : Nat) (hs : Wanes κ s0 s) : Wanes κ s0 (endDrain s r) := wanes_ite (wanes_unbindRing r hs) hs
theorem wanes_releaseCups (x : Hamper) (hs : Wanes κ s0 s) : Wanes κ s0 (releaseCups s x) := wanes_aside hs rfl
theorem wanes_settleDup (x : Hamper) (hs : Wanes κ s0 s) : Wanes κ s0 (settleDup s x) := wanes_aside hs rfl

theorem wanes_wakeBank (b : Nat) (hs : Wanes κ s0 s) : Wanes κ s0 (wakeBank s b) := by
  refine wanes_modPd hs (fun d hd => ?_) (fun d hi => by omega)
  split
  · exact hd
  · split
    · split <;> exact hd
    · split <;> exact hd
    · exact hd

theorem wanes_pantryPut (a : Nat) (v : Bytes) (hs : Wanes κ s0 s) : Wanes κ s0 (pantryPut s a v) :=
  wanes_aside (wanes_wakeBank (bankOf a) hs) rfl

theorem wanes_writeCompletion (r p a : Nat) (e : Bytes) (d : Done) (hs : Wanes κ s0 s) : Wanes κ s0 (writeCompletion s r p a e d) :=
  wanes_ite (wanes_setLeaf r (wanes_pantryPut a _ hs)) hs

/-- A domain after the hamper `h` has left its engine (R189, R221). -/
def engineFreed (h : Nat) (d : Pd) : Pd :=
  let d := if d.suspended = some (.hamper h) then { d with suspended := none } else d
  if d.running = some (.hamper h) then engineNext d else d

theorem engineFreed_st (h : Nat) (d : Pd) : (engineFreed h d).st = d.st := by
  simp only [engineFreed, engineNext]
  split <;> split <;> rfl

theorem engineFreed_idle {d : Pd} (h : Nat) (hd : d.running = none ∧ d.suspended = none) : engineFreed h d = d := by
  simp [engineFreed, hd]

theorem pdOf_freeEngines (s : State) (h i : Nat) : pdOf (freeEngines s h) i = engineFreed h (pdOf s i) := by
  change (s.power.pds.map (engineFreed h)).getD i (engineFreed h {}) = _
  exact List.getD_map ..

theorem wanes_freeEngines (h : Nat) (hs : Wanes κ s0 s) : Wanes κ s0 (freeEngines s h) := by
  refine wanes_power hs (fun c i => ?_) (fun c i hi => ?_)
  · change (pdOf (freeEngines s h) i).running = none ∧ (pdOf (freeEngines s h) i).suspended = none
    rw [pdOf_freeEngines, engineFreed_idle h (c i)]
    exact c i
  · change (pdOf (freeEngines s h) i).st ≠ .waking
    rw [pdOf_freeEngines, engineFreed_st]
    exact c i hi

theorem wanes_settlePart (r : Nat) (e : Bytes) (d : Done) (hs : Wanes κ s0 s) : Wanes κ s0 (settlePart r e d s) :=
  wanes_ite (wanes_aside hs rfl) (wanes_ite (wanes_aside hs rfl) hs)

theorem wanes_settleCurrent (h : Nat) (d : Done) (hs : Wanes κ s0 s) : Wanes κ s0 (settleCurrent h d s) := by
  unfold settleCurrent
  split
  · split
    · exact wanes_settlePart _ _ _ hs
    · exact hs
  · exact hs

theorem wanes_finishEntry (h : Nat) (d : Done) (hs : Wanes κ s0 s) : Wanes κ s0 (finishEntry s h d) :=
  wanes_freeEngines h (wanes_modHamper h (fun _ => rfl) (wanes_settleCurrent h d hs))

theorem wanes_setClaim (p : Nat) (c : Option Nat) (hs : Wanes κ s0 s) : Wanes κ s0 (setClaim p c s) := by
  have hh : Wanes κ s0 { s with hampers := s.hampers.map (fun x => if some x.id = c then { x with claimSince := s.mono } else x) } :=
    wanes_hampers hs fun y hy => by
      obtain ⟨x, hx, rfl⟩ := List.mem_map.1 hy
      exact ⟨x, hx, by split <;> rfl⟩
  exact wanes_aside hh rfl

theorem wanes_nextClaim (p h : Nat) (hs : Wanes κ s0 s) : Wanes κ s0 (nextClaim s p h) := wanes_ite (wanes_setClaim _ _ hs) hs

theorem wanes_saveCounters (d : Nat) (hs : Wanes κ s0 s) : Wanes κ s0 (saveCounters d s) := by
  unfold saveCounters
  split
  · have hl : Wanes κ s0 { s with live := assocDel s.live d } := wanes_aside hs rfl
    dsimp only
    split
    · exact wanes_modDom ‹_› hl
    · exact hl
  · exact hs

theorem wanes_countMeter (d k n : Nat) (hs : Wanes κ s0 s) : Wanes κ s0 (countMeter d k n s) := by
  have hl : Wanes κ s0 { s with live := assocPut s.live d ((countersOf s d).set k ((countersOf s d).getD k 0 + n)) } := wanes_aside hs rfl
  exact wanes_ite hs (wanes_ite (wanes_saveCounters d hl) hl)

theorem wanes_completeEntry (x : Hamper) (e : TakenEntry) (d : Done) (hs : Wanes κ s0 s) : Wanes κ s0 (completeEntry s x e d) := by
  unfold completeEntry
  refine wanes_writeCompletion _ _ _ _ _ ?_
  split
  · exact wanes_ite (wanes_countMeter _ _ _ hs) hs
  · exact hs

theorem wanes_writeCompletions (x : Hamper) (rest : Done) (hs : Wanes κ s0 s) : Wanes κ s0 (writeCompletions s x rest) :=
  wanes_foldl (fun _ e ht => wanes_completeEntry x e _ ht) hs

theorem wanes_dropPosted (l : List Nat) (hs : Wanes κ s0 s) : Wanes κ s0 (dropPosted l s) := wanes_modThermos hs fun _ => id

/-- The state a leaving hamper's completions lead to, the hamper still there. -/
def completed (s : State) (x : Hamper) (rest : Done) : State :=
  freeEngines
    (dropPosted x.posted (writeCompletions (x.entries.foldl (fun s e => if e.done.isNone then settlePart x.ring e.bytes rest s else s) s) x rest)) x.id

theorem wanes_completed (x : Hamper) (rest : Done) (hs : Wanes κ s0 s) : Wanes κ s0 (completed s x rest) := by
  refine wanes_freeEngines _ (wanes_dropPosted _ (wanes_writeCompletions _ _ (wanes_foldl (fun t e ht => ?_) hs)))
  exact wanes_ite (wanes_settlePart _ _ _ ht) ht

/-- What stands once the hamper has left is what its completions left, without it (R177, R181, R183). -/
theorem wanes_closed (s : State) (x : Hamper) (rest : Done) :
    Wanes κ { completed s x rest with hampers := (completed s x rest).hampers.filter (fun y => y.id != x.id) } (closeHamper s x rest) :=
  wanes_endDrain _ (wanes_nextClaim _ _ (wanes_settleHead _ (wanes_settleDup _ (wanes_releaseCups _ (Wanes.refl _)))))

theorem wanes_closeHamper (x : Hamper) (rest : Done) (hs : Wanes κ s0 s) : Wanes κ s0 (closeHamper s x rest) :=
  (wanes_hampers (wanes_completed x rest hs) fun y hy => ⟨y, (List.mem_filter.1 hy).1, rfl⟩).trans (wanes_closed s x rest)

/-- A hamper that leaves is gone. -/
theorem closeHamper_gone (s : State) (x : Hamper) (rest : Done) : ∀ y ∈ (closeHamper s x rest).hampers, y.id ≠ x.id := by
  intro y hy
  obtain ⟨z, hz, hid⟩ := (wanes_closed (κ := False) s x rest).taken y hy
  rw [← hid]
  simpa using (List.mem_filter.1 hz).2

/-! Machine/Events.lean -/

theorem wanes_recordOnly (b src detail sev : Nat) (dom : Option Nat) (hs : Wanes κ s0 s) : Wanes κ s0 (recordOnly b src detail sev dom s) :=
  wanes_health hs fun _ _ => raised_recordOnly_mono

theorem wanes_recordRestart (w : Nat) (hs : Wanes κ s0 s) : Wanes κ s0 (recordRestart s w) := by
  have hrew : Wanes κ s0 (rewindWindow s w) := wanes_aside hs rfl
  exact wanes_ite (wanes_recordOnly _ _ _ _ _ hrew) hs

theorem wanes_lowerMarks (hs : Wanes κ s0 s) : Wanes κ s0 (lowerMarks s) := by
  refine wanes_foldl (fun t c ht => ?_) hs
  split
  · next hd => exact wanes_modDom hd.1 ht
  · exact ht

theorem wanes_checkpoint (hs : Wanes κ s0 s) : Wanes κ s0 (checkpoint s) := by
  have hsaved : Wanes κ s0 (s.live.foldl (fun s c => saveCounters c.1 s) s) := wanes_foldl (fun _ c ht => wanes_saveCounters c.1 ht) hs
  unfold checkpoint
  exact wanes_modThermos (wanes_lowerMarks hsaved) fun _ hq => hq

/-- Engines whose contexts are erased. -/
def engineErased (d : Pd) : Pd := { d with running := none, suspended := none }
/-- The contexts of every engine are erased, the windows not yet restarted (R135). -/
def enginesErased (s : State) : State := { s with power := { s.power with pds := s.power.pds.map engineErased } }

theorem pdOf_enginesErased (s : State) (i : Nat) : pdOf (enginesErased s) i = engineErased (pdOf s i) := by
  change (s.power.pds.map engineErased).getD i (engineErased {}) = _
  exact List.getD_map ..

theorem idle_enginesErased (s : State) : Idle (enginesErased s) := fun i => by
  rw [pdOf_enginesErased]
  exact ⟨rfl, rfl⟩

/-- The windows that engines fed restart (R258). -/
theorem wanes_restarts (s : State) : Wanes κ (enginesErased s) (eraseEngines s) := wanes_foldl (fun _ w ht => wanes_recordRestart w ht) (Wanes.refl _)

theorem wanes_eraseEngines (hs : Wanes κ s0 s) : Wanes κ s0 (eraseEngines s) := by
  have herased : Wanes κ s0 (enginesErased s) := wanes_power hs (fun _ => idle_enginesErased s) (fun c i hi => by
    change (pdOf (enginesErased s) i).st ≠ .waking
    rw [pdOf_enginesErased]
    exact c i hi)
  exact herased.trans (wanes_restarts s)

theorem idle_eraseEngines (s : State) : Idle (eraseEngines s) := (wanes_restarts (κ := False) s).idle (idle_enginesErased s)

theorem wanes_flagQuarantine (b src : Nat) (hs : Wanes κ s0 s) : Wanes κ s0 (flagQuarantine b src s) :=
  wanes_modThermos hs fun q hq => by
    obtain ⟨hdrs, hmask, hdom, hlost, hj, hflag, hcause⟩ := hq
    exact ⟨hdrs, hmask, hdom, hlost, hj, rfl, by rw [modThermos_thermos, hflag]; exact hcause⟩

theorem wanes_markAlive (hs : Wanes κ s0 s) : Wanes κ s0 (markAlive s) := wanes_ite (wanes_aside hs rfl) hs

/-- Keys or loads that go. -/
theorem wanes_erase {k : Assoc Key} {l : List (Nat × Nat)} (hk : s.keys = [] → k = []) (hl : s.loads = [] → l = []) (hs : Wanes κ s0 s) :
    Wanes κ s0 { s with keys := k, loads := l } :=
  hs.trans
    { zeroed := fun _ => id
      mode := .inl rfl
      settled := id
      taken := fun y hy => ⟨y, hy, rfl⟩
      idle := id
      asleep := id
      erased := fun c => ⟨hk c.1, hl c.2.1, c.2.2⟩
      raised := fun _ _ => id
      tags := fun _ => ⟨rfl, rfl⟩ }

theorem wanes_emptyStore (hs : Wanes κ s0 s) : Wanes κ s0 (emptyStore s) := by
  have hkeys : Wanes κ s0 { s with keys := [], loads := s.loads } := wanes_erase (fun _ => rfl) id hs
  exact wanes_aside hkeys rfl

theorem wanes_dropLoads (hs : Wanes κ s0 s) : Wanes κ s0 { s with loads := [] } := wanes_erase (k := s.keys) id (fun _ => rfl) hs

/-- What QUARANTINE leaves of the work once the engines are erased. -/
theorem wanes_afterErase (s : State) : Wanes κ (eraseEngines (markAlive s)) (eraseWork s) := by
  have h : Wanes κ (eraseEngines (markAlive s)) { emptyStore (eraseEngines (markAlive s)) with loads := [] } :=
    wanes_dropLoads (wanes_emptyStore (Wanes.refl _))
  exact wanes_ite h (wanes_checkpoint h)

theorem wanes_eraseWork (hs : Wanes κ s0 s) : Wanes κ s0 (eraseWork s) := (wanes_eraseEngines (wanes_markAlive hs)).trans (wanes_afterErase s)

theorem idle_eraseWork (s : State) : Idle (eraseWork s) := (wanes_afterErase (κ := False) s).idle (idle_eraseEngines _)

theorem wanes_quarantineHamper (x : Hamper) (hs : Wanes κ s0 s) : Wanes κ s0 (quarantineHamper s x) := by
  unfold quarantineHamper
  exact wanes_closeHamper _ _ hs

theorem quarantineHamper_gone (s : State) (x : Hamper) : ∀ y ∈ (quarantineHamper s x).hampers, y.id ≠ x.id := by
  unfold quarantineHamper
  exact closeHamper_gone _ _ _

theorem wanes_quarantineHampers (l : List Hamper) (hs : Wanes κ s0 s) : Wanes κ s0 (l.foldl quarantineHamper s) :=
  wanes_foldl (fun _ x ht => wanes_quarantineHamper x ht) hs

/-- A hamper left after several have been closed is none of them (R135). -/
theorem quarantineHampers_gone (l : List Hamper) (s : State) : ∀ y ∈ (l.foldl quarantineHamper s).hampers, ∀ x ∈ l, y.id ≠ x.id := by
  induction l generalizing s with
  | nil => simp
  | cons z l ih =>
    intro y hy x hx
    rw [List.foldl_cons] at hy
    rcases List.mem_cons.1 hx with hxz | hx
    · obtain ⟨w, hw, hid⟩ := (wanes_quarantineHampers (κ := False) l (Wanes.refl (quarantineHamper s z))).taken y hy
      rw [← hid, hxz]
      exact quarantineHamper_gone s z w hw
    · exact ih _ y hy x hx

/-- Every taken hamper leaves (R135). -/
theorem quarantineHampers_nil (s : State) : (s.hampers.foldl quarantineHamper s).hampers = [] :=
  List.eq_nil_iff_forall_not_mem.2 fun y hy => by
    obtain ⟨x, hx, hid⟩ := (wanes_quarantineHampers (κ := False) s.hampers (Wanes.refl s)).taken y hy
    exact quarantineHampers_gone s.hampers s y hy x hx hid.symm

theorem mode_quarantined (s : State) : (quarantined s).boot.mode = .quarantine := rfl
theorem settled_quarantined (hh : s.hampers = []) (hi : Idle s) : Settled (quarantined s) := fun _ => ⟨hh, hi⟩

theorem wanes_quarantined (hm : s.boot.mode ≠ .boot) (hh : s.hampers = []) (hi : Idle s) (hs : Wanes κ s0 s) : Wanes κ s0 (quarantined s) :=
  hs.trans
    { zeroed := fun _ => id
      mode := .inr ⟨hm, rfl⟩
      settled := fun _ => settled_quarantined hh hi
      taken := fun y hy => ⟨y, hy, rfl⟩
      idle := id
      asleep := id
      erased := id
      raised := fun _ _ => id
      tags := fun _ => ⟨rfl, rfl⟩ }

/-- The work of a device that enters QUARANTINE, erased and closed (R135). -/
def workClosed (b src : Nat) (s : State) : State :=
  (eraseWork (flagQuarantine b src s)).hampers.foldl quarantineHamper (eraseWork (flagQuarantine b src s))

theorem wanes_workClosed (b src : Nat) (hs : Wanes κ s0 s) : Wanes κ s0 (workClosed b src s) :=
  wanes_quarantineHampers _ (wanes_eraseWork (wanes_flagQuarantine b src hs))

theorem hampers_workClosed (b src : Nat) (s : State) : (workClosed b src s).hampers = [] := quarantineHampers_nil _

theorem idle_workClosed (b src : Nat) (s : State) : Idle (workClosed b src s) :=
  (wanes_quarantineHampers (κ := False) _ (Wanes.refl _)).idle (idle_eraseWork _)

theorem enterQuarantine_running (b src : Nat) (hm : s.boot.mode ≠ .boot) : enterQuarantine b src s = quarantined (workClosed b src s) := if_neg hm

/-- In BOOT only the flag is set (R116). -/
theorem enterQuarantine_boot (b src : Nat) (hm : s.boot.mode = .boot) :
    enterQuarantine b src s = { flagQuarantine b src s with boot := { s.boot with aliveStopped := true } } := if_pos hm

theorem wanes_enterQuarantine (b src : Nat) (hs : Wanes κ s0 s) : Wanes κ s0 (enterQuarantine b src s) := by
  by_cases hm : s.boot.mode = .boot
  · have hflag : Wanes κ s0 (flagQuarantine b src s) := wanes_flagQuarantine b src hs
    rw [enterQuarantine_boot b src hm]
    exact wanes_aside hflag rfl
  · rw [enterQuarantine_running b src hm]
    have hclosed : Wanes κ s (workClosed b src s) := wanes_workClosed b src (Wanes.refl s)
    exact hs.trans (wanes_quarantined (hclosed.running hm) (hampers_workClosed b src s) (idle_workClosed b src s) hclosed)

/-- A device that ran is in QUARANTINE, with no hamper and no engine at work (R135). -/
theorem enterQuarantine_settled (b src : Nat) (hm : s.boot.mode ≠ .boot) :
    (enterQuarantine b src s).boot.mode = .quarantine ∧ Settled (enterQuarantine b src s) := by
  rw [enterQuarantine_running b src hm]
  exact ⟨mode_quarantined _, settled_quarantined (hampers_workClosed b src s) (idle_workClosed b src s)⟩

theorem wanes_suspendByEvent (b src d : Nat) (hs : Wanes κ s0 s) : Wanes κ s0 (suspendByEvent b src d s) := by
  have hdom : Wanes κ s0 (if domExists s d then modDom s d (addCause 1) else s) := by
    split
    · exact wanes_modDom ‹_› hs
    · exact hs
  unfold suspendByEvent
  exact wanes_modBlock b (fun _ _ he => he) hdom

theorem wanes_reactBase (b src sev : Nat) (dom : Option Nat) (hs : Wanes κ s0 s) : Wanes κ s0 (reactBase b src sev dom s) := by
  unfold reactBase
  split
  · exact wanes_enterQuarantine b src hs
  · split
    · exact wanes_ite (wanes_suspendByEvent b src _ hs) hs
    · exact hs

theorem wanes_captureSev (b src detail sev : Nat) (dom : Option Nat) (hs : Wanes κ s0 s) : Wanes κ s0 (captureSev b src detail sev dom s) :=
  have hrec := wanes_recordOnly b src detail sev dom hs
  wanes_ite hrec (wanes_reactBase b src sev dom hrec)

theorem wanes_capture (b src detail : Nat) (dom : Option Nat) (hs : Wanes κ s0 s) : Wanes κ s0 (capture b src detail dom s) :=
  wanes_captureSev _ _ _ _ _ hs

theorem wanes_noteDegraded (hs : Wanes κ s0 s) : Wanes κ s0 (noteDegraded s) := by
  have hd : Wanes κ s0 { s with power := { s.power with degraded := true } } := wanes_aside hs rfl
  exact wanes_ite hs (wanes_capture _ _ _ _ hd)

theorem wanes_logRetirement (kind index cause : Nat) (hs : Wanes κ s0 s) : Wanes κ s0 (logRetirement s kind index cause) :=
  wanes_ite (wanes_modThermos hs fun _ => id) hs

theorem wanes_retire (i cause : Nat) (hs : Wanes κ s0 s) : Wanes κ s0 (retire i cause s) := by
  have hoff := wanes_modPd (i := i)
    (f := fun d => { d with retired := true, fenced := false, st := .off, closed := false, wakeWanted := false, wakeQueued := false, running := none,
                            suspended := none })
    (wanes_logRetirement (repairKind i).1 (repairKind i).2 cause hs) (fun _ _ => ⟨rfl, rfl⟩) (fun _ _ _ => by simp)
  have hnote := wanes_noteDegraded (wanes_capture 16 2 i none hoff)
  exact wanes_ite hs (wanes_ite (wanes_capture _ _ _ _ hnote) hnote)

theorem wanes_fence (i : Nat) (hs : Wanes κ s0 s) : Wanes κ s0 (fence i s) :=
  wanes_ite hs (wanes_ite (wanes_retire i 4 (wanes_modPd hs (fun _ => id) (fun _ _ => id))) (wanes_modPd hs (fun _ => id) (fun _ _ => id)))

theorem wanes_reactMajor (b src detail sev : Nat) (dom : Option Nat) (hs : Wanes κ s0 s) : Wanes κ s0 (reactMajor b src detail sev dom s) := by
  unfold reactMajor
  split
  · split
    · exact wanes_fence _ hs
    · exact hs
  · exact hs

theorem wanes_raise (b src detail : Nat) (dom : Option Nat) (hs : Wanes κ s0 s) : Wanes κ s0 (raise b src detail dom s) :=
  have hcap := wanes_captureSev b src detail (sevOf s b src) dom hs
  wanes_ite hcap (wanes_reactMajor _ _ _ _ _ hcap)

theorem wanes_restartWindow (w : Nat) (hs : Wanes κ s0 s) : Wanes κ s0 (restartWindow s w) := by
  have hrew : Wanes κ s0 (rewindWindow s w) := wanes_aside hs rfl
  exact wanes_ite (wanes_raise _ _ _ _ hrew) hs

end
end Sys2Proof.Proofs
end

section
/-! PROOFS. What only goes away while memory errors are met, output is erased and an alarm reaches engines: the operations of Machine/Memory.lean
and Machine/Operands.lean (R222, R244, R269, R370 to R377). -/

namespace Sys2Proof.Proofs

open Sys2Proof.Machine Sys2Proof.Safety Sys2Proof.Laws

section
variable {s0 s : State}

/-! Machine/Memory.lean -/

/-- A change of the memory where tags may change too. -/
theorem wanes_mem {m : MemState} (hs : Wanes False s0 s) : Wanes False s0 { s with mem := m } :=
  hs.trans
    { zeroed := fun _ => id
      mode := .inl rfl
      settled := id
      taken := fun y hy => ⟨y, hy, rfl⟩
      idle := id
      asleep := id
      erased := id
      raised := fun _ _ => id
      tags := fun h => h.elim }

theorem wanes_faultRing (r cause : Nat) (hs : Wanes False s0 s) : Wanes False s0 (faultRing r cause s) := by
  unfold faultRing
  refine wanes_raise _ _ _ _ ?_
  split
  · exact wanes_setLeaf r (wanes_setRing r _ hs)
  · exact wanes_setLeaf r (wanes_setRing r _ hs)
  · exact wanes_setRing r _ hs
  · exact wanes_setRing r _ hs
  · exact hs

theorem wanes_countRow (a n : Nat) (hs : Wanes False s0 s) : Wanes False s0 (countRow a n s) := wanes_mem hs
theorem wanes_recordUe (a kind src : Nat) (hs : Wanes False s0 s) : Wanes False s0 (recordUe a kind src s) := wanes_mem hs
theorem wanes_zeroUnit (a n : Nat) (hs : Wanes False s0 s) : Wanes False s0 (zeroUnit a n s) := wanes_mem hs
theorem wanes_settleWords (a n : Nat) (hs : Wanes False s0 s) : Wanes False s0 (settleWords a n s) := wanes_mem hs
theorem wanes_rebuildLeaf (w : Nat) (hs : Wanes False s0 s) : Wanes False s0 (rebuildLeaf w s) := wanes_aside hs rfl

theorem wanes_strikeReserved (a : Nat) (hs : Wanes False s0 s) : Wanes False s0 (strikeReserved a s) := by
  unfold strikeReserved
  dsimp only
  split
  · exact wanes_rebuildLeaf _ (wanes_rebuildLeaf _ hs)
  split
  · exact wanes_mem hs
  split
  · exact hs
  split
  · exact wanes_foldl (fun _ x ht => wanes_finishEntry x.id _ ht) hs
  split
  · exact wanes_aside hs rfl
  split
  · exact wanes_aside hs rfl
  split
  · exact wanes_aside hs rfl
  split
  · exact wanes_aside hs rfl
  · exact wanes_mem hs

theorem wanes_strikeContext (r : Nat) (hs : Wanes False s0 s) : Wanes False s0 (strikeContext r s) := by
  unfold strikeContext
  split
  · split
    · exact wanes_raise _ _ _ _ (wanes_setLeaf _ (wanes_setRing _ _ hs))
    · exact hs
  · exact wanes_faultRing _ _ (wanes_setRing _ _ hs)

theorem wanes_strikePantry (a : Nat) (hs : Wanes False s0 s) : Wanes False s0 (strikePantry a s) := by
  unfold strikePantry
  split
  · exact wanes_mem (wanes_zeroUnit _ _ hs)
  · exact wanes_strikeContext _ hs
  · split
    · exact wanes_modHamper _ (fun _ => rfl) hs
    · exact hs
  · split
    · next r _ =>
      have hdups : Wanes False s0 { s with dups := s.dups.eraseIdx (dupAt s a) } := wanes_aside hs rfl
      exact wanes_raise _ _ _ _ hdups
    · exact hs
  · exact wanes_raise _ _ _ _ (wanes_strikeReserved a hs)

theorem wanes_meetWord (a nbits src : Nat) (hs : Wanes False s0 s) : Wanes False s0 (meetWord a nbits src s) := by
  unfold meetWord
  dsimp only
  split
  · exact wanes_settleWords _ _ hs
  · split
    · split
      · exact hs
      · exact wanes_raise _ _ _ _ (wanes_countRow _ _ (wanes_mem hs))
    · exact wanes_raise _ _ _ _ (wanes_strikePantry _ (wanes_recordUe _ _ _ (wanes_countRow _ _ (wanes_settleWords _ _ hs))))

theorem wanes_touchPantry (a n src : Nat) (hs : Wanes False s0 s) : Wanes False s0 (touchPantry a n src s) :=
  wanes_foldl (fun _ c ht => wanes_meetWord c.1 c.2 src ht) hs

theorem wanes_failLine (u : Nat) (hs : Wanes False s0 s) : Wanes False s0 (failLine u s) :=
  wanes_raise _ _ _ _ (wanes_recordUe _ _ _ (wanes_mem hs))

theorem wanes_touchParts (a n : Nat) (hs : Wanes False s0 s) : Wanes False s0 (touchParts a n s) :=
  wanes_foldl (fun _ u ht => wanes_ite (wanes_failLine u ht) ht) hs

theorem wanes_touchEdges (a n : Nat) (hs : Wanes False s0 s) : Wanes False s0 (touchEdges a n s) := by
  have hlow : Wanes False s0 (if a % 8 = 0 then s else touchPantry a 1 0 s) := wanes_ite hs (wanes_touchPantry _ _ _ hs)
  exact wanes_ite hlow (wanes_touchPantry _ _ _ hlow)

theorem wanes_arenaPut (a : Nat) (v : Bytes) (hs : Wanes False s0 s) : Wanes False s0 (arenaPut s a v) := by
  unfold arenaPut
  refine wanes_mem (wanes_foldl (fun _ u ht => wanes_settleWords u 64 ht) (wanes_settleWords _ _ (wanes_foldl (fun _ i ht => ?_) ?_)))
  · exact wanes_wakeBank _ ht
  · exact wanes_touchEdges _ _ hs

theorem wanes_writeArena (a : Nat) (v : Bytes) (hs : Wanes False s0 s) : Wanes False s0 (writeArena a v s) :=
  wanes_ite hs (wanes_ite (wanes_mem (wanes_touchParts _ _ hs)) (wanes_arenaPut _ _ hs))

/-! Machine/Operands.lean -/

theorem wanes_writeAt (h a : Nat) (v : Bytes) (hs : Wanes False s0 s) : Wanes False s0 (writeAt h a v s) := by
  unfold writeAt
  split
  · exact hs
  · exact wanes_ite hs (wanes_ite (wanes_modHamper h (fun _ => rfl) hs) (wanes_ite (wanes_writeArena a v hs) hs))

theorem wanes_failEntry (h status detail : Nat) (hs : Wanes False s0 s) : Wanes False s0 (failEntry h status detail s) := by
  unfold failEntry
  split
  · exact hs
  · exact wanes_ite (wanes_finishEntry h _ (wanes_modHamper h (fun _ => rfl) hs)) (wanes_finishEntry h _ hs)

theorem wanes_strikeHamper (h status detail : Nat) (hs : Wanes False s0 s) : Wanes False s0 (strikeHamper h status detail s) := by
  unfold strikeHamper
  split
  · exact hs
  · split
    · exact hs
    · exact wanes_failEntry _ _ _ (wanes_writeAt _ _ _ hs)

theorem wanes_strikeOccupant (status detail : Nat) (o : Occupant) (hs : Wanes False s0 s) : Wanes False s0 (strikeOccupant status detail o s) := by
  cases o with
  | hamper h => exact wanes_strikeHamper h _ _ hs
  | tongs w => exact wanes_restartWindow w hs

theorem wanes_eraseEngine (status detail i : Nat) (hs : Wanes False s0 s) : Wanes False s0 (eraseEngine status detail i s) := by
  unfold eraseEngine
  refine wanes_modPd (wanes_foldl (fun t o ht => ?_) hs) (fun _ _ => ⟨rfl, rfl⟩) (fun _ _ => id)
  split
  · exact wanes_strikeOccupant _ _ _ ht
  · exact ht

theorem wanes_alarmOn (l : List Nat) (hs : Wanes False s0 s) : Wanes False s0 (alarmOn l s) := by
  unfold alarmOn
  refine wanes_foldl (fun _ c ht => wanes_fence c.1 (wanes_raise _ _ _ _ ht)) (wanes_foldl (fun _ c ht => ?_) hs)
  exact wanes_eraseEngine _ _ c.1 ht

/-- An alarm that reaches every engine (R427). -/
theorem wanes_alarmAll (hs : Wanes False s0 s) : Wanes False s0 (alarmAll s) := wanes_alarmOn _ hs

end
end Sys2Proof.Proofs
end

section
/-! PROOFS. A tripped sensor (R431), and O60: the TAP, the RTC that stops, and injections in FACTORY (R46, R371, R428, R433). -/

namespace Sys2Proof.Proofs

open Sys2Proof.Machine Sys2Proof.Safety Sys2Proof.Laws

section
variable {κ : Prop} {s0 s u : State} {src detail : Nat}

/-- What follows the capture of an event takes away, and brings nothing. -/
theorem wanes_reaction (b src detail : Nat) (dom : Option Nat) (s : State) :
    Wanes κ (recordOnly b src detail (sevOf s b src) dom s) (raise b src detail dom s) :=
  have hcap : Wanes κ (recordOnly b src detail (sevOf s b src) dom s) (captureSev b src detail (sevOf s b src) dom s) :=
    wanes_ite (Wanes.refl _) (wanes_reactBase _ _ _ _ (Wanes.refl _))
  wanes_ite hcap (wanes_reactMajor _ _ _ _ _ hcap)

theorem raised_raise {b : Nat} (dom : Option Nat) (hb : b < s.health.length) : Raised (raise b src detail dom s) b src :=
  (wanes_reaction (κ := False) b src detail dom s).raised b src (raised_recordOnly hb)

/-! The sequence of R431 -/

/-- A wake that is abandoned. -/
def wakeAbandoned (d : Pd) : Pd := if d.st = .waking then { d with st := .off } else d

theorem wakeAbandoned_st (d : Pd) : (wakeAbandoned d).st ≠ .waking := by
  unfold wakeAbandoned
  split
  · simp
  · assumption

theorem wanes_wakeAbandoned (i : Nat) (hs : Wanes κ s0 s) : Wanes κ s0 (modPd s i wakeAbandoned) := by
  refine wanes_modPd hs (fun d hd => ?_) (fun d _ _ => wakeAbandoned_st d)
  unfold wakeAbandoned
  split <;> exact hd

theorem wanes_abandonWakes (hs : Wanes κ s0 s) : Wanes κ s0 (abandonWakes s) := wanes_foldl (fun _ i ht => wanes_wakeAbandoned i ht) hs

/-- A change of several domains makes good in each what it makes good in any, and spoils it in none. -/
theorem pdOf_foldl_modPd {P : Pd → Prop} {f : Pd → Pd} (hf : ∀ d, P (f d)) {g : Nat → Nat} {l : List Nat} {s : State} {j : Nat}
    (h : P (pdOf s j) ∨ (j ∈ l.map g ∧ j < s.power.pds.length)) : P (pdOf (l.foldl (fun s i => modPd s (g i) f) s) j) := by
  induction l generalizing s with
  | nil => exact h.resolve_right fun h => by simp at h
  | cons i l ih =>
    have hkept (hj : P (pdOf s j)) : P (pdOf (modPd s (g i) f) j) := by
      rcases pdOf_modPd s (g i) j f with h | ⟨-, h⟩ <;> rw [h]
      · exact hj
      · exact hf _
    refine ih (h.elim (fun hj => .inl (hkept hj)) fun ⟨hmem, hlen⟩ => ?_)
    rcases List.mem_cons.1 hmem with rfl | hmem
    · exact .inl (by rw [pdOf_modPd_same s _ f hlen]; exact hf _)
    · exact .inr ⟨hmem, by simpa [modPd] using hlen⟩

theorem asleep_abandonWakes (s : State) : Asleep (abandonWakes s) := fun i hi => by
  refine pdOf_foldl_modPd (P := fun d => d.st ≠ .waking) (g := id) wakeAbandoned_st ?_
  by_cases hlen : i < s.power.pds.length
  · exact .inr ⟨by simpa using hi, hlen⟩
  · exact .inl (by simp [pdOf, hlen])

/-- Q_CAUSE after TAMPER_ZERO: written only if it was clear (R431). -/
def tamperCause (src : Nat) (s : State) : Nat :=
  if (settleJournal s).thermos.quarantine then (settleJournal s).thermos.qCause else 14 + 256 * src

theorem settleJournal_journal (s : State) : (settleJournal s).journal = none := by
  unfold settleJournal
  split
  · rfl
  · assumption

theorem settleJournal_mode (s : State) : (settleJournal s).boot.mode = s.boot.mode := by
  unfold settleJournal
  split <;> rfl

/-- What a settled journal leaves in the Thermos depends on the two alone (R431). -/
theorem settleJournal_thermos {t : State} (hj : t.journal = s.journal) (hth : t.thermos = s.thermos) :
    (settleJournal t).thermos = (settleJournal s).thermos := by
  unfold settleJournal
  rw [hj]
  cases s.journal with
  | none => exact hth
  | some j => simp only [hth]

theorem zeroed_tamperZero (src : Nat) (s : State) : Zeroed (tamperCause src s) (tamperZero src s) :=
  ⟨rfl, rfl, rfl, rfl, settleJournal_journal s, rfl, rfl⟩

/-- The engines are struck and their wakes abandoned; the keys still stand (R431). -/
def alarmed (src : Nat) (s : State) : State := abandonWakes (alarmAll (tamperZero src s))

theorem wanes_alarmed (src : Nat) (s : State) : Wanes False (tamperZero src s) (alarmed src s) := wanes_abandonWakes (wanes_alarmAll (Wanes.refl _))

theorem shape_alarmed (src : Nat) {s : State} (h : Shape s) : Shape (alarmed src s) :=
  (keeps_abandonWakes (keeps_alarmAll (keeps_tamperZero src (Keeps.refl s)))).2.1 h

/-- The erasure of the keys leaves what the cleared Thermos, the engines and the hampers are (R431). -/
theorem zeroed_eraseKeys {q : Nat} (h : Zeroed q s) : Zeroed q (eraseKeys s) := h
theorem asleep_eraseKeys (h : Asleep s) : Asleep (eraseKeys s) := h
theorem settled_eraseKeys (h : Settled s) : Settled (eraseKeys s) := h
theorem erased_eraseKeys (s : State) : Erased (eraseKeys s) := ⟨rfl, rfl, rfl⟩
theorem shape_eraseKeys (h : Shape s) : Shape (eraseKeys s) := h
theorem tags_eraseKeys (s : State) : (eraseKeys s).mem.badTags = (eraseKeys s).mem.written := rfl

/-- What the tamper sequence does once the keys are erased: the event, then QUARANTINE (R135, R431). -/
def tamperEnd (src detail : Nat) (s : State) : State :=
  let s := raise 14 src detail none s
  if s.boot.mode = .boot ∨ s.boot.mode = .quarantine then s else enterQuarantine 14 src s

theorem tamper_eq (src detail : Nat) (s : State) : tamper src detail s = tamperEnd src detail (eraseKeys (alarmed src s)) := rfl

theorem wanes_tamperEnd (src detail : Nat) (s : State) : Wanes κ (raise 14 src detail none s) (tamperEnd src detail s) :=
  wanes_ite (Wanes.refl _) (wanes_enterQuarantine 14 src (Wanes.refl _))

/-- A device that ran ends in QUARANTINE without work, whichever reaction brought it there. -/
theorem tamperEnd_settled (hm : s.boot.mode ≠ .boot) (hs : Settled s) :
    (tamperEnd src detail s).boot.mode = .quarantine ∧ Settled (tamperEnd src detail s) := by
  have hraise : Wanes False s (raise 14 src detail none s) := wanes_raise _ _ _ _ (Wanes.refl s)
  unfold tamperEnd
  dsimp only
  split
  · next h => exact ⟨h.resolve_left (hraise.running hm), hraise.settled hs⟩
  · next h => exact enterQuarantine_settled 14 src fun hb => h (.inl hb)

/-- R431 on a device that runs and is not in QUARANTINE. -/
theorem tampered_tamper (hshape : Shape s) (hb : s.boot.mode ≠ .boot) (hq : s.boot.mode ≠ .quarantine) : Tampered src s (tamper src detail s) := by
  have hzm : (tamperZero src s).boot.mode = s.boot.mode := settleJournal_mode s
  have hal := wanes_alarmed src s
  have hmode : (eraseKeys (alarmed src s)).boot.mode ≠ .boot := hal.running (by rw [hzm]; exact hb)
  have hset : Settled (eraseKeys (alarmed src s)) := settled_eraseKeys (hal.settled fun h => absurd (hzm.symm.trans h) hq)
  have hlen : 14 < (eraseKeys (alarmed src s)).health.length := by
    obtain ⟨-, -, hhealth, -⟩ := shape_eraseKeys (shape_alarmed src hshape)
    omega
  have hend : Wanes True (eraseKeys (alarmed src s)) (tamperEnd src detail (eraseKeys (alarmed src s))) :=
    (wanes_raise 14 src detail none (Wanes.refl _)).trans (wanes_tamperEnd src detail _)
  obtain ⟨hfinal, hsettled⟩ := tamperEnd_settled (src := src) (detail := detail) hmode hset
  have hraised : Raised (tamperEnd src detail (eraseKeys (alarmed src s))) 14 src :=
    (wanes_tamperEnd (κ := False) src detail _).raised 14 src (raised_raise none hlen)
  obtain ⟨hdrs, hmask, hdom, hlost, hj, hflag, hcause⟩ := hend.zeroed _ (zeroed_eraseKeys (hal.zeroed _ (zeroed_tamperZero src s)))
  obtain ⟨hkeys, hloads, hid⟩ := hend.erased (erased_eraseKeys _)
  have hasleep := hend.asleep (asleep_eraseKeys (asleep_abandonWakes _))
  obtain ⟨htags, hwritten⟩ := hend.tags trivial
  obtain ⟨hhampers, hidle⟩ := hsettled hfinal
  rw [tamper_eq]
  generalize tamperEnd src detail (eraseKeys (alarmed src s)) = t at *
  exact ⟨hdrs, hmask, hdom, hlost, hj, hflag, fun _ hth => by rw [hcause, hth]; rfl, hkeys, hloads, hid,
    htags.trans ((tags_eraseKeys _).trans hwritten.symm), hraised, fun i hi => ⟨(hidle i).1, hasleep i hi⟩, by rw [hfinal, if_neg hb], fun _ _ => hhampers⟩

end

/-! O60 -/

section
variable {s u : State} {p : Port} {k : Link} {src : Nat}

/-- The state in which `FI_CTL` with FIRE injects (R433). -/
def firing (p : Port) (react : Bool) (s : State) : State := { respond p .silent s with fiReact := react }

/-- What the tamper sequence leaves is said of the state before the write, and the record of its outcome changes none of it. -/
theorem tampered_firing {c o : Nat} (h : Tampered src (firing p true s) u) : Tampered src s (recordWr p c o u) := by
  obtain ⟨hdrs, hmask, hdom, hlost, hj, hflag, hcause, hrest⟩ := h
  have hsettled : (settleJournal (firing p true s)).thermos = (settleJournal s).thermos := settleJournal_thermos rfl rfl
  exact ⟨hdrs, hmask, hdom, hlost, hj, hflag, fun th hth => hcause th (hth.trans hsettled.symm), hrest⟩

theorem raised_recordWr {b c x o : Nat} (h : Raised u b c) : Raised (recordWr p x o u) b c := h

theorem shape_firing (react : Bool) (h : Shape s) : Shape (firing p react s) := by
  obtain ⟨hports, hrest⟩ := h
  exact ⟨by simpa [firing, respond, modPort] using hports, hrest⟩

theorem lwOutcome_of_shape (c o : Nat) (h : Shape u) : (portOf (recordWr p c o u) p).lwOutcome = o := by
  obtain ⟨hports, -⟩ := h
  exact portOf_lwOutcome_recordWr (by omega)

/-- An injected event without REACT is recorded, and the work stands (R433). -/
theorem fiFire_records (hshape : Shape s) (hm : s.boot.mode = .factory) (h : ServesReg s p k 0xC44 1) (hb : bits s.fiTarget.toNat 12 8 < 21)
    (hsrc : bits s.fiTarget.toNat 2 0 < sourceCount (bits s.fiTarget.toNat 12 8)) :
    ∃ t, exec (.fiFire p k false) s = .next t ∧ Raised t (bits s.fiTarget.toNat 12 8) (bits s.fiTarget.toNat 2 0) ∧ WorkStands s t ∧ t.boot = s.boot
      ∧ t.fiReact = false ∧ (portOf t p).lwOutcome = wrOk := by
  have hfire : regFrame p k 0xC44 (b2n false * 2 + 1) s = recordWr p 0x11 wrOk (inject (firing p false s)) := regFrame_fire h hm
  rw [inject_recorded (s := firing p false s) hb hsrc rfl] at hfire
  have hfs : Shape (firing p false s) := shape_firing false hshape
  obtain ⟨-, -, hhealth, -⟩ := shape_firing (p := p) false hshape
  exact ⟨_, congrArg Host.Outcome.next hfire, raised_recordWr (raised_recordOnly (by rw [hhealth]; exact hb)), ⟨rfl, rfl, rfl, rfl, rfl, rfl, rfl⟩, rfl, rfl,
    lwOutcome_of_shape _ _ ((keeps_recordOnly _ _ _ _ _ (Keeps.refl _)).2.1 hfs)⟩

/-- A source that no block defines is not injected (R433). -/
theorem fiFire_undefined {react : Bool} (hm : s.boot.mode = .factory) (h : ServesReg s p k 0xC44 (b2n react * 2 + 1))
    (hsrc : 21 ≤ bits s.fiTarget.toNat 12 8 ∨ sourceCount (bits s.fiTarget.toNat 12 8) ≤ bits s.fiTarget.toNat 2 0) :
    exec (.fiFire p k react) s = .next (recordWr p 0x11 wrOk (firing p react s)) := by
  have hfire : regFrame p k 0xC44 (b2n react * 2 + 1) s = recordWr p 0x11 wrOk (inject (firing p react s)) := regFrame_fire h hm
  rw [inject_undefined (s := firing p react s) hsrc] at hfire
  exact congrArg Host.Outcome.next hfire

/-- An injected tamper source with REACT runs the tamper sequence (R431, R433). -/
theorem fiFire_tampers (hshape : Shape s) (hm : s.boot.mode = .factory) (h : ServesReg s p k 0xC44 3) (hb : bits s.fiTarget.toNat 12 8 = 14)
    (hsrc : bits s.fiTarget.toNat 2 0 < 6) :
    ∃ t, exec (.fiFire p k true) s = .next t ∧ Tampered (bits s.fiTarget.toNat 2 0) s t ∧ (portOf t p).lwOutcome = wrOk := by
  have hfire : regFrame p k 0xC44 (b2n true * 2 + 1) s = recordWr p 0x11 wrOk (inject (firing p true s)) := regFrame_fire h hm
  rw [inject_tamper (s := firing p true s) hb hsrc rfl] at hfire
  have hfs : Shape (firing p true s) := shape_firing true hshape
  have hfm : (firing p true s).boot.mode = .factory := hm
  refine ⟨_, congrArg Host.Outcome.next hfire, tampered_firing (tampered_tamper hfs (by simp [hfm]) (by simp [hfm])), lwOutcome_of_shape _ _ ?_⟩
  exact (keeps_tamper _ _ (Keeps.refl _)).2.1 hfs

/-- An injected error of a Pantry word (R371, R433). -/
theorem fiEccGo_flips {n : BitVec 2} (hm : s.boot.mode = .factory) (hn : n = 1 ∨ n = 2) (h : ServesReg s p k 0xC4C (16 + n.toNat)) :
    exec (.fiEccGo p k n) s = .next (recordWr p 0x11 wrOk (injectEcc n.toNat { respond p .silent s with fiEccBits := n.toNat })) := by
  have hbits : n.toNat = 1 ∨ n.toNat = 2 := by rcases hn with rfl | rfl <;> simp
  exact congrArg Host.Outcome.next
    (regFrame_factory h hm (by decide) (by decide) (by decide) (by omega) (writeFactory_ecc hbits))

/-- A step of the TAP (R46). -/
theorem tapStep_steps (op : TapOp) (s : State) :
    (jtagOpen s = false ∨ op = .trst → (tapStep op s).board = { s.board with tap := 0, tapIr := 1, tapTdo := none })
      ∧ (∀ tms tdi, jtagOpen s = true → op = .clock tms tdi → (tapStep op s).board.tap = tapNext s.board.tap tms
        ∧ (s.board.tap = 3 → s.board.tapIr = 1 → (tapStep op s).board.tapShift = 0xB6516C7B)
        ∧ (s.board.tap = 4 → s.board.tapIr = 1 → (tapStep op s).board.tapShift = s.board.tapShift / 2 + b2n tdi * 2 ^ 31)) := by
  constructor
  · rintro (h | rfl)
    · exact tapStep_closed op h
    · exact tapStep_trst
  · rintro tms tdi hopen rfl
    rw [tapStep_clock hopen]
    refine ⟨tapClock_tap, fun hst hir => ?_, fun hst hir => ?_⟩
    · exact tapClock_tapShift.trans ((tapAct_idcode hir).1 hst)
    · exact tapClock_tapShift.trans ((tapAct_idcode hir).2 hst)

end

/-- Settles O60, from the TAP's steps, the stop of the RTC, and each injection of FACTORY. -/
theorem tapClockStopsAndInjections : Obligations.TapClockStopsAndInjections := by
  unfold Obligations.TapClockStopsAndInjections
  intro s hshape
  refine ⟨fun op => ⟨tapStep op s, rfl, rfl, tapStep_steps op s⟩,
    fun a b c d e => ⟨_, _, _, _, _, rfl, rfl, rfl, rfl, rfl, tapStep_five a b c d e s⟩,
    fun h => congrArg Host.Outcome.next (rtcStop_stopped h), fun h hpor => congrArg Host.Outcome.next (rtcStop_inReset h hpor),
    fun h hpor hsev => rtcStop_marks ?_ h hpor hsev, rfl, ?_⟩
  · obtain ⟨-, -, hhealth, -⟩ := hshape
    omega
  · rintro hm p k b src detail rfl rfl rfl
    refine ⟨fun h hb hsrc => fiFire_records hshape hm h hb hsrc, fun react h hsrc => fiFire_undefined hm h hsrc,
      fun h hb hsrc => fiFire_tampers hshape hm h hb hsrc, ?_⟩
    rintro n hn h a rfl
    exact fiEccGo_flips hm hn h

end Sys2Proof.Proofs
end

section
/-! PROOFS. O52, the part every reset has: what BOOT's steps 1 to 10 leave of a cleared device, whatever the tests find (R32, R34, R118). -/

namespace Sys2Proof.Proofs

open Sys2Proof.Machine Sys2Proof.Safety Sys2Proof.Laws

/-- What no step of BOOT changes while it answers. -/
def bootKept (s : State) :=
  (s.boot.mode, s.boot.resetCause, s.boot.answering, s.rings, s.leaf, s.hampers, s.dups, s.keys, s.loads, s.cipherParts, s.digestParts, s.ports,
    s.mem.pantry, s.mem.larder, s.mem.poison, s.meas, s.mp.flash, s.mono, s.pending, s.board)

/-- From `s0`, a device in BOOT, a step leads to `s`. -/
def Boots (s0 s : State) : Prop := s0.boot.mode = .boot → bootKept s = bootKept s0

section
variable {s0 s t : State}

theorem Boots.refl (s : State) : Boots s s := fun _ => rfl

theorem Boots.mode (h : Boots s0 s) (hm : s0.boot.mode = .boot) : s.boot.mode = .boot := by
  have hkept := h hm
  simp only [bootKept, Prod.mk.injEq] at hkept
  exact hkept.1.trans hm

/-- A step that changes nothing of what BOOT keeps. -/
theorem boots_aside (hs : Boots s0 s) (h : bootKept t = bootKept s) : Boots s0 t := fun hm => h.trans (hs hm)

theorem boots_ite {c : Prop} [Decidable c] {x y : State} (hx : Boots s0 x) (hy : Boots s0 y) : Boots s0 (if c then x else y) := by
  split <;> assumption

theorem boots_foldl {β : Type} {f : State → β → State} {l : List β} (hf : ∀ t b, Boots s0 t → Boots s0 (f t b)) (hs : Boots s0 s) :
    Boots s0 (l.foldl f s) := by
  induction l generalizing s with
  | nil => exact hs
  | cons b l ih => exact ih (hf s b hs)

/-! Events in BOOT -/

theorem boots_modThermos (f : Thermos → Thermos) (hs : Boots s0 s) : Boots s0 (modThermos s f) := boots_aside hs rfl
theorem boots_modPd (i : Nat) (f : Pd → Pd) (hs : Boots s0 s) : Boots s0 (modPd s i f) := boots_aside hs rfl
theorem boots_power (w : Power) (hs : Boots s0 s) : Boots s0 { s with power := w } := boots_aside hs rfl
theorem boots_rng (r : Rng) (hs : Boots s0 s) : Boots s0 { s with rng := r } := boots_aside hs rfl
theorem boots_recordOnly (b src detail sev : Nat) (dom : Option Nat) (hs : Boots s0 s) : Boots s0 (recordOnly b src detail sev dom s) :=
  boots_aside hs rfl

/-- In BOOT an event of level DEVICE sets the flag, and no more (R116). -/
theorem boots_enterQuarantine (b src : Nat) (hs : Boots s0 s) : Boots s0 (enterQuarantine b src s) := fun hm => by
  rw [enterQuarantine_boot b src (hs.mode hm)]
  exact hs hm

theorem boots_suspendByEvent (b src d : Nat) (hs : Boots s0 s) : Boots s0 (suspendByEvent b src d s) := by
  have hdom : Boots s0 (if domExists s d then modDom s d (addCause 1) else s) := boots_ite (boots_modThermos _ hs) hs
  exact boots_aside hdom rfl

theorem boots_reactBase (b src sev : Nat) (dom : Option Nat) (hs : Boots s0 s) : Boots s0 (reactBase b src sev dom s) := by
  unfold reactBase
  split
  · exact boots_enterQuarantine b src hs
  · split
    · exact boots_ite (boots_suspendByEvent b src _ hs) hs
    · exact hs

theorem boots_captureSev (b src detail sev : Nat) (dom : Option Nat) (hs : Boots s0 s) : Boots s0 (captureSev b src detail sev dom s) :=
  have hrec := boots_recordOnly b src detail sev dom hs
  boots_ite hrec (boots_reactBase b src sev dom hrec)

theorem boots_capture (b src detail : Nat) (dom : Option Nat) (hs : Boots s0 s) : Boots s0 (capture b src detail dom s) :=
  boots_captureSev _ _ _ _ _ hs

theorem boots_noteDegraded (hs : Boots s0 s) : Boots s0 (noteDegraded s) := by
  have hd : Boots s0 { s with power := { s.power with degraded := true } } := boots_aside hs rfl
  exact boots_ite hs (boots_capture _ _ _ _ hd)

theorem boots_logRetirement (kind index cause : Nat) (hs : Boots s0 s) : Boots s0 (logRetirement s kind index cause) :=
  boots_ite (boots_modThermos _ hs) hs

theorem boots_retire (i cause : Nat) (hs : Boots s0 s) : Boots s0 (retire i cause s) := by
  have hnote (f : Pd → Pd) := boots_noteDegraded
    (boots_capture 16 2 i none (boots_modPd i f (boots_logRetirement (repairKind i).1 (repairKind i).2 cause hs)))
  exact boots_ite hs (boots_ite (boots_capture _ _ _ _ (hnote _)) (hnote _))

theorem boots_fence (i : Nat) (hs : Boots s0 s) : Boots s0 (fence i s) :=
  boots_ite hs (boots_ite (boots_retire i 4 (boots_modPd _ _ hs)) (boots_modPd _ _ hs))

theorem boots_reactMajor (b src detail sev : Nat) (dom : Option Nat) (hs : Boots s0 s) : Boots s0 (reactMajor b src detail sev dom s) := by
  unfold reactMajor
  split
  · split
    · exact boots_fence _ hs
    · exact hs
  · exact hs

theorem boots_raiseSev (b src detail sev : Nat) (dom : Option Nat) (hs : Boots s0 s) : Boots s0 (raiseSev b src detail sev dom s) :=
  have hcap := boots_captureSev b src detail sev dom hs
  boots_ite hcap (boots_reactMajor _ _ _ _ _ hcap)

theorem boots_raise (b src detail : Nat) (dom : Option Nat) (hs : Boots s0 s) : Boots s0 (raise b src detail dom s) := boots_raiseSev _ _ _ _ _ hs

/-! Steps 3 to 10 of BOOT -/

theorem boots_failSpare (c : Nat × Nat) (hs : Boots s0 s) : Boots s0 (failSpare c s) := by
  unfold failSpare
  dsimp only
  have hlog (f : Thermos → Thermos) := boots_logRetirement 5 (Config.spareIndex c.1 c.2 % 256) 1 (boots_modThermos f hs)
  split
  · exact hs
  · split
    · exact boots_modThermos _ (hlog _)
    · exact hlog _

theorem boots_stepRepair (b : BootEnv) (hs : Boots s0 s) : Boots s0 (stepRepair b s) :=
  boots_noteDegraded (boots_foldl (fun _ c ht => boots_failSpare c ht) (boots_foldl (fun _ i ht => boots_modPd i _ ht) hs))

theorem boots_stepEntropy (b : BootEnv) (hs : Boots s0 s) : Boots s0 (stepEntropy b s) := by
  have hrng : Boots s0 { s with rng := { instantiate s.rng with stopped := false } } := boots_rng _ hs
  have hfailed : Boots s0 { s with boot := { s.boot with entropyFailed := true } } := boots_aside hs rfl
  exact boots_ite (boots_modPd _ _ hrng) (boots_raise _ _ _ _ hfailed)

theorem boots_replayJournal (hs : Boots s0 s) : Boots s0 (replayJournal s) := by
  unfold replayJournal
  split
  · exact boots_ite (boots_raise _ _ _ _ (boots_aside hs rfl)) (boots_aside hs rfl)
  · exact hs

theorem boots_dropRetirement (k : Nat) (hs : Boots s0 s) : Boots s0 (dropRetirement k s) := by
  unfold dropRetirement
  split
  · exact hs
  · dsimp only
    split
    · exact boots_modThermos _ hs
    · exact boots_ite (boots_modThermos _ hs) (boots_power _ (boots_modPd _ _ (boots_modThermos _ hs)))

theorem boots_strikeRepair (o : Nat) (hs : Boots s0 s) : Boots s0 (strikeRepair o s) :=
  boots_ite (boots_dropRetirement _ hs) (boots_ite (boots_modThermos _ hs) hs)

theorem boots_strikeThermos (o : Nat) (hs : Boots s0 s) : Boots s0 (strikeThermos o s) := by
  have hue : Boots s0 (recordUe o 8 1 s) := boots_aside hs rfl
  unfold strikeThermos
  dsimp only
  split
  · exact boots_raiseSev _ _ _ _ _ (boots_modThermos _ hue)
  split
  · exact boots_raiseSev _ _ _ _ _ (boots_modThermos _ hue)
  split
  · exact boots_raise _ _ _ _ (boots_modThermos _ hue)
  refine boots_raiseSev _ _ _ _ _ ?_
  split
  · exact boots_modThermos _ hue
  split
  · exact boots_modThermos _ hue
  split
  · exact boots_aside hue rfl
  split
  · exact boots_strikeRepair _ hue
  split
  · exact boots_modThermos _ hue
  · exact hue

theorem boots_failRecord (o : Nat) (hs : Boots s0 s) : Boots s0 (failRecord o s) :=
  boots_ite (boots_modThermos _ hs) (boots_ite (boots_modThermos _ hs) (boots_ite (boots_modThermos _ hs) (boots_ite (boots_strikeThermos o hs) hs)))

theorem boots_endTimeSet (hs : Boots s0 s) : Boots s0 (endTimeSet s) := boots_ite (boots_modThermos _ hs) hs

theorem boots_stepThermos (b : BootEnv) (hs : Boots s0 s) : Boots s0 (stepThermos b s) := by
  have hchecked : Boots s0 (b.badRecords.foldl (fun s o => failRecord o s) (replayJournal s)) :=
    boots_foldl (fun _ o ht => boots_failRecord o ht) (boots_replayJournal hs)
  have hset (f : Thermos → Thermos) := boots_endTimeSet (boots_modThermos f hchecked)
  unfold stepThermos
  exact boots_foldl (fun _ c ht => boots_raise _ _ _ _ ht) (boots_ite (boots_modThermos _ (hset _)) (hset _))

theorem boots_stepRoot (hs : Boots s0 s) : Boots s0 (stepRoot s) := boots_ite hs (boots_aside hs rfl)

theorem boots_stepPantry (b : BootEnv) (hs : Boots s0 s) : Boots s0 (stepPantry b s) :=
  boots_foldl (fun _ _ ht => boots_modPd _ _ ht) (boots_foldl (fun _ _ ht => boots_retire _ _ ht) hs)

theorem boots_testClass (b : BootEnv) (l : List Nat) (hs : Boots s0 s) : Boots s0 (testClass b l s) := by
  induction l generalizing s with
  | nil => exact hs
  | cons i l ih => exact boots_ite (ih hs) (boots_ite (ih (boots_retire i 1 hs)) (boots_modPd _ _ hs))

theorem boots_stepEngines (b : BootEnv) (hs : Boots s0 s) : Boots s0 (stepEngines b s) :=
  boots_ite hs (boots_testClass b _ (boots_testClass b _ (boots_testClass b _ (boots_testClass b _ hs))))

theorem boots_stepDiscovery (b : BootEnv) (hs : Boots s0 s) : Boots s0 (stepDiscovery b s) := by
  unfold stepDiscovery
  dsimp only
  split
  · exact hs
  · have hfound (m : Mp) (hm : m.flash = s.mp.flash) :
        Boots s0 (modPd { s with mp := m, mem := { s.mem with larderMB := psramSize b.psramMB } } 48 (fun d => { d with st := .on, tested := true })) :=
      boots_aside hs (by simp only [bootKept, modPd, hm])
    split
    · exact boots_raise _ _ _ _ (hfound _ rfl)
    · exact boots_ite (hfound _ rfl) (boots_raise _ _ _ _ (hfound _ rfl))

/-- Steps 3 to 10 (R118). -/
def bootTests (b : BootEnv) (s : State) : State :=
  stepDiscovery b (stepEngines b (stepPantry b (stepRoot (stepThermos b (stepEntropy b (stepRepair b s))))))

theorem boots_bootTests (b : BootEnv) (s : State) : Boots s (bootTests b s) :=
  boots_stepDiscovery b (boots_stepEngines b (boots_stepPantry b (boots_stepRoot (boots_stepThermos b (boots_stepEntropy b
    (boots_stepRepair b (Boots.refl s)))))))

end
end Sys2Proof.Proofs
end

section
/-! PROOFS. O52, the part a fair BOOT has: where every test passes each step changes what it is for, and no event reacts (R118). -/

namespace Sys2Proof.Proofs

open Sys2Proof.Machine Sys2Proof.Safety Sys2Proof.Laws

/-- Nothing but events and domains below `lo` or above the host ports' has changed, and no severity. -/
structure Quiet (lo : Nat) (s t : State) : Prop where
  thermos : t.thermos = s.thermos
  journal : t.journal = s.journal
  boot : t.boot = s.boot
  rng : t.rng = s.rng
  sevs : ∀ b c, sevOf t b c = sevOf s b c
  count : t.power.pds.length = s.power.pds.length
  pds : ∀ i, lo ≤ i → i < 48 → pdOf t i = pdOf s i

section
variable {lo : Nat} {s0 s t : State} {b : BootEnv}

theorem Quiet.refl (s : State) : Quiet lo s s := ⟨rfl, rfl, rfl, rfl, fun _ _ => rfl, rfl, fun _ _ _ => rfl⟩

theorem Quiet.mono {hi : Nat} (h : Quiet lo s t) (hle : lo ≤ hi) : Quiet hi s t :=
  ⟨h.thermos, h.journal, h.boot, h.rng, h.sevs, h.count, fun i hi hlt => h.pds i (Nat.le_trans hle hi) hlt⟩

theorem Quiet.trans (h : Quiet lo s0 s) (k : Quiet lo s t) : Quiet lo s0 t :=
  ⟨k.thermos.trans h.thermos, k.journal.trans h.journal, k.boot.trans h.boot, k.rng.trans h.rng, fun b c => (k.sevs b c).trans (h.sevs b c),
    k.count.trans h.count, fun i hlo hi => (k.pds i hlo hi).trans (h.pds i hlo hi)⟩

theorem quiet_recordOnly (b src detail sev : Nat) (dom : Option Nat) (h : Quiet lo s0 s) : Quiet lo s0 (recordOnly b src detail sev dom s) :=
  ⟨h.thermos, h.journal, h.boot, h.rng, fun c k => (sevOf_recordOnly c k).trans (h.sevs c k), h.count, h.pds⟩

theorem quiet_modPd {i : Nat} (f : Pd → Pd) (hi : i < lo ∨ 48 ≤ i) (h : Quiet lo s0 s) : Quiet lo s0 (modPd s i f) :=
  ⟨h.thermos, h.journal, h.boot, h.rng, h.sevs, by simpa [modPd] using h.count,
    fun j hlo hj => (pdOf_modPd_ne s f (by omega)).trans (h.pds j hlo hj)⟩

theorem quiet_foldl {l : List Nat} {g : Nat → Nat} (f : Pd → Pd) (hl : ∀ i ∈ l, g i < lo ∨ 48 ≤ g i) (h : Quiet lo s0 s) :
    Quiet lo s0 (l.foldl (fun s i => modPd s (g i) f) s) := by
  induction l generalizing s with
  | nil => exact h
  | cons i l ih => exact ih (fun j hj => hl j (List.mem_cons_of_mem _ hj)) (quiet_modPd f (hl i List.mem_cons_self) h)

/-- The severities of the events that a fair BOOT can meet call for no reaction. -/
def BootSevs (s : State) : Prop := sevOf s 16 3 ≤ 2 ∧ sevOf s 20 2 ≤ 1 ∧ sevOf s 4 0 ≤ 2 ∧ sevOf s 4 5 ≤ 2

theorem Quiet.bootSevs (h : Quiet lo s t) (hs : BootSevs s) : BootSevs t := by
  simpa only [BootSevs, h.sevs] using hs

theorem quiet_noteDegraded (hsev : sevOf s 16 3 ≤ 2) (h : Quiet lo s0 s) : Quiet lo s0 (noteDegraded s) := by
  have hd : Quiet lo s0 { s with power := { s.power with degraded := true } } := ⟨h.thermos, h.journal, h.boot, h.rng, h.sevs, h.count, h.pds⟩
  unfold noteDegraded
  split
  · exact h
  · rw [capture, captureSev_low (by exact hsev)]
    exact quiet_recordOnly _ _ _ _ _ hd

/-- A change of several domains keeps in each what it keeps in any. -/
theorem pdOf_foldl_modPd_of {P : Pd → Prop} {f : Pd → Pd} (hf : ∀ d, P d → P (f d)) {l : List Nat} {j : Nat} (h : P (pdOf s j)) :
    P (pdOf (l.foldl (fun s i => modPd s i f) s) j) := by
  induction l generalizing s with
  | nil => exact h
  | cons i l ih =>
    refine ih ?_
    rcases pdOf_modPd s i j f with hp | ⟨-, hp⟩ <;> rw [hp]
    · exact h
    · exact hf _ h

/-! Steps 2 and 3 -/

/-- The state in which ports answer (R118). -/
def answers (s : State) : State := { s with boot := { s.boot with answering := true, aonFailed := false } }

theorem quiet_stepAon (h : b.aonBistOk = true) (s : State) : Quiet 48 (answers s) (stepAon b s) := by
  simp only [stepAon, h, Bool.not_true, if_true]
  exact quiet_foldl _ (fun i hi => .inl (by simp at hi; omega)) (Quiet.refl _)

theorem stepAon_hosts (h : b.aonBistOk = true) (hlen : s.power.pds.length = 50) {p : Nat} (hp : p < 4) : (pdOf (stepAon b s) (44 + p)).st = .on := by
  simp only [stepAon, h, Bool.not_true, if_true]
  refine pdOf_foldl_modPd (P := fun d => d.st = .on) (g := fun p => 44 + p) (fun _ => rfl) (.inr ⟨?_, ?_⟩)
  · simpa using hp
  · change 44 + p < s.power.pds.length
    omega

/-- Step 3 with the retirements applied and the complement not yet judged (R448). -/
def retirementsApplied (s : State) : State :=
  (s.power.otpRetired ++ s.thermos.retirements.filterMap retiredPd).foldl (fun s i => modPd s i (fun d => { d with retired := true })) s

theorem stepRepair_fair (h : b.badSpares = []) (s : State) : stepRepair b s = noteDegraded (retirementsApplied s) := by
  simp only [stepRepair, h, List.filter_nil, List.foldl_nil, retirementsApplied]

theorem quiet_retirementsApplied (s : State) : Quiet 48 s (retirementsApplied s) :=
  quiet_foldl (g := id) _ (fun _ _ => by simp only [id]; omega) (Quiet.refl s)

theorem quiet_stepRepair (h : b.badSpares = []) (hs : BootSevs s) : Quiet 48 s (stepRepair b s) := by
  rw [stepRepair_fair h]
  exact quiet_noteDegraded ((quiet_retirementsApplied s).bootSevs hs).1 (quiet_retirementsApplied s)

/-- Retirements that step 3 applies switch nothing off (R448). -/
theorem stepRepair_st (h : b.badSpares = []) (hs : BootSevs s) {i : Nat} (hi : i < 48) : (pdOf (stepRepair b s) i).st = (pdOf s i).st := by
  have hnote : Quiet 0 (retirementsApplied s) (noteDegraded (retirementsApplied s)) :=
    quiet_noteDegraded ((quiet_retirementsApplied s).bootSevs hs).1 (Quiet.refl _)
  rw [stepRepair_fair h, hnote.pds i (Nat.zero_le i) hi]
  exact pdOf_foldl_modPd_of (P := fun d => d.st = (pdOf s i).st) (f := fun d => { d with retired := true }) (fun _ hd => hd) rfl

/-! Steps 4 to 6 -/

theorem quiet_stepEntropy (h : b.entropyOk = true) {g : Rng} (hg : g = { instantiate s.rng with stopped := false }) :
    Quiet 36 { s with rng := g } (stepEntropy b s) := by
  rw [stepEntropy, if_pos h, ← hg]
  exact quiet_modPd _ (.inr (by decide)) (Quiet.refl _)

/-- A journal's copy is completed or discarded; what it tells is recorded (R309). -/
theorem quiet_replayJournal (hs : BootSevs s) : Quiet 36 { s with thermos := (settleJournal s).thermos, journal := none } (replayJournal s) := by
  obtain ⟨-, hsev, -⟩ := hs
  unfold replayJournal settleJournal
  cases hj : s.journal with
  | none =>
    dsimp only
    rw [← hj]
    exact Quiet.refl s
  | some j =>
    dsimp only
    split
    · rw [raise_minor (by exact hsev)]
      exact quiet_recordOnly _ _ _ _ _ (Quiet.refl _)
    · exact Quiet.refl _

/-- The Thermos of a device whose records are sound, after step 5 (R118, R296, R332). -/
def bootThermos (th : Thermos) : Thermos :=
  { th with setPending := false, domains := th.domains.map (fun c => (c.1, bootDomain th.setPending c.2)) }

/-- The suspensions of causes 2 and 3 have ended (R296). -/
def resumedThermos (th : Thermos) : Thermos := { th with domains := th.domains.map (fun c => (c.1, setCauses (c.2.suspend % 2) c.2)) }

theorem bootThermos_settled {th : Thermos} (hp : th.setPending = false) : bootThermos th = resumedThermos th := by
  unfold bootThermos resumedThermos
  rw [hp]
  simp [bootDomain]

theorem bootThermos_pending {th : Thermos} (hp : th.setPending = true) :
    bootThermos th = { resumedThermos th with
      setPending := false
      domains := (resumedThermos th).domains.map (fun c => if c.2.state = 0 then c else (c.1, { c.2 with timeSeen := true })) } := by
  have hdom (c : Nat × DomRec) : (c.1, bootDomain true c.2) =
      (fun c : Nat × DomRec => if c.2.state = 0 then c else (c.1, { c.2 with timeSeen := true })) (c.1, setCauses (c.2.suspend % 2) c.2) := by
    by_cases h : (setCauses (c.2.suspend % 2) c.2).state = 0 <;> simp [bootDomain, h]
  simp only [bootThermos, resumedThermos, hp, List.map_map, Function.comp_def, hdom]

/-- The suspensions of causes 2 and 3 end, then a pass of TIME_SET that was cut short (R296, R332). -/
theorem endTimeSet_resumed (s : State) : endTimeSet (modThermos s resumedThermos) = { s with thermos := bootThermos s.thermos } := by
  cases hp : s.thermos.setPending with
  | false =>
    rw [bootThermos_settled hp]
    exact if_neg (by simp [resumedThermos, hp])
  | true =>
    rw [bootThermos_pending hp]
    exact if_pos hp

/-- No step of BOOT makes a sound entry fail. -/
theorem bootDomain_failed (p : Bool) (r : DomRec) : (bootDomain p r).failed = r.failed := by
  unfold bootDomain
  dsimp only
  split <;> rfl

/-- Step 5 once the passes have run: a lost recovery record, failed entries (R309). -/
def thermosJudged (s : State) : State :=
  let s := if s.thermos.valid && !s.thermos.recoveryOk then loseRecovery s else s
  (s.thermos.domains.filter (fun c => c.2.failed)).foldl (fun s c => raise 12 5 c.1 (some c.1) s) s

theorem stepThermos_eq (b : BootEnv) (s : State) :
    stepThermos b s = thermosJudged (endTimeSet (modThermos (b.badRecords.foldl (fun s o => failRecord o s) (replayJournal s)) resumedThermos)) := rfl

theorem thermosJudged_sound (hrec : s.thermos.recoveryOk = true) (hdom : ∀ c ∈ s.thermos.domains, c.2.failed = false) : thermosJudged s = s := by
  have hfailed : s.thermos.domains.filter (fun c => c.2.failed) = [] := List.filter_eq_nil_iff.2 fun c hc => by simp [hdom c hc]
  simp [thermosJudged, hrec, hfailed]

theorem bootThermos_sound {th : Thermos} (hdom : ∀ c ∈ th.domains, c.2.failed = false) : ∀ c ∈ (bootThermos th).domains, c.2.failed = false := by
  intro c hc
  obtain ⟨d, hd, rfl⟩ := List.mem_map.1 hc
  exact (bootDomain_failed _ _).trans (hdom d hd)

theorem quiet_stepThermos (h : b.badRecords = []) (hs : BootSevs s) (hrec : (settleJournal s).thermos.recoveryOk = true)
    (hdom : ∀ c ∈ (settleJournal s).thermos.domains, c.2.failed = false) :
    Quiet 36 { s with thermos := bootThermos (settleJournal s).thermos, journal := none } (stepThermos b s) := by
  have hreplay := quiet_replayJournal hs
  have hstep : stepThermos b s = { replayJournal s with thermos := bootThermos (settleJournal s).thermos } := by
    rw [stepThermos_eq, h, List.foldl_nil, endTimeSet_resumed, hreplay.thermos]
    exact thermosJudged_sound hrec (bootThermos_sound hdom)
  rw [hstep]
  exact ⟨rfl, hreplay.journal, hreplay.boot, hreplay.rng, hreplay.sevs, hreplay.count, hreplay.pds⟩

/-- BOOT_ID after step 6 (R292). -/
def rootId (s : State) : Bytes := if bootSkips s then s.boot.bootId else drawn s 8
/-- The DRBG after step 6. -/
def rootRng (s : State) : Rng := if bootSkips s then s.rng else afterGenerate s.rng 8

theorem quiet_stepRoot (s : State) : Quiet 36 { s with boot := { s.boot with bootId := rootId s }, rng := rootRng s } (stepRoot s) := by
  unfold stepRoot rootId rootRng
  split <;> exact Quiet.refl _

/-! Steps 7 to 10 -/

/-- A bank after step 7 (R118, R449). -/
def bankTested (d : Pd) : Pd := { d with st := if d.retired then .off else .on, tested := true }

theorem stepPantry_fair (h : b.badBanks = []) (s : State) : stepPantry b s = (List.range 8).foldl (fun s k => modPd s (36 + k) bankTested) s := by
  simp only [stepPantry, h, List.filter_nil, List.foldl_nil]
  rfl

theorem quiet_stepPantry (h : b.badBanks = []) (s : State) : Quiet 44 s (stepPantry b s) := by
  rw [stepPantry_fair h]
  exact quiet_foldl _ (fun i hi => .inl (by simp at hi; omega)) (Quiet.refl _)

theorem stepPantry_banks (h : b.badBanks = []) (hlen : s.power.pds.length = 50) {k : Nat} (hk : k < 8) :
    (pdOf (stepPantry b s) (36 + k)).st = if (pdOf (stepPantry b s) (36 + k)).retired then .off else .on := by
  rw [stepPantry_fair h]
  refine pdOf_foldl_modPd (P := fun d => d.st = if d.retired then .off else .on) (g := fun k => 36 + k) (fun _ => rfl) (.inr ⟨?_, ?_⟩)
  · simpa using hk
  · omega

theorem quiet_testClass (h : b.badEngines = []) {l : List Nat} (hl : ∀ i ∈ l, i < 36) (hs : Quiet 36 s0 s) : Quiet 36 s0 (testClass b l s) := by
  induction l with
  | nil => exact hs
  | cons i l ih =>
    rw [testClass]
    split
    · exact ih fun j hj => hl j (List.mem_cons_of_mem _ hj)
    · rw [h, if_neg (by simp)]
      exact quiet_modPd _ (.inl (hl i List.mem_cons_self)) hs

theorem quiet_stepEngines (h : b.badEngines = []) (s : State) : Quiet 36 s (stepEngines b s) := by
  unfold stepEngines
  split
  · exact Quiet.refl s
  · exact quiet_testClass h (by decide) (quiet_testClass h (by decide) (quiet_testClass h (by decide) (quiet_testClass h (by decide) (Quiet.refl s))))

theorem quiet_raiseMemory {src : Nat} (hsev : sevOf s 4 src ≤ 2) (h : Quiet lo s0 s) : Quiet lo s0 (raise 4 src 0 none s) := by
  rw [raise_domainless (by omega) (fenceTarget_none (by decide))]
  exact quiet_recordOnly _ _ _ _ _ h

theorem quiet_stepDiscovery (hs : BootSevs s) : Quiet 36 s (stepDiscovery b s) := by
  obtain ⟨-, -, hnone, hsusp⟩ := hs
  unfold stepDiscovery
  dsimp only
  split
  · exact Quiet.refl s
  · have hfound (m : Mp) :
        Quiet 36 s (modPd { s with mp := m, mem := { s.mem with larderMB := psramSize b.psramMB } } 48 (fun d => { d with st := .on, tested := true })) :=
      quiet_modPd _ (.inr (by decide)) ⟨rfl, rfl, rfl, rfl, fun _ _ => rfl, rfl, fun _ _ _ => rfl⟩
    split
    · exact quiet_raiseMemory hnone (hfound _)
    · split
      · exact hfound _
      · exact quiet_raiseMemory hsusp (hfound _)

end
end Sys2Proof.Proofs
end

section
/-! PROOFS. O52: each cause of a full reset reaches the same start of BOOT, and its steps leave the device cleared (R32, R34, R117, R120, R123, R338,
R422, R426). -/

namespace Sys2Proof.Proofs

open Sys2Proof.Machine Sys2Proof.Safety Sys2Proof.Laws

section
variable {s t : State} {b : BootEnv} {cause : Nat} {B : Board}

/-! A fair BOOT from step 2 on -/

theorem generated_stopped (g : Rng) (x : Bool) (n : Nat) : generated { g with stopped := x } n = generated g n := rfl
theorem instantiate_stopped (g : Rng) (x : Bool) : instantiate { g with stopped := x } = { instantiate g with stopped := x } := by
  simp only [instantiate, noiseBytes]

theorem bootSevs_rng (g : Rng) (h : BootSevs s) : BootSevs { s with rng := g } := h

/-- Steps 2 to 5 (R118). -/
def bootToThermos (b : BootEnv) (s : State) : State := stepThermos b (stepEntropy b (stepRepair b (stepAon b s)))
/-- Steps 6 to 10 (R118). -/
def bootFromRoot (b : BootEnv) (s : State) : State := stepDiscovery b (stepEngines b (stepPantry b (stepRoot s)))

/-- Steps 2 to 5 of a BOOT in which every test passes: the ports' logic is on, the Thermos is settled, the DRBG is seeded (R118, R284, R296). -/
theorem bootToThermos_fair (hb : Fair b) (hs : BootSevs s) (hlen : s.power.pds.length = 50) (hrec : (settleJournal s).thermos.recoveryOk = true)
    (hdom : ∀ c ∈ (settleJournal s).thermos.domains, c.2.failed = false) (ht : t = bootToThermos b s) :
    t.journal = none ∧ t.thermos = bootThermos (settleJournal s).thermos ∧ t.boot = (answers s).boot
      ∧ t.rng = { instantiate s.rng with stopped := false } ∧ BootSevs t ∧ t.power.pds.length = 50 ∧ ∀ p < 4, (pdOf t (44 + p)).st = .on := by
  obtain ⟨-, haon, hspares, hrng, hrecords, -, -⟩ := hb
  have q1 := quiet_stepAon haon s
  have hhosts : ∀ p < 4, (pdOf (stepAon b s) (44 + p)).st = .on := fun p hp => stepAon_hosts haon hlen hp
  have s1 := q1.bootSevs hs
  unfold bootToThermos at ht
  generalize stepAon b s = a1 at *
  have q2 := quiet_stepRepair hspares s1
  have hst : ∀ i < 48, (pdOf (stepRepair b a1) i).st = (pdOf a1 i).st := fun i hi => stepRepair_st hspares s1 hi
  have s2 := q2.bootSevs s1
  generalize stepRepair b a1 = a2 at *
  obtain ⟨g, hg⟩ : ∃ g : Rng, g = { instantiate a2.rng with stopped := false } := ⟨_, rfl⟩
  have q3 := quiet_stepEntropy hrng hg
  have s3 := q3.bootSevs (bootSevs_rng g s2)
  generalize stepEntropy b a2 = a3 at *
  have hsettled : (settleJournal a3).thermos = (settleJournal s).thermos :=
    settleJournal_thermos (q3.journal.trans (q2.journal.trans q1.journal)) (q3.thermos.trans (q2.thermos.trans q1.thermos))
  have q4 := quiet_stepThermos hrecords s3 (by rw [hsettled]; exact hrec) (by rw [hsettled]; exact hdom)
  rw [hsettled, ← ht] at q4
  refine ⟨q4.journal, q4.thermos, q4.boot.trans (q3.boot.trans (q2.boot.trans q1.boot)), ?_, q4.bootSevs s3,
    q4.count.trans (q3.count.trans (q2.count.trans (q1.count.trans hlen))), fun p hp => ?_⟩
  · rw [q4.rng, q3.rng, hg, q2.rng, q1.rng]
    rfl
  · have hpd : pdOf t (44 + p) = pdOf a2 (44 + p) := (q4.pds _ (by omega) (by omega)).trans (q3.pds _ (by omega) (by omega))
    rw [hpd, hst _ (by omega)]
    exact hhosts p hp

/-- Steps 6 to 10 of such a BOOT: a BOOT_ID, the banks on, and nothing else of the Thermos or the ports (R118, R292, R449). -/
theorem bootFromRoot_fair (hb : Fair b) (hs : BootSevs s) (hlen : s.power.pds.length = 50) :
    Quiet 44 { s with boot := { s.boot with bootId := rootId s }, rng := rootRng s } (bootFromRoot b s)
      ∧ ∀ k < 8, (pdOf (bootFromRoot b s) (36 + k)).st = if (pdOf (bootFromRoot b s) (36 + k)).retired then .off else .on := by
  obtain ⟨-, -, -, -, -, hbanks, hengines⟩ := hb
  have q5 := quiet_stepRoot s
  have q6 := quiet_stepPantry hbanks (stepRoot s)
  have q7 := quiet_stepEngines hengines (stepPantry b (stepRoot s))
  have q8 : Quiet 36 _ (bootFromRoot b s) := quiet_stepDiscovery (q7.bootSevs (q6.bootSevs (q5.bootSevs hs)))
  have qlate := q7.trans q8
  refine ⟨(q5.mono (by decide)).trans (q6.trans (qlate.mono (by decide))), fun k hk => ?_⟩
  rw [qlate.pds _ (by omega) (by omega)]
  exact stepPantry_banks hbanks (q5.count.trans hlen) hk

/-- Steps 2 to 10 of a BOOT in which every test passes (R118, R292, R296). -/
theorem bootTests_fair (hb : Fair b) (hs : BootSevs s) (hlen : s.power.pds.length = 50) (hentropy : s.boot.entropyFailed = false)
    (hrec : (settleJournal s).thermos.recoveryOk = true) (hdom : ∀ c ∈ (settleJournal s).thermos.domains, c.2.failed = false)
    (ht : t = bootTests b (stepAon b s)) :
    t.journal = none ∧ t.thermos = bootThermos (settleJournal s).thermos ∧ (∀ p < 4, (pdOf t (44 + p)).st = .on)
      ∧ (∀ k < 8, (pdOf t (36 + k)).st = if (pdOf t (36 + k)).retired then .off else .on)
      ∧ (drsPresent t = true → t.boot.bootId = generated (instantiate s.rng) 8) := by
  obtain ⟨u, hu⟩ : ∃ u, u = bootToThermos b s := ⟨_, rfl⟩
  obtain ⟨hj, hth, hboot, hrng, hsevs, hcount, hhosts⟩ := bootToThermos_fair hb hs hlen hrec hdom hu
  have htu : t = bootFromRoot b u := by rw [ht, hu]; rfl
  obtain ⟨q, hbanks⟩ := bootFromRoot_fair hb hsevs hcount
  rw [← htu] at q hbanks
  refine ⟨q.journal.trans hj, q.thermos.trans hth, fun p hp => ?_, hbanks, fun hdrs => ?_⟩
  · rw [q.pds _ (by omega) (by omega)]
    exact hhosts p hp
  · have hd : drsPresent u = true := by rw [← hdrs, drsPresent, drsPresent, q.thermos]
    have hskips : bootSkips u = false := by simp [bootSkips, hboot, hd, answers, hentropy]
    rw [q.boot]
    change rootId u = _
    rw [rootId, hskips, drawn, hrng, if_neg (by decide), generated_stopped]

/-! The start of BOOT -/

/-- The device at t = 0 of a full reset, its board `B` (R22, R34). -/
def atZero (cause : Nat) (b : BootEnv) (B : Board) (s : State) : State := sampleStraps (setStraps b { clearedState cause s with board := B })

theorem blockOf_clearedState {k : Nat} (hk : k < 21) : blockOf (clearedState cause s) k = if k = 14 then blockOf s 14 else healthReset k := by
  rw [blockOf, clearedState, List.getD_eq_getElem?_getD, List.getElem?_set]
  by_cases h : k = 14
  · simp [h, State.reset]
  · simp [h, Ne.symm h, State.reset, hk]

/-- After a full reset every block that BOOT may strike has its default severities (R411). -/
theorem bootSevs_clearedState : BootSevs (clearedState cause s) := by
  have h16 : blockOf (clearedState cause s) 16 = healthReset 16 := blockOf_clearedState (by decide)
  have h20 : blockOf (clearedState cause s) 20 = healthReset 20 := blockOf_clearedState (by decide)
  have h4 : blockOf (clearedState cause s) 4 = healthReset 4 := blockOf_clearedState (by decide)
  simp only [BootSevs, sevOf, h16, h20, h4]
  decide

/-- The flash of a full reset, unlike the target of a program or erase it cuts off, reads as before (R399). -/
theorem flashStands_torn (h : t.mp.flash = tornFlash s) : FlashStands s t := by
  intro a ha
  rw [h, tornFlash]
  cases hr : tornRange s with
  | none => rfl
  | some r => exact memWrite_other (by simpa using ha r hr)

/-- The PLL has locked and the ports answer (R40, R118). -/
def locked (s : State) : State := { s with board := { s.board with pllLocked := true } }

theorem bootSteps_locked (h : b.pllLocks = true) : bootSteps b s = bootTests b (stepAon b (locked s)) := by
  rw [bootSteps, if_neg (by simp [h])]
  rfl

theorem bootSteps_unlocked (h : b.pllLocks = false) : bootSteps b s = s := by
  rw [bootSteps, if_pos (by simp [h])]

/-- Step 2 changes ports' domains and flags alone (R118). -/
theorem boots_stepAon (b : BootEnv) (s : State) :
    Boots { s with boot := { s.boot with answering := true, aonFailed := !b.aonBistOk } } (stepAon b s) := by
  unfold stepAon
  have hports := boots_foldl (s0 := { s with boot := { s.boot with answering := true, aonFailed := !b.aonBistOk } })
    (l := List.range 4) (fun t p (ht : Boots _ t) => boots_modPd (44 + p) (fun d => { d with st := .on, tested := true }) ht) (Boots.refl _)
  exact boots_ite hports (boots_modThermos _ hports)

/-- What every BOOT keeps of the device at t = 0 (R32, R34, R118). -/
theorem bootKept_bootSteps (b : BootEnv) (hm : s.boot.mode = .boot) (ha : s.boot.answering = false) :
    bootKept (bootSteps b s) = bootKept { s with
      boot := { s.boot with answering := b.pllLocks }
      board := { s.board with pllLocked := b.pllLocks || s.board.pllLocked } } := by
  cases h : b.pllLocks with
  | false =>
    rw [bootSteps_unlocked h]
    simp [bootKept, ha]
  | true =>
    rw [bootSteps_locked h]
    have hon := boots_stepAon b (locked s) hm
    have hmode : (stepAon b (locked s)).boot.mode = .boot := (boots_stepAon b (locked s)).mode hm
    exact (boots_bootTests b _ hmode).trans hon

/-- A BOOT from t = 0 of a full reset of `s` (R32, R34, R117, R118). -/
theorem restarted_bootSteps (hr : B.recovN = s.board.recovN) (htest : B.testMode = s.board.testMode) (ht : t = bootSteps b (atZero cause b B s)) :
    Restarted cause b s t := by
  have hkept : bootKept t = _ := ht ▸ bootKept_bootSteps b (s := atZero cause b B s) rfl rfl
  simp only [bootKept, Prod.mk.injEq] at hkept
  obtain ⟨hmode, hcause, hans, hrings, hleaf, hhampers, hdups, hkeys, hloads, hcp, hdp, hports, hpantry, hlarder, hpoison, hmeas, hflash, hmono, hpending,
    hboard⟩ := hkept
  refine ⟨hmode, hcause, hans, hrings, hleaf, hhampers, hdups, hkeys, hloads, hcp, hdp, hports, hpantry, hlarder, hpoison, hmeas, flashStands_torn hflash, hmono,
    hpending, ?_, ?_, ?_, ?_⟩
  · rw [hboard, ← hr]; rfl
  · rw [hboard]; rfl
  · rw [hboard, ← htest]; rfl
  · rintro th rfl hfair hrec hdom
    have hset : (settleJournal (locked (atZero cause b B s))).thermos = (settleJournal s).thermos := settleJournal_thermos rfl rfl
    obtain ⟨hj, hth, hhosts, hbanks, hid⟩ := bootTests_fair (s := locked (atZero cause b B s)) hfair
      (bootSevs_clearedState (cause := cause) (s := s)) rfl rfl
      (by rw [hset]; exact hrec) (by rw [hset]; exact hdom) (ht.trans (bootSteps_locked hfair.1))
    refine ⟨hj, by rw [hth, hset]; rfl, hhosts, hbanks, fun hdrs => (hid hdrs).trans ?_⟩
    have hrng : (locked (atZero cause b B s)).rng = { noise := s.rng.noise, stopped := true } := rfl
    rw [hrng]
    exact (congrArg (generated · 8) (instantiate_stopped { noise := s.rng.noise } true)).trans (generated_stopped _ _ _)

/-! The causes of a full reset -/

theorem restarted_fullReset (cause : Nat) (b : BootEnv) (s : State) : Restarted cause b s (fullReset cause b s) :=
  restarted_bootSteps (B := resetBoard s.board) rfl rfl rfl

/-- The board of a device whose `POR_N` has been released (R34). -/
def releasedBoard (s : State) : Board := { resetBoard s.board with porHigh := true }

/-- The release of `POR_N` starts BOOT where the power-on reset left the device (R34). -/
theorem porRelease_powerOn (b : BootEnv) (s : State) : exec (.porRelease b) (powerOn s) = .next (bootSteps b (atZero 0 b (releasedBoard s) s)) :=
  congrArg Host.Outcome.next (if_neg (by simp [powerOn]))

theorem restarted_porRelease (b : BootEnv) (s : State) : Restarted 0 b s (bootSteps b (atZero 0 b (releasedBoard s) s)) :=
  restarted_bootSteps (B := releasedBoard s) rfl rfl rfl

/-- No step of BOOT changes `POR_N`. -/
theorem porHigh_bootSteps (b : BootEnv) (hm : s.boot.mode = .boot) (ha : s.boot.answering = false) :
    (bootSteps b s).board.porHigh = s.board.porHigh := by
  have hkept := bootKept_bootSteps b hm ha
  simp only [bootKept, Prod.mk.injEq] at hkept
  obtain ⟨-, -, -, -, -, -, -, -, -, -, -, -, -, -, -, -, -, -, -, hboard⟩ := hkept
  rw [hboard]

/-- The straps sampled at t = 0 are all that BOOT's start has of what it meets (R34). -/
theorem atZero_straps {c : BootEnv} (hr : c.recovN = b.recovN) (ht : c.testMode = b.testMode) : atZero cause c B s = atZero cause b B s := by
  rw [atZero, setStraps, hr, ht]
  rfl

theorem pllLockRetry_waiting (hm : s.boot.mode = .boot) (hpor : s.board.porHigh = true) (hpll : s.board.pllLocked = false) :
    exec (.pllLockRetry b) s = .next (bootSteps b s) := congrArg Host.Outcome.next (if_pos ⟨hm, hpor, hpll⟩)

theorem pllLockRetry_idle (h : s.boot.mode ≠ .boot ∨ s.board.porHigh = false ∨ s.board.pllLocked = true) : exec (.pllLockRetry b) s = .next s := by
  refine congrArg Host.Outcome.next (if_neg ?_)
  rintro ⟨hm, hpor, hpll⟩
  simp [hm, hpor, hpll] at h

/-- A PLL that does not lock leaves the start of BOOT to a retry (R40). -/
theorem pllLockRetry_boots {c : BootEnv} (hpll : c.pllLocks = false) (hr : c.recovN = b.recovN) (ht : c.testMode = b.testMode) :
    ∃ v t, exec (.porRelease c) (powerOn s) = .next v ∧ v.board.pllLocked = false ∧ exec (.pllLockRetry b) v = .next t ∧ Restarted 0 b s t := by
  refine ⟨_, _, porRelease_powerOn c s, ?_, ?_, restarted_porRelease b s⟩
  · rw [bootSteps_unlocked hpll]; rfl
  · rw [bootSteps_unlocked hpll, atZero_straps hr ht]
    exact pllLockRetry_waiting rfl rfl rfl

theorem deviceFullReset_idle
    (h : s.boot.mode = .boot ∨ (s.boot.fatal = false ∧ (s.boot.resetPending = false ∨ ∃ h x, s.boot.resetBy = some h ∧ hamperOf s h = some x))) :
    exec (.deviceFullReset b) s = .next s := by
  refine congrArg Host.Outcome.next ?_
  rcases h with hm | ⟨hfatal, hp | ⟨h, x, hby, hx⟩⟩
  · exact if_pos hm
  · simp [deviceReset, hfatal, hp]
  · simp [deviceReset, hfatal, causeWritten, hby, hx]

theorem deviceFullReset_fatal (hm : s.boot.mode ≠ .boot) (hf : s.boot.fatal = true) : exec (.deviceFullReset b) s = .next (fullReset 2 b s) :=
  congrArg Host.Outcome.next ((if_neg hm).trans (if_pos hf))

theorem deviceFullReset_asked (hm : s.boot.mode ≠ .boot) (hf : s.boot.fatal = false) (hp : s.boot.resetPending = true) (hc : causeWritten s = true) :
    exec (.deviceFullReset b) s = .next (fullReset 1 b (checkpoint s)) :=
  congrArg Host.Outcome.next ((if_neg hm).trans ((if_neg (by simp [hf])).trans (if_pos (by simp [hp, hc]))))

/-- The state a backup node that lost power restarts from (R309, R338). -/
theorem backupNodePowerUp_restarts (b : BootEnv) (s : State) :
    ∃ t, exec (.backupNodePowerUp b) s = .next t ∧ t.board.porHigh = s.board.porHigh
      ∧ (s.board.porHigh = true → Restarted 0 b (lostNode s) t)
      ∧ (s.board.porHigh = false → t.boot = {} ∧ t.thermos = (lostNode s).thermos ∧ t.mono = 0 ∧ FlashStands s t ∧ t.rings = []
          ∧ t.hampers = [] ∧ t.keys = []) := by
  cases hpor : s.board.porHigh with
  | true =>
    refine ⟨_, congrArg Host.Outcome.next (if_pos hpor), ?_, fun _ => restarted_fullReset 0 b _, fun h => absurd h (by simp)⟩
    exact (porHigh_bootSteps b rfl rfl).trans hpor
  | false =>
    refine ⟨_, congrArg Host.Outcome.next (if_neg (by simp [hpor])), rfl, fun h => absurd h (by simp), fun _ => ?_⟩
    have hflash : FlashStands (lostNode s) (powerOn (lostNode s)) := flashStands_torn rfl
    exact ⟨rfl, rfl, rfl, hflash, rfl, rfl, rfl⟩

end

/-- Settles O52: every cause leads to the start of one BOOT, whose steps keep what the reset cleared. -/
theorem resetsClearWhatTheyClear : Obligations.ResetsClearWhatTheyClear := by
  unfold Obligations.ResetsClearWhatTheyClear
  intro s b
  refine ⟨⟨powerOn s, rfl, rfl, rfl, rfl, rfl, rfl, rfl, rfl, rfl, rfl, rfl, rfl, rfl, flashStands_torn rfl, rfl, fun k hk => blockOf_clearedState (cause := 0) hk,
      ⟨_, porRelease_powerOn b s, ?_, restarted_porRelease b s⟩, fun c hpll hr ht => pllLockRetry_boots hpll hr ht⟩,
    fun h => congrArg Host.Outcome.next (if_pos h), pllLockRetry_idle,
    fun hm hf => ⟨_, deviceFullReset_fatal hm hf, restarted_fullReset 2 b s⟩,
    fun hm hf hp hc => ⟨_, deviceFullReset_asked hm hf hp hc, restarted_fullReset 1 b _⟩, deviceFullReset_idle,
    fun hm => ⟨_, congrArg Host.Outcome.next (if_neg hm), restarted_fullReset 2 b _⟩, fun hm => congrArg Host.Outcome.next (if_pos hm), ?_⟩
  · exact porHigh_bootSteps b rfl rfl
  · rintro u rfl
    exact backupNodePowerUp_restarts b s

end Sys2Proof.Proofs
end

section
/-! PROOFS. Host frames at a Nymsy port: a lane mismatch (R78), a wrong request CRC (R71), the reads (R55, R60, R68, R74) and the
writes (R65, R66) that a port serves outside BOOT and RECOVERY. -/

namespace Sys2Proof.Proofs

open Sys2Proof.Machine Sys2Proof.Safety Sys2Proof.Laws

/-! Octet strings -/

theorem fitTo_length (d : Bytes) : fitTo d.length d = d := by simp [fitTo, slice]

theorem toLe_length (n v : Nat) : (toLe n v).length = n := by
  induction n generalizing v with
  | zero => rfl
  | succ n ih => simp [toLe, ih]

theorem memRead_length (d : BitVec 8) (m : Assoc (BitVec 8)) (a n : Nat) : (memRead d m a n).length = n := by simp [memRead]

/-- Words, each of four octets. -/
theorem words_length (n : Nat) (f : Nat → Nat) : ((List.range n).flatMap (fun i => toLe 4 (f i))).length = 4 * n := by
  simp [List.length_flatMap, toLe_length, Nat.mul_comm]

/-! What a frame comes to -/

section
variable {s t : State} {p : Port} {k : Link} {f : NymsyFrame} {d : Bytes} {o : Nat}

/-- A native frame that the logic of a Nymsy port hears, whatever its complement byte. -/
theorem nativeFrame_logic (hdead : portDead s = false) (hsent : sentinelAnswers s p k = false) (hxip : (portOf s p).xip = false) :
    nativeFrame p k f s = serveNymsy p k f s := by
  simp [nativeFrame, atPort, hdead, hsent, hxip]

/-- A frame whose complement byte does not match is a LANE_MISMATCH and no more (R78). -/
theorem nativeFrame_mismatch (hdead : portDead s = false) (hsent : sentinelAnswers s p k = false) (hxip : (portOf s p).xip = false)
    (hcpl : k.cplOk = false) :
    nativeFrame p k f s = raise p 0 0 none (modPort s p (fun x => { x with response := .silent, linkEvt := true })) := by
  rw [nativeFrame_logic hdead hsent hxip]
  unfold serveNymsy
  rw [if_pos (by simp [hcpl]), linkEvent, respond, modPort_modPort]

/-- A read frame at a port that hears it is served by the class of its opcode. -/
theorem serveNymsy_read (hcpl : k.cplOk = true) (hf : classOf (opcodeOf f) = .read) (hn : ∀ o, f ≠ .other o) :
    serveNymsy p k f s = serveRead p k f s := by
  unfold serveNymsy
  rw [if_neg (by simp [hcpl]), hf]
  cases f with
  | other o => exact absurd rfl (hn o)
  | _ => rfl

/-- A read frame with its CRC right, read to the end of its trailer, that answers OK (R68, R72). -/
theorem serveRead_ok (hcrc : crcOk (portOf s p) k f = true) (hdone : k.trailerDone = true) (hr : readFrame p k f s = ⟨.ok, d, t⟩)
    (hlen : d.length = readLength f) : serveRead p k f s = respond p (answer (portOf s p) d .ok) t := by
  simp only [serveRead, hcrc, hdone, hr, if_true, ← hlen, fitTo_length]

/-- A read frame with a wrong CRC, read to the end of its trailer (R71). -/
theorem serveRead_crcFail (hcrc : crcOk (portOf s p) k f = false) (hdone : k.trailerDone = true) :
    serveRead p k f s = respond p (answer (portOf s p) (zeros (readLength f)) .crcFail) (linkEvent p 2 s) := by
  simp [serveRead, hcrc, hdone]

/-- A served read that answers OK. -/
theorem nativeFrame_ok (h : ServesRead s p k f) (hf : classOf (opcodeOf f) = .read) (hn : ∀ o, f ≠ .other o)
    (hr : readFrame p k f s = ⟨.ok, d, t⟩) (hlen : d.length = readLength f) :
    nativeFrame p k f s = respond p (answer (portOf s p) d .ok) t := by
  rw [nativeFrame_read h hf hn, serveRead_ok h.1.2.2 h.2 hr hlen]

/-- A served complete write other than a register write: its outcome is recorded and nothing follows. -/
theorem nativeFrame_recorded (h : ServesWrite s p k f) (hf : classOf (opcodeOf f) = .write) (hwarm : asksWarm f = false)
    (hw : writeFrame p f (respond p .silent s) = ⟨o, t⟩) : nativeFrame p k f s = recordWr p (opcodeOf f) o t := by
  rw [nativeFrame_write h hf, hw]
  simp [hwarm]

end

/-! Settings that leave a frame alone: outside BOOT and RECOVERY the mode refuses none (R95, R125) -/

section
variable {s : State} {p : Port} {k : Link} {a n : Nat} {d : Bytes}


theorem readFrame_memRd (h : Open s) (ha : a < 0x100000000) (hn : n < 0x10000) : readFrame p k (.memRd a n) s = readMem p k a n s := by
  simp [readFrame, h.1, h.2, Nat.mod_eq_of_lt ha, Nat.mod_eq_of_lt hn]

theorem readFrame_winRd (h : Open s) (ha : a < 0x100000000) (hn : n < 0x10000) : readFrame p k (.winRd a n) s = readWindow p k a n s := by
  simp [readFrame, h.1, h.2, Nat.mod_eq_of_lt ha, Nat.mod_eq_of_lt hn]

theorem readFrame_roll (h : Open s) (ha : a < 0x100000000) (hn : n < 0x10000) : readFrame p k (.roll a n) s = readRoll p k a n s := by
  simp [readFrame, h.1, h.2, Nat.mod_eq_of_lt ha, Nat.mod_eq_of_lt hn]

theorem readFrame_status (h : Open s) : readFrame p k .status s = readStatusFrame p k s := by
  simp [readFrame, h.1, h.2]

theorem writeFrame_memWr (h : Open s) (ha : a < 0x100000000) : writeFrame p (.memWr a d) s = frameMemWr p a d s := by
  simp [writeFrame, h.1, h.2, Nat.mod_eq_of_lt ha]

theorem writeFrame_push (h : Open s) (ha : a < 0x100000000) : writeFrame p (.push a d) s = framePush p a d s := by
  simp [writeFrame, h.1, h.2, Nat.mod_eq_of_lt ha]

theorem writeFrame_winWr (h : Open s) (ha : a < 0x100000000) : writeFrame p (.winWr a d) s = frameWinWr p a d s := by
  simp [writeFrame, h.1, h.2, Nat.mod_eq_of_lt ha]

theorem writeFrame_winFetch (h : Open s) (ha : a < 0x100000000) (hn : n < 0x10000) : writeFrame p (.winFetch a n) s = frameWinFetch p a n s := by
  simp [writeFrame, h.1, h.2, Nat.mod_eq_of_lt ha, Nat.mod_eq_of_lt hn]

theorem writeFrame_setLanes (h : Open s) : writeFrame p (.setLanes d) s = frameSetLanes p d s := by
  simp [writeFrame, h.2]

end

/-- Settles O11: every one of the frames is served as a mismatch. -/
theorem laneMismatchChangesNothingElse : Obligations.LaneMismatchChangesNothingElse := by
  intro s p k hdead hsent hxip hcpl c hc
  have hframe (f : NymsyFrame) := congrArg (Host.Outcome.next (φ := Fault) (ρ := Refusal))
    (nativeFrame_mismatch (f := f) hdead hsent hxip hcpl)
  simp only [List.mem_cons, List.not_mem_nil, or_false] at hc
  rcases hc with rfl | rfl | rfl | rfl | rfl | rfl | rfl | rfl | rfl | rfl | rfl | rfl <;> exact hframe _

/-! A wrong request CRC -/

section
variable {s : State} {p : Port} {k : Link} {f : NymsyFrame}

theorem ports_linkEvent (hshape : Shape s) (src : Nat) : (linkEvent p src s).ports.length = 4 :=
  ((keeps_raise p src 0 none (keeps_modPort _ _ (Keeps.refl s))).2.1 hshape).1

theorem response_respond {r : Response} (hp : p < s.ports.length) : (portOf (respond p r s) p).response = r := by
  simp [respond, hp]

theorem portOf_respond_ne (s : State) {p q : Nat} (r : Response) (h : p ≠ q) : portOf (respond p r s) q = portOf s q :=
  portOf_modPort_ne s _ h

theorem crcOk_wrong (hen : (portOf s p).crcEn = true) (hcrc : k.crc ≠ some (frameCrc f)) : crcOk (portOf s p) k f = false := by
  simp [crcOk, hen, hcrc]

/-- The octets an answer of `n` zeros drives, with the pad of R53. -/
theorem answer_zeros {x : PortState} (hen : x.crcEn = true) (n : Nat) (t : Trailer) :
    ∃ d, answer x (zeros n) t = .read d (some (crc16 d)) t ∧ d.all (· == 0) = true
      ∧ d.length = n + (if bit x.lanes.toNat 10 then n % 2 else 0) := by
  refine ⟨_, by rw [answer, if_pos hen], ?_, ?_⟩
  · split <;> simp [zeros]
  · rcases Nat.mod_two_eq_zero_or_one n with h | h <;> cases bit x.lanes.toNat 10 <;> simp [zeros, h]

/-- A read frame with a wrong CRC answers zeros, their CRC and CRC_FAIL (R71). -/
theorem nativeFrame_crcFail (hshape : Shape s) (hears : Hears s p k) (hxip : (portOf s p).xip = false) (hdone : k.trailerDone = true)
    (hen : (portOf s p).crcEn = true) (hf : classOf (opcodeOf f) = .read) (hn : ∀ o, f ≠ .other o) (hcrc : k.crc ≠ some (frameCrc f)) :
    ∃ d, (portOf (nativeFrame p k f s) p).response = .read d (some (crc16 d)) .crcFail ∧ d.all (· == 0) = true
      ∧ d.length = readLength f + (if bit (portOf s p).lanes.toNat 10 then readLength f % 2 else 0) := by
  obtain ⟨hdead, hsent, hcpl⟩ := hears
  obtain ⟨d, hd, hzero, hlen⟩ := answer_zeros hen (readLength f) .crcFail
  refine ⟨d, ?_, hzero, hlen⟩
  rw [nativeFrame_logic hdead hsent hxip, serveNymsy_read hcpl hf hn, serveRead_crcFail (crcOk_wrong hen hcrc) hdone,
    response_respond (by rw [ports_linkEvent hshape]; exact p.isLt), hd]

end

/-- Settles O12: each of the five reads answers as a read with a wrong CRC does. -/
theorem wrongRequestCrcAnswersCrcFail : Obligations.WrongRequestCrcAnswersCrcFail := by
  intro s p k a n hshape hears hxip hdone hen hn c f m hc hcrc
  have hframe (hf : classOf (opcodeOf f) = .read) (hother : ∀ o, f ≠ .other o) :=
    nativeFrame_crcFail hshape hears hxip hdone hen hf hother hcrc
  have hmod : n % 0x10000 = n := Nat.mod_eq_of_lt hn
  simp only [List.mem_cons, List.not_mem_nil, or_false, Prod.mk.injEq] at hc
  rcases hc with ⟨rfl, rfl, rfl⟩ | ⟨rfl, rfl, rfl⟩ | ⟨rfl, rfl, rfl⟩ | ⟨rfl, rfl, rfl⟩ | ⟨rfl, rfl, rfl⟩
  all_goals
    obtain ⟨d, hd, hzero, hlen⟩ := hframe rfl (by simp)
    exact ⟨_, d, rfl, hd, hzero, by simpa [readLength, hmod] using hlen⟩

/-! Reads -/

section
variable {s : State} {p : Port} {k : Link} {a n : Nat}

/-- A Pantry range whose banks are ON and whose words hold no error is read in time (R60, R61). -/
theorem readPantry_ok {x : PortState} (hclean : Clean s) (hlow : a < 0x10000000) (hbanks : (banksOf a n).all (bankOn s) = true)
    (hcov : covers x k 80 = true) : readPantry x k a n s = ⟨.ok, memRead 0 s.mem.pantry a n, s⟩ := by
  have hl : inLarder a = false := by simp [inLarder]; omega
  simp [readPantry, hbanks, hclean, hcov, readArena, hl]

theorem readMem_pantry (hclean : Clean s) (h1 : 1 ≤ n) (h2 : n ≤ 4096) (hlow : a < 0x10000000) (hgrant : arenaGranted s p a n = true)
    (hbanks : (banksOf a n).all (bankOn s) = true) (hcov : covers (portOf s p) k 80 = true) :
    readMem p k a n s = ⟨.ok, memRead 0 s.mem.pantry a n, s⟩ := by
  have hl : inLarder a = false := by simp [inLarder]; omega
  have hn : ¬(n = 0 ∨ 4096 < n ∨ arenaGranted s p a n = false) := by simp [hgrant]; omega
  rw [readMem, if_neg hn, hl]
  exact readPantry_ok hclean hlow hbanks hcov

/-- A window range that is served (R62). -/
theorem readWindow_ok {o : Nat} {t : State} {d : Bytes} (h1 : 1 ≤ n) (h2 : n ≤ 4096) (hin : o + n ≤ 0x10000000)
    (hgrant : winGranted s p false o n = true) (hwait : winHold (portOf s p) = true ∨ covers (portOf s p) k 80 = true)
    (hread : windowRead p o n (k.ready && winHold (portOf s p)) s = (t, some d)) :
    readWindow p k (0x20000000 + o) n s = ⟨.ok, d, t⟩ := by
  have ho : 0x20000000 + o - 0x20000000 = o := by omega
  have hw : inWindow (0x20000000 + o) n = true := by simp [inWindow]; omega
  have hn : ¬(n = 0 ∨ 4096 < n ∨ inWindow (0x20000000 + o) n = false ∨ winGranted s p false o n = false) := by simp [hgrant, hw]; omega
  have hh : ¬((!winHold (portOf s p) && !covers (portOf s p) k 80) = true) := by rcases hwait with h | h <;> simp [h]
  simp only [readWindow, ho, if_neg hn, if_neg hh, hread]

theorem readStatusFrame_ok (hcov : covers (portOf s p) k 30 = true) :
    readStatusFrame p k s = ⟨.ok, statusBytes s p, modPort s p (fun x => { x with linkEvt := false, fetchDone := false })⟩ := by
  simp [readStatusFrame, readFixed, hcov]

theorem statusBytes_length : (statusBytes s p).length = 9 := by simp [statusBytes, toLe_length]

/-- STATUS read to the end of its trailer, natively or after the escape (R68, R74). -/
theorem serveNymsy_status (hcpl : k.cplOk = true) (hcrc : crcOk (portOf s p) k .status = true) (hdone : k.trailerDone = true) (ho : Open s)
    (hcov : covers (portOf s p) k 30 = true) :
    serveNymsy p k .status s = respond p (answer (portOf s p) (statusBytes s p) .ok)
      (modPort s p (fun x => { x with linkEvt := false, fetchDone := false })) := by
  rw [serveNymsy_read hcpl rfl (by simp)]
  exact serveRead_ok hcrc hdone ((readFrame_status ho).trans (readStatusFrame_ok hcov)) statusBytes_length

/-- A ROLL of leaf words (R56). -/
theorem readRoll_leaf {w : Nat} (hmode : s.boot.mode ≠ .recovery) (h4 : 4 ≤ n) (h256 : n ≤ 256) (hn : n % 4 = 0) (hw : w + n / 4 ≤ 2048)
    (hcov : covers (portOf s p) k 30 = true) :
    readRoll p k w n s = ⟨.ok, (List.range (n / 4)).flatMap (fun i => toLe 4 (leafSeen s p (w + i))), s⟩ := by
  have hlt : w < 2048 := by omega
  have hbit : bit w 31 = false := Nat.testBit_lt_two_pow (by omega)
  have hmod : w % 2048 = w := Nat.mod_eq_of_lt hlt
  have hsel : w % 0x80000000 = w := Nat.mod_eq_of_lt (by omega)
  have hok : rollOk s w n = true := by simp [rollOk, hbit, hmod, hsel, h4, h256, hn, hw, hmode]
  simp [readRoll, hok, readFixed, hcov, rollWords, hbit, hmod]

end

/-- Settles O16: the frame's read is that of a Pantry range that is ready. -/
theorem memRdReturnsThePantry : Obligations.MemRdReturnsThePantry := by
  intro s p k a n h ho hclean h1 h2 hin hgrant hbanks hcov
  have hr : readFrame p k (.memRd a n) s = ⟨.ok, memRead 0 s.mem.pantry a n, s⟩ :=
    (readFrame_memRd ho (by omega) (by omega)).trans (readMem_pantry hclean h1 h2 (by omega) hgrant hbanks hcov)
  refine congrArg Host.Outcome.next (nativeFrame_ok h rfl (by simp) hr ?_)
  rw [memRead_length, readLength, Nat.mod_eq_of_lt (by omega)]

/-- Settles O21: the two reads and what they return. -/
theorem statusAndRollAnswer : Obligations.StatusAndRollAnswer := by
  intro s p k ho hcov
  refine ⟨fun h => ?_, fun w n h h4 h256 hn hw => ?_⟩
  · obtain ⟨⟨hears, hxip, hcrc⟩, hdone⟩ := h
    refine congrArg Host.Outcome.next ?_
    rw [nativeFrame_logic hears.1 hears.2.1 hxip]
    exact serveNymsy_status hears.2.2 hcrc hdone ho hcov
  · have hr := (readFrame_roll (p := p) (k := k) ho (by omega) (by omega)).trans (readRoll_leaf (w := w) ho.2 h4 h256 hn hw hcov)
    refine congrArg Host.Outcome.next (nativeFrame_ok h rfl (by simp) hr ?_)
    rw [words_length, readLength, Nat.mod_eq_of_lt (by omega)]
    omega

/-! Writes of the Pantry -/

section
variable {s : State} {p : Port} {a : Nat} {d : Bytes}

/-- Waking banks changes power domains alone (R61). -/
theorem foldl_wakeBank_frame (f : Nat → Nat) (l : List Nat) (s : State) :
    ∃ w, l.foldl (fun s i => wakeBank s (f i)) s = { s with power := w } := by
  induction l generalizing s with
  | nil => exact ⟨_, rfl⟩
  | cons i l ih =>
    obtain ⟨w, hw⟩ := ih (wakeBank s (f i))
    exact ⟨w, hw⟩

/-- Octets put where no error waits and no unit is poisoned: the Pantry holds them; of the rest only power domains and what errors
waited for a write may change (R371). -/
theorem arenaPut_clean (h : Clean s) : ∃ w l b, arenaPut s a d =
    { s with power := w, mem := { s.mem with pantry := memWrite 0 s.mem.pantry a d, latent := l, writeback := b } } := by
  obtain ⟨w, hw⟩ := foldl_wakeBank_frame (fun i => min (bankOf (a + i * 0x00200000)) (bankOf (a + d.length - 1)))
    (List.range (d.length / 0x00200000 + 2)) s
  simp only [arenaPut, touchEdges_clean h, h.2.2, List.filter_nil, List.foldl_nil, hw]
  exact ⟨w, _, _, by simp only [settleWords, h.2.2, List.filter_nil]; rw [← h.2.2]⟩

/-- A write without DROP_LAST (R51). -/
theorem dropLast_none (ha : a < 0x80000000) : dropLast a d = (a, d) := by
  have hbit : bit a 31 = false := Nat.testBit_lt_two_pow ha
  simp [dropLast, hbit, Nat.mod_eq_of_lt ha]

theorem frameMemWr_pantry {p : Nat} (ha : a < 0x10000000) (hd : d ≠ []) (hgrant : arenaGranted s p a d.length = true) :
    frameMemWr p a d s = ⟨wrOk, arenaPut s a d⟩ := by
  have hl : inLarder a = false := by simp [inLarder]; omega
  simp [frameMemWr, dropLast_none (show a < 0x80000000 by omega), hd, hgrant, hl, writeArena]

/-- What a port drives is no part of its grants. -/
theorem arenaGranted_respond (s : State) (p q : Nat) (r : Response) (a n : Nat) :
    arenaGranted (respond p r s) q a n = arenaGranted s q a n := by
  have h : arenaAt (respond p r s) q = arenaAt s q := by
    funext u
    unfold arenaAt
    rw [respond_grant]
    rfl
  rw [arenaGranted, h, arenaGranted]

theorem ringGranted_respond (s : State) (p q : Nat) (r : Response) (i : Nat) : ringGranted (respond p r s) q i = ringGranted s q i := by
  rw [ringGranted, respond_grant, ringGranted]

theorem whole_memWr {k : Link} (h : Whole s p k (.memWr a d)) : d ≠ [] := by
  rintro rfl
  simp [Whole, writeComplete, unitsOk] at h

end

/-- Settles O17: the write is recorded after its octets stand in the Pantry. -/
theorem memWrStoresItsBytes : Obligations.MemWrStoresItsBytes := by
  intro s p k a d hshape h ho hclean hin hgrant
  have hd : d ≠ [] := whole_memWr h.2
  have hpos : 0 < d.length := List.length_pos_iff.2 hd
  have hw := (writeFrame_memWr (p := p) (s := respond p .silent s) (a := a) (d := d) ho (by omega)).trans
    (frameMemWr_pantry (by omega) hd ((arenaGranted_respond s p p .silent a d.length).trans hgrant))
  obtain ⟨w, l, b, hput⟩ := arenaPut_clean (s := respond p .silent s) (a := a) (d := d) hclean
  rw [hput] at hw
  have hp : p.val < s.ports.length := by rw [hshape.1]; exact p.isLt
  refine ⟨_, congrArg Host.Outcome.next (nativeFrame_recorded h rfl rfl hw), fun i hi => ?_, fun c hc => memWrite_other hc, rfl, ?_, ?_, ?_,
    fun q hq => ?_, rfl, rfl, rfl, rfl, rfl, rfl⟩
  · refine (memWrite_get 0 d s.mem.pantry a (a + i)).trans ?_
    rw [if_pos (by omega), Nat.add_sub_cancel_left]
  · simp [recordWr, respond, modPort, portOf, hp]
  · simp [recordWr, respond, modPort, portOf, hp, opcodeOf]
  · simp [recordWr, respond, modPort, portOf, hp]
  · exact (portOf_modPort_ne _ _ (Ne.symm hq)).trans (portOf_respond_ne s .silent (Ne.symm hq))

/-- Settles O18: a push is buffered, or finds the buffer full. -/
theorem pushIsBufferedOrBusy : Obligations.PushIsBufferedOrBusy := by
  intro s p k a d h ho hmode ha hgrant
  have hgate : ¬((respond p .silent s).boot.mode = .quarantine ∨ 0x10000 ≤ a ∨ ringGranted (respond p .silent s) p a = false) := by
    simp only [ringGranted_respond, hgrant, not_or]
    exact ⟨hmode, by omega, by simp⟩
  have hframe := writeFrame_push (p := p) (s := respond p .silent s) (a := a) (d := d) ho (by omega)
  refine ⟨fun hroom => ?_, fun hfull => ?_⟩
  · have hb : ¬(8 ≤ (portOf (respond p .silent s) p).pushBuf.length) := by rw [respond_pushBuf]; omega
    rw [framePush, if_neg hgate, if_neg hb] at hframe
    exact congrArg Host.Outcome.next (nativeFrame_recorded h rfl rfl hframe)
  · have hb : 8 ≤ (portOf (respond p .silent s) p).pushBuf.length := by rw [respond_pushBuf]; exact hfull
    rw [framePush, if_neg hgate, if_pos hb] at hframe
    exact congrArg Host.Outcome.next (nativeFrame_recorded h rfl rfl hframe)

/-! The flash window -/

section
variable {s : State} {p : Port} {o n : Nat} {d : Bytes}

theorem measured_respond (s : State) (p : Nat) (r : Response) (a n : Nat) : measured (respond p r s) a n = measured s a n := rfl

theorem inWindow_add (h : o + n ≤ 0x10000000) : inWindow (0x20000000 + o) n = true := by simp [inWindow]; omega

theorem frameWinFetch_starts (hmode : s.boot.mode ≠ .quarantine) (hrec : s.boot.mode ≠ .recovery) (h1 : 1 ≤ n) (h2 : n ≤ 4096)
    (hin : o + n ≤ 0x10000000) (hgrant : winGranted s p false o n = true) (hidle : (portOf s p).fetch = none) :
    frameWinFetch p (0x20000000 + o) n s = ⟨wrOk, queueWork (.line (o / 256 * 256) (.fetch p))
      (modPort s p (fun x => { x with fetch := some { first := o, next := o / 256 * 256, stop := o + n } }))⟩ := by
  have hgate : ¬(s.boot.mode = .quarantine ∨ s.boot.mode = .recovery ∨ n = 0 ∨ 4096 < n ∨ inWindow (0x20000000 + o) n = false
      ∨ winGranted s p false o n = false) := by
    simp [hmode, hrec, inWindow_add hin, hgrant]; omega
  simp [frameWinFetch, hgate, hidle]

/-- A window write of granted bytes, up to the lock of measured windows and the room in the queue (R55, R255, R395). -/
theorem frameWinWr_granted {p : Nat} (hmode : s.boot.mode ≠ .quarantine) (hrec : s.boot.mode ≠ .recovery) (hd : d ≠ [])
    (hin : o + d.length ≤ 0x10000000) (hgrant : winGranted s p true o d.length = true) :
    frameWinWr p (0x20000000 + o) d s =
      if measured s o d.length then writeDenied p none (raise 18 3 (lockedWindow s o d.length) none s)
      else if 4 ≤ (portOf s p).winQueue.length then writeDenied p (some 4) s
      else ⟨wrOk, enqueueOp p .winWr o d s⟩ := by
  have hpos : 0 < d.length := List.length_pos_iff.2 hd
  simp [frameWinWr, dropLast_none (show 0x20000000 + o < 0x80000000 by omega), hmode, hrec, hd, inWindow_add hin, hgrant]

end

/-- Settles O19: a read that the window serves, and a fetch that starts. -/
theorem windowReadAndFetch : Obligations.WindowReadAndFetch := by
  intro s p k o n ho h1 h2 hin hgrant
  refine ⟨fun h hwait t d hread hlen => ?_, fun h hmode hidle => ?_⟩
  · have hr := (readFrame_winRd (p := p) (k := k) ho (by omega) (by omega)).trans (readWindow_ok h1 h2 hin hgrant hwait hread)
    refine congrArg Host.Outcome.next (nativeFrame_ok h rfl (by simp) hr ?_)
    rw [hlen, readLength, Nat.mod_eq_of_lt (by omega)]
  · have hw := (writeFrame_winFetch (p := p) (s := respond p .silent s) ho (by omega) (by omega)).trans
      (frameWinFetch_starts hmode ho.2 h1 h2 hin ((winGranted_respond s p p .silent false o n).trans hgrant)
        ((respond_fetch s p p .silent).trans hidle))
    exact congrArg Host.Outcome.next (nativeFrame_recorded h rfl rfl hw)

/-- Settles O20: a granted write is denied for a measured window, else it joins the queue. -/
theorem winWrJoinsTheWriteQueue : Obligations.WinWrJoinsTheWriteQueue := by
  intro s p k o d ho hmode h h1 hpage hin hgrant hroom
  have hd : d ≠ [] := List.ne_nil_of_length_pos h1
  have hw := (writeFrame_winWr (p := p) (s := respond p .silent s) (a := 0x20000000 + o) (d := d) ho (by omega)).trans
    (frameWinWr_granted hmode ho.2 hd hin ((winGranted_respond s p p .silent true o d.length).trans hgrant))
  have hqueue : ¬(4 ≤ (portOf (respond p .silent s) p).winQueue.length) := by rw [respond_winQueue]; omega
  rw [measured_respond] at hw
  refine ⟨fun hfree => ?_, fun hlock => ?_⟩
  · rw [if_neg (by simp [hfree]), if_neg hqueue] at hw
    exact congrArg Host.Outcome.next (nativeFrame_recorded h rfl rfl hw)
  · rw [if_pos hlock] at hw
    exact congrArg Host.Outcome.next (nativeFrame_recorded h rfl rfl hw)

/-! Lanes -/

section
variable {s : State} {p : Port} {k : Link}

theorem frameSetLanes_nymsy {p v : Nat} (hxip : (portOf s p).xip = false) (hv : v < 2 ^ 32) :
    frameSetLanes p (toLe 4 v) s = ⟨wrOk, modPort s p (fun x => { x with lanes := BitVec.ofNat 32 (v &&& 0x777) })⟩ := by
  simp [frameSetLanes, writeLanes, acceptIf, accept, hxip, leNat_toLe4 hv]

theorem nativeFrame_nop (h : Serves s p k .nop) : nativeFrame p k .nop s = respond p .silent s := by
  obtain ⟨hears, hxip, hcrc⟩ := h
  have hcrc' : crcOk (portOf (respond p .silent s) p) k .nop = true := by rw [crcOk, respond_crcEn]; exact hcrc
  rw [nativeFrame_logic hears.1 hears.2.1 hxip]
  unfold serveNymsy
  rw [if_neg (by simp [hears.2.2])]
  exact if_pos hcrc'

/-- A domain that is ON and not closed needs no wake. -/
theorem requestWake_on {i : Nat} (hon : (pdOf s i).st = .on) (hcl : (pdOf s i).closed = false) : requestWake i s = s := by
  unfold requestWake
  simp [hon, hcl]

end

/-- Settles O22: SET_LANES, NOP and the lane reset. -/
theorem laneFramesReconfigure : Obligations.LaneFramesReconfigure := by
  intro s p k
  refine ⟨fun v h ho => ?_, fun h => congrArg Host.Outcome.next (nativeFrame_nop h), fun hpor hio hon hcl => ?_⟩
  · have hxip : (portOf (respond p .silent s) p).xip = false := (respond_xip s p p .silent).trans h.1.2.1
    have hw := (writeFrame_setLanes (p := p) (s := respond p .silent s) ho).trans (frameSetLanes_nymsy hxip v.isLt)
    exact congrArg Host.Outcome.next (nativeFrame_recorded h rfl rfl hw)
  · have hwake : requestWake (44 + p) (respond p .silent s) = respond p .silent s := requestWake_on hon hcl
    refine congrArg Host.Outcome.next ?_
    rw [laneReset, if_neg (by simp [hpor, hio]), hwake]

end Sys2Proof.Proofs
end

section
/-! PROOFS. Events leave the links alone: whatever the severity of an event, its reaction changes no port and nothing of the memory port
(R135, R413, R449). -/

namespace Sys2Proof.Proofs

open Sys2Proof.Machine Sys2Proof.Safety Sys2Proof.Laws

/-- From `s` to `t` the ports and the memory port are as they were. -/
def LinksStand (s t : State) : Prop := t.ports = s.ports ∧ t.mp = s.mp

section
variable {s0 s t : State}

theorem LinksStand.refl (s : State) : LinksStand s s := ⟨rfl, rfl⟩
theorem LinksStand.trans {u : State} (h : LinksStand s t) (k : LinksStand t u) : LinksStand s u := ⟨k.1.trans h.1, k.2.trans h.2⟩
theorem LinksStand.portOf (h : LinksStand s t) (p : Nat) : portOf t p = portOf s p := by rw [Machine.portOf, h.1, Machine.portOf]

/-- A change of what `LinksStand` does not speak of. -/
theorem linksStand_aside (hs : LinksStand s0 s) (hports : t.ports = s.ports) (hmp : t.mp = s.mp) : LinksStand s0 t := hs.trans ⟨hports, hmp⟩

theorem linksStand_ite {c : Prop} [Decidable c] (hs : LinksStand s0 s) (ht : LinksStand s0 t) : LinksStand s0 (if c then s else t) := by
  split
  · exact hs
  · exact ht

theorem linksStand_foldl {β : Type} {f : State → β → State} {l : List β} (hf : ∀ t b, LinksStand s0 t → LinksStand s0 (f t b))
    (hs : LinksStand s0 s) : LinksStand s0 (l.foldl f s) := by
  induction l generalizing s with
  | nil => exact hs
  | cons b l ih => exact ih (hf s b hs)

/-! Checkpoints and erasure -/

theorem linksStand_saveCounters (d : Nat) (hs : LinksStand s0 s) : LinksStand s0 (saveCounters d s) := by
  unfold saveCounters
  split
  · exact linksStand_ite (linksStand_aside hs rfl rfl) (linksStand_aside hs rfl rfl)
  · exact hs

theorem linksStand_lowerMarks (hs : LinksStand s0 s) : LinksStand s0 (lowerMarks s) :=
  linksStand_foldl (fun _ _ ht => linksStand_ite (linksStand_aside ht rfl rfl) ht) hs

theorem linksStand_checkpoint (hs : LinksStand s0 s) : LinksStand s0 (checkpoint s) := by
  have hsave := linksStand_foldl (l := s.live) (fun _ c ht => linksStand_saveCounters c.1 ht) hs
  exact linksStand_aside (linksStand_lowerMarks hsave) rfl rfl

theorem linksStand_recordRestart (w : Nat) (hs : LinksStand s0 s) : LinksStand s0 (recordRestart s w) :=
  linksStand_ite (linksStand_aside hs rfl rfl) hs

theorem linksStand_eraseEngines (hs : LinksStand s0 s) : LinksStand s0 (eraseEngines s) := by
  unfold eraseEngines
  dsimp only
  exact linksStand_foldl (fun _ w ht => linksStand_recordRestart w ht) (linksStand_aside hs rfl rfl)

theorem linksStand_eraseWork (hs : LinksStand s0 s) : LinksStand s0 (eraseWork s) := by
  have halive : LinksStand s0 (markAlive s) := linksStand_ite (linksStand_aside hs rfl rfl) hs
  have herased := linksStand_eraseEngines halive
  have hempty : LinksStand s0 { emptyStore (eraseEngines (markAlive s)) with loads := [] } := linksStand_aside herased rfl rfl
  exact linksStand_ite hempty (linksStand_checkpoint hempty)

/-! Hampers that leave -/

theorem linksStand_settlePart (r : Nat) (e : Bytes) (d : Done) (hs : LinksStand s0 s) : LinksStand s0 (settlePart r e d s) :=
  linksStand_ite (linksStand_aside hs rfl rfl) (linksStand_ite (linksStand_aside hs rfl rfl) hs)

theorem linksStand_countMeter (d k n : Nat) (hs : LinksStand s0 s) : LinksStand s0 (countMeter d k n s) := by
  have hlive : LinksStand s0 { s with live := assocPut s.live d ((countersOf s d).set k ((countersOf s d).getD k 0 + n)) } :=
    linksStand_aside hs rfl rfl
  exact linksStand_ite hs (linksStand_ite (linksStand_saveCounters d hlive) hlive)

theorem linksStand_completeEntry (x : Hamper) (e : TakenEntry) (d : Done) (hs : LinksStand s0 s) : LinksStand s0 (completeEntry s x e d) := by
  have hwrite {u : State} (r p a : Nat) (b : Bytes) (hu : LinksStand s0 u) : LinksStand s0 (writeCompletion u r p a b d) :=
    linksStand_ite (linksStand_aside hu rfl rfl) hu
  unfold completeEntry
  refine hwrite _ _ _ _ ?_
  split
  · exact linksStand_ite (linksStand_countMeter _ _ _ hs) hs
  · exact hs

/-- The completions of a hamper that leaves change no link (`completed`), nor does its leaving. -/
theorem linksStand_completed (x : Hamper) (rest : Done) (hs : LinksStand s0 s) : LinksStand s0 (completed s x rest) := by
  have hparts := linksStand_foldl (l := x.entries)
    (fun (t : State) (e : TakenEntry) ht => linksStand_ite (c := e.done.isNone = true) (linksStand_settlePart x.ring e.bytes rest ht) ht) hs
  have hentries := linksStand_foldl (l := x.entries) (fun t e ht => linksStand_completeEntry x e (e.done.getD rest) ht) hparts
  exact linksStand_aside hentries rfl rfl

theorem linksStand_closeHamper (x : Hamper) (rest : Done) (hs : LinksStand s0 s) : LinksStand s0 (closeHamper s x rest) := by
  have hclaim {u : State} (p h : Nat) (hu : LinksStand s0 u) : LinksStand s0 (nextClaim u p h) := linksStand_ite (linksStand_aside hu rfl rfl) hu
  have hdrain {u : State} (r : Nat) (hu : LinksStand s0 u) : LinksStand s0 (endDrain u r) := linksStand_ite (linksStand_aside hu rfl rfl) hu
  have hdone := linksStand_completed x rest hs
  exact hdrain _ (hclaim _ _ (linksStand_aside hdone rfl rfl))

/-! Reactions -/

theorem linksStand_enterQuarantine (b src : Nat) (hs : LinksStand s0 s) : LinksStand s0 (enterQuarantine b src s) := by
  have hflag : LinksStand s0 (flagQuarantine b src s) := linksStand_aside hs rfl rfl
  by_cases hm : s.boot.mode = .boot
  · rw [enterQuarantine_boot b src hm]
    exact linksStand_aside hflag rfl rfl
  · have hclosed : LinksStand s0 (workClosed b src s) :=
      linksStand_foldl (fun _ _ ht => linksStand_closeHamper _ _ ht) (linksStand_eraseWork hflag)
    rw [enterQuarantine_running b src hm]
    exact linksStand_aside hclosed rfl rfl

theorem linksStand_reactBase (b src sev : Nat) (dom : Option Nat) (hs : LinksStand s0 s) : LinksStand s0 (reactBase b src sev dom s) := by
  have hdom (d : Nat) : LinksStand s0 (if domExists s d then modDom s d (addCause 1) else s) := linksStand_ite (linksStand_aside hs rfl rfl) hs
  have hsuspend (d : Nat) : LinksStand s0 (suspendByEvent b src d s) := linksStand_aside (hdom d) rfl rfl
  unfold reactBase
  split
  · exact linksStand_enterQuarantine b src hs
  · split
    · exact linksStand_ite (hsuspend _) hs
    · exact hs

theorem linksStand_captureSev (b src detail sev : Nat) (dom : Option Nat) (hs : LinksStand s0 s) :
    LinksStand s0 (captureSev b src detail sev dom s) := by
  have hrec : LinksStand s0 (recordOnly b src detail sev dom s) := linksStand_aside hs rfl rfl
  exact linksStand_ite hrec (linksStand_reactBase b src sev dom hrec)

theorem linksStand_noteDegraded (hs : LinksStand s0 s) : LinksStand s0 (noteDegraded s) := by
  have hd : LinksStand s0 { s with power := { s.power with degraded := true } } := linksStand_aside hs rfl rfl
  exact linksStand_ite hs (linksStand_captureSev _ _ _ _ _ hd)

theorem linksStand_retire (i cause : Nat) (hs : LinksStand s0 s) : LinksStand s0 (retire i cause s) := by
  have hlog (kind index : Nat) : LinksStand s0 (logRetirement s kind index cause) := linksStand_ite (linksStand_aside hs rfl rfl) hs
  have hoff (kind index : Nat) (f : Pd → Pd) : LinksStand s0 (modPd (logRetirement s kind index cause) i f) :=
    linksStand_aside (hlog kind index) rfl rfl
  have hnote {u : State} (hu : LinksStand s0 u) : LinksStand s0 (noteDegraded (capture 16 2 i none u)) :=
    linksStand_noteDegraded (linksStand_captureSev _ _ _ _ _ hu)
  exact linksStand_ite hs (linksStand_ite (linksStand_captureSev _ _ _ _ _ (hnote (hoff _ _ _))) (hnote (hoff _ _ _)))

theorem linksStand_fence (i : Nat) (hs : LinksStand s0 s) : LinksStand s0 (fence i s) := by
  have hpd (f : Pd → Pd) : LinksStand s0 (modPd s i f) := linksStand_aside hs rfl rfl
  exact linksStand_ite hs (linksStand_ite (linksStand_retire i 4 (hpd _)) (hpd _))

/-- Raising an event changes no port and nothing of the memory port. -/
theorem linksStand_raise (b src detail : Nat) (dom : Option Nat) (hs : LinksStand s0 s) : LinksStand s0 (raise b src detail dom s) := by
  have hcapture := linksStand_captureSev b src detail (sevOf s b src) dom hs
  refine linksStand_ite hcapture ?_
  unfold reactMajor
  split
  · split
    · exact linksStand_fence _ hcapture
    · exact hcapture
  · exact hcapture

end

end Sys2Proof.Proofs
end

section
/-! PROOFS. The window from the ports' side: what reading it leaves of the ports (R62, R63, R252, R392), and how starting a flash write
changes the write queues alone (R395, R396). -/

namespace Sys2Proof.Proofs

open Sys2Proof.Machine Sys2Proof.Safety Sys2Proof.Laws

section
variable {s0 s t : State}

/-! Reading the window -/

/-- A wake changes power domains and the count of wakes alone (R436, R441). -/
theorem requestWake_frame (i : Nat) (s : State) : ∃ w, requestWake i s = { s with power := w } := by
  unfold requestWake
  dsimp only
  split
  · exact ⟨_, rfl⟩
  · split
    · exact ⟨_, rfl⟩
    · split
      · exact ⟨_, rfl⟩
      · exact ⟨_, rfl⟩
      all_goals
        split
        · exact ⟨_, rfl⟩
        · split
          · exact ⟨_, rfl⟩
          · split <;> exact ⟨_, rfl⟩

theorem linksStand_requestWake (i : Nat) (hs : LinksStand s0 s) : LinksStand s0 (requestWake i s) := by
  obtain ⟨w, hw⟩ := requestWake_frame i s
  rw [hw]
  exact linksStand_aside hs rfl rfl

theorem linksStand_finishWindow (w : Nat) (hs : LinksStand s0 s) : LinksStand s0 (finishWindow w s) := by
  refine linksStand_ite (linksStand_raise _ _ _ _ ?_) hs
  exact linksStand_aside hs rfl rfl

theorem linksStand_feedWindow (w a : Nat) (b : Bytes) (hs : LinksStand s0 s) : LinksStand s0 (feedWindow w a b s) := by
  refine linksStand_ite (linksStand_finishWindow w ?_) hs
  exact linksStand_aside hs rfl rfl

theorem linksStand_armWindow (w a n : Nat) (hs : LinksStand s0 s) : LinksStand s0 (armWindow w a n s) :=
  linksStand_ite (linksStand_aside hs rfl rfl) hs

/-- What the Tongs do with bytes that are read changes no link. -/
theorem linksStand_tongsRead (a : Nat) (b : Bytes) (hs : LinksStand s0 s) : LinksStand s0 (tongsRead a b s) :=
  linksStand_foldl (fun _ w ht => linksStand_feedWindow w a b (linksStand_armWindow w a b.length ht)) hs

theorem foldl_ports {β : Type} {f : State → β → State} (hf : ∀ s b, (f s b).ports = s.ports) (l : List β) (s : State) :
    (l.foldl f s).ports = s.ports := by
  induction l generalizing s with
  | nil => rfl
  | cons b l ih => exact (ih _).trans (hf s b)

theorem beginNext_ports (s : State) : (beginNext s).ports = s.ports := by unfold beginNext; split <;> rfl

theorem queueWork_ports (w : MpWork) (s : State) : (queueWork w s).ports = s.ports := by
  rw [queueWork, beginNext_ports, (linksStand_requestWake 48 (LinksStand.refl _)).1]
  split <;> rfl

theorem fillLine_ports (u : Nat) (xip : Bool) (s : State) : (fillLine u xip s).ports = s.ports := by
  unfold fillLine
  dsimp only
  split
  · rfl
  · split
    · rfl
    · split <;> rfl

theorem queuePrefetch_ports (p : Port) (u : Nat) (s : State) : (queuePrefetch p u s).ports = s.ports := by
  unfold queuePrefetch
  split
  · split
    · refine foldl_ports (fun s i => ?_) _ s
      dsimp only
      split
      · exact queueWork_ports _ s
      · rfl
    · rfl
  · rfl

theorem queueMisses_ports (p : Port) (a n : Nat) (s : State) : (queueMisses p a n s).ports = s.ports := by
  refine foldl_ports (fun s u => ?_) _ s
  split
  · rfl
  · exact queueWork_ports _ s

/-- The window after the lines of a read are filled and prefetches queued (R391, R392). -/
def linesRead (p : Port) (a n : Nat) (s : State) : State :=
  (linesOf a n).foldl (fun t u => queuePrefetch p u (fillLine u (portOf s p).xip t)) s

theorem linesRead_ports (p : Port) (a n : Nat) (s : State) : (linesRead p a n s).ports = s.ports :=
  foldl_ports (fun t u => (queuePrefetch_ports p u _).trans (fillLine_ports u _ t)) _ s

/-- A window read that is served, and one that is not (R62, R63). -/
theorem windowRead_eq (p : Port) (a n : Nat) (ready : Bool) (s : State) :
    windowRead p a n ready s = if (allCached s a n || (ready && mpReady s)) && !xipBlocked s a n then
      (tongsRead a (windowBytes (linesRead p a n s) a n) (linesRead p a n s), some (windowBytes (linesRead p a n s) a n))
    else (queueMisses p a n s, none) := rfl

/-- A window read changes no port (R62, R63). -/
theorem windowRead_ports (p : Port) (a n : Nat) (ready : Bool) (s : State) : (windowRead p a n ready s).1.ports = s.ports := by
  rw [windowRead_eq]
  split
  · have htongs := linksStand_tongsRead a (windowBytes (linesRead p a n s) a n) (LinksStand.refl (linesRead p a n s))
    dsimp only
    rw [htongs.1, linesRead_ports]
  · exact queueMisses_ports p a n s

theorem readPieces_ports (p : Port) (ready : Bool) (l : List (Nat × Nat)) (got : Bytes) (s : State) :
    (readPieces p ready l got s).1.ports = s.ports := by
  induction l generalizing got s with
  | nil => rfl
  | cons c l ih =>
    obtain ⟨a, n⟩ := c
    have hread := windowRead_ports p a n ready s
    unfold readPieces
    split
    · exact ih _ s
    · split
      · next t d hw => rw [hw] at hread; exact (ih _ t).trans hread
      · next t hw => rw [hw] at hread; exact hread

/-! The pieces of a range -/

/-- The octets of a range up to the start of a line, piece by piece. -/
theorem sum_pieces (a n j : Nat) : ((List.range j).map (fun i => min (a + n) ((a / 256 + i) * 256 + 256) - max a ((a / 256 + i) * 256))).sum =
    min (a + n) ((a / 256 + j) * 256) - a := by
  induction j with
  | zero => simp; omega
  | succ j ih =>
    rw [List.range_succ, List.map_append, List.sum_append, ih]
    simp only [List.map_cons, List.map_nil, List.sum_cons, List.sum_nil]
    omega

/-- The pieces of a range hold as many octets as the range. -/
theorem linePieces_total (a n : Nat) : ((linePieces a n).map (·.2)).sum = n := by
  unfold linePieces linesOf
  split
  · next h => simp [h]
  · rw [List.map_map, List.map_map]
    refine (sum_pieces a n _).trans ?_
    omega

/-- Where no byte of the pieces is granted every octet reads 0xFF and nothing changes (R82). -/
theorem readPieces_blank {p : Port} {ready : Bool} {l : List (Nat × Nat)}
    (h : ∀ c ∈ l, 0x10000000 < c.1 + c.2 ∨ winGranted s p false c.1 c.2 = false) (got : Bytes) :
    readPieces p ready l got s = (s, got ++ List.replicate (l.map (·.2)).sum 0xFF, true) := by
  induction l generalizing got with
  | nil => simp [readPieces]
  | cons c l ih =>
    obtain ⟨hc, hl⟩ := List.forall_mem_cons.1 h
    obtain ⟨a, n⟩ := c
    rw [readPieces, if_pos hc, ih hl]
    simp only [List.map_cons, List.sum_cons, List.replicate_add, List.append_assoc]

/-! Write queues -/

/-- A port but for its queue of window writes. -/
def besideQueue (x : PortState) : PortState := { x with winQueue := [] }

/-- A change of a port's queue alone. -/
theorem besideQueue_modPort (s : State) (p q : Nat) (f : List WinOp → List WinOp) :
    besideQueue (portOf (modPort s p (fun x => { x with winQueue := f x.winQueue })) q) = besideQueue (portOf s q) := by
  by_cases hq : p = q
  · subst hq
    by_cases hp : p < s.ports.length
    · rw [portOf_modPort_same _ _ _ hp]; rfl
    · rw [portOf, modPort_ports, List.set_eq_of_length_le (not_lt.1 hp)]; rfl
  · rw [portOf_modPort_ne _ _ hq]

theorem besideQueue_setOp (p q : Nat) (o : WinOp) (s : State) : besideQueue (portOf (setOp p o s) q) = besideQueue (portOf s q) :=
  besideQueue_modPort s p q _

theorem besideQueue_endOp_winWr {o : WinOp} (p q : Nat) (ok : Bool) (hk : o.kind = .winWr) (s : State) :
    besideQueue (portOf (endOp p o ok s) q) = besideQueue (portOf s q) := by
  rw [endOp, if_pos hk]
  exact besideQueue_modPort s p q (fun l => l.filter (fun y => y.seq != o.seq))

theorem planOp_kind (s : State) (o : WinOp) : (planOp s o).kind = o.kind := by
  unfold planOp
  split
  · rfl
  · rfl
  · dsimp only
    split
    · rfl
    · split <;> rfl

/-- Only a window write can turn out to change nothing (R396). -/
theorem planOp_steps_nil {o : WinOp} (h : (planOp s o).steps = []) : (planOp s o).kind = .winWr := by
  rw [planOp_kind]
  cases hk : o.kind with
  | winWr => rfl
  | program => simp [planOp, hk] at h
  | erase => simp [planOp, hk] at h

/-- Writes that start or end at once change the ports' queues alone (R395, R396). -/
theorem besideQueue_startOps (n q : Nat) (s : State) : besideQueue (portOf (startOps n s) q) = besideQueue (portOf s q) := by
  induction n generalizing s with
  | zero => rfl
  | succ n ih =>
    unfold startOps
    split
    · split
      · rfl
      · dsimp only
        split
        · rfl
        · split
          · next hsteps => rw [ih, besideQueue_endOp_winWr _ _ _ (planOp_steps_nil hsteps), besideQueue_setOp]
          · exact besideQueue_setOp _ _ _ _
    · rfl

/-- A write that enters its port's queue changes the queues alone. -/
theorem besideQueue_enqueueOp (p q : Nat) (kind : WinKind) (a : Nat) (v : Bytes) (s : State) :
    besideQueue (portOf (enqueueOp p kind a v s) q) = besideQueue (portOf s q) := by
  rw [enqueueOp, besideQueue_startOps, (linksStand_requestWake 48 (LinksStand.refl _)).portOf]
  exact besideQueue_modPort s p q (fun l => l ++ [_])

end

end Sys2Proof.Proofs
end

section
/-! PROOFS. The select sentinel of a gated port (R57, R66, R79, R80) and the XIP personality (R82 to R85, R394, R397). -/

namespace Sys2Proof.Proofs

open Sys2Proof.Machine Sys2Proof.Safety Sys2Proof.Laws

/-! The sentinel -/

section
variable {s : State} {p : Port} {k : Link} {f : NymsyFrame}

/-- A gated port that can be woken: the select's fall starts its wake (R79). -/
theorem sentinelWake_gated {p : Nat} (hoff : (pdOf s (44 + p)).st = .off) (hcl : (pdOf s (44 + p)).closed = false)
    (hret : (pdOf s (44 + p)).retired = false) (hpol : (pdOf s (44 + p)).policy = .auto) :
    sentinelWake p s = modPd (respond p .silent s) (44 + p) (fun d => { d with st := .waking }) := by
  have hpd : pdOf (respond p .silent s) (44 + p) = pdOf s (44 + p) := rfl
  have h36 : 36 ≤ 44 + p := by omega
  simp only [sentinelWake, requestWake, hpd, hoff, hcl, hret, hpol, h36, if_true, Bool.false_eq_true, if_false, Bool.false_or,
    reduceCtorEq, decide_false]

theorem atPort_gated (hdead : portDead s = false) (hoff : (pdOf s (44 + p)).st = .off) (g l : State → State) : atPort p k g l s = g s := by
  simp [atPort, hdead, sentinelAnswers, hoff]

theorem nativeFrame_gated (hdead : portDead s = false) (hoff : (pdOf s (44 + p)).st = .off) (hxip : (portOf s p).xip = false) :
    nativeFrame p k f s = sentinelNymsy p k f s := by
  rw [nativeFrame, atPort_gated hdead hoff, sentinelNative]
  simp [hxip]

/-- A read at the sentinel gets zeros and WAKE, with FRAME_AT_GATED (R80). -/
theorem sentinelNymsy_read (hcpl : k.cplOk = true) (hf : classOf (opcodeOf f) = .read) :
    sentinelNymsy p k f s =
      respond p (answer (portOf s p) (zeros (readLength f)) .wake) (raise p 5 0 none (sentinelWake p s)) := by
  simp only [sentinelNymsy, hcpl, hf, Bool.not_true, Bool.false_eq_true, if_false]

/-- A write at the sentinel is discarded (R80). -/
theorem sentinelNymsy_write (hcpl : k.cplOk = true) (hf : classOf (opcodeOf f) = .write) :
    sentinelNymsy p k f s = discardWrite p (opcodeOf f) (sentinelWake p s) := by
  simp only [sentinelNymsy, hcpl, hf, Bool.not_true, Bool.false_eq_true, if_false]

/-- The opcode of a discarded write is kept while its port is not ON (R80). -/
theorem discardWrite_waking {p o : Nat} (hsev : sevOf s p 5 ≤ 1) (hst : (pdOf s (44 + p)).st ≠ .on) :
    discardWrite p o s = modPort (raise p 5 0 none s) p (fun x => { x with wakeRecords := x.wakeRecords ++ [o] }) := by
  have hpd : pdOf (raise p 5 0 none s) (44 + p) = pdOf s (44 + p) := by rw [raise_minor hsev]; rfl
  exact if_neg (by rw [hpd]; exact fun h => hst h.1)

/-- A domain put to WAKING is not ON, whether the machine has it or not. -/
theorem waking_not_on (i : Nat) (s : State) : (pdOf (modPd s i (fun d => { d with st := .waking })) i).st ≠ .on := by
  by_cases hi : i < s.power.pds.length
  · rw [pdOf_modPd_same _ _ _ hi]; simp
  · simp [pdOf, modPd, hi]

/-- A port that wakes is ON and tested, and its discarded writes are recorded (R79, R80). -/
theorem portAwake_eq (p : Nat) (s : State) : portAwake p s = (portOf s p).wakeRecords.foldl (fun u o => recordWr p o wrWake u)
    (modPort (modPd s (44 + p) (fun d => { d with st := .on, tested := true, fenced := false, closed := decide (d.policy = .forceOff) })) p
      (fun x => { x with wakeRecords := [] })) := by
  have hbank : ¬(36 ≤ 44 + p ∧ 44 + p < 44 ∧ s.mem.missed.contains (44 + p - 36) = true) := by omega
  have hon : reachOn (44 + p) s =
      modPd s (44 + p) (fun d => { d with st := .on, tested := true, fenced := false, closed := decide (d.policy = .forceOff) }) := if_neg hbank
  rw [portAwake, hon]

/-- An opcode outside the table is refused (R57). -/
theorem serveNymsy_unknown {o : Byte} (hcpl : k.cplOk = true) (ho : classOf o.toNat = .unknown) :
    serveNymsy p k (.other o) s = serveUnknown p o.toNat s := by
  have hf : classOf (opcodeOf (.other o)) = .unknown := ho
  unfold serveNymsy
  rw [if_neg (by simp [hcpl]), hf]
  rfl

end

/-- Settles O23: the sentinel's answers, the wake's end, and the frame of an unknown opcode. -/
theorem gatedPortAnswersThroughItsSentinel : Obligations.GatedPortAnswersThroughItsSentinel := by
  intro s p k
  refine ⟨fun hdead hoff hcl hret hpol hcpl u hu => ?_, fun hst => ?_, fun o hears hxip ho => ?_⟩
  · have hwake : sentinelWake p s = u := (sentinelWake_gated hoff hcl hret hpol).trans hu.symm
    refine ⟨fun hxip => ⟨fun a n => ?_, fun a d hsev => ?_⟩, fun hxip n => ?_⟩
    · refine congrArg Host.Outcome.next ?_
      rw [nativeFrame_gated hdead hoff hxip, sentinelNymsy_read hcpl rfl, hwake]
      rfl
    · refine congrArg Host.Outcome.next ?_
      rw [nativeFrame_gated hdead hoff hxip, sentinelNymsy_write hcpl rfl, hwake]
      subst hu
      exact discardWrite_waking hsev (waking_not_on _ _)
    · refine congrArg Host.Outcome.next ?_
      rw [xipCommand, atPort_gated hdead hoff, if_pos hxip, sentinelXip, hwake, if_neg (by simp [hcpl])]
  · exact congrArg Host.Outcome.next ((if_pos hst).trans (portAwake_eq p s))
  · refine congrArg Host.Outcome.next ?_
    rw [nativeFrame_logic hears.1 hears.2.1 hxip, serveNymsy_unknown hears.2.2 ho]
    rfl

/-! XIP commands -/

section
variable {s t : State} {p : Port} {k : Link} {a n : Nat} {d : Bytes}

/-- An XIP command that an XIP port hears runs, unless WIP holds it off (R82, R83). -/
theorem xipCommand_hears (h : Hears s p k) (hxip : (portOf s p).xip = true) (code : Nat) (read : Option Nat) (busy : Bool)
    (run : State → State) :
    xipCommand p k code read busy run s = if (portOf s p).wip && !busy then respond p .silent s else run s := by
  rw [xipCommand, atPort_hears h]
  simp only [hxip, h.2.2, Bool.not_true, Bool.false_eq_true, if_false, Bool.and_false]

/-- One that runs while WIP is 1 too. -/
theorem xipCommand_always (h : Hears s p k) (hxip : (portOf s p).xip = true) (code : Nat) (read : Option Nat) (run : State → State) :
    xipCommand p k code read true run s = run s := by
  rw [xipCommand_hears h hxip]
  simp

/-- One that finds WIP 0. -/
theorem xipCommand_idle (h : Hears s p k) (hxip : (portOf s p).xip = true) (hwip : (portOf s p).wip = false) (code : Nat) (read : Option Nat)
    (busy : Bool) (run : State → State) : xipCommand p k code read busy run s = run s := by
  rw [xipCommand_hears h hxip]
  simp [hwip]

/-- A port that runs the XIP personality is a port of the machine. -/
theorem port_of_xip {p : Nat} (h : (portOf s p).xip = true) : p < s.ports.length := by
  by_contra hp
  simp [portOf, hp, portReset] at h

theorem addr_mod (ha : a < 0x100000000) : a % 2 ^ 32 = a := Nat.mod_eq_of_lt (by omega)

/-! SFDP: octets of which R84 fixes every bit -/

theorem fixBits_all (v : Nat) (free : BitVec 8) : fixBits 0xFF v free = BitVec.ofNat 8 v := by
  have hmask : (~~~ BitVec.ofNat 8 0xFF) = 0#8 := by decide
  rw [fixBits, hmask, BitVec.and_zero, BitVec.or_zero]
  exact BitVec.eq_of_toNat_eq (by simp)

theorem sfdpByte_fixed {v : Nat} (h : (0x80 ≤ a ∧ a < 0xD0) ∨ (0x100 ≤ a ∧ a < 0x118)) (hv : sfdpFixed a = (0xFF, v)) :
    sfdpByte s a = BitVec.ofNat 8 v := by
  rw [sfdpByte, if_neg (by omega), if_pos h, hv]
  exact fixBits_all v _

theorem sfdpByte_header (h : a < 24) : sfdpByte s a = sfdpHeader.getD a 0xFF := if_pos h

/-- The space begins with its signature. -/
theorem sfdp_signature : (List.range 4).map (sfdpByte s) = ascii "SFDP" := by
  have hheader : (List.range 4).map (sfdpByte s) = (List.range 4).map (fun a => sfdpHeader.getD a 0xFF) :=
    List.map_congr_left fun a ha => sfdpByte_header ((List.mem_range.1 ha).trans (by decide))
  rw [hheader]
  decide

theorem sfdpByte_outside (h : (24 ≤ a ∧ a < 0x80) ∨ (0xD0 ≤ a ∧ a < 0x100) ∨ 0x118 ≤ a) : sfdpByte s a = 0xFF := by
  rw [sfdpByte, if_neg (by omega), if_neg (by omega)]

/-! READ -/

theorem xipRead_busy (h : (portOf s p).wip = true) : xipRead p k a n s = respond p (.xip (List.replicate n 0xFF)) s := if_pos h

/-- A READ whose pieces are all served (R82, R394). -/
theorem xipRead_served (hwip : (portOf s p).wip = false) (hread : readPieces p k.ready (linePieces a n) [] s = (t, d, true)) :
    xipRead p k a n s = respond p (.xip d) t := by
  simp [xipRead, hwip, hread]

/-- A READ answers, whatever it finds (R394). -/
theorem xipRead_answers (hp : p < s.ports.length) : ∃ d, (portOf (xipRead p k a n s) p).response = .xip d := by
  have hr : p.val < (readPieces p k.ready (linePieces a n) [] s).1.ports.length := by rw [readPieces_ports]; exact hp
  have hu := (linksStand_raise 4 7 p none (LinksStand.refl (readPieces p k.ready (linePieces a n) [] s).1)).1
  unfold xipRead
  dsimp only
  split
  · exact ⟨_, response_respond hp⟩
  · split
    · exact ⟨_, response_respond hr⟩
    · exact ⟨_, response_respond (by rw [hu]; exact hr)⟩

end

/-- Settles O24: each command runs, and what it answers. -/
theorem xipReadsAnswer : Obligations.XipReadsAnswer := by
  intro s p k hears hxip
  have hp := port_of_xip hxip
  have hexec (a n : Nat) : exec (.xipRead p k a n) s = .next (xipRead p k (a % 2 ^ 32) n s) :=
    congrArg Host.Outcome.next (xipCommand_always hears hxip _ _ _)
  have hheld (code n : Nat) (run : State → State) (r : Response) (hrun : run s = respond p r s) :
      xipCommand p k code (some n) false run s = respond p (if (portOf s p).wip then .silent else r) s := by
    rw [xipCommand_hears hears hxip, hrun]
    cases (portOf s p).wip <;> rfl
  refine ⟨fun n => ?_, fun n => ?_, fun a n => ?_, ?_, fun a ha => sfdpByte_outside ha, ?_, ?_, ?_, fun a n => ?_, fun a n hwip => ?_,
    fun a n hwip ha hno => ?_, fun a n t d hwip ha hread => ?_⟩
  · exact congrArg Host.Outcome.next (xipCommand_always hears hxip _ _ _)
  · exact congrArg Host.Outcome.next (hheld _ n _ _ rfl)
  · exact congrArg Host.Outcome.next (hheld _ n _ _ rfl)
  · exact sfdp_signature
  · exact sfdpByte_fixed (by omega) rfl
  · exact sfdpByte_fixed (by omega) rfl
  · exact sfdpByte_fixed (by omega) rfl
  · obtain ⟨d, hd⟩ := xipRead_answers (k := k) (a := a % 2 ^ 32) (n := n) hp
    exact ⟨_, d, hexec a n, hd⟩
  · rw [hexec, xipRead_busy hwip]
  · rw [hexec, addr_mod ha, xipRead_served hwip (readPieces_blank hno []), linePieces_total, List.nil_append]
  · rw [hexec, addr_mod ha, xipRead_served hwip hread]

/-! PROGRAM and ERASE -/

section
variable {s : State} {p : Port} {k : Link} {a n : Nat} {d : Bytes} {kind : WinKind}

/-- A write of granted bytes outside measured windows is queued with WIP set (R83, R397). -/
theorem xipWrite_queued (hwel : (portOf s p).wel = true) (hin : a + n ≤ 0x10000000) (hgrant : winGranted s p true a n = true)
    (hfree : measured s a n = false) : xipWrite p kind a n d s = enqueueOp p kind a d (modPort s p (fun x => { x with wip := true })) := by
  have hgate : ¬((!(portOf s p).wel || decide (0x10000000 < a + n) || !winGranted s p true a n) = true) := by simp [hwel, hgrant]; omega
  rw [xipWrite, if_neg hgate, if_neg (by simp [hfree])]

/-- Without WEL a write is refused (R83). -/
theorem xipWrite_refused (hwel : (portOf s p).wel = false) : xipWrite p kind a n d s = xipRefuse p s := by
  rw [xipWrite, if_pos (by simp [hwel])]

/-- A whole PAGE PROGRAM within its page (R51, R83). -/
theorem xipProgram_whole (hwhole : k.whole = true) (h1 : 1 ≤ d.length) (hpage : a % 256 + d.length ≤ 256)
    (heven : inOctal (portOf s p) = true → d.length % 2 = 0) :
    xipProgram p k a d s = xipWrite p .program a d.length d (respond p .silent s) := by
  have hd : d ≠ [] := List.ne_nil_of_length_pos h1
  have hlanes : inOctal (portOf (respond p .silent s) p) = inOctal (portOf s p) := by rw [inOctal, respond_lanes, inOctal]
  have hodd : (inOctal (portOf s p) && d.length % 2 == 1) = false := by
    cases h : inOctal (portOf s p) with
    | true => simp [heven h]
    | false => rfl
  have hshort : ¬((!k.whole || d == [] || decide (256 < d.length) || (inOctal (portOf (respond p .silent s) p) && d.length % 2 == 1)) = true) := by
    simp [hlanes, hodd, hwhole, hd]; omega
  simp only [xipProgram, if_neg hshort, if_neg (show ¬(256 < a % 256 + d.length) by omega)]

theorem xipProgram_short (hwhole : k.whole = false) : xipProgram p k a d s = xipShort p (respond p .silent s) :=
  if_pos (by simp [hwhole])

/-- A whole SECTOR ERASE that is queued drops the lines of its sector (R397). -/
theorem xipErase_queued (hxip : (portOf s p).xip = true) (hwhole : k.whole = true) (hwel : (portOf s p).wel = true) (ha : a < 0x10000000)
    (hgrant : winGranted s p true (a / 4096 * 4096) 4096 = true) (hfree : measured s (a / 4096 * 4096) 4096 = false) :
    xipErase p k a s = dropLines (a / 4096 * 4096) 4096 (enqueueOp p .erase (a / 4096 * 4096) (List.replicate 4096 0xFF)
      (modPort (respond p .silent s) p (fun x => { x with wip := true }))) := by
  have hwrite : xipWrite p .erase (a / 4096 * 4096) 4096 (List.replicate 4096 0xFF) (respond p .silent s) = _ :=
    xipWrite_queued ((respond_wel s p p .silent).trans hwel) (by omega) ((winGranted_respond s p p .silent true _ _).trans hgrant) hfree
  have hp : p.val < (respond p .silent s).ports.length := by simpa [respond] using port_of_xip hxip
  have hwip : (portOf (enqueueOp p .erase (a / 4096 * 4096) (List.replicate 4096 0xFF)
      (modPort (respond p .silent s) p (fun x => { x with wip := true }))) p).wip = true := by
    have h := congrArg PortState.wip (besideQueue_enqueueOp p p .erase (a / 4096 * 4096) (List.replicate 4096 0xFF)
      (modPort (respond p .silent s) p (fun x => { x with wip := true })))
    rw [portOf_modPort_same _ _ _ hp] at h
    exact h
  rw [xipErase, if_neg (by simp [hwhole])]
  dsimp only
  rw [hwrite, if_pos hwip]

end

/-- Settles O25: the two latch commands, the writes by their outcomes, and the escape. -/
theorem xipWritesAndEscape : Obligations.XipWritesAndEscape := by
  intro s p k hears hxip
  refine ⟨fun hwip => ?_, congrArg Host.Outcome.next (xipCommand_always hears hxip _ _ _), fun hcrc hdone ho hcov => ?_⟩
  · have hrun (code : Nat) (run : State → State) : xipCommand p k code none false run s = run s := xipCommand_idle hears hxip hwip _ _ _ _
    refine ⟨congrArg Host.Outcome.next (hrun _ _), fun a d hwhole hwel h1 hpage hin heven hgrant hfree => ?_,
      fun a hwhole hwel ha hgrant hfree => ?_, fun a d hwhole hwel h1 hpage ha heven => ?_, fun a d hwhole => ?_⟩
    · refine congrArg Host.Outcome.next ((hrun _ _).trans ?_)
      rw [addr_mod (by omega), xipProgram_whole hwhole h1 hpage heven]
      exact xipWrite_queued ((respond_wel s p p .silent).trans hwel) hin ((winGranted_respond s p p .silent true a _).trans hgrant) hfree
    · refine congrArg Host.Outcome.next ((hrun _ _).trans ?_)
      rw [addr_mod (by omega), xipErase_queued hxip hwhole hwel ha hgrant hfree]
    · refine congrArg Host.Outcome.next ((hrun _ _).trans ?_)
      rw [addr_mod (by omega), xipProgram_whole hwhole h1 hpage heven, xipWrite_refused ((respond_wel s p p .silent).trans hwel)]
      rfl
    · exact congrArg Host.Outcome.next ((hrun _ _).trans (xipProgram_short hwhole))
  · refine congrArg Host.Outcome.next ?_
    rw [atPort_hears hears, if_pos hxip]
    exact serveNymsy_status hears.2.2 hcrc hdone ho hcov

end Sys2Proof.Proofs
end

section
/-! PROOFS. The write queue of the flash: commit order under a replaced write, the write that runs, and the end of a write (R395 to R398). -/

namespace Sys2Proof.Proofs

open Sys2Proof.Machine Sys2Proof.Safety Sys2Proof.Laws

section
variable {s t : State} {p q : Nat} {o o' : WinOp}

/-! Commit order -/

/-- Every window write, port by port. -/
def queuedOps (s : State) : List (Nat × WinOp) := (List.range s.ports.length).flatMap (fun q => (portOf s q).winQueue.map (fun o => (q, o)))

theorem zipIdx_eq_range (l : List PortState) : l.zipIdx = (List.range l.length).map (fun i => (l.getD i portReset, i)) := by
  refine List.ext_getElem (by simp) fun i hi _ => ?_
  have hl : i < l.length := by simpa using hi
  simp [hl]

theorem winOps_eq (s : State) : winOps s = (queuedOps s).foldr insertOp [] := by
  rw [winOps, zipIdx_eq_range, List.flatMap_map]
  rfl

theorem mem_insertOp {x c : Nat × WinOp} {l : List (Nat × WinOp)} : c ∈ insertOp x l ↔ c = x ∨ c ∈ l := by
  induction l with
  | nil => simp [insertOp]
  | cons y l ih =>
    unfold insertOp
    split
    · simp
    · simp [ih, or_left_comm]

theorem mem_winOps {c : Nat × WinOp} : c ∈ winOps s ↔ c.1 < s.ports.length ∧ c.2 ∈ (portOf s c.1).winQueue := by
  have hsort (l : List (Nat × WinOp)) : c ∈ l.foldr insertOp [] ↔ c ∈ l := by
    induction l with
    | nil => rfl
    | cons y l ih => rw [List.foldr_cons, mem_insertOp, ih, List.mem_cons]
  rw [winOps_eq, hsort]
  simp only [queuedOps, List.mem_flatMap, List.mem_range, List.mem_map]
  constructor
  · rintro ⟨q, hq, y, hy, rfl⟩; exact ⟨hq, hy⟩
  · rintro ⟨hq, hy⟩; exact ⟨c.1, hq, c.2, hy, rfl⟩

/-- A change of writes that keeps their places in commit order keeps the order. -/
theorem map_foldr_insertOp {g : Nat × WinOp → Nat × WinOp} (hg : ∀ c, (g c).2.seq = c.2.seq) (l : List (Nat × WinOp)) :
    (l.foldr insertOp []).map g = (l.map g).foldr insertOp [] := by
  have hins (x : Nat × WinOp) (l : List (Nat × WinOp)) : (insertOp x l).map g = insertOp (g x) (l.map g) := by
    induction l with
    | nil => rfl
    | cons y l ih =>
      simp only [insertOp, List.map_cons, hg]
      split
      · rfl
      · rw [List.map_cons, ih]
  induction l with
  | nil => rfl
  | cons x l ih => rw [List.foldr_cons, hins, ih]; rfl

/-- A write of port `p` takes the place of those with its number. -/
def replaceOp (p : Nat) (o : WinOp) (c : Nat × WinOp) : Nat × WinOp := if c.1 = p ∧ c.2.seq = o.seq then (p, o) else c

theorem replaceOp_seq (p : Nat) (o : WinOp) (c : Nat × WinOp) : (replaceOp p o c).2.seq = c.2.seq := by
  unfold replaceOp; split
  · next h => exact h.2.symm
  · rfl

theorem winQueue_setOp (p q : Nat) (o : WinOp) (s : State) :
    (portOf (setOp p o s) q).winQueue = if q = p then (portOf s q).winQueue.map (fun y => if y.seq = o.seq then o else y) else (portOf s q).winQueue := by
  split
  · next h =>
    subst h
    by_cases hp : q < s.ports.length
    · rw [setOp, portOf_modPort_same _ _ _ hp]
    · rw [setOp, portOf, modPort_ports, List.set_eq_of_length_le (not_lt.1 hp)]
      simp [portOf, hp, portReset]
  · next h => rw [setOp, portOf_modPort_ne _ _ (Ne.symm h)]

/-- A write that takes the place of others with its number leaves the commit order (R395). -/
theorem winOps_setOp (p : Nat) (o : WinOp) (s : State) : winOps (setOp p o s) = (winOps s).map (replaceOp p o) := by
  rw [winOps_eq, winOps_eq, map_foldr_insertOp (replaceOp_seq p o)]
  congr 1
  have hlen : (setOp p o s).ports.length = s.ports.length := by simp [setOp]
  rw [queuedOps, queuedOps, hlen, List.map_flatMap]
  refine List.flatMap_congr fun q _ => ?_
  rw [winQueue_setOp, List.map_map]
  split
  · next h =>
    subst h
    rw [List.map_map]
    refine List.map_congr_left fun y _ => ?_
    simp only [Function.comp, replaceOp, true_and]
    split <;> rfl
  · next h =>
    refine List.map_congr_left fun y _ => ?_
    simp [replaceOp, h]

/-- Where an element is put in the place of the first that `Q` finds, and of others, it is the first that `P` finds. -/
theorem find?_replaced {α : Type} {P Q : α → Bool} {g : α → α} {x x' : α} {l : List α} (hfirst : l.find? Q = some x)
    (hQ : ∀ y, Q y = false → P y = false) (hg : ∀ y, g y = y ∨ g y = x') (hx : g x = x') (hP : P x' = true) :
    (l.map g).find? P = some x' := by
  induction l with
  | nil => simp at hfirst
  | cons y l ih =>
    rw [List.map_cons]
    cases hy : Q y with
    | true =>
      rw [List.find?_cons_of_pos hy, Option.some.injEq] at hfirst
      subst hfirst
      rw [hx, List.find?_cons_of_pos hP]
    | false =>
      rw [List.find?_cons_of_neg (by simp [hy])] at hfirst
      rcases hg y with h | h
      · rw [h, List.find?_cons_of_neg (by simp [hQ y hy])]
        exact ih hfirst
      · rw [h, List.find?_cons_of_pos hP]

theorem replaceOp_cases (p : Nat) (o : WinOp) (c : Nat × WinOp) : replaceOp p o c = c ∨ replaceOp p o c = (p, o) := by
  unfold replaceOp; split
  · exact .inr rfl
  · exact .inl rfl

/-- The write that runs, once its record is replaced (R398). -/
theorem runningOp_setOp (h : runningOp s = some (p, o)) (hseq : o'.seq = o.seq) (hstart : o'.started = true) :
    runningOp (setOp p o' s) = some (p, o') := by
  rw [runningOp, winOps_setOp]
  exact find?_replaced h (fun _ => id) (replaceOp_cases p o') (if_pos ⟨rfl, hseq.symm⟩) hstart

/-- The oldest write runs once its record says so and no other runs (R396). -/
theorem runningOp_setOp_first {rest : List (Nat × WinOp)} (h : winOps s = (p, o) :: rest) (hseq : o'.seq = o.seq) (hstart : o'.started = true) :
    runningOp (setOp p o' s) = some (p, o') := by
  rw [runningOp, winOps_setOp]
  exact find?_replaced (Q := fun _ => true) (by rw [h]; rfl) (by simp) (replaceOp_cases p o') (if_pos ⟨rfl, hseq.symm⟩) hstart

theorem runningOp_started (h : runningOp s = some (p, o)) : o.started = true := by simpa using List.find?_some h

theorem runningOp_mem (h : runningOp s = some (p, o)) : p < s.ports.length ∧ o ∈ (portOf s p).winQueue := mem_winOps.1 (List.mem_of_find?_eq_some h)

/-! The numbers in a queue -/

/-- The numbers of the writes in a port's queue. -/
def seqs (s : State) (q : Nat) : List Nat := (portOf s q).winQueue.map (·.seq)

theorem not_mem_seqs {n : Nat} : n ∉ seqs s q ↔ ∀ y ∈ (portOf s q).winQueue, y.seq ≠ n := by simp [seqs]

theorem seqs_setOp (p q : Nat) (o : WinOp) (s : State) : seqs (setOp p o s) q = seqs s q := by
  rw [seqs, winQueue_setOp, seqs]
  split
  · rw [List.map_map]
    refine List.map_congr_left fun y _ => ?_
    simp only [Function.comp]
    split
    · next h => exact h.symm
    · rfl
  · rfl

/-- The state a write's end leaves before an XIP port's latches change. -/
def opDropped (p : Nat) (o : WinOp) (s : State) : State := refreshLines o.addr o.data.length (dropOp p o.seq s)

theorem winQueue_opDropped (p q : Nat) (o : WinOp) (s : State) :
    (portOf (opDropped p o s) q).winQueue = if q = p then (portOf s q).winQueue.filter (fun y => y.seq != o.seq) else (portOf s q).winQueue := by
  change (portOf (dropOp p o.seq s) q).winQueue = _
  split
  · next h =>
    subst h
    by_cases hp : q < s.ports.length
    · rw [dropOp, portOf_modPort_same _ _ _ hp]
    · rw [dropOp, portOf, modPort_ports, List.set_eq_of_length_le (not_lt.1 hp)]
      simp [portOf, hp, portReset]
  · next h => rw [dropOp, portOf_modPort_ne _ _ (Ne.symm h)]

/-- An XIP port's latches after a program or erase (R83). -/
def latched (ok : Bool) (x : PortState) : PortState := { x with wip := false, wel := false, err := x.err || !ok }

theorem endOp_eq (p : Nat) (o : WinOp) (ok : Bool) (s : State) :
    endOp p o ok s = if o.kind = .winWr then opDropped p o s else modPort (opDropped p o s) p (latched ok) := rfl

theorem winQueue_modPort_latched (p q : Nat) (ok : Bool) (s : State) : (portOf (modPort s p (latched ok)) q).winQueue = (portOf s q).winQueue := by
  by_cases hq : p = q
  · subst hq
    by_cases hp : p < s.ports.length
    · rw [portOf_modPort_same _ _ _ hp]; rfl
    · rw [portOf, modPort_ports, List.set_eq_of_length_le (not_lt.1 hp)]; rfl
  · rw [portOf_modPort_ne _ _ hq]

theorem winQueue_endOp (p q : Nat) (o : WinOp) (ok : Bool) (s : State) :
    (portOf (endOp p o ok s) q).winQueue = if q = p then (portOf s q).winQueue.filter (fun y => y.seq != o.seq) else (portOf s q).winQueue := by
  rw [endOp_eq, ← winQueue_opDropped]
  split
  · rfl
  · exact winQueue_modPort_latched _ _ _ _

theorem seqs_endOp_subset (p q : Nat) (o : WinOp) (ok : Bool) (s : State) : seqs (endOp p o ok s) q ⊆ seqs s q := by
  rw [seqs, winQueue_endOp]
  split
  · exact List.map_subset _ (List.filter_subset_self _)
  · exact List.Subset.refl _

/-- A write that has ended is in its port's queue no longer (R395). -/
theorem seq_endOp (p : Nat) (o : WinOp) (ok : Bool) (s : State) : o.seq ∉ seqs (endOp p o ok s) p := by
  rw [not_mem_seqs, winQueue_endOp, if_pos rfl]
  intro y hy
  simpa using (List.mem_filter.1 hy).2

/-- Starting writes brings none into a queue. -/
theorem seqs_startOps_subset (n q : Nat) (s : State) : seqs (startOps n s) q ⊆ seqs s q := by
  induction n generalizing s with
  | zero => exact List.Subset.refl _
  | succ n ih =>
    unfold startOps
    split
    · split
      · exact List.Subset.refl _
      · next p o _ _ =>
        dsimp only
        split
        · exact List.Subset.refl _
        · split
          · have hend := seqs_endOp_subset p q (planOp s o) true (setOp p (planOp s o) s)
            rw [seqs_setOp] at hend
            exact List.Subset.trans (ih _) hend
          · rw [seqs_setOp]; exact List.Subset.refl _
    · exact List.Subset.refl _

/-- An XIP port's latches after its program or erase has ended (R83). -/
theorem portOf_endOp_latched (hp : p < s.ports.length) (hk : o.kind ≠ .winWr) (ok : Bool) :
    besideQueue (portOf (endOp p o ok s) p) = besideQueue (latched ok (portOf s p)) := by
  have hp' : p < (opDropped p o s).ports.length := by simpa [opDropped, refreshLines, dropOp] using hp
  have hdrop : besideQueue (portOf (opDropped p o s) p) = besideQueue (portOf s p) :=
    besideQueue_modPort s p p (fun l => l.filter (fun y => y.seq != o.seq))
  rw [endOp_eq, if_neg hk, portOf_modPort_same _ _ _ hp']
  exact congrArg (latched ok) hdrop

end

end Sys2Proof.Proofs
end

section
/-! PROOFS. The memory port's bus: the transaction that comes next, a line that is read, the status poll and the time limit of a flash write
(R64, R368, R391, R393, R396 to R398, R405). -/

namespace Sys2Proof.Proofs

open Sys2Proof.Machine Sys2Proof.Safety Sys2Proof.Laws

section
variable {s t u : State} {p : Nat} {o : WinOp}

theorem WorkStands.trans (h : WorkStands s t) (k : WorkStands t u) : WorkStands s u := by
  obtain ⟨h1, h2, h3, h4, h5, h6, h7⟩ := h
  obtain ⟨k1, k2, k3, k4, k5, k6, k7⟩ := k
  exact ⟨k1.trans h1, k2.trans h2, k3.trans h3, k4.trans h4, k5.trans h5, k6.trans h6, k7.trans h7⟩

/-! The next transaction -/

/-- The transaction on the bus has no part in which comes next. -/
theorem nextTransaction_current (s : State) (c : Option Transaction) :
    nextTransaction { s with mp := { s.mp with current := c } } = nextTransaction s := rfl

theorem beginNext_eq (s : State) : beginNext s = { s with mp := { s.mp with current := (beginNext s).mp.current } } := by
  unfold beginNext; split <;> rfl

/-- The bus is idle, or carries the transaction that comes next. -/
def Turned (s : State) : Prop := s.mp.current = none ∨ s.mp.current = nextTransaction s

/-- An idle bus starts the transaction that comes next (R393). -/
theorem beginNext_current (h : Turned s) : (beginNext s).mp.current = nextTransaction (beginNext s) := by
  unfold beginNext
  split
  · next hsome =>
    rcases h with h | h
    · simp [h] at hsome
    · exact h
  · exact (nextTransaction_current s _).symm

/-- The state with work in the list, once (R393). -/
def workListed (w : MpWork) (s : State) : State :=
  { s with mp := { s.mp with work := if s.mp.work.contains w then s.mp.work else s.mp.work ++ [w] } }

theorem queueWork_listed (w : MpWork) (s : State) : queueWork w s = beginNext (requestWake 48 (workListed w s)) := by
  have h : (if s.mp.work.contains w then s else { s with mp := { s.mp with work := s.mp.work ++ [w] } }) = workListed w s := by
    unfold workListed; split <;> rfl
  rw [queueWork, h]

/-- What queueing work changes: power domains, the work list, the transaction on the bus. -/
theorem queueWork_eq (w : MpWork) (s : State) : ∃ pw c, queueWork w s =
    { workListed w s with power := pw, mp := { (workListed w s).mp with current := c } } := by
  obtain ⟨pw, hpw⟩ := requestWake_frame 48 (workListed w s)
  rw [queueWork_listed, beginNext_eq, hpw]
  exact ⟨_, _, rfl⟩

/-- Queued work stands in the list. -/
theorem mem_queueWork (w : MpWork) (s : State) : w ∈ (queueWork w s).mp.work := by
  obtain ⟨pw, c, h⟩ := queueWork_eq w s
  rw [h]
  dsimp only [workListed]
  split
  · next hin => simpa using hin
  · simp

theorem queueWork_turned (w : MpWork) (h : s.mp.current = none) : Turned (queueWork w s) := by
  rw [queueWork_listed]
  refine .inr (beginNext_current (.inl ?_))
  rw [(linksStand_requestWake 48 (LinksStand.refl _)).2]
  exact h

/-! A line that is read -/

/-- A fill changes the cache alone. -/
theorem fillLine_eq (a : Nat) (xip : Bool) (s : State) : ∃ c, fillLine a xip s = { s with mp := { s.mp with cache := c } } := by
  unfold fillLine
  dsimp only
  split
  · exact ⟨_, rfl⟩
  · split
    · exact ⟨_, rfl⟩
    · split <;> exact ⟨_, rfl⟩

theorem find?_append_fresh {a : Nat} {l : List CacheLine} {x : CacheLine} (h : ∀ y ∈ l, y.addr ≠ a) (hx : x.addr = a) :
    (l ++ [x]).find? (fun y => y.addr == a) = some x := by
  rw [List.find?_append, List.find?_eq_none.2 (by simpa using h)]
  simp [hx]

/-- Where some way takes fills of every port, one way or a line to replace is found (R391). -/
theorem way_found {used : List CacheLine} {ws : List Nat} (hws : ws ≠ []) (hfull : ws.find? (fun w => !(used.any (fun l => l.way == w))) = none) :
    used.find? (fun l => ws.contains l.way) ≠ none := by
  obtain ⟨w, hw⟩ := List.exists_mem_of_ne_nil ws hws
  have hused : used.any (fun l => l.way == w) = true := by simpa using List.find?_eq_none.1 hfull w hw
  obtain ⟨l, hl, hway⟩ := List.any_eq_true.1 hused
  have hlw : l.way = w := by simpa using hway
  intro hnone
  exact absurd (List.find?_eq_none.1 hnone l hl) (by simpa [hlw] using hw)

theorem waysFor_ne_nil (h : waysFor s false ≠ []) (xip : Bool) : waysFor s xip ≠ [] := by
  obtain ⟨w, hw⟩ := List.exists_mem_of_ne_nil _ h
  refine List.ne_nil_of_mem (a := w) ?_
  simp only [waysFor, List.mem_filter, List.mem_range, Bool.false_or, Bool.or_eq_true] at hw ⊢
  exact ⟨hw.1, .inr hw.2⟩

/-- A line filled is cached: the one that was, or the flash's bytes (R391). -/
theorem cachedLine_fillLine (a : Nat) (xip : Bool) (h : waysFor s false ≠ []) : ∃ l, cachedLine (fillLine a xip s) a = some l
    ∧ (cachedLine s a = none → l.data = flashRead s a 256) ∧ (∀ m, cachedLine s a = some m → l = m) := by
  have hothers : ∀ y ∈ s.mp.cache.filter (fun l => l.addr != a), y.addr ≠ a := fun y hy => by simpa using (List.mem_filter.1 hy).2
  unfold fillLine
  dsimp only
  split
  · next l hl =>
    have haddr : l.addr = a := by simpa using List.find?_some hl
    refine ⟨l, find?_append_fresh hothers haddr, fun hnone => ?_, fun m hm => Option.some.inj (hl.symm.trans hm)⟩
    rw [hl] at hnone; cases hnone
  · next hmiss =>
    have hno (l : CacheLine) (m : CacheLine) (hm : cachedLine s a = some m) : l = m := by rw [hmiss] at hm; cases hm
    split
    · exact ⟨_, find?_append_fresh hothers rfl, fun _ => rfl, hno _⟩
    · next hfull =>
      split
      · exact ⟨_, find?_append_fresh (fun y hy => hothers y (List.mem_filter.1 hy).1) rfl, fun _ => rfl, hno _⟩
      · next hnone => exact absurd hnone (way_found (waysFor_ne_nil h xip) hfull)

/-- The state with a piece of work off the list. -/
def workTaken (w : MpWork) (s : State) : State := { s with mp := { s.mp with work := s.mp.work.filter (· != w) } }
/-- A line is filled for an XIP port. -/
def lineXip (who : LineFor) (s : State) : Bool :=
  match who with
  | .host p | .fetch p | .prefetch p => (portOf s p.val).xip
  | .entry => false
/-- The state in which a line that was read is cached, its work off the list (R391). -/
def lineFilled (a : Nat) (who : LineFor) (s : State) : State := fillLine a (lineXip who s) (workTaken (.line a who) s)

theorem lineFilled_eq (a : Nat) (who : LineFor) (s : State) :
    ∃ c, lineFilled a who s = { s with mp := { s.mp with work := s.mp.work.filter (· != .line a who), cache := c } } := by
  obtain ⟨c, h⟩ := fillLine_eq a (lineXip who s) (workTaken (.line a who) s)
  exact ⟨c, h⟩

theorem lineDone_lost {w : MpWork} (h : s.mp.flashOk = false) : lineDone w s = workTaken w s := if_pos (by simp [h])

/-- A line that was read for a fetch (R64, R252). -/
theorem lineDone_fetch (a : Nat) (p : Port) (h : s.mp.flashOk = true) :
    lineDone (.line a (.fetch p)) s = advanceFetch p a (fetchRead p a (lineFilled a (.fetch p) s)) := if_neg (by simp [h])

/-- A line that was read for anything else. -/
theorem lineDone_plain {who : LineFor} (a : Nat) (hwho : ∀ p, who ≠ .fetch p) (h : s.mp.flashOk = true) :
    lineDone (.line a who) s = lineFilled a who s := by
  have hok : ¬((!s.mp.flashOk) = true) := by simp [h]
  cases who with
  | fetch p => exact absurd rfl (hwho p)
  | entry => exact if_neg hok
  | host p => exact if_neg hok
  | prefetch p => exact if_neg hok

theorem lineDone_cases (a : Nat) (who : LineFor) (h : s.mp.flashOk = true) :
    lineDone (.line a who) s = lineFilled a who s ∨ ∃ p, lineDone (.line a who) s = advanceFetch p a (fetchRead p a (lineFilled a who s)) := by
  by_cases hwho : ∀ p, who ≠ .fetch p
  · exact .inl (lineDone_plain a hwho h)
  · obtain ⟨p, rfl⟩ := not_forall_not.1 hwho
    exact .inr ⟨p, lineDone_fetch a p h⟩

/-- What a fetch's line changes when its port's fetch goes on or ends. -/
theorem advanceFetch_eq (p : Port) (a : Nat) (s : State) : ∃ pw ps wk c, advanceFetch p a s =
    { s with power := pw, ports := ps, mp := { s.mp with work := wk, current := c } } := by
  unfold advanceFetch
  split
  · exact ⟨_, _, _, _, rfl⟩
  · split
    · exact ⟨_, _, _, _, rfl⟩
    · next f _ _ =>
      obtain ⟨pw, c, h⟩ := queueWork_eq (.line (a + 256) (.fetch p)) (modPort s p.val (fun x => { x with fetch := some { f with next := a + 256 } }))
      exact ⟨pw, _, _, c, h⟩

/-- A fetch whose range or whose patience has ended (R64, R102). -/
theorem advanceFetch_ends {p : Port} {a : Nat} {f : Fetch} (hf : (portOf s p).fetch = some f) (h : f.abandoned = true ∨ f.stop ≤ a + 256) :
    advanceFetch p a s = modPort s p.val (fun x => { x with fetch := none, fetchDone := x.fetchDone || (f.announce && !f.abandoned) }) := by
  simp only [advanceFetch, hf]
  exact if_pos (by simpa using h)

/-- A fetch that goes on (R64). -/
theorem advanceFetch_continues {p : Port} {a : Nat} {f : Fetch} (hf : (portOf s p).fetch = some f) (h : ¬(f.abandoned = true ∨ f.stop ≤ a + 256)) :
    advanceFetch p a s = queueWork (.line (a + 256) (.fetch p)) (modPort s p.val (fun x => { x with fetch := some { f with next := a + 256 } })) := by
  simp only [advanceFetch, hf]
  exact if_neg (by simpa using h)

theorem advanceFetch_turned (p : Port) (a : Nat) (h : s.mp.current = none) : Turned (advanceFetch p a s) := by
  unfold advanceFetch
  split
  · exact .inl h
  · split
    · exact .inl h
    · exact queueWork_turned _ h

theorem linksStand_fetchRead (p : Port) (a : Nat) (s : State) : LinksStand s (fetchRead p a s) := by
  unfold fetchRead
  split
  · exact .refl s
  · exact linksStand_tongsRead _ _ (.refl s)

/-! The bus turns -/

theorem endOp_mp (p : Nat) (o : WinOp) (ok : Bool) (s : State) : ∃ c, (endOp p o ok s).mp = { s.mp with cache := c } := by
  rw [endOp_eq]; split <;> exact ⟨_, rfl⟩

theorem startOps_mp (n : Nat) (s : State) : ∃ c, (startOps n s).mp = { s.mp with cache := c } := by
  induction n generalizing s with
  | zero => exact ⟨_, rfl⟩
  | succ n ih =>
    unfold startOps
    split
    · split
      · exact ⟨_, rfl⟩
      · next p o _ _ =>
        dsimp only
        split
        · exact ⟨_, rfl⟩
        · split
          · obtain ⟨c, hc⟩ := endOp_mp p (planOp s o) true (setOp p (planOp s o) s)
            obtain ⟨c', hc'⟩ := ih (endOp p (planOp s o) true (setOp p (planOp s o) s))
            exact ⟨c', by rw [hc', hc]; rfl⟩
          · exact ⟨_, rfl⟩
    · exact ⟨_, rfl⟩

/-- A line read leaves the strength of the memory port, and an idle bus or the transaction that comes next. -/
theorem lineDone_turned (w : MpWork) (h : s.mp.current = none) :
    (lineDone w s).mp.slewApplied = s.mp.slewApplied ∧ Turned (lineDone w s) := by
  obtain ⟨a, who⟩ := w
  cases hok : s.mp.flashOk with
  | false => rw [lineDone_lost hok]; exact ⟨rfl, .inl h⟩
  | true =>
    obtain ⟨c, hfill⟩ := lineFilled_eq a who s
    rcases lineDone_cases a who hok with hd | ⟨p, hd⟩
    · rw [hd, hfill]; exact ⟨rfl, .inl h⟩
    · have hread := (linksStand_fetchRead p a (lineFilled a who s)).2
      obtain ⟨pw, ps, wk, c', hadv⟩ := advanceFetch_eq p a (fetchRead p a (lineFilled a who s))
      rw [hd]
      refine ⟨?_, advanceFetch_turned p a ?_⟩
      · rw [hadv]
        dsimp only
        rw [hread, hfill]
      · rw [hread, hfill]; exact h

theorem carryOut_turned (c : Transaction) (h : s.mp.current = none) : (carryOut c s).mp.slewApplied = s.mp.slewApplied ∧ Turned (carryOut c s) := by
  cases c with
  | read w => exact lineDone_turned w h
  | drain => exact ⟨rfl, .inl h⟩
  | flash =>
    obtain ⟨c, hc⟩ := startOps_mp 16 s
    refine ⟨?_, .inl ?_⟩
    · change (startOps 16 s).mp.slewApplied = _
      rw [hc]
    · change (startOps 16 s).mp.current = none
      rw [hc]; exact h

theorem transactionDone_idle (h : onBus s = none) : transactionDone s = s := by rw [transactionDone, h]

theorem transactionDone_some {c : Transaction} (h : onBus s = some c) : transactionDone s = beginNext (carryOut c (endTransaction s)) := by
  rw [transactionDone, h]

/-- A transaction that ends leaves the strength as configured and starts what comes next (R43, R393). -/
theorem transactionDone_turns (h : onBus s ≠ none) :
    (transactionDone s).mp.slewApplied = bits s.board.slew 19 16 ∧ (transactionDone s).mp.current = nextTransaction (transactionDone s) := by
  obtain ⟨c, hc⟩ := Option.ne_none_iff_exists'.1 h
  obtain ⟨hslew, hturn⟩ := carryOut_turned c (s := endTransaction s) rfl
  rw [transactionDone_some hc]
  refine ⟨?_, beginNext_current hturn⟩
  rw [beginNext_eq]
  exact hslew

/-- A flash turn starts the oldest write (R396). -/
theorem startOps_starts {rest : List (Nat × WinOp)} (n : Nat) (hready : mpReady s = true) (hok : s.mp.flashOk = true)
    (hops : winOps s = (p, o) :: rest) (hstart : o.started = false) (hsteps : (planOp s o).steps ≠ []) :
    startOps (n + 1) s = setOp p (planOp s o) s := by
  rw [startOps, if_pos (by simp [hready, hok]), hops]
  dsimp only
  rw [if_neg (by simp [hstart]), if_neg hsteps]

/-- Where a flash turn comes next the port is ready, the flash is there, and no write runs (R393). -/
theorem nextTransaction_flash (h : nextTransaction s = some .flash) : mpReady s = true ∧ flashBusy s = false ∧ s.mp.flashOk = true := by
  unfold nextTransaction at h
  split at h
  · cases h
  · next hready =>
    split at h
    · cases h
    · split at h
      · cases h
      · split at h
        · next hturn =>
          simp only [Bool.and_eq_true, Bool.not_eq_true'] at hturn
          exact ⟨by simpa using hready, hturn.1.1, hturn.2⟩
        · split at h
          · cases h
          · simp at h

theorem planOp_seq (s : State) (o : WinOp) : (planOp s o).seq = o.seq := by
  unfold planOp
  split
  · rfl
  · rfl
  · dsimp only
    split
    · rfl
    · split <;> rfl

theorem planOp_started (s : State) (o : WinOp) : (planOp s o).started = true := by
  unfold planOp
  split
  · rfl
  · rfl
  · dsimp only
    split
    · rfl
    · split <;> rfl

/-! Status polls and time limits -/

/-- A poll of a flash that is there on a free bus, while a write runs: two equal bytes end the check that is due (R398, R405). -/
theorem statusPoll_running {w v r : Bool} (hfree : busFree s = true) (hok : s.mp.flashOk = true) (hrun : runningOp s = some (p, o)) :
    statusPoll true w v r s = beginNext (if w then checkDone s else if v then stepDone p o (checkDone s) else stepMismatch p o (checkDone s)) := by
  have hbusy : flashBusy s = true := by rw [flashBusy, hrun]; rfl
  have hgate : ¬((!busFree s || (!flashBusy s && !s.mp.statusDue) || !s.mp.flashOk) = true) := by simp [hfree, hbusy, hok]
  have hrun' : runningOp (checkDone s) = some (p, o) := hrun
  have hread : readStatus true r s = checkDone s := rfl
  have hok' : ¬((!(checkDone s).mp.flashOk) = true) := by simp [checkDone, hok]
  simp only [statusPoll, if_neg hgate, hread, if_neg hok', hrun']

theorem statusPoll_idle {e w v r : Bool} (h : busFree s = false ∨ s.mp.flashOk = false ∨ (runningOp s = none ∧ s.mp.statusDue = false)) :
    statusPoll e w v r s = s := by
  refine if_pos ?_
  rcases h with h | h | ⟨h, hd⟩
  · simp [h]
  · simp [h]
  · simp [flashBusy, h, hd]

/-- A due poll with unequal bytes that cannot re-enter the configuration ends the flash's use (R405). -/
theorem statusPoll_lost {w v : Bool} (hfree : busFree s = true) (hok : s.mp.flashOk = true) (hdue : s.mp.statusDue = true) (hsev : sevOf s 4 4 ≤ 1) :
    statusPoll false w v false s = flashGone (recordOnly 4 4 0 (sevOf s 4 4) none (checkDone s)) := by
  have hgate : ¬((!busFree s || (!flashBusy s && !s.mp.statusDue) || !s.mp.flashOk) = true) := by simp [hfree, hdue, hok]
  have hread : readStatus false false s = flashGone (recordOnly 4 4 0 (sevOf s 4 4) none (checkDone s)) :=
    congrArg flashGone (raise_minor (s := checkDone s) hsev)
  rw [statusPoll, if_neg hgate, hread]
  exact if_pos rfl

/-- The flash with a step's content, nothing interrupted (R398). -/
def stepPut (o : WinOp) (st : Option Nat) (s : State) : State :=
  flashPut (stepResult s o st).1 (stepResult s o st).2 { s with mp := { s.mp with interrupted := false } }

theorem stepDone_cons {st : Option Nat} {rest : List (Option Nat)} (h : o.steps = st :: rest) :
    stepDone p o s = if rest = [] then startOps 16 (endOp p o true (stepPut o st s))
      else setOp p { o with steps := rest, repeated := false } (stepPut o st s) := by
  rw [stepDone, h]
  rfl

theorem busOnly_stepDone {st : Option Nat} {rest : List (Option Nat)} (h : o.steps = st :: rest) : BusOnly (stepPut o st s) (stepDone p o s) := by
  rw [stepDone_cons h]
  split
  · exact (busOnly_endOp _ _ _ _).trans (busOnly_startOps _ _)
  · exact busOnly_setOp _ _ _

theorem latches_of_beside {x y : PortState} {ok : Bool} (h : besideQueue x = besideQueue (latched ok y)) :
    x.wip = false ∧ x.wel = false ∧ x.err = (y.err || !ok) :=
  ⟨congrArg PortState.wip h, congrArg PortState.wel h, congrArg PortState.err h⟩

theorem portOf_beginNext (s : State) (q : Nat) : portOf (beginNext s) q = portOf s q := by rw [portOf, beginNext_ports, portOf]

/-- A write that has ended: its number is in no queue place of its port, and an XIP port's latches tell how (R83, R395). -/
theorem startOps_endOp (hp : p < s.ports.length) (ok : Bool) :
    (∀ y ∈ (portOf (beginNext (startOps 16 (endOp p o ok s))) p).winQueue, y.seq ≠ o.seq)
      ∧ (o.kind ≠ .winWr → (portOf (beginNext (startOps 16 (endOp p o ok s))) p).wip = false
        ∧ (portOf (beginNext (startOps 16 (endOp p o ok s))) p).wel = false
        ∧ (portOf (beginNext (startOps 16 (endOp p o ok s))) p).err = ((portOf s p).err || !ok)) := by
  rw [portOf_beginNext]
  refine ⟨not_mem_seqs.1 fun hmem => seq_endOp p o ok s (seqs_startOps_subset _ _ _ hmem), fun hk => latches_of_beside ?_⟩
  rw [besideQueue_startOps, portOf_endOp_latched hp hk]

/-- A write that fails has its address recorded and its target's octets open (R398, R399). -/
def failTarget (p : Nat) (o : WinOp) (s : State) : State :=
  let r := stepResult s o (o.steps.head?.getD none)
  flashPut r.1 ((List.range r.2.length).map (fun i => Config.brokenFlashByte s.mono (r.1 + i))) { s with mp := { s.mp with
    wfSource := if o.kind = .winWr then 0 else 1, wfPort := p, wfAddr := r.1 / 256 * 256, interrupted := false } }
/-- The same with WRITE_FAIL raised. -/
def failNoted (p : Nat) (o : WinOp) (s : State) : State := recordOnly 4 2 p (sevOf s 4 2) none (failTarget p o s)

theorem failOp_minor (hsev : sevOf s 4 2 ≤ 1) : failOp p o s = startOps 16 (endOp p o false (failNoted p o s)) :=
  congrArg (fun t => startOps 16 (endOp p o false t)) (raise_minor (s := failTarget p o s) hsev)

theorem stepMismatch_fails (h : s.mp.interrupted = false ∨ o.repeated = true) : stepMismatch p o s = failOp p o s := by
  refine if_neg ?_
  rcases h with h | h <;> simp [h]

/-- A write that fails, by its parts (R83, R398, R399). -/
theorem failOp_parts (hp : p < s.ports.length) (hhealth : 4 < s.health.length) (hsev : sevOf s 4 2 ≤ 1) {w : Nat × Bytes}
    (hw : w = stepResult s o (o.steps.head?.getD none)) :
    ∃ t, beginNext (failOp p o s) = t ∧ Raised t 4 2 ∧ t.mp.wfAddr = w.1 / 256 * 256 ∧ t.mp.wfPort = p
      ∧ t.mp.wfSource = (if o.kind = .winWr then 0 else 1) ∧ (∀ y ∈ (portOf t p).winQueue, y.seq ≠ o.seq)
      ∧ (o.kind ≠ .winWr → (portOf t p).err = true ∧ (portOf t p).wip = false)
      ∧ (∀ a, (a < w.1 ∨ w.1 + w.2.length ≤ a) → assocGetD 0xFF t.mp.flash a = assocGetD 0xFF s.mp.flash a) ∧ WorkStands s t := by
  have hbus : BusOnly (failNoted p o s) (beginNext (failOp p o s)) := by
    rw [failOp_minor hsev]
    exact (busOnly_endOp _ _ _ _).trans ((busOnly_startOps _ _).trans (busOnly_beginNext _))
  have hmp : ∃ c c', (beginNext (failOp p o s)).mp = { (failNoted p o s).mp with cache := c, current := c' } := by
    obtain ⟨c, hstart⟩ := startOps_mp 16 (endOp p o false (failNoted p o s))
    obtain ⟨c', hend⟩ := endOp_mp p o false (failNoted p o s)
    rw [beginNext_eq, failOp_minor hsev, hstart, hend]
    exact ⟨_, _, rfl⟩
  obtain ⟨c, c', hmp⟩ := hmp
  have hqueue := startOps_endOp (s := failNoted p o s) (o := o) hp false
  rw [← failOp_minor hsev] at hqueue
  refine ⟨_, rfl, ?_, ?_, ?_, ?_, hqueue.1, fun hk => ?_, fun a ha => ?_, WorkStands.trans ⟨rfl, rfl, rfl, rfl, rfl, rfl, rfl⟩ hbus.workStands⟩
  · rw [Raised, blockOf, hbus.health]
    exact raised_recordOnly hhealth
  · rw [hmp, hw]; rfl
  · rw [hmp]; rfl
  · rw [hmp]; rfl
  · obtain ⟨hwip, -, herr⟩ := hqueue.2 hk
    exact ⟨herr.trans (Bool.or_true _), hwip⟩
  · rw [hbus.2.1]
    refine memWrite_other ?_
    rw [← hw]
    simpa using ha

end

end Sys2Proof.Proofs
end

section
/-! PROOFS. The Tongs' windows: what bytes that are read do to each of the eight windows and to its register (R252 to R254). -/

namespace Sys2Proof.Proofs

open Sys2Proof.Machine Sys2Proof.Safety Sys2Proof.Laws

section
variable {s t u : State} {T U : Nat → Prop} {a w : Nat} {b : Bytes} {n : Snoop}

/-- The Tongs have changed windows in `T`, their registers, and the health blocks, in which every event stays recorded. -/
structure TongsFed (T : Nat → Prop) (s t : State) : Prop where
  frame : t = { s with snoops := t.snoops, meas := t.meas, health := t.health }
  snoops : t.snoops.length = s.snoops.length
  meas : t.meas.length = s.meas.length
  health : t.health.length = s.health.length
  sev : sevOf t 18 0 = sevOf s 18 0
  raised : ∀ c k, Raised s c k → Raised t c k
  window : ∀ w, ¬T w → t.snoops.getD w {} = s.snoops.getD w {}
  register : ∀ w, ¬T w → t.meas.getD w measReset = s.meas.getD w measReset

theorem TongsFed.refl (s : State) : TongsFed T s s := ⟨rfl, rfl, rfl, rfl, rfl, fun _ _ h => h, fun _ _ => rfl, fun _ _ => rfl⟩

theorem TongsFed.trans (h : TongsFed T s t) (k : TongsFed T t u) : TongsFed T s u where
  frame := by rw [k.frame, h.frame]
  snoops := k.snoops.trans h.snoops
  meas := k.meas.trans h.meas
  health := k.health.trans h.health
  sev := k.sev.trans h.sev
  raised c i hr := k.raised c i (h.raised c i hr)
  window w hw := (k.window w hw).trans (h.window w hw)
  register w hw := (k.register w hw).trans (h.register w hw)

theorem TongsFed.mono (h : TongsFed T s t) (hTU : ∀ w, T w → U w) : TongsFed U s t :=
  { h with window := fun w hw => h.window w (mt (hTU w) hw), register := fun w hw => h.register w (mt (hTU w) hw) }

theorem TongsFed.workStands (h : TongsFed T s t) : WorkStands s t := by
  rw [h.frame]; exact ⟨rfl, rfl, rfl, rfl, rfl, rfl, rfl⟩
theorem TongsFed.mp (h : TongsFed T s t) : t.mp = s.mp := by rw [h.frame]
theorem TongsFed.power (h : TongsFed T s t) : t.power = s.power := by rw [h.frame]

theorem tongsFed_ite {c : Prop} [Decidable c] (ht : TongsFed T s t) : TongsFed T s (if c then t else s) := by
  split
  · exact ht
  · exact .refl s

theorem getD_set_other {α : Type} (l : List α) {v w : Nat} (x d : α) (h : w ≠ v) : (l.set v x).getD w d = l.getD w d := by
  simp [List.getD_eq_getElem?_getD, List.getElem?_set_ne (Ne.symm h)]
theorem getD_set_same {α : Type} {l : List α} {v : Nat} (x d : α) (h : v < l.length) : (l.set v x).getD v d = x := by
  simp [h]

theorem tongsFed_setWindow (w : Nat) (n : Snoop) (s : State) : TongsFed (· = w) s { s with snoops := s.snoops.set w n } :=
  ⟨rfl, List.length_set, rfl, rfl, rfl, fun _ _ h => h, fun _ h => getD_set_other _ _ _ h, fun _ _ => rfl⟩

theorem tongsFed_extendMeas (w : Nat) (b : Bytes) (s : State) : TongsFed (· = w) s (extendMeas w b s) :=
  ⟨rfl, rfl, List.length_set, rfl, rfl, fun _ _ h => h, fun _ _ => rfl, fun _ h => getD_set_other _ _ _ h⟩

theorem tongsFed_recordOnly (b src detail sev : Nat) (s : State) : TongsFed T s (recordOnly b src detail sev none s) :=
  ⟨rfl, rfl, rfl, recordOnly_health_length, sevOf_recordOnly _ _, fun _ _ => raised_recordOnly_mono, fun _ _ => rfl, fun _ _ => rfl⟩

/-! One window -/

/-- A window that is whole: DONE, its register extended (R254). -/
def windowDone (w : Nat) (n : Snoop) (s : State) : State :=
  recordOnly 18 0 w (sevOf s 18 0) none (extendMeas w (sha384 n.fed) { s with snoops := s.snoops.set w { n with state := 3 } })

theorem tongsFed_windowDone (w : Nat) (n : Snoop) (s : State) : TongsFed (· = w) s (windowDone w n s) :=
  ((tongsFed_setWindow w _ s).trans (tongsFed_extendMeas w _ _)).trans (tongsFed_recordOnly _ _ _ _ _)

/-- The bytes meet the frontier of a MEASURING window (R253). -/
def Meets (a : Nat) (b : Bytes) (n : Snoop) : Prop :=
  n.state = 2 ∧ a ≤ n.base + n.fed.length ∧ n.base + n.fed.length < a + b.length
/-- The window with the bytes from its frontier on, up to its end (R253). -/
def fedOn (a : Nat) (b : Bytes) (n : Snoop) : Snoop :=
  { n with fed := n.fed ++ (b.drop (n.base + n.fed.length - a)).take (n.length - n.fed.length) }
/-- The state with such a window. -/
def windowFed (w a : Nat) (b : Bytes) (s : State) : State :=
  { s with snoops := s.snoops.set w (fedOn a b (s.snoops.getD w {})) }

theorem feedWindow_misses (h : ¬Meets a b (s.snoops.getD w {})) : feedWindow w a b s = s := if_neg h

theorem feedWindow_meets (h : Meets a b (s.snoops.getD w {})) : feedWindow w a b s = finishWindow w (windowFed w a b s) := if_pos h

/-- Bytes that meet a window leave it MEASURING, or DONE when they reach its end (R253, R254). -/
theorem feedWindow_met (hw : w < s.snoops.length) (hsev : sevOf s 18 0 ≤ 1) (hn : n = fedOn a b (s.snoops.getD w {}))
    (h : Meets a b (s.snoops.getD w {})) :
    feedWindow w a b s = if n.length ≤ n.fed.length then windowDone w n (windowFed w a b s) else windowFed w a b s := by
  have hget : (windowFed w a b s).snoops.getD w {} = n := by rw [hn]; exact getD_set_same _ _ hw
  have hstate : n.state = 2 := by rw [hn]; exact h.1
  rw [feedWindow_meets h, finishWindow, hget]
  simp only [hstate, true_and]
  split
  · rw [raise_minor (by exact hsev)]; rfl
  · rfl

/-- Bytes that are read change the window they are delivered to, its register, and the event record (R253, R254). -/
theorem tongsFed_feedWindow (w a : Nat) (b : Bytes) (hw : w < s.snoops.length) (hsev : sevOf s 18 0 ≤ 1) :
    TongsFed (· = w) s (feedWindow w a b s) := by
  by_cases h : Meets a b (s.snoops.getD w {})
  · rw [feedWindow_met hw hsev rfl h]
    have hset : TongsFed (· = w) s (windowFed w a b s) := tongsFed_setWindow w _ s
    split
    · exact hset.trans (tongsFed_windowDone w _ _)
    · exact hset
  · rw [feedWindow_misses h]; exact .refl s

theorem tongsFed_armWindow (w a n : Nat) (s : State) : TongsFed (· = w) s (armWindow w a n s) := tongsFed_ite (tongsFed_setWindow w _ s)

/-- A window that bytes meet, its end not reached. -/
theorem feedWindow_goes (hw : w < s.snoops.length) (hsev : sevOf s 18 0 ≤ 1) (hn : n = fedOn a b (s.snoops.getD w {}))
    (h : Meets a b (s.snoops.getD w {})) (hopen : n.fed.length < n.length) :
    (feedWindow w a b s).snoops.getD w {} = n ∧ (feedWindow w a b s).meas.getD w measReset = s.meas.getD w measReset := by
  rw [feedWindow_met hw hsev hn h, if_neg (by omega), hn]
  exact ⟨getD_set_same _ _ hw, rfl⟩

/-- A window that bytes fill (R254). -/
theorem feedWindow_ends (hw : w < s.snoops.length) (hm : w < s.meas.length) (hh : 18 < s.health.length) (hsev : sevOf s 18 0 ≤ 1)
    (hn : n = fedOn a b (s.snoops.getD w {})) (h : Meets a b (s.snoops.getD w {})) (hdone : n.length ≤ n.fed.length) :
    (feedWindow w a b s).snoops.getD w {} = { n with state := 3 } ∧ Raised (feedWindow w a b s) 18 0
      ∧ ((feedWindow w a b s).meas.getD w measReset).value = sha384 ((s.meas.getD w measReset).value ++ sha384 n.fed) := by
  rw [feedWindow_met hw hsev hn h, if_pos hdone]
  refine ⟨getD_set_same _ _ ?_, raised_recordOnly hh, ?_⟩
  · simpa [windowFed] using hw
  · change ((s.meas.set w _).getD w measReset).value = _
    rw [getD_set_same _ _ hm]; rfl

/-! The eight windows -/

/-- Each window in turn: window `w` sees what the act does to it alone. -/
theorem foldl_windows {f : State → Nat → State} (hf : ∀ s v, v < s.snoops.length → sevOf s 18 0 ≤ 1 → TongsFed (· = v) s (f s v))
    {l : List Nat} (hl : ∀ v ∈ l, v < s.snoops.length) (hsev : sevOf s 18 0 ≤ 1) : TongsFed (· ∈ l) s (l.foldl f s) := by
  induction l generalizing s with
  | nil => exact .refl s
  | cons v l ih =>
    have hv := hf s v (hl v (by simp)) hsev
    have hrest := ih (s := f s v) (fun x hx => by rw [hv.snoops]; exact hl x (by simp [hx])) (by rw [hv.sev]; exact hsev)
    exact (hv.mono fun x hx => by simp [hx]).trans (hrest.mono fun x hx => by simp [hx])

theorem foldl_windows_at {f : State → Nat → State} (hf : ∀ s v, v < s.snoops.length → sevOf s 18 0 ≤ 1 → TongsFed (· = v) s (f s v))
    (hlen : s.snoops.length = 8) (hsev : sevOf s 18 0 ≤ 1) (hw : w < 8) :
    ∃ u, TongsFed (· ≠ w) s u ∧ TongsFed (· ≠ w) (f u w) ((List.range 8).foldl f s) := by
  obtain ⟨l, r, hlr⟩ := List.append_of_mem (List.mem_range.2 hw)
  have hnodup : (l ++ w :: r).Nodup := hlr ▸ List.nodup_range
  have hbound (v : Nat) (hv : v ∈ l ++ w :: r) : v < 8 := List.mem_range.1 (hlr ▸ hv)
  have hleft : TongsFed (· ∈ l) s (l.foldl f s) := foldl_windows hf (fun v hv => by rw [hlen]; exact hbound v (by simp [hv])) hsev
  have hstep := hf (l.foldl f s) w (by rw [hleft.snoops, hlen]; exact hw) (by rw [hleft.sev]; exact hsev)
  have hright : TongsFed (· ∈ r) (f (l.foldl f s) w) (r.foldl f (f (l.foldl f s) w)) := by
    refine foldl_windows hf (fun v hv => ?_) (by rw [hstep.sev, hleft.sev]; exact hsev)
    rw [hstep.snoops, hleft.snoops, hlen]
    exact hbound v (by simp [hv])
  obtain ⟨-, hwr, hdisj⟩ := List.nodup_append.1 hnodup
  refine ⟨l.foldl f s, hleft.mono fun v hv => hdisj v hv w (by simp), ?_⟩
  rw [hlr, List.foldl_append, List.foldl_cons]
  exact hright.mono fun v hv => by rintro rfl; exact (List.nodup_cons.1 hwr).1 hv

/-- Bytes that are delivered (R253). -/
theorem deliver_at (a : Nat) (b : Bytes) (hlen : s.snoops.length = 8) (hsev : sevOf s 18 0 ≤ 1) (hw : w < 8) :
    ∃ u, TongsFed (· ≠ w) s u ∧ TongsFed (· ≠ w) (feedWindow w a b u) (deliver a b s) :=
  foldl_windows_at (fun _ v hv hs => tongsFed_feedWindow v a b hv hs) hlen hsev hw

theorem tongsFed_deliver (a : Nat) (b : Bytes) (hlen : s.snoops.length = 8) (hsev : sevOf s 18 0 ≤ 1) : TongsFed (fun _ => True) s (deliver a b s) :=
  (foldl_windows (fun _ v hv hs => tongsFed_feedWindow v a b hv hs) (fun v hv => by rw [hlen]; exact List.mem_range.1 hv) hsev).mono fun _ _ => trivial

theorem tongsFed_read (a : Nat) (b : Bytes) (v : Nat) (hv : v < s.snoops.length) (hsev : sevOf s 18 0 ≤ 1) :
    TongsFed (· = v) s (feedWindow v a b (armWindow v a b.length s)) :=
  have harm := tongsFed_armWindow v a b.length s
  harm.trans (tongsFed_feedWindow v a b (by rw [harm.snoops]; exact hv) (by rw [harm.sev]; exact hsev))

theorem tongsFed_tongsRead (a : Nat) (b : Bytes) (hlen : s.snoops.length = 8) (hsev : sevOf s 18 0 ≤ 1) :
    TongsFed (fun _ => True) s (tongsRead a b s) :=
  (foldl_windows (fun _ v hv hs => tongsFed_read a b v hv hs) (fun v hv => by rw [hlen]; exact List.mem_range.1 hv) hsev).mono fun _ _ => trivial

theorem tongsFed_fetchRead (p : Port) (a : Nat) (hlen : s.snoops.length = 8) (hsev : sevOf s 18 0 ≤ 1) :
    TongsFed (fun _ => True) s (fetchRead p a s) := by
  unfold fetchRead
  split
  · exact .refl s
  · exact tongsFed_tongsRead _ _ hlen hsev

/-- A window bytes do not meet stands, with its register. -/
theorem deliver_misses (hlen : s.snoops.length = 8) (hsev : sevOf s 18 0 ≤ 1) (hw : w < 8) (h : ¬Meets a b (s.snoops.getD w {})) :
    (deliver a b s).snoops.getD w {} = s.snoops.getD w {} := by
  obtain ⟨u, hbefore, hafter⟩ := deliver_at a b hlen hsev hw
  have hu := hbefore.window w (by simp)
  rw [hafter.window w (by simp), feedWindow_misses (by rwa [hu]), hu]

/-- A window bytes meet and do not fill. -/
theorem deliver_goes (hlen : s.snoops.length = 8) (hsev : sevOf s 18 0 ≤ 1) (hw : w < 8) (hn : n = fedOn a b (s.snoops.getD w {}))
    (h : Meets a b (s.snoops.getD w {})) (hopen : n.fed.length < n.length) :
    (deliver a b s).snoops.getD w {} = n ∧ (deliver a b s).meas.getD w measReset = s.meas.getD w measReset := by
  obtain ⟨u, hbefore, hafter⟩ := deliver_at a b hlen hsev hw
  have hu := hbefore.window w (by simp)
  rw [← hu] at hn h
  have hfed := feedWindow_goes (by rw [hbefore.snoops, hlen]; exact hw) (by rw [hbefore.sev]; exact hsev) hn h hopen
  rw [hafter.window w (by simp), hafter.register w (by simp), hfed.1, hfed.2, hbefore.register w (by simp)]
  exact ⟨rfl, rfl⟩

/-- A window bytes fill. -/
theorem deliver_ends (hlen : s.snoops.length = 8) (hm : s.meas.length = 32) (hh : s.health.length = 21) (hsev : sevOf s 18 0 ≤ 1) (hw : w < 8)
    (hn : n = fedOn a b (s.snoops.getD w {})) (h : Meets a b (s.snoops.getD w {})) (hdone : n.length ≤ n.fed.length) :
    (deliver a b s).snoops.getD w {} = { n with state := 3 } ∧ Raised (deliver a b s) 18 0
      ∧ ((deliver a b s).meas.getD w measReset).value = sha384 ((s.meas.getD w measReset).value ++ sha384 n.fed) := by
  obtain ⟨u, hbefore, hafter⟩ := deliver_at a b hlen hsev hw
  have hu := hbefore.window w (by simp)
  rw [← hu] at hn h
  obtain ⟨hsnoop, hraised, hvalue⟩ := feedWindow_ends (by rw [hbefore.snoops, hlen]; exact hw) (by rw [hbefore.meas, hm]; omega)
    (by rw [hbefore.health, hh]; omega) (by rw [hbefore.sev]; exact hsev) hn h hdone
  rw [hafter.window w (by simp), hafter.register w (by simp), hsnoop, hvalue, hbefore.register w (by simp)]
  exact ⟨rfl, hafter.raised _ _ hraised, rfl⟩

/-- The bytes of a window that bytes meet (R253). -/
theorem deliver_fed (hlen : s.snoops.length = 8) (hm : s.meas.length = 32) (hh : s.health.length = 21) (hsev : sevOf s 18 0 ≤ 1) (hw : w < 8)
    (h : Meets a b (s.snoops.getD w {})) : ((deliver a b s).snoops.getD w {}).fed = (fedOn a b (s.snoops.getD w {})).fed := by
  by_cases hopen : (fedOn a b (s.snoops.getD w {})).fed.length < (fedOn a b (s.snoops.getD w {})).length
  · rw [(deliver_goes hlen hsev hw rfl h hopen).1]
  · rw [(deliver_ends hlen hm hh hsev hw rfl h (by omega)).1]

/-- A fed window is not ARMED. -/
theorem feedWindow_not_armed (hw : w < s.snoops.length) (hsev : sevOf s 18 0 ≤ 1) (h : (s.snoops.getD w {}).state ≠ 1) :
    ((feedWindow w a b s).snoops.getD w {}).state ≠ 1 := by
  by_cases hmeet : Meets a b (s.snoops.getD w {})
  · rw [feedWindow_met hw hsev rfl hmeet]
    have hlen : w < (windowFed w a b s).snoops.length := by simpa [windowFed] using hw
    split
    · have hget : (windowDone w (fedOn a b (s.snoops.getD w {})) (windowFed w a b s)).snoops.getD w {}
          = { fedOn a b (s.snoops.getD w {}) with state := 3 } := getD_set_same _ _ hlen
      rw [hget]; simp
    · have hget : (windowFed w a b s).snoops.getD w {} = fedOn a b (s.snoops.getD w {}) := getD_set_same _ _ hw
      rw [hget]; exact h
  · rw [feedWindow_misses hmeet]; exact h

/-- An ARMED window that a read meets is ARMED no longer (R252). -/
theorem tongsRead_starts (hlen : s.snoops.length = 8) (hsev : sevOf s 18 0 ≤ 1) (hw : w < 8) (hn : n = s.snoops.getD w {})
    (harmed : n.state = 1) (hbefore : a < n.base + n.length) (hafter : n.base < a + b.length) :
    ((tongsRead a b s).snoops.getD w {}).state ≠ 1 := by
  obtain ⟨u, hu, ht⟩ := foldl_windows_at (f := fun s w => feedWindow w a b (armWindow w a b.length s))
    (fun _ v hv hs => tongsFed_read a b v hv hs) hlen hsev hw
  have hlenu : w < u.snoops.length := by rw [hu.snoops, hlen]; exact hw
  have harm := tongsFed_armWindow w a b.length u
  have hgot : (armWindow w a b.length u).snoops.getD w {} = { n with state := 2 } := by
    have hwin : u.snoops.getD w {} = n := (hu.window w (by simp)).trans hn.symm
    rw [armWindow, hwin, if_pos ⟨harmed, hbefore, hafter⟩]
    exact getD_set_same _ _ hlenu
  have hstep := feedWindow_not_armed (a := a) (b := b) (s := armWindow w a b.length u) (w := w) (by rw [harm.snoops]; exact hlenu)
    (by rw [harm.sev, hu.sev]; exact hsev) (by rw [hgot]; simp)
  rw [tongsRead, ht.window w (by simp)]
  exact hstep

/-! The bytes of a read -/

theorem slice_length (b : Bytes) (o n : Nat) : (slice b o n).length = n := by
  simp only [slice, List.length_append, List.length_take, List.length_drop, List.length_replicate]
  omega

theorem forwardOver_length (s : State) (a : Nat) (b : Bytes) : (forwardOver s a b).length = b.length := by
  unfold forwardOver
  induction winOps s generalizing b with
  | nil => rfl
  | cons c l ih =>
    rw [List.foldl_cons, ih]
    split
    · simp [overlapPut]
    · rfl

theorem windowBytes_length (s : State) (a n : Nat) : (windowBytes s a n).length = n := by
  rw [windowBytes, forwardOver_length, slice_length]

/-- The line of a fetch starts an ARMED window it meets (R252). -/
theorem fetchRead_starts {p : Port} {f : Fetch} (hf : (portOf s p).fetch = some f) (hlen : s.snoops.length = 8) (hsev : sevOf s 18 0 ≤ 1) (hw : w < 8)
    (hn : n = s.snoops.getD w {}) (harmed : n.state = 1) (hbefore : max a f.first < n.base + n.length) (hafter : n.base < min (a + 256) f.stop)
    (hsome : max a f.first < min (a + 256) f.stop) : ((fetchRead p a s).snoops.getD w {}).state ≠ 1 := by
  simp only [fetchRead, hf]
  refine tongsRead_starts hlen hsev hw hn harmed hbefore ?_
  rw [windowBytes_length]
  omega

end

end Sys2Proof.Proofs
end

section
/-! PROOFS. The memory port's work, transaction by transaction and poll by poll, and the Tongs' backfill
(R64, R253, R254, R368, R391, R393, R397, R398, R405). -/

namespace Sys2Proof.Proofs

open Sys2Proof.Machine Sys2Proof.Safety Sys2Proof.Laws

section
variable {s t : State} {p a w i : Nat} {o : WinOp} {n : Snoop} {who : LineFor} {f : Fetch}

/-! A line read -/

/-- The state in which the line that was on the bus is cached. -/
def lineIn (a : Nat) (who : LineFor) (s : State) : State := lineFilled a who (endTransaction s)

theorem lineIn_eq (a : Nat) (who : LineFor) (s : State) : ∃ c, lineIn a who s =
    { s with mp := { s.mp with work := s.mp.work.filter (· != .line a who), cache := c, current := none, slewApplied := bits s.board.slew 19 16 } } := by
  obtain ⟨c, h⟩ := lineFilled_eq a who (endTransaction s)
  exact ⟨c, h⟩

theorem cachedLine_lineIn (a : Nat) (who : LineFor) (h : waysFor s false ≠ []) : ∃ l, cachedLine (lineIn a who s) a = some l
    ∧ (cachedLine s a = none → l.data = flashRead s a 256) ∧ (∀ m, cachedLine s a = some m → l = m) :=
  cachedLine_fillLine (s := workTaken (.line a who) (endTransaction s)) a _ h

theorem lineRead_plain (hbus : onBus s = some (.read (.line a who))) (hok : s.mp.flashOk = true) (hwho : ∀ p, who ≠ .fetch p) :
    transactionDone s = beginNext (lineIn a who s) :=
  (transactionDone_some hbus).trans (congrArg beginNext (lineDone_plain (s := endTransaction s) a hwho hok))

theorem lineRead_fetch {p : Port} (hbus : onBus s = some (.read (.line a (.fetch p)))) (hok : s.mp.flashOk = true) :
    transactionDone s = beginNext (advanceFetch p a (fetchRead p a (lineIn a (.fetch p) s))) :=
  (transactionDone_some hbus).trans (congrArg beginNext (lineDone_fetch (s := endTransaction s) a p hok))

theorem snoops_lineIn (a : Nat) (who : LineFor) (s : State) : (lineIn a who s).snoops = s.snoops := by
  obtain ⟨c, h⟩ := lineIn_eq a who s; rw [h]
theorem ports_lineIn (a : Nat) (who : LineFor) (s : State) : (lineIn a who s).ports = s.ports := by
  obtain ⟨c, h⟩ := lineIn_eq a who s; rw [h]
theorem sevOf_lineIn (a : Nat) (who : LineFor) (s : State) (b k : Nat) : sevOf (lineIn a who s) b k = sevOf s b k := by
  obtain ⟨c, h⟩ := lineIn_eq a who s; rw [h]; rfl

theorem tongsFed_lineIn (p : Port) (a : Nat) (who : LineFor) (hlen : s.snoops.length = 8) (hsev : sevOf s 18 0 ≤ 1) :
    TongsFed (fun _ => True) (lineIn a who s) (fetchRead p a (lineIn a who s)) :=
  tongsFed_fetchRead p a (by rw [snoops_lineIn, hlen]) (by rw [sevOf_lineIn]; exact hsev)

/-- What a line read leaves of the line that was cached: everything but domains, ports, work, bus, windows and events. -/
theorem lineRead_eq (hbus : onBus s = some (.read (.line a who))) (hok : s.mp.flashOk = true) (hlen : s.snoops.length = 8) (hsev : sevOf s 18 0 ≤ 1) :
    ∃ pw ps wk c sn me he, transactionDone s = { lineIn a who s with
      power := pw, ports := ps, snoops := sn, meas := me, health := he, mp := { (lineIn a who s).mp with work := wk, current := c } } := by
  by_cases hwho : ∀ p, who ≠ .fetch p
  · rw [lineRead_plain hbus hok hwho, beginNext_eq]
    exact ⟨_, _, _, _, _, _, _, rfl⟩
  · obtain ⟨p, rfl⟩ := not_forall_not.1 hwho
    have hread := (tongsFed_lineIn p a (.fetch p) hlen hsev).frame
    obtain ⟨pw, ps, wk, c, hadv⟩ := advanceFetch_eq p a (fetchRead p a (lineIn a (.fetch p) s))
    rw [lineRead_fetch hbus hok, beginNext_eq, hadv, hread]
    exact ⟨_, _, _, _, _, _, _, rfl⟩

theorem portOf_fetchRead (p : Port) (a : Nat) (who : LineFor) (s : State) (q : Nat) :
    portOf (fetchRead p a (lineIn a who s)) q = portOf s q := by
  rw [portOf, (linksStand_fetchRead p a (lineIn a who s)).1, ports_lineIn, portOf]

theorem beginNext_work (s : State) : (beginNext s).mp.work = s.mp.work := by rw [beginNext_eq]
theorem portOf_queueWork (w : MpWork) (s : State) (q : Nat) : portOf (queueWork w s) q = portOf s q := by rw [portOf, queueWork_ports, portOf]

/-- A line of a fetch ends the fetch or loads the next line (R64, R102). -/
theorem lineRead_advances {p : Port} (hbus : onBus s = some (.read (.line a (.fetch p)))) (hok : s.mp.flashOk = true) (hp : p.val < s.ports.length)
    (hf : (portOf s p).fetch = some f) :
    if f.abandoned = true ∨ f.stop ≤ a + 256 then
      (portOf (transactionDone s) p).fetch = none
        ∧ (portOf (transactionDone s) p).fetchDone = ((portOf s p).fetchDone || (f.announce && !f.abandoned))
    else (portOf (transactionDone s) p).fetch = some { f with next := a + 256 } ∧ .line (a + 256) (.fetch p) ∈ (transactionDone s).mp.work := by
  have hport := portOf_fetchRead p a (.fetch p) s p
  have hf' : (portOf (fetchRead p a (lineIn a (.fetch p) s)) p).fetch = some f := by rw [hport]; exact hf
  have hp' : p.val < (fetchRead p a (lineIn a (.fetch p) s)).ports.length := by
    rw [(linksStand_fetchRead p a _).1, ports_lineIn]; exact hp
  rw [lineRead_fetch hbus hok]
  split
  · next h =>
    rw [advanceFetch_ends hf' h, portOf_beginNext, portOf_modPort_same _ _ _ hp', hport]
    exact ⟨rfl, rfl⟩
  · next h =>
    rw [advanceFetch_continues hf' h, portOf_beginNext, portOf_queueWork, portOf_modPort_same _ _ _ hp', beginNext_work]
    exact ⟨rfl, mem_queueWork _ _⟩

/-- A line of a fetch starts an ARMED window it meets (R252). -/
theorem lineRead_starts {p : Port} (hbus : onBus s = some (.read (.line a (.fetch p)))) (hok : s.mp.flashOk = true) (hf : (portOf s p).fetch = some f)
    (hlen : s.snoops.length = 8) (hsev : sevOf s 18 0 ≤ 1) (hw : w < 8) (hn : n = s.snoops.getD w {}) (harmed : n.state = 1)
    (hbefore : max a f.first < n.base + n.length) (hafter : n.base < min (a + 256) f.stop) (hsome : max a f.first < min (a + 256) f.stop) :
    ((transactionDone s).snoops.getD w {}).state ≠ 1 := by
  obtain ⟨pw, ps, wk, c, hadv⟩ := advanceFetch_eq p a (fetchRead p a (lineIn a (.fetch p) s))
  have hsnoops : (transactionDone s).snoops = (fetchRead p a (lineIn a (.fetch p) s)).snoops := by
    rw [lineRead_fetch hbus hok, beginNext_eq, hadv]
  rw [hsnoops]
  exact fetchRead_starts (by rw [portOf, ports_lineIn]; exact hf) (by rw [snoops_lineIn, hlen]) (by rw [sevOf_lineIn]; exact hsev) hw
    (by rw [snoops_lineIn]; exact hn) harmed hbefore hafter hsome

/-! A status poll -/

theorem runningOp_beginNext (s : State) : runningOp (beginNext s) = runningOp s := by rw [beginNext_eq]; rfl

/-- A step that is done and verified: its content is in the flash, and the write goes on or has ended (R83, R395, R398). -/
theorem stepDone_parts {st : Option Nat} {rest : List (Option Nat)} {c : Nat × Bytes} (hrun : runningOp s = some (p, o)) (hsteps : o.steps = st :: rest)
    (hc : c = stepResult s o st) : ∃ t, beginNext (stepDone p o (checkDone s)) = t ∧ flashRead t c.1 c.2.length = c.2
      ∧ (∀ a, (a < c.1 ∨ c.1 + c.2.length ≤ a) → assocGetD 0xFF t.mp.flash a = assocGetD 0xFF s.mp.flash a)
      ∧ (rest ≠ [] → runningOp t = some (p, { o with steps := rest, repeated := false }))
      ∧ (rest = [] → (∀ y ∈ (portOf t p).winQueue, y.seq ≠ o.seq)
          ∧ (o.kind ≠ .winWr → (portOf t p).wip = false ∧ (portOf t p).wel = false))
      ∧ WorkStands s t ∧ t.health = s.health := by
  have hbus : BusOnly (stepPut o st (checkDone s)) (beginNext (stepDone p o (checkDone s))) :=
    (busOnly_stepDone hsteps).trans (busOnly_beginNext _)
  have hflash : (beginNext (stepDone p o (checkDone s))).mp.flash = memWrite 0xFF s.mp.flash c.1 c.2 := by rw [hbus.2.1, hc]; rfl
  refine ⟨_, rfl, ?_, fun a ha => ?_, fun hrest => ?_, fun hrest => ?_, WorkStands.trans ⟨rfl, rfl, rfl, rfl, rfl, rfl, rfl⟩ hbus.workStands, hbus.health⟩
  · rw [flashRead, hflash]
    exact memRead_write _ _ _ _
  · rw [hflash]
    exact memWrite_other (by simpa using ha)
  · have hstart : o.started = true := runningOp_started hrun
    rw [runningOp_beginNext, stepDone_cons hsteps, if_neg hrest]
    exact runningOp_setOp (s := stepPut o st (checkDone s)) hrun rfl hstart
  · have hend := startOps_endOp (s := stepPut o st (checkDone s)) (o := o) (runningOp_mem hrun).1 true
    rw [stepDone_cons hsteps, if_pos hrest]
    exact ⟨hend.1, fun hk => ⟨(hend.2 hk).1, (hend.2 hk).2.1⟩⟩

theorem workStands_checkDone (s : State) : WorkStands s (checkDone s) := ⟨rfl, rfl, rfl, rfl, rfl, rfl, rfl⟩
theorem workStands_flashGone (h : WorkStands s t) : WorkStands s (flashGone t) := h

/-- A flash turn on the bus starts the oldest write (R396). -/
theorem flashTurn_starts {rest : List (Nat × WinOp)} (hbus : onBus s = some .flash) (hnext : nextTransaction s = some .flash)
    (hops : winOps s = (p, o) :: rest) (hsteps : (planOp s o).steps ≠ []) :
    transactionDone s = beginNext (setOp p (planOp s o) (endTransaction s)) := by
  obtain ⟨hready, hidle, hok⟩ := nextTransaction_flash hnext
  have hstart : o.started = false := by
    have hnone : (winOps s).find? (fun c => c.2.started) = none := by simpa [flashBusy, runningOp] using hidle
    simpa using List.find?_eq_none.1 hnone (p, o) (by simp [hops])
  rw [transactionDone_some hbus]
  exact congrArg beginNext (startOps_starts (s := endTransaction s) 15 hready hok hops hstart hsteps)

/-! The backfill -/

/-- No chunk begins where nothing is open, MEASURING, or granted (R253, R258). -/
theorem backfill_rests (h : tongsEngine s = none)
    (hwhy : backfillOpen s = false ∨ s.snoops.zipIdx.find? (fun c => c.1.state == 2) = none ∨ tongsGrant s = none) : backfill s = s := by
  simp only [backfill, h]
  split
  · rfl
  · next hopen =>
    split
    · next hfind hgrant =>
      have hclosed : backfillOpen s = false := by simpa [hfind, hgrant] using hwhy
      exact absurd (by simp [hclosed]) hopen
    · rfl

theorem backfill_takes (h : tongsEngine s = none) (hopen : backfillOpen s = true)
    (hfind : s.snoops.zipIdx.find? (fun c => c.1.state == 2) = some (n, w)) (hgrant : tongsGrant s = some i) : backfill s = tongsTake w i s := by
  simp only [backfill, h, hfind, hgrant]
  exact if_neg (by simp [hopen])

theorem digestPds_lt (h : i ∈ digestPds) : i < 50 := by
  simp only [digestPds, List.mem_map, List.mem_range] at h
  omega

theorem tongsGrant_lt (h : tongsGrant s = some i) : i < 50 := by
  unfold tongsGrant at h
  dsimp only at h
  split at h
  · cases h
  · exact digestPds_lt (List.mem_of_find?_eq_some h)

theorem tongsEngine_runs (h : tongsEngine s = some (i, w)) : i < 50 ∧ (pdOf s i).running = some (.tongs w) := by
  obtain ⟨j, hj, hrun⟩ := List.exists_of_findSome?_eq_some h
  split at hrun
  · next v hv =>
    obtain ⟨rfl, rfl⟩ := Prod.mk.inj (Option.some.inj hrun)
    exact ⟨digestPds_lt hj, hv⟩
  · cases hrun

/-- The window the Tongs take is the one they found. -/
theorem found_window (h : s.snoops.zipIdx.find? (fun c => c.1.state == 2) = some (n, w)) : s.snoops.getD w {} = n := by
  have hmem := List.mem_zipIdx_iff_getElem?.1 (List.mem_of_find?_eq_some h)
  rw [List.getD_eq_getElem?_getD, hmem]; rfl

/-- A chunk that has ended frees its engine (R258). -/
def chunkLeft (i w : Nat) (s : State) : State := if chunkOver (s.snoops.getD w {}) then modPd s i engineNext else s

@[simp] theorem chunkLeft_snoops (i w : Nat) (s : State) : (chunkLeft i w s).snoops = s.snoops := by unfold chunkLeft; split <;> rfl
@[simp] theorem chunkLeft_meas (i w : Nat) (s : State) : (chunkLeft i w s).meas = s.meas := by unfold chunkLeft; split <;> rfl
@[simp] theorem chunkLeft_mp (i w : Nat) (s : State) : (chunkLeft i w s).mp = s.mp := by unfold chunkLeft; split <;> rfl
@[simp] theorem raised_chunkLeft (i w : Nat) (s : State) (b k : Nat) : Raised (chunkLeft i w s) b k ↔ Raised s b k := by
  unfold chunkLeft; split <;> rfl
theorem workStands_chunkLeft (i w : Nat) (s : State) : WorkStands s (chunkLeft i w s) := by
  unfold chunkLeft; split <;> exact ⟨rfl, rfl, rfl, rfl, rfl, rfl, rfl⟩

theorem backfill_over (h : tongsEngine s = some (i, w)) (hover : chunkOver (s.snoops.getD w {}) = true) : backfill s = modPd s i engineNext := by
  rw [backfill, h]
  exact if_pos hover

theorem backfill_chunk (h : tongsEngine s = some (i, w)) (hn : n = s.snoops.getD w {}) (hover : chunkOver n = false) :
    backfill s = if !backfillOpen s || writeCovers s (n.base + n.fed.length) (min 256 (n.length - n.fed.length)) then s
      else chunkLeft i w (deliver (n.base + n.fed.length) (flashRead s (n.base + n.fed.length) (min 256 (n.length - n.fed.length))) s) := by
  subst hn
  rw [backfill, h]
  exact if_neg (by rw [hover]; exact Bool.false_ne_true)

theorem chunkOver_false (h : chunkOver n = false) : n.state = 2 ∧ n.fed.length < n.chunk := by
  simpa [chunkOver] using h

end

section
variable {s : State} {i w f k : Nat} {n : Snoop} {m : Bytes}

/-- A burst at the frontier of a MEASURING window meets it, and enters it whole (R253). -/
theorem burst_fed (hstate : n.state = 2) (hopen : n.fed.length < n.length) (hf : f = n.base + n.fed.length) (hk : k = min 256 (n.length - n.fed.length))
    (b : Bytes) (hb : b.length = k) : Meets f b n ∧ fedOn f b n = { n with fed := n.fed ++ b } := by
  refine ⟨⟨hstate, by omega, by omega⟩, ?_⟩
  have hall : (b.drop (n.base + n.fed.length - f)).take (n.length - n.fed.length) = b := by
    rw [hf, Nat.sub_self, List.drop_zero]
    exact List.take_of_length_le (by omega)
  rw [fedOn, hall]

/-- The window whose chunk is on an engine after a burst: MEASURING on, or DONE (R253, R254). -/
theorem burst_window (hshape : Shape s) (hw : w < 8) (hsev : sevOf s 18 0 ≤ 1) (hn : n = s.snoops.getD w {}) (hstate : n.state = 2)
    (hopen : n.fed.length < n.length) (hf : f = n.base + n.fed.length) (hk : k = min 256 (n.length - n.fed.length)) (hm : m = n.fed ++ flashRead s f k) :
    (m.length < n.length ∧ (deliver f (flashRead s f k) s).snoops.getD w {} = { n with fed := m }
        ∧ (deliver f (flashRead s f k) s).meas.getD w measReset = s.meas.getD w measReset)
      ∨ (n.length ≤ m.length ∧ (deliver f (flashRead s f k) s).snoops.getD w {} = { n with fed := m, state := 3 }
        ∧ Raised (deliver f (flashRead s f k) s) 18 0
        ∧ ((deliver f (flashRead s f k) s).meas.getD w measReset).value = sha384 ((s.meas.getD w measReset).value ++ sha384 m)) := by
  obtain ⟨-, -, hh, hmeas, hlen, -⟩ := hshape
  obtain ⟨hmeets, hfed⟩ := burst_fed hstate hopen hf hk (flashRead s f k) (by simp [flashRead, memRead])
  have hfed' : ({ n with fed := m } : Snoop) = fedOn f (flashRead s f k) (s.snoops.getD w {}) := by rw [hm, ← hn, hfed]
  rw [hn] at hmeets
  rcases Nat.lt_or_ge m.length n.length with h | h
  · have hgoes := deliver_goes hlen hsev hw hfed' hmeets h
    exact .inl ⟨h, hgoes⟩
  · have hends := deliver_ends hlen hmeas hh hsev hw hfed' hmeets h
    exact .inr ⟨h, hends⟩

/-- The chunk ends with its bytes, or with its window (R258). -/
theorem running_chunkLeft {t : State} (hi : i < t.power.pds.length) (hrun : (pdOf t i).running = some (.tongs w)) (hstate : n.state = 2)
    (hwin : (m.length < n.length ∧ t.snoops.getD w {} = { n with fed := m }) ∨ (n.length ≤ m.length ∧ t.snoops.getD w {} = { n with fed := m, state := 3 })) :
    (pdOf (chunkLeft i w t) i).running = (if m.length < n.length ∧ m.length < n.chunk then some (.tongs w) else (pdOf t i).suspended) := by
  have hover : chunkOver (t.snoops.getD w {}) = decide ¬(m.length < n.length ∧ m.length < n.chunk) := by
    rcases hwin with ⟨h, hw⟩ | ⟨h, hw⟩
    · rw [hw]; simp [chunkOver, hstate, h]
    · rw [hw]; simp [chunkOver, Nat.not_lt.2 h]
  rw [chunkLeft, hover]
  by_cases h : m.length < n.length ∧ m.length < n.chunk
  · simp [h, hrun]
  · rw [if_pos (decide_eq_true h), if_neg h, pdOf_modPd_same _ _ _ hi]; rfl

/-- A burst of the backfill, by its parts (R253, R254, R258). -/
theorem backfill_burst (hshape : Shape s) (hengine : tongsEngine s = some (i, w)) (hn : n = s.snoops.getD w {}) (hover : chunkOver n = false)
    (hf : f = n.base + n.fed.length) (hk : k = min 256 (n.length - n.fed.length)) (hopen : backfillOpen s = true) (hcovers : writeCovers s f k = false)
    (hw : w < 8) (hroom : n.fed.length < n.length) (hsev : sevOf s 18 0 ≤ 1) (hm : m = n.fed ++ flashRead s f k) :
    ∃ t, backfill s = t ∧ (t.snoops.getD w {}).fed = m ∧ t.mp = s.mp ∧ WorkStands s t
      ∧ (pdOf t i).running = (if m.length < n.length ∧ m.length < n.chunk then some (.tongs w) else (pdOf s i).suspended)
      ∧ (n.length ≤ m.length → (t.snoops.getD w {}).state = 3 ∧ Raised t 18 0
          ∧ (t.meas.getD w measReset).value = sha384 ((s.meas.getD w measReset).value ++ sha384 m))
      ∧ (m.length < n.length → (t.snoops.getD w {}).state = 2 ∧ t.meas.getD w measReset = s.meas.getD w measReset)
      ∧ (∀ v < 8, v ≠ w → ∀ o, o = s.snoops.getD v {} →
        if o.state = 2 ∧ f ≤ o.base + o.fed.length ∧ o.base + o.fed.length < f + k then
          (t.snoops.getD v {}).fed = o.fed ++ ((flashRead s f k).drop (o.base + o.fed.length - f)).take (o.length - o.fed.length)
        else t.snoops.getD v {} = o) := by
  have ⟨_, hpdslen, hh, hmeas, hlen, _⟩ := hshape
  obtain ⟨hstate, -⟩ := chunkOver_false hover
  obtain ⟨hi, hrun⟩ := tongsEngine_runs hengine
  have hblen : (flashRead s f k).length = k := by simp [flashRead, memRead]
  have hfed := tongsFed_deliver f (flashRead s f k) hlen hsev
  have hwin := burst_window hshape hw hsev hn hstate hroom hf hk hm
  have hback : backfill s = chunkLeft i w (deliver f (flashRead s f k) s) := by
    rw [backfill_chunk hengine hn hover, ← hf, ← hk]
    exact if_neg (by simp [hopen, hcovers])
  have hpds : pdOf (deliver f (flashRead s f k) s) i = pdOf s i := by rw [pdOf, hfed.power, pdOf]
  have hrunning := running_chunkLeft (t := deliver f (flashRead s f k) s) (by rw [hfed.power, hpdslen]; exact hi) (by rw [hpds]; exact hrun) hstate
    (hwin.imp (fun h => ⟨h.1, h.2.1⟩) (fun h => ⟨h.1, h.2.1⟩))
  rw [hpds] at hrunning
  refine ⟨_, hback, ?_, ?_, ?_, hrunning, fun hdone => ?_, fun hgoes => ?_, fun v hv hne o ho => ?_⟩
  · rw [chunkLeft_snoops]
    rcases hwin with ⟨-, h, -⟩ | ⟨-, h, -⟩
    · rw [h]
    · rw [h]
  · rw [chunkLeft_mp, hfed.mp]
  · exact WorkStands.trans hfed.workStands (workStands_chunkLeft i w _)
  · rw [chunkLeft_snoops, chunkLeft_meas, raised_chunkLeft]
    rcases hwin with ⟨h, -⟩ | ⟨-, hs, hr, hv⟩
    · omega
    · rw [hs]; exact ⟨rfl, hr, hv⟩
  · rw [chunkLeft_snoops, chunkLeft_meas]
    rcases hwin with ⟨-, hs, hr⟩ | ⟨h, -⟩
    · rw [hs]; exact ⟨hstate, hr⟩
    · omega
  · rw [chunkLeft_snoops]
    subst ho
    split
    · next h => exact deliver_fed hlen hmeas hh hsev hv (by rw [Meets, hblen]; exact h)
    · next h => exact deliver_misses hlen hsev hv (by rw [Meets, hblen]; exact h)

end

/-- Settles O56: the transactions of the bus one by one, then the polls and the time limit of the write that runs, then the backfill. -/
theorem memoryPortFinishesItsWork : Obligations.MemoryPortFinishesItsWork := by
  intro s hshape
  have ⟨hports, hpds, hhealth, _, hsnoops, _, _, hdisp⟩ := hshape
  have hblock : 4 < s.health.length := by omega
  refine ⟨fun h => congrArg Host.Outcome.next (transactionDone_idle h), fun h => ⟨_, rfl, transactionDone_turns h⟩, fun h => ?_,
    fun u who hbus hok hways hsev => ?_, fun p o rest hbus hnext hops hsteps => ?_, fun hfree hok p o hrun => ⟨fun v r => ?_, ?_, ?_⟩,
    fun hfree hok hdue hsev w v => ?_, fun h e w v r => congrArg Host.Outcome.next (statusPoll_idle h), fun h => ?_,
    fun hnone => ⟨fun h => congrArg Host.Outcome.next (backfill_rests hnone h), fun n w i hopen hfind hgrant => ?_⟩,
    fun i w n hengine hn => ⟨fun hover => ?_, fun hover f k hf hk => ⟨fun hwait => ?_, fun hopen hcovers hw hroom hsev m hm => ?_⟩⟩⟩
  · refine ⟨_, congrArg Host.Outcome.next (transactionDone_some h), ?_⟩
    rw [beginNext_eq]
    exact ⟨rfl, rfl, rfl, rfl, rfl, rfl, rfl⟩
  · obtain ⟨l, hcached, hfresh, hkept⟩ := cachedLine_lineIn u who hways
    obtain ⟨pw, ps, wk, c, sn, me, he, heq⟩ := lineRead_eq hbus hok hsnoops hsev
    obtain ⟨lines, hin⟩ := lineIn_eq u who s
    refine ⟨_, l, rfl, ?_, ?_, ?_, hfresh, hkept, fun hwho => ?_, ?_, ?_⟩
    · rw [heq]; exact hcached
    · rw [heq, hin]
    · rw [heq, hin]; exact ⟨rfl, rfl, rfl, rfl, rfl, rfl, rfl⟩
    · rw [lineRead_plain hbus hok hwho, beginNext_eq, hin]; exact ⟨rfl, rfl⟩
    · rintro p f rfl hf
      exact lineRead_advances hbus hok (by rw [hports]; exact p.isLt) hf
    · rintro p f rfl hf w hw n hn harmed hbefore hafter hsome
      exact lineRead_starts hbus hok hf hsnoops hsev hw hn harmed hbefore hafter hsome
  · refine ⟨_, congrArg Host.Outcome.next (flashTurn_starts hbus hnext hops hsteps), ?_, ?_, ?_⟩
    · rw [runningOp_beginNext]
      exact runningOp_setOp_first (s := endTransaction s) hops (planOp_seq s o) (planOp_started s o)
    · rw [beginNext_eq]; rfl
    · rw [beginNext_eq]; exact ⟨rfl, rfl, rfl, rfl, rfl, rfl, rfl⟩
  · refine ⟨_, congrArg Host.Outcome.next (statusPoll_running hfree hok hrun), ?_⟩
    exact beginNext_eq (checkDone s)
  · intro r st rest hsteps c hc
    obtain ⟨t, ht, hparts⟩ := stepDone_parts hrun hsteps hc
    exact ⟨t, congrArg Host.Outcome.next ((statusPoll_running hfree hok hrun).trans ht), hparts⟩
  · rintro hsev w hw c (rfl | ⟨r, rfl, hfails⟩)
    · obtain ⟨t, ht, hparts⟩ := failOp_parts (runningOp_mem hrun).1 hblock hsev hw
      refine ⟨t, ?_, hparts⟩
      rw [← ht]
      change Host.Outcome.next _ = _
      rw [hrun]
    · obtain ⟨t, ht, hparts⟩ := failOp_parts (s := checkDone s) (runningOp_mem hrun).1 hblock hsev hw
      rw [← stepMismatch_fails (s := checkDone s) (p := p) hfails] at ht
      exact ⟨t, congrArg Host.Outcome.next ((statusPoll_running hfree hok hrun).trans ht), hparts⟩
  · have hraised : Raised (recordOnly 4 4 0 (sevOf s 4 4) none (checkDone s)) 4 4 := raised_recordOnly hblock
    exact ⟨_, congrArg Host.Outcome.next (statusPoll_lost hfree hok hdue hsev), rfl, hraised, rfl,
      workStands_flashGone (WorkStands.trans (workStands_checkDone s) (workStands_recordOnly _ _ _ _ _ _))⟩
  · change Host.Outcome.next _ = _
    rw [h]
  · have hi : i < s.power.pds.length := by rw [hpds]; exact tongsGrant_lt hgrant
    refine ⟨_, congrArg Host.Outcome.next (backfill_takes hnone hopen hfind hgrant), ?_, fun j hj => ?_, ?_, ⟨rfl, rfl, rfl, rfl, rfl, rfl, rfl⟩, rfl, ?_⟩
    · exact pdOf_modPd_same _ _ _ hi
    · exact pdOf_modPd_ne _ _ (Ne.symm hj)
    · rw [← found_window hfind]; rfl
    · exact congrArg Arbiter.grants (getD_set_same (l := s.dispatchers) _ _ (by omega))
  · exact congrArg Host.Outcome.next (backfill_over hengine (hn ▸ hover))
  · refine congrArg Host.Outcome.next ((backfill_chunk hengine hn hover).trans (if_pos ?_))
    rw [← hf, ← hk]
    simpa using hwait
  · obtain ⟨t, ht, hparts⟩ := backfill_burst hshape hengine hn hover hf hk hopen hcovers hw hroom hsev hm
    exact ⟨t, congrArg Host.Outcome.next ht, hparts⟩

end Sys2Proof.Proofs
end

section
/-! PROOFS. Register reads: REG_RD outside BOOT and RECOVERY (R55, R60, R92, R95), and the words a port cannot see (R89, R93). -/

namespace Sys2Proof.Proofs

open Sys2Proof.Machine Sys2Proof.Safety Sys2Proof.Laws

/-! REG_RD -/

section
variable {s : State} {p : Port} {k : Link} {a n : Nat}

theorem readFrame_regRd (h : Open s) (ha : a < 0x100000000) (hn : n < 0x10000) : readFrame p k (.regRd a n) s = readRegs p k a n s := by
  simp [readFrame, h.2, Nat.mod_eq_of_lt ha, Nat.mod_eq_of_lt hn]

/-- A range of whole words inside the register space is read in time, whatever words it covers (R55, R60, R93). -/
theorem readRegs_ok {p : Nat} (h : Open s) (h4 : 4 ≤ n) (h256 : n ≤ 256) (hn : n % 4 = 0) (ha : a % 4 = 0) (hin : a + n ≤ 0x1000)
    (hcov : covers (portOf s p) k 30 = true) : readRegs p k a n s = ⟨.ok, regBytes s p a n, s⟩ := by
  obtain ⟨hboot, hrecovery⟩ := h
  have hfixed : readFixed (portOf s p) k (regBytes s p a n) s = ⟨.ok, regBytes s p a n, s⟩ := if_pos hcov
  cases hm : s.boot.mode
  case boot => exact absurd hm hboot
  case recovery => exact absurd hm hrecovery
  all_goals simp [readRegs, hm, h4, h256, hn, ha, hin, hfixed]

theorem regBytes_length (s : State) (p a : Nat) (hn : n % 4 = 0) : (regBytes s p a n).length = n := by
  rw [regBytes, words_length]
  omega

end

/-- Settles O13: the frame's read is that of a range of whole words, and reading registers changes none (R91). -/
theorem regRdAnswersTheRegisters : Obligations.RegRdAnswersTheRegisters := by
  intro s p k a n h ho h4 h256 hn ha hin hcov
  have hr : readFrame p k (.regRd a n) s = ⟨.ok, regBytes s p a n, s⟩ :=
    (readFrame_regRd ho (by omega) (by omega)).trans (readRegs_ok ho h4 h256 hn ha hin hcov)
  refine congrArg Host.Outcome.next (nativeFrame_ok h rfl (by simp) hr ?_)
  rw [regBytes_length s p a hn, readLength, Nat.mod_eq_of_lt (by omega)]

/-! The pages of the register space (R87), and what a port does not see of them -/

section
variable {s : State} {p a : Nat}

theorem regWord_portId (s : State) (p : Nat) : regWord s p 0 = 0x65160000 + p * 0x100 + 0x0B := rfl

theorem regWord_timePage (hlo : 0x400 ≤ a) (hhi : a < 0x500) : regWord s p a = timeWord s p a := by
  rw [regWord, if_neg (by omega), if_neg (by omega), if_neg (by omega), if_pos hhi]

theorem regWord_healthPage (hlo : 0x600 ≤ a) (hhi : a < 0x800) : regWord s p a = healthWord s p a := by
  rw [regWord, if_neg (by omega), if_neg (by omega), if_neg (by omega), if_neg (by omega), if_neg (by omega), if_pos hhi]

theorem regWord_operatorPage (hlo : 0x800 ≤ a) (hhi : a < 0xC00) :
    regWord s p a = if isOperator s p then operatorWord s a else 0 := by
  rw [regWord, if_neg (by omega), if_neg (by omega), if_neg (by omega), if_neg (by omega), if_neg (by omega), if_neg (by omega), if_pos hhi]

theorem regWord_factoryPage (hlo : 0xC00 ≤ a) (hhi : a < 0x1000) : regWord s p a = factoryWord s p a := by
  rw [regWord, if_neg (by omega), if_neg (by omega), if_neg (by omega), if_neg (by omega), if_neg (by omega), if_neg (by omega),
    if_neg (by omega), if_pos hhi]

/-- Above the time registers the page holds the meter registers, which the operator port alone sees (R89, R358). -/
theorem timeWord_meter (ha : 0x418 ≤ a) : timeWord s p a = if isOperator s p then meterWord s a else 0 := by
  unfold timeWord
  split
  case h_6 => rfl
  all_goals omega

/-- Outside FACTORY and DEBUG no port sees the factory and debug page (R114). -/
theorem factoryWord_closed (hf : s.boot.mode ≠ .factory) (hd : s.boot.mode ≠ .debug) : factoryWord s p a = 0 := by
  simp [factoryWord, hf, hd]

/-- Another port's health group is hidden from a port that is not the operator port, but for `HP_0` in RECOVERY (R89, R95). -/
theorem groupRead_otherPort {q : Nat} (hop : isOperator s p = false) (hmode : s.boot.mode ≠ .recovery) (hq : q < 4) (hne : q ≠ p) :
    groupRead s p q = false := by
  have hport : ¬4 ≤ q := by omega
  simp [groupRead, groupSeen, hop, hmode, hport, hne]

theorem healthWord_hidden (h : groupRead s p ((a - 0x600) / 16) = false) : healthWord s p a = 0 := by
  simp [healthWord, h]

end

/-- Settles O14: each address lies in a page whose word is 0 for a port that does not see it. -/
theorem identityAndInvisibleWords : Obligations.IdentityAndInvisibleWords := by
  intro s p _
  refine ⟨regWord_portId s p, fun a hop hlo hhi => ?_, fun a hop hlo hhi => ?_, fun a hf hd hlo hhi => ?_, fun q a hop hm hq hne hlo hhi => ?_⟩
  · simp [regWord_operatorPage hlo hhi, hop]
  · simp [regWord_timePage (show 0x400 ≤ a by omega) hhi, timeWord_meter hlo, hop]
  · rw [regWord_factoryPage hlo hhi, factoryWord_closed hf hd]
  · have hgroup : (a - 0x600) / 16 = q := by omega
    rw [regWord_healthPage (by omega) (by omega), healthWord_hidden]
    rw [hgroup]
    exact groupRead_otherPort hop hm hq hne

end Sys2Proof.Proofs
end

section
/-! PROOFS. What every command keeps, and the scrap fuse it cannot heal (R115, R138). -/

namespace Sys2Proof.Proofs

open Sys2Proof.Machine Sys2Proof.Safety Sys2Proof.Laws

/-- Each command but the loss of the backup node keeps what `Keeps` says: only that loss sets the clock back (R338). -/
theorem exec_keeps {c : Instr} {s t : State} (hc : ∀ b, c ≠ .backupNodePowerUp b) (h : exec c s = .next t) : Keeps s t := by
  cases c with
  | regRd => exact execRegRd_keeps _ _ _ _ h
  | registerWrite => exact execRegisterWrite_keeps _ _ _ _ h
  | memRd => exact execMemRd_keeps _ _ _ _ h
  | memWr => exact execMemWr_keeps _ _ _ _ h
  | push => exact execPush_keeps _ _ _ _ h
  | winRd => exact execWinRd_keeps _ _ _ _ h
  | winWr => exact execWinWr_keeps _ _ _ _ h
  | winFetch => exact execWinFetch_keeps _ _ _ _ h
  | status => exact execStatus_keeps _ _ h
  | roll => exact execRoll_keeps _ _ _ _ h
  | setLanes => exact execSetLanes_keeps _ _ _ h
  | nop => exact execNop_keeps _ _ h
  | laneReset => exact execLaneReset_keeps _ h
  | gatedPortFrame => exact execGatedPortFrame_keeps _ _ _ h
  | portWakeDone => exact execPortWakeDone_keeps _ h
  | xipRead => exact execXipRead_keeps _ _ _ _ h
  | xipReadStatus => exact execXipReadStatus_keeps _ _ _ h
  | xipWriteEnable => exact execXipWriteEnable_keeps _ _ h
  | xipWriteDisable => exact execXipWriteDisable_keeps _ _ h
  | xipPageProgram => exact execXipPageProgram_keeps _ _ _ _ h
  | xipSectorErase => exact execXipSectorErase_keeps _ _ _ h
  | xipReadId => exact execXipReadId_keeps _ _ _ h
  | xipReadSfdp => exact execXipReadSfdp_keeps _ _ _ _ h
  | nymsyEscape => exact execNymsyEscape_keeps _ _ _ h
  | warmReset => exact execWarmReset_keeps _ _ _ h
  | fetchAbort => exact execFetchAbort_keeps _ _ _ h
  | create => exact execCreate_keeps _ _ h
  | pause => exact execPause_keeps _ _ h
  | resume => exact execResume_keeps _ _ h
  | shutdown => exact execShutdown_keeps _ _ h
  | release => exact execRelease_keeps _ _ h
  | query => exact execQuery_keeps _ _ h
  | ringKick => exact execRingKick_keeps _ _ _ h
  | rollAckRing => exact execRollAckRing_keeps _ _ _ h
  | rollAckWord => exact execRollAckWord_keeps _ _ _ _ _ h
  | ringPoll => exact execRingPoll_keeps _ h
  | pushDeposit => exact execPushDeposit_keeps _ h
  | dupHashDone => exact execDupHashDone_keeps _ h
  | hamperAdmission => exact execHamperAdmission_keeps h
  | engineGrant => exact execEngineGrant_keeps _ h
  | agePromotion => exact execAgePromotion_keeps _ h
  | claimWait => exact execClaimWait_keeps _ h
  | preemptSuspend => exact execPreemptSuspend_keeps _ h
  | hamperComplete => exact execHamperComplete_keeps _ h
  | nopEntry => exact execNopEntry_keeps _ h
  | random _ flt => exact execRandom_keeps _ flt h
  | cipher => exact execCipher_keeps _ _ h
  | aeadSeal => exact execAeadSeal_keeps _ _ h
  | aeadOpen => exact execAeadOpen_keeps _ _ h
  | macGen => exact execMacGen_keeps _ _ h
  | macCheck => exact execMacCheck_keeps _ _ h
  | digest _ flt => exact execDigest_keeps _ flt h
  | hmacGen => exact execHmacGen_keeps _ _ h
  | hmacCheck => exact execHmacCheck_keeps _ _ h
  | compare => exact execCompare_keeps _ _ h
  | extend _ flt => exact execExtend_keeps _ flt h
  | quote => exact execQuote_keeps _ _ h
  | ctxExport _ flt => exact execCtxExport_keeps _ flt h
  | ctxImport _ flt => exact execCtxImport_keeps _ flt h
  | sign => exact execSign_keeps _ _ h
  | verify => exact execVerify_keeps _ _ h
  | agree => exact execAgree_keeps _ _ h
  | rsaDecrypt => exact execRsaDecrypt_keeps _ _ h
  | modmath _ flt => exact execModmath_keeps _ flt h
  | issue => exact execIssue_keeps _ _ h
  | deriveExport => exact execDeriveExport_keeps _ _ h
  | deriveTemp => exact execDeriveTemp_keeps _ _ h
  | attest => exact execAttest_keeps _ _ h
  | meterPost => exact execMeterPost_keeps _ _ h
  | meterPostTimeout _ flt => exact execMeterPostTimeout_keeps _ flt h
  | claim => exact execClaim_keeps _ _ h
  | operatorRotate => exact execOperatorRotate_keeps _ _ h
  | domainCreate => exact execDomainCreate_keeps _ _ h
  | domainDestroy => exact execDomainDestroy_keeps _ _ h
  | domainOwnerRotate => exact execDomainOwnerRotate_keeps _ _ h
  | portGrant => exact execPortGrant_keeps _ _ h
  | quotaSet => exact execQuotaSet_keeps _ _ h
  | rateSchedule => exact execRateSchedule_keeps _ _ h
  | meterConfig => exact execMeterConfig_keeps _ _ h
  | timeSet => exact execTimeSet_keeps _ _ h
  | flashLayout => exact execFlashLayout_keeps _ _ h
  | referenceSet => exact execReferenceSet_keeps _ _ h
  | keyImport => exact execKeyImport_keeps _ _ h
  | keyGenerate => exact execKeyGenerate_keeps _ _ h
  | keyReplace => exact execKeyReplace_keeps _ _ h
  | keyDestroy => exact execKeyDestroy_keeps _ _ h
  | sealPolicy => exact execSealPolicy_keeps _ _ h
  | debugUnlock => exact execDebugUnlock_keeps _ _ h
  | recoveryAuth => exact execRecoveryAuth_keeps _ _ h
  | reRoot => exact execReRoot_keeps _ _ h
  | keyLoadDone => exact execKeyLoadDone_keeps _ _ h
  | deviceFullReset => exact execDeviceFullReset_keeps _ h
  | powerOnReset => exact execPowerOnReset_keeps h
  | porRelease => exact execPorRelease_keeps _ h
  | pllLockRetry => exact execPllLockRetry_keeps _ h
  | bootComplete => exact execBootComplete_keeps h
  | hrstRelease => exact execHrstRelease_keeps _ h
  | pfailAssert => exact execPfailAssert_keeps h
  | pfailRelease => exact execPfailRelease_keeps h
  | brownoutWarning => exact execBrownoutWarning_keeps _ h
  | backupSwitchover => exact execBackupSwitchover_keeps _ h
  | vddioHpLoss => exact execVddioHpLoss_keeps h
  | vddioHpReturn => exact execVddioHpReturn_keeps h
  | vddioMpLoss => exact execVddioMpLoss_keeps h
  | vddioMpReturn e w r => exact execVddioMpReturn_keeps e w r h
  | lowBatteryCheck => exact execLowBatteryCheck_keeps _ h
  | spreadCfgWrite => exact execSpreadCfgWrite_keeps _ _ _ h
  | spreadApplied => exact execSpreadApplied_keeps h
  | slewCfgWrite => exact execSlewCfgWrite_keeps _ _ _ h
  | winCacheInvalidate => exact execWinCacheInvalidate_keeps _ _ _ _ h
  | timeTrim => exact execTimeTrim_keeps _ _ _ h
  | ckptNow => exact execCkptNow_keeps _ _ h
  | tamperArmWrite => exact execTamperArmWrite_keeps _ _ _ h
  | pdPolicyWrite => exact execPdPolicyWrite_keeps _ _ _ _ h
  | eventClear => exact execEventClear_keeps _ _ _ _ h
  | forceStop => exact execForceStop_keeps _ _ _ _ h
  | wdtEnable => exact execWdtEnable_keeps _ _ _ h
  | wdtDisable => exact execWdtDisable_keeps _ _ _ h
  | wdtSvc => exact execWdtSvc_keeps _ _ _ _ h
  | wdtTimeout => exact execWdtTimeout_keeps _ _ h
  | wdtLockSet => exact execWdtLockSet_keeps _ _ _ _ h
  | wdtLockClear => exact execWdtLockClear_keeps _ _ _ _ h
  | seqWdtExpire => exact execSeqWdtExpire_keeps _ h
  | reactionEnd => exact execReactionEnd_keeps _ h
  | clockGlitch => exact execClockGlitch_keeps _ h
  | supplyGlitch => exact execSupplyGlitch_keeps _ h
  | parityFault => exact execParityFault_keeps _ h
  | rtcStop => exact execRtcStop_keeps h
  | meshTrip => exact execMeshTrip_keeps _ h
  | lidTrip => exact execLidTrip_keeps _ h
  | lightTrip => exact execLightTrip_keeps h
  | tempTamperTrip => exact execTempTamperTrip_keeps _ h
  | vbatUvTrip => exact execVbatUvTrip_keeps _ h
  | glitchTamperTrip => exact execGlitchTamperTrip_keeps _ h
  | fiFire => exact execFiFire_keeps _ _ _ h
  | fiEccGo => exact execFiEccGo_keeps _ _ _ h
  | xselFall => exact execXselFall_keeps h
  | xselBackoffEnd e w r => exact execXselBackoffEnd_keeps e w r h
  | holdLimit => exact execHoldLimit_keeps _ h
  | mpTransactionDone => exact execMpTransactionDone_keeps h
  | flashStatusPoll => exact execFlashStatusPoll_keeps _ _ _ _ h
  | flashOpTimeout => exact execFlashOpTimeout_keeps h
  | tongsBackfill => exact execTongsBackfill_keeps h
  | engineStateClear => exact execEngineStateClear_keeps _ _ h
  | scrubPass => exact execScrubPass_keeps _ h
  | scrubLate => exact execScrubLate_keeps h
  | correctionWriteback => exact execCorrectionWriteback_keeps _ h
  | rowRemap => exact execRowRemap_keeps _ _ h
  | whiskPass => exact execWhiskPass_keeps _ _ _ h
  | whiskStall => exact execWhiskStall_keeps h
  | idleFlush => exact execIdleFlush_keeps h
  | drbgReseed => exact execDrbgReseed_keeps h
  | rngHealthFail => exact execRngHealthFail_keeps h
  | rngRestartDone => exact execRngRestartDone_keeps _ h
  | meterBoundary => exact execMeterBoundary_keeps h
  | meterCounterWrite => exact execMeterCounterWrite_keeps _ h
  | tjSample => exact execTjSample_keeps _ h
  | idleGate => exact execIdleGate_keeps _ h
  | domainGated => exact execDomainGated_keeps _ h
  | holdWake => exact execHoldWake_keeps _ h
  | bankPrewake => exact execBankPrewake_keeps _ h
  | domainWakeDone => exact execDomainWakeDone_keeps _ _ h
  | wakeTimeout => exact execWakeTimeout_keeps _ h
  | fenceRetest => exact execFenceRetest_keeps _ h
  | capWait => exact execCapWait_keeps _ h
  | unknownOpcodeFrame => exact execUnknownOpcodeFrame_keeps _ _ _ h
  | xselRise => exact execXselRise_keeps _ _ h
  | rtcResume => exact execRtcResume_keeps h
  | backupNodePowerUp b => exact absurd rfl (hc b)
  | jtagTapOperation => exact execJtagTapOperation_keeps _ h
  | queuedWakeStart => exact execQueuedWakeStart_keeps h

/-- No command heals the scrap fuse, the loss of the backup node included: the fuse is not in Thermos (R115). -/
theorem exec_scrapFuse {c : Instr} {s t : State} (hs : s.board.scrapFuse = true) (h : exec c s = .next t) : t.board.scrapFuse = true := by
  by_cases hc : ∃ b, c = .backupNodePowerUp b
  · obtain ⟨b, rfl⟩ := hc
    obtain ⟨-, -, -, hfuse⟩ := execBackupNodePowerUp_forms b h
    exact hfuse hs
  · obtain ⟨-, -, -, hfuse, -⟩ := exec_keeps (not_exists.1 hc) h
    exact hfuse hs

/-- A step is a tick, which keeps the fuse, or a command on the rest of the queue. -/
theorem step_scrapFuse {s t : State} (hs : s.board.scrapFuse = true) (h : step s = .next t) : t.board.scrapFuse = true := by
  unfold step at h
  split at h
  · obtain rfl : tick s = t := Host.Outcome.next.inj h
    obtain ⟨-, -, -, hfuse, -⟩ := keeps_tick (Keeps.refl s)
    exact hfuse hs
  · exact exec_scrapFuse (by exact hs) h

theorem lifecycle_scrapped {s : State} (h : s.board.scrapFuse = true) : lifecycle s = .scrapped := if_pos h

/-- Settles O10: the fuse stays blown in every step, and the lifecycle reads it first. -/
theorem scrapFuseStaysBlown : Obligations.ScrapFuseStaysBlown := fun _ _ hs h =>
  ⟨step_scrapFuse hs h, lifecycle_scrapped (step_scrapFuse hs h)⟩

end Sys2Proof.Proofs
end

section
/-! PROOFS. Taints: what a foreign access to the flash does to each of the eight windows and to its register (R256). -/

namespace Sys2Proof.Proofs

open Sys2Proof.Machine Sys2Proof.Safety Sys2Proof.Laws

section
variable {s : State} {w : Nat} {n : Snoop} {m : Meas}

/-- The taint record that extends a register once (R256). -/
def taintRecord (s : State) : Bytes := octets [0x54, 0x41, 0x49, 0x4E, 0x54, 0, 0, 0] ++ toLe 8 s.mono

/-- The register of window `w` once tainted (R256). -/
def taintedMeas (s : State) (m : Meas) : Meas :=
  { value := sha384 (m.value ++ taintRecord s), extends_ := min 0xFFFF (m.extends_ + 1), tainted := true }

/-- The first taint of a window extends its register (R256). -/
def taintExtended (w : Nat) (s : State) : State :=
  { extendMeas w (taintRecord s) s with meas :=
      (extendMeas w (taintRecord s) s).meas.set w { ((extendMeas w (taintRecord s) s).meas.getD w measReset) with tainted := true } }

/-- The register of window `w` has the record of its taint (R256). -/
def taintNoted (w : Nat) (s : State) : State := if (s.meas.getD w measReset).tainted then s else taintExtended w s

theorem tongsFed_setMeas (w : Nat) (m : Meas) (s : State) : TongsFed (· = w) s { s with meas := s.meas.set w m } :=
  ⟨rfl, rfl, List.length_set, rfl, rfl, fun _ _ h => h, fun _ _ => rfl, fun _ h => getD_set_other _ _ _ h⟩

theorem tongsFed_taintNoted (w : Nat) (s : State) : TongsFed (· = w) s (taintNoted w s) := by
  unfold taintNoted
  split
  · exact .refl s
  · exact (tongsFed_extendMeas w _ s).trans (tongsFed_setMeas w _ _)

theorem sevOf_taintNoted (w : Nat) (s : State) (b k : Nat) : sevOf (taintNoted w s) b k = sevOf s b k := by
  unfold taintNoted; split <;> rfl

/-- A register that has the record keeps it as it is. -/
theorem taintNoted_again (h : (s.meas.getD w measReset).tainted = true) : taintNoted w s = s := if_pos h

/-- A register without one is extended by it. -/
theorem taintNoted_first (hw : w < s.meas.length) (hm : m = s.meas.getD w measReset) (h : m.tainted = false) :
    (taintNoted w s).meas.getD w measReset = taintedMeas s m := by
  have hext : (extendMeas w (taintRecord s) s).meas.getD w measReset =
      { m with value := sha384 (m.value ++ taintRecord s), extends_ := min 0xFFFF (m.extends_ + 1) } := by
    rw [hm]; exact getD_set_same _ _ hw
  rw [taintNoted, if_neg (by rw [← hm, h]; decide)]
  exact (getD_set_same _ _ (by rw [extendMeas]; simpa using hw)).trans (by rw [hext]; rfl)

/-- Window `w` with one more taint. -/
def taintCounted (w : Nat) (n : Snoop) (s : State) : State :=
  { s with snoops := s.snoops.set w { n with taints := min 255 (n.taints + 1) } }

theorem taintWindow_idle (h : (s.snoops.getD w {}).state < 2) : taintWindow w s = s := if_pos h

theorem taintWindow_measured (h : 2 ≤ (s.snoops.getD w {}).state) (hsev : sevOf s 18 1 ≤ 1) :
    taintWindow w s = recordOnly 18 1 w (sevOf s 18 1) none (taintCounted w (s.snoops.getD w {}) (taintNoted w s)) := by
  have hnoted : sevOf (taintCounted w (s.snoops.getD w {}) (taintNoted w s)) 18 1 = sevOf s 18 1 := sevOf_taintNoted w s 18 1
  have hraise := raise_minor (detail := w) (dom := none) (hnoted.trans_le hsev)
  rw [hnoted] at hraise
  exact (if_neg (Nat.not_lt.2 h)).trans hraise

/-- A taint changes its window, its register and the event record, and no severity. -/
theorem tongsFed_taintWindow (w : Nat) (hsev : sevOf s 18 1 ≤ 1) :
    TongsFed (· = w) s (taintWindow w s) ∧ sevOf (taintWindow w s) 18 1 = sevOf s 18 1 := by
  by_cases h : (s.snoops.getD w {}).state < 2
  · rw [taintWindow_idle h]; exact ⟨.refl s, rfl⟩
  · rw [taintWindow_measured (Nat.le_of_not_lt h) hsev, sevOf_recordOnly]
    exact ⟨((tongsFed_taintNoted w s).trans (tongsFed_setWindow w _ _)).trans (tongsFed_recordOnly _ _ _ _ _), sevOf_taintNoted w s 18 1⟩

/-! Eight windows -/

theorem tongsFed_taints (l : List Nat) (hsev : sevOf s 18 1 ≤ 1) :
    TongsFed (· ∈ l) s (l.foldl (fun s w => taintWindow w s) s) ∧ sevOf (l.foldl (fun s w => taintWindow w s) s) 18 1 = sevOf s 18 1 := by
  induction l generalizing s with
  | nil => exact ⟨.refl s, rfl⟩
  | cons v l ih =>
    obtain ⟨hv, hkeep⟩ := tongsFed_taintWindow v hsev
    obtain ⟨hrest, hrestSev⟩ := ih (hkeep.trans_le hsev)
    exact ⟨(hv.mono fun x hx => by simp [hx]).trans (hrest.mono fun x hx => by simp [hx]), hrestSev.trans hkeep⟩

/-- A window is tainted in its turn: what comes before and after does not concern it. -/
theorem taintAll_at (hsev : sevOf s 18 1 ≤ 1) (hw : w < 8) :
    ∃ u, TongsFed (· ≠ w) s u ∧ sevOf u 18 1 ≤ 1 ∧ TongsFed (· ≠ w) (taintWindow w u) (taintAll s) := by
  obtain ⟨l, r, hlr⟩ := List.append_of_mem (List.mem_range.2 hw)
  have hnodup : (l ++ w :: r).Nodup := hlr ▸ List.nodup_range
  obtain ⟨-, hwr, hdisj⟩ := List.nodup_append.1 hnodup
  obtain ⟨hleft, hleftSev⟩ := tongsFed_taints l hsev
  have hsevLeft := hleftSev.trans_le hsev
  obtain ⟨-, hstepSev⟩ := tongsFed_taintWindow w hsevLeft
  obtain ⟨hright, -⟩ := tongsFed_taints r (hstepSev.trans_le hsevLeft)
  refine ⟨_, hleft.mono fun v hv => hdisj v hv w (by simp), hsevLeft, ?_⟩
  rw [taintAll, hlr, List.foldl_append, List.foldl_cons]
  exact hright.mono fun v hv => by rintro rfl; exact (List.nodup_cons.1 hwr).1 hv

theorem tongsFed_taintAll (hsev : sevOf s 18 1 ≤ 1) : TongsFed (· ∈ List.range 8) s (taintAll s) := (tongsFed_taints _ hsev).1

/-- An OFF or ARMED window stands, with its register (R256). -/
theorem taintAll_idle (hsev : sevOf s 18 1 ≤ 1) (hw : w < 8) (h : (s.snoops.getD w {}).state < 2) :
    (taintAll s).snoops.getD w {} = s.snoops.getD w {} ∧ (taintAll s).meas.getD w measReset = s.meas.getD w measReset := by
  obtain ⟨u, hu, -, ht⟩ := taintAll_at hsev hw
  have hwin := hu.window w (by simp)
  rw [taintWindow_idle (by rwa [hwin])] at ht
  exact ⟨(ht.window w (by simp)).trans hwin, (ht.register w (by simp)).trans (hu.register w (by simp))⟩

/-- A MEASURING or DONE window counts a taint, and its register has the record once (R256). -/
theorem taintAll_measured (hsev : sevOf s 18 1 ≤ 1) (hw : w < 8) (hsnoops : s.snoops.length = 8) (hmeas : s.meas.length = 32)
    (hhealth : s.health.length = 21) (hn : n = s.snoops.getD w {}) (hm : m = s.meas.getD w measReset) (h : 2 ≤ n.state) :
    (taintAll s).snoops.getD w {} = { n with taints := min 255 (n.taints + 1) } ∧ Raised (taintAll s) 18 1
      ∧ (m.tainted = true → (taintAll s).meas.getD w measReset = m)
      ∧ (m.tainted = false → (taintAll s).meas.getD w measReset = taintedMeas s m) := by
  obtain ⟨u, hu, husev, ht⟩ := taintAll_at hsev hw
  have hwin : u.snoops.getD w {} = n := (hu.window w (by simp)).trans hn.symm
  have hreg : m = u.meas.getD w measReset := hm.trans (hu.register w (by simp)).symm
  have hmono : taintRecord u = taintRecord s := by rw [hu.frame]; rfl
  have hnoted := tongsFed_taintNoted w u
  rw [taintWindow_measured (by rwa [hwin]) husev, hwin] at ht
  refine ⟨(ht.window w (by simp)).trans ?_, ht.raised _ _ (raised_recordOnly ?_), fun htaint => (ht.register w (by simp)).trans ?_,
    fun hclean => (ht.register w (by simp)).trans ?_⟩
  · exact getD_set_same _ _ (by rw [hnoted.snoops, hu.snoops, hsnoops]; exact hw)
  · exact (hnoted.health.trans (hu.health.trans hhealth)).symm ▸ by decide
  · rw [taintNoted_again (by rw [← hreg]; exact htaint)]; exact hreg.symm
  · have hfirst := taintNoted_first (by rw [hu.meas, hmeas]; omega) hreg hclean
    rw [taintedMeas, hmono] at hfirst
    exact hfirst

end

end Sys2Proof.Proofs
end

section
/-! PROOFS. External holds of the memory port: the accepted fall, the rise, the back-off, and the limit of a hold (R403 to R405). -/

namespace Sys2Proof.Proofs

open Sys2Proof.Machine Sys2Proof.Safety Sys2Proof.Laws

section
variable {s : State}

/-! The accepted fall -/

theorem dropAbandoned_mp (s : State) : ∃ k, (dropAbandoned s).mp = { s.mp with work := k } := by
  unfold dropAbandoned
  induction List.range 4 generalizing s with
  | nil => exact ⟨_, rfl⟩
  | cons p l ih =>
    rw [List.foldl_cons]
    split
    · obtain ⟨k, hk⟩ := ih (dropFetch p s)
      exact ⟨k, by rw [hk]; rfl⟩
    · exact ih s

theorem interruptFlash_mp (s : State) : ∃ i, (interruptFlash s).mp = { s.mp with interrupted := i } := by
  cases h : runningOp s with
  | none => rw [interruptFlash_idle h]; exact ⟨_, rfl⟩
  | some c =>
    refine ⟨true, ?_⟩
    rw [interruptFlash_running h, markInterrupted]
    split <;> rfl

/-- Breaking off an access counts no collision. -/
theorem breakOff_collisions (s : State) : (breakOff s).mp.collisions = s.mp.collisions := by
  obtain ⟨i, hi⟩ := interruptFlash_mp (dropAbandoned s)
  obtain ⟨k, hk⟩ := dropAbandoned_mp s
  rw [breakOff, endTransaction]
  dsimp only
  rw [hi, hk]

/-- The level of MP_XSEL_N falls (R403). -/
def xselLow (s : State) : State := { s with board := { s.board with xselN := false } }

/-- The hold has begun: an access in progress is broken off and counts as a collision (R403, R404). -/
def holdBegun (s : State) : State :=
  { busLost (xselLow s) with mp := { (busLost (xselLow s)).mp with
      holdActive := true, holdSince := s.mono,
      collisions := if mastering s then sat 0xFFFF ((busLost (xselLow s)).mp.collisions + 1) else (busLost (xselLow s)).mp.collisions } }

/-- The collision of a device that was mastering is recorded (R403). -/
def collisionNoted (s : State) : State :=
  if mastering s then recordOnly 4 1 0 (sevOf s 4 1) none (holdBegun s) else holdBegun s

theorem health_holdBegun (s : State) : (holdBegun s).health = s.health := (busOnly_busLost (xselLow s)).health

theorem sevOf_holdBegun (s : State) (b k : Nat) : sevOf (holdBegun s) b k = sevOf s b k := by
  rw [sevOf, blockOf, health_holdBegun]; rfl

theorem tongsFed_collisionNoted (s : State) : TongsFed (fun _ => False) (holdBegun s) (collisionNoted s) := by
  unfold collisionNoted
  split
  · exact tongsFed_recordOnly _ _ _ _ _
  · exact .refl _

theorem sevOf_collisionNoted (s : State) (b k : Nat) : sevOf (collisionNoted s) b k = sevOf s b k := by
  unfold collisionNoted
  split
  · rw [sevOf_recordOnly, sevOf_holdBegun]
  · exact sevOf_holdBegun s b k

theorem xselFall_low (h : s.board.xselN = false) : xselFall s = s := if_pos (by simp [h])

theorem xselFall_ignored (hhigh : s.board.xselN = true) (h : s.boot.mode = .recovery ∨ s.board.porHigh = false) : xselFall s = xselLow s :=
  (if_neg (by simp [hhigh])).trans (if_pos h)

/-- An accepted fall is the hold that begins, then the taints. -/
theorem xselFall_accepted (hhigh : s.board.xselN = true) (hmode : s.boot.mode ≠ .recovery) (hpor : s.board.porHigh = true)
    (hsev : sevOf s 4 1 ≤ 1) : xselFall s = taintAll (collisionNoted s) := by
  have hraise := raise_minor (detail := 0) (dom := none) ((sevOf_holdBegun s 4 1).trans_le hsev)
  rw [sevOf_holdBegun] at hraise
  have hfall : xselFall s = taintAll (if mastering s then raise 4 1 0 none (holdBegun s) else holdBegun s) :=
    (if_neg (by simp [hhigh])).trans (if_neg (by simp [hmode, hpor]))
  rw [hfall, hraise]; rfl

/-- What a hold that begins leaves of the memory port's state: the flash and the cache. -/
theorem holdBegun_leaves (s : State) :
    (holdBegun s).board = { s.board with xselN := false } ∧ (holdBegun s).mp.flash = s.mp.flash ∧ (holdBegun s).mp.cache = s.mp.cache
      ∧ WorkStands s (holdBegun s) := by
  have hbus := busOnly_busLost (xselLow s)
  exact ⟨hbus.board, hbus.2.1, busLost_cache _, hbus.workStands⟩

/-- A device that was mastering has its access broken off and the collision counted (R403, R404). -/
theorem holdBegun_collides (h : mastering s = true) :
    (holdBegun s).mp.current = none ∧ (holdBegun s).mp.collisions = min 0xFFFF (s.mp.collisions + 1)
      ∧ ((runningOp s).isSome = true → (holdBegun s).mp.interrupted = true) := by
  have hlost : busLost (xselLow s) = breakOff (xselLow s) := if_pos h
  refine ⟨?_, ?_, fun hrun => ?_⟩
  · change (busLost (xselLow s)).mp.current = none
    rw [hlost]; rfl
  · change (if mastering s then sat 0xFFFF ((busLost (xselLow s)).mp.collisions + 1) else _) = _
    rw [if_pos h, hlost, breakOff_collisions]; rfl
  · change (busLost (xselLow s)).mp.interrupted = true
    rw [hlost]; exact breakOff_interrupted (s := xselLow s) hrun

/-- One that was not only begins its hold. -/
theorem holdBegun_quiet (h : mastering s = false) :
    (holdBegun s).mp = { s.mp with holdActive := true, holdSince := s.mono } ∧ (holdBegun s).ports = s.ports := by
  have hlost : busLost (xselLow s) = xselLow s := if_neg (by rw [show mastering (xselLow s) = false from h]; decide)
  rw [holdBegun, hlost, if_neg (by rw [h]; decide)]
  exact ⟨rfl, rfl⟩

/-- The windows stand until they are tainted. -/
theorem windows_collisionNoted (s : State) : (collisionNoted s).snoops = s.snoops ∧ (collisionNoted s).meas = s.meas
    ∧ (collisionNoted s).mono = s.mono := by
  have hbus := (busOnly_busLost (xselLow s)).1
  have hbegun : (holdBegun s).snoops = s.snoops ∧ (holdBegun s).meas = s.meas ∧ (holdBegun s).mono = s.mono := by
    unfold holdBegun; rw [hbus]; exact ⟨rfl, rfl, rfl⟩
  unfold collisionNoted
  split <;> exact hbegun

/-! The rise -/

/-- What an external master wrote is the flash's only change (R403). -/
theorem foreignWrites_frame (l : List (Nat × Byte)) (s : State) :
    foreignWrites l s = { s with mp := { s.mp with flash := (foreignWrites l s).mp.flash } } := by
  induction l generalizing s with
  | nil => rfl
  | cons c l ih =>
    change foreignWrites l (if c.1 < 2 ^ 28 then flashPut c.1 [c.2] s else s) = { s with mp := { s.mp with
      flash := (foreignWrites l (if c.1 < 2 ^ 28 then flashPut c.1 [c.2] s else s)).mp.flash } }
    conv_lhs => rw [ih]
    split <;> rfl

/-- At each address of the flash the last octet written there stands. -/
theorem foreignWrites_flash (l : List (Nat × Byte)) (s : State) {a : Nat} (ha : a < 2 ^ 28) :
    assocGetD 0xFF (foreignWrites l s).mp.flash a =
      ((l.reverse.find? (fun c => c.1 == a)).map (·.2)).getD (assocGetD 0xFF s.mp.flash a) := by
  induction l generalizing s with
  | nil => rfl
  | cons c l ih =>
    change assocGetD 0xFF (foreignWrites l (if c.1 < 2 ^ 28 then flashPut c.1 [c.2] s else s)).mp.flash a = _
    have hput : assocGetD 0xFF (if c.1 < 2 ^ 28 then flashPut c.1 [c.2] s else s).mp.flash a =
        if c.1 = a then c.2 else assocGetD 0xFF s.mp.flash a := by
      by_cases hc : c.1 = a
      · rw [if_pos (hc ▸ ha), if_pos hc, flashPut, memWrite_get, if_pos (by simp [hc])]; simp [hc]
      · rw [if_neg hc]
        split
        · rw [flashPut]; exact memWrite_other (by simp only [List.length_singleton]; omega)
        · rfl
    rw [ih, hput, List.reverse_cons, List.find?_append]
    cases l.reverse.find? (fun c => c.1 == a) with
    | some d => rfl
    | none =>
      by_cases hc : c.1 = a
      · simp [hc]
      · simp [hc]

/-- The level of MP_XSEL_N rises over what the master wrote (R403). -/
def xselHigh (l : List (Nat × Byte)) (s : State) : State := foreignWrites l { s with board := { s.board with xselN := true } }

theorem xselHigh_frame (l : List (Nat × Byte)) (s : State) :
    xselHigh l s = { s with board := { s.board with xselN := true }, mp := { s.mp with flash := (xselHigh l s).mp.flash } } :=
  foreignWrites_frame l _

/-- A hold of `us` microseconds is timed at the tick the clock shows, and its back-off begins (R403, R404). -/
def holdTimed (us : Nat) (s : State) : State :=
  { s with mp := { s.mp with
      holdActive := false, backoffPending := true, longestUs := max s.mp.longestUs (min 0xFFFF us),
      holds := recentHolds s ++ [(s.mono, us)] } }

/-- The hold of `us` microseconds has ended at the tick the clock shows (R403, R404). -/
def holdEnded (us : Nat) (s : State) : State :=
  { s with mp := { s.mp with
      holdActive := false, backoffPending := true, longestUs := max s.mp.longestUs (min 0xFFFF us),
      holds := recentHolds s ++ [(s.mono, us)], cache := if s.mp.xselInvalidate then [] else s.mp.cache } }

/-- The hold is timed and its back-off begins; a cache that is to be emptied is emptied (R403). -/
theorem holdEnded_eq (us : Nat) (s : State) : holdEnded us s = if (holdTimed us s).mp.xselInvalidate then emptyCache (holdTimed us s) else holdTimed us s := by
  cases h : s.mp.xselInvalidate <;> simp [holdTimed, holdEnded, emptyCache, h]

theorem xselRise_high {us : Nat} {l : List (Nat × Byte)} (h : s.board.xselN = true) : xselRise us l s = s := if_pos h

theorem xselRise_noHold {us : Nat} {l : List (Nat × Byte)} (hlow : s.board.xselN = false) (h : s.mp.holdActive = false) :
    xselRise us l s = xselHigh l s := by
  have hhold : (xselHigh l s).mp.holdActive = false := by rw [xselHigh_frame]; exact h
  exact (if_neg (by simp [hlow])).trans (if_pos (by change (!(xselHigh l s).mp.holdActive) = true; simp [hhold]))

/-- A rise on whose way no boundary falls ends the hold at its tick (R403; log entry 33). -/
theorem xselRise_hold {us : Nat} {l : List (Nat × Byte)} (hlow : s.board.xselN = false) (h : s.mp.holdActive = true)
    (hquiet : boundaryDue (s.mp.holdSince + usTicks us) s = false) :
    xselRise us l s = holdEnded us { xselHigh l s with mono := max s.mono (s.mp.holdSince + usTicks us) } := by
  have hframe := xselHigh_frame l s
  have helapse : elapseTo ((xselHigh l s).mp.holdSince + usTicks us) (xselHigh l s) =
      { xselHigh l s with mono := max s.mono (s.mp.holdSince + usTicks us) } := by
    rw [hframe]; exact elapseTo_quiet hquiet
  have hhold : ¬(!(xselHigh l s).mp.holdActive) = true := by rw [hframe]; simp [h]
  rw [← helapse, holdEnded_eq]
  exact (if_neg (by simp [hlow])).trans (if_neg hhold)

/-! The back-off, and the limit of a hold -/

theorem xselBackoffEnd_notDue {e v r : Bool} (h : s.mp.backoffPending = false ∨ s.mp.holdActive = true) :
    exec (.xselBackoffEnd e v r) s = .next s :=
  congrArg Host.Outcome.next (if_neg (by rcases h with h | h <;> simp [h]))

theorem xselBackoffEnd_checks {e v r : Bool} (h : s.mp.backoffPending = true) (hhold : s.mp.holdActive = false) :
    exec (.xselBackoffEnd e v r) s = .next (checkConfig e r { s with mp := { s.mp with backoffPending := false } }) :=
  congrArg Host.Outcome.next (if_pos (by simp [h, hhold]))

/-- A check that finds equal status bytes leaves the back-off as it is. -/
theorem checkConfig_equal_backoff {r : Bool} (hfree : busFree s = true) (hok : s.mp.flashOk = true) :
    (checkConfig true r s).mp.backoffPending = s.mp.backoffPending := by
  obtain ⟨c, hc⟩ := startOps_mp 16 (checkDone s)
  rw [checkConfig_equal hfree hok, beginNext_eq, hc]; rfl

/-- A hold that has lasted 10 ms records HOLD_LIMIT at that tick (R404; log entry 33). -/
theorem holdLimit_long (h : s.mp.holdActive = true) (hsev : sevOf s 4 3 ≤ 1) (hquiet : boundaryDue (s.mp.holdSince + 328) s = false) :
    holdLimit true s = recordOnly 4 3 0 (sevOf s 4 3) none { s with mono := max s.mono (s.mp.holdSince + 328) } := by
  have helapse : elapseTo (s.mp.holdSince + usTicks 10000 + 1) s = { s with mono := max s.mono (s.mp.holdSince + 328) } := elapseTo_quiet hquiet
  rw [holdLimit, if_pos rfl, if_pos h, helapse]
  exact raise_minor (s := { s with mono := max s.mono (s.mp.holdSince + 328) }) hsev

/-- Holds of more than 50 ms in 100 ms record it at once (R404). -/
theorem holdLimit_sum (h : 50000 < holdTotal s) (hsev : sevOf s 4 3 ≤ 1) : holdLimit false s = recordOnly 4 3 0 (sevOf s 4 3) none s := by
  rw [holdLimit, if_neg Bool.false_ne_true, if_pos h, raise_minor hsev]

/-! The clauses of O57 -/

/-- The accepted fall (R256, R403). -/
theorem xselFall_holds (hshape : Shape s) (hhigh : s.board.xselN = true) (hmode : s.boot.mode ≠ .recovery) (hpor : s.board.porHigh = true)
    (hcollide : sevOf s 4 1 ≤ 1) (htaint : sevOf s 18 1 ≤ 1) :
    ∃ t, exec .xselFall s = .next t ∧ t.board = { s.board with xselN := false } ∧ t.mp.holdActive = true ∧ mpReady t = false
      ∧ t.mp.flash = s.mp.flash ∧ t.mp.cache = s.mp.cache ∧ WorkStands s t ∧ t.mp.holdSince = s.mono
      ∧ (mastering s = true → t.mp.current = none ∧ t.mp.collisions = min 0xFFFF (s.mp.collisions + 1) ∧ Raised t 4 1
          ∧ ((runningOp s).isSome = true → t.mp.interrupted = true))
      ∧ (mastering s = false → t.mp = { s.mp with holdActive := true, holdSince := s.mono } ∧ t.ports = s.ports)
      ∧ ∀ w < 8, ∀ n m, n = s.snoops.getD w {} → m = s.meas.getD w measReset →
        (n.state < 2 → t.snoops.getD w {} = n ∧ t.meas.getD w measReset = m)
        ∧ (2 ≤ n.state → t.snoops.getD w {} = { n with taints := min 255 (n.taints + 1) } ∧ Raised t 18 1
          ∧ (m.tainted = true → t.meas.getD w measReset = m)
          ∧ (m.tainted = false → t.meas.getD w measReset = taintedMeas s m)) := by
  obtain ⟨-, -, hhealth, hmeas, hsnoops, -⟩ := hshape
  have hsev := (sevOf_collisionNoted s 18 1).trans_le htaint
  have hnoted := tongsFed_collisionNoted s
  have hfed := (hnoted.mono (fun _ h => h.elim)).trans (tongsFed_taintAll hsev)
  obtain ⟨hboard, hflash, hcache, hwork⟩ := holdBegun_leaves s
  obtain ⟨hsn, hme, hmono⟩ := windows_collisionNoted s
  have hlen : (collisionNoted s).health.length = 21 := by rw [hnoted.health, health_holdBegun, hhealth]
  refine ⟨_, congrArg Host.Outcome.next (xselFall_accepted hhigh hmode hpor hcollide), ?_, ?_, ?_, ?_, ?_, ?_, ?_, fun hb => ?_, fun hb => ?_,
    fun w hw n m hn hm => ⟨fun hidle => ?_, fun hmeasured => ?_⟩⟩
  · rw [hfed.frame]; exact hboard
  · rw [hfed.mp]; rfl
  · rw [mpReady, hfed.mp]; simp [holdBegun]
  · rw [hfed.mp]; exact hflash
  · rw [hfed.mp]; exact hcache
  · exact WorkStands.trans hwork hfed.workStands
  · rw [hfed.mp]; rfl
  · obtain ⟨hcurrent, hcount, hint⟩ := holdBegun_collides hb
    rw [hfed.mp]
    refine ⟨hcurrent, hcount, (tongsFed_taintAll hsev).raised _ _ ?_, hint⟩
    rw [collisionNoted, if_pos hb]
    exact raised_recordOnly (by rw [health_holdBegun, hhealth]; decide)
  · rw [hfed.mp, hfed.frame]; exact holdBegun_quiet hb
  · rw [← hsn] at hn
    rw [← hme] at hm
    rw [hn, hm]
    exact taintAll_idle hsev hw (hn ▸ hidle)
  · rw [← hsn] at hn
    rw [← hme] at hm
    have h := taintAll_measured hsev hw (hsn ▸ hsnoops) (hme ▸ hmeas) hlen hn hm hmeasured
    rw [taintedMeas, taintRecord, hmono] at h
    exact h

/-- The rise of a hold, or of a level alone (R403, R404). -/
theorem xselRise_gives (us : Nat) (foreign : List (Nat × Byte)) (hlow : s.board.xselN = false) {m : Nat}
    (hm : m = if s.mp.holdActive then s.mp.holdSince + us * 32768 / 1000000 else 0) (hquiet : boundaryDue m s = false) :
    ∃ t, exec (.xselRise us foreign) s = .next t ∧ t.board = { s.board with xselN := true } ∧ t.mono = max s.mono m
      ∧ WorkStands { s with mono := t.mono } t ∧ t.health = s.health
      ∧ (∀ a < 2 ^ 28, assocGetD 0xFF t.mp.flash a =
          ((foreign.reverse.find? (fun c => c.1 == a)).map (·.2)).getD (assocGetD 0xFF s.mp.flash a))
      ∧ (s.mp.holdActive = true → t.mp.holdActive = false ∧ t.mp.backoffPending = true
          ∧ t.mp.holds = recentHolds { s with mono := t.mono } ++ [(t.mono, us)]
          ∧ t.mp.longestUs = max s.mp.longestUs (min 0xFFFF us) ∧ t.mp.cache = if s.mp.xselInvalidate then [] else s.mp.cache)
      ∧ (s.mp.holdActive = false → t.mp = { s.mp with flash := t.mp.flash }) := by
  have hframe := xselHigh_frame foreign s
  have hflash (a : Nat) (ha : a < 2 ^ 28) := foreignWrites_flash foreign { s with board := { s.board with xselN := true } } ha
  cases hhold : s.mp.holdActive with
  | true =>
    rw [hhold, if_pos rfl] at hm
    subst hm
    refine ⟨_, congrArg Host.Outcome.next (xselRise_hold hlow hhold hquiet), ?_, rfl, ?_, ?_, hflash, fun _ => ⟨rfl, rfl, ?_⟩, nofun⟩
    · rw [hframe]; rfl
    · rw [hframe]; exact ⟨rfl, rfl, rfl, rfl, rfl, rfl, rfl⟩
    · rw [hframe]; rfl
    · rw [hframe]; exact ⟨rfl, rfl, rfl⟩
  | false =>
    rw [hhold, if_neg Bool.false_ne_true] at hm
    subst hm
    refine ⟨_, congrArg Host.Outcome.next (xselRise_noHold hlow hhold), ?_, ?_, ?_, ?_, hflash, nofun, fun _ => ?_⟩
    · rw [hframe]
    · rw [hframe]; exact (Nat.max_zero _).symm
    · rw [hframe]; exact ⟨rfl, rfl, rfl, rfl, rfl, rfl, rfl⟩
    · rw [hframe]
    · rw [hframe]

/-- The end of the back-off, and a check that is done, stand in the memory port alone. -/
theorem workStands_checked (s : State) : WorkStands s (checkDone { s with mp := { s.mp with backoffPending := false } }) :=
  ⟨rfl, rfl, rfl, rfl, rfl, rfl, rfl⟩

/-- A back-off that ends on a free bus over equal status bytes leaves the check done (R405). -/
theorem xselBackoffEnd_equal (w r : Bool) (hback : s.mp.backoffPending = true) (hhold : s.mp.holdActive = false)
    (hfree : busFree { s with mp := { s.mp with backoffPending := false } } = true) (hok : s.mp.flashOk = true) :
    ∃ t, exec (.xselBackoffEnd true w r) s = .next t ∧ t.mp.backoffPending = false ∧ t.mp.statusDue = false ∧ t.mp.flashOk = true
      ∧ t.mp.flash = s.mp.flash ∧ WorkStands s t ∧ t.health = s.health := by
  have hbus := checkConfig_equal_leaves (r := r) hfree hok
  exact ⟨_, xselBackoffEnd_checks hback hhold, checkConfig_equal_backoff hfree hok, hbus.2.2.2.2, hbus.2.2.1.trans hok, hbus.2.1,
    WorkStands.trans (workStands_checked s) hbus.workStands, hbus.health⟩

/-- Over unequal ones that cannot be re-entered it ends the flash's use (R405). -/
theorem xselBackoffEnd_lost (w : Bool) (hback : s.mp.backoffPending = true) (hhold : s.mp.holdActive = false)
    (hfree : busFree { s with mp := { s.mp with backoffPending := false } } = true) (hok : s.mp.flashOk = true)
    (hlen : 4 < s.health.length) (hsev : sevOf s 4 4 ≤ 1) :
    ∃ t, exec (.xselBackoffEnd false w false) s = .next t ∧ t.mp.flashOk = false ∧ Raised t 4 4
      ∧ t.mp.flash = s.mp.flash ∧ WorkStands s t := by
  have hbus := checkConfig_lost_leaves hfree hok hsev
  refine ⟨_, xselBackoffEnd_checks hback hhold, hbus.2.2.1, ?_, hbus.2.1, ?_⟩
  · rw [Raised, blockOf, hbus.health]
    exact raised_recordOnly hlen
  · have hnoted : WorkStands s (recordOnly 4 4 0 (sevOf s 4 4) none (checkDone { s with mp := { s.mp with backoffPending := false } })) :=
      WorkStands.trans (workStands_checked s) (workStands_recordOnly 4 4 0 _ none _)
    exact WorkStands.trans (workStands_flashGone hnoted) hbus.workStands

end

/-- Settles O57: the fall, the rise, the end of the back-off and the limit of a hold, each by the state of the bus it finds. -/
theorem externalMasterHoldsTheBus : Obligations.ExternalMasterHoldsTheBus := by
  intro s hshape
  have hlen : 4 < s.health.length := by rw [hshape.2.2.1]; decide
  refine ⟨fun hlow => ?_, fun hhigh h => ?_, xselFall_holds hshape, fun us foreign => ⟨fun hhigh => ?_, fun hlow m hm hquiet => ?_⟩,
    fun w r h e => ?_, fun w r hback hhold u hu => ⟨fun hwait e => ?_, fun hfree hok => ⟨?_, fun hsev => ?_⟩⟩,
    fun hhold => ?_, fun hhold hsev m hm hquiet => ?_, fun hsum => ?_, fun hsum hsev => ?_⟩
  -- the select input
  · exact congrArg Host.Outcome.next (xselFall_low hlow)
  · exact congrArg Host.Outcome.next (xselFall_ignored hhigh h)
  · exact congrArg Host.Outcome.next (xselRise_high hhigh)
  · exact xselRise_gives us foreign hlow hm hquiet
  -- the back-off
  · exact xselBackoffEnd_notDue h
  · subst hu
    exact (xselBackoffEnd_checks hback hhold).trans (congrArg Host.Outcome.next (checkConfig_waits hwait))
  · subst hu
    exact xselBackoffEnd_equal w r hback hhold hfree hok
  · subst hu
    exact xselBackoffEnd_lost w hback hhold hfree hok hlen hsev
  -- the limit of a hold
  · exact congrArg Host.Outcome.next ((if_pos rfl).trans (if_neg (by simp [hhold])))
  · subst hm
    exact ⟨_, congrArg Host.Outcome.next (holdLimit_long hhold hsev hquiet), raised_recordOnly hlen, rfl, rfl, rfl, workStands_recordOnly _ _ _ _ _ _⟩
  · exact congrArg Host.Outcome.next ((if_neg Bool.false_ne_true).trans (if_neg (Nat.not_lt.2 hsum)))
  · exact ⟨_, congrArg Host.Outcome.next (holdLimit_sum hsum hsev), raised_recordOnly hlen, rfl, rfl, workStands_recordOnly _ _ _ _ _ _⟩

end Sys2Proof.Proofs
end

section
/-! PROOFS. Step 12 of BOOT, what it loads: while no event of health blocks 4, 8, 11, 12 and 19 has severity DEVICE, resuming the issue counters,
settling a claim, the layout, the grants and the meters change neither mode, board, rings, ports, power domains nor the claim (R116, R280, R304,
R329, R350, R355, R413). -/

namespace Sys2Proof.Proofs

open Sys2Proof.Machine Sys2Proof.Safety Sys2Proof.Laws

/-- No event that step 12 can raise has severity DEVICE. -/
def Calm (s : State) : Prop := ∀ b ∈ ([4, 8, 11, 12, 19] : List Nat), ∀ src, sevOf s b src ≤ 3

/-- What loading at step 12 leaves: mode, board, rings, ports, power domains, the flash reset, the claim and its release policy. -/
def bootCore (s : State) : Boot × Board × Assoc Ring × List PortState × Power × Bool × Bool × Bool × List (Nat × Bool × Bool) :=
  (s.boot, s.board, s.rings, s.ports, s.power, s.mp.rstReleased, s.thermos.valid, s.thermos.claimed, s.thermos.release)

/-- From `s` to `t` the core stands, and every severity. -/
def CoreStands (s t : State) : Prop := bootCore t = bootCore s ∧ ∀ b k, sevOf t b k = sevOf s b k

section
variable {s0 s t : State}

theorem CoreStands.refl (s : State) : CoreStands s s := ⟨rfl, fun _ _ => rfl⟩
theorem CoreStands.trans {u : State} (h : CoreStands s t) (k : CoreStands t u) : CoreStands s u :=
  ⟨k.1.trans h.1, fun b c => (k.2 b c).trans (h.2 b c)⟩
theorem CoreStands.calm (h : CoreStands s t) (hc : Calm s) : Calm t := fun b hb src => (h.2 b src).trans_le (hc b hb src)

theorem coreStands_iff : CoreStands s t ↔ (t.boot = s.boot ∧ t.board = s.board ∧ t.rings = s.rings ∧ t.ports = s.ports ∧ t.power = s.power
    ∧ t.mp.rstReleased = s.mp.rstReleased ∧ t.thermos.valid = s.thermos.valid ∧ t.thermos.claimed = s.thermos.claimed
    ∧ t.thermos.release = s.thermos.release) ∧ ∀ b k, sevOf t b k = sevOf s b k := by
  simp only [CoreStands, bootCore, Prod.mk.injEq]

/-- A change of what the core does not hold. -/
theorem coreStands_aside (hs : CoreStands s0 s) (hcore : bootCore t = bootCore s) (hhealth : t.health = s.health) : CoreStands s0 t :=
  hs.trans ⟨hcore, fun b k => by rw [sevOf, blockOf, hhealth]; rfl⟩

theorem coreStands_ite {c : Prop} [Decidable c] (hs : CoreStands s0 s) (ht : CoreStands s0 t) : CoreStands s0 (if c then s else t) := by
  split
  · exact hs
  · exact ht

theorem coreStands_foldl {β : Type} {f : State → β → State} {l : List β} (hf : ∀ t b, CoreStands s0 t → CoreStands s0 (f t b))
    (hs : CoreStands s0 s) : CoreStands s0 (l.foldl f s) := by
  induction l generalizing s with
  | nil => exact hs
  | cons b l ih => exact ih (hf s b hs)

theorem coreStands_modDom (d : Nat) (f : DomRec → DomRec) (hs : CoreStands s0 s) : CoreStands s0 (modDom s d f) := coreStands_aside hs rfl rfl

/-! Events -/

theorem sevOf_modBlock {f : Health → Health} (hf : ∀ h, (f h).sevs = h.sevs) (c b k : Nat) : sevOf (modBlock s c f) b k = sevOf s b k := by
  by_cases hlen : c < s.health.length
  · by_cases hcb : c = b
    · subst hcb
      rw [sevOf, blockOf_modBlock_same _ _ _ hlen, hf, sevOf]
    · rw [sevOf, blockOf_modBlock_ne _ _ hcb, sevOf]
  · rw [modBlock_of_le (Nat.le_of_not_lt hlen)]

theorem coreStands_modBlock {f : Health → Health} (c : Nat) (hf : ∀ h, (f h).sevs = h.sevs) (hs : CoreStands s0 s) : CoreStands s0 (modBlock s c f) :=
  hs.trans ⟨rfl, sevOf_modBlock hf c⟩

theorem coreStands_recordOnly (b src detail sev : Nat) (dom : Option Nat) (hs : CoreStands s0 s) :
    CoreStands s0 (recordOnly b src detail sev dom s) :=
  hs.trans ⟨rfl, fun c k => sevOf_recordOnly c k⟩

theorem coreStands_suspendByEvent (b src d : Nat) (hs : CoreStands s0 s) : CoreStands s0 (suspendByEvent b src d s) := by
  have hdom := coreStands_ite (c := domExists s d = true) (coreStands_modDom d (addCause 1) hs) hs
  exact coreStands_modBlock b (fun _ => rfl) hdom

/-- Below DEVICE a reaction suspends a domain at most (R413). -/
theorem coreStands_reactBase {sev : Nat} (b src : Nat) (dom : Option Nat) (hsev : sev ≤ 3) (hs : CoreStands s0 s) :
    CoreStands s0 (reactBase b src sev dom s) := by
  unfold reactBase
  rw [if_neg (by omega)]
  split
  · exact coreStands_ite (coreStands_suspendByEvent _ _ _ hs) hs
  · exact hs

/-- An event below DEVICE that names no engine leaves the core (R413). -/
theorem coreStands_raise {b src detail : Nat} (dom : Option Nat) (hc : Calm s0) (hb : b ∈ ([4, 8, 11, 12, 19] : List Nat))
    (hf : fenceTarget b src detail = none) (hs : CoreStands s0 s) : CoreStands s0 (raise b src detail dom s) := by
  have hsev := hs.calm hc b hb src
  have hrec := coreStands_recordOnly b src detail (sevOf s b src) dom hs
  have hcapture : CoreStands s0 (captureSev b src detail (sevOf s b src) dom s) :=
    coreStands_ite hrec (coreStands_reactBase b src dom hsev hrec)
  refine coreStands_ite hcapture ?_
  simpa only [reactMajor, hf, ite_self] using hcapture

/-- Blocks 4, 8, 12 and 19 name no engine. -/
theorem coreStands_raise_plain {b src detail : Nat} (dom : Option Nat) (hc : Calm s0) (hb : b ∈ ([4, 8, 12, 19] : List Nat)) (hs : CoreStands s0 s) :
    CoreStands s0 (raise b src detail dom s) := by
  refine coreStands_raise dom hc (List.Subset.trans (List.Subset.refl _) (by decide) hb) (fenceTarget_none ⟨?_, ?_, ?_⟩) hs <;>
    (rintro rfl; revert hb; decide)

/-! Issue counters, and the archive's change that settles a claim -/

theorem coreStands_resumeIssue (hc : Calm s0) (hs : CoreStands s0 s) : CoreStands s0 (resumeIssue s) := by
  refine coreStands_ite hs (coreStands_foldl (fun t d ht => ?_) hs)
  have hdom : CoreStands s0 (modDom { t with issue := assocPut t.issue d (domOf t d).issueMark } d
      (fun r => { r with issueMark := (domOf t d).issueMark + 256 })) := coreStands_aside ht rfl rfl
  exact coreStands_ite hdom (coreStands_raise (src := 5) _ hc (by decide) (by simp [fenceTarget]) hdom)

theorem coreStands_programCells (c : Nat) (b : Bytes) (hs : CoreStands s0 s) : CoreStands s0 (programCells c b s) := coreStands_aside hs rfl rfl
theorem coreStands_flashPut (a : Nat) (v : Bytes) (hs : CoreStands s0 s) : CoreStands s0 (flashPut a v s) := coreStands_aside hs rfl rfl
theorem coreStands_eraseSector (k : Nat) (hs : CoreStands s0 s) : CoreStands s0 (eraseSector k s) :=
  coreStands_flashPut _ _ (coreStands_aside hs rfl rfl)
theorem coreStands_learnCells (hs : CoreStands s0 s) : CoreStands s0 (learnCells s) := coreStands_ite hs (coreStands_aside hs rfl rfl)
theorem coreStands_commitManifest (d : Nat) (debug : Bool) (cell : Nat) (m : Bytes) (hs : CoreStands s0 s) :
    CoreStands s0 (commitManifest d debug cell m s) :=
  coreStands_ite (coreStands_aside hs rfl rfl) (coreStands_aside hs rfl rfl)

theorem coreStands_applyChange (c : ArcChange) (cells : List Nat) (hs : CoreStands s0 s) : CoreStands s0 (applyChange c cells s) :=
  coreStands_commitManifest _ _ _ _ (coreStands_programCells _ _ (coreStands_foldl (fun _ _ ht => coreStands_programCells _ _ ht) hs))

theorem coreStands_emptySector (k : Nat) {l : List LiveManifest} (ht : emptySector k l s = some t) (hs : CoreStands s0 s) : CoreStands s0 t := by
  induction l generalizing s with
  | nil => cases ht; exact hs
  | cons x l ih =>
    unfold emptySector at ht
    split at ht
    · exact ih ht hs
    · split at ht
      · exact ih ht (coreStands_applyChange _ _ hs)
      · cases ht

theorem coreStands_compact (c : ArcChange) (n : Nat) (hs : CoreStands s0 s) : CoreStands s0 (compact c n s) := by
  induction n generalizing s with
  | zero => exact hs
  | succ f ih =>
    refine coreStands_ite hs ?_
    split
    · exact hs
    · split
      · next hempty => exact ih (coreStands_eraseSector _ (coreStands_emptySector _ hempty hs))
      · exact hs

theorem coreStands_makeRoom (c : ArcChange) (hc : Calm s0) (hs : CoreStands s0 s) : CoreStands s0 (makeRoom c s) := by
  have hcompact := coreStands_compact c 4096 hs
  unfold makeRoom noteLow
  exact coreStands_ite hs (coreStands_ite (coreStands_raise_plain _ hc (by decide) hcompact) hcompact)

/-- A change whose programs and erases verify leaves the core, made or refused (R304). -/
theorem coreStands_writeChange (c : ArcChange) (hc : Calm s0) (hs : CoreStands s0 s) : CoreStands s0 (arcState (writeChange true true c s)) := by
  have hroom := coreStands_makeRoom c hc (coreStands_learnCells hs)
  have hsound : compactFails true c (learnCells s) = false := by simp [compactFails]
  unfold writeChange placeChange
  simp only [hsound, Bool.false_eq_true, if_false]
  generalize makeRoom c (learnCells s) = u at hroom ⊢
  split
  · exact coreStands_raise_plain _ hc (by decide) hroom
  · exact coreStands_applyChange _ _ hroom

theorem coreStands_settleClaim (hc : Calm s0) (hs : CoreStands s0 s) : CoreStands s0 (settleClaim s) :=
  coreStands_ite (coreStands_writeChange _ hc hs) hs

/-! Layout and grants -/

theorem coreStands_keepManifest (d : Nat) (hs : CoreStands s0 s) : CoreStands s0 (keepManifest d s) := by
  refine coreStands_ite hs ?_
  split
  · exact coreStands_aside hs rfl rfl
  · exact hs

theorem coreStands_loadEvent (d : Nat) (f : LoadFail) (hc : Calm s0) (hs : CoreStands s0 s) : CoreStands s0 (loadEvent d f s) := by
  have hkept := coreStands_ite (c := lookedUp f = true) (coreStands_keepManifest d hs) hs
  unfold loadEvent
  dsimp only
  split
  · exact coreStands_raise_plain _ hc (by decide) (coreStands_ite (coreStands_modDom d _ hkept) hkept)
  · exact coreStands_raise_plain _ hc (by decide) hkept
  · exact hkept

/-- A device record that cannot be read raises its events and no more (R304). -/
theorem coreStands_unreadable (f : LoadFail) (hc : Calm s0) (hs : CoreStands s0 s) :
    CoreStands s0 (raise 12 0 0 (some 0) (if f.event = some 1 then loadEvent 0 f s else s)) :=
  coreStands_raise_plain _ hc (by decide) (coreStands_ite (coreStands_loadEvent 0 f hc hs) hs)

theorem coreStands_readLayout (hc : Calm s0) (hs : CoreStands s0 s) : CoreStands s0 (readLayout s).2 := by
  unfold readLayout
  split
  · exact hs
  · split
    · exact hs
    · exact hs
    · exact coreStands_unreadable _ hc hs

theorem coreStands_applyLayout (hc : Calm s0) (hs : CoreStands s0 s) : CoreStands s0 (applyLayout s) :=
  coreStands_aside (coreStands_readLayout hc hs) rfl rfl

theorem coreStands_readGrants (hc : Calm s0) (hs : CoreStands s0 s) : CoreStands s0 (readGrants s).2 := by
  unfold readGrants
  dsimp only
  split
  · exact hs
  · exact hs
  · exact coreStands_unreadable _ hc hs

/-! Meters -/

theorem coreStands_putRecord (d : Nat) (m : MeterRec) (hc : Calm s0) (ht : putRecord d m s = some t) (hs : CoreStands s0 s) : CoreStands s0 t := by
  unfold putRecord at ht
  split at ht
  · cases ht
    have hput : CoreStands s0 (modThermos s (fun t => { t with backlog := t.backlog ++ [m], recSeq := t.recSeq + 1 })) := coreStands_aside hs rfl rfl
    exact coreStands_ite (coreStands_raise_plain _ hc (by decide) hput) hput
  · obtain ⟨c, -, rfl⟩ := Option.map_eq_some_iff.1 ht
    exact coreStands_raise_plain _ hc (by decide) (coreStands_aside hs rfl rfl)

theorem coreStands_boundaryDomain (stop extra d : Nat) (hc : Calm s0) (hs : CoreStands s0 s) : CoreStands s0 (boundaryDomain stop extra d s) := by
  unfold boundaryDomain
  split
  · next hput => exact coreStands_aside (coreStands_putRecord _ _ hc hput hs) rfl rfl
  · have hheld := coreStands_modDom d (fun r => { r with held := true, inner := r.inner + 1 }) hs
    exact coreStands_ite hheld (coreStands_raise_plain _ hc (by decide) hheld)

theorem coreStands_restoreDomain (last : Option Nat) (gone : Nat) (clean debug : Bool) (d : Nat) (hc : Calm s0) (hs : CoreStands s0 s) :
    CoreStands s0 (restoreDomain last gone clean debug d s) := by
  have hdom := coreStands_modDom d
    (fun r => { r with unclean := r.unclean || !clean, debugGap := r.debugGap || debug, inner := r.inner + gone }) hs
  unfold restoreDomain
  split
  · exact coreStands_boundaryDomain _ _ _ hc hdom
  · exact hdom

theorem coreStands_restoreMeters (hc : Calm s0) (hs : CoreStands s0 s) : CoreStands s0 (restoreMeters s) := by
  unfold restoreMeters
  extract_lets _ _ b l last gone u v w
  have hdomains : CoreStands s0 u := coreStands_foldl (fun _ d ht => coreStands_restoreDomain _ _ _ _ d hc ht) hs
  have hboundary : CoreStands s0 v := coreStands_ite (coreStands_aside hdomains rfl rfl) hdomains
  have hmarks : CoreStands s0 w := coreStands_aside hboundary rfl rfl
  exact coreStands_ite hmarks (coreStands_raise_plain _ hc (by decide) hmarks)

end

end Sys2Proof.Proofs
end

section
/-! PROOFS. Step 12 of BOOT, what it opens: the mode, the bootstrap views, the banks that wake, the host resets; and O53 (R116, R122, R124, R132,
R361). -/

namespace Sys2Proof.Proofs

open Sys2Proof.Machine Sys2Proof.Safety Sys2Proof.Laws

section
variable {s t : State} {m : Mode} {q : Nat}

/-! Each port takes its own change -/

/-- Changes of several ports leave everything but the ports. -/
theorem foldl_modPorts (g : Nat → PortState → PortState) (l : List Nat) (s : State) :
    l.foldl (fun s p => modPort s p (g p)) s = { s with ports := (l.foldl (fun s p => modPort s p (g p)) s).ports } := by
  induction l generalizing s with
  | nil => rfl
  | cons p l ih => exact ih (modPort s p (g p))

theorem foldl_modPorts_length (g : Nat → PortState → PortState) (l : List Nat) (s : State) :
    (l.foldl (fun s p => modPort s p (g p)) s).ports.length = s.ports.length := by
  induction l generalizing s with
  | nil => rfl
  | cons p l ih => simpa using ih (modPort s p (g p))

/-- Each port listed once takes its change once. -/
theorem portOf_foldl_modPorts (g : Nat → PortState → PortState) {l : List Nat} (hl : l.Nodup) {s : State} (hq : q < s.ports.length) :
    portOf (l.foldl (fun s p => modPort s p (g p)) s) q = if q ∈ l then g q (portOf s q) else portOf s q := by
  induction l generalizing s with
  | nil => rfl
  | cons p l ih =>
    obtain ⟨hp, hl⟩ := List.nodup_cons.1 hl
    rw [List.foldl_cons, ih hl (by simpa using hq)]
    by_cases hpq : p = q
    · subst hpq; simp [hp, hq]
    · simp [portOf_modPort_ne _ _ hpq, Ne.symm hpq]

/-! The mode -/

theorem lifecycle_congr (hboard : t.board = s.board) (hvalid : t.thermos.valid = s.thermos.valid) (hclaimed : t.thermos.claimed = s.thermos.claimed) :
    lifecycle t = lifecycle s := by
  rw [lifecycle, lifecycle, hboard, hvalid, hclaimed]

theorem lifecycle_scrapped_iff : lifecycle s = .scrapped ↔ s.board.scrapFuse = true := by
  unfold lifecycle
  repeat' split
  all_goals simp_all

theorem lifecycle_factoryOpen_iff (h : ¬s.board.scrapFuse = true) : lifecycle s = .factoryOpen ↔ s.board.openFuseIntact = true := by
  unfold lifecycle
  rw [if_neg h]
  repeat' split
  all_goals simp_all

/-- The mode that R116's list names. -/
theorem decideMode_eq (s : State) : decideMode s = (if s.board.scrapFuse = true then .quarantine
    else if s.board.openFuseIntact = true ∧ s.board.testSampled = true then .factory
    else if s.board.recovSampled = false then .recovery
    else if s.thermos.quarantine = true ∨ drsPresent s = false ∨ s.boot.aonFailed = true ∨ s.boot.entropyFailed = true then .quarantine
    else if s.thermos.debugPending = true ∧ lifecycle s = .claimed then .debug else .operational) := by
  unfold decideMode
  dsimp only
  by_cases hscrap : s.board.scrapFuse = true
  · rw [if_pos hscrap, if_pos (lifecycle_scrapped_iff.2 hscrap)]
  · rw [if_neg hscrap, if_neg (mt lifecycle_scrapped_iff.1 hscrap)]
    simp only [lifecycle_factoryOpen_iff hscrap, Bool.or_eq_true, Bool.not_eq_true', or_assoc]

/-- The mode is set, with the test root and `ALIVE` that belong to it (R107, R116, R129). -/
def modeSet (m : Mode) (s : State) : State :=
  { s with boot := { s.boot with mode := m, testRoot := decide (m = .debug) || decide (m = .factory), aliveStopped := decide (m = .quarantine) } }

theorem coreStands_enterFlags (m : Mode) (s : State) : CoreStands s (enterFlags m s) := by
  cases m <;> exact ⟨rfl, fun _ _ => rfl⟩

/-! Layout and grants, or the flash handed over -/

/-- What stands after the grants: as `CoreStands` has it, but for the ports, none of which is lost. -/
def GrantsStand (s t : State) : Prop :=
  t.boot = s.boot ∧ t.board = s.board ∧ t.rings = s.rings ∧ t.ports.length = s.ports.length ∧ t.power = s.power
    ∧ t.thermos.valid = s.thermos.valid ∧ t.thermos.claimed = s.thermos.claimed ∧ t.thermos.release = s.thermos.release ∧ (Calm s → Calm t)

theorem CoreStands.grantsStand (h : CoreStands s t) : GrantsStand s t := by
  obtain ⟨⟨hboot, hboard, hrings, hports, hpower, -, hvalid, hclaimed, hrelease⟩, -⟩ := coreStands_iff.1 h
  exact ⟨hboot, hboard, hrings, congrArg List.length hports, hpower, hvalid, hclaimed, hrelease, h.calm⟩

theorem GrantsStand.trans {u : State} (h : GrantsStand s t) (k : GrantsStand t u) : GrantsStand s u := by
  obtain ⟨h1, h2, h3, h4, h5, h6, h7, h8, h9⟩ := h
  obtain ⟨k1, k2, k3, k4, k5, k6, k7, k8, k9⟩ := k
  exact ⟨k1.trans h1, k2.trans h2, k3.trans h3, k4.trans h4, k5.trans h5, k6.trans h6, k7.trans h7, k8.trans h8, fun c => k9 (h9 c)⟩

theorem grantsStand_foldl_modPorts (g : Nat → PortState → PortState) (l : List Nat) (s : State) :
    GrantsStand s (l.foldl (fun s p => modPort s p (g p)) s) := by
  have hlen := foldl_modPorts_length g l s
  rw [foldl_modPorts] at hlen ⊢
  exact ⟨rfl, rfl, rfl, hlen, rfl, rfl, rfl, rfl, id⟩

theorem grantsStand_applyGrants (hc : Calm s) : GrantsStand s (applyGrants s) := by
  unfold applyGrants
  split
  · exact (CoreStands.refl s).grantsStand
  · extract_lets x u
    have hread : GrantsStand s x.2 := (coreStands_readGrants hc (.refl s)).grantsStand
    have hset : GrantsStand s u := hread.trans (grantsStand_foldl_modPorts (fun p o => { o with grant := x.1 p, xip := (x.1 p).xip }) _ _)
    have hcalm := hset.2.2.2.2.2.2.2.2
    split
    · exact hset.trans (coreStands_raise_plain none (hcalm hc) (by decide) (.refl u)).grantsStand
    · exact hset

/-- Manifest, layout and grants; in RECOVERY the flash is handed over (R116, R132). -/
def modeLoaded (m : Mode) (s : State) : State :=
  if m = .recovery then { s with mp := { s.mp with rstReleased := true } } else applyGrants (applyLayout (settleClaim s))

theorem grantsStand_modeLoaded (m : Mode) (hc : Calm s) : GrantsStand s (modeLoaded m s) := by
  unfold modeLoaded
  split
  · exact ⟨rfl, rfl, rfl, rfl, rfl, rfl, rfl, rfl, id⟩
  · have hload := coreStands_applyLayout hc (coreStands_settleClaim hc (.refl s))
    exact hload.grantsStand.trans (grantsStand_applyGrants (hload.calm hc))

/-! Bootstrap views -/

/-- A port on its bootstrap view (R124). -/
def viewed (p : Nat) (o : PortState) : PortState := { o with grant := bootGrant p, bootstrap := true }

/-- Views opened for several ports: each takes its view, each of those rings its context. -/
theorem foldl_openView (l : List Nat) (s : State) :
    l.foldl (fun s p => openView p s) s = { l.foldl (fun s p => modPort s p (viewed p)) s with
      rings := l.foldl (fun r p => assocSet {} r p (bootRing p)) s.rings } := by
  induction l generalizing s with
  | nil => rfl
  | cons p l ih =>
    have hrings (r : Assoc Ring) (u : State) : l.foldl (fun s p => modPort s p (viewed p)) { u with rings := r } =
        { l.foldl (fun s p => modPort s p (viewed p)) u with rings := r } := by
      clear ih
      induction l generalizing u with
      | nil => rfl
      | cons k l ihk => exact ihk (modPort u k (viewed k))
    rw [List.foldl_cons, List.foldl_cons, ih]
    exact congrArg (fun u : State => { u with rings := l.foldl (fun r p => assocSet {} r p (bootRing p)) (openView p s).rings })
      (hrings _ (modPort s p (viewed p)))

theorem assocGetD_foldl_bootRing (l : List Nat) (r : Assoc Ring) (q : Nat) :
    assocGetD {} (l.foldl (fun r p => assocSet {} r p (bootRing p)) r) q = if q ∈ l then bootRing q else assocGetD {} r q := by
  induction l generalizing r with
  | nil => rfl
  | cons p l ih =>
    rw [List.foldl_cons, ih, assocGetD_set]
    by_cases hp : p = q
    · subst hp; simp
    · simp [hp, Ne.symm hp]

/-- The ports whose view a mode opens (R124). -/
def viewPorts (m : Mode) (s : State) : List Nat :=
  if m = .recovery then [0] else if m = .operational ∧ lifecycle s ≠ .claimed then List.range 4 else []

theorem openViews_eq (m : Mode) (s : State) : openViews m s = (viewPorts m s).foldl (fun s p => openView p s) s := by
  cases m
  case operational =>
    by_cases h : lifecycle s = .claimed
    · simp [openViews, viewPorts, h]
    · simp [openViews, viewPorts, h]
  all_goals rfl

/-- Opening views leaves all but ports and rings. -/
theorem openViews_frame (m : Mode) (s : State) : openViews m s = { s with ports := (openViews m s).ports, rings := (openViews m s).rings } := by
  rw [openViews_eq, foldl_openView, foldl_modPorts]

theorem openViews_ports_length (m : Mode) (s : State) : (openViews m s).ports.length = s.ports.length := by
  rw [openViews_eq, foldl_openView]; exact foldl_modPorts_length viewed _ s

theorem ringOf_openViews (m : Mode) (s : State) (q : Nat) : ringOf (openViews m s) q = if q ∈ viewPorts m s then bootRing q else ringOf s q := by
  rw [openViews_eq, foldl_openView]; exact assocGetD_foldl_bootRing _ _ _

theorem portOf_openViews (m : Mode) (hq : q < s.ports.length) :
    portOf (openViews m s) q = if q ∈ viewPorts m s then viewed q (portOf s q) else portOf s q := by
  rw [openViews_eq, foldl_openView]
  refine portOf_foldl_modPorts viewed ?_ hq
  unfold viewPorts
  repeat' split
  all_goals decide

/-! Banks that hold an allocation -/

/-- A bank's wake concerns that bank alone; an OFF one that may wake does (R436, R437, R440). -/
theorem requestWake_bank {i : Nat} (hi : 36 ≤ i) (s : State) : (requestWake i s = s ∨ ∃ f, requestWake i s = modPd s i f)
    ∧ (∀ d, d = pdOf s i → d.st = .off → d.closed = false → d.retired = false → d.policy ≠ .forceOff →
        requestWake i s = modPd s i (fun d => { d with st := .waking })) := by
  refine ⟨?_, fun d hd hoff hclosed hretired hpolicy => ?_⟩
  · unfold requestWake
    dsimp only
    split
    · exact .inl rfl
    · split
      · exact .inr ⟨_, rfl⟩
      · split
        · exact .inl rfl
        · exact .inl rfl
        · exact .inr ⟨_, rfl⟩
        · exact .inr ⟨_, rfl⟩
  · subst hd
    simp [requestWake, hoff, hclosed, hretired, hpolicy, hi]

/-- One bank's turn in `wakeAllocated`. -/
def bankTurn (s : State) (b : Nat) : State :=
  if bankAllocated s b && decide ((pdOf s (36 + b)).st = .off) then requestWake (36 + b) s else s

theorem bankTurn_eq (s : State) (b : Nat) : bankTurn s b = s ∨ ∃ f, bankTurn s b = modPd s (36 + b) f := by
  unfold bankTurn
  split
  · exact (requestWake_bank (by omega) s).1
  · exact .inl rfl

theorem pdOf_bankTurn {b j : Nat} (h : 36 + b ≠ j) : pdOf (bankTurn s b) j = pdOf s j := by
  rcases bankTurn_eq s b with he | ⟨f, he⟩
  · rw [he]
  · rw [he, pdOf_modPd_ne _ _ h]

theorem bankTurn_frame (s : State) (b : Nat) : bankTurn s b = { s with power := (bankTurn s b).power } := by
  rcases bankTurn_eq s b with he | ⟨f, he⟩
  · rw [he]
  · rw [he]; rfl

theorem bankTurn_pds_length (s : State) (b : Nat) : (bankTurn s b).power.pds.length = s.power.pds.length := by
  rcases bankTurn_eq s b with he | ⟨f, he⟩
  · rw [he]
  · rw [he]; simp

theorem bankTurn_wakes {b : Nat} (hlen : 36 + b < s.power.pds.length) (halloc : bankAllocated s b = true) {d : Pd} (hd : d = pdOf s (36 + b))
    (hoff : d.st = .off) (hclosed : d.closed = false) (hretired : d.retired = false) (hpolicy : d.policy ≠ .forceOff) :
    (pdOf (bankTurn s b) (36 + b)).st = .waking := by
  have hturn : bankTurn s b = requestWake (36 + b) s := if_pos (by simp [halloc, ← hd, hoff])
  rw [hturn, (requestWake_bank (by omega) s).2 d hd hoff hclosed hretired hpolicy, pdOf_modPd_same _ _ _ hlen]

theorem bankAllocated_congr {b : Nat} (h : t.ports.map (·.grant) = s.ports.map (·.grant)) : bankAllocated t b = bankAllocated s b := by
  have hany (l : List PortState) : l.any (fun x => x.grant.pantry.any (fun g => g / 32 + 2 == b)) =
      (l.map (·.grant)).any (fun g => g.pantry.any (fun g => g / 32 + 2 == b)) := by rw [List.any_map]; rfl
  rw [bankAllocated, bankAllocated, hany, hany, h]

theorem wakeAllocated_frame (s : State) : wakeAllocated s = { s with power := (wakeAllocated s).power } := by
  change (List.range 8).foldl bankTurn s = { s with power := ((List.range 8).foldl bankTurn s).power }
  induction List.range 8 generalizing s with
  | nil => rfl
  | cons b l ih =>
    have hturn := bankTurn_frame s b
    rw [List.foldl_cons, ih, hturn]

theorem pdOf_bankTurns {l : List Nat} {j : Nat} (h : ∀ b ∈ l, 36 + b ≠ j) : pdOf (l.foldl bankTurn s) j = pdOf s j := by
  induction l generalizing s with
  | nil => rfl
  | cons b l ih =>
    rw [List.foldl_cons, ih fun x hx => h x (List.mem_cons_of_mem _ hx), pdOf_bankTurn (h b (by simp))]

/-- A listed bank wakes in its turn. -/
theorem bankTurns_wake {b : Nat} {l : List Nat} (hb : b ∈ l) (hl : l.Nodup) (hlen : 36 + b < s.power.pds.length)
    (halloc : bankAllocated s b = true) {d : Pd} (hd : d = pdOf s (36 + b)) (hoff : d.st = .off) (hclosed : d.closed = false)
    (hretired : d.retired = false) (hpolicy : d.policy ≠ .forceOff) : (pdOf (l.foldl bankTurn s) (36 + b)).st = .waking := by
  induction l generalizing s with
  | nil => cases hb
  | cons a l ih =>
    obtain ⟨ha, hl⟩ := List.nodup_cons.1 hl
    rw [List.foldl_cons]
    rcases List.mem_cons.1 hb with rfl | hbl
    · rw [pdOf_bankTurns fun x hx => by rintro h; exact ha (by rwa [show b = x by omega])]
      exact bankTurn_wakes hlen halloc hd hoff hclosed hretired hpolicy
    · have hne : a ≠ b := by rintro rfl; exact ha hbl
      refine ih hbl hl (by rwa [bankTurn_pds_length]) ?_ ?_
      · rw [bankTurn_frame]; exact halloc
      · rw [pdOf_bankTurn (by omega)]; exact hd

/-- An OFF bank that holds an allocation and may wake begins to (R361, R436, R437). -/
theorem wakeAllocated_wakes {b : Nat} (hb : b < 8) (hlen : s.power.pds.length = 50) (halloc : bankAllocated s b = true)
    (hoff : (pdOf s (36 + b)).st = .off) (hclosed : (pdOf s (36 + b)).closed = false) (hretired : (pdOf s (36 + b)).retired = false)
    (hpolicy : (pdOf s (36 + b)).policy ≠ .forceOff) : (pdOf (wakeAllocated s) (36 + b)).st = .waking :=
  bankTurns_wake (List.mem_range.2 hb) List.nodup_range (by omega) halloc rfl hoff hclosed hretired hpolicy

theorem pdOf_congr (h : t.power = s.power) (i : Nat) : pdOf t i = pdOf s i := by rw [pdOf, pdOf, h]

/-! Host resets -/

/-- A host-reset output as a release policy and a mode have it (R122). -/
def hostReleased (m : Mode) (r : Nat × Bool × Bool) (o : PortState) : PortState :=
  let goes := decide (m = .factory) || (!r.2.1 && (decide (m ≠ .recovery) || r.2.2))
  let now := decide (m = .factory) || decide (r.1 = 0)
  { o with hrstReleased := goes && now, hrstPending := goes && !now }

/-- Each port is released by its own policy. -/
theorem foldl_releaseHost (m : Mode) (l : List Nat) {s u : State} (h : ∀ p, releaseOf s p = releaseOf u p) :
    l.foldl (fun s p => releaseHost m p s) s = l.foldl (fun s p => modPort s p (hostReleased m (releaseOf u p))) s := by
  induction l generalizing s with
  | nil => rfl
  | cons p l ih =>
    have hone : releaseHost m p s = modPort s p (hostReleased m (releaseOf u p)) := by rw [← h p]; rfl
    rw [List.foldl_cons, List.foldl_cons, hone]
    exact ih h

theorem releaseOf_congr (hlife : lifecycle t = lifecycle s) (hrelease : t.thermos.release = s.thermos.release) (p : Nat) :
    releaseOf t p = releaseOf s p := by rw [releaseOf, releaseOf, hlife, hrelease]

/-- Releasing hosts changes no grant. -/
theorem grants_hostReleased (m : Mode) (r : Nat → Nat × Bool × Bool) (l : List Nat) (s : State) :
    (l.foldl (fun s p => modPort s p (hostReleased m (r p))) s).ports.map (·.grant) = s.ports.map (·.grant) := by
  induction l generalizing s with
  | nil => rfl
  | cons p l ih =>
    rw [List.foldl_cons, ih, modPort_ports, List.map_set]
    refine List.ext_getElem (by simp) fun i hi _ => ?_
    simp only [List.getElem_set, List.getElem_map]
    split
    · next h =>
      subst h
      have hlt : p < s.ports.length := by simpa using hi
      simp [hostReleased, portOf, hlt]
    · rfl

/-! The sequence -/

/-- The views are open, the banks wake, the meters are restored. -/
def modeOpened (m : Mode) (s : State) : State :=
  if m = .operational ∧ bootSkips (wakeAllocated (openViews m s)) = false then restoreMeters (wakeAllocated (openViews m s))
  else wakeAllocated (openViews m s)

/-- Step 12 in its parts. -/
theorem enterMode_eq (s : State) : enterMode s = (List.range 4).foldl (fun u p => releaseHost (decideMode s) p u)
    (modeOpened (decideMode s) (modeLoaded (decideMode s) (modeSet (decideMode s) (enterFlags (decideMode s) (resumeIssue s))))) := rfl

theorem calm_wakeAllocated_openViews (m : Mode) (hc : Calm s) : Calm (wakeAllocated (openViews m s)) := by
  rw [wakeAllocated_frame, openViews_frame]; exact hc

theorem coreStands_modeOpened (m : Mode) (hc : Calm s) : CoreStands (wakeAllocated (openViews m s)) (modeOpened m s) :=
  coreStands_ite (coreStands_restoreMeters (calm_wakeAllocated_openViews m hc) (.refl _)) (.refl _)

/-- What the device has been given when its hosts are released: all that step 12 says but for the host resets. -/
theorem modeOpened_stands (m : Mode) (hc : Calm s) :
    let t := modeOpened m s
    t.boot = s.boot ∧ t.board = s.board ∧ t.rings = (openViews m s).rings ∧ t.ports = (openViews m s).ports
      ∧ t.power = (wakeAllocated (openViews m s)).power ∧ t.mp.rstReleased = s.mp.rstReleased ∧ lifecycle t = lifecycle s
      ∧ t.thermos.release = s.thermos.release := by
  have h := coreStands_modeOpened m hc
  have hlife : lifecycle (modeOpened m s) = lifecycle (wakeAllocated (openViews m s)) := by
    obtain ⟨⟨-, hboard, -, -, -, -, hvalid, hclaimed, -⟩, -⟩ := coreStands_iff.1 h
    exact lifecycle_congr hboard hvalid hclaimed
  obtain ⟨⟨hboot, hboard, hrings, hports, hpower, hrst, -, -, hrelease⟩, -⟩ := coreStands_iff.1 h
  have hwake := wakeAllocated_frame (openViews m s)
  have hview := openViews_frame m s
  rw [hwake] at hboot hboard hrings hports hrst hrelease hlife
  rw [hview] at hboot hboard hrst hrelease hlife
  exact ⟨hboot, hboard, hrings, hports, hpower, hrst, hlife, hrelease⟩

/-- The state whose views step 12 opens. -/
def modeStarted (s : State) : State :=
  modeLoaded (decideMode s) (modeSet (decideMode s) (enterFlags (decideMode s) (resumeIssue s)))

theorem grantsStand_modeStarted (hc : Calm s) :
    GrantsStand (modeSet (decideMode s) (enterFlags (decideMode s) (resumeIssue s))) (modeStarted s)
      ∧ CoreStands s (enterFlags (decideMode s) (resumeIssue s)) := by
  have hflags := (coreStands_resumeIssue hc (.refl s)).trans (coreStands_enterFlags (decideMode s) _)
  exact ⟨grantsStand_modeLoaded _ (hflags.calm hc), hflags⟩

/-- The mode stands; rings, power, lifecycle and release policy are as they were before step 12. -/
theorem modeStarted_stands (hc : Calm s) :
    let u := modeStarted s
    u.boot = (modeSet (decideMode s) s).boot ∧ u.rings = s.rings ∧ u.ports.length = s.ports.length ∧ u.power = s.power
      ∧ lifecycle u = lifecycle s ∧ u.thermos.release = s.thermos.release ∧ Calm u := by
  obtain ⟨hload, hflags⟩ := grantsStand_modeStarted hc
  have hcalm := hflags.calm hc
  obtain ⟨hboot, hboard, hrings, hports, hpower, hvalid, hclaimed, hrelease, hkeeps⟩ := hload
  obtain ⟨⟨fboot, fboard, frings, fports, fpower, -, fvalid, fclaimed, frelease⟩, -⟩ := coreStands_iff.1 hflags
  refine ⟨?_, hrings.trans frings, hports.trans (congrArg List.length fports), hpower.trans fpower,
    lifecycle_congr (hboard.trans fboard) (hvalid.trans fvalid) (hclaimed.trans fclaimed), hrelease.trans frelease, hkeeps hcalm⟩
  rw [hboot, modeSet, modeSet, fboot]

theorem rstReleased_modeStarted (h : decideMode s = .recovery) : (modeStarted s).mp.rstReleased = true := by
  rw [modeStarted, modeLoaded, if_pos h]

/-- The hosts are released by the policies that stood before step 12. -/
theorem enterMode_released (hc : Calm s) : enterMode s = (List.range 4).foldl
    (fun v p => modPort v p (hostReleased (decideMode s) (releaseOf s p))) (modeOpened (decideMode s) (modeStarted s)) := by
  obtain ⟨-, -, -, -, hlife, hrelease, hcalm⟩ := modeStarted_stands hc
  obtain ⟨-, -, -, -, -, -, olife, orelease⟩ := modeOpened_stands (decideMode s) hcalm
  exact foldl_releaseHost _ _ (releaseOf_congr (olife.trans hlife) (orelease.trans hrelease))

/-- What step 12 leaves: the mode, the rings and ports of its views, the power of the woken banks. -/
theorem enterMode_leaves (hc : Calm s) (hports : s.ports.length = 4) :
    let m := decideMode s
    let u := openViews m (modeStarted s)
    let t := enterMode s
    t.boot = (modeSet m s).boot ∧ t.rings = u.rings ∧ t.power = (wakeAllocated u).power ∧ t.mp.rstReleased = (modeStarted s).mp.rstReleased
      ∧ t.ports.map (·.grant) = u.ports.map (·.grant) ∧ ∀ p < 4, portOf t p = hostReleased m (releaseOf s p) (portOf u p) := by
  obtain ⟨hboot, -, hlen, -, -, -, hcalm⟩ := modeStarted_stands hc
  obtain ⟨oboot, -, orings, oports, opower, orst, -, -⟩ := modeOpened_stands (decideMode s) hcalm
  have hframe := foldl_modPorts (fun p => hostReleased (decideMode s) (releaseOf s p)) (List.range 4) (modeOpened (decideMode s) (modeStarted s))
  have hgrants := grants_hostReleased (decideMode s) (releaseOf s) (List.range 4) (modeOpened (decideMode s) (modeStarted s))
  rw [← enterMode_released hc] at hframe hgrants
  refine ⟨?_, ?_, ?_, ?_, hgrants.trans (by rw [oports]), fun p hp => ?_⟩
  · rw [hframe]; exact oboot.trans hboot
  · rw [hframe]; exact orings
  · rw [hframe]; exact opower
  · rw [hframe]; exact orst
  · have hplen : p < (modeOpened (decideMode s) (modeStarted s)).ports.length := by rw [oports, openViews_ports_length, hlen, hports]; exact hp
    rw [enterMode_released hc, portOf_foldl_modPorts _ List.nodup_range hplen, if_pos (List.mem_range.2 hp), portOf, oports]
    rfl

/-- A port whose view the mode opens (R124). -/
theorem enterMode_view {p : Nat} (hc : Calm s) (hports : s.ports.length = 4) (hp : p < 4) (hview : p ∈ viewPorts (decideMode s) (modeStarted s)) :
    ringOf (enterMode s) p = bootRing p ∧ (portOf (enterMode s) p).grant = bootGrant p ∧ (portOf (enterMode s) p).bootstrap = true := by
  obtain ⟨-, hrings, -, -, -, hport⟩ := enterMode_leaves hc hports
  obtain ⟨-, -, hlen, -, -, -, -⟩ := modeStarted_stands hc
  have hplen : p < (modeStarted s).ports.length := by rw [hlen, hports]; exact hp
  refine ⟨?_, ?_⟩
  · rw [ringOf, hrings]
    exact (ringOf_openViews _ _ _).trans (if_pos hview)
  · rw [hport p hp, portOf_openViews _ hplen, if_pos hview]
    exact ⟨rfl, rfl⟩

/-- A ring that no view is opened on. -/
theorem enterMode_ring {p : Nat} (hc : Calm s) (hports : s.ports.length = 4) (hview : p ∉ viewPorts (decideMode s) (modeStarted s)) :
    ringOf (enterMode s) p = ringOf s p := by
  obtain ⟨-, hrings, -, -, -, -⟩ := enterMode_leaves hc hports
  obtain ⟨-, srings, -, -, -, -, -⟩ := modeStarted_stands hc
  rw [ringOf, hrings]
  refine (ringOf_openViews _ _ _).trans ((if_neg hview).trans ?_)
  rw [ringOf, srings, ringOf]

/-- A bank that the mode's grants allocate begins to wake when it is OFF and may (R361, R436, R437). -/
theorem enterMode_wakes {b : Nat} (hc : Calm s) (hshape : Shape s) (hb : b < 8) (halloc : bankAllocated (enterMode s) b = true) {d : Pd}
    (hd : d = pdOf s (36 + b)) (hoff : d.st = .off) (hclosed : d.closed = false) (hretired : d.retired = false) (hpolicy : d.policy ≠ .forceOff) :
    (pdOf (enterMode s) (36 + b)).st = .waking := by
  obtain ⟨-, -, hpower, -, hgrants, -⟩ := enterMode_leaves hc hshape.1
  obtain ⟨-, -, -, spower, -, -, -⟩ := modeStarted_stands hc
  have hview : (openViews (decideMode s) (modeStarted s)).power = s.power := by rw [openViews_frame]; exact spower
  rw [bankAllocated_congr hgrants] at halloc
  rw [pdOf_congr hpower]
  rw [hd, ← pdOf_congr hview] at hoff hclosed hretired hpolicy
  exact wakeAllocated_wakes hb (hview ▸ hshape.2.1) halloc hoff hclosed hretired hpolicy

/-- The ring table stands where the mode opens no view. -/
theorem enterMode_rings (hc : Calm s) (hports : s.ports.length = 4) (h : decideMode s = .factory ∨ decideMode s = .quarantine) :
    (enterMode s).rings = s.rings := by
  obtain ⟨-, hrings, -, -, -, -⟩ := enterMode_leaves hc hports
  obtain ⟨-, srings, -, -, -, -, -⟩ := modeStarted_stands hc
  have hnone : openViews (decideMode s) (modeStarted s) = modeStarted s := by
    rcases h with h | h
    · rw [h]; rfl
    · rw [h]; rfl
  rw [hrings, hnone, srings]

theorem hrstRelease_eq (p : Port) (s : State) : exec (.hrstRelease p) s = .next (if (portOf s p).hrstPending then
    modPort s p (fun o => { o with hrstReleased := true, hrstPending := false }) else s) := rfl

end

/-- Settles O53: the mode is R116's, and each port, ring and bank stands as step 12 leaves it. -/
theorem bootEndsInTheModeItsConditionsName : Obligations.BootEndsInTheModeItsConditionsName := by
  intro s hshape
  refine ⟨fun h => congrArg Host.Outcome.next (if_neg (by rcases h with h | h <;> simp [h])), fun hmode hanswering hc => ?_, fun p => hrstRelease_eq p s⟩
  have hports := hshape.1
  obtain ⟨hboot, -, -, hrst, -, hport⟩ := enterMode_leaves hc hports
  have hlife := (modeStarted_stands hc).2.2.2.2.1
  have hm : (enterMode s).boot.mode = decideMode s := by rw [hboot]; rfl
  refine ⟨_, congrArg Host.Outcome.next (if_pos ⟨hmode, hanswering⟩), hm.trans (decideMode_eq s), ?_, ?_, fun p hp r hr => ?_, fun h => ?_,
    fun b hb halloc d hd => enterMode_wakes hc hshape hb halloc hd, fun hunclaimed _ => ⟨fun h => ?_, fun h => ?_⟩⟩
  · rw [hm, hboot, Bool.decide_or]; rfl
  · rw [hm, hboot]; rfl
  · rw [hm, hport p hp, hr]
    exact ⟨rfl, rfl⟩
  · rw [hm] at h
    have hview : viewPorts (decideMode s) (modeStarted s) = [0] := if_pos h
    refine ⟨hrst.trans (rstReleased_modeStarted h), ?_⟩
    obtain ⟨hring, hgrant, hboots⟩ := enterMode_view hc hports (p := 0) (by decide) (by simp [hview])
    exact ⟨hring, hgrant, hboots, fun q hq => enterMode_ring hc hports (by simp [hview, hq])⟩
  · rw [hm] at h
    have hview : viewPorts (decideMode s) (modeStarted s) = List.range 4 :=
      (if_neg (by simp [h])).trans (if_pos ⟨h, by rwa [hlife]⟩)
    exact ⟨fun p hp => enterMode_view hc hports hp (by rw [hview]; exact List.mem_range.2 hp),
      fun q hq => enterMode_ring hc hports (by rw [hview, List.mem_range]; omega)⟩
  · rw [hm] at h
    exact enterMode_rings hc hports h

end Sys2Proof.Proofs
end

section
/-! PROOFS. The reply of an OPERATOR_ROTATE that meets a memory error of severity DEVICE at its destination; and O47 (R135, R321, R335, R370, R371,
R413). -/

namespace Sys2Proof.Proofs

open Sys2Proof.Machine Sys2Proof.Safety Sys2Proof.Laws Sys2Proof.Tests

section
variable {s t : State}

/-! The device key block -/

theorem length_toBe (n v : Nat) : (toBe n v).length = n := by rw [toBe, List.length_reverse, length_toLe]

theorem length_ecPub (c : Curve) (d : Nat) : (ecPub c d).length = 2 * c.size := by
  unfold ecPub
  split
  · rw [List.length_append, length_toBe, length_toBe, Nat.two_mul]
  · exact List.length_replicate

/-- The device key block is 400 octets (R335). -/
theorem length_keyBlock (s : State) : (keyBlock s).length = 400 := by
  have hpub (i : Nat) : (devicePub ((rootOf s).getD []) i).length = 96 := length_ecPub p384 _
  simp [keyBlock, deviceBlock, uid_length, List.length_flatMap, hpub]

/-! An accepted envelope whose type commits -/

/-- The entry that runs has its command's opcode, and nothing that would end it first. -/
theorem runEntry_runs {h op : Nat} {x : Hamper} {e : Bytes} {body : Hamper → Bytes → State → State} (hr : Runs s h op x e) :
    runEntry op h body s = body x e s := by
  obtain ⟨hrun, hop, hcup, hbits, hallowed, htouch⟩ := hr
  have htouched : touchRun op h s = s := by simp [touchRun, hrun, hop, htouch]
  simp [runEntry, htouched, hrun, hop, hcup, hbits, hallowed]

/-- What passes every check and commits is answered (R321, R323, R326). -/
theorem envelopeEntry_applied {sp : EnvSpec} {run : EnvelopeRun} {n u : State} {h : Nat} {x : Hamper} {e v p reply : Bytes}
    (ha : Accepts sp run s n h x e v p) (happly : sp.apply run h x v p n = .applied u reply) :
    envelopeEntry sp run h s = endEnvelope h stOk e v reply (endTimeSet (commitAuthority v reply u)) := by
  obtain ⟨⟨⟨hfault, hcut, -, -⟩, hruns, hlater, hstaged, hne, htyp, hn⟩,
    hjudge, hpayload, hconflict, hreply, harchive, hready, hdraws, hdst, -⟩ := ha
  subst hstaged
  have haccept : acceptEnvelope sp run h x e x.staged p n = endEnvelope h stOk e x.staged reply (endTimeSet (commitAuthority x.staged reply u)) := by
    have hflash : (sp.archive && !n.mp.flashOk && decide (n.boot.mode ≠ .recovery)) = false := by
      cases hc : sp.archive
      · rfl
      · rcases harchive hc with hm | hm <;> simp [hm]
    have hport : (sp.archive && n.mp.flashOk && !mpReady n) = false := by
      cases hc : sp.archive
      · rfl
      · cases hf : n.mp.flashOk
        · rfl
        · simp [hready hc hf]
    have hrng : (sp.draws n p && !rngReady n) = false := by
      cases hd : sp.draws n p
      · rfl
      · simp [hdraws hd]
    simp only [acceptEnvelope, hpayload, hconflict, if_neg (Nat.not_lt.2 hreply), hflash, hport, hrng, hdst, happly, if_pos hcut, Bool.not_true,
      Bool.false_eq_true, if_false]
  have hrunEnv : runEnvelope sp run h x e x.staged s = acceptEnvelope sp run h x e x.staged p n := by
    unfold runEnvelope
    dsimp only
    rw [← hn, hfault, hjudge]
  rw [envelopeEntry, runEntry_runs hruns]
  simp only [if_neg hne, hlater, Bool.false_eq_true, if_false, if_pos hne]
  rw [runStaged, if_neg (by simp [htyp]), hrunEnv, haccept]

/-! A correctable error that the device's reaction answers -/

/-- An event at severity DEVICE of a block with no reaction running takes the device to QUARANTINE (R413). -/
theorem raise_device {b src detail : Nat} {dom : Option Nat} (hsev : sevOf s b src = 4) (hidle : (blockOf s b).handling = false) :
    raise b src detail dom s = enterQuarantine b src (recordOnly b src detail 4 dom s) := by
  simp [raise, raiseSev, captureSev, reactBase, reactMajor, hsev, hidle]

/-- No hamper is left of one that ran. -/
theorem hampers_raise_device {b src detail : Nat} {dom : Option Nat} (hsev : sevOf s b src = 4) (hidle : (blockOf s b).handling = false)
    (hmode : s.boot.mode ≠ .boot) : (raise b src detail dom s).hampers = [] := by
  obtain ⟨hq, hsettled⟩ := enterQuarantine_settled (s := recordOnly b src detail 4 dom s) b src hmode
  rw [raise_device hsev hidle]
  exact (hsettled hq).1

/-- A corrected error of severity DEVICE ends all work (R370, R371, R413). -/
theorem hampers_meetWord_device {a src : Nat} (hsev : sevOf s 7 0 = 4) (hidle : (blockOf s 7).handling = false) (hmode : s.boot.mode ≠ .boot)
    (hpoison : wordPoisoned s a = false) (hnew : s.mem.writeback.contains a = false) : (meetWord a 1 src s).hampers = [] := by
  rw [meetWord, if_neg (by simp [hpoison]), if_pos rfl, if_neg (by rw [hnew]; decide)]
  exact hampers_raise_device hsev hidle hmode

theorem Wanes.hampers_nil {κ : Prop} (h : Wanes κ s t) (hs : s.hampers = []) : t.hampers = [] := by
  refine List.eq_nil_iff_forall_not_mem.2 fun y hy => ?_
  obtain ⟨x, hx, -⟩ := h.taken y hy
  simp [hs] at hx

/-- Octets put where the words at the edges have been read. -/
theorem wanes_arenaPut_touched (a : Nat) (v : Bytes) (s : State) : Wanes False (touchEdges a v.length s) (arenaPut s a v) :=
  wanes_mem (wanes_foldl (fun _ u ht => wanes_settleWords u 64 ht)
    (wanes_settleWords _ _ (wanes_foldl (fun _ _ ht => wanes_wakeBank _ ht) (Wanes.refl _))))

/-- The edges read, the first of them inside the one word in error. -/
theorem wanes_touchEdges_one {a c n : Nat} (hedge : a % 8 ≠ 0) (hlatent : s.mem.latent = [(c, 1)]) (hlow : a < c + 8) (hhigh : c < a + 1) :
    Wanes False (meetWord c 1 0 s) (touchEdges a n s) := by
  have hfirst : touchPantry a 1 0 s = meetWord c 1 0 s := by
    simp only [touchPantry, hlatent, List.filter_cons, hlow, hhigh, decide_true, Bool.and_self, if_true, List.filter_nil, List.foldl]
  rw [touchEdges, if_neg hedge, hfirst]
  exact wanes_ite (Wanes.refl _) (wanes_touchPantry _ _ _ (Wanes.refl _))

end

/-! The counterexample -/

/-- The ENVELOPE entry whose reply starts inside a memory word. -/
def struckEnt : Bytes := ent (hd 0x50 0) 0 0 0x410000 472 0x420004 400 (zeros 32)
/-- The payload of an OPERATOR_ROTATE. -/
def rotation : Bytes := toLe 8 2 ++ signer
/-- The operator's envelope that carries it. -/
def rotateEnv : Bytes := envOf 1 2 0xFFFF 1 rotation
/-- The hamper that runs the entry, the envelope staged. -/
def struckHamper : Hamper := { running struckEnt [16, 24] with staged := rotateEnv }
/-- The device that runs that hamper; one bit of the first word of the destination is wrong, and MEM_CE has severity DEVICE. -/
def struck : State :=
  let s := delivers rotateEnv 104 up
  modBlock { s with hampers := [struckHamper], mem := { s.mem with latent := [(0x420000, 1)] } } 7 (fun b => { b with sevs := b.sevs.set 0 4 })

theorem touchEntry_struck : touchEntry struckHamper struckEnt struck = struck := by
  have hcups : cupCount struckHamper = 0 := by decide +kernel
  have hop : opcode struckEnt = 0x50 := by decide +kernel
  have hslot : slotOf struckEnt = 0 := by decide +kernel
  have hkind (f : State → Nat → Bool) : touchKind 6 f struck = struck := rfl
  simp [touchEntry, hcups, hop, hslot, touchReserved, hkind]

theorem runnable_struck : runnable struck 7 = some (struckHamper, struckEnt) := by
  have hof : hamperOf struck 7 = some struckHamper := rfl
  have hon : enginesRun struck struckHamper = true := by decide +kernel
  have hgo : hamperStopped struckHamper = false := by decide +kernel
  rw [runnable, hof]
  simp only [hon, hgo]
  rfl

theorem struck_runs : Runs struck 7 0x50 struckHamper struckEnt :=
  ⟨runnable_struck, by decide +kernel, rfl, by decide +kernel, by decide +kernel, touchEntry_struck⟩

theorem struck_stages : Stages 0x02 {} struck struck 7 struckHamper struckEnt rotateEnv :=
  ⟨⟨rfl, rfl, rfl, rfl⟩, struck_runs, by decide +kernel, rfl, by simp [rotateEnv, envOf, octets], by decide +kernel, rfl⟩

/-- The operator's own key signs. -/
theorem struck_signer : signerOk struck rotateEnv = true := signer_operator 1 2 1 rotation 104 up (by decide +kernel)

theorem struck_judged : judgeEnvelope struck struckHamper .none rotateEnv (srcLenOf struckEnt) = .accept rotation := by
  have hformat : formatOk rotateEnv (srcLenOf struckEnt) = true := by decide +kernel
  have huid : slice rotateEnv 8 16 = uid := env_uid _ _ _ _ _
  have htype : typeAccepted struck struckHamper rotateEnv = true := by decide +kernel
  have hauth : authorityOk struck rotateEnv = true := by decide +kernel
  have hdigest : canServe struck [digestPds] = true := by decide +kernel
  have hpk : canServe struck [pkPds] = true := by decide +kernel
  have hengines : struckHamper.engines ≠ [] := by simp [struckHamper, running]
  have hsig : signatureOk rotateEnv = true := env_signature _ _ _ _ _ (by decide +kernel) (by decide +kernel)
  have hcounter : judgeCounter struck struckHamper rotateEnv = .accept rotation := by decide +kernel
  simp [judgeEnvelope, hformat, huid, htype, hauth, hdigest, hpk, hengines, struck_signer, hsig, hcounter]

theorem struck_accepts : Accepts operatorSpec {} struck struck 7 struckHamper struckEnt rotateEnv rotation :=
  ⟨struck_stages, struck_judged, by decide +kernel, rfl, by decide +kernel, nofun, nofun, nofun, by decide +kernel, rfl⟩

/-- The operator replaced, its counter, hash and reply stored: the state that is to be answered. -/
def rotated : State :=
  endTimeSet (commitAuthority rotateEnv (keyBlock struck)
    (modThermos struck (fun t => { t with opAlg := byteAt rotation 0, opAnchor := some (newAnchor rotation) })))

/-- Only the Thermos has changed. -/
theorem rotated_frame : rotated = { struck with thermos := rotated.thermos } := by
  unfold rotated endTimeSet commitAuthority
  repeat' split
  all_goals rfl

/-- The write of the reply meets the error: no hamper is left. -/
theorem hampers_writeReply : (writeAt 7 (dstOf struckEnt) (keyBlock struck) rotated).hampers = [] := by
  have hlen := length_keyBlock struck
  have hdst : dstOf struckEnt = 0x420004 := by decide +kernel
  have hne : keyBlock struck ≠ [] := List.ne_nil_of_length_pos (by omega)
  have hof : hamperOf rotated 7 = some struckHamper := by rw [rotated_frame]; rfl
  have hgranted : arenaGranted rotated struckHamper.port 0x420004 (keyBlock struck).length = true := by
    rw [hlen, rotated_frame]; decide +kernel
  have hwrite : writeAt 7 0x420004 (keyBlock struck) rotated = arenaPut rotated 0x420004 (keyBlock struck) := by
    rw [writeAt, hof]
    simp [hne, hgranted, writeArena, show isCup 0x420004 = false by decide, show inLarder 0x420004 = false by decide]
  have hmet : (meetWord 0x420000 1 0 rotated).hampers = [] := by
    rw [rotated_frame]
    exact hampers_meetWord_device (by decide +kernel) (by decide +kernel) (by decide +kernel) (by decide +kernel) rfl
  have hedges : Wanes False (meetWord 0x420000 1 0 rotated) (touchEdges 0x420004 (keyBlock struck).length rotated) :=
    wanes_touchEdges_one (by decide) (by rw [rotated_frame]; rfl) (by decide) (by decide)
  rw [hdst, hwrite]
  exact (hedges.trans (wanes_arenaPut_touched _ _ _)).hampers_nil hmet

/-- The envelope that is accepted is never answered. -/
theorem hamperOf_rotateEntry : hamperOf (envelopeEntry operatorSpec {} 7 struck) 7 = none := by
  have hend : envelopeEntry operatorSpec {} 7 struck = endEnvelope 7 stOk struckEnt rotateEnv (keyBlock struck) rotated :=
    envelopeEntry_applied struck_accepts rfl
  have hof : hamperOf rotated 7 = some struckHamper := by rw [rotated_frame]; rfl
  have hcup : ¬((hamperOf rotated 7).map (·.cupPoison)).getD false = true := by rw [hof]; decide
  rw [hend, endEnvelope, if_neg hcup, hamperOf, (wanes_finishEntry (κ := False) _ _ (Wanes.refl _)).hampers_nil hampers_writeReply]
  rfl

/-- Refutes O47: nothing in an accepted envelope keeps the reply's destination free of memory errors. The reply of an OPERATOR_ROTATE that starts
inside a word with one wrong bit meets that error as it is written; where MEM_CE has severity DEVICE, the device enters QUARANTINE and closes the
hamper before its entry has finished. -/
theorem not_authorityEnvelopesCommit : ¬ Obligations.AuthorityEnvelopesCommit := by
  intro h
  obtain ⟨t, ht, ⟨y, hy, -⟩, -⟩ := (h {} struck struck 7 struckHamper struckEnt rotateEnv rotation).1 struck_accepts
  cases ht
  have hnone := hamperOf_rotateEntry
  cases hy.symm.trans hnone

end Sys2Proof.Proofs
end

section
/-! PROOFS. The Roll call's acknowledgement (R169) and the ring commands that leave taken work alone: CREATE, QUERY, PAUSE, and refusals
(R126, R143 to R147). -/

namespace Sys2Proof.Proofs

open Sys2Proof.Machine Sys2Proof.Safety Sys2Proof.Laws

/-! Leaf bits -/

section
variable {s t : State} {p : Port} {k : Link}

theorem leafWord_clearLeafMask (s : State) (w v : Nat) (m : BitVec 32) :
    leafWord (clearLeafMask s w m) v = if w = v then leafWord s v &&& ~~~ m else leafWord s v := by
  rw [leafWord, clearLeafMask, assocGetD_set]
  split
  · next h => rw [h]
  · rfl

/-- Clearing the bits that a mask sets in a word (R169). -/
theorem leafBit_clearLeafMask {w b n : Nat} (hb : b < 32) :
    (leafWord (clearLeafMask s w (BitVec.ofNat 32 n)) w).getLsbD b = ((leafWord s w).getLsbD b && !n.testBit b) := by
  rw [leafWord_clearLeafMask, if_pos rfl, BitVec.getLsbD_and, BitVec.getLsbD_not, BitVec.getLsbD_ofNat]
  simp [hb]

/-- A ring's bit is the one of its place in its word (R167). -/
theorem leafBit_place {r w b : Nat} (hb : b < 32) : 32 * w + b = r ↔ r / 32 = w ∧ r % 32 = b := by omega

/-- Clearing a ring's leaf bit clears no other (R167). -/
theorem leafBit_clearLeaf {r w b : Nat} (hb : b < 32) :
    (leafWord (clearLeaf s r) w).getLsbD b = ((leafWord s w).getLsbD b && !(decide (32 * w + b = r))) := by
  by_cases hw : r / 32 = w
  · subst hw
    rw [clearLeaf, leafBit_clearLeafMask hb, Nat.testBit_two_pow]
    simp [leafBit_place hb]
  · rw [clearLeaf, leafWord_clearLeafMask, if_neg hw]
    simp [leafBit_place hb, hw]

/-! A register of the port page that accepts its write -/

/-- A served write of a register of the port page, other than `PORT_CTRL`, that its register accepts. -/
theorem regFrame_portPage {a v : Nat} (h : ServesReg s p k a v) (ha : a < 0x100) (h4 : a % 4 = 0) (h8 : a ≠ 0x008) (hv : v < 2 ^ 32)
    (hw : writePort p a v (respond p .silent s) = accept t) : regFrame p k a v s = recordWr p 0x11 wrOk t :=
  regFrame_accept h (by omega) h8 hv ((writeReg_portPage (open_respond h.2.2.2 .silent) ha h4).trans hw)

/-- `ROLL_ACK` in ring form (R169). -/
theorem writeRollAck_ring {p v : Nat} (hv : v < 0x10000) (hg : ringGranted s p v = true) : writeRollAck p v s = accept (clearLeaf s v) := by
  have hform : bit v 31 = false := Nat.testBit_lt_two_pow (by omega)
  have hzero : bits v 30 16 = 0 := by rw [bits, Nat.div_eq_of_lt (by omega), Nat.zero_mod]
  simp [writeRollAck, acceptIf, hform, hzero, Nat.mod_eq_of_lt hv, hg]

theorem writePort_rollAck (p v : Nat) (s : State) : writePort p 0x058 v s = writeRollAck p v s := rfl

/-- The fields of a word-form `ROLL_ACK` (R169). -/
theorem rollAck_fields {w m : Nat} (u : Bool) (hw : w < 2 ^ 11) (hm : m < 2 ^ 16) :
    bit (2 ^ 31 + b2n u * 2 ^ 27 + w * 2 ^ 16 + m) 31 = true ∧ bits (2 ^ 31 + b2n u * 2 ^ 27 + w * 2 ^ 16 + m) 30 28 = 0
      ∧ bits (2 ^ 31 + b2n u * 2 ^ 27 + w * 2 ^ 16 + m) 26 16 = w ∧ bit (2 ^ 31 + b2n u * 2 ^ 27 + w * 2 ^ 16 + m) 27 = u
      ∧ (2 ^ 31 + b2n u * 2 ^ 27 + w * 2 ^ 16 + m) % 0x10000 = m := by
  cases u <;> simp only [b2n, bit, bits, Nat.testBit_eq_decide_div_mod_eq, decide_eq_true_eq, decide_eq_false_iff_not, Bool.false_eq_true, if_true,
    if_false] <;> omega

/-- `ROLL_ACK` in word form (R169). -/
theorem writeRollAck_word {p w m : Nat} (u : Bool) (hw : w < 2 ^ 11) (hm : m < 2 ^ 16) :
    writeRollAck p (2 ^ 31 + b2n u * 2 ^ 27 + w * 2 ^ 16 + m) s = accept (ackWord p w (m * 2 ^ (if u then 16 else 0)) s) := by
  obtain ⟨hform, hzero, hword, hhalf, hmask⟩ := rollAck_fields u hw hm
  simp only [writeRollAck, hform, hzero, hword, hhalf, hmask, if_true, acceptIf, beq_self_eq_true]
  cases u <;> simp

end

/-- Settles O31: each form is a mask of leaf bits, and the register accepts both. -/
theorem rollAckClearsLeafBits : Obligations.RollAckClearsLeafBits := by
  intro s p k
  refine ⟨fun ring h hg => ?_, fun w u m h => ?_⟩
  · have hw := (writePort_rollAck p ring.toNat (respond p .silent s)).trans
      (writeRollAck_ring ring.isLt ((ringGranted_respond s p p .silent ring.toNat).trans hg))
    refine ⟨_, congrArg Host.Outcome.next (regFrame_portPage h (by decide) (by decide) (by decide) (by omega) hw), fun w b hb => ?_,
      rfl, rfl, rfl, rfl⟩
    exact leafBit_clearLeaf (s := respond p .silent s) hb
  · have hv : 2 ^ 31 + b2n u * 2 ^ 27 + w.toNat * 2 ^ 16 + m.toNat < 2 ^ 32 := by
      have := w.isLt
      cases u <;> simp only [b2n, Bool.false_eq_true, if_true, if_false] <;> omega
    have hw := (writePort_rollAck p _ (respond p .silent s)).trans (writeRollAck_word u w.isLt m.isLt)
    refine ⟨_, congrArg Host.Outcome.next (regFrame_portPage h (by decide) (by decide) (by decide) hv hw), fun b hb => ?_, fun v hv => ?_,
      rfl, rfl, rfl, rfl⟩
    · refine (leafBit_clearLeafMask (s := respond p .silent s) hb).trans ?_
      rw [Nat.testBit_and]
      rfl
    · exact (leafWord_clearLeafMask (respond p .silent s) w.toNat v _).trans (if_neg (Ne.symm hv))

/-! Ring contexts -/

section
variable {s t u : State} {p : Port} {k : Link} {n r : Nat}

theorem ringOf_modRing_same (s : State) (r : Nat) (f : Ring → Ring) : ringOf (modRing s r f) r = f (ringOf s r) :=
  ringOf_setRing_same s r _

theorem ringOf_modRing_ne (s : State) {r q : Nat} (f : Ring → Ring) (h : q ≠ r) : ringOf (modRing s r f) q = ringOf s q :=
  ringOf_setRing_ne s _ (Ne.symm h)

/-! A ring command from its frame to its report (R143) -/

/-- What a port drives decides no ring command (R143, R145). -/
theorem cmdResult_respond (s : State) (p q : Nat) (x : Response) (n r a1 a2 : Nat) :
    cmdResult (respond p x s) q n r a1 a2 = cmdResult s q n r a1 a2 := by
  simp only [cmdResult, cmdAllowedInMode, pantryGranted, ringGranted_respond, arenaGranted_respond, respond_grant, respond_bootstrap]
  rfl

/-- A command other than CREATE on a granted ring, in a mode and a state that allow it (R143, R144). -/
theorem cmdResult_allowed {p a1 a2 : Nat} (hn : n ≠ 1) (hg : ringGranted s p r = true) (hm : cmdAllowedInMode s p n = true)
    (hpoison : (ringOf s r).poisoned = false) (hst : cmdAllowedInState (ringOf s r).state (s.hampers.any (fun x => x.ring == r)) n = true) :
    cmdResult s p n r a1 a2 = 1 := by
  simp [cmdResult, hg, hm, hpoison, hst, hn]

/-- A command on a granted ring whose state does not allow it (R143, R144). -/
theorem cmdResult_wrongState {p a1 a2 : Nat} (hg : ringGranted s p r = true) (hpoison : (ringOf s r).poisoned = false)
    (hst : cmdAllowedInState (ringOf s r).state (s.hampers.any (fun x => x.ring == r)) n = false) : cmdResult s p n r a1 a2 = 2 := by
  simp [cmdResult, hg, hpoison, hst]

/-- PAUSE is a command of an ACTIVE ring (R144). -/
theorem cmdAllowedInState_pause (st : RingState) (taken : Bool) : cmdAllowedInState st taken 2 = decide (st = .active) := by cases st <;> rfl
/-- CREATE is a command of an UNBOUND ring (R144). -/
theorem cmdAllowedInState_create (st : RingState) (taken : Bool) : cmdAllowedInState st taken 1 = decide (st = .unbound) := by cases st <;> rfl

/-- `RING_CMD_STATUS` reports a command and its result (R143). -/
def cmdReported (p n res : Nat) (s : State) : State :=
  modPort s p (fun x => { x with cmdSeq := (x.cmdSeq + 1) % 0x10000, cmdLast := n, cmdResult := res })

/-- A served ring command is run and its write recorded OK, whatever its result (R94, R143). -/
theorem regFrame_ringCmd (h : ServesReg s p k 0x080 n) (hlo : 1 ≤ n) (hhi : n ≤ 6) :
    regFrame p k 0x080 n s = recordWr p 0x11 wrOk (ringCommand p n (respond p .silent s)) := by
  have hw : writeRingCmd p n (respond p .silent s) = accept (ringCommand p n (respond p .silent s)) := by
    simp [writeRingCmd, acceptIf, Nat.mod_eq_of_lt (show n < 16 by omega), hlo, hhi]
  exact regFrame_portPage h (by decide) (by decide) (by decide) (by omega) hw

/-- A ring command that takes effect has its ring's query registers refreshed, its report and its record (R143, R147). -/
def cmdDone (p n r : Nat) (s : State) : State := recordWr p 0x11 wrOk (cmdReported p n 1 (refreshQuery p n r s))

theorem ringOf_cmdDone (p n r q : Nat) (s : State) : ringOf (cmdDone p n r s) q = ringOf s q := rfl

theorem regFrame_ringCmd_ok (hc : Clean s) (h : ServesReg s p k 0x080 n) (hlo : 1 ≤ n) (hhi : n ≤ 6)
    (hr : r = (portOf s p).ringArg0.toNat % 0x10000)
    (hres : cmdResult s p n r (portOf s p).ringArg1.toNat (portOf s p).ringArg2.toNat = 1) :
    regFrame p k 0x080 n s =
      cmdDone p n r (cmdEffect p n r (portOf s p).ringArg1.toNat (portOf s p).ringArg2.toNat (respond p .silent s)) := by
  subst hr
  have hclean : Clean (respond p .silent s) := hc
  rw [regFrame_ringCmd h hlo hhi]
  simp only [ringCommand, touchPantry_clean hclean, respond_ringArg0, respond_ringArg1, respond_ringArg2, cmdResult_respond, hres, if_pos]
  rfl

/-- What a refused ring command comes to (R126, R143). -/
theorem regFrame_ringCmd_wrongState (hc : Clean s) (h : ServesReg s p k 0x080 n) (hlo : 1 ≤ n) (hhi : n ≤ 6)
    (hr : r = (portOf s p).ringArg0.toNat % 0x10000)
    (hres : ∀ a1 a2, cmdResult s p n r a1 a2 = 2) :
    regFrame p k 0x080 n s = recordWr p 0x11 wrOk (cmdReported p n 2 (wrongState 5 (respond p .silent s))) := by
  subst hr
  have hclean : Clean (respond p .silent s) := hc
  rw [regFrame_ringCmd h hlo hhi]
  simp only [ringCommand, touchPantry_clean hclean, respond_ringArg0, respond_ringArg1, respond_ringArg2, cmdResult_respond, hres]
  rfl

/-- What a port's registers hold after its write has been recorded and its ring command reported (R94, R143). -/
theorem portOf_cmdReported {p res : Nat} (hp : p < s.ports.length) :
    portOf (recordWr p 0x11 wrOk (cmdReported p n res s)) p = { portOf s p with
      cmdSeq := ((portOf s p).cmdSeq + 1) % 0x10000, cmdLast := n, cmdResult := res
      lwSeq := ((portOf s p).lwSeq + 1) % 0x10000, lwOpcode := 0x11, lwOutcome := wrOk } := by
  rw [recordWr, cmdReported, modPort_modPort, portOf_modPort_same _ _ _ hp]

/-- The report and the record of a ring command that took effect without touching the ports (R94, R143). -/
theorem portOf_cmdDone (hp : p.val < s.ports.length) (hu : u.ports = (respond p .silent s).ports) :
    (portOf (cmdDone p n r u) p).cmdLast = n ∧ (portOf (cmdDone p n r u) p).cmdResult = 1
      ∧ (portOf (cmdDone p n r u) p).cmdSeq = ((portOf s p).cmdSeq + 1) % 0x10000 ∧ (portOf (cmdDone p n r u) p).lwOutcome = wrOk := by
  have hlen : p.val < u.ports.length := by rw [hu]; simpa [respond] using hp
  have hq : p.val < (refreshQuery p n r u).ports.length := by simpa [refreshQuery] using hlen
  have hseq : (portOf u p).cmdSeq = (portOf s p).cmdSeq := by rw [portOf, hu]; exact respond_cmdSeq s p p .silent
  rw [cmdDone, portOf_cmdReported hq]
  refine ⟨rfl, rfl, ?_, rfl⟩
  rw [← hseq]
  simp only [refreshQuery, portOf_modPort_same _ _ _ hlen]
  split <;> rfl

/-- The query registers hold the snapshot of an unpoisoned ring (R147). -/
theorem portOf_cmdDone_query {p : Nat} (hp : p < s.ports.length) (hpoison : (ringOf s r).poisoned = false) :
    (portOf (cmdDone p 6 r s) p).ringArg1 = BitVec.ofNat 32 (ringOf s r).base
      ∧ (portOf (cmdDone p 6 r s) p).ringArg2 = BitVec.ofNat 32 ((ringOf s r).tail * 0x10000 + (ringOf s r).head)
      ∧ (portOf (cmdDone p 6 r s) p).queryId = queryIdWord r (ringOf s r) := by
  have hq : p < (refreshQuery p 6 r s).ports.length := by simpa [refreshQuery] using hp
  have hview : queryView p (ringOf s r) = ringOf s r := by simp [queryView, hpoison]
  rw [cmdDone, portOf_cmdReported hq]
  simp [refreshQuery, portOf_modPort_same _ _ _ hp, hview]

/-- POLL_STRETCH at INFO or MINOR is recorded and no more (R161, R413). -/
theorem noteStretch_frame (before : State) (p : Nat) (hsev : sevOf s 5 0 ≤ 1) : ∃ l, noteStretch before p s = { s with health := l } := by
  unfold noteStretch
  split
  · rw [raise_minor hsev]
    exact ⟨_, rfl⟩
  · exact ⟨_, rfl⟩

end

/-- Settles O27: CREATE writes one context, QUERY none, and both are reported. -/
theorem ringCreateBindsAndQueryReports : Obligations.RingCreateBindsAndQueryReports := by
  intro s p k hshape hclean hsev
  have hp : p.val < s.ports.length := by rw [hshape.1]; exact p.isLt
  have hports : p.val < (respond p .silent s).ports.length := by simpa [respond] using hp
  refine ⟨fun h r hr hres => ?_, fun h r hr hg hmode hpoison => ?_⟩
  · have hframe := regFrame_ringCmd_ok hclean h (by decide) (by decide) hr hres
    let b := respond p .silent s
    let g := createdRing p (portOf s p).ringArg1.toNat (portOf s p).ringArg2.toNat
    obtain ⟨l, hl⟩ : ∃ l, noteStretch b p (setRing b r g) = { setRing b r g with health := l } := noteStretch_frame b p hsev
    rw [cmdEffect, hl] at hframe
    refine ⟨_, congrArg Host.Outcome.next hframe, ?_, fun q hq => ?_, rfl, rfl, rfl, portOf_cmdDone hp rfl⟩
    · exact (ringOf_cmdDone _ _ _ _ _).trans (ringOf_setRing_same b r g)
    · exact (ringOf_cmdDone _ _ _ _ _).trans (ringOf_setRing_ne b g (Ne.symm hq))
  · have hframe := regFrame_ringCmd_ok hclean h (by decide) (by decide) hr (cmdResult_allowed (by decide) hg hmode hpoison rfl)
    obtain ⟨hlast, hresult, -, hout⟩ := portOf_cmdDone (n := 6) (r := r) hp (u := respond p .silent s) rfl
    obtain ⟨hbase, hplace, hid⟩ := portOf_cmdDone_query (r := r) hports hpoison
    exact ⟨_, congrArg Host.Outcome.next hframe, rfl, rfl, rfl, rfl, rfl, rfl, hbase, hplace, hid, hlast, hresult, hout⟩

/-- Settles O29: PAUSE is a command of an ACTIVE ring and CREATE of an UNBOUND one. -/
theorem ringCommandOutOfStateIsRefused : Obligations.RingCommandOutOfStateIsRefused := by
  intro s p k r hshape hclean hr hg hpoison
  have hp : p.val < s.ports.length := by rw [hshape.1]; exact p.isLt
  have hrefused (c : Instr) (n : Nat) (hexec : exec c s = .next (regFrame p k 0x080 n s)) (hlo : 1 ≤ n) (hhi : n ≤ 6)
      (h : ServesReg s p k 0x080 n) (hst : ∀ taken, cmdAllowedInState (ringOf s r).state taken n = false) :
      ∃ t, exec c s = .next t ∧ t.rings = s.rings ∧ t.hampers = s.hampers ∧ t.mem = s.mem
        ∧ (blockOf t 5).wrongState = min 0xFFFF ((blockOf s 5).wrongState + 1)
        ∧ (portOf t p).cmdLast = n ∧ (portOf t p).cmdResult = 2 ∧ (portOf t p).lwOutcome = wrOk := by
    have hframe := regFrame_ringCmd_wrongState hclean h hlo hhi hr (fun _ _ => cmdResult_wrongState hg hpoison (hst _))
    have hport := portOf_cmdReported (n := n) (res := 2) (p := p.val) (s := wrongState 5 (respond p .silent s))
      (by simpa [wrongState, respond] using hp)
    refine ⟨_, hexec.trans (congrArg Host.Outcome.next hframe), rfl, rfl, rfl, ?_, by rw [hport], by rw [hport], by rw [hport]⟩
    exact wrongState_count (s := respond p .silent s) (by rw [show (respond p .silent s).health = s.health from rfl, hshape.2.2.1]; decide)
  intro c n st hmem h hst
  simp only [List.mem_cons, Prod.mk.injEq, List.not_mem_nil, or_false] at hmem
  obtain ⟨rfl, rfl, rfl⟩ | ⟨rfl, rfl, rfl⟩ := hmem
  · exact hrefused _ 2 rfl (by decide) (by decide) h (fun taken => (cmdAllowedInState_pause _ taken).trans (decide_eq_false hst))
  · exact hrefused _ 1 rfl (by decide) (by decide) h (fun taken => (cmdAllowedInState_create _ taken).trans (decide_eq_false hst))

end Sys2Proof.Proofs
end

section
/-! PROOFS. Reading a ring at its TAIL: an entry that is not device-owned is left, a whole one-entry hamper is taken; a poll, a kick, and the ring
commands of an idle ring (R142, R144, R146, R158 to R163, R170, R174, R184). -/

namespace Sys2Proof.Proofs

open Sys2Proof.Machine Sys2Proof.Safety Sys2Proof.Laws

section
variable {s t u : State} {r : Nat}

/-! An entry that is not device-owned -/

/-- The run at an index whose entry is not device-owned is empty; reading the entry may wake its bank (R61, R158). -/
theorem examine_unowned (hc : Clean s) {i : Nat} (hown : ownBit (entryBytes s (ringOf s r) i) = false) (f : Nat) (ph : Bool) (room : Nat)
    (acc : List TakenEntry) : ∃ w, examine r f i ph 0 room acc s = ({ s with power := w }, .incomplete, acc) := by
  cases f with
  | zero => exact ⟨_, rfl⟩
  | succ f =>
    by_cases hroom : room = 0
    · exact ⟨s.power, by simp [examine, hroom]⟩
    · have hwoken : Clean (wakeBank s (bankOf (entryAddr (ringOf s r) i))) := hc
      have hown' : ownBit (entryBytes (wakeBank s (bankOf (entryAddr (ringOf s r) i))) (ringOf s r) i) = false := hown
      refine ⟨(wakeBank s (bankOf (entryAddr (ringOf s r) i))).power, ?_⟩
      simp only [examine, if_neg hroom, touchPantry_clean hc, poisonIn_clean hwoken, hown', Option.isSome_none, Bool.not_false, if_true,
        Bool.false_eq_true, if_false]
      rfl

/-- Nothing is taken from a ring whose entry at TAIL is not device-owned (R158). -/
theorem takeOne_unowned (hc : Clean s) (hopen : openHamper s r = none) (hown : ownBit (entryBytes s (ringOf s r) (ringOf s r).tail) = false) :
    ∃ w, takeOne r s = ({ s with power := w }, false) := by
  obtain ⟨w, hw⟩ := examine_unowned hc hown 16 (ringOf s r).tailPhase (ringRoom (ringOf s r)) []
  exact ⟨w, by simp [takeOne, hopen, hw]⟩

theorem takeAll_unowned (hc : Clean s) (hopen : openHamper s r = none) (hown : ownBit (entryBytes s (ringOf s r) (ringOf s r).tail) = false)
    (f : Nat) : ∃ w, takeAll r f s = { s with power := w } := by
  cases f with
  | zero => exact ⟨_, rfl⟩
  | succ f =>
    obtain ⟨w, hw⟩ := takeOne_unowned hc hopen hown
    exact ⟨w, by simp [takeAll, hw]⟩

theorem openHamper_none_of_any (h : s.hampers.any (fun x => x.ring == r) = false) : openHamper s r = none := by
  rw [openHamper, List.find?_eq_none]
  intro x hx hring
  exact List.any_eq_false.1 h x hx (Bool.and_eq_true_iff.1 hring).1

/-- Reading an idle ring whose entry at TAIL is not device-owned takes nothing (R158, R160). -/
theorem readRing_unowned (hc : Clean s) (hopen : openHamper s r = none) (hown : ownBit (entryBytes s (ringOf s r) (ringOf s r).tail) = false) :
    ∃ w, readRing r s = { s with power := w } := by
  simp only [readRing, touchPantry_clean hc, touchReserved_clean hc]
  split
  · exact takeAll_unowned hc hopen hown _
  · exact ⟨_, rfl⟩

/-! A one-entry hamper at TAIL -/

/-- The hamper that one entry makes: closed, of its ring's domain, port and effective class (R174, R184). -/
def singleHamper (r : Nat) (e : Bytes) (s : State) : Hamper :=
  { id := s.nextHamper, ring := r, domain := (ringOf s r).domain, port := (ringOf s r).port, base := (ringOf s r).base,
    entries := [{ index := (ringOf s r).tail, bytes := e }], closedRun := true, cls := classAtTaking (ringOf s r) e, agedAt := s.mono }

/-- The ring after TAIL has moved past one entry (R142). -/
def pastTail (g : Ring) : Ring :=
  { g with tail := (nextIndex g g.tail g.tailPhase).1, tailPhase := (nextIndex g g.tail g.tailPhase).2 }

/-- One entry at TAIL has been taken as a hamper. -/
def tookEntry (r : Nat) (e : Bytes) (s : State) : State :=
  { setRing s r (pastTail (ringOf s r)) with hampers := s.hampers ++ [singleHamper r e s], nextHamper := s.nextHamper + 1 }

theorem advanceTail_one (htail : (ringOf s r).tail < 2 ^ (ringOf s r).sizeLog2) : advanceTail r 1 s = setRing s r (pastTail (ringOf s r)) := by
  unfold advanceTail modRing pastTail nextIndex
  by_cases hlast : (ringOf s r).tail + 1 = 2 ^ (ringOf s r).sizeLog2
  · simp [hlast]
  · simp [hlast, show (ringOf s r).tail + 1 < 2 ^ (ringOf s r).sizeLog2 by omega]

/-- Taking one closed entry into a ring without an open hamper (R162, R174). -/
theorem takeEntries_single {e : Bytes} (hopen : openHamper s r = none) (htail : (ringOf s r).tail < 2 ^ (ringOf s r).sizeLog2) :
    takeEntries r [{ index := (ringOf s r).tail, bytes := e }] true s = tookEntry r e s := by
  simp only [takeEntries, hopen, List.length_singleton, advanceTail_one htail]
  rfl

/-- The run at an index that holds one whole hamper of one entry (R158). -/
theorem examine_single (hc : Clean s) {i room : Nat} {ph : Bool} {e : Bytes} (he : entryBytes s (ringOf s r) i = e) (hroom : room ≠ 0)
    (hown : ownBit e = true) (hph : phaseBit e = ph) (hchain : chainBit e = false) (f : Nat) :
    ∃ w, examine r (f + 1) i ph 0 room [] s = ({ s with power := w }, .complete, [{ index := i, bytes := e }]) := by
  have hwoken : Clean (wakeBank s (bankOf (entryAddr (ringOf s r) i))) := hc
  have he' : entryBytes (wakeBank s (bankOf (entryAddr (ringOf s r) i))) (ringOf s r) i = e := he
  refine ⟨(wakeBank s (bankOf (entryAddr (ringOf s r) i))).power, ?_⟩
  simp only [examine, if_neg hroom, touchPantry_clean hc, poisonIn_clean hwoken, he', hown, hph, hchain]
  simp
  rfl

/-- The one-entry hamper at TAIL is taken; when the entry after it is not device-owned, nothing more is (R158, R162). -/
theorem readRing_single (hc : Clean s) (hserved : ringServed s r = true) (hopen : openHamper s r = none) (hroom : ringRoom (ringOf s r) ≠ 0)
    (htail : (ringOf s r).tail < 2 ^ (ringOf s r).sizeLog2) {e : Bytes} (he : entryBytes s (ringOf s r) (ringOf s r).tail = e)
    (hown : ownBit e = true) (hph : phaseBit e = (ringOf s r).tailPhase) (hchain : chainBit e = false)
    (hnext : ownBit (entryBytes s (ringOf s r) (pastTail (ringOf s r)).tail) = false) :
    ∃ w, readRing r s = { tookEntry r e s with power := w } := by
  obtain ⟨f, hf⟩ := Nat.exists_eq_succ_of_ne_zero (show 2 ^ (ringOf s r).sizeLog2 ≠ 0 by positivity)
  obtain ⟨w, hw⟩ := examine_single hc he hroom hown hph hchain 15
  have htake : takeEntries r [{ index := (ringOf s r).tail, bytes := e }] true { s with power := w } = { tookEntry r e s with power := w } :=
    takeEntries_single (s := { s with power := w }) hopen htail
  have hone : takeOne r s = ({ tookEntry r e s with power := w }, true) := by
    simp only [takeOne, hopen, Option.map_none, Option.getD_none, hw, htake]
  have hring : ringOf { tookEntry r e s with power := w } r = pastTail (ringOf s r) := ringOf_setRing_same s r _
  have hopen' : openHamper { tookEntry r e s with power := w } r = none := by
    have hfind : s.hampers.find? (fun x => x.ring == r && !x.closedRun) = none := hopen
    simp [openHamper, tookEntry, singleHamper, List.find?_append, hfind]
  obtain ⟨w', hw'⟩ := takeAll_unowned (s := { tookEntry r e s with power := w }) hc hopen' (by rw [hring]; exact hnext) f
  refine ⟨w', ?_⟩
  simp only [readRing, touchPantry_clean hc, touchReserved_clean hc, hserved, if_true, hf, takeAll, hone]
  exact hw'

end

/-- What a port drives decides no service of a ring. -/
theorem ringServed_respond (s : State) (p : Nat) (x : Response) (r : Nat) : ringServed (respond p x s) r = ringServed s r := by
  simp only [ringServed, respond_wdt]
  rfl

/-- A kick of a granted ring that is served reads it (R163). -/
theorem writeKick_served {s : State} {p r : Nat} (hc : Clean s) (hr : r < 0x10000) (hg : ringGranted s p r = true) (hserved : ringServed s r = true) :
    writeKick p r s = accept (readRing r s) := by
  simp only [ringServed, Bool.and_eq_true, decide_eq_true_eq] at hserved
  obtain ⟨⟨⟨hactive, hfetch⟩, -⟩, -⟩ := hserved
  simp [writeKick, Nat.mod_eq_of_lt hr, hg, touchPantry_clean hc, hactive, hfetch]

/-- Settles O30: both read the ring, which holds one whole hamper. -/
theorem pollAndKickTakeAHamper : Obligations.PollAndKickTakeAHamper := by
  intro s p k ring hshape hclean r g e n hserved hport htail hroom hopen hown hph hchain hnext c hcmd
  have htaken (u : State) (hu : ∃ w, u = { tookEntry r e s with power := w }) :
      u.hampers = s.hampers ++ [singleHamper r e s] ∧ ringOf u r = pastTail g ∧ (∀ q, q ≠ r → ringOf u q = ringOf s q) ∧ u.mem = s.mem := by
    obtain ⟨w, rfl⟩ := hu
    exact ⟨rfl, ringOf_setRing_same s r _, fun q hq => ringOf_setRing_ne s _ (Ne.symm hq), rfl⟩
  obtain ⟨rfl, hpoll⟩ | ⟨rfl, h, hg⟩ := hcmd
  · refine ⟨readRing r s, ?_, htaken _ (readRing_single hclean hserved hopen hroom htail rfl hown hph hchain hnext)⟩
    change Host.Outcome.next (if g.poll = 0 then s else readRing r s) = _
    rw [if_neg hpoll]
  · have hserved' := (ringServed_respond s p .silent r).trans hserved
    have hw := writeKick_served (s := respond p .silent s) hclean ring.isLt ((ringGranted_respond s p p .silent r).trans hg) hserved'
    obtain ⟨w, hread⟩ := readRing_single (s := respond p .silent s) hclean hserved' hopen hroom htail rfl hown hph hchain hnext
    rw [hread] at hw
    refine ⟨_, congrArg Host.Outcome.next (regFrame_portPage h (by decide) (by decide) (by decide) (by omega) hw), ?_⟩
    exact htaken { tookEntry r e s with power := w } ⟨w, rfl⟩

/-! Ring commands of an idle ring -/

section
variable {s t u : State} {r : Nat}

/-- No ring but one, no hamper and no port has changed. -/
structure OnlyRing (r : Nat) (s t : State) : Prop where
  hampers : t.hampers = s.hampers
  ports : t.ports = s.ports
  others : ∀ q, q ≠ r → ringOf t q = ringOf s q

theorem OnlyRing.trans (h : OnlyRing r s t) (k : OnlyRing r t u) : OnlyRing r s u :=
  ⟨k.hampers.trans h.hampers, k.ports.trans h.ports, fun q hq => (k.others q hq).trans (h.others q hq)⟩

/-- What changes no ring, no hamper and no port. -/
theorem OnlyRing.aside (h : OnlyRing r s t) (hh : u.hampers = t.hampers) (hp : u.ports = t.ports) (hr : u.rings = t.rings) : OnlyRing r s u :=
  ⟨hh.trans h.hampers, hp.trans h.ports, fun q hq => by rw [ringOf, hr]; exact h.others q hq⟩

theorem onlyRing_modRing (s : State) (r : Nat) (f : Ring → Ring) : OnlyRing r s (modRing s r f) :=
  ⟨rfl, rfl, fun _ hq => ringOf_modRing_ne s f hq⟩

theorem onlyRing_unbindRing (s : State) (r : Nat) : OnlyRing r s (unbindRing s r) :=
  ⟨rfl, rfl, fun _ hq => ringOf_setRing_ne s {} (Ne.symm hq)⟩

theorem ringOf_unbindRing (s : State) (r : Nat) : ringOf (unbindRing s r) r = {} := ringOf_setRing_same s r {}

/-- The walk of a ring whose entry at TAIL is not device-owned ends at once (R170). -/
theorem walkEntries_unowned (hc : Clean s) {i : Nat} (hown : ownBit (entryBytes s (ringOf s r) i) = false) (f : Nat) (ph : Bool) :
    ∃ w, walkEntries r f i ph [] [] s = ({ s with power := w }, false, [], []) := by
  cases f with
  | zero => exact ⟨_, rfl⟩
  | succ f =>
    have hwoken : Clean (wakeBank s (bankOf (entryAddr (ringOf s r) i))) := hc
    have hown' : ownBit (entryBytes (wakeBank s (bankOf (entryAddr (ringOf s r) i))) (ringOf s r) i) = false := hown
    refine ⟨(wakeBank s (bankOf (entryAddr (ringOf s r) i))).power, ?_⟩
    simp only [walkEntries, touchPantry_clean hc, poisonIn_clean hwoken, hown', Option.isSome_none, Bool.not_false, Bool.true_or, if_true,
      Bool.false_eq_true, if_false]
    split <;> rfl

theorem state_advanceTail (r n : Nat) (s : State) : (ringOf (advanceTail r n s) r).state = (ringOf s r).state := by
  rw [advanceTail, ringOf_modRing_same]
  dsimp only
  split <;> rfl

theorem state_settleHead (s : State) (r : Nat) : (ringOf (settleHead s r) r).state = (ringOf s r).state := by
  rw [settleHead, ringOf_modRing_same]
  split <;> rfl

/-- A move of TAIL, its bank awake, is a change of its ring alone. -/
theorem onlyRing_advanceTail (s : State) (r n : Nat) (w : Power) : OnlyRing r s (advanceTail r n { s with power := w }) :=
  ⟨rfl, rfl, fun _ hq => ringOf_modRing_ne { s with power := w } _ hq⟩

/-- Such a walk completes nothing and leaves the state of its ring. -/
theorem walkRing_unowned (hc : Clean s) (hown : ownBit (entryBytes s (ringOf s r) (ringOf s r).tail) = false) (status : Nat) :
    OnlyRing r s (walkRing r status s) ∧ (ringOf (walkRing r status s) r).state = (ringOf s r).state := by
  obtain ⟨w, hw⟩ := walkEntries_unowned hc hown (ringRoom (ringOf s r)) (ringOf s r).tailPhase
  have hwalk : walkRing r status s = settleHead (advanceTail r 0 { s with power := w }) r := by simp [walkRing, hw]
  rw [hwalk]
  exact ⟨(onlyRing_advanceTail s r 0 w).trans (onlyRing_modRing _ r _), (state_settleHead _ r).trans (state_advanceTail r 0 { s with power := w })⟩

/-- The drain of a ring begins (R170). -/
def drainStarted (r : Nat) (s : State) : State := modRing s r (fun g => { g with state := .draining, walked := false })
/-- The walk of a draining ring has ended (R170). -/
def drainWalked (r : Nat) (s : State) : State := modRing s r (fun g => if g.state = .draining then { g with walked := true } else g)

theorem ringOf_drainStarted (s : State) (r : Nat) : ringOf (drainStarted r s) r = { ringOf s r with state := .draining, walked := false } :=
  ringOf_modRing_same s r _

/-- SHUTDOWN of an unpoisoned ring: the drain begins, what is not admitted is aborted, what is not taken is walked (R170). -/
theorem shutdownRing_unpoisoned (hpoison : (ringOf s r).poisoned = false) :
    shutdownRing r s = endDrain (drainWalked r (walkRing r 0x10 (abortUnadmitted r 0x10 (fun _ => 1) (drainStarted r s)))) r := by
  simp only [shutdownRing, hpoison, Bool.false_eq_true, if_false]
  rfl

theorem abortUnadmitted_idle (hidle : s.hampers.any (fun x => x.ring == r) = false) (status : Nat) (detail : Hamper → Nat) :
    abortUnadmitted r status detail s = s := by
  have hnone : s.hampers.filter (fun x => x.ring == r && !x.admitted) = [] := by
    rw [List.filter_eq_nil_iff]
    intro x hx hboth
    exact List.any_eq_false.1 hidle x hx (Bool.and_eq_true_iff.1 hboth).1
  rw [abortUnadmitted, hnone, List.foldl_nil]

/-- A draining ring that no taken hamper holds is freed when its walk has ended (R170). -/
theorem endDrain_walked (hstate : (ringOf s r).state = .draining) (hidle : s.hampers.any (fun x => x.ring == r) = false) :
    endDrain (drainWalked r s) r = unbindRing (drainWalked r s) r := by
  have hring : ringOf (drainWalked r s) r = { ringOf s r with walked := true } := (ringOf_modRing_same s r _).trans (if_pos hstate)
  have hidle' : (drainWalked r s).hampers.any (fun x => x.ring == r) = false := hidle
  simp [endDrain, hring, hstate, hidle']

/-- SHUTDOWN of an idle ring frees it (R170). -/
theorem shutdownRing_idle (hc : Clean s) (hpoison : (ringOf s r).poisoned = false) (hidle : s.hampers.any (fun x => x.ring == r) = false)
    (hown : ownBit (entryBytes s (ringOf s r) (ringOf s r).tail) = false) :
    OnlyRing r s (shutdownRing r s) ∧ ringOf (shutdownRing r s) r = {} := by
  have hd := ringOf_drainStarted s r
  obtain ⟨honly, hstate⟩ := walkRing_unowned (s := drainStarted r s) hc (by rw [hd]; exact hown) 0x10
  have hidle' : (walkRing r 0x10 (drainStarted r s)).hampers.any (fun x => x.ring == r) = false := by rw [honly.hampers]; exact hidle
  rw [shutdownRing_unpoisoned hpoison, abortUnadmitted_idle (s := drainStarted r s) hidle, endDrain_walked (by rw [hstate, hd]) hidle']
  refine ⟨?_, ringOf_unbindRing _ r⟩
  exact ((onlyRing_modRing s r _).trans honly).trans ((onlyRing_modRing _ r _).trans (onlyRing_unbindRing _ r))

/-- A ring is ACTIVE again (R146). -/
def resumed (r : Nat) (s : State) : State := modRing s r (fun g => { g with state := .active })

theorem onlyRing_resumed (s : State) (r : Nat) : OnlyRing r s (resumed r s) := onlyRing_modRing s r _

theorem ringOf_resumed (s : State) (r : Nat) : ringOf (resumed r s) r = { ringOf s r with state := .active } := ringOf_modRing_same s r _

/-- RESUME of an idle ring whose entry at TAIL is not device-owned leaves it ACTIVE, nothing taken (R146). -/
theorem resume_unowned {p : Nat} (hc : Clean s) (hsev : sevOf s 5 0 ≤ 1) (hidle : s.hampers.any (fun x => x.ring == r) = false)
    (hown : ownBit (entryBytes s (ringOf s r) (ringOf s r).tail) = false) (a1 a2 : Nat) :
    OnlyRing r s (cmdEffect p 3 r a1 a2 s) ∧ ringOf (cmdEffect p 3 r a1 a2 s) r = { ringOf s r with state := .active } := by
  obtain ⟨l, hl⟩ : ∃ l, noteStretch s p (resumed r s) = { resumed r s with health := l } := noteStretch_frame s p hsev
  obtain ⟨w, hw⟩ := readRing_unowned (s := { resumed r s with health := l }) (r := r) hc (openHamper_none_of_any hidle)
    (by rw [show ringOf { resumed r s with health := l } r = _ from ringOf_resumed s r]; exact hown)
  have heffect : cmdEffect p 3 r a1 a2 s = { resumed r s with health := l, power := w } := by
    rw [← hw, ← hl]
    rfl
  rw [heffect]
  exact ⟨(onlyRing_resumed s r).aside rfl rfl rfl, ringOf_resumed s r⟩

end

/-- A ring command that takes effect on one ring and on nothing of the others is reported (R143). -/
theorem ringCmd_moves {s : State} {p : Port} {k : Link} {n r : Nat} {v : Ring} (hp : p.val < s.ports.length) (hc : Clean s)
    (h : ServesReg s p k 0x080 n) (hlo : 1 ≤ n) (hhi : n ≤ 6) (hr : r = (portOf s p).ringArg0.toNat % 0x10000)
    (hres : cmdResult s p n r (portOf s p).ringArg1.toNat (portOf s p).ringArg2.toNat = 1)
    (heffect : ∀ a1 a2, OnlyRing r (respond p .silent s) (cmdEffect p n r a1 a2 (respond p .silent s))
      ∧ ringOf (cmdEffect p n r a1 a2 (respond p .silent s)) r = v) :
    ∃ t, regFrame p k 0x080 n s = t ∧ ringOf t r = v ∧ (∀ q, q ≠ r → ringOf t q = ringOf s q) ∧ t.hampers = s.hampers
      ∧ (portOf t p).cmdLast = n ∧ (portOf t p).cmdResult = 1 ∧ (portOf t p).cmdSeq = ((portOf s p).cmdSeq + 1) % 0x10000
      ∧ (portOf t p).lwOutcome = wrOk := by
  obtain ⟨⟨hhampers, hports, hothers⟩, hring⟩ := heffect (portOf s p).ringArg1.toNat (portOf s p).ringArg2.toNat
  exact ⟨_, regFrame_ringCmd_ok hc h hlo hhi hr hres, hring, hothers, hhampers, portOf_cmdDone hp hports⟩

/-- Settles O28: each command's effect is on its ring alone, and it is reported. -/
theorem ringPauseResumeReleaseShutdown : Obligations.RingPauseResumeReleaseShutdown := by
  intro s p k r hshape hclean hsev hr hg hpoison hidle hown c n st st' hmem h hmode hst
  have hp : p.val < s.ports.length := by rw [hshape.1]; exact p.isLt
  have hallowed (hn : n ≠ 1) (hallows : cmdAllowedInState st false n = true) :
      cmdResult s p n r (portOf s p).ringArg1.toNat (portOf s p).ringArg2.toNat = 1 :=
    cmdResult_allowed hn hg hmode hpoison (by rw [hidle, hst]; exact hallows)
  let b := respond p .silent s
  simp only [List.mem_cons, Prod.mk.injEq, List.not_mem_nil, or_false] at hmem
  obtain ⟨rfl, rfl, rfl, rfl⟩ | ⟨rfl, rfl, rfl, rfl⟩ | ⟨rfl, rfl, rfl, rfl⟩ | ⟨rfl, rfl, rfl, rfl⟩ := hmem
  · obtain ⟨t, ht, hmoves⟩ := ringCmd_moves hp hclean h (by decide) (by decide) hr (hallowed (by decide) rfl)
      (fun _ _ => ⟨onlyRing_modRing b r (fun g => { g with state := .paused }), ringOf_modRing_same b r _⟩)
    exact ⟨t, congrArg Host.Outcome.next ht, hmoves⟩
  · obtain ⟨t, ht, hmoves⟩ := ringCmd_moves hp hclean h (by decide) (by decide) hr (hallowed (by decide) rfl)
      (resume_unowned (s := b) hclean hsev hidle hown)
    exact ⟨t, congrArg Host.Outcome.next ht, hmoves⟩
  · obtain ⟨t, ht, hmoves⟩ := ringCmd_moves hp hclean h (by decide) (by decide) hr (hallowed (by decide) rfl)
      (fun _ _ => shutdownRing_idle (s := b) hclean hpoison hidle hown)
    exact ⟨t, congrArg Host.Outcome.next ht, hmoves⟩
  · obtain ⟨t, ht, hmoves⟩ := ringCmd_moves hp hclean h (by decide) (by decide) hr (hallowed (by decide) rfl)
      (fun _ _ => ⟨onlyRing_unbindRing b r, ringOf_unbindRing b r⟩)
    exact ⟨t, congrArg Host.Outcome.next ht, hmoves⟩

end Sys2Proof.Proofs
end

section
/-! PROOFS. The Push (R164 to R166): an entry from a port's push buffer is written at TAIL and taken, or refused, and logged. -/

namespace Sys2Proof.Proofs

open Sys2Proof.Machine Sys2Proof.Safety Sys2Proof.Laws

section
variable {s : State} {p reason index : Nat} {it : PushItem} {rest : List PushItem}

/-- The log's record of a push (R166). -/
def pushRecord (it : PushItem) (reason index : Nat) : PushLog :=
  { result := if reason = 0 then 2 else 3, reason, ring := it.ring, index := if reason = 0 then index else 0, wrSeq := it.seq }

/-- What the outcome of a push leaves in its port (R110, R166). -/
theorem portOf_logPush (hp : p < s.ports.length) (hlog : (portOf s p).pushLog.length = 16) :
    (portOf (logPush p it reason index s) p).pushBuf = (portOf s p).pushBuf
      ∧ (portOf (logPush p it reason index s) p).pushLog.getD (portOf (logPush p it reason index s) p).pushLogPos {} = pushRecord it reason index
      ∧ ((portOf s p).pushBuf = [] → (portOf (logPush p it reason index s) p).lastResult = if reason = 0 then 2 else 3)
      ∧ (reason = 0 → (portOf (logPush p it reason index s) p).pushDeposited = ((portOf s p).pushDeposited + 1) % 2 ^ 32)
      ∧ (reason ≠ 0 → (portOf (logPush p it reason index s) p).pushRefused = ((portOf s p).pushRefused + 1) % 2 ^ 32
        ∧ (portOf (logPush p it reason index s) p).refusedAny = true) := by
  rw [logPush, portOf_modPort_same _ _ _ hp]
  have hplace (first : Bool) : (if first then 0 else ((portOf s p).pushLogPos + 1) % 16) < (portOf s p).pushLog.length := by
    rw [hlog]
    split <;> omega
  refine ⟨rfl, ?_, fun hbuf => ?_, fun hok => ?_, fun hno => ⟨?_, ?_⟩⟩
  · rw [List.getD_eq_getElem _ _ (by rw [List.length_set]; exact hplace _), List.getElem_set_self]
    simp [pushRecord]
  · simp [hbuf]
  · simp [hok]
  · simp [hno]
  · simp [hno]

/-- The line at TAIL is read for a push: it may wake its bank, and an unfetched entry refuses (R61, R164). -/
theorem pushLine_clean (hc : Clean s) (r : Nat) :
    ∃ w, pushLine r s = ({ s with power := w }, if ownBit (entryBytes s (ringOf s r) (ringOf s r).tail) then 7 else 0) := by
  let a := entryAddr (ringOf s r) (ringOf s r).tail
  have hwoken : Clean (wakeBank s (bankOf a)) := hc
  refine ⟨(wakeBank s (bankOf a)).power, ?_⟩
  simp only [pushLine, touchPantry_clean hc, show poisonIn (wakeBank s (bankOf (entryAddr (ringOf s r) (ringOf s r).tail)))
    (entryAddr (ringOf s r) (ringOf s r).tail) 64 = none from poisonIn_clean hwoken _ _]
  rfl

/-- A push that ends its hamper, into a ring with no open hamper, is taken as a hamper of its own (R164, R165). -/
theorem depositEntry_single (hchain : chainBit it.entry = false) (hopen : openHamper s it.ring = none)
    (htail : (ringOf s it.ring).tail < 2 ^ (ringOf s it.ring).sizeLog2) :
    depositEntry it s = tookEntry it.ring it.entry (pantryPut s (entryAddr (ringOf s it.ring) (ringOf s it.ring).tail) it.entry) := by
  let u := pantryPut s (entryAddr (ringOf s it.ring) (ringOf s it.ring).tail) it.entry
  have htake : takeEntries it.ring [{ index := (ringOf s it.ring).tail, bytes := it.entry }] true u = tookEntry it.ring it.entry u :=
    takeEntries_single (s := u) hopen htail
  simp only [depositEntry, hchain, Bool.not_false, Bool.true_or, Bool.not_true, Bool.false_and, Bool.false_eq_true, if_false]
  exact htake

/-- The oldest entry has left a port's push buffer (R164). -/
def pushPopped (p : Nat) (rest : List PushItem) (s : State) : State := modPort s p (fun x => { x with pushBuf := rest })

/-- A push that nothing refuses (R164, R165). -/
theorem pushDepositEffect_taken (hc : Clean s) (hbuf : (portOf s p).pushBuf = it :: rest) (hreason : pushReason s it = 0)
    (hown : ownBit (entryBytes s (ringOf s it.ring) (ringOf s it.ring).tail) = false) (hchain : chainBit it.entry = false)
    (hopen : openHamper s it.ring = none) (htail : (ringOf s it.ring).tail < 2 ^ (ringOf s it.ring).sizeLog2) :
    ∃ w, pushDepositEffect p s = logPush p it 0 (ringOf s it.ring).tail (tookEntry it.ring it.entry
      (pantryPut { pushPopped p rest s with power := w } (entryAddr (ringOf s it.ring) (ringOf s it.ring).tail) it.entry)) := by
  have hpopped : Clean (pushPopped p rest s) := hc
  obtain ⟨w, hw⟩ := pushLine_clean hpopped it.ring
  have hdeposit := depositEntry_single (s := { pushPopped p rest s with power := w }) hchain hopen htail
  refine ⟨w, ?_⟩
  have hreason' : pushReason (pushPopped p rest s) it = 0 := hreason
  rw [show ownBit (entryBytes (pushPopped p rest s) (ringOf (pushPopped p rest s) it.ring) (ringOf (pushPopped p rest s) it.ring).tail) = false
    from hown] at hw
  simp only [pushDepositEffect, hbuf]
  rw [← pushPopped, touchPantry_clean hpopped]
  simp only [hreason', hw, if_true, Bool.false_eq_true, if_false, hdeposit]
  rfl

/-- Why a push is refused: a row of R164 before the line at TAIL is read, or the unfetched entry there. -/
def pushWhy (s : State) (it : PushItem) : Nat :=
  if pushReason s it = 0 ∧ ownBit (entryBytes s (ringOf s it.ring) (ringOf s it.ring).tail) = true then 7 else pushReason s it

/-- A refused push (R164, R166, R413). -/
theorem pushDepositEffect_refused (hc : Clean s) (hbuf : (portOf s p).pushBuf = it :: rest) (hwhy : pushWhy s it ≠ 0) (hsev : sevOf s 5 2 ≤ 1) :
    ∃ w l, pushDepositEffect p s =
      { logPush p it (pushWhy s it) (ringOf s it.ring).tail { pushPopped p rest s with power := w } with health := l } := by
  have hpopped : Clean (pushPopped p rest s) := hc
  have hline : ∃ w, (if pushReason s it = 0 then pushLine it.ring (pushPopped p rest s) else (pushPopped p rest s, pushReason s it)) =
      ({ pushPopped p rest s with power := w }, pushWhy s it) := by
    by_cases hreason : pushReason s it = 0
    · obtain ⟨w, hw⟩ := pushLine_clean hpopped it.ring
      refine ⟨w, ?_⟩
      rw [if_pos hreason, hw, pushWhy]
      simp only [hreason, true_and]
      rfl
    · exact ⟨s.power, by rw [if_neg hreason, pushWhy, if_neg (fun h => hreason h.1)]; rfl⟩
  obtain ⟨w, hw⟩ := hline
  let u := logPush p it (pushWhy s it) (ringOf s it.ring).tail { pushPopped p rest s with power := w }
  let dom := if (ringOf s it.ring).state = .unbound then none else some (ringOf s it.ring).domain
  have hraise : raise 5 2 it.ring dom u = recordOnly 5 2 it.ring (sevOf u 5 2) dom u := raise_minor hsev
  refine ⟨w, (recordOnly 5 2 it.ring (sevOf u 5 2) dom u).health, ?_⟩
  simp only [pushDepositEffect, hbuf]
  rw [← pushPopped, touchPantry_clean hpopped]
  have hreason' : pushReason (pushPopped p rest s) it = pushReason s it := rfl
  have hring : ringOf (pushPopped p rest s) it.ring = ringOf s it.ring := rfl
  simp only [hreason', hring, hw, if_neg hwhy]
  exact hraise

end

/-- Settles O38: a push is refused by the first row of R164 that holds; with none, its line is written and taken as one hamper. -/
theorem pushDepositTakesOrRefusesItsEntry : Obligations.PushDepositTakesOrRefusesItsEntry := by
  intro s p
  refine ⟨fun hempty => ?_, fun it rest hshape hc hbuf hlog hlen => ?_⟩
  · change Host.Outcome.next (pushDepositEffect p s) = _
    rw [pushDepositEffect, hempty]
  have hp : p.val < s.ports.length := by rw [hshape.1]; exact p.isLt
  have hp' : p.val < (pushPopped p rest s).ports.length := by simpa [pushPopped, modPort] using hp
  have hport : portOf (pushPopped p rest s) p = { portOf s p with pushBuf := rest } := portOf_modPort_same _ _ _ hp
  refine ⟨fun hreason hown hchain hopen htail => ?_, fun why hwhy hrefused hsev => ?_⟩
  · obtain ⟨w, hw⟩ := pushDepositEffect_taken hc hbuf hreason hown hchain hopen htail
    let u := tookEntry it.ring it.entry
      (pantryPut { pushPopped p rest s with power := w } (entryAddr (ringOf s it.ring) (ringOf s it.ring).tail) it.entry)
    have hu : portOf u p = { portOf s p with pushBuf := rest } := hport
    obtain ⟨hrest, hrecord, hlast, hcount, -⟩ :=
      portOf_logPush (s := u) (it := it) (reason := 0) (index := (ringOf s it.ring).tail) hp' (by rw [hu]; exact hlog)
    rw [hu] at hrest hlast hcount
    refine ⟨_, congrArg Host.Outcome.next hw, fun i hi => ?_, fun b hb => ?_, ?_, fun q hq => ?_, rfl, hrest, hcount rfl, hrecord, hlast,
      rfl, rfl, rfl⟩
    · refine (memWrite_get 0 it.entry s.mem.pantry _ _).trans ?_
      rw [if_pos (by omega), Nat.add_sub_cancel_left]
    · exact memWrite_other (by omega)
    · exact ringOf_setRing_same s it.ring _
    · exact ringOf_setRing_ne s _ (Ne.symm hq)
  · have hwhy' : why = pushWhy s it := hwhy
    subst hwhy'
    obtain ⟨w, l, hw⟩ := pushDepositEffect_refused hc hbuf hrefused hsev
    let u := { pushPopped p rest s with power := w }
    have hu : portOf u p = { portOf s p with pushBuf := rest } := hport
    obtain ⟨hrest, hrecord, hlast, -, hcount⟩ :=
      portOf_logPush (s := u) (it := it) (reason := pushWhy s it) (index := (ringOf s it.ring).tail) hp' (by rw [hu]; exact hlog)
    rw [hu] at hrest hlast hcount
    rw [pushRecord, if_neg hrefused, if_neg hrefused] at hrecord
    rw [if_neg hrefused] at hlast
    exact ⟨_, congrArg Host.Outcome.next hw, rfl, rfl, rfl, rfl, rfl, hrest, (hcount hrefused).1, (hcount hrefused).2, hrecord, hlast⟩

end Sys2Proof.Proofs
end

section
/-! PROOFS. What completing a hamper's entries writes: an entry that finishes, the completions in ring memory, leaf bits, counters (R153, R154,
R167, R177, R343, R353). -/

namespace Sys2Proof.Proofs

open Sys2Proof.Machine Sys2Proof.Safety Sys2Proof.Laws

/-! An entry that finishes -/

section
variable {s : State} {h : Nat} {x : Hamper} {e : Bytes} {d : Done}

/-- A hamper after one of them has changed and kept its number. -/
theorem hamperOf_modHamper {f : Hamper → Hamper} (hf : ∀ y, (f y).id = y.id) (s : State) (h j : Nat) :
    hamperOf (modHamper s h f) j = (hamperOf s j).map (fun y => if j = h then f y else y) := by
  have hid : ((fun y : Hamper => y.id == j) ∘ fun y => if y.id = h then f y else y) = fun y => y.id == j := by
    funext y
    simp only [Function.comp]
    split
    · rw [hf]
    · rfl
  rw [hamperOf, modHamper_hampers, List.find?_map, hid, hamperOf]
  cases hj : s.hampers.find? (fun y => y.id == j) with
  | none => rfl
  | some y => simp [show y.id = j by simpa using List.find?_some hj]

theorem hamperOf_modHamper_same {f : Hamper → Hamper} (hf : ∀ y, (f y).id = y.id) (s : State) (h : Nat) :
    hamperOf (modHamper s h f) h = (hamperOf s h).map f := by simp [hamperOf_modHamper hf]

theorem hamperOf_modHamper_ne {f : Hamper → Hamper} (hf : ∀ y, (f y).id = y.id) (s : State) {h j : Nat} (hj : j ≠ h) :
    hamperOf (modHamper s h f) j = hamperOf s j := by simp [hamperOf_modHamper hf, hj]

/-- A hamper's current entry finishes; no other hamper changes (R177, R188). -/
theorem hamperOf_finishEntry (hx : hamperOf s h = some x) :
    (∃ y, hamperOf (finishEntry s h d) h = some y ∧ y.entries = finishFirst d x.entries ∧ y.engines = [] ∧ y.cups = x.cups)
      ∧ ∀ j, j ≠ h → hamperOf (finishEntry s h d) j = hamperOf s j := by
  have hold (j : Nat) : hamperOf (settleCurrent h d s) j = hamperOf s j := by rw [hamperOf, settleCurrent_hampers, hamperOf]
  refine ⟨⟨_, (hamperOf_modHamper_same ?_ _ h).trans (congrArg (Option.map _) ((hold h).trans hx)), rfl, rfl, rfl⟩,
    fun j hj => (hamperOf_modHamper_ne ?_ _ hj).trans (hold j)⟩
  · exact fun _ => rfl
  · exact fun _ => rfl

/-- An entry that finishes without output. -/
theorem finishes_finishEntry (hx : hamperOf s h = some x) : Finishes s (finishEntry s h d) h 0 [] d := by
  obtain ⟨⟨y, hy, hentries, hengines, hcups⟩, hothers⟩ := hamperOf_finishEntry (d := d) hx
  refine ⟨x, y, hx, hy, hentries, hengines, fun hout => absurd rfl hout, fun b _ => ?_, fun b _ => by rw [hcups], hothers, ?_, ?_, ?_, ?_⟩
  · rw [readArena, readArena, finishEntry_mem]
  · exact finishEntry_rings s h d
  · exact finishEntry_leaf s h d
  · exact finishEntry_ports s h d
  · exact finishEntry_keys s h d

/-- What runs is the current entry of its hamper. -/
theorem runnable_hamper (hr : runnable s h = some (x, e)) : hamperOf s h = some x := by
  unfold runnable at hr
  split at hr
  · next y hy =>
    rw [hy]
    split at hr
    · obtain ⟨t, -, ht⟩ := Option.map_eq_some_iff.1 hr
      exact congrArg some (Prod.mk.inj ht).1
    · cases hr
  · cases hr

/-- An entry without output that succeeds (R154, R195). -/
theorem finishOk_nothing (hx : hamperOf s h = some x) (hcup : x.cupPoison = false) (hd : d = { status := stOk }) :
    finishOk h 0 [] d s = finishEntry s h { status := okOf x } := by
  subst hd
  have hwrite : writeAt h 0 [] s = s := by simp [writeAt, hx]
  simp [finishOk, hx, hcup, hwrite, okOf]

/-- An entry that fails with no cup of its hamper poisoned (R178). -/
theorem failEntry_unpoisoned {status detail : Nat} (hx : hamperOf s h = some x) (hcup : x.cupPoison = false) :
    failEntry h status detail s = finishEntry s h { status, detail } := by simp [failEntry, hx, hcup]

/-- NOP (R148, R152). -/
theorem nopRun_nop (hr : Runs s h 0x00 x e) (hfields : nopFields e = true) : nopRun h s = finishEntry s h { status := okOf x } := by
  obtain ⟨hrun, hop, hcup, -⟩ := id hr
  have hknown : opcodeKnown (opcode e) = true := by rw [hop]; decide
  simp only [nopRun, hrun, hknown, Bool.not_true, Bool.false_eq_true, if_false, runEntry_runs hr, hfields, if_true]
  exact finishOk_nothing (runnable_hamper hrun) hcup rfl

/-- A reserved opcode (R11, R152). -/
theorem nopRun_reserved (hr : runnable s h = some (x, e)) (hcup : x.cupPoison = false) (hop : opcodeKnown (opcode e) = false) :
    nopRun h s = finishEntry s h { status := stBadOpcode } := by
  simp only [nopRun, hr, hop, Bool.not_false, if_true]
  exact failEntry_unpoisoned (runnable_hamper hr) hcup

end

/-! Blocks of memory written one after another -/

section
variable {α : Type} {a : α → Nat} {v : α → Bytes} {l : List α}

/-- A byte outside every block. -/
theorem foldl_memWrite_outside (hlen : ∀ e ∈ l, (v e).length = 64) {b : Nat} (hb : ∀ e ∈ l, b < a e ∨ a e + 64 ≤ b) (m : Assoc (BitVec 8)) :
    assocGetD 0 (l.foldl (fun m e => memWrite 0 m (a e) (v e)) m) b = assocGetD 0 m b := by
  induction l generalizing m with
  | nil => rfl
  | cons e l ih =>
    rw [List.forall_mem_cons] at hlen hb
    exact (ih hlen.2 hb.2 _).trans (memWrite_other (by rw [hlen.1]; exact hb.1))

/-- A block reads back where no two overlap. -/
theorem foldl_memWrite_block (hlen : ∀ e ∈ l, (v e).length = 64) (hapart : l.Pairwise (fun e f => a e + 64 ≤ a f ∨ a f + 64 ≤ a e)) {e : α}
    (he : e ∈ l) (m : Assoc (BitVec 8)) : memRead 0 (l.foldl (fun m e => memWrite 0 m (a e) (v e)) m) (a e) 64 = v e := by
  induction l generalizing m with
  | nil => cases he
  | cons f l ih =>
    rw [List.forall_mem_cons] at hlen
    rw [List.pairwise_cons] at hapart
    obtain rfl | he := List.mem_cons.1 he
    · have hkept : memRead 0 ((e :: l).foldl (fun m e => memWrite 0 m (a e) (v e)) m) (a e) 64 = memRead 0 (memWrite 0 m (a e) (v e)) (a e) 64 := by
        refine List.map_congr_left fun i hi => foldl_memWrite_outside hlen.2 (fun f hf => ?_) _
        have := hapart.1 f hf
        have := List.mem_range.1 hi
        omega
      rw [hkept, ← hlen.1, memRead_write]
    · exact ih hlen.2 hapart.2 he _

end

/-! What completing an entry leaves alone -/

section
variable {s t u : State} {x : Hamper} {rest : Done} {l : List TakenEntry} {k r : Nat}

/-- A state without what the completions of a hamper write. -/
def besideCompletions (s : State) : State := { s with power := {}, mem := {}, leaf := [], live := [], thermos := {} }

/-- From `s` to `t` completions of entries have been written and counted, and no more. -/
structure Completing (s t : State) : Prop where
  beside : besideCompletions t = besideCompletions s
  retired : ∀ i, (pdOf t i).retired = (pdOf s i).retired
  larderMB : t.mem.larderMB = s.mem.larderMB
  backlog : t.thermos.backlog = s.thermos.backlog
  exist : ∀ d, domExists t d = domExists s d

theorem Completing.refl (s : State) : Completing s s := ⟨rfl, fun _ => rfl, rfl, rfl, fun _ => rfl⟩

theorem Completing.trans (h : Completing s t) (k : Completing t u) : Completing s u :=
  ⟨k.beside.trans h.beside, fun i => (k.retired i).trans (h.retired i), k.larderMB.trans h.larderMB, k.backlog.trans h.backlog,
    fun d => (k.exist d).trans (h.exist d)⟩

/-- A part of the state that completions do not write. -/
theorem Completing.field {α : Type} (h : Completing s t) (f : State → α) (hf : ∀ u, f (besideCompletions u) = f u) : f t = f s :=
  (hf t).symm.trans ((congrArg f h.beside).trans (hf s))

theorem Completing.ports (h : Completing s t) : t.ports = s.ports := h.field State.ports fun _ => rfl
theorem Completing.boot (h : Completing s t) : t.boot = s.boot := h.field State.boot fun _ => rfl
theorem Completing.mono (h : Completing s t) : t.mono = s.mono := h.field State.mono fun _ => rfl
theorem Completing.rings (h : Completing s t) : t.rings = s.rings := h.field State.rings fun _ => rfl
theorem Completing.hampers (h : Completing s t) : t.hampers = s.hampers := h.field State.hampers fun _ => rfl
theorem Completing.claims (h : Completing s t) : t.claims = s.claims := h.field State.claims fun _ => rfl
theorem Completing.floorFree (h : Completing s t) : t.floorFree = s.floorFree := h.field State.floorFree fun _ => rfl
theorem Completing.sharedFree (h : Completing s t) : t.sharedFree = s.sharedFree := h.field State.sharedFree fun _ => rfl

/-- The granules of a port's grants stand (R55, R369). -/
theorem Completing.granted (h : Completing s t) (p a n : Nat) : arenaGranted t p a n = arenaGranted s p a n := by
  have hlarder : larderGranules t = larderGranules s := by rw [larderGranules, h.boot, h.larderMB, larderGranules]
  have hat : arenaAt t p = arenaAt s p := by
    funext b
    simp only [arenaAt, portOf, hlarder, h.ports, h.retired]
  rw [arenaGranted, hat, arenaGranted]

theorem retired_wakeBank (s : State) (b i : Nat) : (pdOf (wakeBank s b) i).retired = (pdOf s i).retired := by
  obtain hi | ⟨-, hi⟩ := pdOf_modPd s (36 + b) i (fun d =>
    if d.closed then { d with wakeWanted := true }
    else match d.st with
      | .off | .retain => if d.retired then d else { d with st := .waking }
      | _ => d)
  · exact congrArg Pd.retired hi
  · refine (congrArg Pd.retired hi).trans ?_
    split
    · rfl
    · split
      · split <;> rfl
      · split <;> rfl
      · rfl

theorem completing_writeCompletion (s : State) (r p a : Nat) (e : Bytes) (d : Done) : Completing s (writeCompletion s r p a e d) := by
  unfold writeCompletion
  split
  · exact ⟨rfl, retired_wakeBank s (bankOf a), rfl, rfl, fun _ => rfl⟩
  · exact .refl s

/-- A domain's METERS are no part of its STATE (R295). -/
theorem domExists_setMeters (s : State) (d q : Nat) (m : List Nat) :
    domExists (modDom s d (fun r => { r with meters := m })) q = domExists s q := by
  rw [domExists, domExists, domOf_modDom]
  split
  · next hd => rw [hd]
  · rfl

theorem completing_saveCounters (d : Nat) (s : State) : Completing s (saveCounters d s) := by
  unfold saveCounters
  split
  · dsimp only
    split
    · exact ⟨rfl, fun _ => rfl, rfl, rfl, fun q => domExists_setMeters { s with live := assocDel s.live d } d q _⟩
    · exact ⟨rfl, fun _ => rfl, rfl, rfl, fun _ => rfl⟩
  · exact .refl s

theorem completing_countMeter (d k n : Nat) (s : State) : Completing s (countMeter d k n s) := by
  have hput (v : List Nat) : Completing s { s with live := assocPut s.live d v } := ⟨rfl, fun _ => rfl, rfl, rfl, fun _ => rfl⟩
  unfold countMeter
  split
  · exact .refl s
  · dsimp only
    split
    · exact (hput _).trans (completing_saveCounters d _)
    · exact hput _

/-- The state in which an entry's completion is written: its share counts first (R343). -/
def shareCounted (s : State) (x : Hamper) (e : TakenEntry) (d : Done) : State :=
  match e.share with
  | some c => if d.status = stOk ∧ arenaGranted s x.port (x.base + 64 * e.index) 64 = true then countMeter x.domain c.1 c.2 s else s
  | none => s

theorem completing_shareCounted (s : State) (x : Hamper) (e : TakenEntry) (d : Done) : Completing s (shareCounted s x e d) := by
  unfold shareCounted
  split
  · split
    · exact completing_countMeter _ _ _ s
    · exact .refl s
  · exact .refl s

theorem completeEntry_eq (s : State) (x : Hamper) (e : TakenEntry) (d : Done) :
    completeEntry s x e d = writeCompletion (shareCounted s x e d) x.ring x.port (x.base + 64 * e.index) e.bytes d := by
  unfold completeEntry shareCounted
  cases e.share <;> rfl

theorem completing_completeEntry (s : State) (x : Hamper) (e : TakenEntry) (d : Done) : Completing s (completeEntry s x e d) := by
  rw [completeEntry_eq]
  exact (completing_shareCounted s x e d).trans (completing_writeCompletion _ _ _ _ _ _)

/-- Counting writes neither memory nor the Roll call. -/
theorem shareCounted_stands (s : State) (x : Hamper) (e : TakenEntry) (d : Done) :
    (shareCounted s x e d).mem = s.mem ∧ (shareCounted s x e d).leaf = s.leaf := by
  have hsave (d : Nat) (s : State) : (saveCounters d s).mem = s.mem ∧ (saveCounters d s).leaf = s.leaf := by
    unfold saveCounters
    split
    · dsimp only
      split <;> exact ⟨rfl, rfl⟩
    · exact ⟨rfl, rfl⟩
  have hcount (d k n : Nat) : (countMeter d k n s).mem = s.mem ∧ (countMeter d k n s).leaf = s.leaf := by
    unfold countMeter
    split
    · exact ⟨rfl, rfl⟩
    · dsimp only
      split
      · exact hsave d _
      · exact ⟨rfl, rfl⟩
  unfold shareCounted
  split
  · split
    · exact hcount _ _ _
    · exact ⟨rfl, rfl⟩
  · exact ⟨rfl, rfl⟩

/-- The completion of an entry in a granted granule stands in ring memory, and its ring's leaf bit is set (R153, R154). -/
theorem completeEntry_granted {e : TakenEntry} {d : Done} (hg : arenaGranted s x.port (x.base + 64 * e.index) 64 = true) :
    (completeEntry s x e d).mem.pantry = memWrite 0 s.mem.pantry (x.base + 64 * e.index) (completedBytes e.bytes d s.mono)
      ∧ (completeEntry s x e d).leaf = (setLeaf s x.ring).leaf := by
  have hc := completing_shareCounted s x e d
  obtain ⟨hmem, hleaf⟩ := shareCounted_stands s x e d
  rw [completeEntry_eq, writeCompletion, if_pos ((hc.granted _ _ _).trans hg)]
  constructor
  · change memWrite 0 (shareCounted s x e d).mem.pantry _ (completedBytes e.bytes d (shareCounted s x e d).mono) = _
    rw [hmem, hc.mono]
  · change assocSet 0 (shareCounted s x e d).leaf _ (assocGetD 0 (shareCounted s x e d).leaf _ ||| _) = _
    rw [hleaf]
    rfl

/-! Counters -/

/-- The counters are read alike from the open record and from METERS (R353). -/
theorem liveMeters_saveCounters {d : Nat} (hd : domExists s d = true) : liveMeters (saveCounters d s) d = liveMeters s d := by
  unfold saveCounters
  split
  · next m hm =>
    have hgone : assocGet (assocDel s.live d) d = none := by rw [assocGet_del, if_pos rfl]
    have hd' : domExists { s with live := assocDel s.live d } d = true := hd
    simp only [hd', if_true]
    change (assocGet (assocDel s.live d) d).getD (domOf (modDom { s with live := assocDel s.live d } d _) d).meters = (assocGet s.live d).getD _
    rw [hgone, hm, domOf_modDom, if_pos rfl]
    rfl
  · rfl

theorem getD_countersOf (s : State) (d : Nat) {k : Nat} (hk : k < 5) : (countersOf s d).getD k 0 = (liveMeters s d).getD k 0 := by
  have hlen : k < (countersOf s d).length := by simpa [countersOf] using hk
  rw [List.getD_eq_getElem _ _ hlen]
  simp [countersOf]

/-- A count goes to one counter of an existing domain outside DEBUG (R130, R343). -/
theorem counters_countMeter {d j n : Nat} (hmode : s.boot.mode ≠ .debug) (hd : domExists s d = true) (hk : k < 5) :
    (countersOf (countMeter d j n s) d).getD k 0 = (countersOf s d).getD k 0 + if j = k then n else 0 := by
  let v := (countersOf s d).set j ((countersOf s d).getD j 0 + n)
  have hlive : liveMeters (countMeter d j n s) d = v := by
    have hput : liveMeters { s with live := assocPut s.live d v } d = v := by rw [liveMeters, assocGet_put, if_pos rfl]; rfl
    unfold countMeter
    rw [if_neg (by simp [hmode, hd])]
    dsimp only
    split
    · exact (liveMeters_saveCounters (s := { s with live := assocPut s.live d v }) hd).trans hput
    · exact hput
  have hlen : k < (countersOf s d).length := by simpa [countersOf] using hk
  rw [getD_countersOf _ _ hk, hlive]
  by_cases hj : j = k
  · subst hj
    rw [if_pos rfl, List.getD_eq_getElem _ _ (by simpa [v] using hlen)]
    simp [v]
  · rw [if_neg hj, Nat.add_zero, List.getD_eq_getElem _ _ (by simpa [v] using hlen), List.getD_eq_getElem _ _ hlen]
    simp [v, hj]

/-- What an entry adds to a counter when it completes (R343). -/
def shareAdded (k : Nat) (e : TakenEntry) (d : Done) : Nat :=
  match e.share with
  | some c => if c.1 = k ∧ d.status = stOk then c.2 else 0
  | none => 0

theorem counters_completeEntry {e : TakenEntry} {d : Done} (hmode : s.boot.mode ≠ .debug) (hd : domExists s x.domain = true)
    (hg : arenaGranted s x.port (x.base + 64 * e.index) 64 = true) (hk : k < 5) :
    (countersOf (completeEntry s x e d) x.domain).getD k 0 = (countersOf s x.domain).getD k 0 + shareAdded k e d := by
  have hwritten (t : State) (r p a : Nat) (b : Bytes) : countersOf (writeCompletion t r p a b d) x.domain = countersOf t x.domain := by
    unfold writeCompletion
    split <;> rfl
  rw [completeEntry_eq, hwritten, shareCounted, shareAdded]
  cases e.share with
  | none => rfl
  | some c =>
    by_cases hok : d.status = stOk
    · simp only [hok, hg, and_self, and_true, if_true]
      exact counters_countMeter hmode hd hk
    · simp [hok]

/-! The completions of a list of entries -/

/-- The completions of a hamper's entries, one after another (R177). -/
def completeAll (x : Hamper) (rest : Done) (l : List TakenEntry) (s : State) : State :=
  l.foldl (fun s e => completeEntry s x e (e.done.getD rest)) s

theorem writeCompletions_eq (s : State) (x : Hamper) (rest : Done) : writeCompletions s x rest = completeAll x rest x.entries s := rfl

theorem completing_completeAll (x : Hamper) (rest : Done) (l : List TakenEntry) (s : State) : Completing s (completeAll x rest l s) := by
  induction l generalizing s with
  | nil => exact .refl s
  | cons e l ih => exact (completing_completeEntry s x e _).trans (ih _)

/-- Every entry of a list lies in granules granted to the hamper's port. -/
def EntriesGranted (s : State) (x : Hamper) (l : List TakenEntry) : Prop :=
  ∀ e ∈ l, arenaGranted s x.port (x.base + 64 * e.index) 64 = true

theorem EntriesGranted.tail {e : TakenEntry} (h : EntriesGranted s x (e :: l)) (d : Done) : EntriesGranted (completeEntry s x e d) x l :=
  fun f hf => ((completing_completeEntry s x e d).granted _ _ _).trans (h f (List.mem_cons_of_mem _ hf))

theorem EntriesGranted.head {e : TakenEntry} (h : EntriesGranted s x (e :: l)) : arenaGranted s x.port (x.base + 64 * e.index) 64 = true :=
  h e List.mem_cons_self

/-- What the completions leave in the Pantry (R153, R177). -/
theorem pantry_completeAll (hg : EntriesGranted s x l) : (completeAll x rest l s).mem.pantry =
    l.foldl (fun m e => memWrite 0 m (x.base + 64 * e.index) (completedBytes e.bytes (e.done.getD rest) s.mono)) s.mem.pantry := by
  induction l generalizing s with
  | nil => rfl
  | cons e l ih =>
    refine (ih (hg.tail (e.done.getD rest))).trans ?_
    rw [(completeEntry_granted hg.head).1, (completing_completeEntry s x e _).mono]
    rfl

/-- Setting a ring's leaf bit sets no other (R167). -/
theorem leafBit_setLeaf {w b : Nat} (hb : b < 32) :
    (leafWord (setLeaf s r) w).getLsbD b = ((leafWord s w).getLsbD b || decide (32 * w + b = r)) := by
  rw [leafWord, setLeaf, assocGetD_set]
  by_cases hw : r / 32 = w
  · subst hw
    rw [if_pos rfl, BitVec.getLsbD_or, BitVec.getLsbD_ofNat, Nat.testBit_two_pow]
    simp [leafBit_place hb, hb]
  · rw [if_neg hw]
    simp [leafBit_place hb, hw, leafWord]

theorem leaf_completeAll (hg : EntriesGranted s x l) {w b : Nat} (hb : b < 32) :
    (leafWord (completeAll x rest l s) w).getLsbD b = ((leafWord s w).getLsbD b || (decide (32 * w + b = x.ring) && !l.isEmpty)) := by
  induction l generalizing s with
  | nil => simp [completeAll]
  | cons e l ih =>
    refine (ih (hg.tail (e.done.getD rest))).trans ?_
    have hstep : leafWord (completeEntry s x e (e.done.getD rest)) w = leafWord (setLeaf s x.ring) w := by
      rw [leafWord, (completeEntry_granted hg.head).2, leafWord]
    rw [hstep, leafBit_setLeaf hb]
    cases decide (32 * w + b = x.ring) <;> simp

theorem counters_completeAll (hmode : s.boot.mode ≠ .debug) (hd : domExists s x.domain = true) (hg : EntriesGranted s x l) (hk : k < 5) :
    (countersOf (completeAll x rest l s) x.domain).getD k 0 =
      (countersOf s x.domain).getD k 0 + (l.map (fun e => shareAdded k e (e.done.getD rest))).sum := by
  induction l generalizing s with
  | nil => rfl
  | cons e l ih =>
    have hc := completing_completeEntry s x e (e.done.getD rest)
    refine (ih (by rw [hc.boot]; exact hmode) ((hc.exist _).trans hd) (hg.tail _)).trans ?_
    rw [counters_completeEntry hmode hd hg.head hk, List.map_cons, List.sum_cons, Nat.add_assoc]

/-- An entry that did not finish adds nothing (R343). -/
theorem sharesDone_eq (x : Hamper) (k : Nat) : sharesDone x k = (x.entries.map (fun e => shareAdded k e (e.done.getD { status := stChain }))).sum := by
  rw [sharesDone]
  refine congrArg List.sum (List.map_congr_left fun e _ => ?_)
  rw [shareAdded]
  cases e.share with
  | none => rfl
  | some c =>
    cases e.done with
    | none => simp [stChain, stOk]
    | some d => rfl

end

end Sys2Proof.Proofs
end

section
/-! PROOFS. The end of a hamper: its completions stand, its records leave the backlog, its cups are back, it is gone (R141, R177, R178, R181, R183,
R352). -/

namespace Sys2Proof.Proofs

open Sys2Proof.Machine Sys2Proof.Safety Sys2Proof.Laws

section
variable {s : State} {x : Hamper} {rest : Done} {l : List TakenEntry}

/-- A completion takes the place of its entry (R153). -/
theorem completedBytes_length {e : Bytes} {d : Done} (stamp : Nat) (hparam : ∀ v, d.param = some v → v.length = 32) :
    (completedBytes e d stamp).length = 64 := by
  have hlast : (d.param.getD (slice e 0x20 32)).length = 32 := by
    cases hp : d.param with
    | none => exact slice_length _ _ _
    | some v => exact hparam v hp
  simp only [completedBytes, List.length_append, toLe_length, slice_length, hlast]

/-- Entries of different indices do not overlap. -/
theorem entries_apart (base : Nat) (h : (l.map (·.index)).Nodup) :
    l.Pairwise (fun e f => base + 64 * e.index + 64 ≤ base + 64 * f.index ∨ base + 64 * f.index + 64 ≤ base + 64 * e.index) :=
  (List.pairwise_map.1 h).imp fun hne => by omega

/-- Settling part-state records changes no more (R220). -/
theorem foldl_settlePart_frame (r : Nat) (d : Done) (l : List TakenEntry) (s : State) :
    ∃ c g, l.foldl (fun s e => if e.done.isNone then settlePart r e.bytes d s else s) s = { s with cipherParts := c, digestParts := g } := by
  have hstep (e : TakenEntry) (s : State) :
      ∃ c g, (if e.done.isNone then settlePart r e.bytes d s else s) = { s with cipherParts := c, digestParts := g } := by
    unfold settlePart
    split
    · dsimp only
      split
      · exact ⟨_, _, rfl⟩
      · split <;> exact ⟨_, _, rfl⟩
    · exact ⟨_, _, rfl⟩
  induction l generalizing s with
  | nil => exact ⟨_, _, rfl⟩
  | cons e l ih =>
    obtain ⟨c, g, h⟩ := hstep e s
    rw [List.foldl_cons, h]
    exact ih _

/-- What a leaving hamper's completions come to, besides entries in memory, leaf bits and counters: its posted records leave, its engines are free. -/
theorem completed_frame (s : State) (x : Hamper) (rest : Done) :
    ∃ c g, completed s x rest =
      freeEngines (dropPosted x.posted (completeAll x rest x.entries { s with cipherParts := c, digestParts := g })) x.id := by
  obtain ⟨c, g, h⟩ := foldl_settlePart_frame x.ring rest x.entries s
  refine ⟨c, g, ?_⟩
  rw [completed, h, writeCompletions_eq]

theorem completed_rest (s : State) (x : Hamper) (rest : Done) :
    (completed s x rest).rings = s.rings ∧ (completed s x rest).hampers = s.hampers ∧ (completed s x rest).claims = s.claims
      ∧ (completed s x rest).floorFree = s.floorFree ∧ (completed s x rest).sharedFree = s.sharedFree
      ∧ (completed s x rest).thermos.backlog = s.thermos.backlog.filter (fun m => !x.posted.contains m.seq) := by
  obtain ⟨c, g, h⟩ := completed_frame s x rest
  have hw := completing_completeAll x rest x.entries { s with cipherParts := c, digestParts := g }
  rw [h]
  exact ⟨hw.rings, hw.hampers, hw.claims, hw.floorFree, hw.sharedFree, congrArg (List.filter _) hw.backlog⟩

/-- The Pantry once a leaving hamper's completions stand (R153, R177). -/
theorem pantry_completed (hg : EntriesGranted s x x.entries) : (completed s x rest).mem.pantry =
    x.entries.foldl (fun m e => memWrite 0 m (x.base + 64 * e.index) (completedBytes e.bytes (e.done.getD rest) s.mono)) s.mem.pantry := by
  obtain ⟨c, g, h⟩ := completed_frame s x rest
  rw [h]
  exact pantry_completeAll (s := { s with cipherParts := c, digestParts := g }) hg

theorem leaf_completed (hg : EntriesGranted s x x.entries) (hne : x.entries ≠ []) {w b : Nat} (hb : b < 32) :
    (leafWord (completed s x rest) w).getLsbD b = ((leafWord s w).getLsbD b || decide (32 * w + b = x.ring)) := by
  obtain ⟨c, g, h⟩ := completed_frame s x rest
  rw [h]
  refine (leaf_completeAll (s := { s with cipherParts := c, digestParts := g }) hg hb).trans ?_
  rw [show x.entries.isEmpty = false by simpa using hne, Bool.not_false, Bool.and_true]
  rfl

theorem counters_completed {k : Nat} (hmode : s.boot.mode ≠ .debug) (hd : domExists s x.domain = true) (hg : EntriesGranted s x x.entries)
    (hk : k < 5) : (countersOf (completed s x { status := stChain }) x.domain).getD k 0 = (countersOf s x.domain).getD k 0 + sharesDone x k := by
  obtain ⟨c, g, h⟩ := completed_frame s x { status := stChain }
  rw [h, sharesDone_eq]
  exact counters_completeAll (s := { s with cipherParts := c, digestParts := g }) hmode hd hg hk

/-- A hamper has left: cups, duplicate record and HEAD are settled (R141, R181, R193). -/
def departed (x : Hamper) (rest : Done) (s : State) : State :=
  settleHead (settleDup (releaseCups { s with hampers := s.hampers.filter (fun y => y.id != x.id) } { x with entries := finishRest rest x.entries })
    { x with entries := finishRest rest x.entries }) x.ring

theorem ringOf_departed_ne {r : Nat} (h : r ≠ x.ring) : ringOf (departed x rest s) r = ringOf s r := ringOf_modRing_ne _ _ h

theorem state_departed : (ringOf (departed x rest s) x.ring).state = (ringOf s x.ring).state := state_settleHead _ x.ring

/-- With no taken hamper of the ring, HEAD is at TAIL (R141). -/
theorem ringOf_settleHead_none {r : Nat} (h : s.hampers.find? (fun y => y.ring == r) = none) :
    ringOf (settleHead s r) r = { ringOf s r with head := (ringOf s r).tail, headPhase := (ringOf s r).tailPhase } := by
  rw [settleHead, ringOf_modRing_same, h]

theorem ringOf_departed_alone (halone : ∀ y ∈ s.hampers, y.id ≠ x.id → y.ring ≠ x.ring) :
    ringOf (departed x rest s) x.ring = { ringOf s x.ring with head := (ringOf s x.ring).tail, headPhase := (ringOf s x.ring).tailPhase } := by
  refine ringOf_settleHead_none (List.find?_eq_none.2 fun y hy => ?_)
  obtain ⟨hmem, hid⟩ := List.mem_filter.1 hy
  simpa using halone y hmem (by simpa using hid)

/-- The port's next claim changes claims and the time of the claim in its hamper (R183). -/
theorem nextClaim_frame (s : State) (p h : Nat) :
    ∃ c l, nextClaim s p h = { s with claims := c, hampers := l }
      ∧ l.map (fun y => { y with claimSince := 0 }) = s.hampers.map (fun y => { y with claimSince := 0 })
      ∧ (s.claims.getD p none ≠ some h → l = s.hampers) := by
  unfold nextClaim
  dsimp only
  split
  · next hclaim =>
    refine ⟨_, _, rfl, ?_, fun hno => absurd hclaim hno⟩
    rw [List.map_map]
    refine List.map_congr_left fun y _ => ?_
    simp only [Function.comp]
    split <;> rfl
  · exact ⟨_, _, rfl, rfl, fun _ => rfl⟩

/-- The drain of an ACTIVE ring does not end (R170). -/
theorem endDrain_active {r : Nat} (h : (ringOf s r).state = .active) : endDrain s r = s := by simp [endDrain, h]

/-- The end of a hamper once its completions stand: it departs, the next claim stands, a drain may end (R170, R183). -/
def closed (x : Hamper) (rest : Done) (s : State) : State := endDrain (nextClaim (departed x rest s) x.port x.id) x.ring

theorem closeHamper_eq (s : State) (x : Hamper) (rest : Done) : closeHamper s x rest = closed x rest (completed s x rest) := rfl

/-- What the end of a hamper of an ACTIVE ring writes: rings, cups, duplicate records, hampers and claims. -/
theorem closed_frame (hactive : (ringOf s x.ring).state = .active) :
    ∃ c l, closed x rest s = { departed x rest s with claims := c, hampers := l }
      ∧ l.map (fun y => { y with claimSince := 0 }) = (s.hampers.filter (fun y => y.id != x.id)).map (fun y => { y with claimSince := 0 })
      ∧ (s.claims.getD x.port none ≠ some x.id → l = s.hampers.filter (fun y => y.id != x.id)) := by
  obtain ⟨c, l, hnext, hclear, hkept⟩ := nextClaim_frame (departed x rest s) x.port x.id
  have hring : (ringOf { departed x rest s with claims := c, hampers := l } x.ring).state = .active := state_departed.trans hactive
  exact ⟨c, l, by rw [closed, hnext, endDrain_active hring], hclear, hkept⟩

/-- What the end of a hamper of an ACTIVE ring leaves, and the cups it returns (R181). -/
theorem closed_stands (hactive : (ringOf s x.ring).state = .active) :
    (closed x rest s).mem = s.mem ∧ (closed x rest s).thermos = s.thermos ∧ (∀ w, leafWord (closed x rest s) w = leafWord s w)
      ∧ (∀ d, countersOf (closed x rest s) d = countersOf s d) ∧ (closed x rest s).sharedFree = s.sharedFree + x.sharedCups
      ∧ (closed x rest s).floorFree = s.floorFree.set x.port (s.floorFree.getD x.port 0 + x.floorCups)
      ∧ ∀ r, ringOf (closed x rest s) r = ringOf (departed x rest s) r := by
  obtain ⟨c, l, h, -, -⟩ := closed_frame (rest := rest) hactive
  rw [h]
  exact ⟨rfl, rfl, fun _ => rfl, fun _ => rfl, rfl, rfl, fun _ => rfl⟩

/-- An admitted hamper that has stopped and was not struck by a reclaim is closed, the rest of its entries ABORTED_CHAIN (R177, R178). -/
theorem completeHamper_stopped {h : Nat} (hx : hamperOf s h = some x) (hadmitted : x.admitted = true) (hstopped : hamperStopped x = true)
    (hreclaim : x.reclaimed = false) : completeHamper h s = closeHamper s x { status := stChain } := by
  simp [completeHamper, hx, hadmitted, hstopped, hreclaim]

end

/-- Settles O41: the completions are blocks of memory that do not overlap; each counts its share; then the hamper leaves. -/
theorem completionWritesEveryEntry : Obligations.CompletionWritesEveryEntry := by
  intro s h x
  refine ⟨fun hx hadmitted hstopped hreclaim hactive at_ hat hentries hnodup => ?_, fun e hr hfields => ?_, fun e hr hcup hop => ?_⟩
  · subst hat
    have hid : x.id = h := by simpa using List.find?_some hx
    subst hid
    let rest : Done := { status := stChain }
    have hgranted : EntriesGranted s x x.entries := fun e he => (hentries e he).1
    have hlength : ∀ e ∈ x.entries, (completedBytes e.bytes (e.done.getD rest) s.mono).length = 64 := fun e he =>
      completedBytes_length _ fun v hv => by
        cases hd : e.done with
        | none => rw [hd] at hv; cases hv
        | some d => rw [hd] at hv; exact (hentries e he).2.2 d v hd hv
    obtain ⟨hrings, hhampers, hclaims, hfloor, hshared, hbacklog⟩ := completed_rest s x rest
    have hring (r : Nat) : ringOf (completed s x rest) r = ringOf s r := by rw [ringOf, hrings, ringOf]
    have hactive' : (ringOf (completed s x rest) x.ring).state = .active := by rw [hring, hactive]
    have hdone : completeHamper x.id s = closed x rest (completed s x rest) :=
      (completeHamper_stopped hx hadmitted hstopped hreclaim).trans (closeHamper_eq s x rest)
    obtain ⟨hmem, hthermos, hleaf, hcounters, hsharedEnd, hfloorEnd, hringEnd⟩ := closed_stands (rest := rest) hactive'
    obtain ⟨cl, l, hend, hclear, hkept⟩ := closed_frame (rest := rest) hactive'
    have hl : (closed x rest (completed s x rest)).hampers = l := congrArg State.hampers hend
    rw [hhampers] at hclear hkept
    refine ⟨_, congrArg Host.Outcome.next hdone, fun e he => ?_, fun b hb => ?_, fun hne w b hb => ?_, fun hmode hd k hk => ?_, ?_, ?_,
      fun hclaim => ?_, ?_, ?_, fun r hr => ?_, fun halone => ?_⟩
    · rw [hmem, pantry_completed hgranted]
      exact foldl_memWrite_block hlength (entries_apart x.base hnodup) he s.mem.pantry
    · rw [hmem, pantry_completed hgranted]
      exact foldl_memWrite_outside hlength hb s.mem.pantry
    · rw [hleaf, leaf_completed hgranted hne hb]
    · rw [hcounters, counters_completed hmode hd hgranted hk]
    · rw [hthermos, hbacklog]
    · rw [hl, hclear]
    · rw [hl, hkept (by rw [hclaims]; exact hclaim)]
    · rw [hsharedEnd, hshared]
    · rw [hfloorEnd, hfloor]
    · rw [hringEnd, ringOf_departed_ne hr, hring]
    · rw [hringEnd, ringOf_departed_alone (by rw [hhampers]; exact halone), hring]
  · exact ⟨_, congrArg Host.Outcome.next (nopRun_nop hr hfields), finishes_finishEntry (runnable_hamper hr.1)⟩
  · exact ⟨_, congrArg Host.Outcome.next (nopRun_reserved hr hcup hop), finishes_finishEntry (runnable_hamper hr)⟩

end Sys2Proof.Proofs
end

section
/-! PROOFS. The allocator: the content hash of an idempotent hamper (R192, R475), the admission of the first of its order with its cups, a port's
claim and how long it waits (R181 to R183, R193, R195, R201). -/

namespace Sys2Proof.Proofs

open Sys2Proof.Machine Sys2Proof.Safety Sys2Proof.Laws

section
variable {s m n : State} {x : Hamper} {h p : Nat} {l : List (Nat × Nat)} {rest : List Hamper} {rep : Option DupRec}

/-! The content hash -/

theorem poisonOf_clean (hc : Clean s) (l : List (Nat × Nat)) : poisonOf s l = none := by
  simp [poisonOf, poisonAt, hc]

/-- The hash unit goes on from reads that meet no error (R475). -/
theorem hashReads_reads {go : State → State} (hr : Reads s n h l) : hashReads h l go s = go n := by
  obtain ⟨hready, rfl, hclean, -⟩ := hr
  simp [hashReads, hready, poisonOf_clean hclean]

/-- A taken idempotent hamper that is whole and not yet hashed gets its content hash (R192, R475). -/
theorem dupHash_reads (hx : hamperOf s h = some x) (hadmitted : x.admitted = false) (hwhole : x.closedRun = true) (hidemp : asksIdemp x = true)
    (hhash : x.hash = none) (hdefect : hamperDefect s x = none) (hlists : Reads s m h (hashedLists s x)) (hpieces : Reads m n h (hashedPieces m x)) :
    dupHash h s = modHamper n h (fun y => { y with hash := some (contentHash n x) }) := by
  simp only [dupHash, hx, hadmitted, hwhole, hidemp, hhash, hdefect, Bool.not_true, Option.isSome_none, Bool.or_self, Bool.false_eq_true, if_false]
  rw [hashReads_reads hlists, hashReads_reads hpieces]

/-! The allocator's choice -/

/-- The order in which the allocator goes down its candidates: claims that can be met first, but for oldest-first turns (R183, R186). -/
def allocatorOrder (s : State) : List Hamper :=
  if oldestTurn s.allocator then candidates s
  else readyClaims s (candidates s)
    ++ (arbitration s s.allocator (candidates s)).filter (fun y => !((readyClaims s (candidates s)).any (fun z => z.id == y.id)))

theorem allocatorStep_eq (s : State) : allocatorStep s = tryAdmit (allocatorOrder s) s := by
  unfold allocatorStep allocatorOrder
  dsimp only
  split <;> rfl

theorem lookTag_clean (hc : Clean s) (x : Hamper) : lookTag x s = s := by simp [lookTag, hc]

/-- What lets a hamper with its cups free in: it is not idempotent, or an equal CLOSED record makes it a replay (R193). -/
def LetIn (s : State) (x : Hamper) (rep : Option DupRec) : Prop :=
  (asksIdemp x = false ∧ rep = none) ∨ (asksIdemp x = true ∧ ∃ r, dupOf s x = some r ∧ r.closed = true ∧ some r.hash = x.hash ∧ rep = some r)

theorem judgeAdmission_letIn (hin : LetIn s x rep) (hfit : cupsFit s x = true) : judgeAdmission s x = rep.elim .enter .replay := by
  rcases hin with ⟨hidemp, rfl⟩ | ⟨hidemp, r, hdup, hclosed, hhash, rfl⟩
  · simp [judgeAdmission, hidemp, hfit]
  · simp [judgeAdmission, hidemp, hdup, hclosed, hhash, hfit]

theorem judgeAdmission_noCups (hidemp : asksIdemp x = false) (hfit : cupsFit s x = false) : judgeAdmission s x = .noCups := by
  simp [judgeAdmission, hidemp, hfit]

theorem tryAdmit_letIn (hc : Clean s) (hdefect : hamperDefect s x = none) (hin : LetIn s x rep) (hfit : cupsFit s x = true) :
    tryAdmit (x :: rest) s = admitHamper x rep s := by
  have hjudge := judgeAdmission_letIn hin hfit
  cases rep with
  | none => simp [tryAdmit, hdefect, lookTag_clean hc, hjudge]
  | some r => simp [tryAdmit, hdefect, lookTag_clean hc, hjudge]

theorem tryAdmit_noCups (hc : Clean s) (hdefect : hamperDefect s x = none) (hidemp : asksIdemp x = false) (hfit : cupsFit s x = false) :
    tryAdmit (x :: rest) s = tryAdmit rest (refuseCups x s) := by
  simp [tryAdmit, hdefect, lookTag_clean hc, judgeAdmission_noCups hidemp hfit]

/-! Admission -/

/-- Two changes of one hamper are one change. -/
theorem modHamper_modHamper {f : Hamper → Hamper} (hf : ∀ y, (f y).id = y.id) (s : State) (h : Nat) (g : Hamper → Hamper) :
    modHamper (modHamper s h f) h g = modHamper s h (fun y => g (f y)) := by
  simp only [modHamper, List.map_map]
  congr 1
  refine List.map_congr_left fun y _ => ?_
  by_cases hy : y.id = h <;> simp [hy, hf]

/-- A hamper with its cups, of its port's floor first (R181). -/
def withCups (s : State) (x y : Hamper) : Hamper :=
  { y with floorCups := min (declaredCups x) (floorOpen s x), sharedCups := declaredCups x - min (declaredCups x) (floorOpen s x) }
/-- A hamper that replays a record with its SEED, when there is one (R195). -/
def withRecord (rep : Option DupRec) (y : Hamper) : Hamper :=
  { y with replay := if rep.isSome then rep else y.replay, seed := if rep.isSome then rep.map (·.seed) else y.seed }
/-- A hamper that a grant of a number has admitted (R186). -/
def withGrant (k : Nat) (y : Hamper) : Hamper := { y with admitted := true, refusedCups := false, admitNo := k }

/-- The pools without the cups a hamper takes, and its grant counted (R181, R186). -/
def poolsAfter (x : Hamper) (s : State) : State :=
  { s with
    floorFree := s.floorFree.set x.port (s.floorFree.getD x.port 0 - min (declaredCups x) (floorOpen s x))
    sharedFree := s.sharedFree - (declaredCups x - min (declaredCups x) (floorOpen s x))
    allocator := noteGrant s s.allocator x }
/-- A hamper let in has its cups, its record and its grant (R181, R186, R195). -/
def admission (x : Hamper) (rep : Option DupRec) (s : State) : State :=
  modHamper (poolsAfter x s) x.id (fun y => withGrant (s.allocator.grants + 1) (withRecord rep (withCups s x y)))

theorem admission_eq (x : Hamper) (rep : Option DupRec) (s : State) : admission x rep s =
    modHamper (modHamper (modHamper (poolsAfter x s) x.id (withCups s x)) x.id (withRecord rep)) x.id (withGrant (s.allocator.grants + 1)) := by
  rw [modHamper_modHamper (f := withCups s x) fun _ => rfl,
    modHamper_modHamper (f := fun y => withRecord rep (withCups s x y)) fun _ => rfl, admission]

theorem modHamper_withRecord_none (s : State) (h : Nat) : modHamper s h (withRecord none) = s := by
  simp [modHamper, withRecord]

/-- Once a hamper let in has its cups and its grant, its claim is met and its loads begin (R183, R305). -/
theorem admitHamper_letIn (hin : LetIn s x rep) : ∃ hs, admitHamper x rep s = requestLoads x.domain hs (claimMet x (admission x rep s)) := by
  refine ⟨namedHandles (claimMet x (admission x rep s)) x, ?_⟩
  rw [admission_eq]
  rcases hin with ⟨hidemp, rfl⟩ | ⟨-, r, -, -, -, rfl⟩
  · rw [modHamper_withRecord_none]
    simp only [admitHamper, hidemp, Bool.false_eq_true, if_false]
    rfl
  · rfl

theorem hamperOf_admission (hx : hamperOf s x.id = some x) :
    hamperOf (admission x rep s) x.id = some (withGrant (s.allocator.grants + 1) (withRecord rep (withCups s x x))) := by
  refine (hamperOf_modHamper_same ?_ _ _).trans (congrArg (Option.map _) hx)
  exact fun _ => rfl

theorem hamperOf_admission_ne {j : Nat} (hj : j ≠ x.id) : hamperOf (admission x rep s) j = hamperOf s j := by
  refine hamperOf_modHamper_ne ?_ _ hj
  exact fun _ => rfl

/-- Every hamper of its number is admitted. -/
theorem admission_admitted {y : Hamper} (hy : y ∈ (admission x rep s).hampers) (hid : y.id = x.id) : y.admitted = true := by
  obtain ⟨z, -, rfl⟩ := List.mem_map.1 hy
  dsimp only at hid ⊢
  split at hid
  · next hz => rw [if_pos hz]; rfl
  · next hz => exact absurd hid hz

/-! Claims -/

/-- A hamper that becomes its port's claim begins to wait; no other changes (R183, R201). -/
theorem hamperOf_setClaim (s : State) (p : Nat) (c : Option Nat) (j : Nat) :
    hamperOf (setClaim p c s) j = (hamperOf s j).map (fun y => if some j = c then { y with claimSince := s.mono } else y) := by
  have hid : ((fun y : Hamper => y.id == j) ∘ fun y => if some y.id = c then { y with claimSince := s.mono } else y) = fun y => y.id == j := by
    funext y
    simp only [Function.comp]
    split <;> rfl
  rw [hamperOf, setClaim, List.find?_map, hid, hamperOf]
  cases hj : s.hampers.find? (fun y => y.id == j) with
  | none => rfl
  | some y => simp [show y.id = j by simpa using List.find?_some hj]

theorem hamperOf_setClaim_ne {c : Option Nat} {j : Nat} (hc : c ≠ some j) : hamperOf (setClaim p c s) j = hamperOf s j := by
  simp [hamperOf_setClaim, hc.symm]

/-- The next claim is another hamper than one that is admitted (R183). -/
theorem hamperOf_nextClaim_admitted (hadmitted : ∀ y ∈ s.hampers, y.id = h → y.admitted = true) :
    hamperOf (nextClaim s p h) h = hamperOf s h := by
  unfold nextClaim
  dsimp only
  split
  · refine hamperOf_setClaim_ne fun hnext => ?_
    obtain ⟨y, hy, hid⟩ := Option.map_eq_some_iff.1 hnext
    have hwaits := List.find?_some hy
    simp [hadmitted y (List.mem_of_find?_eq_some hy) hid] at hwaits
  · rfl

/-- The hampers but for when one of them became a claim. -/
theorem hamperOf_claimless {t : State}
    (hc : t.hampers.map (fun y => { y with claimSince := 0 }) = s.hampers.map (fun y => { y with claimSince := 0 })) (j : Nat) :
    (hamperOf t j).map (fun y => { y with claimSince := 0 }) = (hamperOf s j).map (fun y => { y with claimSince := 0 }) := by
  have hfind (u : State) : (hamperOf u j).map (fun y => { y with claimSince := 0 })
      = (u.hampers.map (fun y => { y with claimSince := 0 })).find? (fun y => y.id == j) := by
    rw [List.find?_map]; rfl
  rw [hfind, hfind, hc]

/-- A claim that is met changes the port's claim and its turn, and when the next one began (R183). -/
theorem claimMet_frame (x : Hamper) (s : State) :
    ∃ c l k, claimMet x s = { s with claims := c, hampers := l, claimTurn := k }
      ∧ l.map (fun y => { y with claimSince := 0 }) = s.hampers.map (fun y => { y with claimSince := 0 })
      ∧ (s.claims.getD x.port none ≠ some x.id → c = s.claims ∧ l = s.hampers) := by
  unfold claimMet
  split
  · next hclaim =>
    obtain ⟨c, l, hnext, hclear, -⟩ := nextClaim_frame s x.port x.id
    exact ⟨c, l, x.port, by rw [hnext], hclear, fun hno => absurd hclaim hno⟩
  · exact ⟨_, _, _, rfl, rfl, fun _ => ⟨rfl, rfl⟩⟩

theorem hamperOf_claimMet_admitted (hadmitted : ∀ y ∈ s.hampers, y.id = x.id → y.admitted = true) :
    hamperOf (claimMet x s) x.id = hamperOf s x.id := by
  unfold claimMet
  split
  · exact hamperOf_nextClaim_admitted hadmitted
  · rfl

/-- Loads that begin change the list of loads and what wakes for them (R305, R441). -/
theorem requestLoads_frame (d : Nat) (hs : List Nat) (s : State) : ∃ lo w, requestLoads d hs s = { s with loads := lo, power := w } := by
  unfold requestLoads
  dsimp only
  split
  · exact ⟨_, _, rfl⟩
  · unfold wakeForLoad
    split
    · obtain ⟨v, hv⟩ := requestWake_frame 48 { s with loads := _ }
      obtain ⟨w, hw⟩ := requestWake_frame 49 { s with loads := _, power := v }
      exact ⟨_, w, by rw [hv, hw]⟩
    · obtain ⟨w, hw⟩ := requestWake_frame 49 { s with loads := _ }
      exact ⟨_, w, hw⟩

/-- What admission changes besides the hamper, its cups and the count of grants: claims, loads and what wakes for them (R182, R183, R305). -/
theorem admitHamper_frame (hin : LetIn s x rep) :
    ∃ c l k lo w, admitHamper x rep s = { admission x rep s with claims := c, hampers := l, claimTurn := k, loads := lo, power := w }
      ∧ l.find? (fun y => y.id == x.id) = hamperOf (admission x rep s) x.id
      ∧ l.map (fun y => { y with claimSince := 0 }) = (admission x rep s).hampers.map (fun y => { y with claimSince := 0 })
      ∧ (s.claims.getD x.port none ≠ some x.id → c = s.claims ∧ l = (admission x rep s).hampers) := by
  obtain ⟨hs, hadmit⟩ := admitHamper_letIn hin
  obtain ⟨c, l, k, hclaim, hclear, hkept⟩ := claimMet_frame x (admission x rep s)
  obtain ⟨lo, w, hload⟩ := requestLoads_frame x.domain hs (claimMet x (admission x rep s))
  have hself : hamperOf (claimMet x (admission x rep s)) x.id = hamperOf (admission x rep s) x.id :=
    hamperOf_claimMet_admitted fun y hy hid => admission_admitted hy hid
  rw [hclaim] at hself
  exact ⟨c, l, k, lo, w, by rw [hadmit, hload, hclaim], hself, hclear, hkept⟩

/-- A hamper short of cups is marked as refused (R183). -/
def markRefused (x : Hamper) (s : State) : State := modHamper s x.id (fun y => { y with refusedCups := true })

theorem hamperOf_markRefused (hx : hamperOf s x.id = some x) : hamperOf (markRefused x s) x.id = some { x with refusedCups := true } := by
  refine (hamperOf_modHamper_same ?_ _ _).trans (congrArg (Option.map _) hx)
  exact fun _ => rfl

theorem hamperOf_markRefused_ne {j : Nat} (hj : j ≠ x.id) : hamperOf (markRefused x s) j = hamperOf s j := by
  refine hamperOf_modHamper_ne ?_ _ hj
  exact fun _ => rfl

theorem refuseCups_eq (x : Hamper) (s : State) : refuseCups x s =
    if (s.claims.getD x.port none).isNone then setClaim x.port (some x.id) (markRefused x s) else markRefused x s := rfl

/-- A hamper short of cups is its port's claim from now when none stands; else it is marked alone (R183). -/
theorem refuseCups_frame (hx : hamperOf s x.id = some x) :
    ∃ l, refuseCups x s = { s with
        hampers := l, claims := if (s.claims.getD x.port none).isNone then s.claims.set x.port (some x.id) else s.claims }
      ∧ l.find? (fun y => y.id == x.id) = some { x with
          refusedCups := true, claimSince := if (s.claims.getD x.port none).isNone then s.mono else x.claimSince }
      ∧ ∀ j, j ≠ x.id → l.find? (fun y => y.id == j) = hamperOf s j := by
  rw [refuseCups_eq]
  by_cases hnone : (s.claims.getD x.port none).isNone
  · simp only [hnone, if_true]
    refine ⟨_, rfl, ?_, fun j hj => ?_⟩
    · refine (hamperOf_setClaim (markRefused x s) x.port (some x.id) x.id).trans ?_
      rw [hamperOf_markRefused hx, Option.map_some, if_pos rfl]
      rfl
    · exact (hamperOf_setClaim_ne (p := x.port) (by simpa using hj.symm)).trans (hamperOf_markRefused_ne hj)
  · simp only [hnone, Bool.false_eq_true, if_false]
    exact ⟨_, rfl, hamperOf_markRefused hx, fun j hj => hamperOf_markRefused_ne hj⟩

theorem claimWait_none (hnone : (s.claims.getD p none).bind (hamperOf s) = none) : claimWait p s = s := by
  simp only [claimWait, hnone]

/-- A standing claim is reported at the tick its AGE_LIMIT has passed (R201). -/
theorem claimWait_stands (hx : (s.claims.getD p none).bind (hamperOf s) = some x)
    (hquiet : boundaryDue (x.claimSince + msTicks s.ageLimit + 1) s = false) :
    claimWait p s = raise 6 1 p (some x.domain) { s with mono := max s.mono (x.claimSince + msTicks s.ageLimit + 1) } := by
  simp only [claimWait, hx, elapseTo_quiet hquiet]

end

/-- Settles O39: reads without errors let the hash through; the first hamper of the order is let in or, short of cups, refused; claims only wait. -/
theorem admissionHashesAdmitsAndClaims : Obligations.AdmissionHashesAdmitsAndClaims := by
  intro s
  refine ⟨fun h x m n hx hadmitted hwhole hidemp hhash hdefect hlists hpieces => ?_, fun x rest hc hx hdefect horder => ⟨?_, ?_⟩,
    fun p => ⟨fun hnone => ?_, fun x m hx hm hquiet => ?_⟩⟩
  · exact congrArg Host.Outcome.next (dupHash_reads hx hadmitted hwhole hidemp hhash hdefect hlists hpieces)
  · intro rep f hf hfit hin
    subst hf
    have hstep : allocatorStep s = admitHamper x rep s :=
      (allocatorStep_eq s).trans ((congrArg (tryAdmit · s) horder).trans (tryAdmit_letIn hc hdefect hin hfit))
    obtain ⟨c, l, k, lo, w, hadmit, hself, hclear, hkept⟩ := admitHamper_frame hin
    refine ⟨_, congrArg Host.Outcome.next (hstep.trans hadmit), ?_, rfl, rfl, fun j hj => ?_, fun hno => ?_, rfl, rfl, rfl, rfl⟩
    · exact hself.trans (hamperOf_admission hx)
    · rw [hamperOf_claimless (s := admission x rep s) hclear, hamperOf_admission_ne hj]
    · obtain ⟨rfl, rfl⟩ := hkept hno
      exact ⟨rfl, fun j hj => hamperOf_admission_ne hj⟩
  · intro hidemp hfit hrest
    subst hrest
    obtain ⟨l, hrefuse, hself, hothers⟩ := refuseCups_frame hx
    have hstep : allocatorStep s = refuseCups x s :=
      (allocatorStep_eq s).trans ((congrArg (tryAdmit · s) horder).trans (tryAdmit_noCups hc hdefect hidemp hfit))
    exact ⟨_, congrArg Host.Outcome.next (hstep.trans hrefuse), hself, rfl, hothers, rfl, rfl, rfl, rfl, rfl⟩
  · exact congrArg Host.Outcome.next (claimWait_none hnone)
  · subst hm
    exact congrArg Host.Outcome.next (claimWait_stands hx hquiet)

end Sys2Proof.Proofs
end

section
/-! PROOFS. The dispatchers: a free engine is granted with the whole set of a hamper's entry (R186, R188, R203), an URGENT entry suspends a running
message (R189), and waiting promotes a hamper (R187). -/

namespace Sys2Proof.Proofs

open Sys2Proof.Machine Sys2Proof.Safety Sys2Proof.Laws

section
variable {s : State} {x v z : Hamper} {e i h : Nat} {l : List Nat} {n : Need} {slotErr : Bool} {rest : List Hamper}

/-! The order of a dispatcher -/

/-- With no candidate a dispatcher has no order (R185). -/
theorem arbiterOrder_nil (s : State) (a : Arbiter) : arbiterOrder s a [] = [] := by
  simp [arbiterOrder, arbitration, orderDomains, risingSet, rotate]

theorem engineGrant_idle (hfree : engineFree s e = true) (hnone : grantable s e = []) : engineGrant e slotErr s = s := by
  simp [engineGrant, hfree, hnone, arbiterOrder_nil]

/-- The first of the dispatcher's order gets the whole set it needs, when that fits the cap (R188, R203, R446). -/
theorem engineGrant_first (hfree : engineFree s e = true)
    (horder : arbiterOrder s (s.dispatchers.getD (dispatcherOf e) {}) ((grantable s e).map atDispatch) = x :: rest)
    (hneed : waitingNeed s x = some n) (hset : grantSet s n e = some l) (hcap : capFits s x.id (setCharge l) = true) :
    engineGrant e slotErr s = grantEngines x l slotErr s := by
  simp only [engineGrant, hfree, horder, hneed, Option.bind_some, hset, hcap, Bool.not_true, Bool.false_eq_true, if_false, if_true]

@[simp] theorem atDispatch_id (z : Hamper) : (atDispatch z).id = z.id := by unfold atDispatch; split <;> rfl

/-- The class at which an entry is dispatched says nothing about its phase (R322). -/
@[simp] theorem hashPhase_atDispatch (z : Hamper) : hashPhase (atDispatch z) = hashPhase z := by unfold atDispatch; split <;> rfl

/-! Engines given to an entry -/

/-- A change of several domains, which made twice is made once. -/
theorem pdOf_foldl_modPd_eq {f : Pd → Pd} (hf : ∀ d, f (f d) = f d) (hi : i ∈ l → i < s.power.pds.length) :
    pdOf (l.foldl (fun s j => modPd s j f) s) i = if i ∈ l then f (pdOf s i) else pdOf s i := by
  induction l generalizing s with
  | nil => rfl
  | cons j l ih =>
    rw [List.foldl_cons, ih (fun hmem => by simpa [modPd] using hi (List.mem_cons_of_mem _ hmem))]
    by_cases hj : j = i
    · subst hj
      simp [pdOf_modPd_same s j f (hi List.mem_cons_self), hf]
    · simp [pdOf_modPd_ne s f hj, Ne.symm hj]

theorem foldl_modPd_frame (f : Pd → Pd) (l : List Nat) (s : State) : ∃ w, l.foldl (fun s j => modPd s j f) s = { s with power := w } := by
  induction l generalizing s with
  | nil => exact ⟨_, rfl⟩
  | cons j l ih =>
    obtain ⟨w, hw⟩ := ih (modPd s j f)
    exact ⟨w, hw⟩

/-- A hamper whose entry has started on engines, with the key of a main phase (R188, R263, R300). -/
def started (s : State) (x : Hamper) (l : List Nat) (y : Hamper) : Hamper :=
  { y with
    engines := l, startedAt := s.power.starts, held := if hashPhase x then none else heldKey s x
    awaiting := !hashPhase x && (if hashPhase x then none else heldKey s x).isNone }

/-- An entry that starts and meets no slot error changes its hamper and the count of starts (R188, R300). -/
theorem startEntry_eq (herr : slotErr = true → hashPhase x = true) : startEntry x l slotErr s =
    modHamper { s with power := { s.power with starts := s.power.starts + 1 } } x.id (started s x l) := by
  have hok : (slotErr && !hashPhase x) = false := by
    cases slotErr with
    | false => rfl
    | true => simp [herr rfl]
  simp only [startEntry, hok, Bool.false_eq_true, if_false]
  rfl

/-- In a hash phase no key is copied; else the entry waits on unless its key is held (R263, R300). -/
theorem started_key (s : State) (x : Hamper) (l : List Nat) (y : Hamper) :
    (hashPhase x = true → (started s x l y).held = none ∧ (started s x l y).awaiting = false)
      ∧ (hashPhase x = false → (started s x l y).awaiting = (started s x l y).held.isNone) := by
  constructor <;> intro hphase <;> simp [started, hphase]

theorem hamperOf_startEntry (herr : slotErr = true → hashPhase x = true) (hz : hamperOf s x.id = some z) :
    hamperOf (startEntry x l slotErr s) x.id = some (started s x l z) := by
  rw [startEntry_eq herr]
  refine (hamperOf_modHamper_same ?_ _ _).trans (congrArg (Option.map _) hz)
  exact fun _ => rfl

theorem hamperOf_startEntry_ne {j : Nat} (herr : slotErr = true → hashPhase x = true) (hj : j ≠ x.id) :
    hamperOf (startEntry x l slotErr s) j = hamperOf s j := by
  rw [startEntry_eq herr]
  refine hamperOf_modHamper_ne ?_ _ hj
  exact fun _ => rfl

/-- An engine that runs a hamper's entry. -/
def runBy (h : Nat) (d : Pd) : Pd := { d with running := some (.hamper h) }
/-- An engine that runs an URGENT hamper's entry and holds the message it ran (R189). -/
def takenBy (h : Nat) (d : Pd) : Pd := { d with suspended := d.running, running := some (.hamper h) }

/-- The engines of a set are a hamper's, its cap claim is met, and the grant is counted (R186, R203, R446). -/
def engaged (x : Hamper) (l : List Nat) (s : State) : State :=
  l.foldl (fun s i => modPd s i (runBy x.id))
    (noteDispatch (dispatcherOf (l.headD 0)) x
      (if s.power.capClaim = some x.id then { s with power := { s.power with capClaim := none } } else s))

theorem grantEngines_eq (x : Hamper) (l : List Nat) (slotErr : Bool) (s : State) :
    grantEngines x l slotErr s = startEntry x l slotErr (engaged x l s) := rfl

theorem noteDispatch_frame (c : Nat) (x : Hamper) (s : State) : ∃ d w,
    noteDispatch c x (if s.power.capClaim = some x.id then { s with power := { s.power with capClaim := none } } else s)
      = { s with dispatchers := d, power := w } ∧ w.pds = s.power.pds := by
  split
  · exact ⟨_, _, rfl, rfl⟩
  · exact ⟨_, _, rfl, rfl⟩

/-- What the grant of engines changes besides its hamper: a dispatcher and the power domains (R186, R188). -/
theorem engaged_frame (x : Hamper) (l : List Nat) (s : State) : ∃ d w, engaged x l s = { s with dispatchers := d, power := w } := by
  obtain ⟨d, w, hnote, -⟩ := noteDispatch_frame (dispatcherOf (l.headD 0)) x s
  obtain ⟨w', hset⟩ := foldl_modPd_frame (runBy x.id) l { s with dispatchers := d, power := w }
  exact ⟨d, w', by rw [engaged, hnote, hset]⟩

/-- Every engine of the set runs the hamper, and no other engine is changed (R203). -/
theorem pdOf_engaged (hi : i ∈ l → i < s.power.pds.length) :
    pdOf (engaged x l s) i = if i ∈ l then runBy x.id (pdOf s i) else pdOf s i := by
  obtain ⟨d, w, hnote, hpds⟩ := noteDispatch_frame (dispatcherOf (l.headD 0)) x s
  have hsame : pdOf { s with dispatchers := d, power := w } i = pdOf s i := by simp only [pdOf, hpds]
  rw [engaged, hnote, pdOf_foldl_modPd_eq (f := runBy x.id) (fun _ => rfl) (by simpa only [hpds] using hi), hsame]

theorem pdOf_startEntry (herr : slotErr = true → hashPhase x = true) : pdOf (startEntry x l slotErr s) i = pdOf s i := by
  rw [startEntry_eq herr]; rfl

/-! Suspension -/

/-- A hamper that waits for engines has none. -/
theorem engines_of_waitingNeed (hneed : waitingNeed s x = some n) : x.engines = [] := by
  unfold waitingNeed waitingEntry at hneed
  split at hneed
  · next hentry =>
    split at hentry
    · next hwaits =>
      obtain ⟨-, hnone⟩ : (_ ∧ _) ∧ x.engines = [] := by simpa using hwaits
      exact hnone
    · cases hentry
  · cases hneed

/-- The message that an engine may suspend runs on it alone; the engine is a cipher or digest engine (R189). -/
theorem victimOn_some (hv : victimOn s i = some v) : i < 24 ∧ hamperOf s v.id = some v ∧ v.engines.length = 1 := by
  unfold victimOn at hv
  dsimp only at hv
  split at hv
  · cases hv
  · next hopen =>
    split at hv
    · next k _ =>
      split at hv
      · next y hy =>
        split at hv
        · next hrule =>
          obtain ⟨-, hone, -⟩ := hrule
          cases hv
          have hid : v.id = k := by simpa using List.find?_some hy
          exact ⟨by simp at hopen; omega, by rw [hid]; exact hy, hone⟩
        · cases hv
      · cases hv
    · cases hv

theorem foldl_betterVictim_mem (c : Nat × Hamper) (t : List (Nat × Hamper)) : t.foldl betterVictim c ∈ c :: t := by
  induction t generalizing c with
  | nil => exact List.mem_singleton_self c
  | cons b t ih =>
    have hbetter : betterVictim c b = c ∨ betterVictim c b = b := by unfold betterVictim; split <;> simp
    rcases List.mem_cons.1 (ih (betterVictim c b)) with hhead | htail
    · rw [List.foldl_cons, hhead]
      rcases hbetter with hb | hb <;> simp [hb]
    · exact List.mem_cons_of_mem _ (List.mem_cons_of_mem _ htail)

theorem pickVictim_victimOn (hpick : pickVictim s l = some (i, v)) : victimOn s i = some v := by
  unfold pickVictim at hpick
  split at hpick
  · cases hpick
  · next c t hlist =>
    have hmem : (i, v) ∈ l.filterMap (fun j => (victimOn s j).map (fun y => (j, y))) := by
      rw [hlist, ← Option.some.inj hpick]
      exact foldl_betterVictim_mem c t
    obtain ⟨j, -, hj⟩ := List.mem_filterMap.1 hmem
    obtain ⟨y, hy, heq⟩ := Option.map_eq_some_iff.1 hj
    cases heq
    exact hy

theorem preempt_eq (hx : hamperOf s h = some x) (hurgent : x.cls = 3) (hneed : waitingNeed s x = some [l])
    (hbusy : l.any (engineFree s) = false) (hpick : pickVictim s l = some (i, v)) : preempt h s = suspendFor x v i s := by
  simp only [preempt, hx, hneed, hurgent, hbusy, hpick]
  rfl

/-- An event at INFO or MINOR changes its health block alone (R413). -/
theorem raise_minor_frame {b src detail : Nat} {dom : Option Nat} (hsev : sevOf s b src ≤ 1) :
    ∃ hb, raise b src detail dom s = { s with health := hb } := ⟨_, raise_minor hsev⟩

/-- A suspension of a hamper's message is counted (R189). -/
def suspensionCounted (v : Hamper) (s : State) : State := modHamper s v.id (fun y => { y with suspensions := y.suspensions + 1 })

theorem hamperOf_suspensionCounted (hv : hamperOf s v.id = some v) :
    hamperOf (suspensionCounted v s) v.id = some { v with suspensions := v.suspensions + 1 } := by
  refine (hamperOf_modHamper_same ?_ _ _).trans (congrArg (Option.map _) hv)
  exact fun _ => rfl

theorem hamperOf_suspensionCounted_ne {j : Nat} (hj : j ≠ v.id) : hamperOf (suspensionCounted v s) j = hamperOf s j := by
  refine hamperOf_modHamper_ne ?_ _ hj
  exact fun _ => rfl

/-- The engine of a victim has been handed to an URGENT entry; `hb` are the health blocks then (R189). -/
def handedOver (x v : Hamper) (i : Nat) (hb : List Health) (s : State) : State := modPd { suspensionCounted v s with health := hb } i (takenBy x.id)

theorem pdOf_handedOver {hb : List Health} (hi : i < s.power.pds.length) : pdOf (handedOver x v i hb s) i = takenBy x.id (pdOf s i) :=
  pdOf_modPd_same { suspensionCounted v s with health := hb } i (takenBy x.id) hi

theorem pdOf_handedOver_ne {hb : List Health} {j : Nat} (hj : j ≠ i) : pdOf (handedOver x v i hb s) j = pdOf s j :=
  pdOf_modPd_ne { suspensionCounted v s with health := hb } (takenBy x.id) hj.symm

/-- The suspension is counted, its event recorded when it is the fourth, and the URGENT entry starts on the engine (R189). -/
theorem suspendFor_frame (hsev : sevOf s 6 3 ≤ 1) : ∃ hb, suspendFor x v i s =
    startEntry x [i] false (handedOver x v i hb s) := by
  unfold suspendFor
  dsimp only
  split
  · obtain ⟨hb, hraise⟩ := raise_minor_frame (s := suspensionCounted v s) (detail := v.ring) (dom := some v.domain) hsev
    exact ⟨hb, congrArg (fun u => startEntry x [i] false (modPd u i (takenBy x.id))) hraise⟩
  · exact ⟨_, rfl⟩

/-! Aging -/

/-- A waiting NORMAL or BULK hamper is promoted one class at the tick its AGE_LIMIT has passed (R187). -/
theorem agePromote_frame (hx : hamperOf s h = some x) (hcls : x.cls < 2) (hwaits : isWaiting s x = true) (hsev : sevOf s 6 0 ≤ 1)
    (hquiet : boundaryDue (x.agedAt + msTicks s.ageLimit) s = false) :
    ∃ hb, agePromote h s = { modHamper s h (fun y => { y with cls := y.cls + 1, agedAt := max s.mono (x.agedAt + msTicks s.ageLimit) }) with
      mono := max s.mono (x.agedAt + msTicks s.ageLimit), health := hb } := by
  simp only [agePromote, hx, hcls, hwaits, and_self, if_true, elapseTo_quiet hquiet]
  exact raise_minor_frame (s := modHamper { s with mono := max s.mono (x.agedAt + msTicks s.ageLimit) } h _) hsev

end

/-- Settles O40: a grant changes its set of engines, its hamper and the count of grants; a suspension one engine and two hampers; aging one hamper. -/
theorem enginesAreGrantedAndSuspended : Obligations.EnginesAreGrantedAndSuspended := by
  intro s hshape
  obtain ⟨-, hpds, -⟩ := hshape
  refine ⟨fun e err hfree hnone => ?_, fun e err x z rest w l _ hfree hz hxz herr horder hneed hset hcap => ?_,
    fun h x l i v hx hurgent hneed hbusy hpick hsev => ?_, fun h x hx hcls hwaits hsev hquiet => ?_⟩
  · exact congrArg Host.Outcome.next (engineGrant_idle hfree hnone)
  · have hid : x.id = z.id := by rw [hxz, atDispatch_id]
    have hphase : hashPhase x = hashPhase z := by rw [hxz, hashPhase_atDispatch]
    have herr' : err = true → hashPhase x = true := fun h => hphase.trans (herr h)
    obtain ⟨d, p, hengaged⟩ := engaged_frame x l s
    have hz' : hamperOf (engaged x l s) x.id = some z := by rw [hengaged, hid]; exact hz
    have hpd (i : Nat) (hi : i ∈ l → i < 50) : pdOf (startEntry x l err (engaged x l s)) i =
        if i ∈ l then runBy x.id (pdOf s i) else pdOf s i := (pdOf_startEntry herr').trans (pdOf_engaged (hpds ▸ hi))
    have hkey := started_key (engaged x l s) x l z
    rw [hphase] at hkey
    have hrest : startEntry x l err (engaged x l s) = _ := startEntry_eq herr'
    have hgrant : engineGrant e err s = startEntry x l err (engaged x l s) :=
      (engineGrant_first hfree horder hneed hset hcap).trans (grantEngines_eq x l err s)
    refine ⟨_, started (engaged x l s) x l z, congrArg Host.Outcome.next hgrant,
      fun i hi hlt => ?_, fun i hi => ?_, hid ▸ hamperOf_startEntry herr' hz', rfl, rfl, rfl, hkey.1, hkey.2, fun j hj => ?_, ?_, ?_, ?_, ?_⟩
    · rw [hpd i fun _ => hlt, if_pos hi, hid]
      rfl
    · rw [hpd i fun hmem => absurd hmem hi, if_neg hi]
    · rw [hamperOf_startEntry_ne herr' (hid ▸ hj), hengaged]; rfl
    all_goals rw [hrest, hengaged]; rfl
  · obtain ⟨hi, hv, hengine⟩ := victimOn_some (pickVictim_victimOn hpick)
    have hid : x.id = h := by simpa using List.find?_some hx
    subst hid
    have hother : x.id ≠ v.id := by
      intro heq
      rw [heq, hv, Option.some.injEq] at hx
      rw [hx, engines_of_waitingNeed hneed] at hengine
      cases hengine
    obtain ⟨hb, hsuspend⟩ := suspendFor_frame (x := x) (v := v) (i := i) hsev
    have hx' : hamperOf (handedOver x v i hb s) x.id = some x := (hamperOf_suspensionCounted_ne hother).trans hx
    have hok : false = true → hashPhase x = true := nofun
    have hrest : startEntry x [i] false (handedOver x v i hb s) = _ := startEntry_eq hok
    refine ⟨_, started (handedOver x v i hb s) x [i] x, { v with suspensions := v.suspensions + 1 },
      congrArg Host.Outcome.next ((preempt_eq hx hurgent hneed hbusy hpick).trans hsuspend), ?_, fun j hj => ?_,
      hamperOf_startEntry hok hx', rfl, rfl, ?_, rfl, rfl, fun j hj hjv => ?_, ?_, ?_, ?_, ?_⟩
    · exact (pdOf_startEntry hok).trans (pdOf_handedOver (by omega))
    · exact (pdOf_startEntry hok).trans (pdOf_handedOver_ne hj)
    · exact (hamperOf_startEntry_ne hok hother.symm).trans (hamperOf_suspensionCounted hv)
    · exact (hamperOf_startEntry_ne hok hj).trans (hamperOf_suspensionCounted_ne hjv)
    all_goals rw [hrest]; rfl
  · obtain ⟨hb, hpromoted⟩ := agePromote_frame hx hcls hwaits hsev hquiet
    refine ⟨_, congrArg Host.Outcome.next hpromoted, rfl, ?_, fun j hj => ?_, rfl, rfl, rfl, rfl⟩
    · refine (hamperOf_modHamper_same ?_ _ _).trans (congrArg (Option.map _) hx)
      exact fun _ => rfl
    · refine hamperOf_modHamper_ne ?_ _ hj
      exact fun _ => rfl

end Sys2Proof.Proofs
end

section
/-! PROOFS. Alarms that reach an engine with a chunk of a Tongs window that is DONE: its digest does not restart (R222, R254, R258); and O55, O58. -/

namespace Sys2Proof.Proofs

open Sys2Proof.Machine Sys2Proof.Safety Sys2Proof.Tests

/-- Window 0 has become DONE through a host's read (R254) while engine `i` still has a chunk of it. -/
def doneWindow (i : Nat) : State :=
  modPd { up with snoops := up.snoops.set 0 { state := 3, base := 0x100000, length := 1, fed := [0], chunk := 4096 } } i
    (fun d => { d with running := some (.tongs 0) })

/-- A bound on every severity of a block bounds that of each source. -/
theorem sevOf_le_of_all {s : State} {b n : Nat} (h : ∀ v ∈ (blockOf s b).sevs, v ≤ n) (src : Nat) : sevOf s b src ≤ n := by
  rw [sevOf, List.getD_eq_getElem?_getD]
  cases hv : (blockOf s b).sevs[src]? with
  | none => exact Nat.zero_le n
  | some v => exact h v (List.mem_of_getElem? hv)

theorem shape_doneWindow : ∀ i ∈ ([0, 16] : List Nat), Shape (doneWindow i) := by
  simp only [Shape]; decide +kernel

theorem sevs_doneWindow : ∀ b ∈ ([9, 10, 11, 17, 18] : List Nat), ∀ v ∈ (blockOf (doneWindow 16) b).sevs, v ≤ 3 := by decide +kernel

/-- A clock glitch restarts MEASURING windows only (R258). -/
theorem fed_doneWindow_glitch : ((glitchAlarm 0 0 (doneWindow 16)).snoops.getD 0 {}).fed = [0] := by decide +kernel

/-- So does a health failure of the entropy source (R224). -/
theorem fed_doneWindow_rngFail : ((rngFail (doneWindow 0)).snoops.getD 0 {}).fed = [0] := by decide +kernel

/-- Refutes O55: `Struck` wants the window of every struck Tongs chunk to start again, but one that a host's read has completed in the meantime is
DONE, and its digest stands. Digest engine 16 has such a chunk, and the reference glitches. -/
theorem not_alarmsEraseEnginesAndTamperErasesRoots : ¬ Obligations.AlarmsEraseEnginesAndTamperErasesRoots := by
  intro h
  obtain ⟨halarms, -⟩ := h (doneWindow 16) (shape_doneWindow 16 (by decide))
  obtain ⟨hglitch, -⟩ := halarms ⟨rfl, rfl, rfl⟩ (fun b hb => sevOf_le_of_all (sevs_doneWindow b hb)) (by decide +kernel) (by decide +kernel)
  obtain ⟨t, ht, -, -, -, -, -, hstruck⟩ := hglitch (.clockGlitch 0) 0 (by simp) rfl
  obtain rfl : glitchAlarm 0 0 (doneWindow 16) = t := Host.Outcome.next.inj ht
  obtain ⟨⟨-, -, hrestarts⟩, -⟩ := hstruck 16 (by decide)
  have hempty := hrestarts 0 rfl
  rw [fed_doneWindow_glitch] at hempty
  cases hempty

/-- Refutes O58: its clause on a health failure wants `Struck` of engines 0 to 15, with no condition on what a Tongs chunk's window is at. In a state of the
right shape whose engine 0 has a chunk of a DONE window, that window's digest stands. -/
theorem not_scrubWhiskAndEntropy : ¬ Obligations.ScrubWhiskAndEntropy := by
  intro h
  obtain ⟨-, -, -, -, -, -, -, -, -, -, hfail, -⟩ := h (doneWindow 0) (shape_doneWindow 0 (by decide))
  obtain ⟨t, ht, -, -, hstruck⟩ := hfail (by decide +kernel) ⟨rfl, rfl, rfl⟩ (by decide +kernel)
  obtain rfl : rngFail (doneWindow 0) = t := Host.Outcome.next.inj ht
  obtain ⟨-, -, hrestarts⟩ := hstruck 0 (by decide)
  have hempty := hrestarts 0 rfl
  rw [fed_doneWindow_rngFail] at hempty
  cases hempty

end Sys2Proof.Proofs
end

section
/-! PROOFS. A fragment list in the flash window whose cached line its own fragments replace while they are read (R149, R391): the share an entry
took for it is not what it carries; and O42. -/

namespace Sys2Proof.Proofs

open Sys2Proof.Machine Sys2Proof.Safety Sys2Proof.Tests

/-- CIPHER in CBC mode: a fragment list of one descriptor, which stands in the flash window. -/
def listEnt : Bytes := ent (hd 0x10 0x10) 8 0 0x20100000 (0x80000000 + 1) 0x420000 16 (zeros 32)

/-- The device that runs it. The one way that XIP does not reserve holds the list's line, which names 16 octets of another line of its set (R391);
the flash holds a list that names none. -/
def listCached : State :=
  let s := runs listEnt [0]
  { s with mp := { s.mp with
      xipWays := 15, flash := memWrite 0xFF [] 0x100000 (zeros 8)
      cache := [{ addr := 0x100000, way := 15, data := toLe 4 0x20104000 ++ toLe 4 16 ++ zeros 248 }] } }

/-- The entry has passed its cap check with a share of 16 octets (R344). -/
def listShared : State := takeShare 7 (running listEnt [0]) 4 16 listCached

/-- Its source has been read: the fragment's line has taken the way of the list's (R391). -/
def listRead : State := noteReads (readRanges listCached (running listEnt [0]) listEnt) listShared

theorem listCached_runs : Runs listCached 7 0x10 (running listEnt [0]) listEnt := by
  simp only [Runs]; decide +kernel

theorem listCached_passes :
    cipherEarly listCached (running listEnt [0]) listEnt = none
      ∧ keyStep listCached (running listEnt [0]) (slotOf listEnt) (cipherJudge useEncrypt (modeOf listEnt)) = .key (key5 8)
      ∧ cipherLater listCached (running listEnt [0]) listEnt (key5 8) = none
      ∧ srcTotal listCached (running listEnt [0]) listEnt = 16 := by decide +kernel

theorem listRead_reads : Reads listShared listRead 7 (readRanges listCached (running listEnt [0]) listEnt) := by
  have hclean : Clean listRead := by simp only [Clean]; decide +kernel
  exact ⟨by decide +kernel, rfl, hclean, by decide +kernel⟩

/-- The list that the flash holds names no octet. -/
theorem listRead_source : readAll listRead (running listEnt [0]) (srcRanges listRead (running listEnt [0]) listEnt) = [] := by decide +kernel

theorem listCached_share :
    (hamperOf (cipherRun .none 7 (running listEnt [0]) listEnt listCached) 7).map (fun y => y.entries.map (·.share)) = some [some (4, 16)] := by
  decide +kernel

/-- Refutes O42: the share is taken before the source is read, and reading the fragments can evict the cached line that held their list. The entry
then reads the list anew from the flash and carries what that one names, here nothing, with a share of 16 octets. -/
theorem not_cipherAndAeadEntries : ¬ Obligations.CipherAndAeadEntries := by
  intro h
  obtain ⟨hearly, hkey, hlater, htotal⟩ := listCached_passes
  obtain ⟨hcipher, -⟩ := h listCached listRead 7 (running listEnt [0]) listEnt (key5 8) (by decide) rfl (by decide +kernel)
  obtain ⟨t, ht, -, hcounts, -⟩ :=
    hcipher listCached_runs hearly hkey hlater (htotal ▸ listRead_reads) (by decide +kernel) [] _ _ listRead_source.symm rfl rfl
  obtain rfl : runEntry 0x10 7 (cipherRun .none 7) listCached = t := Host.Outcome.next.inj ht
  obtain ⟨y, d, hy, hok, hentries⟩ := hcounts rfl
  rw [runEntry_runs listCached_runs] at hy
  have hshare := listCached_share
  rw [hy, Option.map_some, hentries] at hshare
  simp [running, taken, shareFirst, finishFirst, hok] at hshare

end Sys2Proof.Proofs
end

section
/-! PROOFS. What meeting memory errors leaves of open messages: while a range is read, errors that wait only go, and a part-state record changes only
where an error strikes the place it is kept at, which the entry itself has read before (R218, R242, R360, R370, R376). -/

namespace Sys2Proof.Proofs

open Sys2Proof.Machine Sys2Proof.Safety Sys2Proof.Laws

/-- The place of the device-reserved region that holds part-state records of a kind: cipher messages, digest messages (R376). -/
def partPlace (dig : Bool) (o : Nat) : Bool :=
  if dig then decide (0x60000 ≤ o) && decide (o < 0x80000) else decide (0x40000 ≤ o) && decide (o < 0x60000)

/-- No error but a correctable one waits where part-state records of the kind are kept. -/
def Guarded (dig : Bool) (s : State) : Prop :=
  ∀ c ∈ s.mem.latent, kindOf c.1 = 6 → partPlace dig (reservedAt s c.1) = true → c.2 = 1

/-- From `s` to `t`, while a hamper is left: time stands, no error has come to wait, and the records of a guarded kind only go. A reaction of severity
DEVICE leaves no hamper (R135). -/
structure Dwindles (dig : Bool) (s t : State) : Prop where
  gone : s.hampers = [] → t.hampers = []
  mono : t.hampers ≠ [] → t.mono = s.mono
  latent : t.hampers ≠ [] → ∀ c ∈ t.mem.latent, c ∈ s.mem.latent
  parts : t.hampers ≠ [] → Guarded dig s → ∀ r, openPart t dig r = openPart s dig r ∨ openPart t dig r = none

section
variable {dig : Bool} {s0 s t : State}

theorem Dwindles.refl (s : State) : Dwindles dig s s := ⟨id, fun _ => rfl, fun _ _ => id, fun _ _ _ => .inl rfl⟩

theorem Dwindles.left (h : Dwindles dig s t) (ht : t.hampers ≠ []) : s.hampers ≠ [] := fun hs => ht (h.gone hs)

theorem Dwindles.guarded (h : Dwindles dig s t) (ht : t.hampers ≠ []) (hs : Guarded dig s) : Guarded dig t := fun c hc hkind hplace =>
  hs c (h.latent ht c hc) hkind (by rwa [reservedAt, h.mono ht] at hplace)

theorem Dwindles.trans {u : State} (h : Dwindles dig s t) (k : Dwindles dig t u) : Dwindles dig s u where
  gone hs := k.gone (h.gone hs)
  mono hu := (k.mono hu).trans (h.mono (k.left hu))
  latent hu c hc := h.latent (k.left hu) c (k.latent hu c hc)
  parts hu hs r := by
    rcases k.parts hu (h.guarded (k.left hu) hs) r with hr | hr
    · rw [hr]; exact h.parts (k.left hu) hs r
    · exact .inr hr

/-- What `Dwindles` speaks of. -/
def dwindling (s : State) : List Hamper × Nat × Assoc Nat × Assoc PartState × Assoc PartState :=
  (s.hampers, s.mono, s.mem.latent, s.cipherParts, s.digestParts)

/-- A change of what `Dwindles` does not speak of. -/
theorem dwindles_aside (hs : Dwindles dig s0 s) (h : dwindling t = dwindling s) : Dwindles dig s0 t := by
  simp only [dwindling, Prod.mk.injEq] at h
  obtain ⟨hh, hm, hl, hc, hd⟩ := h
  refine hs.trans ⟨fun hn => hh.trans hn, fun _ => hm, fun _ c hcl => hl ▸ hcl, fun _ _ r => .inl ?_⟩
  rw [openPart, partsOf, hc, hd]; rfl

theorem dwindles_ite {c : Prop} [Decidable c] {x y : State} (hx : Dwindles dig s0 x) (hy : Dwindles dig s0 y) : Dwindles dig s0 (if c then x else y) := by
  split <;> assumption

theorem dwindles_foldl {β : Type} {f : State → β → State} {l : List β} (hf : ∀ t, ∀ b ∈ l, Dwindles dig s0 t → Dwindles dig s0 (f t b))
    (hs : Dwindles dig s0 s) : Dwindles dig s0 (l.foldl f s) := by
  induction l generalizing s with
  | nil => exact hs
  | cons b l ih => exact ih (fun t c hc => hf t c (List.mem_cons_of_mem _ hc)) (hf s b List.mem_cons_self hs)

theorem dwindles_modHamper (h : Nat) (f : Hamper → Hamper) (hs : Dwindles dig s0 s) : Dwindles dig s0 (modHamper s h f) :=
  hs.trans ⟨fun hn => by simp [hn], fun _ => rfl, fun _ _ => id, fun _ _ _ => .inl rfl⟩

theorem dwindles_modPd (i : Nat) (f : Pd → Pd) (hs : Dwindles dig s0 s) : Dwindles dig s0 (modPd s i f) := dwindles_aside hs rfl

/-- Errors that no longer wait. -/
theorem dwindles_latent {m : MemState} (hm : ∀ c ∈ m.latent, c ∈ s.mem.latent) (hs : Dwindles dig s0 s) : Dwindles dig s0 { s with mem := m } :=
  hs.trans ⟨id, fun _ => rfl, fun _ => hm, fun _ _ _ => .inl rfl⟩

theorem dwindles_settleWords (a n : Nat) (hs : Dwindles dig s0 s) : Dwindles dig s0 (settleWords a n s) :=
  dwindles_latent (fun _ hc => (List.mem_filter.1 hc).1) hs

/-- Settling a part frees one record or none (R220). -/
theorem settlePart_cases (r : Nat) (e : Bytes) (d : Done) (s : State) : settlePart r e d s = { s with cipherParts := assocDel s.cipherParts r }
    ∨ settlePart r e d s = { s with digestParts := assocDel s.digestParts r } ∨ settlePart r e d s = s := by
  unfold settlePart
  dsimp only
  split
  · exact .inl rfl
  · split
    · exact .inr (.inl rfl)
    · exact .inr (.inr rfl)

theorem openPart_settlePart (r q : Nat) (e : Bytes) (d : Done) (s : State) :
    openPart (settlePart r e d s) dig q = openPart s dig q ∨ openPart (settlePart r e d s) dig q = none := by
  have hdel (m : Assoc PartState) : assocGet (assocDel m r) q = assocGet m q ∨ assocGet (assocDel m r) q = none := by
    rw [assocGet_del]
    split
    · exact .inr rfl
    · exact .inl rfl
  obtain h | h | h := settlePart_cases r e d s
  · rw [h]
    cases dig
    · exact hdel _
    · exact .inl rfl
  · rw [h]
    cases dig
    · exact .inl rfl
    · exact hdel _
  · rw [h]
    exact .inl rfl

theorem dwindles_settlePart (r : Nat) (e : Bytes) (d : Done) (hs : Dwindles dig s0 s) : Dwindles dig s0 (settlePart r e d s) :=
  hs.trans ⟨fun hn => by simpa using hn, fun _ => by simp, fun _ c hc => by simpa using hc, fun _ _ q => openPart_settlePart r q e d s⟩

theorem dwindles_finishEntry (h : Nat) (d : Done) (hs : Dwindles dig s0 s) : Dwindles dig s0 (finishEntry s h d) := by
  have hcurrent : Dwindles dig s0 (settleCurrent h d s) := by
    unfold settleCurrent
    split
    · split
      · exact dwindles_settlePart _ _ _ hs
      · exact hs
    · exact hs
  exact dwindles_aside (dwindles_modHamper h _ hcurrent) rfl

/-! Events -/

/-- A device that ran has no hamper left, one in BOOT only its flag (R116, R135). -/
theorem dwindles_enterQuarantine (b src : Nat) (hs : Dwindles dig s0 s) : Dwindles dig s0 (enterQuarantine b src s) := by
  by_cases hm : s.boot.mode = .boot
  · rw [enterQuarantine_boot b src hm]
    exact dwindles_aside hs rfl
  · obtain ⟨hmode, hsettled⟩ := enterQuarantine_settled b src hm
    have hnil := (hsettled hmode).1
    exact hs.trans ⟨fun _ => hnil, fun h => absurd hnil h, fun h => absurd hnil h, fun h => absurd hnil h⟩

theorem dwindles_suspendByEvent (b src d : Nat) (hs : Dwindles dig s0 s) : Dwindles dig s0 (suspendByEvent b src d s) := by
  refine dwindles_aside hs ?_
  unfold suspendByEvent
  split <;> rfl

theorem dwindles_recordOnly (b src detail sev : Nat) (dom : Option Nat) (hs : Dwindles dig s0 s) : Dwindles dig s0 (recordOnly b src detail sev dom s) :=
  dwindles_aside hs rfl

theorem dwindles_reactBase (b src sev : Nat) (dom : Option Nat) (hs : Dwindles dig s0 s) : Dwindles dig s0 (reactBase b src sev dom s) := by
  unfold reactBase
  split
  · exact dwindles_enterQuarantine b src hs
  · split
    · exact dwindles_ite (dwindles_suspendByEvent b src _ hs) hs
    · exact hs

theorem dwindles_captureSev (b src detail sev : Nat) (dom : Option Nat) (hs : Dwindles dig s0 s) : Dwindles dig s0 (captureSev b src detail sev dom s) :=
  have hrec := dwindles_recordOnly b src detail sev dom hs
  dwindles_ite hrec (dwindles_reactBase b src sev dom hrec)

theorem dwindles_capture (b src detail : Nat) (dom : Option Nat) (hs : Dwindles dig s0 s) : Dwindles dig s0 (capture b src detail dom s) :=
  dwindles_captureSev _ _ _ _ _ hs

theorem dwindles_noteDegraded (hs : Dwindles dig s0 s) : Dwindles dig s0 (noteDegraded s) := by
  have hflag : Dwindles dig s0 { s with power := { s.power with degraded := true } } := dwindles_aside hs rfl
  exact dwindles_ite hs (dwindles_capture _ _ _ _ hflag)

theorem dwindles_logRetirement (kind index cause : Nat) (hs : Dwindles dig s0 s) : Dwindles dig s0 (logRetirement s kind index cause) :=
  dwindles_ite (dwindles_aside hs rfl) hs

theorem dwindles_retire (i cause : Nat) (hs : Dwindles dig s0 s) : Dwindles dig s0 (retire i cause s) := by
  have hoff := dwindles_modPd i
    (fun d => { d with retired := true, fenced := false, st := .off, closed := false, wakeWanted := false, wakeQueued := false, running := none,
                       suspended := none })
    (dwindles_logRetirement (repairKind i).1 (repairKind i).2 cause hs)
  have hnote := dwindles_noteDegraded (dwindles_capture 16 2 i none hoff)
  exact dwindles_ite hs (dwindles_ite (dwindles_capture _ _ _ _ hnote) hnote)

theorem dwindles_fence (i : Nat) (hs : Dwindles dig s0 s) : Dwindles dig s0 (fence i s) :=
  dwindles_ite hs (dwindles_ite (dwindles_retire i 4 (dwindles_modPd _ _ hs)) (dwindles_modPd _ _ hs))

theorem dwindles_reactMajor (b src detail sev : Nat) (dom : Option Nat) (hs : Dwindles dig s0 s) : Dwindles dig s0 (reactMajor b src detail sev dom s) := by
  unfold reactMajor
  split
  · split
    · exact dwindles_fence _ hs
    · exact hs
  · exact hs

theorem dwindles_raise (b src detail : Nat) (dom : Option Nat) (hs : Dwindles dig s0 s) : Dwindles dig s0 (raise b src detail dom s) :=
  have hcap := dwindles_captureSev b src detail (sevOf s b src) dom hs
  dwindles_ite hcap (dwindles_reactMajor _ _ _ _ _ hcap)

/-! Errors that are met -/

theorem dwindles_faultRing (r cause : Nat) (hs : Dwindles dig s0 s) : Dwindles dig s0 (faultRing r cause s) := by
  unfold faultRing
  refine dwindles_raise _ _ _ _ (dwindles_aside hs ?_)
  split <;> rfl

theorem dwindles_strikeContext (r : Nat) (hs : Dwindles dig s0 s) : Dwindles dig s0 (strikeContext r s) := by
  unfold strikeContext
  split
  · split
    · exact dwindles_raise _ _ _ _ (dwindles_aside hs rfl)
    · exact hs
  · exact dwindles_faultRing _ _ (dwindles_aside hs rfl)

/-- An error of the device-reserved region outside the records of the kind. -/
theorem dwindles_strikeReserved {a : Nat} (ha : Guarded dig s0 → s.hampers ≠ [] → partPlace dig (reservedAt s a) = false) (hs : Dwindles dig s0 s) :
    Dwindles dig s0 (strikeReserved a s) := by
  have herased (t : State) (hc : t.hampers = s.hampers) (hm : t.mono = s.mono) (hl : t.mem.latent = s.mem.latent)
      (hp : partPlace dig (reservedAt s a) = false → openPart t dig = openPart s dig) : Dwindles dig s0 t := by
    refine ⟨fun h => hc.trans (hs.gone h), fun h => hm.trans (hs.mono (hc ▸ h)), fun h => hl ▸ hs.latent (hc ▸ h), fun h hg r => ?_⟩
    rw [hp (ha hg (hc ▸ h))]
    exact hs.parts (hc ▸ h) hg r
  unfold strikeReserved
  dsimp only
  split
  · exact dwindles_aside hs rfl
  split
  · exact dwindles_latent (fun _ => id) hs
  split
  · exact hs
  split
  · exact dwindles_foldl (fun _ x _ ht => dwindles_finishEntry x.id _ ht) hs
  split
  · refine herased _ rfl rfl rfl fun hp => ?_
    cases dig
    · simp [partPlace] at hp; omega
    · rfl
  split
  · refine herased _ rfl rfl rfl fun hp => ?_
    cases dig
    · rfl
    · simp [partPlace] at hp; omega
  split
  · exact dwindles_aside hs rfl
  split
  · exact dwindles_aside hs rfl
  · exact dwindles_latent (fun _ => id) hs

theorem dwindles_strikePantry {a : Nat} (ha : kindOf a = 6 → Guarded dig s0 → s.hampers ≠ [] → partPlace dig (reservedAt s a) = false)
    (hs : Dwindles dig s0 s) : Dwindles dig s0 (strikePantry a s) := by
  unfold strikePantry
  split
  · exact dwindles_aside hs rfl
  · exact dwindles_strikeContext _ hs
  · split
    · exact dwindles_modHamper _ _ hs
    · exact hs
  · split
    · exact dwindles_raise _ _ _ _ (dwindles_aside hs rfl)
    · exact hs
  · next h1 h3 h4 h5 =>
    have hkind : kindOf a = 6 := by
      revert h1 h3 h4 h5
      unfold kindOf
      split_ifs <;> simp
    exact dwindles_raise _ _ _ _ (dwindles_strikeReserved (ha hkind) hs)

/-- An error is met; one of more than one bit outside the records of the kind. -/
theorem dwindles_meetWord_outside {a nbits : Nat} (src : Nat)
    (ha : nbits ≠ 1 → kindOf a = 6 → Guarded dig s0 → s.hampers ≠ [] → partPlace dig (reservedAt s a) = false) (hs : Dwindles dig s0 s) :
    Dwindles dig s0 (meetWord a nbits src s) := by
  unfold meetWord
  dsimp only
  split
  · exact dwindles_settleWords _ _ hs
  split
  · exact dwindles_ite hs (dwindles_raise _ _ _ _ (dwindles_aside hs rfl))
  · next hn =>
    have hsettled := dwindles_settleWords (unitOf a) (unitLen a) hs
    exact dwindles_raise _ _ _ _ (dwindles_strikePantry (fun hk hg hh => ha hn hk hg hh) (dwindles_aside hsettled rfl))

/-- The error of a word that waited is met. -/
theorem dwindles_meetWord {c : Nat × Nat} (src : Nat) (hc : s0.hampers ≠ [] → c ∈ s0.mem.latent) (hs : Dwindles dig s0 s) :
    Dwindles dig s0 (meetWord c.1 c.2 src s) := by
  refine dwindles_meetWord_outside src (fun hnot hkind hg hh => ?_) hs
  by_contra hplace
  have hplace : partPlace dig (reservedAt s c.1) = true := Bool.eq_true_of_not_eq_false hplace
  exact hnot (hg c (hc (hs.left hh)) hkind (by rwa [reservedAt, hs.mono hh] at hplace))

end

end Sys2Proof.Proofs
end

section
/-! PROOFS. What reading the operands of an entry leaves of open messages: each stands, or has been freed (R149, R218, R242, R252, R366, R370, R376). -/

namespace Sys2Proof.Proofs

open Sys2Proof.Machine Sys2Proof.Safety Sys2Proof.Laws

section
variable {dig : Bool} {s0 s : State}

/-! Ranges that are read -/

/-- Errors met among those that waited in the state a fold starts from. -/
theorem dwindles_meetWords {l : List (Nat × Nat)} (src : Nat) (hl : ∀ c ∈ l, c ∈ s.mem.latent) (hs : Dwindles dig s0 s) :
    Dwindles dig s0 (l.foldl (fun s c => meetWord c.1 c.2 src s) s) :=
  hs.trans (dwindles_foldl (fun _ c hc ht => dwindles_meetWord src (fun _ => hl c hc) ht) (Dwindles.refl s))

theorem dwindles_touchPantry (a n src : Nat) (hs : Dwindles dig s0 s) : Dwindles dig s0 (touchPantry a n src s) :=
  dwindles_meetWords src (fun _ hc => (List.mem_filter.1 hc).1) hs

theorem dwindles_touchKind (k : Nat) (f : State → Nat → Bool) (hs : Dwindles dig s0 s) : Dwindles dig s0 (touchKind k f s) :=
  dwindles_meetWords 0 (fun _ hc => (List.mem_filter.1 hc).1) hs

theorem dwindles_touchCups (h : Nat) (hs : Dwindles dig s0 s) : Dwindles dig s0 (touchCups h s) := dwindles_touchKind _ _ hs
theorem dwindles_touchReserved (lo hi : Nat) (hs : Dwindles dig s0 s) : Dwindles dig s0 (touchReserved lo hi s) := dwindles_touchKind _ _ hs

theorem dwindles_failLine (u : Nat) (hs : Dwindles dig s0 s) : Dwindles dig s0 (failLine u s) := by
  unfold failLine
  exact dwindles_raise _ _ _ _ (dwindles_aside hs rfl)

theorem dwindles_touchLarder (a n : Nat) (hs : Dwindles dig s0 s) : Dwindles dig s0 (touchLarder a n s) :=
  dwindles_foldl (fun _ u _ ht => dwindles_ite (dwindles_failLine u ht) ht) hs

theorem dwindles_touch (a n : Nat) (hs : Dwindles dig s0 s) : Dwindles dig s0 (touch a n s) :=
  dwindles_ite hs (dwindles_ite (dwindles_touchLarder _ _ (dwindles_touchReserved _ _ hs)) (dwindles_touchPantry _ _ _ hs))

theorem dwindles_fillLine (u : Nat) (xip : Bool) (hs : Dwindles dig s0 s) : Dwindles dig s0 (fillLine u xip s) := by
  obtain ⟨c, h⟩ := fillLine_eq u xip s
  rw [h]
  exact dwindles_aside hs rfl

theorem dwindles_armWindow (w a n : Nat) (hs : Dwindles dig s0 s) : Dwindles dig s0 (armWindow w a n s) := dwindles_ite (dwindles_aside hs rfl) hs

theorem dwindles_finishWindow (w : Nat) (hs : Dwindles dig s0 s) : Dwindles dig s0 (finishWindow w s) := by
  unfold finishWindow
  exact dwindles_ite (dwindles_raise _ _ _ _ (dwindles_aside hs rfl)) hs

theorem dwindles_feedWindow (w a : Nat) (b : Bytes) (hs : Dwindles dig s0 s) : Dwindles dig s0 (feedWindow w a b s) := by
  unfold feedWindow
  exact dwindles_ite (dwindles_finishWindow w (dwindles_aside hs rfl)) hs

theorem dwindles_tongsRead (a : Nat) (b : Bytes) (hs : Dwindles dig s0 s) : Dwindles dig s0 (tongsRead a b s) :=
  dwindles_foldl (fun _ w _ ht => dwindles_feedWindow w a b (dwindles_armWindow w a b.length ht)) hs

theorem dwindles_requestWake (i : Nat) (hs : Dwindles dig s0 s) : Dwindles dig s0 (requestWake i s) := by
  obtain ⟨w, h⟩ := requestWake_frame i s
  rw [h]
  exact dwindles_aside hs rfl

theorem dwindles_noteRead (a n : Nat) (hs : Dwindles dig s0 s) : Dwindles dig s0 (noteRead a n s) := by
  unfold noteRead
  refine dwindles_ite hs (dwindles_ite ?_ (dwindles_touch _ _ (dwindles_ite (dwindles_requestWake 48 hs) (dwindles_modPd _ _ hs))))
  exact dwindles_tongsRead _ _ (dwindles_foldl (fun _ u _ ht => dwindles_fillLine u false ht) hs)

theorem dwindles_noteReads (l : List (Nat × Nat)) (hs : Dwindles dig s0 s) : Dwindles dig s0 (noteReads l s) :=
  dwindles_foldl (fun _ f _ ht => dwindles_noteRead f.1 f.2 ht) hs

/-! What the entry reads of the device's own Pantry before it runs -/

theorem mem_unit (a : Nat) : unitOf a ≤ a ∧ a < unitOf a + unitLen a := by
  unfold unitOf unitLen
  split <;> omega

/-- A place of the device-reserved region keeps records of one kind at most. -/
theorem exists_partPlace_false (o : Nat) : ∃ dig, partPlace dig o = false := by
  by_cases h : o < 0x60000
  · exact ⟨true, by simp [partPlace]; omega⟩
  · exact ⟨false, by simp [partPlace]; omega⟩

/-- A word of a poisoned unit is settled at once (R376). -/
theorem meetWord_poisoned {a : Nat} (nbits src : Nat) (h : wordPoisoned s a = true) : meetWord a nbits src s = settleWords a 8 s := by
  simp [meetWord, h]

/-- An error that is more than one bit, of a unit not poisoned (R371, R376). -/
theorem meetWord_uncorrected {a nbits : Nat} (src : Nat) (h : wordPoisoned s a = false) (hn : nbits ≠ 1) :
    meetWord a nbits src s = raise 7 3 (kindOf a) none
      (strikePantry a (recordUe (unitOf a) (kindOf a) src (countRow a 3 (settleWords (unitOf a) (unitLen a) s)))) := by
  simp [meetWord, h, hn]

theorem settled_not_latent {a n : Nat} {c : Nat × Nat} (ha : a ≤ c.1) (hn : c.1 < a + n) : c ∉ (settleWords a n s).mem.latent := fun hmem => by
  have := (List.mem_filter.1 hmem).2
  simp [ha, hn] at this

/-- An error that is more than one bit is met once: it no longer waits. -/
theorem latent_meetWord {c : Nat × Nat} (src : Nat) (hc : c.2 ≠ 1) (ht : (meetWord c.1 c.2 src s).hampers ≠ []) :
    c ∉ (meetWord c.1 c.2 src s).mem.latent := by
  cases hp : wordPoisoned s c.1
  case true =>
    rw [meetWord_poisoned c.2 src hp]
    exact settled_not_latent (Nat.le_refl _) (by omega)
  case false =>
    rw [meetWord_uncorrected src hp hc] at ht ⊢
    obtain ⟨dig, hdig⟩ := exists_partPlace_false (reservedAt s c.1)
    have hrec : Dwindles dig (settleWords (unitOf c.1) (unitLen c.1) s)
        (recordUe (unitOf c.1) (kindOf c.1) src (countRow c.1 3 (settleWords (unitOf c.1) (unitLen c.1) s))) := dwindles_aside (Dwindles.refl _) rfl
    have hmet := dwindles_raise 7 3 (kindOf c.1) none (dwindles_strikePantry (a := c.1) (by exact fun _ _ _ => hdig) hrec)
    exact fun hmem => settled_not_latent (mem_unit c.1).1 (mem_unit c.1).2 (hmet.latent ht c hmem)

/-- Whatever error is met, none has come to wait. -/
theorem exists_dwindles_meetWord (c : Nat × Nat) (src : Nat) : ∃ dig, Dwindles dig s (meetWord c.1 c.2 src s) := by
  obtain ⟨dig, hdig⟩ := exists_partPlace_false (reservedAt s c.1)
  exact ⟨dig, dwindles_meetWord_outside src (fun _ _ _ _ => hdig) (Dwindles.refl s)⟩

theorem gone_meetWords (l : List (Nat × Nat)) (src : Nat) (hs : s.hampers = []) : (l.foldl (fun s c => meetWord c.1 c.2 src s) s).hampers = [] := by
  induction l generalizing s with
  | nil => exact hs
  | cons b l ih =>
    obtain ⟨dig, hmet⟩ := exists_dwindles_meetWord (s := s) b src
    exact ih (hmet.gone hs)

/-- Of the errors that are met, those of more than one bit no longer wait. -/
theorem latent_meetWords {l : List (Nat × Nat)} (src : Nat) {c : Nat × Nat} (hc : c.2 ≠ 1) (hmem : c ∈ l ∨ c ∉ s.mem.latent)
    (ht : (l.foldl (fun s c => meetWord c.1 c.2 src s) s).hampers ≠ []) : c ∉ (l.foldl (fun s c => meetWord c.1 c.2 src s) s).mem.latent := by
  induction l generalizing s with
  | nil => simpa using hmem
  | cons b l ih =>
    have hb : (meetWord b.1 b.2 src s).hampers ≠ [] := fun hnil => ht (gone_meetWords l src hnil)
    refine ih ?_ ht
    rcases hmem with hmem | hgone
    · rcases List.mem_cons.1 hmem with rfl | hmem
      · exact .inr (latent_meetWord src hc hb)
      · exact .inl hmem
    · obtain ⟨dig, hmet⟩ := exists_dwindles_meetWord (s := s) b src
      exact .inr fun hcb => hgone (hmet.latent hb c hcb)

/-- Once a part of the device-reserved region is read, no error of more than one bit waits in it. -/
theorem latent_touchReserved {lo hi : Nat} {c : Nat × Nat} (hmem : c ∈ s.mem.latent) (hkind : kindOf c.1 = 6)
    (hlo : lo ≤ reservedAt s c.1) (hhi : reservedAt s c.1 < hi) (hc : c.2 ≠ 1) (ht : (touchReserved lo hi s).hampers ≠ []) :
    c ∉ (touchReserved lo hi s).mem.latent :=
  latent_meetWords 0 hc (.inl (List.mem_filter.2 ⟨hmem, by simp [hkind, hlo, hhi]⟩)) ht

/-- What a part reads before it runs has its message's records in it (R218, R242, R376). -/
theorem touchEntry_parts (x : Hamper) {e : Bytes} (hpart : isPart (flags e) = true)
    (hop : if dig then 0x20 ≤ opcode e ∧ opcode e ≤ 0x22 else 0x10 ≤ opcode e ∧ opcode e ≤ 0x14) :
    ∃ u lo hi, Dwindles dig s u ∧ Dwindles dig (touchReserved lo hi u) (touchEntry x e s) ∧ ∀ o, partPlace dig o = true → lo ≤ o ∧ o < hi := by
  have hcups : Dwindles dig s (if cupCount x = 0 then s else touchCups x.id s) := dwindles_ite (Dwindles.refl s) (dwindles_touchCups _ (Dwindles.refl s))
  have hslot {t v : State} (h : Dwindles dig t v) : Dwindles dig t (if slotOf e = 0 then v else touchReserved 0x80000 0xC0000 v) :=
    dwindles_ite h (dwindles_touchReserved _ _ h)
  unfold touchEntry
  dsimp only
  cases dig
  · have hop : 0x10 ≤ opcode e ∧ opcode e ≤ 0x14 := hop
    have hstage : ¬opcode e = 0x50 := by omega
    have hdigest : ¬(0x20 ≤ opcode e ∧ opcode e ≤ 0x27 ∧ (isPart (flags e) = true ∨ 0x26 ≤ opcode e)) := by omega
    rw [if_neg hstage, if_pos (And.intro hop.1 (And.intro hop.2 hpart)), if_neg hdigest]
    exact ⟨_, 0x40000, 0x60000, hcups, hslot (Dwindles.refl _), fun o ho => by simpa [partPlace] using ho⟩
  · have hop : 0x20 ≤ opcode e ∧ opcode e ≤ 0x22 := hop
    have hstage : ¬opcode e = 0x50 := by omega
    have hcipher : ¬(0x10 ≤ opcode e ∧ opcode e ≤ 0x14 ∧ isPart (flags e) = true) := by omega
    have hdigest : 0x20 ≤ opcode e ∧ opcode e ≤ 0x27 ∧ (isPart (flags e) = true ∨ 0x26 ≤ opcode e) := ⟨hop.1, by omega, .inl hpart⟩
    rw [if_neg hstage, if_neg hcipher, if_pos hdigest]
    exact ⟨_, 0x40000, 0x80000, hcups, hslot (Dwindles.refl _), fun o ho => by simp [partPlace] at ho; omega⟩

/-- Once an entry has read its message's records without an error, no error of more than one bit waits there (R218, R242, R376). -/
theorem guarded_of_touchEntry {x : Hamper} {e : Bytes} (ht : touchEntry x e s = s) (hs : s.hampers ≠ []) (hpart : isPart (flags e) = true)
    (hop : if dig then 0x20 ≤ opcode e ∧ opcode e ≤ 0x22 else 0x10 ≤ opcode e ∧ opcode e ≤ 0x14) : Guarded dig s := by
  obtain ⟨u, lo, hi, hsu, hvs, hrange⟩ := touchEntry_parts (s := s) x hpart hop
  rw [ht] at hvs
  have huv : Dwindles dig u (touchReserved lo hi u) := dwindles_touchReserved lo hi (Dwindles.refl u)
  have hv := hvs.left hs
  intro c hmem hkind hplace
  by_contra hc
  have hcv := hvs.latent hs c hmem
  obtain ⟨hlo, hhi⟩ := hrange _ hplace
  have hplace : reservedAt u c.1 = reservedAt s c.1 := by rw [reservedAt, reservedAt, hsu.mono (huv.left hv)]
  exact latent_touchReserved (huv.latent hv c hcv) hkind (hplace ▸ hlo) (hplace ▸ hhi) hc hv hcv

end

end Sys2Proof.Proofs
end

section
/-! PROOFS. How an entry that passes its checks ends: its output is written, its completion given, its part-state record kept, put or freed
(R153, R154, R177, R195, R218, R220, R242). -/

namespace Sys2Proof.Proofs

open Sys2Proof.Machine Sys2Proof.Safety Sys2Proof.Laws

section
variable {dig : Bool} {s n t u : State} {h a : Nat} {x y z : Hamper} {e out : Bytes} {d : Done}

/-! Output that is written -/

/-- From `s` to `t` octets of hamper `h` have been written at `a`, `x` being the hamper before and `y` after. -/
structure Written (s t : State) (h a : Nat) (out : Bytes) (x y : Hamper) : Prop where
  hamper : hamperOf t h = some y
  same : y = { x with cups := y.cups }
  reads : out ≠ [] → (isCup a = true ∨ arenaGranted s x.port a out.length = true) → readAt t y a out.length = out
  arena : ∀ b, ¬(a ≤ b ∧ b < a + out.length) → readArena t b 1 = readArena s b 1
  cups : ∀ b, ¬(isCup a = true ∧ cupPlace a ≤ b ∧ b < cupPlace a + out.length) → assocGetD 0 y.cups b = assocGetD 0 x.cups b
  others : ∀ j, j ≠ h → hamperOf t j = hamperOf s j
  rings : t.rings = s.rings
  leaf : t.leaf = s.leaf
  ports : t.ports = s.ports
  keys : t.keys = s.keys
  parts : partsOf t = partsOf s

theorem readAt_cup {m : Nat} (hm : m ≠ 0) (ha : isCup a = true) : readAt s x a m = memRead 0 x.cups (cupPlace a) m := by simp [readAt, hm, ha]

theorem readAt_arena {m : Nat} (hm : m ≠ 0) (hcup : isCup a = false) (hwin : isWindow a = false) : readAt s x a m = readArena s a m := by
  simp [readAt, hm, hcup, hwin]

/-- What is granted is no flash window (R150, R360). -/
theorem isWindow_of_granted {p m : Nat} (hm : m ≠ 0) (hg : arenaGranted s p a m = true) : isWindow a = false := by
  have hfirst : arenaAt s p a = true := by
    refine List.all_eq_true.1 hg a ?_
    rw [granuleStarts, if_neg hm]
    exact List.mem_map.2 ⟨0, by simp, by simp; omega⟩
  unfold arenaAt at hfirst
  dsimp only at hfirst
  unfold isWindow
  split at hfirst
  · simp; omega
  split at hfirst
  · simp; omega
  · cases hfirst

/-- Nothing is written. -/
theorem written_nothing (hx : hamperOf s h = some x) (hout : out ≠ [] → ¬(isCup a = true ∨ arenaGranted s x.port a out.length = true)) :
    Written s s h a out x x :=
  ⟨hx, rfl, fun ho hg => absurd hg (hout ho), fun _ _ => rfl, fun _ _ => rfl, fun _ _ => rfl, rfl, rfl, rfl, rfl, rfl⟩

/-- A hamper with octets written into its cups. -/
def fillCups (a : Nat) (out : Bytes) (y : Hamper) : Hamper := { y with cups := memWrite 0 y.cups (cupPlace a) out }

theorem fillCups_id (a : Nat) (out : Bytes) (y : Hamper) : (fillCups a out y).id = y.id := rfl

/-- Octets go to a cup (R177). -/
theorem written_cup (hx : hamperOf s h = some x) (ho : out ≠ []) (ha : isCup a = true) :
    Written s (modHamper s h (fillCups a out)) h a out x (fillCups a out x) := by
  have hlen : out.length ≠ 0 := fun hl => ho (List.length_eq_zero_iff.1 hl)
  refine ⟨?_, rfl, fun _ _ => ?_, fun _ _ => rfl, fun b hb => ?_, fun j hj => hamperOf_modHamper_ne (fillCups_id a out) s hj, rfl, rfl, rfl, rfl, rfl⟩
  · rw [hamperOf_modHamper_same (fillCups_id a out), hx, Option.map_some]
  · rw [readAt_cup hlen ha]
    exact memRead_write 0 out x.cups (cupPlace a)
  · exact memWrite_other (by simp only [ha, true_and] at hb; omega)

/-- No tag fails where a write covers part of a line (R366). -/
theorem touchParts_clean (hc : Clean s) (a m : Nat) : touchParts a m s = s := by
  unfold touchParts
  induction partLines a m with
  | nil => rfl
  | cons u l ih => simpa [hc.2.1] using ih

/-- Octets go to the arena (R363). -/
theorem written_arena (hc : Clean s) (hx : hamperOf s h = some x) (ho : out ≠ []) (ha : isCup a = false) (hg : arenaGranted s x.port a out.length = true) :
    Written s (writeArena a out s) h a out x x := by
  have hlen : out.length ≠ 0 := fun hl => ho (List.length_eq_zero_iff.1 hl)
  have hwin := isWindow_of_granted hlen hg
  have hone (m : Assoc (BitVec 8)) (b : Nat) (hb : ¬(a ≤ b ∧ b < a + out.length)) : memRead 0 (memWrite 0 m a out) b 1 = memRead 0 m b 1 := by
    simp [memRead, memWrite_other (show b < a ∨ a + out.length ≤ b by omega)]
  by_cases hl : inLarder a = true
  · rw [writeArena, if_neg ho, if_pos hl, touchParts_clean hc]
    refine ⟨hx, rfl, fun _ _ => ?_, fun b hb => ?_, fun _ _ => rfl, fun _ _ => rfl, rfl, rfl, rfl, rfl, rfl⟩
    · rw [readAt_arena hlen ha hwin, readArena, if_pos hl]
      exact memRead_write 0 out s.mem.larder a
    · simp only [readArena, larderPut, hone _ b hb]
  · obtain ⟨w, l, b, hput⟩ := arenaPut_clean (a := a) (d := out) hc
    rw [writeArena, if_neg ho, if_neg hl, hput]
    refine ⟨hx, rfl, fun _ _ => ?_, fun b hb => ?_, fun _ _ => rfl, fun _ _ => rfl, rfl, rfl, rfl, rfl, rfl⟩
    · rw [readAt_arena hlen ha hwin, readArena, if_neg hl]
      exact memRead_write 0 out s.mem.pantry a
    · simp only [readArena, hone _ b hb]

/-- What an entry writes at its destination (R177, R363). -/
theorem writeAt_written (hc : Clean s) (hx : hamperOf s h = some x) : ∃ y, Written s (writeAt h a out s) h a out x y := by
  by_cases ho : out = []
  · have heq : writeAt h a out s = s := by simp [writeAt, hx, ho]
    exact ⟨x, by rw [heq]; exact written_nothing hx (fun h => absurd ho h)⟩
  cases ha : isCup a
  case true =>
    have heq : writeAt h a out s = modHamper s h (fillCups a out) := by simp [writeAt, hx, ho, ha]; rfl
    exact ⟨_, by rw [heq]; exact written_cup hx ho ha⟩
  case false =>
    by_cases hg : arenaGranted s x.port a out.length = true
    · have heq : writeAt h a out s = writeArena a out s := by simp [writeAt, hx, ho, ha, hg]
      exact ⟨x, by rw [heq]; exact written_arena hc hx ho ha hg⟩
    · have heq : writeAt h a out s = s := by simp [writeAt, hx, ho, ha, hg]
      exact ⟨x, by rw [heq]; exact written_nothing hx (fun _ => by simp [ha, hg])⟩

/-! The completion -/

/-- From `n` to `t` the current entry of hamper `h` has ended with a completion, its output at `a`. -/
def Ends (n t : State) (h a : Nat) (out : Bytes) (d : Done) : Prop :=
  ∃ u x y, hamperOf n h = some x ∧ Written n u h a out x y ∧ t = finishEntry u h d

theorem Ends.finishes (he : Ends n t h a out d) : Finishes n t h a out d := by
  obtain ⟨u, x, y, hx, hw, rfl⟩ := he
  obtain ⟨⟨z, hz, hentries, hengines, hcups⟩, hothers⟩ := hamperOf_finishEntry (d := d) hw.hamper
  have hread : ∀ m, readAt (finishEntry u h d) z a m = readAt u y a m := fun m => by
    simp only [readAt, readArena, hcups, finishEntry_mem, windowBytes, forwardOver, cachedLine, flashRead, winOps, finishEntry_mp, finishEntry_ports]
  refine ⟨x, z, hx, hz, ?_, hengines, ?_, ?_, ?_, fun j hj => (hothers j hj).trans (hw.others j hj), ?_, ?_, ?_, ?_⟩
  · rw [hentries, hw.same]
  · rw [hread]; exact hw.reads
  · intro b hb
    rw [← hw.arena b hb, readArena, readArena, finishEntry_mem]
  · rw [hcups]; exact hw.cups
  · rw [finishEntry_rings, hw.rings]
  · rw [finishEntry_leaf, hw.leaf]
  · rw [finishEntry_ports, hw.ports]
  · rw [finishEntry_keys, hw.keys]

/-- An entry that succeeds (R154, R195). -/
theorem complete_ends (hc : Clean n) (hx : hamperOf n h = some x) (hcup : x.cupPoison = false) :
    Ends n (complete h e out d n) h (dstOf e) out { d with status := okOf x } := by
  obtain ⟨y, hw⟩ := writeAt_written (a := dstOf e) (out := out) hc hx
  exact ⟨_, x, y, hx, hw, by simp [complete, finishOk, hx, hcup, okOf]⟩

/-- A compare that matches (R215, R216, R240). -/
theorem verdictEnd_match {blk src : Nat} (hc : Clean n) (hx : hamperOf n h = some x) (hcup : x.cupPoison = false) :
    Ends n (verdictEnd h z e .none true [] blk src n) h (dstOf e) [] { status := okOf x, param := some (withPair e pairMatch) } :=
  complete_ends hc hx hcup

/-- A compare that does not match (R215, R216, R240). -/
theorem verdictEnd_mismatch {blk src : Nat} (hc : Clean n) (hx : hamperOf n h = some x) (hcup : x.cupPoison = false) :
    Ends n (verdictEnd h z e .none false [] blk src n) h (dstOf e) [] { status := stAuthFail, param := some (withPair e pairMismatch) } := by
  obtain ⟨y, hw⟩ := writeAt_written (a := dstOf e) (out := zeros 0) hc hx
  have hycup : y.cupPoison = false := by rw [hw.same]; exact hcup
  exact ⟨_, x, y, hx, hw, by simp [verdictEnd, hw.hamper, hycup]⟩

/-! The entry on the state its reads leave -/

/-- The entry `e`, whose hamper was `x` when it began to run and is `y` now, can finish in `n`: nothing disturbs its output or completion. -/
structure Serving (n : State) (h : Nat) (x y : Hamper) (e : Bytes) : Prop where
  clean : Clean n
  hamper : hamperOf n h = some y
  cup : y.cupPoison = false
  ring : y.ring = x.ring
  status : okOf y = okOf x
  current : (currentEntry y).map (·.bytes) = some e

/-- The hamper `y` is `x` with the share of its current entry taken; a replay has none (R195, R344). -/
def Shared (x y : Hamper) (k m : Nat) : Prop := x.replay = none → y.entries = shareFirst (k, m) x.entries

theorem runnable_current (hr : runnable s h = some (x, e)) : (currentEntry x).map (·.bytes) = some e := by
  unfold runnable at hr
  split at hr
  · split at hr
    · obtain ⟨t, ht, hte⟩ := Option.map_eq_some_iff.1 hr
      obtain ⟨rfl, rfl⟩ := Prod.mk.inj hte
      rw [ht, Option.map_some]
    · cases hr
  · cases hr

/-- A share changes no octet of the entry. -/
theorem find_shareFirst (c : Nat × Nat) (l : List TakenEntry) :
    ((shareFirst c l).find? (fun t => t.done.isNone)).map (·.bytes) = (l.find? (fun t => t.done.isNone)).map (·.bytes) := by
  induction l with
  | nil => rfl
  | cons b l ih =>
    unfold shareFirst
    cases hb : b.done.isNone
    · simp [hb, ih]
    · simp [hb]

/-- An entry whose ranges are read without an error, no meter counting it. -/
theorem serving_of_reads {op : Nat} {l : List (Nat × Nat)} (hr : Runs s h op x e) (hn : Reads s n h l) : Serving n h x x e := by
  obtain ⟨hrun, -, hcup, -⟩ := hr
  obtain ⟨-, -, hclean, hsame⟩ := hn
  exact ⟨hclean, hsame.trans (runnable_hamper hrun), hcup, rfl, rfl, runnable_current hrun⟩

/-- The same with its share taken first (R344). -/
theorem serving_of_share {op k m : Nat} {l : List (Nat × Nat)} (hr : Runs s h op x e) (hn : Reads (takeShare h x k m s) n h l) :
    ∃ y, Serving n h x y e ∧ Shared x y k m := by
  obtain ⟨hrun, -, hcup, -⟩ := hr
  obtain ⟨-, -, hclean, hsame⟩ := hn
  have hx := runnable_hamper hrun
  have hcurrent := runnable_current hrun
  cases hrep : x.replay with
  | some r =>
    rw [show takeShare h x k m s = s by simp [takeShare, hrep], hx] at hsame
    exact ⟨x, ⟨hclean, hsame, hcup, rfl, rfl, hcurrent⟩, fun hnone => by rw [hrep] at hnone; cases hnone⟩
  | none =>
    rw [show takeShare h x k m s = modHamper s h (fun y => { y with entries := shareFirst (k, m) y.entries }) by simp [takeShare, hrep],
      hamperOf_modHamper_same (f := fun y => { y with entries := shareFirst (k, m) y.entries }) (fun _ => rfl), hx] at hsame
    exact ⟨_, ⟨hclean, hsame, hcup, rfl, rfl, (find_shareFirst _ _).trans hcurrent⟩, fun _ => rfl⟩

/-- An entry that has finished OK carries its share (R343, R344). -/
theorem Ends.counts {k m : Nat} (he : Ends n t h a out d) (hv : Serving n h x y e) (hd : d.status = okOf x) (hs : Shared x y k m) :
    Counts t h x k m := by
  intro hrep
  obtain ⟨x', z, hx', hz, hentries, -⟩ := he.finishes
  obtain rfl : y = x' := Option.some.inj (hv.hamper.symm.trans hx')
  exact ⟨z, d, hz, hd.trans (by simp [okOf, hrep]), by rw [hentries, hs hrep]⟩

/-! The part-state record -/

/-- A part belongs to one kind of message. -/
theorem laterPart_cipher (hlater : laterPart true e = true) : laterPart false e = false := by
  simp only [laterPart, Bool.and_eq_true, if_true, decide_eq_true_eq] at hlater
  have : ¬opcode e ≤ 0x14 := by omega
  simp [laterPart, this]

/-- The record of a later part's message is freed when it completes so (R220). -/
theorem openPart_settled {r : Nat} (hlater : laterPart dig e = true) (hkeeps : keepsPart e d = false)
    (hrec : ∀ p, openPart s dig r = some p → p.opcode = opcode e) : openPart (settlePart r e d s) dig r = none := by
  cases hp : openPart s dig r with
  | none => exact (openPart_settlePart r r e d s).elim (fun h => h.trans hp) id
  | some p =>
    have hdel (m : Assoc PartState) : assocGet (assocDel m r) r = none := by rw [assocGet_del, if_pos rfl]
    have hcode := hrec p hp
    cases dig
    · have hget : assocGet s.cipherParts r = some p := hp
      simp [settlePart, hlater, hkeeps, hget, hcode, openPart, partsOf, hdel]
    · have hget : assocGet s.digestParts r = some p := hp
      simp [settlePart, hlater, laterPart_cipher hlater, hkeeps, hget, hcode, openPart, partsOf, hdel]

/-- Operations whose parts are of a kind (R218, R242). -/
def OpensKind (dig : Bool) (op : Nat) : Prop := if dig then 0x20 ≤ op ∧ op ≤ 0x22 else 0x10 ≤ op ∧ op ≤ 0x14

/-- What a later part meets on its ring is a record of its operation, or none any more (R218, R376). -/
def Resumes (n : State) (dig : Bool) (r : Nat) (e : Bytes) : Prop :=
  isPart (flags e) = true → partFirst (flags e) = false → ∀ p, openPart n dig r = some p → p.opcode = opcode e

/-- A part whose sequence is right continues a record of its operation (R218). -/
theorem partBad_none {same : PartState → Bool} (h : partBad s dig x e same = none) : Resumes s dig x.ring e := by
  intro hpart hfirst p hp
  unfold partBad at h
  simp only [hpart, hfirst, Bool.not_true, Bool.false_eq_true, if_false] at h
  split at h
  · cases h
  rw [hp] at h
  by_contra hne
  simp [hne] at h

theorem hampers_of_hamperOf (hx : hamperOf s h = some x) : s.hampers ≠ [] := fun hnil => by simp [hamperOf, hnil] at hx

/-- Reading the operands of a part leaves its record or loses it (R376). -/
theorem Resumes.reads {op : Nat} {l : List (Nat × Nat)} (hres : Resumes s dig x.ring e) (hr : Runs s h op x e) (hkind : OpensKind dig (opcode e))
    (hu : Dwindles dig s u) (hn : Reads u n h l) (hv : Serving n h x y e) : Resumes n dig x.ring e := by
  intro hpart hfirst p hp
  obtain ⟨hrun, -, -, -, -, htouch⟩ := hr
  obtain ⟨-, rfl, -, -⟩ := hn
  have hguarded : Guarded dig s := guarded_of_touchEntry htouch (hampers_of_hamperOf (runnable_hamper hrun)) hpart hkind
  rcases (dwindles_noteReads l hu).parts (hampers_of_hamperOf hv.hamper) hguarded x.ring with hsame | hnone
  · exact hres hpart hfirst p (hsame ▸ hp)
  · rw [hnone] at hp
    cases hp

/-- With at most one part flag, a last part is no first one (R151). -/
theorem partFirst_of_partLast {f : Nat} (hok : partsOk f = true) (hlast : partLast f = true) : partFirst f = false := by
  have hlow (i : Nat) (hi : i < 3) : bit f i = (f % 8).testBit i := by
    rw [bit, show (8 : Nat) = 2 ^ 3 from rfl, Nat.testBit_mod_two_pow]
    simp [hi]
  rw [partLast, hlow 2 (by omega)] at hlast
  rw [partFirst, hlow 0 (by omega)]
  simp only [partsOk, Bool.or_eq_true, beq_iff_eq] at hok
  rcases hok with ((hf | hf) | hf) | hf <;> rw [hf] at hlast ⊢ <;> revert hlast <;> decide

/-- The completion of a current entry settles its part. -/
theorem settleCurrent_current (hx : hamperOf s h = some x) (hcurrent : (currentEntry x).map (·.bytes) = some e) :
    settleCurrent h d s = settlePart x.ring e d s := by
  obtain ⟨c, hc, rfl⟩ := Option.map_eq_some_iff.1 hcurrent
  simp [settleCurrent, hx, hc]

/-- At its end a message has no record left (R218, R220). -/
theorem Ends.freed (he : Ends n t h a out d) (hv : Serving n h x y e) (hkind : OpensKind dig (opcode e)) (hres : Resumes n dig x.ring e)
    (hok : partsOk (flags e) = true) (hend : endsMessage (flags e) = true) (hd : d.status ≠ stBadParam) (hpart : isPart (flags e) = true) :
    openPart t dig x.ring = none := by
  have hlast : partLast (flags e) = true := by simpa [endsMessage, hpart] using hend
  have hfirst := partFirst_of_partLast hok hlast
  obtain ⟨u, y', z, hy', hw, rfl⟩ := he
  obtain rfl : y = y' := Option.some.inj (hv.hamper.symm.trans hy')
  have hcurrent : (currentEntry z).map (·.bytes) = some e := by rw [hw.same]; exact hv.current
  have hring : z.ring = x.ring := by rw [hw.same]; exact hv.ring
  have hsettled : openPart (finishEntry u h d) dig x.ring = openPart (settlePart x.ring e d u) dig x.ring := by
    rw [← hring, ← settleCurrent_current hw.hamper hcurrent]
    rfl
  rw [hsettled]
  refine openPart_settled ?_ (by simp [keepsPart, hlast, hd]) fun p hp => hres hpart hfirst p ?_
  · cases dig
    · have hkind : 0x10 ≤ opcode e ∧ opcode e ≤ 0x14 := hkind
      simp [laterPart, hpart, hfirst, hkind]
    · have hkind : 0x20 ≤ opcode e ∧ opcode e ≤ 0x22 := hkind
      simp [laterPart, hpart, hfirst, hkind]
  · rw [openPart, ← hw.parts]
    exact hp

/-! A part that goes on -/

theorem openPart_putPart (q : PartState) (r : Nat) : openPart (putPart dig r q s) dig r = some q := by
  cases dig <;> simp [openPart, partsOf, putPart, assocGet_put]

theorem finishes_putPart {r : Nat} (q : PartState) (hf : Finishes n t h a out d) : Finishes n (putPart dig r q t) h a out d := by
  cases dig <;> exact hf

theorem counts_putPart {r k m : Nat} (q : PartState) (hc : Counts t h x k m) : Counts (putPart dig r q t) h x k m := by
  cases dig <;> exact hc

/-- A part that does not end its message finishes and leaves its record (R218). -/
theorem nextPart_eq {q : PartState} (hv : Serving n h x y e) (hend : endsMessage (flags e) = false) (fin : State → State) :
    nextPart dig h x e q fin n = putPart dig x.ring q (fin n) := by
  simp [nextPart, hv.hamper, hv.cup, hend]

end

end Sys2Proof.Proofs
end

section
/-! PROOFS. MAC, DIGEST and HMAC entries that pass their checks finish with their tag, digest or verdict (R208, R216, R218, R232, R236 to R238, R242). -/

namespace Sys2Proof.Proofs

open Sys2Proof.Machine Sys2Proof.Safety Sys2Proof.Laws

section
variable {dig : Bool} {s n t : State} {h : Nat} {x y : Hamper} {e : Bytes} {k : Key}

/-! The frames of the operations -/

theorem withEngines_granted {l : Need} {run : State → State} (heng : x.engines ≠ []) : withEngines h x l run s = run s := by
  simp [withEngines, heng]

theorem awaitsGrant_granted (heng : x.engines ≠ []) : awaitsGrant s x e = false := by
  unfold awaitsGrant
  split
  · simp [heng]
  · rfl

/-- The operands are read, and the write buffer has room (R149, R368). -/
theorem withReads_reads {l : List (Nat × Nat)} {m : Nat} {run : State → State} (hn : Reads s n h l) (hdst : dstReady n (dstOf e) m = true) :
    withReads h x l (withRoom e m run) s = run n := by
  obtain ⟨hready, rfl, hclean, -⟩ := hn
  simp [withReads, hready, poisonOf_clean hclean, withRoom, hdst]

theorem rng_takeShare (j m : Nat) : (takeShare h x j m s).rng = s.rng := by
  unfold takeShare
  split <;> rfl

/-- An entry of a cipher engine that passes its checks is executed (R208). -/
theorem cipherFrame_executes {use outLen : Nat} {early : Option Bad} {later : Key → Option Bad} {extra : List (Nat × Nat)} {share : Nat × Nat}
    {run : Key → State → State} (heng : x.engines ≠ []) (hrng : s.rng.stopped = false) (hturn : (isPart (flags e) && earlierTouch s x false) = false)
    (hearly : early = none) (hkey : keyStep s x (slotOf e) (cipherJudge use (modeOf e)) = .key k) (hlater : later k = none)
    (hn : Reads (takeShare h x share.1 share.2 s) n h (readRanges s x e ++ extra)) (hdst : dstReady n (dstOf e) outLen = true) :
    cipherFrame h x e use early later extra outLen share run s = run k n := by
  simp only [cipherFrame, hturn, hearly, awaitsGrant_granted heng, hkey, hlater, withEngines_granted heng, withMasks, rng_takeShare, hrng,
    withReads_reads hn hdst, Bool.false_eq_true, if_false]

/-- An entry of a digest engine without a key that passes its checks is executed (R232). -/
theorem digestFrame_executes {outLen : Nat} {l : Need} {bad : Option Bad} {reads : List (Nat × Nat)} {run : State → State} (heng : x.engines ≠ [])
    (hturn : (isPart (flags e) && earlierTouch s x true) = false) (hbad : bad = none) (hn : Reads s n h reads)
    (hdst : dstReady n (dstOf e) outLen = true) : digestFrame h x e l bad reads outLen run s = run n := by
  simp only [digestFrame, hturn, hbad, withEngines_granted heng, withReads_reads hn hdst, Bool.false_eq_true, if_false]

/-- An HMAC entry that passes its checks is executed (R232). -/
theorem hmacRun_executes {extra : List (Nat × Nat)} (heng : x.engines ≠ []) (hturn : (isPart (flags e) && earlierTouch s x true) = false)
    (hextra : extra = if opcode e = 0x22 ∧ (expOf e).2 ≠ 0 then [expOf e] else [])
    (hearly : (if opcode e = 0x21 then hmacGenEarly s x e else hmacCheckEarly s x e) = none) (hkey : keyStep s x (slotOf e) hmacJudge = .key k)
    (hlater : hmacLater s x e extra = none) (hn : Reads (takeShare h x 3 1 s) n h (readRanges s x e ++ extra))
    (hdst : dstReady n (dstOf e) (hmacTagLen (carriedDigest s x e)) = true) : hmacRun .none h x e s = hmacExecute h .none x e k n := by
  subst hextra
  simp only [hmacRun, hturn, hearly, awaitsGrant_granted heng, hkey, hlater, withEngines_granted heng, withReads_reads hn hdst,
    Bool.false_eq_true, if_false]

/-! The checks of a part that pass -/

theorem orBad_none {a b : Option Bad} (hab : orBad a b = none) : a = none ∧ b = none := by
  cases a with
  | none => exact ⟨rfl, hab⟩
  | some _ => cases hab

/-- A list of checks that all pass. -/
theorem firstBad_cons {c : Bool} {b : Bad} {l : List (Bool × Bad)} (hl : firstBad ((c, b) :: l) = none) : c = false ∧ firstBad l = none := by
  cases c
  · exact ⟨rfl, hl⟩
  · cases hl

/-- The part flags are the third thing judged in each of these operations (R151). -/
theorem partsOk_of_checks {c c' p : Bool} {b b' b'' : Bad} {l : List (Bool × Bad)} (hl : firstBad ((c, b) :: (c', b') :: (!p, b'') :: l) = none) :
    p = true := by
  simpa using (firstBad_cons (firstBad_cons (firstBad_cons hl).2).2).1

/-- The part flags and the part sequence of an entry are right (R151, R218). -/
def PartsRight (s : State) (dig : Bool) (x : Hamper) (e : Bytes) : Prop := partsOk (flags e) = true ∧ Resumes s dig x.ring e

theorem partsRight_mac (hearly : macEarly s x e = none) : PartsRight s false x e := by
  obtain ⟨hown, hrest⟩ := orBad_none hearly
  exact ⟨partsOk_of_checks hown, partBad_none (orBad_none (orBad_none hrest).2).2⟩

theorem partsRight_digest (hbad : digestBad s x e = none) : PartsRight s true x e := by
  obtain ⟨hown, hrest⟩ := orBad_none hbad
  exact ⟨partsOk_of_checks hown, partBad_none (orBad_none (orBad_none hrest).2).1⟩

theorem partsRight_hmacGen (hearly : hmacGenEarly s x e = none) : PartsRight s true x e := by
  obtain ⟨hown, hrest⟩ := orBad_none hearly
  exact ⟨partsOk_of_checks hown, partBad_none (orBad_none hrest).2⟩

theorem partsRight_hmacCheck (hearly : hmacCheckEarly s x e = none) : PartsRight s true x e := by
  obtain ⟨hown, hrest⟩ := orBad_none hearly
  exact ⟨partsOk_of_checks hown, partBad_none (orBad_none hrest).2⟩

/-! What an execution leaves -/

/-- The record of a part's message after it (R218, R220). -/
def PartLeft (t : State) (dig : Bool) (x : Hamper) (e : Bytes) (q : PartState) : Prop :=
  isPart (flags e) = true → openPart t dig x.ring = if partLast (flags e) then none else some q

theorem Serving.complete {out : Bytes} {d : Done} (hv : Serving n h x y e) :
    Ends n (complete h e out d n) h (dstOf e) out { d with status := okOf x } := by
  rw [← hv.status]
  exact complete_ends hv.clean hv.hamper hv.cup

theorem Serving.verdict_match {blk src : Nat} (hv : Serving n h x y e) :
    Ends n (verdictEnd h x e .none true [] blk src n) h (dstOf e) [] { status := okOf x, param := some (withPair e pairMatch) } := by
  rw [← hv.status]
  exact verdictEnd_match hv.clean hv.hamper hv.cup

theorem Serving.verdict_mismatch {blk src : Nat} (hv : Serving n h x y e) :
    Ends n (verdictEnd h x e .none false [] blk src n) h (dstOf e) [] { status := stAuthFail, param := some (withPair e pairMismatch) } :=
  verdictEnd_mismatch hv.clean hv.hamper hv.cup

theorem okOf_ne_badParam (x : Hamper) : okOf x ≠ stBadParam := by
  unfold okOf
  split <;> decide

section
variable {a : Nat} {out : Bytes} {d : Done} {q : PartState}

/-- A part that does not end its message has no output and leaves its record (R218). -/
theorem nextPart_leaves (hv : Serving n h x y e) (hend : endsMessage (flags e) = false) :
    PartLeft (nextPart dig h x e q (complete h e [] { status := stOk }) n) dig x e q
      ∧ Finishes n (nextPart dig h x e q (complete h e [] { status := stOk }) n) h (dstOf e) [] { status := okOf x }
      ∧ ∀ j m, Shared x y j m → Counts (nextPart dig h x e q (complete h e [] { status := stOk }) n) h x j m := by
  have he : Ends n _ h (dstOf e) [] { status := okOf x } := hv.complete (d := { status := stOk })
  rw [nextPart_eq hv hend]
  refine ⟨fun hpart => ?_, finishes_putPart q he.finishes, fun j m hs => counts_putPart q (he.counts hv rfl hs)⟩
  have hlast : partLast (flags e) = false := by simpa [endsMessage, hpart] using hend
  simp [openPart_putPart, hlast]

/-- An entry that ends its message leaves no record (R218, R220). -/
theorem Ends.partLeft (he : Ends n t h a out d) (hv : Serving n h x y e) (hend : endsMessage (flags e) = true) (hkind : OpensKind dig (opcode e))
    (hright : PartsRight n dig x e) (hd : d.status ≠ stBadParam) : PartLeft t dig x e q := by
  intro hpart
  have hlast : partLast (flags e) = true := by simpa [endsMessage, hpart] using hend
  obtain ⟨hok, hres⟩ := hright
  rw [if_pos hlast]
  exact he.freed hv hkind hres hok hend hd hpart

end

/-! MAC_GEN and MAC_CHECK -/

/-- The record of a MAC message after one more part (R218). -/
def macPart (n : State) (x : Hamper) (e : Bytes) : PartState :=
  let q := aeadState n x e
  { q with acc := q.acc ++ readAll n x (srcRanges n x e), total := q.total + (readAll n x (srcRanges n x e)).length }

/-- The tag of a MAC message that ends with this entry (R216). -/
def macTag (n : State) (x : Hamper) (e : Bytes) (k : Key) : Bytes :=
  let q := aeadState n x e
  (if modeOf e = 7 then cmac (keyOctets k) (macPart n x e).acc else gcmTag (keyOctets k) (slice q.param 0x10 12) (macPart n x e).acc []).take
    (leAt q.param 0x1C 1)

theorem macExecute_goesOn (hend : endsMessage (flags e) = false) :
    macExecute h .none x e k n = nextPart false h x e (macPart n x e) (complete h e [] { status := stOk }) n := by
  simp [macExecute, sealSplit, hend, macPart]

theorem macExecute_gen (hend : endsMessage (flags e) = true) (hop : opcode e = 0x13) :
    macExecute h .none x e k n = complete h e [] {
      status := stOk, len := (macTag n x e k).length, param := some (fitTo 16 (macTag n x e k) ++ slice (paramOf e) 16 16) } n := by
  simp [macExecute, sealSplit, hend, hop, macTag, macPart]

theorem macExecute_check (hend : endsMessage (flags e) = true) (hop : opcode e = 0x14) :
    macExecute h .none x e k n = verdictEnd h x e .none (macTag n x e k == slice (paramOf e) 0 (macTag n x e k).length) [] 9 2 n := by
  simp [macExecute, sealSplit, hend, hop, macTag, macPart]

/-- What MAC_GEN and MAC_CHECK leave (R216, R218, R343). -/
theorem macExecute_leaves {op : Nat} (hv : Serving n h x y e) (hs : Shared x y 3 1) (hright : PartsRight n false x e)
    (hop : opcode e = op) (hcode : op = 0x13 ∨ op = 0x14) :
    let t := macExecute h .none x e k n; let tag := macTag n x e k
    PartLeft t false x e (macPart n x e)
      ∧ (endsMessage (flags e) = false → Finishes n t h (dstOf e) [] { status := okOf x } ∧ Counts t h x 3 1)
      ∧ (endsMessage (flags e) = true → op = 0x13 →
          Finishes n t h (dstOf e) [] { status := okOf x, len := tag.length, param := some (fitTo 16 tag ++ slice (paramOf e) 16 16) } ∧ Counts t h x 3 1)
      ∧ (endsMessage (flags e) = true → op = 0x14 → tag = slice (paramOf e) 0 tag.length →
          Finishes n t h (dstOf e) [] { status := okOf x, param := some (withPair e pairMatch) } ∧ Counts t h x 3 1)
      ∧ (endsMessage (flags e) = true → op = 0x14 → tag ≠ slice (paramOf e) 0 tag.length →
          Finishes n t h (dstOf e) [] { status := stAuthFail, param := some (withPair e pairMismatch) }) := by
  dsimp only
  have hkind : OpensKind false (opcode e) := by rw [OpensKind, hop]; simp; omega
  cases hend : endsMessage (flags e)
  case false =>
    rw [macExecute_goesOn hend]
    obtain ⟨hpart, hfin, hcount⟩ := nextPart_leaves (dig := false) (q := macPart n x e) hv hend
    exact ⟨hpart, fun _ => ⟨hfin, hcount 3 1 hs⟩, by simp, by simp, by simp⟩
  case true =>
  rcases hcode with rfl | rfl
  · rw [macExecute_gen hend hop]
    have he : Ends n _ h (dstOf e) [] _ := hv.complete (d := {
      status := stOk, len := (macTag n x e k).length, param := some (fitTo 16 (macTag n x e k) ++ slice (paramOf e) 16 16) })
    exact ⟨he.partLeft hv hend hkind hright (okOf_ne_badParam x), by simp, fun _ _ => ⟨he.finishes, he.counts hv rfl hs⟩, by simp, by simp⟩
  · rw [macExecute_check hend hop]
    by_cases htag : macTag n x e k = slice (paramOf e) 0 (macTag n x e k).length
    · have he := hv.verdict_match (blk := 9) (src := 2)
      rw [beq_iff_eq.2 htag]
      exact ⟨he.partLeft hv hend hkind hright (okOf_ne_badParam x), by simp, by simp, fun _ _ _ => ⟨he.finishes, he.counts hv rfl hs⟩,
        fun _ _ hne => absurd htag hne⟩
    · have he := hv.verdict_mismatch (blk := 9) (src := 2)
      rw [beq_false_of_ne htag]
      exact ⟨he.partLeft hv hend hkind hright (show stAuthFail ≠ stBadParam by decide), by simp, by simp,
        fun _ _ heq => absurd heq htag, fun _ _ _ => he.finishes⟩

/-! DIGEST -/

/-- The record of a digest message after one more part (R242). -/
def digestPart (n : State) (x : Hamper) (e : Bytes) : PartState :=
  let q := carriedDigest n x e
  { q with acc := q.acc ++ readAll n x (srcRanges n x e), total := q.total + (readAll n x (srcRanges n x e)).length }

/-- The digest of a message that ends with this entry (R236). -/
def digestValue (n : State) (x : Hamper) (e : Bytes) : Bytes := hashAlg (algOf e) (digestOutLen (carriedDigest n x e)) (digestPart n x e).acc

theorem digestExecute_goesOn (hend : endsMessage (flags e) = false) :
    digestExecute h x e n = nextPart true h x e (digestPart n x e) (complete h e [] { status := stOk }) n := by
  simp [digestExecute, hend, digestPart]

theorem digestExecute_inline (hend : endsMessage (flags e) = true) (hbit : bit (flags e) 8 = true) :
    digestExecute h x e n = complete h e [] {
      status := stOk, len := (digestValue n x e).length, param := some (inlineParam (digestValue n x e)) } n := by
  simp [digestExecute, hend, hbit, digestValue, digestPart]

theorem digestExecute_output (hend : endsMessage (flags e) = true) (hbit : bit (flags e) 8 = false) :
    digestExecute h x e n = complete h e (digestValue n x e) { status := stOk, len := (digestValue n x e).length } n := by
  simp [digestExecute, hend, hbit, digestValue, digestPart]

/-- What DIGEST leaves (R236, R242). -/
theorem digestExecute_leaves (hv : Serving n h x y e) (hright : PartsRight n true x e) (hop : opcode e = 0x20) :
    let t := digestExecute h x e n; let d := digestValue n x e
    PartLeft t true x e (digestPart n x e)
      ∧ (endsMessage (flags e) = false → Finishes n t h (dstOf e) [] { status := okOf x })
      ∧ (endsMessage (flags e) = true → bit (flags e) 8 = true →
          Finishes n t h (dstOf e) [] { status := okOf x, len := d.length, param := some (inlineParam d) })
      ∧ (endsMessage (flags e) = true → bit (flags e) 8 = false → Finishes n t h (dstOf e) d { status := okOf x, len := d.length }) := by
  dsimp only
  have hkind : OpensKind true (opcode e) := by rw [OpensKind, hop]; simp
  cases hend : endsMessage (flags e)
  case false =>
    rw [digestExecute_goesOn hend]
    obtain ⟨hpart, hfin, -⟩ := nextPart_leaves (dig := true) (q := digestPart n x e) hv hend
    exact ⟨hpart, fun _ => hfin, by simp, by simp⟩
  case true =>
  cases hbit : bit (flags e) 8
  case true =>
    rw [digestExecute_inline hend hbit]
    have he : Ends n _ h (dstOf e) [] _ := hv.complete (d := {
      status := stOk, len := (digestValue n x e).length, param := some (inlineParam (digestValue n x e)) })
    exact ⟨he.partLeft hv hend hkind hright (okOf_ne_badParam x), by simp, fun _ _ => he.finishes, by simp⟩
  case false =>
    rw [digestExecute_output hend hbit]
    have he : Ends n _ h (dstOf e) (digestValue n x e) _ := hv.complete (d := { status := stOk, len := (digestValue n x e).length })
    exact ⟨he.partLeft hv hend hkind hright (okOf_ne_badParam x), by simp, by simp, fun _ _ => he.finishes⟩

/-! HMAC_GEN and HMAC_CHECK -/

/-- The whole code of an HMAC message that ends with this entry (R237, R238). -/
def hmacValue (n : State) (x : Hamper) (e : Bytes) (k : Key) : Bytes := hmac (algOf e) (keyOctets k) (digestPart n x e).acc

/-- Its tag, as HMAC_GEN returns it (R238). -/
def hmacTag (n : State) (x : Hamper) (e : Bytes) (k : Key) : Bytes := (hmacValue n x e k).take (hmacTagLen (carriedDigest n x e))

/-- The tag HMAC_CHECK is given, and the part of the code it is compared with (R238). -/
def hmacMatches (n : State) (x : Hamper) (e : Bytes) (k : Key) : Bool :=
  (hmacValue n x e k).take (expOf e).2 == readAt n x (expOf e).1 (expOf e).2

theorem hmacExecute_goesOn (hend : endsMessage (flags e) = false) :
    hmacExecute h .none x e k n = nextPart true h x e (digestPart n x e) (complete h e [] { status := stOk }) n := by
  simp [hmacExecute, sealSplit, hend, digestPart]

theorem hmacExecute_inline (hend : endsMessage (flags e) = true) (hop : opcode e = 0x21) (hbit : bit (flags e) 8 = true) :
    hmacExecute h .none x e k n = complete h e [] {
      status := stOk, len := (hmacTag n x e k).length, param := some (inlineParam (hmacTag n x e k)) } n := by
  simp [hmacExecute, sealSplit, hend, hop, hbit, hmacTag, hmacValue, digestPart]

theorem hmacExecute_output (hend : endsMessage (flags e) = true) (hop : opcode e = 0x21) (hbit : bit (flags e) 8 = false) :
    hmacExecute h .none x e k n = complete h e (hmacTag n x e k) { status := stOk, len := (hmacTag n x e k).length } n := by
  simp [hmacExecute, sealSplit, hend, hop, hbit, hmacTag, hmacValue, digestPart]

theorem hmacExecute_check (hend : endsMessage (flags e) = true) (hop : opcode e = 0x22) :
    hmacExecute h .none x e k n = verdictEnd h x e .none (hmacMatches n x e k) [] 10 2 n := by
  simp [hmacExecute, sealSplit, hend, hop, hmacMatches, hmacValue, digestPart]

/-- What HMAC_GEN and HMAC_CHECK leave (R238, R242, R343). -/
theorem hmacExecute_leaves {op : Nat} (hv : Serving n h x y e) (hs : Shared x y 3 1) (hright : PartsRight n true x e)
    (hop : opcode e = op) (hcode : op = 0x21 ∨ op = 0x22) :
    let t := hmacExecute h .none x e k n; let g := hmacTag n x e k
    PartLeft t true x e (digestPart n x e)
      ∧ (endsMessage (flags e) = false → Finishes n t h (dstOf e) [] { status := okOf x } ∧ Counts t h x 3 1)
      ∧ (endsMessage (flags e) = true → op = 0x21 →
          (if bit (flags e) 8 then Finishes n t h (dstOf e) [] { status := okOf x, len := g.length, param := some (inlineParam g) }
           else Finishes n t h (dstOf e) g { status := okOf x, len := g.length }) ∧ Counts t h x 3 1)
      ∧ (endsMessage (flags e) = true → op = 0x22 → hmacMatches n x e k = true →
          Finishes n t h (dstOf e) [] { status := okOf x, param := some (withPair e pairMatch) } ∧ Counts t h x 3 1)
      ∧ (endsMessage (flags e) = true → op = 0x22 → hmacMatches n x e k = false →
          Finishes n t h (dstOf e) [] { status := stAuthFail, param := some (withPair e pairMismatch) }) := by
  dsimp only
  have hkind : OpensKind true (opcode e) := by rw [OpensKind, hop]; simp; omega
  cases hend : endsMessage (flags e)
  case false =>
    rw [hmacExecute_goesOn hend]
    obtain ⟨hpart, hfin, hcount⟩ := nextPart_leaves (dig := true) (q := digestPart n x e) hv hend
    exact ⟨hpart, fun _ => ⟨hfin, hcount 3 1 hs⟩, by simp, by simp, by simp⟩
  case true =>
  rcases hcode with rfl | rfl
  · cases hbit : bit (flags e) 8
    case true =>
      rw [hmacExecute_inline hend hop hbit]
      have he : Ends n _ h (dstOf e) [] _ := hv.complete (d := {
        status := stOk, len := (hmacTag n x e k).length, param := some (inlineParam (hmacTag n x e k)) })
      exact ⟨he.partLeft hv hend hkind hright (okOf_ne_badParam x), by simp, fun _ _ => ⟨he.finishes, he.counts hv rfl hs⟩, by simp, by simp⟩
    case false =>
      rw [hmacExecute_output hend hop hbit]
      have he : Ends n _ h (dstOf e) (hmacTag n x e k) _ := hv.complete (d := { status := stOk, len := (hmacTag n x e k).length })
      exact ⟨he.partLeft hv hend hkind hright (okOf_ne_badParam x), by simp, fun _ _ => ⟨he.finishes, he.counts hv rfl hs⟩, by simp, by simp⟩
  · rw [hmacExecute_check hend hop]
    cases hmatch : hmacMatches n x e k
    case true =>
      have he := hv.verdict_match (blk := 10) (src := 2)
      exact ⟨he.partLeft hv hend hkind hright (okOf_ne_badParam x), by simp, by simp, fun _ _ _ => ⟨he.finishes, he.counts hv rfl hs⟩, by simp⟩
    case false =>
      have he := hv.verdict_mismatch (blk := 10) (src := 2)
      exact ⟨he.partLeft hv hend hkind hright (show stAuthFail ≠ stBadParam by decide), by simp, by simp, by simp, fun _ _ _ => he.finishes⟩

/-! The commands -/

theorem dwindles_takeShare (j m : Nat) : Dwindles dig s (takeShare h x j m s) :=
  dwindles_ite (Dwindles.refl s) (dwindles_modHamper _ _ (Dwindles.refl s))

/-- Either MAC command on an entry that passes its checks (R208, R216). -/
theorem macRun_executes {op : Nat} (hr : Runs s h op x e) (heng : x.engines ≠ []) (hrng : s.rng.stopped = false)
    (hturn : (isPart (flags e) && earlierTouch s x false) = false) (hearly : macEarly s x e = none)
    (hkey : keyStep s x (slotOf e) (cipherJudge useMac (modeOf e)) = .key k) (hlater : macLater s x e k = none)
    (hn : Reads (takeShare h x 3 1 s) n h (readRanges s x e)) (hdst : dstReady n (dstOf e) 0 = true) :
    runEntry op h (macRun .none h) s = macExecute h .none x e k n := by
  rw [runEntry_runs hr]
  exact cipherFrame_executes heng hrng hturn hearly hkey hlater (by rwa [List.append_nil]) hdst

/-- The two MAC commands. -/
theorem exec_mac {op : Nat} {c : Instr} (hc : (op, c) ∈ ([(0x13, .macGen h .none), (0x14, .macCheck h .none)] : List (Nat × Instr))) :
    exec c s = .next (runEntry op h (macRun .none h) s) ∧ (op = 0x13 ∨ op = 0x14) := by
  simp only [List.mem_cons, List.not_mem_nil, or_false, Prod.mk.injEq] at hc
  obtain ⟨rfl, rfl⟩ | ⟨rfl, rfl⟩ := hc
  · exact ⟨rfl, .inl rfl⟩
  · exact ⟨rfl, .inr rfl⟩

/-- The two HMAC commands with the further range each reads. -/
theorem exec_hmac {op : Nat} {c : Instr} {extra : List (Nat × Nat)} (hop : opcode e = op)
    (hc : (op, c, extra) ∈ ([(0x21, .hmacGen h .none, []), (0x22, .hmacCheck h .none, if (expOf e).2 ≠ 0 then [expOf e] else [])] :
      List (Nat × Instr × List (Nat × Nat)))) :
    exec c s = .next (runEntry op h (hmacRun .none h) s) ∧ (op = 0x21 ∨ op = 0x22)
      ∧ extra = if opcode e = 0x22 ∧ (expOf e).2 ≠ 0 then [expOf e] else [] := by
  simp only [List.mem_cons, List.not_mem_nil, or_false, Prod.mk.injEq] at hc
  obtain ⟨rfl, rfl, rfl⟩ | ⟨rfl, rfl, rfl⟩ := hc
  · exact ⟨rfl, .inl rfl, by simp [hop]⟩
  · exact ⟨rfl, .inr rfl, by simp [hop]⟩

theorem partsRight_hmac {op : Nat} (hcode : op = 0x21 ∨ op = 0x22)
    (hearly : (if op = 0x21 then hmacGenEarly s x e else hmacCheckEarly s x e) = none) : PartsRight s true x e := by
  rcases hcode with rfl | rfl
  · exact partsRight_hmacGen hearly
  · exact partsRight_hmacCheck hearly

end

/-- Settles O43: an entry that passes its checks is executed on the state its reads leave; what they meet can only free a record, since the entry has
read the place of its own without an error, and each end of the execution is a completion after a write. -/
theorem macAndDigestEntries : Obligations.MacAndDigestEntries := by
  unfold Obligations.MacAndDigestEntries
  rintro s n h x e k m heng rfl
  refine ⟨?mac, ?digest, ?hmac⟩
  case mac =>
    rintro op c hc hr hrng hturn hearly hkey hlater hn hdst q tag rfl rfl
    obtain ⟨hexec, hcode⟩ := exec_mac (s := s) hc
    obtain ⟨y, hv, hs⟩ := serving_of_share hr hn
    obtain ⟨hok, hres⟩ := partsRight_mac hearly
    obtain ⟨-, hop, -⟩ := id hr
    have hkind : OpensKind false (opcode e) := by rw [OpensKind, hop]; simp; omega
    have hresn := hres.reads hr hkind (dwindles_takeShare 3 1) hn hv
    rw [macRun_executes hr heng hrng hturn hearly hkey hlater hn hdst] at hexec
    exact ⟨_, hexec, macExecute_leaves hv hs ⟨hok, hresn⟩ hop hcode⟩
  case digest =>
    rintro hr hturn hbad hn hdst q d rfl rfl
    have hv := serving_of_reads hr hn
    obtain ⟨hok, hres⟩ := partsRight_digest hbad
    obtain ⟨-, hop, -⟩ := id hr
    have hkind : OpensKind true (opcode e) := by rw [OpensKind, hop]; simp
    have hresn := hres.reads hr hkind (Dwindles.refl s) hn hv
    have hexec : exec (.digest h .none) s = .next (digestExecute h x e n) :=
      congrArg Host.Outcome.next ((runEntry_runs hr).trans (digestFrame_executes heng hturn hbad hn hdst))
    exact ⟨_, hexec, digestExecute_leaves hv ⟨hok, hresn⟩ hop⟩
  case hmac =>
    rintro op c extra hc hr hturn hearly hkey hlater hn hdst q full rfl rfl
    obtain ⟨-, hop, -⟩ := id hr
    obtain ⟨hexec, hcode, hextra⟩ := exec_hmac (s := s) hop hc
    obtain ⟨y, hv, hs⟩ := serving_of_share hr hn
    obtain ⟨hok, hres⟩ := partsRight_hmac hcode hearly
    have hkind : OpensKind true (opcode e) := by rw [OpensKind, hop]; simp; omega
    have hresn := hres.reads hr hkind (dwindles_takeShare 3 1) hn hv
    rw [runEntry_runs hr, hmacRun_executes heng hturn hextra (by rwa [hop]) hkey hlater hn hdst] at hexec
    obtain ⟨hpart, hmid, hgen, hmatch, hmismatch⟩ := hmacExecute_leaves (k := k) hv hs ⟨hok, hresn⟩ hop hcode
    exact ⟨_, hexec, hpart, hmid, fun hend hcheck g hg => hg ▸ hgen hend hcheck, fun hend hcheck heq => hmatch hend hcheck (beq_iff_eq.2 heq),
      fun hend hcheck hne => hmismatch hend hcheck (beq_false_of_ne hne)⟩

end Sys2Proof.Proofs
end

section
/-! PROOFS. What the end of an entry leaves alone: hampers, memory, power domains and part-state records aside, everything; those records too where the
entry is no later part of a message (R153, R177, R188, R220). -/

namespace Sys2Proof.Proofs

open Sys2Proof.Machine Sys2Proof.Safety Sys2Proof.Laws

section
variable {dig : Bool} {s t u n : State} {h a : Nat} {x y : Hamper} {e out : Bytes} {d : Done}

/-- A state without what the end of an entry writes. -/
def besideEnd (s : State) : State := { s with hampers := [], power := {}, mem := {}, cipherParts := [], digestParts := [] }

/-- From `s` to `t` an entry has ended, and no more. -/
structure Ending (s t : State) : Prop where
  beside : besideEnd t = besideEnd s
  count : t.power.pds.length = s.power.pds.length

theorem Ending.refl (s : State) : Ending s s := ⟨rfl, rfl⟩

theorem Ending.trans (h : Ending s t) (k : Ending t u) : Ending s u := ⟨k.beside.trans h.beside, k.count.trans h.count⟩

/-- A part of the state that the end of an entry does not write. -/
theorem Ending.field {α : Type} (h : Ending s t) (f : State → α) (hf : ∀ u, f (besideEnd u) = f u) : f t = f s :=
  (hf t).symm.trans ((congrArg f h.beside).trans (hf s))

theorem Ending.meas (h : Ending s t) : t.meas = s.meas := h.field State.meas fun _ => rfl
theorem Ending.ctxSeqOf (h : Ending s t) (r : Nat) : ctxSeqOf t r = ctxSeqOf s r := h.field (Machine.ctxSeqOf · r) fun _ => rfl
theorem Ending.exportOut (h : Ending s t) (dig : Bool) (r : Nat) : exportOut t dig r = exportOut s dig r := h.field (Machine.exportOut · dig r) fun _ => rfl
theorem Ending.sevOf (h : Ending s t) (b src : Nat) : sevOf t b src = sevOf s b src := h.field (Machine.sevOf · b src) fun _ => rfl

theorem ending_modPd (i : Nat) (f : Pd → Pd) : Ending s (modPd s i f) := ⟨rfl, by simp⟩

theorem ending_wakeBanks (f : Nat → Nat) (l : List Nat) (s : State) : Ending s (l.foldl (fun s i => wakeBank s (f i)) s) := by
  induction l generalizing s with
  | nil => exact .refl s
  | cons i l ih => exact (ending_modPd _ _).trans (ih (wakeBank s (f i)))

theorem ending_arenaPut (hc : Clean s) (a : Nat) (v : Bytes) : Ending s (arenaPut s a v) := by
  simp only [arenaPut, touchEdges_clean hc, hc.2.2, List.filter_nil, List.foldl_nil]
  exact (ending_wakeBanks _ _ s).trans ⟨rfl, rfl⟩

/-- Output that is written where no error waits (R177, R363). -/
theorem ending_writeAt (hc : Clean s) (h a : Nat) (v : Bytes) : Ending s (writeAt h a v s) := by
  unfold writeAt
  split
  · exact .refl s
  split
  · exact .refl s
  split
  · exact ⟨rfl, rfl⟩
  split
  · unfold writeArena
    split
    · exact .refl s
    split
    · rw [touchParts_clean hc]
      exact ⟨rfl, rfl⟩
    · exact ending_arenaPut hc a v
  · exact .refl s

theorem ending_settlePart (r : Nat) (e : Bytes) (d : Done) (s : State) : Ending s (settlePart r e d s) := by
  obtain h | h | h := settlePart_cases r e d s <;> rw [h] <;> exact ⟨rfl, rfl⟩

theorem ending_finishEntry (s : State) (h : Nat) (d : Done) : Ending s (finishEntry s h d) := by
  have hcurrent : Ending s (settleCurrent h d s) := by
    unfold settleCurrent
    split
    · split
      · exact ending_settlePart _ _ _ s
      · exact .refl s
    · exact .refl s
  exact hcurrent.trans ⟨rfl, by simp [finishEntry, freeEngines, modHamper]⟩

/-- An entry that succeeds (R154, R195). -/
theorem ending_complete (hc : Clean n) (hx : hamperOf n h = some x) (hcup : x.cupPoison = false) : Ending n (complete h e out d n) := by
  simp only [complete, finishOk, hx, hcup, Bool.false_eq_true, if_false]
  exact (ending_writeAt hc _ _ _).trans (ending_finishEntry _ _ _)

/-! Part-state records -/

/-- The end of an entry that is no later part of a message settles no record. -/
theorem settlePart_other (hlater : ∀ dig, laterPart dig e = false) (r : Nat) (s : State) : settlePart r e d s = s := by
  simp [settlePart, hlater]

theorem Ends.openPart_other (he : Ends n t h a out d) (hv : Serving n h x y e) (hlater : ∀ dig, laterPart dig e = false) (r : Nat) :
    openPart t dig r = openPart n dig r := by
  obtain ⟨u, y', z, hy', hw, rfl⟩ := he
  obtain rfl : y = y' := Option.some.inj (hv.hamper.symm.trans hy')
  have hcurrent : (currentEntry z).map (·.bytes) = some e := by rw [hw.same]; exact hv.current
  have hsettled : Machine.openPart (finishEntry u h d) dig r = Machine.openPart u dig r := by
    change Machine.openPart (settleCurrent h d u) dig r = _
    rw [settleCurrent_current hw.hamper hcurrent, settlePart_other hlater]
  rw [hsettled, Machine.openPart, Machine.openPart, hw.parts]

end

end Sys2Proof.Proofs
end

section
/-! PROOFS. A result that fails its internal check: its entry ends ENGINE_FAULT and its engines are fenced, whatever else the fences bring (R268, R413,
R449, R451). -/

namespace Sys2Proof.Proofs

open Sys2Proof.Machine Sys2Proof.Safety Sys2Proof.Laws

/-- A domain takes no work: it is fenced or retired (R449). -/
def OutOfUse (s : State) (i : Nat) : Prop := (pdOf s i).fenced = true ∨ (pdOf s i).retired = true

/-- From `s` to `t` domains have been fenced or retired, and events recorded: hampers and severities stand. -/
structure Fencing (s t : State) : Prop where
  hampers : t.hampers = s.hampers
  sevs : ∀ b src, sevOf t b src = sevOf s b src
  count : t.power.pds.length = s.power.pds.length
  out : ∀ i, OutOfUse s i → OutOfUse t i

section
variable {s s0 t u : State}

theorem Fencing.refl (s : State) : Fencing s s := ⟨rfl, fun _ _ => rfl, rfl, fun _ => id⟩

theorem Fencing.trans (h : Fencing s t) (k : Fencing t u) : Fencing s u :=
  ⟨k.hampers.trans h.hampers, fun b src => (k.sevs b src).trans (h.sevs b src), k.count.trans h.count, fun i hi => k.out i (h.out i hi)⟩

theorem fencing_recordOnly (b src detail sev : Nat) (dom : Option Nat) (s : State) : Fencing s (recordOnly b src detail sev dom s) :=
  ⟨rfl, fun c k => sevOf_recordOnly c k, rfl, fun _ => id⟩

theorem fencing_modPd {i : Nat} {f : Pd → Pd} (hf : ∀ d, d.fenced = true ∨ d.retired = true → (f d).fenced = true ∨ (f d).retired = true) (s : State) :
    Fencing s (modPd s i f) := by
  refine ⟨rfl, fun _ _ => rfl, by simp, fun j hj => ?_⟩
  rcases pdOf_modPd s i j f with h | ⟨-, h⟩ <;> rw [OutOfUse, h]
  · exact hj
  · exact hf _ hj

/-- No event of block 16 has severity DEVICE. -/
def PowerCalm (s : State) : Prop := ∀ src, sevOf s 16 src ≤ 3

theorem Fencing.calm (h : Fencing s t) (hs : PowerCalm s) : PowerCalm t := fun src => (h.sevs 16 src).trans_le (hs src)

/-- An event of block 16, which concerns no tenant domain, is recorded. -/
theorem fencing_capture (hs : PowerCalm s) (src detail : Nat) : Fencing s (capture 16 src detail none s) := by
  rw [capture, captureSev_domainless (by have := hs src; omega)]
  exact fencing_recordOnly _ _ _ _ _ s

theorem fencing_noteDegraded (hs : PowerCalm s) : Fencing s (noteDegraded s) := by
  have hflag : Fencing s { s with power := { s.power with degraded := true } } := ⟨rfl, fun _ _ => rfl, rfl, fun _ => id⟩
  unfold noteDegraded
  split
  · exact .refl s
  · exact hflag.trans (fencing_capture (hflag.calm hs) 3 0)

/-- A domain switched off for good (R449). -/
def switchedOff (d : Pd) : Pd :=
  { d with retired := true, fenced := false, st := .off, closed := false, wakeWanted := false, wakeQueued := false, running := none, suspended := none }

/-- What is raised once a domain is off for good (R450, R451). -/
theorem fencing_retirementRaised (hs : PowerCalm s) (i : Nat) :
    Fencing s (if i = 36 ∨ i = 37 then capture 16 5 (i - 36) none (noteDegraded (capture 16 2 i none s)) else noteDegraded (capture 16 2 i none s)) := by
  have hraised := fencing_capture hs 2 i
  have hnoted := hraised.trans (fencing_noteDegraded (hraised.calm hs))
  split
  · exact hnoted.trans (fencing_capture (hnoted.calm hs) 5 (i - 36))
  · exact hnoted

/-- Retiring a domain puts it out of use (R449 to R451). -/
theorem retire_fencing (hs : PowerCalm s) (i cause : Nat) : Fencing s (retire i cause s) ∧ (i < s.power.pds.length → OutOfUse (retire i cause s) i) := by
  unfold retire
  split
  · next hretired => exact ⟨.refl s, fun _ => .inr hretired⟩
  have hlog : Fencing s (logRetirement s (repairKind i).1 (repairKind i).2 cause) := by
    unfold logRetirement
    split
    · exact ⟨rfl, fun _ _ => rfl, rfl, fun _ => id⟩
    · exact .refl s
  have hoff := hlog.trans (fencing_modPd (i := i) (f := switchedOff) (fun _ _ => .inr rfl) _)
  have hraised := fencing_retirementRaised (hoff.calm hs) i
  refine ⟨hoff.trans hraised, fun hi => hraised.out i (.inr ?_)⟩
  rw [pdOf_modPd_same _ _ _ (hlog.count ▸ hi)]
  rfl

/-- Fencing a domain puts it out of use (R413, R449). -/
theorem fence_fencing (hs : PowerCalm s) (i : Nat) : Fencing s (fence i s) ∧ (i < s.power.pds.length → OutOfUse (fence i s) i) := by
  unfold fence
  dsimp only
  split
  · next hout => exact ⟨.refl s, fun _ => by simpa [OutOfUse] using hout⟩
  split
  · have hcount : Fencing s (modPd s i (fun d => { d with fences := d.fences + 1 })) := fencing_modPd (by exact fun _ => id) s
    obtain ⟨hretire, hout⟩ := retire_fencing (hcount.calm hs) i 4
    exact ⟨hcount.trans hretire, fun hi => hout (hcount.count ▸ hi)⟩
  · exact ⟨fencing_modPd (fun _ _ => .inl rfl) s, fun hi => .inl (by rw [pdOf_modPd_same _ _ _ hi])⟩

/-- Several domains. -/
theorem foldl_fence_fencing (hs : PowerCalm s) (l : List Nat) :
    Fencing s (l.foldl (fun s j => fence j s) s) ∧ ∀ i ∈ l, i < s.power.pds.length → OutOfUse (l.foldl (fun s j => fence j s) s) i := by
  induction l generalizing s with
  | nil => exact ⟨.refl s, by simp⟩
  | cons j l ih =>
    obtain ⟨hj, hout⟩ := fence_fencing hs j
    obtain ⟨hl, hrest⟩ := ih (hj.calm hs)
    refine ⟨hj.trans hl, fun i hi hlen => ?_⟩
    rcases List.mem_cons.1 hi with rfl | hi
    · exact hl.out i (hout hlen)
    · exact hrest i hi (hj.count ▸ hlen)

/-- An event below DOMAIN fences one engine at most (R413). -/
theorem fencing_raise {b src : Nat} (hs : PowerCalm s) (hsev : sevOf s b src ≤ 2) (detail : Nat) (dom : Option Nat) :
    Fencing s (raise b src detail dom s) := by
  have hrec := fencing_recordOnly b src detail (sevOf s b src) dom s
  unfold raise raiseSev
  rw [captureSev_low hsev]
  split
  · exact hrec
  unfold reactMajor
  split
  · split
    · exact hrec.trans (fence_fencing (hrec.calm hs) _).1
    · exact hrec
  · exact hrec

/-! The internal check -/

/-- The engine of a hamper in whose name a failed check is raised (R268). -/
def firstEngine (x : Hamper) : Nat := x.engines.foldl min (x.engines.headD 0)

theorem engineBlock_mem (i : Nat) : (engineBlock i).1 ∈ ([9, 10, 11] : List Nat) := by
  unfold engineBlock
  split
  · simp
  · split <;> simp

variable {n : State} {h a : Nat} {x y : Hamper} {e : Bytes}

/-- An entry whose engine is struck ends with a failure, what it had written reading zero (R269). -/
theorem Serving.struck (hv : Serving n h x y e) (status detail : Nat) :
    (∃ out, Ends n (strikeHamper h status detail n) h (dstOf e) out { status, detail }) ∧ Ending n (strikeHamper h status detail n) := by
  obtain ⟨c, hc, rfl⟩ := Option.map_eq_some_iff.1 hv.current
  obtain ⟨z, hw⟩ := writeAt_written (a := dstOf c.bytes) (out := zeros (min (Config.writtenBefore h c.index) (dstLenOf c.bytes))) hv.clean hv.hamper
  have hcup : z.cupPoison = false := by rw [hw.same]; exact hv.cup
  simp only [strikeHamper, hv.hamper, hc]
  rw [failEntry_unpoisoned hw.hamper hcup]
  exact ⟨⟨_, _, y, z, hv.hamper, hw, rfl⟩, (ending_writeAt hv.clean _ _ _).trans (ending_finishEntry _ _ _)⟩

/-- A result that fails its internal check is not released (R268). -/
theorem Serving.selfCheckFails (hv : Serving n h x y e) (z : Hamper) : SelfCheckFails n (selfCheckFault h z n) h z.engines := by
  intro hengine hpower
  obtain ⟨⟨out, he⟩, hend⟩ := hv.struck stEngineFault 5
  have hcalm : PowerCalm (strikeHamper h stEngineFault 5 n) := fun src => (hend.sevOf 16 src).trans_le (hpower src)
  have hraise := fencing_raise (src := 1) hcalm ((hend.sevOf _ 1).trans_le (hengine _ (engineBlock_mem (firstEngine z))))
    (engineBlock (firstEngine z)).2 (some z.domain)
  obtain ⟨hfold, hout⟩ := foldl_fence_fencing (hraise.calm hcalm) z.engines
  have hall := hraise.trans hfold
  obtain ⟨y', w, hy', hw, hentries, hengines, -⟩ := he.finishes
  refine ⟨⟨y', w, hy', ?_, hentries, hengines⟩, fun hshape i hi hlt => hout i hi ?_⟩
  · exact (congrArg (List.find? _) hall.hampers).trans hw
  · obtain ⟨-, hcount, -⟩ := hshape
    rw [hraise.count, hend.count, hcount]
    omega

end

end Sys2Proof.Proofs
end

section
/-! PROOFS. COMPARE, EXTEND and QUOTE entries that pass their checks, and the messages that leave and return as blobs; and O44 (R239, R245 to R251). -/

namespace Sys2Proof.Proofs

open Sys2Proof.Machine Sys2Proof.Safety Sys2Proof.Laws

section
variable {dig : Bool} {s n t u : State} {h : Nat} {x y z : Hamper} {e : Bytes} {q : PartState} {c : CtxOut} {iv : Bytes}

/-- An entry on a state in which no error waits, which reads nothing more. -/
theorem serving_of_clean {op : Nat} (hr : Runs s h op x e) (hc : Clean s) : Serving s h x x e :=
  serving_of_reads (l := []) hr ⟨rfl, rfl, hc, rfl⟩

/-- The same hampers and the same memory serve an entry as well. -/
theorem Serving.of_same (hv : Serving n h x y e) (hhampers : t.hampers = n.hampers) (hmem : t.mem = n.mem) : Serving t h x y e :=
  ⟨by rw [Clean, hmem]; exact hv.clean, by rw [hamperOf, hhampers]; exact hv.hamper, hv.cup, hv.ring, hv.status, hv.current⟩

theorem withReads_ready {l : List (Nat × Nat)} {run : State → State} (hn : Reads s n h l) : withReads h x l run s = run n := by
  obtain ⟨hready, rfl, hclean, -⟩ := hn
  simp [withReads, hready, poisonOf_clean hclean]

/-! COMPARE -/

/-- The second operand of COMPARE (R239). -/
def compared (n : State) (x : Hamper) (e : Bytes) : Bytes :=
  if bit (flags e) 10 then (n.meas.getD (leAt (paramOf e) 4 1) measReset).value else readAll n x (bRange e)

theorem exec_compare (hr : Runs s h 0x23 x e) (hbad : compareBad s x e = none) (hn : Reads s n h (readRanges s x e ++ bRange e)) :
    exec (.compare h .none) s = .next (compareExecute h .none x e n) := by
  refine congrArg Host.Outcome.next ((runEntry_runs hr).trans ?_)
  simp only [hbad, withReads_ready hn]

theorem compareExecute_equal (hv : Serving n h x y e) (heq : readAll n x (srcRanges n x e) = compared n x e) :
    Finishes n (compareExecute h .none x e n) h (dstOf e) [] { status := okOf x, param := some (withPair e pairMatch) } := by
  unfold compared at heq
  simp only [compareExecute, heq, if_true, reduceCtorEq, if_false]
  exact (hv.complete (d := { status := stOk, param := some (withPair e pairMatch) })).finishes

theorem compareExecute_unequal (hv : Serving n h x y e) (hne : readAll n x (srcRanges n x e) ≠ compared n x e) :
    Finishes n (compareExecute h .none x e n) h (dstOf e) [] { status := stCompareFail, param := some (withPair e pairMismatch) } := by
  unfold compared at hne
  simp only [compareExecute, hne, reduceCtorEq, if_false]
  exact Ends.finishes ⟨n, y, y, hv.hamper, written_nothing hv.hamper (fun h => absurd rfl h), rfl⟩

/-! EXTEND -/

theorem extendBad_none (h : extendBad s x e = none) : flags e = 0 ∧ leAt (paramOf e) 0 1 < 32 := by
  obtain ⟨hown, -⟩ := orBad_none h
  obtain ⟨hfields, hrest⟩ := firstBad_cons hown
  obtain ⟨hindex, -⟩ := firstBad_cons hrest
  simp only [Bool.or_eq_false_iff, bne_eq_false_iff_eq, decide_eq_false_iff_not] at hfields hindex
  obtain ⟨⟨⟨-, hflags⟩, -⟩, -⟩ := hfields
  exact ⟨hflags, by omega⟩

theorem exec_extend (hr : Runs s h 0x24 x e) (heng : x.engines ≠ []) (hbad : extendBad s x e = none) (hn : Reads s n h (readRanges s x e))
    (hdst : dstReady n (dstOf e) 48 = true) : exec (.extend h .none) s = .next (extendExecute h x e n) := by
  have hpart : isPart (flags e) = false := by rw [(extendBad_none hbad).1]; decide
  refine congrArg Host.Outcome.next ((runEntry_runs hr).trans ?_)
  exact digestFrame_executes heng (by rw [hpart]; rfl) hbad hn hdst

/-- The register that EXTEND names, with the entry's source (R248). -/
def extended (n : State) (x : Hamper) (e : Bytes) : State := extendMeas (leAt (paramOf e) 0 1) (readAll n x (srcRanges n x e)) n

/-- The value that EXTEND gives its register (R248). -/
def extendValue (n : State) (x : Hamper) (e : Bytes) : Bytes :=
  sha384 ((n.meas.getD (leAt (paramOf e) 0 1) measReset).value ++ readAll n x (srcRanges n x e))

theorem extended_value (hi : leAt (paramOf e) 0 1 < n.meas.length) :
    ((extended n x e).meas.getD (leAt (paramOf e) 0 1) measReset).value = extendValue n x e := by
  simp [extended, extendMeas, extendValue, hi]

theorem extendExecute_silent (hlen : dstLenOf e = 0) : extendExecute h x e n = complete h e [] { status := stOk } (extended n x e) := by
  simp [extendExecute, hlen, extended]

theorem extendExecute_output (hi : leAt (paramOf e) 0 1 < n.meas.length) (hlen : dstLenOf e ≠ 0) :
    extendExecute h x e n = complete h e (extendValue n x e) { status := stOk, len := 48 } (extended n x e) := by
  rw [← extended_value hi]
  simp [extendExecute, hlen, extended]

/-- What EXTEND leaves (R248, R249). -/
theorem extendExecute_leaves (hv : Serving n h x y e) (hi : leAt (paramOf e) 0 1 < n.meas.length) :
    let t := extendExecute h x e n
    t.meas = (extended n x e).meas ∧ (dstLenOf e = 0 → Finishes n t h (dstOf e) [] { status := okOf x })
      ∧ (dstLenOf e ≠ 0 → Finishes n t h (dstOf e) (extendValue n x e) { status := okOf x, len := 48 }) := by
  dsimp only
  have hve : Serving (extended n x e) h x y e := hv.of_same rfl rfl
  by_cases hlen : dstLenOf e = 0
  · rw [extendExecute_silent hlen]
    exact ⟨(ending_complete hve.clean hve.hamper hve.cup).meas, fun _ => (hve.complete (d := { status := stOk })).finishes, fun h => absurd hlen h⟩
  · rw [extendExecute_output hi hlen]
    exact ⟨(ending_complete hve.clean hve.hamper hve.cup).meas, fun h => absurd h hlen,
      fun _ => (hve.complete (d := { status := stOk, len := 48 })).finishes⟩

/-! QUOTE -/

theorem withPk_granted {run : State → State} (heng : x.engines ≠ []) : withPk h x e run s = run s := by
  simp [withPk, heng, withEngines_granted heng]

theorem exec_quote_hashes (hr : Runs s h 0x25 x e) (heng : x.engines ≠ []) (hphase : x.hashed = false) (hbad : quoteBad s x e = none) :
    exec (.quote h .none) s = .next (quoteHash h x e s) := by
  refine congrArg Host.Outcome.next ((runEntry_runs hr).trans ?_)
  simp only [hphase, hbad, withPk_granted heng, Bool.false_eq_true, if_false]

theorem exec_quote_signs (hr : Runs s h 0x25 x e) (heng : x.engines ≠ []) (hphase : x.hashed = true) (hdst : dstReady s (dstOf e) (dstLenOf e) = true) :
    exec (.quote h .none) s = .next (quoteExecute h .none x e s) := by
  refine congrArg Host.Outcome.next ((runEntry_runs hr).trans ?_)
  simp only [hphase, if_true, withPk_granted heng, withRoom, hdst]

/-- An engine that a hamper has left does not run it (R189, R221). -/
theorem engineFreed_running (h : Nat) (d : Pd) : (engineFreed h d).running ≠ some (.hamper h) := by
  by_cases hsuspended : d.suspended = some (.hamper h)
  · by_cases hrunning : d.running = some (.hamper h) <;> simp [engineFreed, engineNext, hsuspended, hrunning]
  · by_cases hrunning : d.running = some (.hamper h) <;> simp [engineFreed, engineNext, hsuspended, hrunning]

/-- The end of a digest-engine phase (R263, R277). -/
theorem hashDone_hashed (m : Bytes) : Hashed s (hashDone h m s) h m := by
  refine ⟨?_, fun i => ?_, fun j hj => ?_, rfl, rfl, rfl, rfl, rfl, rfl⟩
  · exact hamperOf_modHamper_same (f := fun y => { y with hashed := true, template := m, engines := [] }) (fun _ => rfl) s h
  · rw [hashDone, pdOf_freeEngines]
    exact engineFreed_running h _
  · exact hamperOf_modHamper_ne (f := fun y => { y with hashed := true, template := m, engines := [] }) (fun _ => rfl) s hj

/-- The signature of QUOTE (R250). -/
def quoteSig (s : State) (x : Hamper) : Bytes := deviceSign ((rootOf s).getD []) 3 x.template

/-- QUOTE on its public-key engine releases its signature or not (R250, R268). -/
theorem quoteExecute_leaves (hv : Serving s h x y e) :
    (deviceSigned ((rootOf s).getD []) 3 x.template (quoteSig s x) = true →
        Finishes s (quoteExecute h .none x e s) h (dstOf e) (x.template ++ quoteSig s x) { status := okOf x, len := (x.template ++ quoteSig s x).length })
      ∧ (deviceSigned ((rootOf s).getD []) 3 x.template (quoteSig s x) = false → SelfCheckFails s (quoteExecute h .none x e s) h x.engines) := by
  refine ⟨fun hgood => ?_, fun hbad => ?_⟩
  · unfold quoteSig at hgood
    simp only [quoteExecute, internalFault, hgood, if_true]
    exact (hv.complete (d := { status := stOk, len := (x.template ++ quoteSig s x).length })).finishes
  · unfold quoteSig at hbad
    simp only [quoteExecute, internalFault, hbad, Bool.false_eq_true, if_false]
    exact hv.selfCheckFails x

/-! Messages as blobs -/

theorem openPart_putExport (r : Nat) (c : Option CtxOut) (s : State) (k : Bool) (j : Nat) : openPart (putExport dig r c s) k j = openPart s k j := by
  cases dig <;> rfl

theorem openPart_freePart (r : Nat) (s : State) : openPart (freePart dig r s) dig r = none := by
  cases dig <;> simp [openPart, partsOf, freePart, assocGet_del]

theorem exportOut_putExport (r : Nat) (c : Option CtxOut) (s : State) : exportOut (putExport dig r c s) dig r = c := by
  cases dig <;> cases c <;> simp [exportOut, putExport, assocGet_put, assocGet_del]

/-- A context entry is no part of its message (R242). -/
theorem laterPart_context (hop : 0x26 ≤ opcode e) (dig : Bool) : laterPart dig e = false := by
  have h14 : ¬opcode e ≤ 0x14 := by omega
  have h22 : ¬opcode e ≤ 0x22 := by omega
  cases dig <;> simp [laterPart, h14, h22]

/-- What an entry of a context operation leaves of its ring's message, its outstanding blob and that blob's number (R246, R247). -/
theorem complete_context {out : Bytes} {d : Done} (hv : Serving n h x y e) (hop : 0x26 ≤ opcode e) :
    let t := complete h e out d n
    openPart t dig x.ring = openPart n dig x.ring ∧ exportOut t dig x.ring = exportOut n dig x.ring ∧ ctxSeqOf t x.ring = ctxSeqOf n x.ring :=
  have hend := ending_complete hv.clean hv.hamper hv.cup
  ⟨hv.complete.openPart_other hv (laterPart_context hop) x.ring, hend.exportOut dig x.ring, hend.ctxSeqOf x.ring⟩

/-! CTX_EXPORT -/

/-- A draw changes the generator, or how far the stream of the hamper is used (R284, R286). -/
theorem drawFor_cases {m : Nat} (hd : drawFor x m s = some (iv, u)) :
    u = afterDraw s m ∨ u = modHamper s x.id (fun y => { y with streamPos := y.streamPos + m }) := by
  unfold drawFor at hd
  split at hd
  · exact .inr (Prod.mk.inj (Option.some.inj hd)).2.symm
  · split at hd
    · exact .inl (Prod.mk.inj (Option.some.inj hd)).2.symm
    · cases hd

/-- After a draw the entry can still finish, and as it would have before. -/
theorem Serving.drawn {m : Nat} (hv : Serving s h x y e) (hid : x.id = h) (hd : drawFor x m s = some (iv, u)) :
    (∃ z, Serving u h x z e) ∧ ∀ t a out d, Finishes u t h a out d → Finishes s t h a out d := by
  obtain rfl | rfl := drawFor_cases hd
  · exact ⟨⟨y, hv.of_same rfl rfl⟩, fun _ _ _ _ => id⟩
  · subst hid
    have hy := hamperOf_modHamper_same (f := fun y => { y with streamPos := y.streamPos + m }) (fun _ => rfl) s x.id
    rw [hv.hamper] at hy
    refine ⟨⟨_, hv.clean, hy, hv.cup, hv.ring, hv.status, hv.current⟩, fun t a out d hf => ?_⟩
    obtain ⟨v, w, hv', hw, hentries, hengines, hread, harena, hcups, hothers, hrest⟩ := hf
    obtain rfl := Option.some.inj (hy.symm.trans hv')
    exact ⟨y, w, hv.hamper, hw, hentries, hengines, hread, harena, hcups,
      fun j hj => (hothers j hj).trans (hamperOf_modHamper_ne (f := fun y => { y with streamPos := y.streamPos + m }) (fun _ => rfl) s hj), hrest⟩

/-- The message of ring `r` has left under the number `c` (R246). -/
def exported (dig : Bool) (r : Nat) (c : CtxOut) (u : State) : State :=
  putExport dig r (some c) (freePart dig r { u with ctxSeq := assocPut u.ctxSeq r c.seq })

theorem Serving.afterExport (hv : Serving u h x y e) (r : Nat) (c : CtxOut) : Serving (exported dig r c u) h x y e := by
  cases dig <;> exact hv.of_same rfl rfl

theorem finishes_of_exported {r a : Nat} {out : Bytes} {d : Done} (hf : Finishes (exported dig r c u) t h a out d) : Finishes u t h a out d := by
  cases dig <;> exact hf

theorem ctxSeqOf_exported (r : Nat) (c : CtxOut) (u : State) : ctxSeqOf (exported dig r c u) r = c.seq := by
  cases dig <;> simp [ctxSeqOf, exported, putExport, freePart, assocGetD, assocGet_put]

theorem exec_ctxExport (hr : Runs s h 0x26 x e) (hturn : earlierTouch s x (kindDigest e) = false) (hbad : exportBad s x e = none)
    (hdst : dstReady s (dstOf e) 288 = true) : exec (.ctxExport h .none) s = .next (exportExecute h x e s) := by
  refine congrArg Host.Outcome.next ((runEntry_runs hr).trans ?_)
  simp only [hturn, hbad, withRoom, hdst, Bool.false_eq_true, if_false, if_true]

theorem exportExecute_eq (hq : openPart s (kindDigest e) x.ring = some q) (hd : drawFor x 12 s = some (iv, u)) :
    let seq := (ctxSeqOf s x.ring + 1) % 2 ^ 32
    exportExecute h x e s = complete h e (ctxBlob s x (kindDigest e) seq q iv) { status := stOk, len := 288 }
      (exported (kindDigest e) x.ring { seq := seq, state := q } u) := by
  simp only [exportExecute, hq, hd, exported]

/-- What CTX_EXPORT leaves, once its IV is drawn (R246). -/
theorem complete_exported {out : Bytes} {d : Done} (hv : Serving u h x y e) (hop : 0x26 ≤ opcode e) (c : CtxOut) :
    let t := complete h e out d (exported dig x.ring c u)
    Finishes u t h (dstOf e) out { d with status := okOf x }
      ∧ openPart t dig x.ring = none ∧ exportOut t dig x.ring = some c ∧ ctxSeqOf t x.ring = c.seq := by
  have hve := hv.afterExport (dig := dig) x.ring c
  obtain ⟨hopen, hout, hseq⟩ := complete_context (dig := dig) (out := out) (d := d) hve hop
  refine ⟨finishes_of_exported hve.complete.finishes, ?_, hout.trans (exportOut_putExport _ _ _), hseq.trans (ctxSeqOf_exported _ _ _)⟩
  exact hopen.trans ((openPart_putExport _ _ _ _ _).trans (openPart_freePart _ _))

/-! CTX_IMPORT -/

/-- The message of ring `r` is open again (R247). -/
def imported (dig : Bool) (r : Nat) (q : PartState) (n : State) : State := putExport dig r none (putPart dig r q n)

theorem Serving.afterImport (hv : Serving n h x y e) (r : Nat) (q : PartState) : Serving (imported dig r q n) h x y e := by
  cases dig <;> exact hv.of_same rfl rfl

theorem finishes_of_imported {r a : Nat} {out : Bytes} {d : Done} (hf : Finishes (imported dig r q n) t h a out d) : Finishes n t h a out d := by
  cases dig <;> exact hf

theorem exec_ctxImport (hr : Runs s h 0x27 x e) (hturn : earlierTouch s x (kindDigest e) = false) (hbad : importBad s x e = none)
    (hn : Reads s n h (readRanges s x e)) : exec (.ctxImport h .none) s = .next (importExecute h x e n) := by
  refine congrArg Host.Outcome.next ((runEntry_runs hr).trans ?_)
  simp only [hturn, hbad, withReads_ready hn, Bool.false_eq_true, if_false]

theorem importExecute_eq (hblob : blobBad n x e (readAll n x (srcRanges n x e)) = none) (hout : exportOut n (kindDigest e) x.ring = some c) :
    importExecute h x e n = complete h e [] { status := stOk } (imported (kindDigest e) x.ring c.state n) := by
  simp only [importExecute, hblob, hout, imported]

/-- What CTX_IMPORT leaves (R247). -/
theorem complete_imported {out : Bytes} {d : Done} (hv : Serving n h x y e) (hop : 0x26 ≤ opcode e) (q : PartState) :
    let t := complete h e out d (imported dig x.ring q n)
    Finishes n t h (dstOf e) out { d with status := okOf x } ∧ openPart t dig x.ring = some q ∧ exportOut t dig x.ring = none := by
  have hve := hv.afterImport (dig := dig) x.ring q
  obtain ⟨hopen, hout, -⟩ := complete_context (dig := dig) (out := out) (d := d) hve hop
  refine ⟨finishes_of_imported hve.complete.finishes, ?_, hout.trans (exportOut_putExport _ _ _)⟩
  exact hopen.trans ((openPart_putExport _ _ _ _ _).trans (openPart_putPart _ _))

end

/-- Settles O44: each entry that passes its checks is executed on the state its reads leave. EXTEND, CTX_EXPORT and CTX_IMPORT first change a register
or a message, which no completion then touches; a signature of QUOTE that fails its check ends the entry and fences its engines. -/
theorem compareExtendQuoteAndContext : Obligations.CompareExtendQuoteAndContext := by
  unfold Obligations.CompareExtendQuoteAndContext
  intro s n h x e
  refine ⟨?compare, ?extend, ?quote, ?ctxExport, ?ctxImport⟩
  case compare =>
    rintro hr hbad hn a b rfl rfl
    have hv := serving_of_reads hr hn
    exact ⟨_, exec_compare hr hbad hn, compareExecute_equal hv, compareExecute_unequal hv⟩
  case extend =>
    rintro hr heng hbad hn hdst hlen i g v rfl rfl rfl
    exact ⟨_, exec_extend hr heng hbad hn hdst, extendExecute_leaves (serving_of_reads hr hn) (hlen ▸ (extendBad_none hbad).2)⟩
  case quote =>
    refine fun hr heng => ⟨fun hphase hbad => ?_, ?_⟩
    · exact ⟨_, exec_quote_hashes hr heng hphase hbad, hashDone_hashed _⟩
    · rintro hphase hc hdst r g out rfl rfl rfl
      exact ⟨_, exec_quote_signs hr heng hphase hdst, quoteExecute_leaves (serving_of_clean hr hc)⟩
  case ctxExport =>
    rintro hr hturn hbad hc hdst q iv u c hq hd rfl
    obtain ⟨hrun, hop, -⟩ := id hr
    have hid : x.id = h := by simpa using List.find?_some (runnable_hamper hrun)
    obtain ⟨⟨z, hv⟩, hbefore⟩ := (serving_of_clean hr hc).drawn hid hd
    obtain ⟨hfin, hleft⟩ := complete_exported hv (by omega) { seq := (ctxSeqOf s x.ring + 1) % 2 ^ 32, state := q }
    exact ⟨_, (exec_ctxExport hr hturn hbad hdst).trans (congrArg _ (exportExecute_eq hq hd)), hbefore _ _ _ _ hfin, hleft⟩
  case ctxImport =>
    rintro hr hturn hbad hn hblob c hout
    obtain ⟨-, hop, -⟩ := id hr
    exact ⟨_, (exec_ctxImport hr hturn hbad hn).trans (congrArg _ (importExecute_eq hblob hout)),
      complete_imported (serving_of_reads hr hn) (by omega) c.state⟩

end Sys2Proof.Proofs
end

section
/-! PROOFS. Checkpoints: what writing the counters of the domains and lowering their issue marks does and leaves, and the inputs that ask for it
(R281, R353, R457); and O33. -/

namespace Sys2Proof.Proofs

open Sys2Proof.Machine Sys2Proof.Safety Sys2Proof.Laws

/-- From `s` to `t` counters have been written to METERS and issue marks lowered: a domain's counters read as before, no counter has become
unwritten, no mark has risen. -/
structure Writes (s t : State) : Prop where
  exist : ∀ d, domExists t d = domExists s d
  meters : ∀ d, domExists s d = true → liveMeters t d = liveMeters s d
  written : ∀ d, assocGet s.live d = none → assocGet t.live d = none
  marks : ∀ d, (domOf t d).issueMark ≤ (domOf s d).issueMark
  issue : t.issue = s.issue
  mono : t.mono = s.mono

section
variable {s t u : State}

theorem Writes.refl (s : State) : Writes s s := ⟨fun _ => rfl, fun _ _ => rfl, fun _ => id, fun _ => le_rfl, rfl, rfl⟩

theorem Writes.trans (h : Writes s t) (k : Writes t u) : Writes s u where
  exist d := (k.exist d).trans (h.exist d)
  meters d hd := (k.meters d ((h.exist d).trans hd)).trans (h.meters d hd)
  written d hd := k.written d (h.written d hd)
  marks d := (k.marks d).trans (h.marks d)
  issue := k.issue.trans h.issue
  mono := k.mono.trans h.mono

theorem writes_foldl {β : Type} {f : State → β → State} (hf : ∀ s b, Writes s (f s b)) (l : List β) (s : State) : Writes s (l.foldl f s) := by
  induction l generalizing s with
  | nil => exact .refl s
  | cons b l ih => exact (hf s b).trans (ih (f s b))

/-- The change of a domain-table entry that leaves STATE and METERS and does not raise the mark. -/
theorem writes_modDom {d : Nat} {f : DomRec → DomRec} (hstate : ∀ r, (f r).state = r.state) (hmeters : ∀ r, (f r).meters = r.meters)
    (hmark : (f (domOf s d)).issueMark ≤ (domOf s d).issueMark) : Writes s (modDom s d f) := by
  refine ⟨fun q => ?_, fun q _ => ?_, fun _ => id, fun q => ?_, rfl, rfl⟩
  · rw [domExists, domExists, domOf_modDom]
    split
    · next hd => rw [hstate, hd]
    · rfl
  · rw [liveMeters, liveMeters, domOf_modDom]
    split
    · next hd => rw [hmeters, hd, modDom_live]
    · rfl
  · rw [domOf_modDom]
    split
    · next hd => exact hd ▸ hmark
    · exact le_rfl

/-! Counters -/

/-- A domain whose counters have been written has none unwritten (R353). -/
theorem live_saveCounters (c d : Nat) (s : State) : assocGet (saveCounters c s).live d = if c = d then none else assocGet s.live d := by
  unfold saveCounters
  split
  · dsimp only
    split <;> exact assocGet_del s.live c d
  · next hc =>
    split
    · next hd => rw [← hd, hc]
    · rfl

/-- Writing the counters of a domain leaves the entry of another, and every mark. -/
theorem domOf_saveCounters (c d : Nat) (s : State) :
    (c ≠ d → domOf (saveCounters c s) d = domOf s d) ∧ (domOf (saveCounters c s) d).issueMark = (domOf s d).issueMark := by
  unfold saveCounters
  split
  · dsimp only
    split
    · rw [domOf_modDom]
      split
      · next hd => exact ⟨fun hne => absurd hd hne, by rw [← hd]; rfl⟩
      · exact ⟨fun _ => rfl, rfl⟩
    · exact ⟨fun _ => rfl, rfl⟩
  · exact ⟨fun _ => rfl, rfl⟩

theorem saveCounters_aside (c : Nat) (s : State) : (saveCounters c s).issue = s.issue ∧ (saveCounters c s).mono = s.mono := by
  unfold saveCounters
  split
  · dsimp only
    split <;> exact ⟨rfl, rfl⟩
  · exact ⟨rfl, rfl⟩

theorem writes_saveCounters (c : Nat) (s : State) : Writes s (saveCounters c s) where
  exist := (completing_saveCounters c s).exist
  meters d hd := by
    by_cases hcd : c = d
    · rw [hcd, liveMeters_saveCounters hd]
    · rw [liveMeters, liveMeters, live_saveCounters, if_neg hcd, (domOf_saveCounters c d s).1 hcd]
  written d hd := by
    rw [live_saveCounters, hd]
    split <;> rfl
  marks d := (domOf_saveCounters c d s).2.le
  issue := (saveCounters_aside c s).1
  mono := (saveCounters_aside c s).2

/-- Of the domains whose counters are written none has unwritten ones left. -/
theorem live_foldl_saveCounters {l : List (Nat × List Nat)} {c : Nat × List Nat} (hc : c ∈ l) (s : State) :
    assocGet (l.foldl (fun s c => saveCounters c.1 s) s).live c.1 = none := by
  induction l generalizing s with
  | nil => cases hc
  | cons b l ih =>
    rcases List.mem_cons.1 hc with rfl | hc
    · have hgone : assocGet (saveCounters c.1 s).live c.1 = none := by rw [live_saveCounters, if_pos rfl]
      exact (writes_foldl (fun s b => writes_saveCounters b.1 s) l _).written c.1 hgone
    · exact ih hc (saveCounters b.1 s)

/-- What a table gives stands in it. -/
theorem mem_of_assocGet {α : Type} {m : Assoc α} {a : Nat} {v : α} (h : assocGet m a = some v) : (a, v) ∈ m := by
  induction m with
  | nil => cases h
  | cons c m ih =>
    rw [assocGet] at h
    split at h
    · next hc => rw [← hc, ← Option.some.inj h]; exact List.mem_cons_self
    · exact List.mem_cons_of_mem _ (ih h)

/-- Once every open record is written, no domain has unwritten counters (R353). -/
theorem live_saveAll (s : State) (d : Nat) : assocGet (s.live.foldl (fun s c => saveCounters c.1 s) s).live d = none := by
  cases hd : assocGet s.live d with
  | none => exact (writes_foldl (fun s c => writes_saveCounters c.1 s) s.live s).written d hd
  | some v => exact live_foldl_saveCounters (mem_of_assocGet hd) s

/-! Issue marks -/

/-- A domain whose issue counter is below its mark has the mark lowered to it (R281). -/
def lowerMark (s : State) (c : Nat × Nat) : State :=
  if domExists s c.1 ∧ c.2 < (domOf s c.1).issueMark then modDom s c.1 (fun r => { r with issueMark := c.2 }) else s

theorem lowerMarks_eq (s : State) : lowerMarks s = s.issue.foldl lowerMark s := rfl

theorem writes_lowerMark (s : State) (c : Nat × Nat) : Writes s (lowerMark s c) := by
  unfold lowerMark
  split
  · next hc => exact writes_modDom (fun _ => rfl) (fun _ => rfl) hc.2.le
  · exact .refl s

theorem issueMark_lowerMark {c : Nat × Nat} (hd : domExists s c.1 = true) : (domOf (lowerMark s c) c.1).issueMark ≤ c.2 := by
  unfold lowerMark
  split
  · rw [domOf_modDom, if_pos rfl]
  · next hc => exact not_lt.1 fun hlt => hc ⟨hd, hlt⟩

/-- No domain of the list has its mark above its counter (R281). -/
theorem issueMark_foldl_lowerMark {l : List (Nat × Nat)} {c : Nat × Nat} (hc : c ∈ l) (hd : domExists s c.1 = true) :
    (domOf (l.foldl lowerMark s) c.1).issueMark ≤ c.2 := by
  induction l generalizing s with
  | nil => cases hc
  | cons b l ih =>
    rcases List.mem_cons.1 hc with rfl | hc
    · exact ((writes_foldl writes_lowerMark l _).marks c.1).trans (issueMark_lowerMark hd)
    · exact ih hc (((writes_lowerMark s b).exist c.1).trans hd)

/-! The checkpoint -/

/-- The time of a checkpoint and the clean-stop marker are put down (R353). -/
theorem writes_stamp (m : Nat) (s : State) : Writes s (modThermos s (fun t => { t with lastCkptMono := m, cleanStop := true })) :=
  ⟨fun _ => rfl, fun _ _ => rfl, fun _ => id, fun _ => le_rfl, rfl, rfl⟩

/-- What a checkpoint writes and leaves (R281, R353). -/
theorem checkpoint_writes (s : State) :
    Writes s (checkpoint s) ∧ (∀ d, assocGet (checkpoint s).live d = none)
      ∧ ∀ c ∈ s.issue, domExists s c.1 = true → (domOf (checkpoint s) c.1).issueMark ≤ c.2 := by
  have hsaved := writes_foldl (fun s c => writes_saveCounters c.1 s) s.live s
  have hlowered := writes_foldl writes_lowerMark (s.live.foldl (fun s c => saveCounters c.1 s) s).issue (s.live.foldl (fun s c => saveCounters c.1 s) s)
  refine ⟨(hsaved.trans hlowered).trans (writes_stamp _ _), fun d => hlowered.written d (live_saveAll s d), fun c hc hd => ?_⟩
  exact issueMark_foldl_lowerMark (hsaved.issue ▸ hc) ((hsaved.exist c.1).trans hd)

/-- `METER_CTL` with CKPT_NOW (R353). -/
theorem writeOperator_ckptNow : writeOperator 0x9C0 1 s = accept (checkpoint s) := rfl

/-- The accepted fall of `PFAIL_N` (R281, R353). -/
theorem pfailAssert_high (hp : s.board.pfailN = true) :
    let u : State := { s with board := { s.board with pfailN := false }, drawsStopped := true, writeThrough := true }
    pfailAssert s = if s.boot.mode = .boot then u else checkpoint u := by
  simp [pfailAssert, hp]

/-- The release of `PFAIL_N` (R281, R353). -/
theorem pfailRelease_low (hp : s.board.pfailN = false) :
    pfailRelease s = { s with
      board := { s.board with pfailN := true }, drawsStopped := false, writeThrough := false
      thermos := { s.thermos with cleanStop := if s.boot.mode = .boot then s.thermos.cleanStop else false } } := by
  simp [pfailRelease, hp, modThermos]

end

/-- Settles O33: a checkpoint writes every open record, then lowers the marks, and each of these steps leaves what the others wrote; the four inputs
carry it out or leave it by the mode. -/
theorem checkpointsWriteCountersAndMarks : Obligations.CheckpointsWriteCountersAndMarks := by
  unfold Obligations.CheckpointsWriteCountersAndMarks
  intro s
  refine ⟨?checkpoint, ?command, ?fall, ?brownout, ?release⟩
  case checkpoint =>
    rintro t rfl
    obtain ⟨hw, hlive, hmarks⟩ := checkpoint_writes s
    refine ⟨fun d hd => ?_, hlive, hmarks, rfl, hw.mono, hw.issue⟩
    have hmeters := hw.meters d hd
    rwa [liveMeters, hlive d] at hmeters
  case command =>
    exact fun p k h => congrArg Host.Outcome.next (regFrame_operator h (by decide) (by decide) (by decide) (by decide) writeOperator_ckptNow)
  case fall =>
    rintro hp u rfl
    exact congrArg Host.Outcome.next (pfailAssert_high hp)
  case brownout =>
    intro hmode
    change Host.Outcome.next (if true && decide (s.boot.mode ≠ .boot) then checkpoint s else s) = _
    simp [hmode]
  case release => exact fun hp => congrArg Host.Outcome.next (pfailRelease_low hp)

end Sys2Proof.Proofs
end

section
/-! PROOFS. What an entry does on the way to its completion: octets that are drawn and a temporary that is placed leave its output, its completion and
its share as they would have been (R268, R278, R286, R343). -/

namespace Sys2Proof.Proofs

open Sys2Proof.Machine Sys2Proof.Safety Sys2Proof.Laws

section
variable {s n u v t : State} {h a : Nat} {x y z : Hamper} {e out rnd : Bytes} {d : Done}

/-- The entry of hamper `h` has gone on from `n` to `u`: its hamper was `y` and is `z`, of which draws and temporaries differ, and beside the hampers
only the random source and the Thermos do. -/
structure Advances (n u : State) (h : Nat) (y z : Hamper) : Prop where
  beside : { u with hampers := n.hampers, rng := n.rng, thermos := n.thermos } = n
  before : hamperOf n h = some y
  after : hamperOf u h = some z
  same : { z with temps := y.temps, streamPos := y.streamPos } = y
  others : ∀ j, j ≠ h → hamperOf u j = hamperOf n j

theorem Advances.refl (hy : hamperOf n h = some y) : Advances n n h y y := ⟨rfl, hy, hy, rfl, fun _ _ => rfl⟩

/-- A part of the state that does not change. -/
theorem Advances.field {α : Type} (ha : Advances n u h y z) (f : State → α)
    (hf : ∀ (v : State) hampers rng thermos, f { v with hampers, rng, thermos } = f v) : f u = f n :=
  (hf u n.hampers n.rng n.thermos).symm.trans (congrArg f ha.beside)

/-- A part of the hamper that does not change. -/
theorem Advances.part {α : Type} (ha : Advances n u h y z) (f : Hamper → α)
    (hf : ∀ (w : Hamper) temps pos, f { w with temps := temps, streamPos := pos } = f w) : f z = f y :=
  (hf z y.temps y.streamPos).symm.trans (congrArg f ha.same)

theorem Advances.trans (h1 : Advances n u h x y) (h2 : Advances u v h y z) : Advances n v h x z where
  beside := by
    have h := h1.beside
    rw [← h2.beside] at h
    exact h
  before := h1.before
  after := h2.after
  same := by
    have h := h1.same
    rw [← h2.same] at h
    exact h
  others j hj := (h2.others j hj).trans (h1.others j hj)

/-- The draws or the temporaries of the hamper change. -/
theorem advances_modHamper {f : Hamper → Hamper} (hy : hamperOf n h = some y) (hid : ∀ w, (f w).id = w.id)
    (hf : { f y with temps := y.temps, streamPos := y.streamPos } = y) : Advances n (modHamper n h f) h y (f y) :=
  ⟨rfl, hy, by rw [hamperOf_modHamper_same hid, hy, Option.map_some], hf, fun _ hj => hamperOf_modHamper_ne hid n hj⟩

/-- A temporary is placed (R278). -/
theorem advances_putTemp (hy : hamperOf n h = some y) (i : Nat) (m : Temp) :
    Advances n (putTemp h i m n) h y { y with temps := assocPut y.temps i m } :=
  advances_modHamper (f := fun w => { w with temps := assocPut w.temps i m }) hy (fun _ => rfl) rfl

/-- The random source changes. -/
theorem advances_rng (hy : hamperOf n h = some y) (r : Rng) : Advances n { n with rng := r } h y y := ⟨rfl, hy, hy, rfl, fun _ _ => rfl⟩

/-- A domain-table entry changes. -/
theorem advances_modDom (hy : hamperOf n h = some y) (i : Nat) (f : DomRec → DomRec) : Advances n (modDom n i f) h y y :=
  ⟨rfl, hy, hy, rfl, fun _ _ => rfl⟩

/-- Octets are drawn (R284, R286). -/
theorem advances_drawFor {m : Nat} (hy : hamperOf n h = some y) (hid : x.id = h) (hd : drawFor x m n = some (rnd, u)) :
    ∃ z, Advances n u h y z ∧ u.thermos = n.thermos := by
  obtain rfl | rfl := drawFor_cases hd
  · exact ⟨y, advances_rng hy _, rfl⟩
  · subst hid
    exact ⟨_, advances_modHamper (f := fun w => { w with streamPos := w.streamPos + m }) hy (fun _ => rfl) rfl, rfl⟩

/-- An entry that has what it draws goes on with it (R285, R286). -/
theorem withDraw_advances {m : Nat} (hy : hamperOf n h = some y) (hid : x.id = h)
    (hd : if m = 0 then rnd = [] else drawFor x m n = some (rnd, u)) :
    ∃ v z, Advances n v h y z ∧ v.thermos = n.thermos ∧ ∀ run, withDraw x m run n = run rnd v := by
  by_cases hm : m = 0
  · rw [if_pos hm] at hd
    exact ⟨n, y, .refl hy, rfl, fun run => by rw [withDraw, if_pos hm, hd]⟩
  · rw [if_neg hm] at hd
    obtain ⟨z, ha, hthermos⟩ := advances_drawFor hy hid hd
    exact ⟨u, z, ha, hthermos, fun run => by rw [withDraw, if_neg hm, hd]⟩

/-! What still holds -/

theorem Advances.serving (ha : Advances n u h y z) (hv : Serving n h x y e) : Serving u h x z e where
  clean := by
    have hmem : u.mem = n.mem := ha.field State.mem fun _ _ _ _ => rfl
    rw [Clean, hmem]
    exact hv.clean
  hamper := ha.after
  cup := (ha.part (·.cupPoison) fun _ _ _ => rfl).trans hv.cup
  ring := (ha.part (·.ring) fun _ _ _ => rfl).trans hv.ring
  status := (ha.part okOf fun _ _ _ => rfl).trans hv.status
  current := (ha.part (fun w => (currentEntry w).map (·.bytes)) fun _ _ _ => rfl).trans hv.current

theorem Advances.shared {j m : Nat} (ha : Advances n u h y z) (hs : Shared x y j m) : Shared x z j m := fun hrep =>
  (ha.part (·.entries) fun _ _ _ => rfl).trans (hs hrep)

theorem Advances.finishes (ha : Advances n u h y z) (hf : Finishes u t h a out d) : Finishes n t h a out d := by
  obtain ⟨z', w, hz, hw, hentries, hengines, hread, harena, hcups, hothers, hrings, hleaf, hports, hkeys⟩ := hf
  obtain rfl : z = z' := Option.some.inj (ha.after.symm.trans hz)
  have hgranted (p b m : Nat) : arenaGranted u p b m = arenaGranted n p b m := ha.field (arenaGranted · p b m) fun _ _ _ _ => rfl
  have hport : z.port = y.port := ha.part (·.port) fun _ _ _ => rfl
  refine ⟨y, w, ha.before, hw, ?_, hengines, ?_, fun b hb => (harena b hb).trans (ha.field (readArena · b 1) fun _ _ _ _ => rfl), fun b hb => ?_,
    fun j hj => (hothers j hj).trans (ha.others j hj), hrings.trans (ha.field State.rings fun _ _ _ _ => rfl),
    hleaf.trans (ha.field State.leaf fun _ _ _ _ => rfl), hports.trans (ha.field State.ports fun _ _ _ _ => rfl),
    hkeys.trans (ha.field State.keys fun _ _ _ _ => rfl)⟩
  · rw [hentries, ha.part (·.entries) fun _ _ _ => rfl]
  · rwa [hgranted, hport] at hread
  · rw [hcups b hb, ha.part (·.cups) fun _ _ _ => rfl]

theorem Advances.selfCheckFails {l : List Nat} (ha : Advances n u h y z) (hf : SelfCheckFails u t h l) : SelfCheckFails n t h l := by
  intro hengine hpower
  have hsev (b src : Nat) : sevOf u b src = sevOf n b src := ha.field (sevOf · b src) fun _ _ _ _ => rfl
  have hshape : Shape u = Shape n := ha.field Shape fun _ _ _ _ => rfl
  obtain ⟨⟨z', w, hz, hw, hentries, hengines⟩, hout⟩ :=
    hf (fun b hb => (hsev b 1).trans_le (hengine b hb)) (fun src => (hsev 16 src).trans_le (hpower src))
  obtain rfl : z = z' := Option.some.inj (ha.after.symm.trans hz)
  exact ⟨⟨y, w, ha.before, hw, by rw [hentries, ha.part (·.entries) fun _ _ _ => rfl], hengines⟩, fun hn => hout (hshape ▸ hn)⟩

/-! How the entry ends then -/

/-- It succeeds (R154, R195, R343). -/
theorem Advances.completes (ha : Advances n u h y z) (hv : Serving n h x y e) :
    Finishes n (complete h e out d u) h (dstOf e) out { d with status := okOf x } :=
  ha.finishes (ha.serving hv).complete.finishes

theorem Advances.counts {j m : Nat} (ha : Advances n u h y z) (hv : Serving n h x y e) (hs : Shared x y j m) :
    Counts (complete h e out d u) h x j m :=
  (ha.serving hv).complete.counts (ha.serving hv) rfl (ha.shared hs)

/-- A completion without output. -/
theorem Serving.finishEntry (hv : Serving n h x y e) (a : Nat) (d : Done) : Finishes n (finishEntry n h d) h a [] d :=
  Ends.finishes ⟨n, y, y, hv.hamper, written_nothing hv.hamper (fun hne => absurd rfl hne), rfl⟩

/-- It fails (R178). -/
theorem Advances.fails (ha : Advances n u h y z) (hv : Serving n h x y e) (a status detail : Nat) :
    Finishes n (failEntry h status detail u) h a [] { status, detail } := by
  rw [failEntry_unpoisoned ha.after (ha.serving hv).cup]
  exact ha.finishes ((ha.serving hv).finishEntry a _)

/-- The end of an entry leaves its hamper's temporaries (R278). -/
theorem temps_finishEntry (hx : hamperOf s h = some x) : ∃ w, hamperOf (finishEntry s h d) h = some w ∧ w.temps = x.temps := by
  have hold : hamperOf (settleCurrent h d s) h = some x := by rw [hamperOf, settleCurrent_hampers]; exact hx
  refine ⟨_, (hamperOf_modHamper_same ?_ _ h).trans (congrArg (Option.map _) hold), rfl⟩
  exact fun _ => rfl

theorem Serving.temps (hv : Serving n h x y e) : ∃ w, hamperOf (Machine.complete h e out d n) h = some w ∧ w.temps = y.temps := by
  obtain ⟨u, y', z, hy', hw, heq⟩ := hv.complete (out := out) (d := d)
  obtain rfl : y = y' := Option.some.inj (hv.hamper.symm.trans hy')
  obtain ⟨w, hwt, htemps⟩ := temps_finishEntry (d := { d with status := okOf x }) hw.hamper
  exact ⟨w, heq ▸ hwt, htemps.trans (by rw [hw.same])⟩

/-- A result is released once its internal check holds; else its engines are fenced (R268). -/
theorem internalFault_leaves {good : Bool} {run : State → State} (ha : Advances n u h y z) (hv : Serving n h x y e) (w : Hamper) :
    (good = true → internalFault h w .none good run u = run u) ∧ (good = false → SelfCheckFails n (internalFault h w .none good run u) h w.engines) := by
  refine ⟨fun hg => by simp [internalFault, hg], fun hg => ?_⟩
  rw [show internalFault h w .none good run u = selfCheckFault h w u by simp [internalFault, hg]]
  exact ha.selfCheckFails ((ha.serving hv).selfCheckFails w)

/-- A command whose entry runs does what its operation does. -/
theorem next_of_runs {op : Nat} {body : Hamper → Bytes → State → State} (hr : Runs s h op x e) (hbody : body x e s = t) :
    (.next (runEntry op h body s) : Host.Outcome State Fault Refusal) = .next t :=
  congrArg _ ((runEntry_runs hr).trans hbody)

/-- The number of the hamper whose entry runs. -/
theorem id_of_runs {op : Nat} (hr : Runs s h op x e) : x.id = h := by
  obtain ⟨hrun, -⟩ := hr
  simpa using List.find?_some (runnable_hamper hrun)

end

end Sys2Proof.Proofs
end

section
/-! PROOFS. SIGN, VERIFY, AGREE, RSA_DECRYPT and MODMATH entries that pass their checks: the hash phase, the public-key phase, and O45 (R263 to R275). -/

namespace Sys2Proof.Proofs

open Sys2Proof.Machine Sys2Proof.Safety Sys2Proof.Laws

section
variable {s n u t : State} {h : Nat} {x y z : Hamper} {e m w rnd : Bytes} {k : Key} {ko : Option Key}

theorem withRoom_ready {j : Nat} {run : State → State} (hdst : dstReady s (dstOf e) j = true) : withRoom e j run s = run s := by
  rw [withRoom, if_pos hdst]

/-! SIGN -/

/-- SIGN of a message that has not been hashed (R263, R271). -/
theorem signRun_unhashed (heng : x.engines ≠ []) (hearly : signEarly e = none)
    (hkey : keyStep s x (slotOf e) (pkJudge useSign [privateType (schemeOf e)]) = .key k) (hphase : x.hashed = false)
    (hlater : signLater s x e k = none) (hn : Reads (takeShare h x 1 1 s) n h (readRanges s x e)) (hdst : dstReady n (dstOf e) (dstLenOf e) = true) :
    signRun .none h x e s = if hashesFirst e then hashDone h (readAll n x (srcRanges n x e)) n
      else signExecute h .none x e k (readAll n x (srcRanges n x e)) n := by
  simp only [signRun, hearly, awaitsGrant_granted heng, hkey, hphase, hlater, withPk_granted heng, withReads_ready hn, withRoom_ready hdst,
    Bool.false_eq_true, if_false]

/-- SIGN in its public-key phase (R271). -/
theorem signRun_hashed (heng : x.engines ≠ []) (hearly : signEarly e = none)
    (hkey : keyStep s x (slotOf e) (pkJudge useSign [privateType (schemeOf e)]) = .key k) (hphase : x.hashed = true)
    (hdst : dstReady s (dstOf e) (dstLenOf e) = true) : signRun .none h x e s = signExecute h .none x e k x.template s := by
  simp only [signRun, hearly, awaitsGrant_granted heng, hkey, hphase, withPk_granted heng, withRoom_ready hdst, Bool.false_eq_true, if_false, if_true]

/-- The state `n` in which SIGN begins its public-key phase, and the octets `w` that it signs: its message, or what its hash phase kept (R263, R271). -/
def SignsFrom (s n : State) (h : Nat) (x : Hamper) (e w : Bytes) (k : Key) : Prop :=
  (x.hashed = true ∧ n = s ∧ Clean s ∧ w = x.template) ∨ (x.hashed = false ∧ hashesFirst e = false ∧ signLater s x e k = none
    ∧ Reads (takeShare h x 1 1 s) n h (readRanges s x e) ∧ w = readAll n x (srcRanges n x e))

/-- SIGN begins its public-key phase; an entry that did not hash has its share (R271, R344). -/
theorem signRun_signs (hr : Runs s h 0x30 x e) (heng : x.engines ≠ []) (hearly : signEarly e = none)
    (hkey : keyStep s x (slotOf e) (pkJudge useSign [privateType (schemeOf e)]) = .key k) (hdst : dstReady n (dstOf e) (dstLenOf e) = true)
    (hfrom : SignsFrom s n h x e w k) :
    ∃ y, Serving n h x y e ∧ (x.hashed = false → Shared x y 1 1) ∧ signRun .none h x e s = signExecute h .none x e k w n := by
  rcases hfrom with ⟨hphase, rfl, hc, rfl⟩ | ⟨hphase, hfirst, hlater, hn, rfl⟩
  · exact ⟨x, serving_of_clean hr hc, fun hnot => by simp [hphase] at hnot, signRun_hashed heng hearly hkey hphase hdst⟩
  · obtain ⟨y, hv, hs⟩ := serving_of_share hr hn
    have hrun := signRun_unhashed heng hearly hkey hphase hlater hn hdst
    rw [if_neg (by simp [hfirst])] at hrun
    exact ⟨y, hv, fun _ => hs, hrun⟩

/-- What SIGN leaves on its public-key engine (R268, R271). -/
theorem signExecute_leaves (hv : Serving n h x y e) (hid : x.id = h)
    (hd : if signDraw e = 0 then rnd = [] else drawFor x (signDraw e) n = some (rnd, u)) :
    let t := signExecute h .none x e k w n; let g := signBytes e (prehashed e) k rnd w
    (signGood e (prehashed e) k rnd w g = true →
        Finishes n t h (dstOf e) g { status := okOf x, len := g.length } ∧ ∀ j i, Shared x y j i → Counts t h x j i)
      ∧ (signGood e (prehashed e) k rnd w g = false → SelfCheckFails n t h x.engines) := by
  dsimp only
  obtain ⟨v, z, ha, -, hrun⟩ := withDraw_advances hv.hamper hid hd
  rw [signExecute, hrun]
  obtain ⟨hgood, hbad⟩ := internalFault_leaves ha hv x
  refine ⟨fun hg => ?_, hbad⟩
  rw [hgood hg]
  exact ⟨ha.completes hv, fun j i hs => ha.counts hv hs⟩

/-! VERIFY -/

/-- The key of a VERIFY: one it brings, or one of the key store (R266, R272). -/
def VerifyKey (s : State) (x : Hamper) (e : Bytes) (ko : Option Key) : Prop :=
  if keyInline e then ko = none
  else ∃ k, ko = some k ∧ keyStep s x (slotOf e) (pkJudge useVerify [privateType (schemeOf e), publicType (schemeOf e)]) = .key k

/-- VERIFY of a message that has not been hashed (R263, R272). -/
theorem verifyRun_unhashed (heng : x.engines ≠ []) (hearly : verifyEarly e = none) (hkey : VerifyKey s x e ko) (hphase : x.hashed = false)
    (hlater : verifyLater s x e = none)
    (hn : Reads (takeShare h x 2 1 s) n h (readRanges s x e ++ if hashesFirst e then [] else verifyExtra e)) :
    verifyRun .none h x e s = if hashesFirst e then hashDone h (readAll n x (srcRanges n x e)) n
      else verifyExecute h .none x e ko (readAll n x (srcRanges n x e)) n := by
  unfold verifyRun
  by_cases hin : keyInline e = true
  case neg =>
    rw [VerifyKey, if_neg hin] at hkey
    obtain ⟨k, rfl, hkey⟩ := hkey
    simp only [hearly, hin, awaitsGrant_granted heng, hkey, hphase, hlater, Bool.false_eq_true, if_false]
    rw [withPk_granted heng, withReads_ready hn]
  case pos =>
    rw [VerifyKey, if_pos hin] at hkey
    subst hkey
    simp only [hearly, hin, hphase, hlater, Bool.false_eq_true, if_false, if_true]
    rw [withPk_granted heng, withReads_ready hn]

/-- VERIFY in its public-key phase (R272). -/
theorem verifyRun_hashed (heng : x.engines ≠ []) (hearly : verifyEarly e = none) (hkey : VerifyKey s x e ko) (hphase : x.hashed = true)
    (hn : Reads s n h (verifyExtra e)) : verifyRun .none h x e s = verifyExecute h .none x e ko x.template n := by
  unfold verifyRun
  by_cases hin : keyInline e = true
  case neg =>
    rw [VerifyKey, if_neg hin] at hkey
    obtain ⟨k, rfl, hkey⟩ := hkey
    simp only [hearly, hin, awaitsGrant_granted heng, hkey, hphase, Bool.false_eq_true, if_false, if_true]
    rw [withPk_granted heng, withReads_ready hn]
  case pos =>
    rw [VerifyKey, if_pos hin] at hkey
    subst hkey
    simp only [hearly, hin, hphase, if_true]
    rw [withPk_granted heng, withReads_ready hn]

/-- The state `n` in which VERIFY begins its public-key phase, and the octets `w` whose signature it checks (R263, R272). -/
def VerifiesFrom (s n : State) (h : Nat) (x : Hamper) (e w : Bytes) : Prop :=
  (x.hashed = true ∧ Reads s n h (verifyExtra e) ∧ w = x.template) ∨ (x.hashed = false ∧ hashesFirst e = false ∧ verifyLater s x e = none
    ∧ Reads (takeShare h x 2 1 s) n h (readRanges s x e ++ verifyExtra e) ∧ w = readAll n x (srcRanges n x e))

/-- VERIFY begins its public-key phase; an entry that did not hash has its share (R272, R344). -/
theorem verifyRun_verifies (hr : Runs s h 0x31 x e) (heng : x.engines ≠ []) (hearly : verifyEarly e = none) (hkey : VerifyKey s x e ko)
    (hfrom : VerifiesFrom s n h x e w) :
    ∃ y, Serving n h x y e ∧ (x.hashed = false → Shared x y 2 1) ∧ verifyRun .none h x e s = verifyExecute h .none x e ko w n := by
  rcases hfrom with ⟨hphase, hn, rfl⟩ | ⟨hphase, hfirst, hlater, hn, rfl⟩
  · exact ⟨x, serving_of_reads hr hn, fun hnot => by simp [hphase] at hnot, verifyRun_hashed heng hearly hkey hphase hn⟩
  · obtain ⟨y, hv, hs⟩ := serving_of_share hr hn
    have hnot : ¬hashesFirst e = true := by simp [hfirst]
    have hrun := verifyRun_unhashed (n := n) (h := h) heng hearly hkey hphase hlater (by rwa [if_neg hnot])
    rw [if_neg hnot] at hrun
    exact ⟨y, hv, fun _ => hs, hrun⟩

/-- The public key of a VERIFY, and its public exponent (R272, R298). -/
def verifyPub (n : State) (x : Hamper) (e : Bytes) : Option Key → Bytes
  | some k => publicOctets k
  | none => readAt n x (pubRange e).1 (pubRange e).2
def verifyExponent (e : Bytes) : Option Key → Nat
  | some k => k.param
  | none => leAt (paramOf e) 0x18 4

/-- The verdict of a VERIFY over a message or its digest (R272). -/
def verifyVerdict (n : State) (x : Hamper) (e : Bytes) (ko : Option Key) (w : Bytes) : SigVerdict :=
  verifySig e (verifyPub n x e ko) (verifyExponent e ko) w (readAt n x (sigRange e).1 (sigRange e).2)

/-- VERIFY of a valid public key ends by its verdict (R272). -/
theorem verifyExecute_verdict {v : SigVerdict} (hvalid : publicOk (schemeOf e) (verifyPub n x e ko) (verifyExponent e ko) = true)
    (hcup : ((hamperOf n h).map (·.cupPoison)).getD false = false) (hv : verifyVerdict n x e ko w = v) :
    verifyExecute h .none x e ko w n = if v = .holds then complete h e [] { status := stOk, param := some (withPair e pairMatch) } n
      else finishEntry n h { status := stVerifyFail, detail := if v = .malformed then 0x50 else 0, param := some (withPair e pairMismatch) } := by
  cases ko
  all_goals
    rw [verifyVerdict, verifyPub, verifyExponent] at hv
    rw [verifyPub, verifyExponent] at hvalid
    cases v <;> simp [verifyExecute, hvalid, hv, hcup]

/-- What VERIFY of a valid public key leaves on its public-key engine (R272). -/
theorem verifyExecute_leaves (hv : Serving n h x y e) (hvalid : publicOk (schemeOf e) (verifyPub n x e ko) (verifyExponent e ko) = true) :
    let t := verifyExecute h .none x e ko w n; let v := verifyVerdict n x e ko w
    (v = .holds → Finishes n t h (dstOf e) [] { status := okOf x, param := some (withPair e pairMatch) } ∧ ∀ j i, Shared x y j i → Counts t h x j i)
      ∧ (v ≠ .holds → Finishes n t h (dstOf e) [] {
          status := stVerifyFail, detail := if v = .malformed then 0x50 else 0, param := some (withPair e pairMismatch) }) := by
  have hself := Advances.refl hv.hamper
  dsimp only
  rw [verifyExecute_verdict hvalid (by simp [hv.hamper, hv.cup]) rfl]
  refine ⟨fun hholds => ?_, fun hdiffers => ?_⟩
  · rw [if_pos hholds]
    exact ⟨hself.completes hv, fun j i hs => hself.counts hv hs⟩
  · rw [if_neg hdiffers]
    exact hv.finishEntry _ _

/-! AGREE -/

/-- The key of an AGREE: an ephemeral one whose octets `rnd` are drawn, or one of the key store (R266, R273). -/
def AgreeKey (s n : State) (x : Hamper) (e : Bytes) (ko : Option Key) (rnd : Bytes) (u : State) : Prop :=
  if ephemeral e then ko = none ∧ drawFor x (keyDraw (schemeOf e)) n = some (rnd, u)
  else ∃ k, ko = some k ∧ keyStep s x (slotOf e) (pkJudge useAgree [privateType (schemeOf e)]) = .key k

/-- AGREE (R273). -/
theorem agreeRun_executes (heng : x.engines ≠ []) (hearly : agreeEarly e = none) (hkey : AgreeKey s n x e ko rnd u) (hlater : agreeLater s x e = none)
    (hn : Reads (takeShare h x 1 1 s) n h (readRanges s x e)) (hdst : dstReady n (dstOf e) (dstLenOf e) = true) :
    agreeRun .none h x e s = agreeExecute h .none x e ko n := by
  unfold agreeRun
  by_cases hephemeral : ephemeral e = true
  case neg =>
    rw [AgreeKey, if_neg hephemeral] at hkey
    obtain ⟨k, rfl, hkey⟩ := hkey
    simp only [hearly, hephemeral, awaitsGrant_granted heng, hkey, hlater, Bool.false_eq_true, if_false]
    rw [withPk_granted heng, withReads_reads hn hdst]
  case pos =>
    rw [AgreeKey, if_pos hephemeral] at hkey
    obtain ⟨rfl, -⟩ := hkey
    simp only [hearly, hephemeral, hlater, if_true]
    rw [withPk_granted heng, withReads_reads hn hdst]

/-- The secret octets and scalar of an AGREE, and the public key that an ephemeral one returns (R273). -/
def agreePrivate (rnd : Bytes) : Option Key → Bytes
  | some k => slice k.value 0 32
  | none => rnd
def agreeScalar (e rnd : Bytes) : Option Key → Nat
  | some k => beNat (slice k.value 0 (coordLen (schemeOf e)))
  | none => privateFrom (schemeOf e) rnd
def agreeOutput (e rnd : Bytes) (ko : Option Key) : Bytes :=
  if ko.isSome then [] else if schemeOf e = 0x12 then xPub (agreePrivate rnd ko) else ecPub (curveOf (schemeOf e)) (agreeScalar e rnd ko)

/-- The temporary that holds the secret of an AGREE (R278). -/
def agreeTemp (ko : Option Key) (c : Bytes) : Temp := { typ := 0x08, cls := (ko.map (·.cls)).getD clsGuarded, usage := 2 ^ useDerive, value := c }

/-- The end of an AGREE whose secret is `c`; there is none with a peer that fails its validation (R273, R278). -/
def agreeEnd (h : Nat) (e rnd : Bytes) (ko : Option Key) (v : State) : Option Bytes → State
  | some c =>
    complete h e (agreeOutput e rnd ko) { status := stOk, len := (agreeOutput e rnd ko).length } (putTemp h (byteAt (paramOf e) 3) (agreeTemp ko c) v)
  | none => failEntry h stBadParam 0x32 v

/-- AGREE that has what it draws ends by its secret (R264, R273). -/
theorem agreeExecute_ends (hy : hamperOf n h = some y) (hid : x.id = h) (hkey : AgreeKey s n x e ko rnd u) :
    ∃ v z, Advances n v h y z ∧ agreeExecute h .none x e ko n = agreeEnd h e rnd ko v
      (agreeSecret (schemeOf e) (agreePrivate rnd ko) (agreeScalar e rnd ko) (readAll n x (srcRanges n x e))) := by
  unfold AgreeKey at hkey
  unfold agreeExecute
  cases ko
  case none =>
    have hd : drawFor x (keyDraw (schemeOf e)) n = some (rnd, u) := by
      split at hkey
      · exact hkey.2
      · simp at hkey
    have hdraw : keyDraw (schemeOf e) ≠ 0 := by
      unfold keyDraw
      split <;> omega
    obtain ⟨v, z, ha, -, hrun⟩ := withDraw_advances (m := keyDraw (schemeOf e)) hy hid (by rw [if_neg hdraw]; exact hd)
    refine ⟨v, z, ha, ?_⟩
    simp only [Option.isNone_none, Option.any_none, reduceCtorEq, false_and, Bool.false_eq_true, if_false, if_true, hrun]
    split
    all_goals
      next hsecret =>
        rw [agreePrivate, agreeScalar, hsecret]
        rfl
  case some k =>
    refine ⟨n, y, .refl hy, ?_⟩
    have hseal : sealSplit .none k e = false := rfl
    simp only [withDraw, hseal, Option.isNone_some, Option.any_some, reduceCtorEq, false_and, Bool.false_eq_true, if_false, if_true]
    split
    all_goals
      next hsecret =>
        rw [agreePrivate, agreeScalar, hsecret]
        rfl

/-- An AGREE whose peer passes its validation (R273, R278, R343). -/
theorem agreeEnd_secret {c : Bytes} (ha : Advances n u h y z) (hv : Serving n h x y e) :
    let t := agreeEnd h e rnd ko u (some c); let out := agreeOutput e rnd ko
    ∃ w, Finishes n t h (dstOf e) out { status := okOf x, len := out.length } ∧ (∀ j i, Shared x y j i → Counts t h x j i)
      ∧ hamperOf t h = some w ∧ assocGet w.temps (byteAt (paramOf e) 3) = some (agreeTemp ko c) := by
  have hput := ha.trans (advances_putTemp ha.after (byteAt (paramOf e) 3) (agreeTemp ko c))
  obtain ⟨w, hw, htemps⟩ := (hput.serving hv).temps (out := agreeOutput e rnd ko) (d := { status := stOk, len := (agreeOutput e rnd ko).length })
  exact ⟨w, hput.completes hv, fun j i hs => hput.counts hv hs, hw, by rw [htemps, assocGet_put, if_pos rfl]⟩

/-! RSA_DECRYPT -/

/-- RSA_DECRYPT (R274). -/
theorem rsaRun_executes (heng : x.engines ≠ []) (hearly : rsaEarly e = none) (hkey : keyStep s x (slotOf e) (pkJudge useDecrypt [0x20]) = .key k)
    (hlater : rsaLater s x e k = none) (hn : Reads (takeShare h x 1 1 s) n h (readRanges s x e ++ labelReads e))
    (hdst : dstReady n (dstOf e) (dstLenOf e) = true) : rsaRun .none h x e s = rsaExecute h .none x e k n := by
  simp only [rsaRun, hearly, awaitsGrant_granted heng, hkey, hlater, withPk_granted heng, withReads_reads hn hdst, Bool.false_eq_true, if_false]

/-- The decoded message of an RSA_DECRYPT, if there is one (R264, R274). -/
def rsaMessage (n : State) (x : Hamper) (e : Bytes) (k : Key) : Option Bytes :=
  let c := beNat (readAll n x (srcRanges n x e))
  if rsaModulus k ≤ c then none else oaepDecode (byteAt (paramOf e) 0) (readAll n x (labelReads e)) (toBe (rsaLen k) (rsaPrivate k c))

/-- The internal check of an RSA_DECRYPT (R268). -/
def rsaGood (n : State) (x : Hamper) (e : Bytes) (k : Key) : Bool :=
  let c := beNat (readAll n x (srcRanges n x e))
  decide (rsaModulus k ≤ c) || powMod (rsaPrivate k c) k.param (rsaModulus k) == c

/-- The end of an RSA_DECRYPT whose internal check holds (R274). -/
def rsaEnd (h : Nat) (e : Bytes) (n : State) : Option Bytes → State
  | some v => complete h e v { status := stOk, len := v.length } n
  | none => failEntry h stAuthFail 0x42 n

theorem rsaExecute_eq : rsaExecute h .none x e k n = internalFault h x .none (rsaGood n x e k) (fun s => rsaEnd h e s (rsaMessage n x e k)) n := by
  have hbig (c : Nat) (v : Option Bytes) : (if decide (rsaModulus k ≤ c) = true then none else v) = if rsaModulus k ≤ c then none else v := by
    simp only [decide_eq_true_eq]
  simp only [rsaExecute, rsaGood, rsaMessage, hbig]
  rfl

/-- What RSA_DECRYPT leaves (R268, R274). -/
theorem rsaExecute_leaves (hv : Serving n h x y e) :
    let t := rsaExecute h .none x e k n
    (∀ v, rsaGood n x e k = true → rsaMessage n x e k = some v →
        Finishes n t h (dstOf e) v { status := okOf x, len := v.length } ∧ ∀ j i, Shared x y j i → Counts t h x j i)
      ∧ (rsaGood n x e k = true → rsaMessage n x e k = none → Finishes n t h (dstOf e) [] { status := stAuthFail, detail := 0x42 })
      ∧ (rsaGood n x e k = false → SelfCheckFails n t h x.engines) := by
  have hself := Advances.refl hv.hamper
  dsimp only
  rw [rsaExecute_eq]
  obtain ⟨hgood, hbad⟩ := internalFault_leaves (good := rsaGood n x e k) (run := fun s => rsaEnd h e s (rsaMessage n x e k)) hself hv x
  refine ⟨fun v hg hmessage => ?_, fun hg hmessage => ?_, hbad⟩
  · rw [hgood hg, hmessage]
    exact ⟨hself.completes hv, fun j i hs => hself.counts hv hs⟩
  · rw [hgood hg, hmessage]
    exact hself.fails hv _ _ _

/-! MODMATH -/

theorem exec_modmath (hr : Runs s h 0x34 x e) (heng : x.engines ≠ []) (hbad : modBad s x e = none) (hn : Reads s n h (readRanges s x e ++ modExtra e))
    (hdst : dstReady n (dstOf e) (modLen e) = true) : exec (.modmath h .none) s = .next (modExecute h x e n) := by
  refine next_of_runs hr ?_
  simp only [hbad, withPk_granted heng, withReads_reads hn hdst]

/-- The result of a MODMATH, if there is one (R275). -/
def modResult (e : Bytes) (a b q : Nat) : Option Nat :=
  if modOp e = 0 then some (powMod a b q) else if modOp e = 1 then some (a * b % q) else inverseOf a q

/-- The end of a MODMATH on legal operands (R275). -/
def modEnd (h : Nat) (e : Bytes) (n : State) : Option Nat → State
  | some v => complete h e (toBe (modLen e) v) { status := stOk, len := modLen e } n
  | none => failEntry h stBadParam 0x35 n

theorem modExecute_eq {a b q : Nat} (ha : a = beNat (readAll n x (srcRanges n x e))) (hb : b = beNat (readAt n x (modB e).1 (modB e).2))
    (hq : q = beNat (readAt n x (modM e).1 (modM e).2)) (hodd : q % 2 = 1) (hlow : 3 ≤ q) (hlt : a < q) (hmul : modOp e = 1 → b < q) :
    modExecute h x e n = modEnd h e n (modResult e a b q) := by
  have hlegal : ¬(q % 2 = 0 ∨ q < 3 ∨ q ≤ a ∨ (modOp e = 1 ∧ q ≤ b)) := by
    rintro (h | h | h | ⟨hop, h⟩)
    · omega
    · omega
    · omega
    · exact absurd (hmul hop) (by omega)
  subst ha hb hq
  simp only [modExecute, hlegal, if_false]
  split
  all_goals
    next hresult =>
      rw [modResult, hresult]
      rfl

/-- What MODMATH leaves (R275). -/
theorem modEnd_leaves (hv : Serving n h x y e) :
    (∀ v, Finishes n (modEnd h e n (some v)) h (dstOf e) (toBe (modLen e) v) { status := okOf x, len := modLen e })
      ∧ Finishes n (modEnd h e n none) h (dstOf e) [] { status := stBadParam, detail := 0x35 } :=
  have hself := Advances.refl hv.hamper
  ⟨fun _ => hself.completes hv, hself.fails hv _ _ _⟩

end

/-- Settles O45: an entry that passes its checks hashes its message, or is executed on the state its reads and draws leave, and each end of the
execution is a completion, a failure or the fence of a failed internal check there. -/
theorem publicKeyEntries : Obligations.PublicKeyEntries := by
  unfold Obligations.PublicKeyEntries
  rintro s n h x e m rnd u heng rfl hdst
  refine ⟨?sign, ?verify, ?agree, ?rsa, ?modmath⟩
  case sign =>
    intro k hr hearly hkey
    refine ⟨fun hphase hfirst hlater hn => ?_, ?_⟩
    · have hrun := signRun_unhashed heng hearly hkey hphase hlater hn hdst
      rw [if_pos hfirst] at hrun
      exact ⟨_, next_of_runs hr hrun, hashDone_hashed _⟩
    · rintro w g hfrom hd rfl
      obtain ⟨y, hv, hs, hrun⟩ := signRun_signs hr heng hearly hkey hdst hfrom
      obtain ⟨hgood, hbad⟩ := signExecute_leaves (k := k) (w := w) hv (id_of_runs hr) hd
      exact ⟨_, next_of_runs hr hrun, fun hg => (hgood hg).imp_right fun hc hphase => hc 1 1 (hs hphase), hbad⟩
  case verify =>
    intro ko pub ex hr hearly hkey
    refine ⟨fun hphase hfirst hlater hn => ?_, ?_⟩
    · have hrun := verifyRun_unhashed (n := n) (h := h) heng hearly hkey hphase hlater (by rwa [if_pos hfirst, List.append_nil])
      rw [if_pos hfirst] at hrun
      exact ⟨_, next_of_runs hr hrun, hashDone_hashed _⟩
    · rintro w v hfrom hpub hex hvalid rfl
      obtain rfl : pub = verifyPub n x e ko := by cases ko <;> exact hpub
      obtain rfl : ex = verifyExponent e ko := by cases ko <;> exact hex
      obtain ⟨y, hv, hs, hrun⟩ := verifyRun_verifies hr heng hearly hkey hfrom
      obtain ⟨hholds, hdiffers⟩ := verifyExecute_leaves (ko := ko) (w := w) hv hvalid
      exact ⟨_, next_of_runs hr hrun, fun hh => (hholds hh).imp_right fun hc hphase => hc 2 1 (hs hphase), hdiffers⟩
  case agree =>
    intro ko priv d hr hearly hkey hlater hn hpriv hscalar
    obtain rfl : priv = agreePrivate rnd ko := by cases ko <;> exact hpriv
    obtain rfl : d = agreeScalar e rnd ko := by cases ko <;> exact hscalar
    obtain ⟨y, hv, hs⟩ := serving_of_share hr hn
    obtain ⟨v, z, ha, hend⟩ := agreeExecute_ends hv.hamper (id_of_runs hr) hkey
    have hexec : exec (.agree h .none) s = .next (agreeExecute h .none x e ko n) :=
      next_of_runs hr (agreeRun_executes heng hearly hkey hlater hn hdst)
    rw [hexec, hend]
    refine ⟨?_, fun hsecret => ?_⟩
    · rintro c out hsecret rfl
      rw [hsecret]
      obtain ⟨w, hfin, hcount, hw, htemp⟩ := agreeEnd_secret (rnd := rnd) (ko := ko) (c := c) ha hv
      exact ⟨_, w, rfl, hfin, hcount 1 1 hs, hw, htemp⟩
    · rw [hsecret]
      exact ⟨_, rfl, ha.fails hv _ _ _⟩
  case rsa =>
    rintro k w hr hearly hkey hlater hn good rfl rfl
    obtain ⟨y, hv, hs⟩ := serving_of_share hr hn
    obtain ⟨hdecodes, hrest⟩ := rsaExecute_leaves (k := k) hv
    exact ⟨_, next_of_runs hr (rsaRun_executes heng hearly hkey hlater hn hdst),
      fun v hg hmessage => (hdecodes v hg hmessage).imp_right fun hc => hc 1 1 hs, hrest⟩
  case modmath =>
    rintro b q r hr hbad hn hdst hb hq hodd hlow hlt hmul rfl
    have hexec := exec_modmath hr heng hbad hn hdst
    rw [modExecute_eq rfl hb hq hodd hlow hlt hmul] at hexec
    obtain ⟨hsome, hnone⟩ := modEnd_leaves (serving_of_reads hr hn)
    refine ⟨_, hexec, fun v hresult => ?_, fun hresult => ?_⟩
    · rw [modResult, hresult]
      exact hsome v
    · rw [modResult, hresult]
      exact hnone

end Sys2Proof.Proofs
end

section
/-! PROOFS. ISSUE: the number it draws, the template it hashes, the signature it releases (R276 to R281). -/

namespace Sys2Proof.Proofs

open Sys2Proof.Machine Sys2Proof.Safety Sys2Proof.Laws

section
variable {s n u t : State} {h : Nat} {x y z : Hamper} {e m w rnd : Bytes} {k : Key} {c wall : Nat}

/-! The draw -/

/-- In DEBUG a draw takes the number of the domain's debug counter (R130). -/
theorem drawIssue_debug {d : Nat} (hmode : s.boot.mode = .debug) :
    drawIssue d s = { s with debugIssue := assocPut s.debugIssue d (nextIssue s d + 1) } := by simp [drawIssue, hmode]

/-- A domain-table entry with a mark (R280). -/
def withMark (m : Nat) (r : DomRec) : DomRec := { r with issueMark := m }

/-- At its mark a draw reserves 256 numbers first, below it none (R280). -/
theorem drawIssue_marked {d : Nat} (hmode : s.boot.mode ≠ .debug) :
    drawIssue d s = { (if (domOf s d).issueMark ≤ nextIssue s d then modDom s d (withMark (nextIssue s d + 256)) else s) with
      issue := assocPut s.issue d (nextIssue s d + 1) } := by
  simp only [drawIssue, hmode, if_false]
  split <;> rfl

/-- A draw takes the domain's next issue number, below whose mark it stands outside DEBUG (R130, R280). -/
theorem drawIssue_number (d : Nat) (s : State) :
    nextIssue (drawIssue d s) d = nextIssue s d + 1 ∧ (s.boot.mode ≠ .debug → nextIssue s d < (domOf (drawIssue d s) d).issueMark) := by
  by_cases hmode : s.boot.mode = .debug
  · refine ⟨?_, fun h => absurd hmode h⟩
    rw [drawIssue_debug hmode]
    simp [nextIssue, hmode, assocGetD, assocGet_put]
  · rw [drawIssue_marked hmode]
    by_cases hmark : (domOf s d).issueMark ≤ nextIssue s d
    · rw [if_pos hmark]
      refine ⟨by simp [nextIssue, hmode, assocGet_put], fun _ => ?_⟩
      change _ < (domOf (modDom s d (withMark _)) d).issueMark
      rw [domOf_modDom, if_pos rfl]
      exact Nat.lt_add_of_pos_right (by decide)
    · rw [if_neg hmark]
      exact ⟨by simp [nextIssue, hmode, assocGet_put], fun _ => not_le.1 hmark⟩

/-- A draw leaves the hampers, the memory and the rings. -/
theorem drawIssue_aside (d : Nat) (s : State) :
    (drawIssue d s).hampers = s.hampers ∧ (drawIssue d s).mem = s.mem ∧ (drawIssue d s).rings = s.rings := by
  by_cases hmode : s.boot.mode = .debug
  · rw [drawIssue_debug hmode]
    exact ⟨rfl, rfl, rfl⟩
  · rw [drawIssue_marked hmode]
    split <;> exact ⟨rfl, rfl, rfl⟩

/-- A hamper whose ISSUE has drawn its number and the wall time of that moment (R277). -/
def drewIssue (c wall : Nat) (y : Hamper) : Hamper := { y with drawn := some (c, wall) }

/-- An ISSUE that may draw does (R277, R279 to R281). -/
theorem issueDraw_eq (hreplay : x.replay = none) (hopen : n.drawsStopped = false) (hrules : issueRules n x e = none) (hcap : capBad n x 0 1 = none)
    (hmain : canServe n ((mainNeed n x e).getD []) = true) (hdigest : canServe n [digestPds] = true) :
    ∃ dups, issueDraw h x e n =
      { modHamper (drawIssue x.domain (takeShare h x 0 1 n)) h
          (drewIssue (nextIssue n x.domain) (if timeFmt e = 0 then 0 else wallOf n)) with dups := dups } := by
  simp only [issueDraw, hreplay, hopen, hrules, hcap, hmain, hdigest, orBad, Bool.and_self, Bool.not_true, Bool.false_eq_true, if_false]
  exact ⟨_, rfl⟩

/-- A hamper whose current entry has its share of ISSUES (R343). -/
def countIssue (y : Hamper) : Hamper := { y with entries := shareFirst (0, 1) y.entries }

/-- What the draw of an ISSUE leaves (R280, R343). -/
theorem issueDraw_leaves (hx : hamperOf n h = some x) (hreplay : x.replay = none) (hopen : n.drawsStopped = false) (hrules : issueRules n x e = none)
    (hcap : capBad n x 0 1 = none) (hmain : canServe n ((mainNeed n x e).getD []) = true) (hdigest : canServe n [digestPds] = true) :
    let t := issueDraw h x e n; let c := nextIssue n x.domain
    hamperOf t h = some (drewIssue c (if timeFmt e = 0 then 0 else wallOf n) (countIssue x))
      ∧ nextIssue t x.domain = c + 1 ∧ (n.boot.mode ≠ .debug → c < (domOf t x.domain).issueMark) ∧ t.mem = n.mem ∧ t.rings = n.rings := by
  obtain ⟨dups, heq⟩ := issueDraw_eq (h := h) hreplay hopen hrules hcap hmain hdigest
  have hshare : takeShare h x 0 1 n = modHamper n h countIssue := by
    simp only [takeShare, hreplay, Option.isSome_none, Bool.false_eq_true, if_false]
    rfl
  obtain ⟨hnext, hmark⟩ := drawIssue_number x.domain (modHamper n h countIssue)
  obtain ⟨hhampers, hmem, hrings⟩ := drawIssue_aside x.domain (modHamper n h countIssue)
  dsimp only
  rw [heq, hshare]
  refine ⟨?_, hnext, hmark, hmem, hrings⟩
  have hcounted : hamperOf (drawIssue x.domain (modHamper n h countIssue)) h = some (countIssue x) := by
    rw [hamperOf, hhampers]
    exact (hamperOf_modHamper_same (f := countIssue) (fun _ => rfl) n h).trans (by rw [hx, Option.map_some])
  exact (hamperOf_modHamper_same (f := drewIssue _ _) (fun _ => rfl) _ h).trans (by rw [hcounted, Option.map_some])

/-- An ISSUE needs no engine until it has drawn (R277). -/
theorem awaitsGrant_undrawn (hop : opcode e = 0x38) (hdrawn : x.drawn = none) : awaitsGrant s x e = false := by
  simp [awaitsGrant, entryNeed, hop, hdrawn]

theorem issueRun_draws (hop : opcode e = 0x38) (hearly : issueEarly e = none) (hdrawn : x.drawn = none) (hphase : x.hashed = false)
    (hkey : keyStep s x (slotOf e) (pkJudge useIssue [privateType (schemeOf e)]) = .key k) (hlater : issueLater s x e k = none)
    (hn : Reads s n h (readRanges s x e)) : issueRun .none h x e s = issueDraw h x e n := by
  simp only [issueRun, hearly, hdrawn, hphase, awaitsGrant_undrawn hop hdrawn, hkey, hlater, withReads_ready hn, Option.isSome_none, Bool.false_and,
    Bool.false_eq_true, if_false]

/-! The hash -/

theorem issueRun_hashes (heng : x.engines ≠ []) (hearly : issueEarly e = none) (hdrawn : x.drawn = some (c, wall)) (hphase : x.hashed = false)
    (hn : Reads s n h (readRanges s x e)) : issueRun .none h x e s = hashDone h (splice e (readAll n x (srcRanges n x e)) c wall) n := by
  simp only [issueRun, hearly, hdrawn, hphase, withPk_granted heng, withReads_ready hn, issueHash, Option.isSome_some, Bool.not_false, Bool.and_self,
    if_true]

/-! The signature -/

theorem issueRun_signs (heng : x.engines ≠ []) (hearly : issueEarly e = none) (hphase : x.hashed = true)
    (hkey : keyStep s x (slotOf e) (pkJudge useIssue [privateType (schemeOf e)]) = .key k) (hdst : dstReady s (dstOf e) (dstLenOf e) = true) :
    issueRun .none h x e s = issueExecute h .none x e k s := by
  simp only [issueRun, hearly, hphase, awaitsGrant_granted heng, hkey, withPk_granted heng, withRoom_ready hdst, Bool.not_true, Bool.and_false,
    Bool.false_eq_true, if_false, if_true]

/-- `W_last` moves with an ISSUE that has a time field, not in a replay (R195, R279). -/
def timeIssued (x : Hamper) (e : Bytes) (wall : Nat) (v : State) : State :=
  if timeFmt e ≠ 0 ∧ domExists v x.domain = true ∧ x.replay = none then modDom v x.domain (fun r => { r with wLast := wall }) else v

theorem advances_timeIssued (hy : hamperOf n h = some y) : Advances n (timeIssued x e wall n) h y y := by
  unfold timeIssued
  split
  · exact advances_modDom hy _ _
  · exact .refl hy

theorem wLast_timeIssued (htime : timeFmt e ≠ 0) (hd : domExists n x.domain = true) (hreplay : x.replay = none) :
    (domOf (timeIssued x e wall n) x.domain).wLast = wall := by
  rw [timeIssued, if_pos ⟨htime, hd, hreplay⟩, domOf_modDom, if_pos rfl]

/-- The end of an ISSUE whose signature `g` holds, on a state in which no cup of its hamper is poisoned (R277, R279). -/
def issueEnd (h : Nat) (x : Hamper) (e g : Bytes) (c wall : Nat) (v : State) : State :=
  complete h e (x.template ++ g) { status := stOk, len := (x.template ++ g).length, issueNo := c } (timeIssued x e wall v)

/-- ISSUE that has what it draws ends by its internal check (R268, R277). -/
theorem issueExecute_ends (hv : Serving s h x y e) (hid : x.id = h) (hdrawn : x.drawn = some (c, wall))
    (hd : if signDraw e = 0 then rnd = [] else drawFor x (signDraw e) s = some (rnd, u)) :
    let g := signBytes e false k rnd x.template
    ∃ v z, Advances s v h y z ∧ v.thermos = s.thermos
      ∧ (signGood e false k rnd x.template g = true → issueExecute h .none x e k s = issueEnd h x e g c wall v)
      ∧ (signGood e false k rnd x.template g = false → SelfCheckFails s (issueExecute h .none x e k s) h x.engines) := by
  dsimp only
  obtain ⟨v, z, ha, hthermos, hrun⟩ := withDraw_advances hv.hamper hid hd
  refine ⟨v, z, ha, hthermos, ?_⟩
  simp only [issueExecute, hdrawn]
  rw [hrun]
  obtain ⟨hgood, hbad⟩ := internalFault_leaves ha hv x
  refine ⟨fun hg => (hgood hg).trans ?_, hbad⟩
  have hcup : ((hamperOf v h).map (·.cupPoison)).getD false = false := by simp [ha.after, (ha.serving hv).cup]
  have hlate : (timeFmt e != 0 && domExists v x.domain && !((hamperOf v h).map (·.cupPoison)).getD false && x.replay.isNone) = true
      ↔ timeFmt e ≠ 0 ∧ domExists v x.domain = true ∧ x.replay = none := by simp [hcup, and_assoc]
  rw [issueEnd, timeIssued]
  congr 1
  exact if_congr hlate rfl rfl

/-- What an ISSUE whose signature holds leaves (R277, R279). -/
theorem issueEnd_leaves {g : Bytes} (ha : Advances s u h y z) (hv : Serving s h x y e) (hthermos : u.thermos = s.thermos) :
    let t := issueEnd h x e g c wall u
    Finishes s t h (dstOf e) (x.template ++ g) { status := okOf x, len := (x.template ++ g).length, issueNo := c }
      ∧ (timeFmt e ≠ 0 → domExists s x.domain = true → x.replay = none → (domOf t x.domain).wLast = wall) := by
  have htimed := ha.trans (advances_timeIssued (x := x) (e := e) (wall := wall) ha.after)
  refine ⟨htimed.completes hv, fun htime hd hreplay => ?_⟩
  have hvt := htimed.serving hv
  have hkept : (issueEnd h x e g c wall u).thermos = (timeIssued x e wall u).thermos :=
    (ending_complete hvt.clean hvt.hamper hvt.cup).field State.thermos fun _ => rfl
  have hexists : domExists u x.domain = true := by rw [domExists, domOf, hthermos]; exact hd
  rw [domOf, hkept]
  exact wLast_timeIssued htime hexists hreplay

end

end Sys2Proof.Proofs
end

section
/-! PROOFS. Derivations, RANDOM and ATTEST entries that pass their checks; and O46 (R282 to R288). -/

namespace Sys2Proof.Proofs

open Sys2Proof.Machine Sys2Proof.Safety Sys2Proof.Laws

section
variable {s n u t : State} {h : Nat} {x y z : Hamper} {e m w rnd : Bytes} {k : Key}

/-! DERIVE_EXPORT and DERIVE_TEMP -/

/-- The two derivations. -/
theorem exec_derive {op : Nat} {c : Instr} (hc : (op, c) ∈ ([(0x40, .deriveExport h .none), (0x41, .deriveTemp h .none)] : List (Nat × Instr))) :
    exec c s = .next (runEntry op h (deriveRun .none h) s) ∧ (op = 0x40 ∨ op = 0x41) := by
  simp only [List.mem_cons, List.not_mem_nil, or_false, Prod.mk.injEq] at hc
  obtain ⟨rfl, rfl⟩ | ⟨rfl, rfl⟩ := hc
  · exact ⟨rfl, .inl rfl⟩
  · exact ⟨rfl, .inr rfl⟩

/-- A derivation is executed (R224, R283). -/
theorem deriveRun_executes (heng : x.engines ≠ []) (hearly : (if opcode e = 0x40 then exportEarly e else tempEarly e) = none)
    (hkey : keyStep s x (slotOf e) (deriveJudge e) = .key k) (hlater : deriveLater s x e = none) (hrng : prfOf e = 0 → s.rng.stopped = false)
    (hn : Reads (takeShare h x 3 1 s) n h (readRanges s x e)) (hdst : dstReady n (dstOf e) (outLen e) = true) :
    deriveRun .none h x e s = deriveExecute h .none x e k n := by
  simp only [deriveRun, hearly, awaitsGrant_granted heng, hkey, hlater, withEngines_granted heng, Bool.false_eq_true, if_false]
  by_cases hprf : prfOf e = 0
  · rw [if_pos hprf, withMasks, rng_takeShare, hrng hprf]
    exact withReads_reads hn hdst
  · rw [if_neg hprf]
    exact withReads_reads hn hdst

/-- The octets that a derivation gives (R282). -/
def derivedOctets (n : State) (x : Hamper) (e : Bytes) (k : Key) : Bytes := derived e (keyOctets k) (readAll n x (srcRanges n x e))

theorem deriveExecute_temp (hop : opcode e = 0x41) :
    deriveExecute h .none x e k n = complete h e [] { status := stOk }
      (putTemp h (byteAt (paramOf e) 3) (derivedTemp e k (derivedOctets n x e k)) n) := by
  simp [deriveExecute, sealSplit, hop, derivedOctets]

theorem deriveExecute_inline (hop : opcode e = 0x40) (hbit : bit (flags e) 8 = true) :
    deriveExecute h .none x e k n = complete h e [] {
      status := stOk, len := (derivedOctets n x e k).length, param := some (inlineParam (derivedOctets n x e k)) } n := by
  simp [deriveExecute, sealSplit, hop, hbit, derivedOctets]

theorem deriveExecute_output (hop : opcode e = 0x40) (hbit : bit (flags e) 8 = false) :
    deriveExecute h .none x e k n =
      complete h e (derivedOctets n x e k) { status := stOk, len := (derivedOctets n x e k).length } n := by
  simp [deriveExecute, sealSplit, hop, hbit, derivedOctets]

/-- What a derivation leaves (R278, R283, R343). -/
theorem deriveExecute_leaves {op : Nat} (hv : Serving n h x y e) (hs : Shared x y 3 1) (hop : opcode e = op) (hcode : op = 0x40 ∨ op = 0x41) :
    let t := deriveExecute h .none x e k n; let v := derivedOctets n x e k
    ∃ w, hamperOf t h = some w ∧ Counts t h x 3 1
      ∧ (op = 0x40 → bit (flags e) 8 = true → Finishes n t h (dstOf e) [] { status := okOf x, len := v.length, param := some (inlineParam v) })
      ∧ (op = 0x40 → bit (flags e) 8 = false → Finishes n t h (dstOf e) v { status := okOf x, len := v.length })
      ∧ (op = 0x41 → Finishes n t h (dstOf e) [] { status := okOf x } ∧ assocGet w.temps (byteAt (paramOf e) 3) = some (derivedTemp e k v)) := by
  have hself := Advances.refl hv.hamper
  dsimp only
  rcases hcode with rfl | rfl
  · cases hbit : bit (flags e) 8
    case true =>
      rw [deriveExecute_inline hop hbit]
      obtain ⟨w, hw, -⟩ := hv.temps (out := []) (d := {
        status := stOk, len := (derivedOctets n x e k).length, param := some (inlineParam (derivedOctets n x e k)) })
      exact ⟨w, hw, hself.counts hv hs, fun _ _ => hself.completes hv, by simp, by simp⟩
    case false =>
      rw [deriveExecute_output hop hbit]
      obtain ⟨w, hw, -⟩ := hv.temps (out := derivedOctets n x e k) (d := { status := stOk, len := (derivedOctets n x e k).length })
      exact ⟨w, hw, hself.counts hv hs, by simp, fun _ _ => hself.completes hv, by simp⟩
  · rw [deriveExecute_temp hop]
    have hput := advances_putTemp hv.hamper (byteAt (paramOf e) 3) (derivedTemp e k (derivedOctets n x e k))
    obtain ⟨w, hw, htemps⟩ := (hput.serving hv).temps (out := []) (d := { status := stOk })
    exact ⟨w, hw, hput.counts hv hs, by simp, by simp, fun _ => ⟨hput.completes hv, by rw [htemps, assocGet_put, if_pos rfl]⟩⟩

/-! RANDOM -/

/-- The random source of a RANDOM, after the reseed that it may ask for (R287). -/
def randomSource (e : Bytes) (s : State) : State := if bit (flags e) 9 && rngReady s then { s with rng := reseeded s.rng } else s

/-- RANDOM draws at least one octet (R287). -/
theorem countOf_pos (hbad : randomBad s x e = none) : countOf e ≠ 0 := by
  obtain ⟨hown, -⟩ := orBad_none hbad
  obtain ⟨hcount, -⟩ := firstBad_cons (firstBad_cons hown).2
  simp only [Bool.or_eq_false_iff, decide_eq_false_iff_not] at hcount
  omega

theorem exec_random (hr : Runs s h 0x01 x e) (hbad : randomBad s x e = none) (hdst : dstReady s (dstOf e) (countOf e) = true) :
    exec (.random h .none) s = .next (randomExecute h x e s) := by
  refine next_of_runs hr ?_
  simp only [hbad, withRoom_ready hdst]

/-- The end of a RANDOM with the octets it drew (R287). -/
def randomEnd (h : Nat) (e v : Bytes) (s : State) : State :=
  if bit (flags e) 8 then complete h e [] { status := stOk, len := v.length, param := some (inlineParam v) } s
  else complete h e v { status := stOk, len := v.length } s

theorem randomExecute_ends (hv : Serving s h x y e) (hid : x.id = h) (hcount : countOf e ≠ 0)
    (hd : drawFor x (countOf e) (randomSource e s) = some (rnd, u)) : ∃ v z, Advances s v h y z ∧ randomExecute h x e s = randomEnd h e rnd v := by
  have hsource : Advances s (randomSource e s) h y y := by
    unfold randomSource
    split
    · exact advances_rng hv.hamper _
    · exact .refl hv.hamper
  obtain ⟨v, z, ha, -, hrun⟩ := withDraw_advances hsource.after hid (by rw [if_neg hcount]; exact hd)
  exact ⟨v, z, hsource.trans ha, hrun (randomEnd h e)⟩

/-- What RANDOM leaves (R287). -/
theorem randomEnd_leaves (ha : Advances s u h y z) (hv : Serving s h x y e) :
    if bit (flags e) 8 then Finishes s (randomEnd h e rnd u) h (dstOf e) [] { status := okOf x, len := rnd.length, param := some (inlineParam rnd) }
    else Finishes s (randomEnd h e rnd u) h (dstOf e) rnd { status := okOf x, len := rnd.length } := by
  unfold randomEnd
  split
  · exact ha.completes hv
  · exact ha.completes hv

/-! ATTEST -/

theorem exec_attest_hashes (hr : Runs s h 0x51 x e) (heng : x.engines ≠ []) (hphase : x.hashed = false) (hbad : attestBad s x e = none)
    (hroot : (rootOf s).isSome = true) : exec (.attest h .none) s = .next (hashDone h (attestBody s x e) s) := by
  refine next_of_runs hr ?_
  have hsome : (rootOf s).isNone = false := by simpa using hroot
  simp only [hphase, hbad, hsome, withPk_granted heng, attestHash, Bool.false_eq_true, if_false]

theorem exec_attest_signs (hr : Runs s h 0x51 x e) (heng : x.engines ≠ []) (hphase : x.hashed = true) (hdst : dstReady s (dstOf e) 304 = true) :
    exec (.attest h .none) s = .next (attestExecute h .none x e s) := by
  refine next_of_runs hr ?_
  simp only [hphase, if_true, withPk_granted heng, withRoom_ready hdst]

theorem exec_attest_unsigned (hr : Runs s h 0x51 x e) (hphase : x.hashed = false) (hbad : attestBad s x e = none) (hroot : rootOf s = none)
    (hdst : dstReady s (dstOf e) 208 = true) : exec (.attest h .none) s = .next (attestUnsigned h x e s) := by
  refine next_of_runs hr ?_
  simp only [hphase, hbad, hroot, Option.isNone_none, withRoom_ready hdst, Bool.false_eq_true, if_false, if_true]

/-- The signature of ATTEST (R288). -/
def attestSig (s : State) (x : Hamper) : Bytes := deviceSign ((rootOf s).getD []) 3 x.template

/-- The internal check of that signature (R268). -/
def attestGood (s : State) (x : Hamper) : Bool := deviceSigned ((rootOf s).getD []) 3 x.template (attestSig s x)

theorem attestExecute_eq : attestExecute h .none x e s = internalFault h x .none (attestGood s x)
    (complete h e (x.template ++ attestSig s x) { status := stOk, len := (x.template ++ attestSig s x).length }) s := rfl

/-- ATTEST on its public-key engine releases its signature or not (R268, R288). -/
theorem attestExecute_leaves (hv : Serving s h x y e) :
    let t := attestExecute h .none x e s; let out := x.template ++ attestSig s x
    (attestGood s x = true → Finishes s t h (dstOf e) out { status := okOf x, len := out.length })
      ∧ (attestGood s x = false → SelfCheckFails s t h x.engines) := by
  have hself := Advances.refl hv.hamper
  dsimp only
  rw [attestExecute_eq]
  obtain ⟨hgood, hbad⟩ := internalFault_leaves (good := attestGood s x)
    (run := complete h e (x.template ++ attestSig s x) { status := stOk, len := (x.template ++ attestSig s x).length }) hself hv x
  refine ⟨fun hg => ?_, hbad⟩
  rw [hgood hg]
  exact hself.completes hv

/-- ATTEST without a root leaves its body unsigned (R288). -/
theorem attestUnsigned_leaves (hv : Serving s h x y e) :
    Finishes s (attestUnsigned h x e s) h (dstOf e) (attestBody s x e) { status := stKeyMissing, detail := 0x40, len := 208 } := by
  obtain ⟨z, hw⟩ := writeAt_written (a := dstOf e) (out := attestBody s x e) hv.clean hv.hamper
  exact Ends.finishes ⟨_, y, z, hv.hamper, hw, by simp [attestUnsigned, hv.hamper, hv.cup]⟩

end

/-- Settles O46: an ISSUE draws, hashes and signs in three runs, of which the first two leave it unfinished; each of the other entries is executed on the
state its reads and draws leave, and ends there. -/
theorem issueDeriveRandomAndAttest : Obligations.IssueDeriveRandomAndAttest := by
  unfold Obligations.IssueDeriveRandomAndAttest
  rintro s n h x e m rnd u rfl
  refine ⟨?issue, ?derive, ?random, ?attest⟩
  case issue =>
    intro k c w hr hearly
    obtain ⟨-, hop, -⟩ := id hr
    refine ⟨?draw, fun hdrawn hphase heng hn => ?hash, ?sign⟩
    case draw =>
      rintro hdrawn hphase hreplay hkey hlater hn hopen hrules hcap hmain hdigest rfl rfl
      have hx := (serving_of_reads hr hn).hamper
      exact ⟨_, next_of_runs hr (issueRun_draws hop hearly hdrawn hphase hkey hlater hn), issueDraw_leaves hx hreplay hopen hrules hcap hmain hdigest⟩
    case hash =>
      exact ⟨_, next_of_runs hr (issueRun_hashes heng hearly hdrawn hphase hn), hashDone_hashed _⟩
    case sign =>
      rintro hdrawn hphase heng hc hdst hkey hd g out rfl rfl
      have hv := serving_of_clean hr hc
      obtain ⟨v, z, ha, hthermos, hgood, hbad⟩ := issueExecute_ends (k := k) hv (id_of_runs hr) hdrawn hd
      refine ⟨_, next_of_runs hr (issueRun_signs heng hearly hphase hkey hdst), fun hg => ?_, hbad⟩
      rw [hgood hg]
      exact issueEnd_leaves ha hv hthermos
  case derive =>
    rintro op c k v hc hr heng hearly hkey hlater hrng hn hdst rfl
    obtain ⟨hexec, hcode⟩ := exec_derive (s := s) hc
    obtain ⟨-, hop, -⟩ := id hr
    obtain ⟨y, hv, hs⟩ := serving_of_share hr hn
    rw [runEntry_runs hr, deriveRun_executes heng (by rwa [hop]) hkey hlater hrng hn hdst] at hexec
    obtain ⟨w, hleft⟩ := deriveExecute_leaves (k := k) hv hs hop hcode
    exact ⟨_, w, hexec, hleft⟩
  case random =>
    intro hr hbad hc hdst hd
    have hv := serving_of_clean hr hc
    obtain ⟨v, z, ha, hend⟩ := randomExecute_ends hv (id_of_runs hr) (countOf_pos hbad) hd
    exact ⟨_, (exec_random hr hbad hdst).trans (congrArg _ hend), randomEnd_leaves ha hv⟩
  case attest =>
    intro hr hc
    have hv := serving_of_clean hr hc
    refine ⟨fun hphase hbad hroot heng => ?hash, ?sign, fun hphase hbad hroot hdst => ?unsigned⟩
    case hash => exact ⟨_, exec_attest_hashes hr heng hphase hbad hroot, hashDone_hashed _⟩
    case sign =>
      rintro hphase heng hdst r g out rfl rfl rfl
      exact ⟨_, exec_attest_signs hr heng hphase hdst, attestExecute_leaves hv⟩
    case unsigned => exact ⟨_, exec_attest_unsigned hr hphase hbad hroot hdst, attestUnsigned_leaves hv⟩

end Sys2Proof.Proofs
end

section
/-! PROOFS. A load that ends while an entry's engines await it: the keys are put, and the entry reaches its key-store step; and O50 (R300, R305). -/

namespace Sys2Proof.Proofs

open Sys2Proof.Machine Sys2Proof.Safety Sys2Proof.Laws Sys2Proof.Tests

/-- The keys that a load has found, in their slots (R305). -/
def withKeys (ks : List (Nat × Key)) (s : State) : State := { s with keys := ks.foldl (fun m c => assocPut m c.1 c.2) s.keys }

section
variable {s : State} {x : Hamper} {k : Key}

/-! The key-store step -/

/-- A handle whose slot holds its key resolves to it (R300). -/
theorem resolve_loaded {h : Nat} (hpos : 0 < h) (hlt : h < 0x4000) (hactive : domActive s x.domain = true)
    (hslots : inSlots (domOf s x.domain) h = true) (hkey : slotKey s h = some (h, k)) : resolve s x h = .key k := by
  unfold resolve
  rw [if_neg (by omega), if_neg (by omega), if_neg (by omega), if_neg (by omega), if_neg (by simp [hactive]), if_neg (by simp [hslots])]
  simp [hkey]

/-- The key-store step of an entry whose key is loaded and has no seal (R300, R306). -/
theorem heldKey_loaded {t : TakenEntry} (hcurrent : currentEntry x = some t) (hkey : resolve s x (slotOf t.bytes) = .key k)
    (hopen : k.sealMeas = 0) : heldKey s x = some (.key k none) := by
  simp [heldKey, hcurrent, hkey, sealCheck, hopen]

/-- An entry whose engines await a load reaches its key-store step, and its hamper keeps what the step gives (R300). -/
theorem hampers_settleHeld_ne (hx : x ∈ s.hampers) (hawaits : x.awaiting = true) (hheld : x.held = none) (hstep : heldKey s x ≠ none) :
    (settleHeld s).hampers ≠ s.hampers := by
  intro hsame
  have hfixed := List.map_inj_left.1 (hsame.trans (List.map_id s.hampers).symm) x hx
  simp only [hawaits, hheld, Option.isNone_none, Bool.and_self, if_true, id] at hfixed
  exact hstep ((congrArg Hamper.held hfixed).trans hheld)

/-! The end of a load -/

/-- Keeping a checked manifest changes the kept manifests alone (R305). -/
theorem keepManifest_frame (d : Nat) (s : State) : ∃ l, keepManifest d s = { s with manifests := l } := by
  unfold keepManifest
  split
  · exact ⟨_, rfl⟩
  split
  · exact ⟨_, rfl⟩
  · exact ⟨_, rfl⟩

variable {d h : Nat} {ks : List (Nat × Key)} (hload : s.loads.contains (d, h) = true) (hport : s.mp.flashOk = true → mpReady s = true)
  (hrng : rngReady s = true) (hempty : slotKey s h = none) (hactive : domActive s d = true) (hok : loadOutcome s d h = .ok ks)
include hload hport hrng hempty hactive hok

/-- An awaited load that finds its keys puts them into their slots; the loads of their seals begin (R305). -/
theorem finishLoad_ok : ∃ l lo p, finishLoad d h s = { withKeys ks s with manifests := l, loads := lo, power := p } := by
  let seals := (ks.filter (fun c => c.2.sealMeas != 0)).map (·.2.sealRef)
  let u : State := { s with loads := s.loads.filter (· != (d, h)) }
  have hready : ((s.mp.flashOk && !mpReady s) || !rngReady s) = false := by
    cases hf : s.mp.flashOk
    · simp [hrng]
    · simp [hrng, hport hf]
  have hneeded : ((slotKey u h).isSome || !domActive u d) = false := by
    rw [show slotKey u h = none from hempty, show domActive u d = true from hactive]
    rfl
  have hfound : loadOutcome u d h = .ok ks := hok
  have hdone : finishLoad d h s = requestLoads d seals (storeKeys d ks u) := by
    simp only [finishLoad, hload, hready, Bool.not_true, Bool.false_eq_true, if_false]
    rw [if_neg (ne_true_of_eq_false hneeded), hfound]
  obtain ⟨l, hkept⟩ := keepManifest_frame d (withKeys ks u)
  obtain ⟨lo, p, hseals⟩ := requestLoads_frame d seals (storeKeys d ks u)
  have hstored : storeKeys d ks u = { withKeys ks u with manifests := l } := hkept
  exact ⟨l, lo, p, by rw [hdone, hseals, hstored]; rfl⟩

/-- The load of a key without a seal changes the hamper whose engines await it (R300, R305). -/
theorem hampers_keyLoadDone_ne {t : TakenEntry} (hx : x ∈ s.hampers) (hdomain : x.domain = d) (hawaits : x.awaiting = true) (hheld : x.held = none)
    (hcurrent : currentEntry x = some t) (hslot : slotOf t.bytes = h) (hpos : 0 < h) (hlt : h < 0x4000) (hslots : inSlots (domOf s d) h = true)
    (hkey : slotKey (withKeys ks s) h = some (h, k)) (hopen : k.sealMeas = 0) : (settleHeld (finishLoad d h s)).hampers ≠ s.hampers := by
  obtain ⟨l, lo, p, hput⟩ := finishLoad_ok hload hport hrng hempty hactive hok
  let u : State := { withKeys ks s with manifests := l, loads := lo, power := p }
  subst hdomain hslot
  have hstep : resolve u x (slotOf t.bytes) = .key k := resolve_loaded hpos hlt hactive hslots hkey
  rw [hput]
  exact hampers_settleHeld_ne (s := u) hx hawaits hheld (heldKey_loaded hcurrent hstep hopen ▸ Option.some_ne_none _)

end

/-! The counterexample -/

/-- A CIPHER entry of the key at handle 9. -/
def awaitingEnt : Bytes := ent (hd 0x10 0) 9 0 0x410000 16 0x420000 16 (zeros 32)
/-- The hamper that has been granted its engine while that key is being loaded. -/
def awaiter : Hamper := { running awaitingEnt [0] with awaiting := true }
/-- The device that is loading the key, with that hamper. -/
def awaited : State :=
  modPd { loading with rings := [(0, { ring0 with tail := 1 })], hampers := [awaiter] } 0 (fun d => { d with running := some (.hamper 7) })

/-- The load finds the key at handle 9, which has no seal. -/
theorem awaited_loads : ∃ ks k, loadOutcome awaited 5 9 = .ok ks ∧ slotKey (withKeys ks awaited) 9 = some (9, k) ∧ k.sealMeas = 0 := by
  have hfound : (match loadOutcome awaited 5 9 with
    | .ok ks => (slotKey (withKeys ks awaited) 9).any (fun c => c.1 == 9 && c.2.sealMeas == 0)
    | .error _ => false) = true := by decide +kernel
  cases hload : loadOutcome awaited 5 9 with
  | error f => simp [hload] at hfound
  | ok ks =>
    simp only [hload, Option.any_eq_true, Bool.and_eq_true, beq_iff_eq] at hfound
    obtain ⟨⟨j, k⟩, hkey, rfl, hopen⟩ := hfound
    exact ⟨ks, k, rfl, hkey, hopen⟩

/-- Refutes O50: its clause on KEY_LOAD_DONE wants every hamper to stand, but where an entry's engines await the load, its end is the entry's
key-store step, and the hamper keeps the step's outcome (R300). A CIPHER entry on its engine awaits the key at handle 9; once that is loaded, the
hamper holds it. -/
theorem not_envelopeRepeatsReplaysAndLoads : ¬ Obligations.EnvelopeRepeatsReplaysAndLoads := by
  intro h
  obtain ⟨ks, k, hok, hkey, hopen⟩ := awaited_loads
  have hload : awaited.loads.contains (5, 9) = true := by decide +kernel
  have hport : mpReady awaited = true := by decide +kernel
  have hrng : rngReady awaited = true := by decide +kernel
  have hempty : slotKey awaited 9 = none := by decide +kernel
  have hactive : domActive awaited 5 = true := by decide +kernel
  have hslot : slotOf awaitingEnt = 9 := by decide +kernel
  have hslots : inSlots (domOf awaited 5) 9 = true := by decide +kernel
  obtain ⟨-, -, hdone⟩ := h {} awaited awaited 0 awaiter [] []
  obtain ⟨t, ht, -, -, -, hstand, -⟩ := hdone 5 9 ks hload (fun _ => hport) hrng hempty hactive hok
  obtain rfl : settleHeld (finishLoad 5 9 awaited) = t := Host.Outcome.next.inj ht
  exact hampers_keyLoadDone_ne hload (fun _ => hport) hrng hempty hactive hok (List.mem_singleton_self awaiter) rfl rfl rfl rfl hslot (by decide)
    (by decide) hslots hkey hopen hstand

end Sys2Proof.Proofs
end

section
/-! PROOFS. What a step is and what it keeps: the canonical forms, the parts of the machine, the queue behind it and time (R338), and the forms of
the reset state. -/

namespace Sys2Proof.Proofs

open Sys2Proof.Machine Sys2Proof.Safety Sys2Proof.Laws

/-- A step is a tick of the clock, or a command run on the rest of the queue. -/
theorem step_cases {s t : State} (h : step s = .next t) :
    t = tick s ∨ ∃ c rest, s.pending = c :: rest ∧ exec c { s with pending := rest } = .next t := by
  unfold step at h
  split at h
  next => exact .inl (Host.Outcome.next.inj h).symm
  next c rest hp => exact .inr ⟨c, rest, hp, h⟩

/-- The forms every command keeps, the loss of the backup node included, which only takes the time. -/
theorem exec_forms {c : Instr} {s t : State} (h : exec c s = .next t) :
    (Canonical s → Canonical t) ∧ (Shape s → Shape t) ∧ t.pending = s.pending := by
  by_cases hc : ∃ b, c = .backupNodePowerUp b
  · obtain ⟨b, rfl⟩ := hc
    obtain ⟨hcanon, hshape, hqueue, -⟩ := execBackupNodePowerUp_forms b h
    exact ⟨hcanon, hshape, hqueue⟩
  · obtain ⟨hcanon, hshape, hqueue, -⟩ := exec_keeps (not_exists.1 hc) h
    exact ⟨hcanon, hshape, hqueue⟩

/-- Settles O1: `step` takes the command from the front. -/
theorem stepRunsFront : Obligations.StepRunsFront := by
  intro s c rest hp
  rw [step, hp]

/-- Settles O3: each command has a meaning of its own, and every meaning answers a next state. -/
theorem everyCommandAnswersNext : Obligations.EveryCommandAnswersNext := by
  intro c s
  cases c <;> exact ⟨_, rfl⟩

/-- Settles O4: the reset state is written out, so each register is read off it. -/
theorem resetLeavesBoot : Obligations.ResetLeavesBoot := by
  refine ⟨rfl, rfl, rfl, ?_, rfl, rfl, rfl, rfl, rfl, rfl, rfl, fun _ => rfl, fun _ => rfl, rfl, rfl, rfl, rfl, rfl, rfl⟩
  show ∀ p < 4, portOf State.reset p = portReset
  decide

/-- Settles O5: at reset every sparse memory and table is empty, and the lists of parts have the lengths the spec counts. -/
theorem resetHasTheForms : Obligations.ResetHasTheForms := by
  refine ⟨⟨rfl, rfl, rfl, fun x hx => ?_, rfl, rfl⟩, rfl, rfl, rfl, rfl, rfl, rfl, rfl, rfl⟩
  exact absurd hx List.not_mem_nil

/-- Settles O6: a tick keeps the canonical forms, and so does every command. -/
theorem stepKeepsCanonical : Obligations.StepKeepsCanonical := by
  intro s t hs h
  obtain rfl | ⟨c, rest, -, he⟩ := step_cases h
  · obtain ⟨hcanon, -⟩ := keeps_tick (Keeps.refl s)
    exact hcanon hs
  · obtain ⟨hcanon, -⟩ := exec_forms he
    exact hcanon hs

/-- Settles O7: a tick keeps the parts of the machine, and so does every command. -/
theorem stepKeepsShape : Obligations.StepKeepsShape := by
  intro s t hs h
  obtain rfl | ⟨c, rest, -, he⟩ := step_cases h
  · obtain ⟨-, hshape, -⟩ := keeps_tick (Keeps.refl s)
    exact hshape hs
  · obtain ⟨-, hshape, -⟩ := exec_forms he
    exact hshape hs

/-- Settles O8: the queue is none of what a command writes. -/
theorem commandsLeaveTheQueue : Obligations.CommandsLeaveTheQueue := by
  intro c s t h
  obtain ⟨-, -, hqueue⟩ := exec_forms h
  exact hqueue

/-- Settles O9: a tick moves the clock on, and of the commands only the loss of the backup node sets it back (R338). -/
theorem timeNeverRunsBack : Obligations.TimeNeverRunsBack := by
  intro s t hb h
  obtain rfl | ⟨c, rest, hp, he⟩ := step_cases h
  · obtain ⟨-, -, -, -, hmono⟩ := keeps_tick (Keeps.refl s)
    exact hmono
  · have hc : ∀ b, c ≠ .backupNodePowerUp b := fun b hcb => hb b (by rw [hp, hcb]; rfl)
    obtain ⟨-, -, -, -, hmono⟩ := exec_keeps hc he
    exact hmono

end Sys2Proof.Proofs
end

section
/-! PROOFS. Time that passes up to the next meter boundary (R338, R345, R346): one boundary is processed, since no event of it changes the interval
of a device that still runs; and O2. -/

namespace Sys2Proof.Proofs

open Sys2Proof.Machine Sys2Proof.Safety Sys2Proof.Laws

section
variable {s s0 t u : State}

/-- What still runs in OPERATIONAL did so before, with the same interval to come (R345). -/
def Paced (s t : State) : Prop := t.boot.mode = .operational → s.boot.mode = .operational ∧ nextInterval t = nextInterval s

theorem Paced.refl (s : State) : Paced s s := fun h => ⟨h, rfl⟩

theorem Paced.trans (h : Paced s t) (k : Paced t u) : Paced s u := fun hm =>
  ⟨(h (k hm).1).1, (k hm).2.trans (h (k hm).1).2⟩

/-- What leaves mode and intervals alone. -/
theorem paced_aside (hs : Paced s0 s) (hmode : t.boot.mode = s.boot.mode) (hinterval : nextInterval t = nextInterval s) : Paced s0 t :=
  hs.trans fun h => ⟨hmode ▸ h, hinterval⟩

theorem paced_recordOnly (b src detail sev : Nat) (dom : Option Nat) (hs : Paced s0 s) : Paced s0 (recordOnly b src detail sev dom s) :=
  paced_aside hs rfl rfl

/-- The entry to QUARANTINE never leads to OPERATIONAL: in BOOT the mode stays BOOT (R135). -/
theorem mode_enterQuarantine (b src : Nat) (s : State) : (enterQuarantine b src s).boot.mode ≠ .operational := by
  by_cases hm : s.boot.mode = .boot
  · rw [enterQuarantine_boot b src hm]
    exact fun h => by simp [hm] at h
  · rw [enterQuarantine_running b src hm, mode_quarantined]
    exact Mode.noConfusion

theorem paced_reactBase (b src sev : Nat) (dom : Option Nat) (hs : Paced s0 s) : Paced s0 (reactBase b src sev dom s) := by
  unfold reactBase
  split
  · exact fun h => absurd h (mode_enterQuarantine b src s)
  · split
    · next d =>
      split
      · refine paced_aside hs ?_ ?_
        · unfold suspendByEvent; dsimp only; split <;> rfl
        · unfold suspendByEvent; dsimp only; split <;> rfl
      · exact hs
    · exact hs

theorem paced_captureSev (b src detail sev : Nat) (dom : Option Nat) (hs : Paced s0 s) : Paced s0 (captureSev b src detail sev dom s) := by
  unfold captureSev
  dsimp only
  split
  · exact paced_recordOnly _ _ _ _ _ hs
  · exact paced_reactBase _ _ _ _ (paced_recordOnly _ _ _ _ _ hs)

/-- An event of metering names no engine, so at most its domain or the device reacts (R350, R413). -/
theorem paced_raiseMeter (src detail : Nat) (dom : Option Nat) (hs : Paced s0 s) : Paced s0 (raise 19 src detail dom s) := by
  have hmajor (sev : Nat) (v : State) : reactMajor 19 src detail sev dom v = v := by
    simp [reactMajor, fenceTarget_none (b := 19) (by decide)]
  unfold raise raiseSev
  rw [hmajor, ite_self]
  exact paced_captureSev _ _ _ _ _ hs

theorem paced_putRecord {d : Nat} {m : MeterRec} (ht : putRecord d m s = some t) (hs : Paced s0 s) : Paced s0 t := by
  unfold putRecord at ht
  split at ht
  · obtain rfl := Option.some.inj ht
    split
    · exact paced_raiseMeter _ _ _ (paced_aside hs rfl rfl)
    · exact paced_aside hs rfl rfl
  · obtain ⟨c, -, rfl⟩ := Option.map_eq_some_iff.1 ht
    exact paced_raiseMeter _ _ _ (paced_aside hs rfl rfl)

theorem paced_boundaryDomain (stop extra d : Nat) (hs : Paced s0 s) : Paced s0 (boundaryDomain stop extra d s) := by
  unfold boundaryDomain
  split
  · next hput => exact paced_aside (paced_putRecord hput hs) rfl rfl
  · unfold holdRecord
    dsimp only
    split
    · exact paced_aside hs rfl rfl
    · exact paced_raiseMeter _ _ _ (paced_aside hs rfl rfl)

/-- The domains' part of a boundary (R346). -/
def closedRecords (b : Nat) (l : List Nat) (s : State) : State := l.foldl (fun s d => boundaryDomain b 0 d s) s

theorem closeBoundary_eq (s : State) :
    closeBoundary s = advanceBoundary s.thermos.boundaryMono (closedRecords s.thermos.boundaryMono (meterDomains s) s) := rfl

theorem paced_closedRecords (b : Nat) (l : List Nat) (hs : Paced s0 s) : Paced s0 (closedRecords b l s) := by
  induction l generalizing s with
  | nil => exact hs
  | cons d l ih => exact ih (paced_boundaryDomain b 0 d hs)

/-- After a boundary none is due before its own tick is past, or the device runs no more (R345). -/
theorem boundaryDue_closeBoundary (hn : 1 ≤ nextInterval s) : boundaryDue s.thermos.boundaryMono (closeBoundary s) = false := by
  have hpaced := paced_closedRecords s.thermos.boundaryMono (meterDomains s) (Paced.refl s)
  rw [closeBoundary_eq]
  generalize closedRecords s.thermos.boundaryMono (meterDomains s) s = v at hpaced
  by_cases hm : v.boot.mode = .operational
  · have hl : 0 < intervalTicks (nextInterval v) := by rw [(hpaced hm).2, intervalTicks]; omega
    have hlt := Nat.lt_div_mul_add hl (a := s.thermos.boundaryMono)
    have hnext : s.thermos.boundaryMono < (s.thermos.boundaryMono / intervalTicks (nextInterval v) + 1) * intervalTicks (nextInterval v) := by
      rwa [Nat.add_one_mul]
    exact Bool.and_eq_false_iff.2 (.inr (decide_eq_false (not_le.2 hnext)))
  · exact Bool.and_eq_false_iff.2 (.inl (decide_eq_false hm))

theorem mono_closeBoundary (s : State) : s.mono ≤ (closeBoundary s).mono := by
  obtain ⟨-, -, -, -, hmono⟩ := keeps_closeBoundary (Keeps.refl s)
  exact hmono

/-- Time that passes up to the next boundary moves the clock there, and the boundary is processed, once (R346; log entry 33). -/
theorem elapseTo_boundary (hm : s.boot.mode = .operational) (hle : s.mono ≤ s.thermos.boundaryMono) (hn : 1 ≤ nextInterval s) :
    elapseTo s.thermos.boundaryMono s = closeBoundary { s with mono := s.thermos.boundaryMono } := by
  have hdue : boundaryDue s.thermos.boundaryMono s = true := by simp [boundaryDue, hm]
  have hdone := boundaryDue_closeBoundary (s := { s with mono := s.thermos.boundaryMono }) hn
  have hmono := mono_closeBoundary { s with mono := s.thermos.boundaryMono }
  rw [elapseTo, passTime, if_pos hdue, max_eq_right hle, passTime_quiet hdone, max_eq_left hmono]

end

/-- Settles O2: a tick ends the microsecond of the wakes, then time passes by one tick, with at most one boundary. -/
theorem idleStepIsOneTick : Obligations.IdleStepIsOneTick := by
  intro s hp
  have hstep : step s = .next (tick s) := by rw [step, hp]
  rw [hstep, tick]
  refine ⟨fun hstopped => ?_, fun hruns hquiet => ?_, fun hruns hm hb hn => ?_⟩
  · exact congrArg _ (if_neg (ne_true_of_eq_false hstopped))
  · have hquiet' : boundaryDue (s.mono + 1) { s with power := { s.power with wakesNow := 0 } } = false := hquiet
    refine congrArg _ ((if_pos hruns).trans ((elapseTo_quiet hquiet').trans ?_))
    rw [max_eq_right (Nat.le_succ s.mono)]
  · refine congrArg _ ((if_pos hruns).trans ?_)
    have hboundary := elapseTo_boundary (s := { s with power := { s.power with wakesNow := 0 } }) hm (by rw [hb]; exact Nat.le_succ _) hn
    rw [← hb]
    exact hboundary

end Sys2Proof.Proofs
end

section
/-! PROOFS. A meter boundary with room in the backlog: each domain's record closes into the backlog and the next opens, and the other domains' records
stand meanwhile (R343 to R348, R350). -/

namespace Sys2Proof.Proofs

open Sys2Proof.Machine Sys2Proof.Safety Sys2Proof.Laws

section
variable {s t u : State} {b d : Nat} {l : List Nat}

/-- A domain's entry with the record that opens at `b` (R346, R347). -/
def reopened (b : Nat) (s : State) (d : Nat) : DomRec :=
  { domOf s d with
    meters := opening (countersOf s d), rateClass := dueClass s d b, held := false, unclean := false, debugGap := false, startMono := b,
    startOffset := s.thermos.offset, inner := 0 }

/-- The records that close at `b`, in the domains' order (R346, R348). -/
def closings (b : Nat) (l : List Nat) (s : State) : List MeterRec :=
  l.zipIdx.map (fun c => { closingRecord s c.1 b 0 true with seq := s.thermos.recSeq + c.2 })

/-- From `s` to `t` the records of the domains `l` have closed at `b` and opened again; those of the other domains stand. -/
structure RecordsClosed (b : Nat) (l : List Nat) (s t : State) : Prop where
  frame : ∃ health live backlog recSeq domains pool, t = { s with health, live, thermos := { s.thermos with backlog, recSeq, domains, pool } }
  sev : sevOf t 19 0 = sevOf s 19 0
  backlog : t.thermos.backlog = s.thermos.backlog ++ closings b l s
  recSeq : t.thermos.recSeq = s.thermos.recSeq + l.length
  opened : ∀ d ∈ l, domOf t d = reopened b s d ∧ countersOf t d = opening (countersOf s d) ∧ dueAt t d b = []
  others : ∀ d, d ∉ l → domOf t d = domOf s d ∧ countersOf t d = countersOf s d ∧ dueAt t d b = dueAt s d b

/-! One domain -/

/-- A record goes into a backlog that has room; only BACKLOG may be raised (R350). -/
theorem putRecord_room {m : MeterRec} (hroom : s.thermos.backlog.length < 256) (hsev : sevOf s 19 0 ≤ 1) :
    ∃ health, putRecord d m s = some { s with
        health, thermos := { s.thermos with backlog := s.thermos.backlog ++ [m], recSeq := s.thermos.recSeq + 1 } }
      ∧ ∀ k j, sevOf { s with health } k j = sevOf s k j := by
  rw [putRecord, if_pos hroom]
  dsimp only
  split
  · rw [raise_minor (by exact hsev)]
    exact ⟨_, rfl, fun k j => sevOf_recordOnly (s := s) (b := 19) (src := 0) (detail := d) (dom := some d) k j⟩
  · exact ⟨s.health, rfl, fun _ _ => rfl⟩

/-- What opens a domain's record at a boundary and drops the changes that were due (R346, R347). -/
theorem opened_record (cls : Nat) (s : State) (d : Nat) :
    let t := dropDue d b (openRecord d b cls s)
    domOf t d = { reopened b s d with rateClass := cls } ∧ countersOf t d = opening (countersOf s d) ∧ dueAt t d b = [] := by
  have hdom : domOf (openRecord d b cls s) d = { reopened b s d with rateClass := cls } := by
    rw [openRecord, domOf_modDom, if_pos rfl]
    rfl
  have hlive : assocGet (openRecord d b cls s).live d = none := (assocGet_del s.live d d).trans (if_pos rfl)
  refine ⟨hdom, ?_, ?_⟩
  · have hcounters : countersOf (openRecord d b cls s) d = opening (countersOf s d) := by
      rw [countersOf, liveMeters, hlive, hdom]
      rfl
    exact hcounters
  · refine List.filter_eq_nil_iff.2 fun e he hdue => ?_
    obtain ⟨hpool, hkept⟩ := List.mem_filter.1 he
    have hmem : e ∈ dueAt (openRecord d b cls s) d b := List.mem_filter.2 ⟨hpool, hdue⟩
    exact absurd hmem (by simpa using hkept)

/-- The other domains' records and changes stand meanwhile. -/
theorem other_record (cls : Nat) (s : State) {d c : Nat} (hc : c ≠ d) :
    let t := dropDue d b (openRecord d b cls s)
    domOf t c = domOf s c ∧ countersOf t c = countersOf s c ∧ dueAt t c b = dueAt s c b := by
  have hdom : domOf (openRecord d b cls s) c = domOf s c := by
    rw [openRecord, domOf_modDom, if_neg (Ne.symm hc)]
    rfl
  have hlive : assocGet (openRecord d b cls s).live c = assocGet s.live c := (assocGet_del s.live d c).trans (if_neg (Ne.symm hc))
  refine ⟨hdom, ?_, ?_⟩
  · have hcounters : countersOf (openRecord d b cls s) c = countersOf s c := by
      rw [countersOf, countersOf, liveMeters, liveMeters, hlive, hdom]
    exact hcounters
  · have hkept : ∀ e : RateEntry, e.domain = c → (!(dueAt (openRecord d b cls s) d b).contains e) = true := fun e he => by
      simp only [Bool.not_eq_true', ← Bool.not_eq_true, List.contains_iff_mem]
      intro hmem
      obtain ⟨-, hdue⟩ := List.mem_filter.1 hmem
      exact hc (he ▸ by simpa using (Bool.and_eq_true_iff.1 hdue).1)
    refine (List.filter_filter (l := s.thermos.pool)).trans (List.filter_congr fun e _ => ?_)
    cases hd : e.domain == c
    · simp
    · rw [hkept e (by simpa using hd), Bool.and_true]
      rfl

/-- One domain's boundary (R346). -/
theorem recordsClosed_one (hroom : s.thermos.backlog.length < 256) (hsev : sevOf s 19 0 ≤ 1) :
    RecordsClosed b [d] s (boundaryDomain b 0 d s) := by
  obtain ⟨health, hput, hsevs⟩ := putRecord_room (d := d) (m := closingRecord s d b 0 true) hroom hsev
  have heq : boundaryDomain b 0 d s = dropDue d b (openRecord d b (dueClass s d b) { s with
      health, thermos := { s.thermos with backlog := s.thermos.backlog ++ [closingRecord s d b 0 true], recSeq := s.thermos.recSeq + 1 } }) := by
    rw [boundaryDomain, hput]
  rw [heq]
  refine ⟨⟨_, _, _, _, _, _, rfl⟩, hsevs 19 0, rfl, rfl, fun c hc => ?_, fun c hc => ?_⟩
  · obtain rfl := List.mem_singleton.1 hc
    exact opened_record _ _ _
  · exact other_record _ _ (mt List.mem_singleton.2 hc)

/-! Several domains -/

/-- The record of a domain that has not closed yet closes as it would have first, but for its sequence number. -/
theorem RecordsClosed.closingRecord (h : RecordsClosed b l s t) {c : Nat} (hc : c ∉ l) :
    Machine.closingRecord t c b 0 true = { Machine.closingRecord s c b 0 true with seq := t.thermos.recSeq } := by
  obtain ⟨hdom, hcounters, -⟩ := h.others c hc
  obtain ⟨health, live, backlog, recSeq, domains, pool, rfl⟩ := h.frame
  simp only [Machine.closingRecord, hdom, hcounters]
  rfl

theorem RecordsClosed.reopened (h : RecordsClosed b l s t) {c : Nat} (hc : c ∉ l) : Proofs.reopened b t c = Proofs.reopened b s c := by
  obtain ⟨hdom, hcounters, hdue⟩ := h.others c hc
  have hoffset : t.thermos.offset = s.thermos.offset := by
    obtain ⟨health, live, backlog, recSeq, domains, pool, rfl⟩ := h.frame
    rfl
  simp only [Proofs.reopened, dueClass, hdom, hcounters, hdue, hoffset]

theorem RecordsClosed.refl (s : State) : RecordsClosed b [] s s :=
  ⟨⟨_, _, _, _, _, _, rfl⟩, rfl, (List.append_nil _).symm, rfl, fun _ h => absurd h List.not_mem_nil, fun _ _ => ⟨rfl, rfl, rfl⟩⟩

/-- After one domain's record the records of the rest close. -/
theorem RecordsClosed.cons (h : RecordsClosed b [d] s t) (k : RecordsClosed b l t u) (hd : d ∉ l) : RecordsClosed b (d :: l) s u where
  frame := by
    obtain ⟨_, _, _, _, _, _, rfl⟩ := h.frame
    obtain ⟨_, _, _, _, _, _, rfl⟩ := k.frame
    exact ⟨_, _, _, _, _, _, rfl⟩
  sev := k.sev.trans h.sev
  backlog := by
    have htail : closings b l t = (l.zipIdx 1).map (fun c => { Machine.closingRecord s c.1 b 0 true with seq := s.thermos.recSeq + c.2 }) := by
      rw [closings, List.zipIdx_succ, List.map_map]
      refine List.map_congr_left fun c hc => ?_
      have hne : c.1 ∉ [d] := fun hm => hd (List.mem_singleton.1 hm ▸ List.fst_mem_of_mem_zipIdx hc)
      rw [h.closingRecord hne, h.recSeq]
      simp only [List.length_singleton, Nat.add_assoc, Nat.add_comm 1]
      rfl
    rw [k.backlog, h.backlog, htail, List.append_assoc]
    rfl
  recSeq := by rw [k.recSeq, h.recSeq]; simp only [List.length_cons, List.length_nil]; omega
  opened c hc := by
    by_cases hcd : c = d
    · subst hcd
      obtain ⟨hdom, hcounters, hdue⟩ := h.opened c List.mem_cons_self
      obtain ⟨hdom', hcounters', hdue'⟩ := k.others c hd
      exact ⟨hdom'.trans hdom, hcounters'.trans hcounters, hdue'.trans hdue⟩
    · have hne : c ∉ [d] := mt List.mem_singleton.1 hcd
      obtain ⟨hdom, hcounters, hdue⟩ := k.opened c ((List.mem_cons.1 hc).resolve_left hcd)
      exact ⟨hdom.trans (h.reopened hne), hcounters.trans (by rw [(h.others c hne).2.1]), hdue⟩
  others c hc := by
    obtain ⟨hcd, hcl⟩ := not_or.1 (mt List.mem_cons.2 hc)
    obtain ⟨hdom, hcounters, hdue⟩ := h.others c (mt List.mem_singleton.1 hcd)
    obtain ⟨hdom', hcounters', hdue'⟩ := k.others c hcl
    exact ⟨hdom'.trans hdom, hcounters'.trans hcounters, hdue'.trans hdue⟩

/-- The records of all the domains, each named once, where the backlog has room for them (R346, R350). -/
theorem recordsClosed_all (hl : l.Nodup) (hroom : s.thermos.backlog.length + l.length ≤ 256) (hsev : sevOf s 19 0 ≤ 1) :
    RecordsClosed b l s (closedRecords b l s) := by
  induction l generalizing s with
  | nil => exact .refl s
  | cons d l ih =>
    obtain ⟨hd, hl⟩ := List.nodup_cons.1 hl
    rw [List.length_cons] at hroom
    have hone := recordsClosed_one (b := b) (d := d) (s := s) (by omega) hsev
    refine hone.cons (ih hl ?_ (hone.sev.trans_le hsev)) hd
    rw [hone.backlog, List.length_append]
    change s.thermos.backlog.length + 1 + l.length ≤ 256
    omega

/-- The boundary as a whole: the records, then the next boundary (R345, R346). -/
theorem closeBoundary_closes (hl : (meterDomains s).Nodup) (hroom : s.thermos.backlog.length + (meterDomains s).length ≤ 256) (hsev : sevOf s 19 0 ≤ 1) :
    ∃ v, closeBoundary s = advanceBoundary s.thermos.boundaryMono v ∧ RecordsClosed s.thermos.boundaryMono (meterDomains s) s v :=
  ⟨_, rfl, recordsClosed_all hl hroom hsev⟩

end

end Sys2Proof.Proofs
end

section
/-! PROOFS. METER_POST: delivering the oldest records, waiting, and the end of the wait (R349, R351, R352); counters that are saved (R353); and O51. -/

namespace Sys2Proof.Proofs

open Sys2Proof.Machine Sys2Proof.Safety Sys2Proof.Laws

section
variable {s t u : State} {h a : Nat} {x y : Hamper} {e out : Bytes} {d : Done}

/-- The hamper has delivered records by their numbers (R352). -/
def notePosted (l : List Nat) (y : Hamper) : Hamper := { y with posted := y.posted ++ l }

theorem notePosted_id (l : List Nat) (y : Hamper) : (notePosted l y).id = y.id := rfl

/-- Records the hamper has delivered do not show in the completion. -/
theorem finishes_notePosted (l : List Nat) (hf : Finishes s t h a out d) : Finishes s (modHamper t h (notePosted l)) h a out d := by
  obtain ⟨x, y, hx, hy, hentries, hengines, hread, harena, hcups, hothers, hstand⟩ := hf
  refine ⟨x, notePosted l y, hx, ?_, hentries, hengines, hread, harena, hcups, fun j hj => ?_, hstand⟩
  · rw [hamperOf_modHamper_same (notePosted_id l), hy, Option.map_some]
  · exact (hamperOf_modHamper_ne (notePosted_id l) t hj).trans (hothers j hj)

/-- The end of an entry leaves what its hamper has delivered (R352). -/
theorem posted_finishEntry (hx : hamperOf s h = some x) : ∃ w, hamperOf (finishEntry s h d) h = some w ∧ w.posted = x.posted := by
  have hold : hamperOf (settleCurrent h d s) h = some x := by rw [hamperOf, settleCurrent_hampers]; exact hx
  refine ⟨_, (hamperOf_modHamper_same ?_ _ h).trans (congrArg (Option.map _) hold), rfl⟩
  exact fun _ => rfl

theorem Serving.posted (hv : Serving s h x y e) : ∃ w, hamperOf (Machine.complete h e out d s) h = some w ∧ w.posted = y.posted := by
  obtain ⟨u, y', z, hy', hw, heq⟩ := hv.complete (out := out) (d := d)
  obtain rfl : y = y' := Option.some.inj (hv.hamper.symm.trans hy')
  obtain ⟨w, hwt, hposted⟩ := posted_finishEntry (d := { d with status := okOf x }) hw.hamper
  exact ⟨w, heq ▸ hwt, hposted.trans (by rw [hw.same])⟩

/-- The completion of a METER_POST that delivers `rs` (R351). -/
def postDone (s : State) (e out : Bytes) (rs : List MeterRec) : Done :=
  { status := stOk, len := out.length, param := some (postParam e rs.length (s.thermos.backlog.length - rs.length) ((rs.head?.map (·.seq)).getD 0)) }

theorem postDeliver_eq (hv : Serving s h x y e) {rs : List MeterRec} (hrs : rs = postTakes e s)
    (hout : out = rs.flatMap (deliveredBytes ((rootOf s).getD []))) :
    postDeliver h e s = modHamper (complete h e out (postDone s e out rs) s) h (notePosted (rs.map (·.seq))) := by
  subst hrs hout
  simp only [postDeliver, hv.hamper, Option.map_some, Option.getD_some, hv.cup, Bool.false_eq_true, if_false]
  rfl

/-- A METER_POST that delivers its records: what it completes with, what its hamper has delivered, and what stands (R351, R352). -/
theorem postDeliver_leaves (hv : Serving s h x y e) {rs : List MeterRec} (hrs : rs = postTakes e s)
    (hout : out = rs.flatMap (deliveredBytes ((rootOf s).getD []))) :
    Finishes s (postDeliver h e s) h (dstOf e) out { postDone s e out rs with status := okOf x }
      ∧ (∃ w, hamperOf (postDeliver h e s) h = some w ∧ w.posted = y.posted ++ rs.map (·.seq))
      ∧ (postDeliver h e s).thermos = s.thermos ∧ (postDeliver h e s).mono = s.mono := by
  have hend := ending_complete (e := e) (out := out) (d := postDone s e out rs) hv.clean hv.hamper hv.cup
  obtain ⟨w, hw, hposted⟩ := hv.posted (out := out) (d := postDone s e out rs)
  rw [postDeliver_eq hv hrs hout]
  refine ⟨finishes_notePosted _ hv.complete.finishes, ⟨notePosted (rs.map (·.seq)) w, ?_, ?_⟩, hend.field State.thermos fun _ => rfl,
    hend.field State.mono fun _ => rfl⟩
  · rw [hamperOf_modHamper_same (notePosted_id _), hw, Option.map_some]
  · rw [notePosted, hposted]

/-- With the backlog empty none is delivered. -/
theorem postDeliver_none (hv : Serving s h x y e) (hrep : x.replay = none) (hempty : s.thermos.backlog = []) :
    Finishes s (postDeliver h e s) h (dstOf e) [] { status := 0, param := some (postParam e 0 0 0) } := by
  obtain ⟨hfin, -⟩ := postDeliver_leaves (rs := []) (out := []) hv (by simp [postTakes, hempty]) rfl
  have hok : okOf x = 0 := by simp [okOf, hrep]
  rw [hok, postDone, hempty] at hfin
  exact hfin

/-! What the entry does -/

theorem postRun_records (hbad : postBad s x e = none) (hfirst : laterPost s x = false) (hbacklog : s.thermos.backlog ≠ []) (heng : x.engines ≠ [])
    (hdst : dstReady s (dstOf e) (dstLenOf e) = true) :
    postRun .none h x e s = internalFault h x .none ((postTakes e s).all (recordGood ((rootOf s).getD []))) (postDeliver h e) s := by
  simp only [postRun, hbad, hfirst, hbacklog, withEngines_granted heng, withRoom_ready hdst, Bool.false_eq_true, if_false]

theorem postRun_none (hbad : postBad s x e = none) (hfirst : laterPost s x = false) (hbacklog : s.thermos.backlog = []) (hwait : waitMs e = 0) :
    postRun .none h x e s = postDeliver h e s := by
  simp [postRun, hbad, hfirst, hbacklog, hwait]

/-- The entry waits from now on (R351). -/
def waitFrom (m : Nat) (y : Hamper) : Hamper := { y with waiting := true, waitSince := m }

theorem postRun_waits (hbad : postBad s x e = none) (hfirst : laterPost s x = false) (hbacklog : s.thermos.backlog = []) (hwait : waitMs e ≠ 0)
    (hnew : x.waiting = false) : postRun .none h x e s = modHamper s h (waitFrom s.mono) := by
  simp only [postRun, hbad, hfirst, hbacklog, hwait, hnew, Bool.false_eq_true, if_false, if_true]
  rfl

theorem exec_meterPostTimeout {m : Nat} (hr : Runs s h 0x60 x e) (hbad : postBad s x e = none) (hbacklog : s.thermos.backlog = [])
    (hwaits : x.waiting = true) (hm : m = x.waitSince + msTicks (waitMs e)) (hquiet : boundaryDue m s = false) :
    exec (.meterPostTimeout h .none) s = .next (postDeliver h e { s with mono := max s.mono m }) := by
  refine next_of_runs hr ?_
  subst hm
  simp [hwaits, hbacklog, hbad, elapseTo_quiet hquiet]

/-! The boundary, and counters -/

theorem meterBoundary_operational (hm : s.boot.mode = .operational) (hle : s.mono ≤ s.thermos.boundaryMono) (hn : 1 ≤ nextInterval s) :
    exec .meterBoundary s = .next (closeBoundary { s with mono := s.thermos.boundaryMono }) := by
  refine congrArg Host.Outcome.next ?_
  rw [meterBoundary, if_neg (not_not.2 hm), elapseTo_boundary hm hle hn]

theorem meterBoundary_elsewhere (hm : s.boot.mode ≠ .operational) : exec .meterBoundary s = .next s :=
  congrArg Host.Outcome.next (if_pos hm)

theorem saveCounters_none {d : Nat} (hl : assocGet s.live d = none) : saveCounters d s = s := by
  rw [saveCounters, hl]

theorem saveCounters_some {d : Nat} {l : List Nat} (hl : assocGet s.live d = some l) (hd : domExists s d = true) :
    saveCounters d s = modDom { s with live := assocDel s.live d } d (fun r => { r with meters := l }) := by
  have hd' : domExists { s with live := assocDel s.live d } d = true := hd
  simp only [saveCounters, hl, hd', if_true]

end

/-- Settles O51: a METER_POST delivers or waits by the backlog it finds, a boundary closes the records of the domains one after the other, and the
counters of one domain are written. -/
theorem meteringPostsClosesAndSaves : Obligations.MeteringPostsClosesAndSaves := by
  unfold Obligations.MeteringPostsClosesAndSaves
  intro s
  refine ⟨?post, meterBoundary_elsewhere, ?boundary, ?counters⟩
  case post =>
    intro h x e hr hbad hfirst hc hrep
    have hv := serving_of_clean hr hc
    have hok : okOf x = 0 := by simp [okOf, hrep]
    refine ⟨?records, fun hempty hwait => ?none, fun hempty hwait hnew => ?waits, ?timeout⟩
    case records =>
      rintro rs out hbacklog heng hdst hrs hout
      have hself := Advances.refl hv.hamper
      obtain ⟨hgood, hfails⟩ := internalFault_leaves (good := (postTakes e s).all (recordGood ((rootOf s).getD []))) (run := postDeliver h e) hself hv x
      refine ⟨_, next_of_runs hr (postRun_records hbad hfirst hbacklog heng hdst), fun hg => ?_, fun hg => hfails (by rwa [hrs] at hg)⟩
      rw [hgood (by rwa [hrs] at hg)]
      obtain ⟨hfin, hposted, hthermos, -⟩ := postDeliver_leaves hv hrs hout
      rw [hok] at hfin
      exact ⟨hthermos, hposted, hfin⟩
    case none => exact ⟨_, next_of_runs hr (postRun_none hbad hfirst hempty hwait), postDeliver_none hv hrep hempty⟩
    case waits =>
      refine ⟨_, next_of_runs hr (postRun_waits hbad hfirst hempty hwait hnew), ?_, fun j hj => ?_, rfl, rfl, rfl⟩
      · rw [hamperOf_modHamper_same (by exact fun _ => rfl), hv.hamper]
        rfl
      · exact hamperOf_modHamper_ne (by exact fun _ => rfl) s hj
    case timeout =>
      rintro m hempty hwaits hm hquiet
      have hv' : Serving { s with mono := max s.mono m } h x x e := hv.of_same rfl rfl
      obtain ⟨-, -, -, hmono⟩ := postDeliver_leaves hv' rfl rfl
      exact ⟨_, exec_meterPostTimeout hr hbad hempty hwaits hm hquiet, hmono, postDeliver_none hv' hrep hempty⟩
  case boundary =>
    rintro hm hnodup hroom hsev hn hle b rfl
    obtain ⟨v, hclose, hframe, -, hbacklog, hseq, hopened, hothers⟩ :=
      closeBoundary_closes (s := { s with mono := s.thermos.boundaryMono }) hnodup hroom hsev
    refine ⟨_, (meterBoundary_operational hm hle hn).trans (congrArg _ hclose), ?_⟩
    obtain ⟨health, live, backlog, recSeq, domains, pool, rfl⟩ := hframe
    exact ⟨rfl, hbacklog, hseq, hopened, fun d hd => (hothers d hd).1, rfl, rfl, rfl, rfl, rfl, rfl, rfl, rfl⟩
  case counters =>
    intro d
    refine ⟨fun hl => congrArg Host.Outcome.next (saveCounters_none hl), fun l hl hd => ⟨_, congrArg Host.Outcome.next (saveCounters_some hl hd), ?_⟩⟩
    refine ⟨?_, (assocGet_del s.live d d).trans (if_pos rfl), fun j hj => ⟨?_, ?_⟩, rfl, rfl, rfl, rfl⟩
    · rw [domOf_modDom, if_pos rfl]
      rfl
    · rw [domOf_modDom, if_neg (Ne.symm hj)]
      rfl
    · exact (assocGet_del s.live d j).trans (if_neg (Ne.symm hj))

end Sys2Proof.Proofs
end

section
/-! PROOFS. EVENT bits that a write clears, and the end of a reaction (R411, R415, R417); and O35. -/

namespace Sys2Proof.Proofs

open Sys2Proof.Machine Sys2Proof.Safety Sys2Proof.Laws

theorem testBit_clearBit (v i j : Nat) : (clearBit v i).testBit j = (v.testBit j && decide (j ≠ i)) := by
  unfold clearBit
  split
  · next hi =>
    have hi : v.testBit i = true := hi
    have hv : v = (v - 2 ^ i) + 2 ^ i := (Nat.sub_add_cancel (Nat.ge_two_pow_of_testBit hi)).symm
    have hgone : (v - 2 ^ i).testBit i = false := by
      rw [hv, Nat.add_comm, Nat.testBit_two_pow_add_eq] at hi
      simpa using hi
    rcases Nat.lt_trichotomy j i with hj | rfl | hj
    · have hlow : v.testBit j = (v - 2 ^ i).testBit j := by
        conv_lhs => rw [hv, Nat.add_comm]
        exact Nat.testBit_two_pow_add_gt hj _
      simp [hlow, hj.ne]
    · simp [hgone]
    · have hhigh : v.testBit j = (v - 2 ^ i).testBit j := by
        conv_lhs => rw [hv]
        exact testBit_add_two_pow_above hgone hj
      simp [hhigh, hj.ne']
  · next hi =>
    have hi : v.testBit i = false := by simpa [bit] using hi
    by_cases hj : j = i
    · subst hj; simp [hi]
    · simp [hj]

/-- The bits of a mask, cleared one after the other. -/
theorem testBit_clearBits (mask v j : Nat) (l : List Nat) :
    (l.foldl (fun e k => if bit mask k then clearBit e k else e) v).testBit j = (v.testBit j && !(decide (j ∈ l) && mask.testBit j)) := by
  induction l generalizing v with
  | nil => simp
  | cons i l ih =>
    rw [List.foldl_cons, ih]
    by_cases hm : bit mask i = true
    · rw [if_pos hm, testBit_clearBit]
      by_cases hj : j = i
      · subst hj; simp [show mask.testBit j = true from hm]
      · simp [hj]
    · rw [if_neg hm]
      by_cases hj : j = i
      · subst hj; simp [show mask.testBit j = false by simpa [bit] using hm]
      · simp [hj]

section
variable {s : State} {p b a v mask : Nat}

/-- A bit of EVENT that a mask clears (R415). -/
def clears (s : State) (b mask k : Nat) : Bool := bit mask k && bit (blockOf s b).event k

/-- A block whose EVENT bits of a mask clear (R411, R415). -/
def eventsCleared (s : State) (b mask : Nat) : State :=
  modBlock s b (fun h => { h with
    event := (List.range 8).foldl (fun e k => if bit mask k then clearBit e k else e) h.event
    stored := h.stored.filter (fun c => !clears s b mask c.1)
    named := h.named.filter (fun c => !clears s b mask c.1) })

/-- Where no suspension hangs on a bit that clears, none ends (R296). -/
theorem clearEvents_unnamed (hnamed : ∀ c ∈ (blockOf s b).named, clears s b mask c.1 = false) (hkey : b = 12 → clears s b mask 1 = false) :
    clearEvents b mask s = eventsCleared s b mask := by
  have hnone : (blockOf s b).named.filter (fun c => clears s b mask c.1) = [] :=
    List.filter_eq_nil_iff.2 fun c hc => by rw [hnamed c hc]; exact Bool.false_ne_true
  have hkey' : ¬(b = 12 ∧ clears s b mask 1 = true) := fun h => by simp [hkey h.1] at h
  unfold clearEvents
  change (if b = 12 ∧ clears s b mask 1 = true then _ else
    (((blockOf s b).named.filter (fun c => clears s b mask c.1)).map (·.2)).foldl _ (eventsCleared s b mask)) = _
  rw [if_neg hkey', hnone]
  rfl

/-- A write of the health page reaches its register (R411). -/
theorem writeReg_healthPage (ho : Open s) (h4 : a % 4 = 0) (hlo : 0x600 ≤ a) (hhi : a < 0x800) : writeReg p a v s = writeHealth p a v s := by
  have hx : ¬(a % 4 ≠ 0 ∨ 0x1000 ≤ a) := by omega
  have h5 : ¬a = 0x500 := by omega
  simp [writeReg, hx, modeWrites_open ho, h5, hhi, show ¬a < 0x100 by omega, show ¬a < 0x400 by omega, show ¬a < 0x500 by omega,
    show ¬a < 0x600 by omega]

/-- `EVENT` of a block that the port may write (R411, R415). -/
theorem writeHealth_event (hb : b < 21) (hw : groupWrite s p b = true) (hv : v < 256) :
    writeHealth p (0x604 + 16 * b) v s = accept (clearEvents b v s) := by
  have hgroup : (0x604 + 16 * b - 0x600) / 16 = b := by omega
  have hplace : (0x604 + 16 * b) % 16 = 4 := by omega
  have hin : ¬21 ≤ b := by omega
  simp only [writeHealth, hgroup, hplace, hin, hw, Nat.mod_eq_of_lt hv, Bool.not_true, Bool.false_eq_true, if_false]

/-- The served write that clears them. -/
theorem eventClear_served {p : Port} {k : Link} {b : Fin 21} {m : BitVec 8} (h : ServesReg s p k (0x604 + 16 * b.val) m.toNat)
    (hw : groupWrite s p b = true) (hnamed : ∀ c ∈ (blockOf s b).named, clears s b m.toNat c.1 = false)
    (hkey : b.val = 12 → clears s b m.toNat 1 = false) :
    exec (.eventClear p k b m) s = .next (recordWr p 0x11 wrOk (eventsCleared (respond p .silent s) b m.toNat)) := by
  have hb := b.isLt
  refine congrArg Host.Outcome.next (regFrame_accept h (by omega) (by omega) (by omega) ?_)
  rw [writeReg_healthPage (open_respond h.2.2.2 .silent) (by omega) (by omega) (by omega),
    writeHealth_event (s := respond p .silent s) hb hw m.isLt, clearEvents_unnamed (s := respond p .silent s) hnamed hkey]

theorem blockOf_eventsCleared (hb : b < s.health.length) :
    blockOf (eventsCleared s b mask) b = { blockOf s b with
      event := (List.range 8).foldl (fun e k => if bit mask k then clearBit e k else e) (blockOf s b).event
      stored := (blockOf s b).stored.filter (fun c => !clears s b mask c.1)
      named := (blockOf s b).named.filter (fun c => !clears s b mask c.1) } :=
  blockOf_modBlock_same s b _ hb

theorem blockOf_eventsCleared_ne {c : Nat} (hc : c ≠ b) : blockOf (eventsCleared s b mask) c = blockOf s c :=
  blockOf_modBlock_ne s _ (Ne.symm hc)

/-- EVENT of the block afterwards (R415). -/
theorem testBit_eventsCleared {m : BitVec 8} (hb : b < s.health.length) (j : Nat) :
    (blockOf (eventsCleared s b m.toNat) b).event.testBit j = ((blockOf s b).event.testBit j && !m.toNat.testBit j) := by
  rw [blockOf_eventsCleared hb, testBit_clearBits]
  by_cases hj : j < 8
  · simp [hj]
  · have hm : m.toNat.testBit j = false := by
      exact Nat.testBit_lt_two_pow (m.isLt.trans_le (Nat.pow_le_pow_right (by decide) (Nat.le_of_not_lt hj)))
    simp [hm]

/-- The end of a reaction in which no error merged (R417). -/
theorem endReaction_alone (hhandling : (blockOf s b).handling = true) (hmerged : (blockOf s b).merged = []) :
    endReaction b s = modBlock s b (fun h => { h with handling := false }) := by
  simp only [endReaction, hhandling, hmerged, if_true, reactMerged, modBlock]

theorem endReaction_idle (hidle : (blockOf s b).handling = false) : endReaction b s = s := by
  simp [endReaction, hidle]

end

/-- Settles O35: the write reaches EVENT of its block, whose other registers stand, and no suspension hangs on a bit that clears. -/
theorem eventClearAndReactionEnd : Obligations.EventClearAndReactionEnd := by
  unfold Obligations.EventClearAndReactionEnd
  intro s
  refine ⟨fun p k b m h hshape hw hnamed hkey => ?_, fun b hhandling hmerged => ?_, fun b hidle => ?_⟩
  · obtain ⟨hports, -, hhealth, -⟩ := hshape
    have hb : b.val < (respond p .silent s).health.length := by rw [respond, modPort_health, hhealth]; exact b.isLt
    have hp : p.val < s.ports.length := by rw [hports]; exact p.isLt
    have hblock := blockOf_eventsCleared (mask := m.toNat) hb
    refine ⟨_, eventClear_served h hw hnamed hkey, portOf_lwOutcome_recordWr ?_, testBit_eventsCleared hb, ?_, ?_, ?_, ?_, fun c hc => ?_,
      fun q hq => ?_, rfl, rfl, rfl, rfl, rfl, rfl⟩
    · simpa [eventsCleared, respond, modBlock] using hp
    · exact congrArg (·.stored) hblock
    · exact congrArg (·.history) hblock
    · exact congrArg (·.handling) hblock
    · exact congrArg (·.sevs) hblock
    · exact blockOf_eventsCleared_ne (s := respond p .silent s) hc
    · exact (portOf_modPort_ne _ _ (Ne.symm hq)).trans (portOf_respond_ne s .silent (Ne.symm hq))
  · exact congrArg Host.Outcome.next (endReaction_alone hhandling hmerged)
  · exact congrArg Host.Outcome.next (endReaction_idle hidle)

end Sys2Proof.Proofs
end

section
/-! PROOFS. `WDT_STATUS` and `WDT_LOCK_p` of the Egg timers (R420 to R424); and O36. -/

namespace Sys2Proof.Proofs

open Sys2Proof.Machine Sys2Proof.Safety Sys2Proof.Laws

section
variable {s : State} {p q a v : Nat}

/-- A change of a port is what it makes of the port as it stands. -/
theorem modPort_congr {f g : PortState → PortState} (h : f (portOf s p) = g (portOf s p)) : modPort s p f = modPort s p g := by
  rw [modPort, h, modPort]

/-- A change of a port's Egg timer that sets it to a given value. -/
theorem modPort_wdt {f : PortState → PortState} {w : Wdt} (h : f (portOf s p) = { portOf s p with wdt := w }) :
    modPort s p f = modPort s p (fun x => { x with wdt := w }) := modPort_congr h

/-! A hold that lifts -/

theorem readRing_inactive (hclean : Clean s) {r : Nat} (h : (ringOf s r).state ≠ .active) : readRing r s = s := by
  simp [readRing, hclean, ringServed, h]

theorem readRings_inactive (hclean : Clean s) (f : Ring → Bool) (h : ∀ r, (ringOf s r).state ≠ .active) : readRings f s = s :=
  List.foldl_fixed' (fun c => readRing_inactive hclean (h c.1)) _

/-- Where no hold stands, or no ring is ACTIVE and no memory error waits, the end of a hold clears its bit alone (R163, R422). -/
theorem liftHold_alone (h : (portOf s p).wdt.quiesced = false ∨ (Clean s ∧ ∀ r, (ringOf s r).state ≠ .active)) :
    liftHold p s = modPort s p (fun x => { x with wdt := { x.wdt with quiesced := false } }) := by
  unfold liftHold
  split
  · next hheld =>
    obtain hfree | ⟨hclean, hrings⟩ := h
    · simp [hfree] at hheld
    · exact readRings_inactive (s := modPort s p _) hclean _ hrings
  · next hfree =>
    have hfree : (portOf s p).wdt.quiesced = false := by simpa using hfree
    have hsame : { portOf s p with wdt := { (portOf s p).wdt with quiesced := false } } = portOf s p := by rw [← hfree]
    rw [modPort, hsame]
    by_cases hp : p < s.ports.length
    · simp [portOf, hp]
    · rw [List.set_eq_of_length_le (Nat.le_of_not_lt hp)]

/-- The same after a change of the port that leaves the hold. -/
theorem liftHold_after {f : PortState → PortState} (h : (portOf s p).wdt.quiesced = false ∨ (Clean s ∧ ∀ r, (ringOf s r).state ≠ .active))
    (hf : ∀ x, (f x).wdt.quiesced = x.wdt.quiesced) :
    liftHold p (modPort s p f) = modPort s p (fun x => { f x with wdt := { (f x).wdt with quiesced := false } }) := by
  rw [liftHold_alone, modPort_modPort]
  refine h.imp_left fun hfree => ?_
  by_cases hp : p < s.ports.length
  · simp [hp, hf, hfree]
  · rw [modPort, List.set_eq_of_length_le (Nat.le_of_not_lt hp)]
    exact hfree

/-! `WDT_STATUS` -/

theorem statusFields_enable (a : BitVec 2) : bit (a.toNat * 2 + 1) 0 = true ∧ bits (a.toNat * 2 + 1) 2 1 = a.toNat := by
  have ha := a.isLt
  refine ⟨by simp [bit, Nat.testBit_zero], ?_⟩
  change (a.toNat * 2 + 1) / 2 % 4 = a.toNat
  omega

theorem statusFields_disable (a : BitVec 2) : bit (a.toNat * 2) 0 = false ∧ bits (a.toNat * 2) 2 1 = a.toNat := by
  have ha := a.isLt
  refine ⟨by simp [bit, Nat.testBit_zero], ?_⟩
  change a.toNat * 2 / 2 % 4 = a.toNat
  omega

/-- A write of EN and ACTION that no lock forbids (R421, R424). -/
theorem writeWdtStatus_accept {en : Bool} (hen : bit v 0 = en) (ha : bits v 2 1 = a)
    (h : (portOf s p).wdt.lock = false ∨ ((portOf s p).wdt.en = en ∧ (portOf s p).wdt.action = a)) :
    writeWdtStatus p v s = accept (wdtControl p en a s) := by
  have hfree : ¬((portOf s p).wdt.lock && (en != (portOf s p).wdt.en || a != (portOf s p).wdt.action)) = true := by
    obtain h | ⟨rfl, rfl⟩ := h
    · simp [h]
    · simp
  simp only [writeWdtStatus, hen, ha, if_neg hfree]

/-- A write that would change a locked field (R424). -/
theorem writeWdtStatus_refuse {en : Bool} (hen : bit v 0 = en) (ha : bits v 2 1 = a) (hlock : (portOf s p).wdt.lock = true)
    (h : (portOf s p).wdt.en ≠ en ∨ (portOf s p).wdt.action ≠ a) : writeWdtStatus p v s = refuse s := by
  have hheld : ((portOf s p).wdt.lock && (en != (portOf s p).wdt.en || a != (portOf s p).wdt.action)) = true := by
    simpa [hlock, ne_comm] using h
  simp only [writeWdtStatus, hen, ha, if_pos hheld]

/-- A timer that is started, or is on already (R421). -/
theorem wdtControl_on : wdtControl p true a s = modPort s p (fun x => { x with wdt := { (portOf s p).wdt with
    en := true, action := a, start := if (portOf s p).wdt.en then (portOf s p).wdt.start else s.mono } }) := by
  unfold wdtControl
  by_cases hwas : (portOf s p).wdt.en = true
  · simp only [hwas, if_true]
    exact modPort_wdt rfl
  · simp only [hwas, if_true, if_false, restartCount, Bool.false_eq_true]
    rw [modPort_modPort]
    exact modPort_wdt rfl

/-- A timer that stops (R421, R422). -/
theorem wdtControl_off (h : (portOf s p).wdt.quiesced = false ∨ (Clean s ∧ ∀ r, (ringOf s r).state ≠ .active)) :
    wdtControl p false a s = modPort s p (fun x => { x with wdt := { (portOf s p).wdt with
      en := false, action := a, half := false, acting := false, quiesced := false } }) := by
  simp only [wdtControl, Bool.false_eq_true, if_false, modPort_modPort]
  rw [liftHold_after h (f := fun x => { x with wdt := { x.wdt with en := false, action := a, half := false, acting := false } }) fun _ => rfl]
  exact modPort_wdt rfl

/-! `WDT_LOCK_p` -/

/-- The register of a port's lock on the operator page (R424). -/
theorem writeOperator_lock (hq : q < 4) : writeOperator (0x894 + 8 * q) v s = writeLock q v s := by
  have hpins : writeOperator (0x894 + 8 * q) v s = writePins (0x894 + 8 * q) v s := by
    simp [writeOperator, show ¬0x894 + 8 * q < 0x880 by omega, show 0x894 + 8 * q < 0x8C0 by omega]
  rw [hpins]
  obtain rfl | rfl | rfl | rfl : q = 0 ∨ q = 1 ∨ q = 2 ∨ q = 3 := by omega
  all_goals rfl

/-- LOCK is set for an unlocked timer whose locked configuration is legal and not 0 (R424). -/
theorem writeLock_set (a : BitVec 2) (hlock : (portOf s q).wdt.lock = false) (hok : lockCfgOk (portOf s q).wdt.lockCfg.toNat = true)
    (hne : (portOf s q).wdt.lockCfg ≠ 0) : writeLock q (0x100 + a.toNat) s = accept (lockTimer q a.toNat s) := by
  have ha := a.isLt
  have hset : bit (0x100 + a.toNat) 8 = true := by
    rw [bit, Nat.testBit_eq_decide_div_mod_eq, decide_eq_true_eq]
    omega
  have hfield : (0x100 + a.toNat) % 4 = a.toNat := by omega
  have hne : ((portOf s q).wdt.lockCfg != 0) = true := by simpa using hne
  simp only [writeLock, hlock, hset, hfield, acceptIf, hok, hne, Bool.and_self, if_true, Bool.false_eq_true, if_false]

/-- LOCK is cleared (R424). -/
theorem writeLock_clear (a : BitVec 2) : writeLock q a.toNat s =
    accept (modPort s q (fun x => { x with wdt := { (portOf s q).wdt with lock := false, lockAction := a.toNat } })) := by
  have ha := a.isLt
  have hset : bit a.toNat 8 = false := Nat.testBit_lt_two_pow (by omega)
  have hfield : a.toNat % 4 = a.toNat := by omega
  unfold writeLock
  by_cases hlock : (portOf s q).wdt.lock = true
  · simp only [hlock, hset, hfield, if_true, Bool.false_eq_true, if_false]
    exact congrArg accept (modPort_wdt rfl)
  · have hlock : (portOf s q).wdt.lock = false := by simpa using hlock
    simp only [hlock, hset, hfield, Bool.false_eq_true, if_false]
    refine congrArg accept (modPort_wdt ?_)
    rw [← hlock]

/-- A served write of a register of the port page that its register refuses, counted at the port alone (R94). -/
theorem regFrame_portPageRefused {t : State} {p : Port} {k : Link} (h : ServesReg s p k a v) (ha : a < 0x100) (h4 : a % 4 = 0) (h8 : a ≠ 0x008)
    (hv : v < 2 ^ 32) (hw : writePort p a v (respond p .silent s) = refuse t) :
    regFrame p k a v s = recordWr p 0x11 wrDenied (noteDenied p none t) := by
  rw [regFrame_recorded h (by omega) h8 hv, regWrite_refuse ((writeReg_portPage (open_respond h.2.2.2 .silent) ha h4).trans hw)]

theorem writePort_wdtStatus (p v : Nat) (s : State) : writePort p 0x028 v s = writeWdtStatus p v s := rfl

end

/-- Settles O36: each write reaches its register, which judges the lock and then changes the port's timer alone. -/
theorem eggTimerRegistersAndLocks : Obligations.EggTimerRegistersAndLocks := by
  unfold Obligations.EggTimerRegistersAndLocks
  intro s p k a b w
  have ha := a.isLt
  have hw (q : Nat) : (portOf b q).wdt = (portOf s q).wdt := respond_wdt s p q .silent
  obtain ⟨hon, hact⟩ := statusFields_enable a
  obtain ⟨hoff, hact'⟩ := statusFields_disable a
  refine ⟨fun h hfree => ?_, fun h hfree hheld => ?_, fun h hlock hchange => ?_, fun q h hlock hok hne => ?_, fun q h => ?_⟩
  · refine congrArg Host.Outcome.next (regFrame_portPage h (by decide) (by decide) (by decide) (by omega) ?_)
    rw [writePort_wdtStatus, writeWdtStatus_accept (s := b) hon hact (by rw [hw]; exact hfree), wdtControl_on, hw]
    rfl
  · refine congrArg Host.Outcome.next (regFrame_portPage h (by decide) (by decide) (by decide) (by omega) ?_)
    rw [writePort_wdtStatus, writeWdtStatus_accept (s := b) hoff hact' (by rw [hw]; exact hfree),
      wdtControl_off (s := b) (by rw [hw]; exact hheld), hw]
  · have hrefused := writeWdtStatus_refuse (s := b) (p := p) hoff hact' (by rw [hw]; exact hlock)
      (by rw [hw]; simpa using hchange)
    exact congrArg Host.Outcome.next (regFrame_portPageRefused h (by decide) (by decide) (by decide) (by omega) hrefused)
  · have hq := q.isLt
    refine congrArg Host.Outcome.next (regFrame_operator h (by omega) (by omega) (by omega) (by omega) ?_)
    rw [writeOperator_lock hq, writeLock_set (s := b) a (by rw [hw]; exact hlock) (by rw [hw]; exact hok) (by rw [hw]; exact hne), ← hw]
    exact congrArg accept (modPort_wdt rfl)
  · have hq := q.isLt
    refine congrArg Host.Outcome.next (regFrame_operator h (by omega) (by omega) (by omega) (by omega) ?_)
    rw [writeOperator_lock hq, writeLock_clear, ← hw]

end Sys2Proof.Proofs
end

section
/-! PROOFS. What endures while engines are struck, events react, hampers leave and rings are walked: a due full reset (R422), the DRBG, the
temperature's flags (R447), an engine that runs nothing, a domain that is retired and OFF (R449). One lemma for each operation. -/

namespace Sys2Proof.Proofs

open Sys2Proof.Machine Sys2Proof.Safety Sys2Proof.Laws

/-- A domain is retired and OFF (R449). -/
def Shelved (d : Pd) : Prop := d.retired = true ∧ d.st = .off

/-- What endures from `s` to `t`. -/
structure Endures (s t : State) : Prop where
  fatal : t.boot.fatal = s.boot.fatal
  rng : t.rng = s.rng
  tj : t.power.tj = s.power.tj
  throttled : t.power.throttled = s.power.throttled
  critical : t.power.tjCritical = s.power.tjCritical
  unused : ∀ i, (pdOf s i).running = none → (pdOf t i).running = none
  shelved : ∀ i, Shelved (pdOf s i) → Shelved (pdOf t i)

section
variable {s t u : State}

theorem Endures.refl (s : State) : Endures s s := ⟨rfl, rfl, rfl, rfl, rfl, fun _ => id, fun _ => id⟩

theorem Endures.trans (h : Endures s t) (k : Endures t u) : Endures s u :=
  ⟨k.fatal.trans h.fatal, k.rng.trans h.rng, k.tj.trans h.tj, k.throttled.trans h.throttled, k.critical.trans h.critical,
    fun i hi => k.unused i (h.unused i hi), fun i hi => k.shelved i (h.shelved i hi)⟩

/-- What `Endures` speaks of. -/
def lasting (s : State) : Bool × Rng × Power := (s.boot.fatal, s.rng, s.power)

/-- A change of what `Endures` does not speak of. -/
theorem endures_aside (h : lasting t = lasting s) : Endures s t := by
  simp only [lasting, Prod.mk.injEq] at h
  obtain ⟨hfatal, hrng, hpower⟩ := h
  refine ⟨hfatal, hrng, ?_, ?_, ?_, fun i => ?_, fun i => ?_⟩
  iterate 3 rw [hpower]
  iterate 2
    rw [pdOf_congr hpower]
    exact id

theorem endures_ite {c : Prop} [Decidable c] (ht : Endures s t) (hu : Endures s u) : Endures s (if c then t else u) := by
  split <;> assumption

theorem endures_foldl {β : Type} {f : State → β → State} (hf : ∀ t b, Endures t (f t b)) (l : List β) : Endures s (l.foldl f s) := by
  induction l generalizing s with
  | nil => exact Endures.refl s
  | cons b l ih => exact (hf s b).trans ih

/-- Domains that start no work, and of which none comes back from its retirement. -/
theorem endures_pds {l : List Pd} (hrun : ∀ i, (pdOf s i).running = none → (pdOf { s with power := { s.power with pds := l } } i).running = none)
    (hshelf : ∀ i, Shelved (pdOf s i) → Shelved (pdOf { s with power := { s.power with pds := l } } i)) :
    Endures s { s with power := { s.power with pds := l } } := ⟨rfl, rfl, rfl, rfl, rfl, hrun, hshelf⟩

theorem endures_modPd {i : Nat} {f : Pd → Pd} (hrun : ∀ d, d.running = none → (f d).running = none) (hshelf : ∀ d, Shelved d → Shelved (f d)) :
    Endures s (modPd s i f) := by
  refine endures_pds (fun j hj => ?_) (fun j hj => ?_)
  · change (pdOf (modPd s i f) j).running = none
    rcases pdOf_modPd s i j f with h | ⟨-, h⟩ <;> rw [h]
    · exact hj
    · exact hrun _ hj
  · change Shelved (pdOf (modPd s i f) j)
    rcases pdOf_modPd s i j f with h | ⟨-, h⟩ <;> rw [h]
    · exact hj
    · exact hshelf _ hj

/-! Hampers that leave (Machine/Ops.lean) -/

theorem endures_saveCounters (d : Nat) : Endures s (saveCounters d s) := by
  unfold saveCounters
  split
  · exact endures_ite (endures_aside rfl) (endures_aside rfl)
  · exact Endures.refl s

theorem endures_countMeter (d k n : Nat) : Endures s (countMeter d k n s) := by
  have hcounted : Endures s { s with live := assocPut s.live d ((countersOf s d).set k ((countersOf s d).getD k 0 + n)) } := endures_aside rfl
  exact endures_ite (Endures.refl s) (endures_ite (hcounted.trans (endures_saveCounters d)) hcounted)

/-- A retired bank is not woken by an access (R441, R449). -/
theorem endures_wakeBank (b : Nat) : Endures s (wakeBank s b) := by
  refine endures_modPd (fun d hd => ?_) (fun d ⟨hretired, hoff⟩ => ?_)
  · split
    · exact hd
    · split
      · split <;> exact hd
      · split <;> exact hd
      · exact hd
  · split
    · exact ⟨hretired, hoff⟩
    · simp [hoff, hretired, Shelved]

theorem endures_pantryPut (a : Nat) (v : Bytes) : Endures s (pantryPut s a v) := (endures_wakeBank (bankOf a)).trans (endures_aside rfl)

theorem endures_writeCompletion (r p a : Nat) (e : Bytes) (d : Done) : Endures s (writeCompletion s r p a e d) :=
  endures_ite ((endures_pantryPut a (completedBytes e d s.mono)).trans (endures_aside rfl)) (Endures.refl s)

theorem endures_completeEntry (x : Hamper) (e : TakenEntry) (d : Done) : Endures s (completeEntry s x e d) := by
  unfold completeEntry
  refine Endures.trans ?_ (endures_writeCompletion _ _ _ _ _)
  split
  · exact endures_ite (endures_countMeter _ _ _) (Endures.refl s)
  · exact Endures.refl s

theorem endures_settlePart (r : Nat) (e : Bytes) (d : Done) : Endures s (settlePart r e d s) :=
  endures_ite (endures_aside rfl) (endures_ite (endures_aside rfl) (Endures.refl s))

theorem endures_freeEngines (h : Nat) : Endures s (freeEngines s h) := by
  refine endures_pds (fun i hi => ?_) (fun i ⟨hretired, hoff⟩ => ?_)
  · change (pdOf (freeEngines s h) i).running = none
    rw [pdOf_freeEngines]
    simp only [engineFreed]
    split <;> simp [hi]
  · change Shelved (pdOf (freeEngines s h) i)
    rw [pdOf_freeEngines]
    refine ⟨?_, by rw [engineFreed_st, hoff]⟩
    simp only [engineFreed, engineNext]
    split <;> split <;> exact hretired

theorem endures_completed (x : Hamper) (rest : Done) : Endures s (completed s x rest) := by
  have hsettled : Endures s (x.entries.foldl (fun s e => if e.done.isNone then settlePart x.ring e.bytes rest s else s) s) :=
    endures_foldl (fun _ _ => endures_ite (endures_settlePart _ _ _) (Endures.refl _)) x.entries
  have hwritten := hsettled.trans (endures_foldl (fun _ e => endures_completeEntry x e (e.done.getD rest)) x.entries)
  have hdropped : Endures s (dropPosted x.posted _) := hwritten.trans (endures_aside rfl)
  exact hdropped.trans (endures_freeEngines x.id)

theorem endures_departed (x : Hamper) (rest : Done) : Endures s (departed x rest s) := endures_aside rfl
theorem endures_nextClaim (p h : Nat) : Endures s (nextClaim s p h) := endures_ite (endures_aside rfl) (Endures.refl s)
theorem endures_endDrain (r : Nat) : Endures s (endDrain s r) := endures_ite (endures_aside rfl) (Endures.refl s)

theorem endures_closeHamper (x : Hamper) (rest : Done) : Endures s (closeHamper s x rest) := by
  rw [closeHamper_eq, closed]
  exact (((endures_completed x rest).trans (endures_departed x rest)).trans (endures_nextClaim _ _)).trans (endures_endDrain _)

/-! Events and their reactions (Machine/Events.lean) -/

theorem endures_recordOnly (b src detail sev : Nat) (dom : Option Nat) : Endures s (recordOnly b src detail sev dom s) := endures_aside rfl

theorem endures_markAlive : Endures s (markAlive s) := endures_ite (endures_aside rfl) (Endures.refl s)

theorem endures_lowerMarks : Endures s (lowerMarks s) := by
  refine endures_foldl (fun t c => ?_) s.issue
  exact endures_ite (endures_aside rfl) (Endures.refl t)

theorem endures_checkpoint : Endures s (checkpoint s) := by
  have hsaved : Endures s (s.live.foldl (fun s c => saveCounters c.1 s) s) := endures_foldl (fun _ c => endures_saveCounters c.1) s.live
  exact (hsaved.trans endures_lowerMarks).trans (endures_aside rfl)

theorem endures_enginesErased : Endures s (enginesErased s) := by
  refine endures_pds (fun i _ => ?_) (fun i hi => ?_)
  · change (pdOf (enginesErased s) i).running = none
    rw [pdOf_enginesErased, engineErased]
  · change Shelved (pdOf (enginesErased s) i)
    rw [pdOf_enginesErased]
    exact hi

theorem endures_eraseEngines : Endures s (eraseEngines s) :=
  endures_enginesErased.trans (endures_foldl (f := recordRestart) (fun _ _ => endures_ite (endures_aside rfl) (Endures.refl _)) _)

theorem endures_emptied : Endures s { emptyStore s with loads := [] } := endures_aside rfl

theorem endures_eraseWork : Endures s (eraseWork s) := by
  have herased : Endures s (eraseEngines (markAlive s)) := endures_markAlive.trans endures_eraseEngines
  have hempty : Endures s { emptyStore (eraseEngines (markAlive s)) with loads := [] } := herased.trans endures_emptied
  unfold eraseWork
  dsimp only
  split
  · exact hempty
  · exact hempty.trans endures_checkpoint

theorem endures_flagQuarantine (b src : Nat) : Endures s (flagQuarantine b src s) := endures_aside rfl
theorem endures_quarantined : Endures s (quarantined s) := endures_aside rfl

theorem endures_enterQuarantine (b src : Nat) : Endures s (enterQuarantine b src s) := by
  have herased : Endures s (eraseWork (flagQuarantine b src s)) := (endures_flagQuarantine b src).trans endures_eraseWork
  unfold enterQuarantine
  dsimp only
  split
  · exact (endures_flagQuarantine b src).trans (endures_aside rfl)
  · exact (herased.trans (endures_foldl (fun _ _ => endures_closeHamper _ _) _)).trans endures_quarantined

theorem endures_suspendByEvent (b src d : Nat) : Endures s (suspendByEvent b src d s) := by
  have hsuspended : Endures s (if domExists s d then modDom s d (addCause 1) else s) := endures_ite (endures_aside rfl) (Endures.refl s)
  exact hsuspended.trans (endures_aside rfl)

theorem endures_reactBase (b src sev : Nat) (dom : Option Nat) : Endures s (reactBase b src sev dom s) := by
  refine endures_ite (endures_enterQuarantine b src) ?_
  split
  · exact endures_ite (endures_suspendByEvent _ _ _) (Endures.refl s)
  · exact Endures.refl s

theorem endures_captureSev (b src detail sev : Nat) (dom : Option Nat) : Endures s (captureSev b src detail sev dom s) := by
  have hrecorded := endures_recordOnly (s := s) b src detail sev dom
  exact endures_ite hrecorded (hrecorded.trans (endures_reactBase b src sev dom))

theorem endures_capture (b src detail : Nat) (dom : Option Nat) : Endures s (capture b src detail dom s) := endures_captureSev b src detail _ dom

theorem endures_noteDegraded : Endures s (noteDegraded s) := by
  have hdegraded : Endures s { s with power := { s.power with degraded := true } } := ⟨rfl, rfl, rfl, rfl, rfl, fun _ => id, fun _ => id⟩
  exact endures_ite (Endures.refl s) (hdegraded.trans (endures_capture 16 3 0 none))

/-- The last steps of a retirement: its event, DEGRADED, and BANK_LOST (R450, R451). -/
theorem endures_retirementNoted (i : Nat) : Endures s (if i = 36 ∨ i = 37 then
    capture 16 5 (i - 36) none (noteDegraded (capture 16 2 i none s)) else noteDegraded (capture 16 2 i none s)) := by
  have hnoted := (endures_capture (s := s) 16 2 i none).trans endures_noteDegraded
  exact endures_ite (hnoted.trans (endures_capture 16 5 (i - 36) none)) hnoted

theorem shelved_switchedOff (d : Pd) : Shelved (switchedOff d) := ⟨rfl, rfl⟩

/-- A retirement as logged, the domain switched off (R449, R452). -/
def laidAside (i cause : Nat) (s : State) : State := modPd (logRetirement s (repairKind i).1 (repairKind i).2 cause) i switchedOff

theorem endures_laidAside (i cause : Nat) : Endures s (laidAside i cause s) := by
  have hlogged : Endures s (logRetirement s (repairKind i).1 (repairKind i).2 cause) := endures_ite (endures_aside rfl) (Endures.refl s)
  exact hlogged.trans (endures_modPd (fun _ _ => rfl) fun d _ => shelved_switchedOff d)

/-- A retirement is the switching off, and what is noted of it (R449 to R451). -/
theorem retire_eq (i cause : Nat) (s : State) : retire i cause s = if (pdOf s i).retired then s else
    if i = 36 ∨ i = 37 then capture 16 5 (i - 36) none (noteDegraded (capture 16 2 i none (laidAside i cause s)))
    else noteDegraded (capture 16 2 i none (laidAside i cause s)) := rfl

theorem endures_retire (i cause : Nat) : Endures s (retire i cause s) := by
  rw [retire_eq]
  exact endures_ite (Endures.refl s) ((endures_laidAside i cause).trans (endures_retirementNoted i))

theorem endures_fence (i : Nat) : Endures s (fence i s) := by
  refine endures_ite (Endures.refl s) (endures_ite (Endures.trans ?_ (endures_retire i 4)) ?_)
  · exact endures_modPd (fun _ => id) fun _ => id
  · exact endures_modPd (fun _ => id) fun _ => id

theorem endures_reactMajor (b src detail sev : Nat) (dom : Option Nat) : Endures s (reactMajor b src detail sev dom s) := by
  refine endures_ite ?_ (Endures.refl s)
  split
  · exact endures_fence _
  · exact Endures.refl s

theorem endures_raise (b src detail : Nat) (dom : Option Nat) : Endures s (raise b src detail dom s) := by
  have hcaptured := endures_captureSev (s := s) b src detail (sevOf s b src) dom
  exact endures_ite hcaptured (hcaptured.trans (endures_reactMajor _ _ _ _ _))

theorem endures_restartWindow (w : Nat) : Endures s (restartWindow s w) := by
  have hrewound : Endures s (rewindWindow s w) := endures_aside rfl
  exact endures_ite (hrewound.trans (endures_raise _ _ _ _)) (Endures.refl s)

/-! Errors met in memory (Machine/Memory.lean) -/

theorem endures_faultRing (r cause : Nat) : Endures s (faultRing r cause s) := by
  unfold faultRing
  refine Endures.trans ?_ (endures_raise _ _ _ _)
  split <;> exact endures_aside rfl

theorem endures_finishEntry (h : Nat) (d : Done) : Endures s (finishEntry s h d) := by
  have hsettled : Endures s (settleCurrent h d s) := by
    unfold settleCurrent
    split
    · split
      · exact endures_settlePart _ _ _
      · exact Endures.refl s
    · exact Endures.refl s
  refine (hsettled.trans ?_).trans (endures_freeEngines h)
  exact endures_aside rfl

theorem endures_rebuildLeaf (w : Nat) : Endures s (rebuildLeaf w s) := endures_aside rfl
theorem endures_mem (m : MemState) : Endures s { s with mem := m } := endures_aside rfl
theorem endures_parts (c d : Assoc PartState) (l : List Nat) : Endures s { s with cipherParts := c, digestParts := d, lostParts := l } := endures_aside rfl
theorem endures_records (m d : List KnownManifest) : Endures s { s with manifests := m, debugManifests := d } := endures_aside rfl

theorem endures_strikeReserved (a : Nat) : Endures s (strikeReserved a s) := by
  unfold strikeReserved
  refine endures_ite ((endures_rebuildLeaf _).trans (endures_rebuildLeaf _)) (endures_ite (endures_mem _) (endures_ite (Endures.refl s) ?_))
  refine endures_ite (endures_foldl (fun _ (x : Hamper) => endures_finishEntry x.id _) _) (endures_ite (endures_parts _ _ _) ?_)
  exact endures_ite (endures_parts _ _ _) (endures_ite (endures_records _ _) (endures_ite (endures_records _ _) (endures_mem _)))

theorem endures_strikeContext (r : Nat) : Endures s (strikeContext r s) := by
  refine endures_ite (endures_ite (Endures.trans ?_ (endures_raise 5 1 r none)) (Endures.refl s)) (Endures.trans ?_ (endures_faultRing r 2))
  · exact endures_aside rfl
  · exact endures_aside rfl

theorem endures_strikePantry (a : Nat) : Endures s (strikePantry a s) := by
  unfold strikePantry
  split
  · exact endures_aside rfl
  · exact endures_strikeContext _
  · split
    · exact endures_aside rfl
    · exact Endures.refl s
  · split
    · refine Endures.trans ?_ (endures_raise 7 4 _ _)
      exact endures_aside rfl
    · exact Endures.refl s
  · exact (endures_strikeReserved a).trans (endures_raise _ _ _ _)

theorem endures_settleWords (a n : Nat) : Endures s (settleWords a n s) := endures_mem _

theorem endures_meetWord (a nbits src : Nat) : Endures s (meetWord a nbits src s) := by
  unfold meetWord
  split
  · exact endures_settleWords a 8
  split
  · split
    · exact Endures.refl s
    · exact (endures_mem _).trans (endures_raise _ _ _ _)
  · exact ((endures_mem _).trans (endures_strikePantry a)).trans (endures_raise _ _ _ _)

theorem endures_touchPantry (a n src : Nat) : Endures s (touchPantry a n src s) :=
  endures_foldl (fun _ (c : Nat × Nat) => endures_meetWord c.1 c.2 src) _

theorem endures_failLine (u : Nat) : Endures s (failLine u s) := by
  refine Endures.trans ?_ (endures_raise _ _ _ _)
  exact endures_aside rfl

theorem endures_touchParts (a n : Nat) : Endures s (touchParts a n s) :=
  endures_foldl (fun _ u => endures_ite (endures_failLine u) (Endures.refl _)) _

theorem endures_touchEdges (a n : Nat) : Endures s (touchEdges a n s) := by
  have hlow : Endures s (if a % 8 = 0 then s else touchPantry a 1 0 s) := endures_ite (Endures.refl s) (endures_touchPantry a 1 0)
  exact endures_ite hlow (hlow.trans (endures_touchPantry _ 1 0))

theorem endures_arenaPut (a : Nat) (v : Bytes) : Endures s (arenaPut s a v) := by
  unfold arenaPut
  extract_lets t gone u w
  have hu : Endures s u := (endures_touchEdges a v.length).trans (endures_foldl (fun _ _ => endures_wakeBank _) _)
  have hw : Endures s w := (hu.trans (endures_settleWords _ _)).trans (endures_foldl (fun _ u => endures_settleWords u 64) gone)
  exact hw.trans (endures_mem _)

theorem endures_writeArena (a : Nat) (v : Bytes) : Endures s (writeArena a v s) :=
  endures_ite (Endures.refl s) (endures_ite ((endures_touchParts a v.length).trans (endures_aside rfl)) (endures_arenaPut a v))

theorem endures_writeAt (h a : Nat) (v : Bytes) : Endures s (writeAt h a v s) := by
  unfold writeAt
  split
  · exact Endures.refl s
  · exact endures_ite (Endures.refl s) (endures_ite (endures_aside rfl) (endures_ite (endures_writeArena a v) (Endures.refl s)))

theorem endures_failEntry (h status detail : Nat) : Endures s (failEntry h status detail s) := by
  unfold failEntry
  split
  · exact Endures.refl s
  · refine endures_ite (Endures.trans ?_ (endures_finishEntry h _)) (endures_finishEntry h _)
    exact endures_aside rfl

/-! Engines that are struck (Machine/Operands.lean) -/

theorem endures_strikeHamper (h status detail : Nat) : Endures s (strikeHamper h status detail s) := by
  unfold strikeHamper
  split
  · exact Endures.refl s
  · split
    · exact Endures.refl s
    · exact (endures_writeAt _ _ _).trans (endures_failEntry _ _ _)

theorem endures_strikeOccupant (status detail : Nat) (o : Occupant) : Endures s (strikeOccupant status detail o s) := by
  cases o with
  | hamper h => exact endures_strikeHamper h status detail
  | tongs w => exact endures_restartWindow w

theorem endures_eraseEngine (status detail i : Nat) : Endures s (eraseEngine status detail i s) := by
  unfold eraseEngine
  refine Endures.trans (endures_foldl (fun t o => ?_) _) (endures_modPd (fun _ _ => rfl) fun _ hd => hd)
  split
  · exact endures_strikeOccupant _ _ _
  · exact Endures.refl t

theorem endures_alarmOn (l : List Nat) : Endures s (alarmOn l s) := by
  have herased := endures_foldl (s := s) (f := fun s (c : Nat × Option Nat) => eraseEngine 0x52 0 c.1 s) (fun _ _ => endures_eraseEngine _ _ _)
  exact (herased _).trans (endures_foldl (fun _ _ => (endures_raise _ _ _ _).trans (endures_fence _)) _)

/-! Rings that are walked and reclaimed (Machine/Queue.lean, Machine/Faults.lean) -/

theorem endures_walkEntries (r f i : Nat) (ph : Bool) (done run : List TakenEntry) : Endures s (walkEntries r f i ph done run s).1 := by
  induction f generalizing i ph done run s with
  | zero => exact Endures.refl s
  | succ f ih =>
    have hread : Endures s (wakeBank (touchPantry (entryAddr (ringOf s r) i) 64 0 s) (bankOf (entryAddr (ringOf s r) i))) :=
      (endures_touchPantry _ 64 0).trans (endures_wakeBank _)
    unfold walkEntries
    dsimp only
    split
    · exact hread
    split
    · exact hread
    split
    · exact hread
    split
    · exact hread.trans (ih _ _ _ _)
    · exact hread.trans (ih _ _ _ _)

theorem endures_rings (r : Nat) (f : Ring → Ring) : Endures s (modRing s r f) := endures_aside rfl

theorem endures_walkRing (r status : Nat) : Endures s (walkRing r status s) := by
  have hwalk := endures_walkEntries (s := s) r (ringRoom (ringOf s r)) (ringOf s r).tail (ringOf s r).tailPhase [] []
  unfold walkRing
  extract_lets g x t u v w
  have ht : Endures s t := hwalk.trans (endures_rings _ _)
  have hv : Endures s v := (ht.trans (endures_foldl (fun _ _ => endures_writeCompletion _ _ _ _ _) _)).trans
    (endures_foldl (fun _ _ => endures_writeCompletion _ _ _ _ _) _)
  have hw : Endures s w := hv.trans (endures_rings _ _)
  exact endures_ite (hw.trans (endures_faultRing r 1)) hw

theorem endures_abortUnadmitted (r status : Nat) (detail : Hamper → Nat) : Endures s (abortUnadmitted r status detail s) :=
  endures_foldl (fun _ _ => endures_closeHamper _ _) _

theorem endures_reclaimHamper (h : Nat) : Endures s (reclaimHamper h s) := by
  have hstruck (c c' c'' : Prop) [Decidable c] [Decidable c'] [Decidable c''] (d : Done) :
      Endures s (if c then finishEntry s h d else if c' then strikeHamper h stReclaim 5 s else if c'' then finishEntry s h d else s) :=
    endures_ite (endures_finishEntry h d) (endures_ite (endures_strikeHamper h stReclaim 5) (endures_ite (endures_finishEntry h d) (Endures.refl s)))
  unfold reclaimHamper
  split
  · exact Endures.refl s
  · refine endures_ite (Endures.refl s) (endures_ite (endures_aside rfl) ?_)
    dsimp only
    split
    · exact (hstruck _ _ _ _).trans (endures_closeHamper _ _)
    · exact hstruck _ _ _ _

/-- A reclaim leaves a due full reset due, and makes none so (R422, R423). -/
theorem endures_reclaim (p : Nat) : Endures s (reclaim p s) := by
  unfold reclaim
  extract_lets rs paused aborted walked reclaimed
  have hpaused : Endures s paused := by
    refine endures_foldl (fun t r => ?_) rs
    exact endures_ite (endures_aside rfl) (Endures.refl t)
  have haborted : Endures s aborted := hpaused.trans (endures_foldl (fun _ _ => endures_abortUnadmitted _ _ _) rs)
  have hwalked : Endures s walked := haborted.trans (endures_foldl (fun _ _ => endures_ite (endures_walkRing _ _) (Endures.refl _)) rs)
  have hreclaimed : Endures s reclaimed := hwalked.trans (endures_foldl (fun _ (x : Hamper) => endures_reclaimHamper x.id) _)
  exact hreclaimed.trans (endures_aside rfl)

end
end Sys2Proof.Proofs
end

section
/-! PROOFS. The service and the failures of an Egg timer (R421 to R425); and O37. -/

namespace Sys2Proof.Proofs

open Sys2Proof.Machine Sys2Proof.Safety Sys2Proof.Laws

section
variable {s t : State} {p cause v : Nat} {e : BootEnv}

/-! Failures -/

/-- The record of a failure on a port's Egg timer (R425). -/
def failureRecorded (p cause : Nat) (s : State) : State :=
  modPort s p (fun x => { x with wdt := { (portOf s p).wdt with
    fails := min 15 ((portOf s p).wdt.fails + 1), cause := cause, start := s.mono, half := false } })

/-- The failure as recorded and raised, before its ACTION (R422, R425). -/
def failureNoted (p cause : Nat) (s : State) : State := raise p 6 cause none (failureRecorded p cause s)

/-- ACTION of a failure of a port's Egg timer, carried out (R422). -/
def actionTaken (p action : Nat) (s : State) : State :=
  match action with
  | 1 => setActing p (modPort s p (fun x => { x with wdt := { x.wdt with quiesced := true } }))
  | 2 => setActing p (reclaim p s)
  | 3 => { checkpoint s with boot := { (checkpoint s).boot with fatal := true } }
  | _ => s

theorem wdtFail_eq (p cause : Nat) (s : State) :
    wdtFail p cause s = actionTaken p (portOf (failureNoted p cause s) p).wdt.action (failureNoted p cause s) := rfl

/-- At severity INFO or MINOR the failure leaves the port's ACTION (R413). -/
theorem action_failureNoted (hsev : sevOf s p 6 ≤ 1) (hp : p < s.ports.length) :
    (portOf (failureNoted p cause s) p).wdt.action = (portOf s p).wdt.action := by
  obtain ⟨hb, h⟩ := raise_minor_frame (s := failureRecorded p cause s) (detail := cause) (dom := none) hsev
  rw [failureNoted, h]
  change (portOf (failureRecorded p cause s) p).wdt.action = _
  rw [failureRecorded, portOf_modPort_same _ _ _ hp]

theorem fatal_failureNoted : (failureNoted p cause s).boot.fatal = s.boot.fatal := (endures_raise _ _ _ _).fatal

theorem wdtFail_action {a : Nat} (hsev : sevOf s p 6 ≤ 1) (hp : p < s.ports.length) (ha : (portOf s p).wdt.action = a) :
    wdtFail p cause s = actionTaken p a (failureNoted p cause s) := by
  rw [wdtFail_eq, action_failureNoted hsev hp, ha]

/-- QUIESCE holds the port's rings (R422). -/
theorem actionTaken_hold : actionTaken p 1 s = modPort s p (fun x => { x with wdt := { x.wdt with quiesced := true, acting := true } }) := by
  rw [actionTaken, setActing, modPort_modPort]

/-! The full reset of a FATAL failure -/

theorem fatalReset_none (h : s.boot.fatal = false) : fatalReset e s = s := by simp [fatalReset, h]

/-- After the full reset of a FATAL failure the device is in BOOT with RESET_CAUSE 2, nothing taken, no key, and the timers at reset (R120, R422). -/
theorem fatalReset_due (h : s.boot.fatal = true) : (fatalReset e s).boot.mode = .boot ∧ (fatalReset e s).boot.resetCause = 2
    ∧ (fatalReset e s).hampers = [] ∧ (fatalReset e s).keys = [] ∧ (portOf (fatalReset e s) p).wdt = {} := by
  rw [fatalReset, if_pos h]
  obtain ⟨hmode, hcause, -, -, -, hhampers, -, hkeys, -, -, -, hports, -⟩ := restarted_fullReset 2 e s
  refine ⟨hmode, hcause, hhampers, hkeys, ?_⟩
  rw [portOf, hports]
  by_cases hp : p < 4
  · rw [List.getD_replicate _ hp]
    rfl
  · rw [List.getD_eq_default _ _ (by simpa using hp)]
    rfl

/-! `WDT_SVC` -/

/-- What a key means as the service stands: the first key in an open window, the second after it, or a failure with its cause (R421). -/
theorem wdtKey_first (hen : (portOf s p).wdt.en = true) (hcounts : wdtCounts s = true) (hhalf : (portOf s p).wdt.half = false)
    (hopen : wdtOpen s p = true) : wdtKey p 0x6E3A s = modPort s p (fun x => { x with wdt := { (portOf s p).wdt with half := true } }) := by
  have hkey : wdtKey p 0x6E3A s = modPort s p (fun x => { x with wdt := { x.wdt with half := true } }) := by
    simp [wdtKey, hen, hcounts, hhalf, hopen]
  exact hkey.trans (modPort_wdt rfl)

theorem wdtKey_second (hen : (portOf s p).wdt.en = true) (hcounts : wdtCounts s = true) (hhalf : (portOf s p).wdt.half = true)
    (hfree : (portOf s p).wdt.quiesced = false) :
    wdtKey p 0x91C5 s = modPort s p (fun x => { x with wdt := { (portOf s p).wdt with start := s.mono, half := false, acting := false } }) := by
  have hserved : wdtKey p 0x91C5 s = wdtServed p s := by
    simp [wdtKey, hen, hcounts, hhalf]
  rw [hserved, wdtServed, liftHold_after (f := fun x => { x with wdt := { x.wdt with start := s.mono, half := false, acting := false } })
    (.inl hfree) fun _ => rfl]
  refine modPort_wdt ?_
  rw [← hfree]

/-- A key that fails the service, with its cause (R421, R425). -/
def Fails (s : State) (p v cause : Nat) : Prop :=
  (v ≠ 0x6E3A ∧ v ≠ 0x91C5 ∧ cause = 2) ∨ (v = 0x6E3A ∧ (portOf s p).wdt.half = true ∧ cause = 3)
    ∨ (v = 0x91C5 ∧ (portOf s p).wdt.half = false ∧ cause = 3) ∨ (v = 0x6E3A ∧ (portOf s p).wdt.half = false ∧ wdtOpen s p = false ∧ cause = 4)

theorem wdtKey_fails (hen : (portOf s p).wdt.en = true) (hcounts : wdtCounts s = true) (h : Fails s p v cause) :
    wdtKey p v s = wdtFail p cause s := by
  obtain ⟨h1, h2, rfl⟩ | ⟨rfl, hhalf, rfl⟩ | ⟨rfl, hhalf, rfl⟩ | ⟨rfl, hhalf, hopen, rfl⟩ := h
  · simp [wdtKey, hen, hcounts, h1, h2]
  · simp [wdtKey, hen, hcounts, hhalf]
  · simp [wdtKey, hen, hcounts, hhalf]
  · simp [wdtKey, hen, hcounts, hhalf, hopen]

/-- A service key that is served. -/
theorem wdtSvc_served {p : Port} {k : Link} {v : Word} (h : ServesReg s p k 0x024 v.toNat) :
    exec (.wdtSvc p k v e) s = .next (fatalReset e (recordWr p 0x11 wrOk (wdtKey p v.toNat (respond p .silent s)))) := by
  have hv := v.isLt
  exact congrArg (fun t => Host.Outcome.next (fatalReset e t)) (regFrame_portPage h (by decide) (by decide) (by decide) hv rfl)

/-! `WDT_TIMEOUT` -/

theorem wdtTimeout_quiet (hen : (portOf s p).wdt.en = true) (hcounts : wdtCounts s = true)
    (hdue : boundaryDue ((portOf s p).wdt.start + msTicks (portOf s p).wdt.timeoutMs) s = false) :
    wdtTimeout p e s = fatalReset e (wdtFail p 1
      { s with mono := max s.mono ((portOf s p).wdt.start + msTicks (portOf s p).wdt.timeoutMs) }) := by
  simp only [wdtTimeout, hen, hcounts, Bool.and_self, if_true, elapseTo_quiet hdue]

/-- After a reclaim the port has no part-state record (R423). -/
theorem parts_reclaim : (∀ c ∈ (setActing p (reclaim p s)).cipherParts, c.2.port ≠ p) ∧ ∀ c ∈ (setActing p (reclaim p s)).digestParts, c.2.port ≠ p := by
  refine ⟨fun c hc => ?_, fun c hc => ?_⟩
  · have hleft := (List.mem_filter.1 hc).2
    simpa using hleft
  · have hleft := (List.mem_filter.1 hc).2
    simpa using hleft

theorem acting_reclaim (hshape : Shape s) {p : Port} : (portOf (setActing p (reclaim p s)) p).wdt.acting = true := by
  obtain ⟨hports, -⟩ := (keeps_reclaim p (Keeps.refl s)).2.1 hshape
  rw [setActing, portOf_modPort_same _ _ _ (by rw [hports]; exact p.isLt)]

end

/-- Settles O37: each key and the timeout are a service or a failure with its cause; ACTION of the failure, raised at INFO or MINOR, follows. -/
theorem eggTimerServiceAndFailure : Obligations.EggTimerServiceAndFailure := by
  unfold Obligations.EggTimerServiceAndFailure
  intro s p k e hshape hcounts hen hfatal hsev b w
  have hw : (portOf b p).wdt = w := respond_wdt s p p .silent
  have hp : p.val < s.ports.length := by rw [hshape.1]; exact p.isLt
  have hpb : p.val < b.ports.length := by
    rw [show b = modPort s p (fun x => { x with response := .silent }) from rfl, modPort_ports, List.length_set]
    exact hp
  have henb : (portOf b p).wdt.en = true := by rw [hw]; exact hen
  have hopenb : wdtOpen b p = wdtOpen s p := by
    simp only [wdtOpen, wdtElapsed, hw]
    rfl
  refine ⟨fun h hhalf hopen => ?_, fun h hhalf hfree => ?_, fun v c h hfails => ?_, fun m hm hdue u hu => ?_⟩
  · refine (wdtSvc_served (v := 0x6E3A) h).trans (congrArg Host.Outcome.next ?_)
    have hkey := wdtKey_first henb hcounts (by rw [hw]; exact hhalf) (hopenb.trans hopen)
    rw [hw] at hkey
    change fatalReset e (recordWr p 0x11 wrOk (wdtKey p 0x6E3A b)) = _
    rw [hkey]
    exact fatalReset_none hfatal
  · refine (wdtSvc_served (v := 0x91C5) h).trans (congrArg Host.Outcome.next ?_)
    have hkey := wdtKey_second henb hcounts (by rw [hw]; exact hhalf) (by rw [hw]; exact hfree)
    rw [hw] at hkey
    change fatalReset e (recordWr p 0x11 wrOk (wdtKey p 0x91C5 b)) = _
    rw [hkey]
    exact fatalReset_none hfatal
  · have hcause : Fails b p v.toNat c := by
      rw [Fails, hw, hopenb]
      simpa [BitVec.toNat_inj, ← BitVec.toNat_inj] using hfails
    have hkey := wdtKey_fails henb hcounts hcause
    have hexec := (wdtSvc_served (e := e) h).trans (by rw [hkey])
    have hact (a : Nat) (ha : w.action = a) : wdtFail p c b = actionTaken p a (failureNoted p c b) :=
      wdtFail_action hsev hpb (by rw [hw]; exact ha)
    refine ⟨fun ha => ?_, fun ha => ?_⟩
    · have hnone : (recordWr p 0x11 wrOk (failureNoted p c b)).boot.fatal = false := fatal_failureNoted.trans hfatal
      rw [hact 0 ha] at hexec
      refine hexec.trans (congrArg Host.Outcome.next ((fatalReset_none hnone).trans ?_))
      rw [failureNoted, failureRecorded, hw]
      rfl
    · rw [hact 3 ha] at hexec
      exact ⟨_, hexec, fatalReset_due rfl⟩
  · have hexec : exec (.wdtTimeout p e) s = _ := congrArg Host.Outcome.next (wdtTimeout_quiet (e := e) hen hcounts hdue)
    have hnoted : failureNoted p 1 { s with mono := m } = u := by rw [hu]; rfl
    have hufatal : u.boot.fatal = false := by rw [← hnoted]; exact fatal_failureNoted.trans hfatal
    have hact (a : Nat) (ha : w.action = a) := wdtFail_action (cause := 1) (s := { s with mono := m }) hsev hp ha
    rw [hnoted] at hact
    rw [← hm] at hexec
    refine ⟨fun ha => ?_, fun ha => ?_, fun ha => ?_, fun ha => ?_⟩
    · rw [hact 0 ha] at hexec
      exact hexec.trans (congrArg Host.Outcome.next (fatalReset_none hufatal))
    · rw [hact 1 ha, actionTaken_hold] at hexec
      exact hexec.trans (congrArg Host.Outcome.next (fatalReset_none hufatal))
    · have hushape : Shape u := by rw [← hnoted]; exact (keeps_raise _ _ _ _ (keeps_modPort _ _ (Keeps.refl _))).2.1 hshape
      rw [hact 2 ha] at hexec
      exact ⟨_, hexec.trans (congrArg Host.Outcome.next (fatalReset_none ((endures_reclaim p).fatal.trans hufatal))), acting_reclaim hushape, parts_reclaim⟩
    · rw [hact 3 ha] at hexec
      exact ⟨_, hexec, fatalReset_due rfl⟩

end Sys2Proof.Proofs
end

section
/-! PROOFS. Power domains that close, are gated and wake (R361, R434 to R442, R446). -/

namespace Sys2Proof.Proofs

open Sys2Proof.Machine Sys2Proof.Safety Sys2Proof.Laws

section
variable {s t : State} {i j : Nat}

/-! A wake that is asked for -/

/-- A domain whose wake may be asked for (R436, R440). -/
def MayWake (d : Pd) : Prop := d.retired = false ∧ d.policy ≠ .forceOff

/-- It stands open and gated. -/
def Gated (d : Pd) : Prop := d.closed = false ∧ (d.st = .off ∨ d.st = .retain)

theorem requestWake_closed (hmay : MayWake (pdOf s i)) (hclosed : (pdOf s i).closed = true) :
    requestWake i s = modPd s i (fun d => { d with wakeWanted := true }) := by
  obtain ⟨hretired, hpolicy⟩ := hmay
  simp [requestWake, hretired, hpolicy, hclosed]

/-- Banks, ports and the always-counted domains wake at once (R436). -/
theorem requestWake_apart (hi : 36 ≤ i) (hmay : MayWake (pdOf s i)) (hgated : Gated (pdOf s i)) :
    requestWake i s = modPd s i (fun d => { d with st := .waking }) := by
  obtain ⟨hretired, hpolicy⟩ := hmay
  obtain ⟨hopen, hst | hst⟩ := hgated <;> simp [requestWake, hretired, hpolicy, hopen, hst, hi]

/-- An engine wakes at once while fewer than four have in the running microsecond (R436). -/
theorem requestWake_engine (hi : i < 36) (hmay : MayWake (pdOf s i)) (hgated : Gated (pdOf s i)) (hnow : s.power.wakesNow < 4) :
    requestWake i s = modPd { s with power := { s.power with wakesNow := s.power.wakesNow + 1 } } i (fun d => { d with st := .waking }) := by
  obtain ⟨hretired, hpolicy⟩ := hmay
  obtain ⟨hopen, hst | hst⟩ := hgated <;> simp [requestWake, hretired, hpolicy, hopen, hst, hi, hnow]

/-- Else it queues (R436). -/
theorem requestWake_queues (hi : i < 36) (hmay : MayWake (pdOf s i)) (hgated : Gated (pdOf s i)) (hnow : 4 ≤ s.power.wakesNow)
    (hqueued : (pdOf s i).wakeQueued = false) :
    requestWake i s = modPd { s with power := { s.power with wakeQueue := s.power.wakeQueue ++ [i] } } i (fun d => { d with wakeQueued := true }) := by
  obtain ⟨hretired, hpolicy⟩ := hmay
  obtain ⟨hopen, hst | hst⟩ := hgated <;>
    simp [requestWake, hretired, hpolicy, hopen, hst, hi, hqueued, Nat.not_lt.2 hnow]

/-- A domain whose wake starts is WAKING and otherwise as it was. -/
theorem pdOf_requestWake (hlen : i < s.power.pds.length) (hmay : MayWake (pdOf s i)) (hgated : Gated (pdOf s i))
    (hnow : 36 ≤ i ∨ s.power.wakesNow < 4) : pdOf (requestWake i s) i = { pdOf s i with st := .waking } := by
  by_cases hi : 36 ≤ i
  · rw [requestWake_apart hi hmay hgated, pdOf_modPd_same _ _ _ hlen]
  · rw [requestWake_engine (Nat.lt_of_not_le hi) hmay hgated (hnow.resolve_left hi)]
    exact pdOf_modPd_same { s with power := { s.power with wakesNow := s.power.wakesNow + 1 } } i _ hlen

/-- A wake concerns its domain alone. -/
theorem pdOf_requestWake_ne (h : j ≠ i) : pdOf (requestWake i s) j = pdOf s j := by
  unfold requestWake
  dsimp only
  split
  · rfl
  · split
    · exact pdOf_modPd_ne _ _ h.symm
    · split
      · rfl
      · rfl
      all_goals
        split
        · exact pdOf_modPd_ne _ _ h.symm
        · split
          · exact pdOf_modPd_ne _ _ h.symm
          · split
            · rfl
            · exact pdOf_modPd_ne _ _ h.symm

/-- A domain that is retired is never woken (R449). -/
theorem requestWake_retired (h : (pdOf s i).retired = true) : requestWake i s = s := by simp [requestWake, h]

theorem workStands_power (w : Power) (s : State) : WorkStands s { s with power := w } := ⟨rfl, rfl, rfl, rfl, rfl, rfl, rfl⟩

theorem workStands_requestWake (i : Nat) (s : State) : WorkStands s (requestWake i s) := by
  obtain ⟨w, hw⟩ := requestWake_frame i s
  rw [hw]
  exact workStands_power w s

/-! A domain that is gated -/

/-- A bank that holds an allocation RETAINs (R361). -/
def keepsContent (s : State) (i : Nat) : Bool := decide (36 ≤ i) && decide (i < 44) && bankAllocated s (i - 36)

/-- A domain in its gated state. -/
def pdGated (keeps : Bool) (d : Pd) : Pd := { d with st := if keeps then .retain else .off, closed := false, wakeWanted := false }

/-- What a domain that goes OFF loses: an unallocated bank its octets, `PD_48` the cache, `PD_49` the key store (R361, R434, R442). -/
def contentLost (keeps : Bool) (i : Nat) (s : State) : State :=
  if keeps then s
  else if 36 ≤ i ∧ i < 44 then bankOff (i - 36) s
  else if i = 48 then emptyCache s
  else if i = 49 then { emptyStore s with rng := { s.rng with restarting := false } } else s

theorem switchOff_eq (i : Nat) (s : State) :
    switchOff i s = contentLost (keepsContent s i) i (modPd s i (pdGated (keepsContent s i))) := rfl

theorem contentLost_frame (keeps : Bool) (i : Nat) (s : State) : (contentLost keeps i s).rings = s.rings
    ∧ (contentLost keeps i s).hampers = s.hampers ∧ (contentLost keeps i s).thermos = s.thermos ∧ (contentLost keeps i s).power = s.power := by
  unfold contentLost
  split_ifs <;> exact ⟨rfl, rfl, rfl, rfl⟩

theorem contentLost_pantry (keeps : Bool) (i : Nat) (s : State) (a : Nat) : assocGetD 0 (contentLost keeps i s).mem.pantry a =
    if 36 ≤ i ∧ i < 44 ∧ keeps = false ∧ bankOf a = i - 36 then 0 else assocGetD 0 s.mem.pantry a := by
  cases keeps with
  | true => simp [contentLost]
  | false =>
    by_cases hbank : 36 ≤ i ∧ i < 44
    · have hplace : ((i - 36) * 0x00200000 ≤ a ∧ a < (i - 36) * 0x00200000 + 0x00200000) ↔ bankOf a = i - 36 := by
        unfold bankOf
        omega
      have hlost : contentLost false i s = bankOff (i - 36) s := by simp [contentLost, hbank]
      rw [hlost, bankOff, wipeRange, assocGetD_clear]
      simp [hbank, hplace]
    · have hstands : (contentLost false i s).mem.pantry = s.mem.pantry := by
        unfold contentLost
        simp only [Bool.false_eq_true, if_false, if_neg hbank]
        split_ifs <;> rfl
      rw [hstands, if_neg fun h => hbank ⟨h.1, h.2.1⟩]

theorem contentLost_cache (hkeeps : ¬(36 ≤ i ∧ i < 44) → keepsContent t i = false) (s : State) :
    (contentLost (keepsContent t i) i s).mp.cache = if i = 48 then [] else s.mp.cache := by
  by_cases hi : i = 48
  · subst hi
    rw [hkeeps (by omega)]
    rfl
  · rw [if_neg hi]
    unfold contentLost
    rw [if_neg hi]
    split_ifs <;> rfl

theorem contentLost_keys (hkeeps : ¬(36 ≤ i ∧ i < 44) → keepsContent t i = false) (s : State) :
    (contentLost (keepsContent t i) i s).keys = if i = 49 then [] else s.keys := by
  by_cases hi : i = 49
  · subst hi
    rw [hkeeps (by omega)]
    rfl
  · rw [if_neg hi]
    unfold contentLost
    rw [if_neg hi]
    split_ifs <;> rfl

/-- Only banks keep content (R361). -/
theorem keepsContent_bank (s : State) (h : ¬(36 ≤ i ∧ i < 44)) : keepsContent s i = false := by
  by_cases hlo : 36 ≤ i
  · simp [keepsContent, show ¬i < 44 by omega]
  · simp [keepsContent, hlo]

theorem pdOf_switchOff (hlen : i < s.power.pds.length) : pdOf (switchOff i s) i = pdGated (keepsContent s i) (pdOf s i) := by
  rw [switchOff_eq, pdOf_congr (contentLost_frame _ _ _).2.2.2, pdOf_modPd_same _ _ _ hlen]

theorem pdOf_switchOff_ne (h : j ≠ i) : pdOf (switchOff i s) j = pdOf s j := by
  rw [switchOff_eq, pdOf_congr (contentLost_frame _ _ _).2.2.2, pdOf_modPd_ne _ _ h.symm]

/-- A domain that is not closed, not ON or not drained is not gated (R440). -/
theorem gateDomain_undue (h : (pdOf s i).closed = false ∨ (pdOf s i).st ≠ .on ∨ drained s i = false) : gateDomain i s = s := by
  have hno : ¬((pdOf s i).closed && decide ((pdOf s i).st = .on) && drained s i) = true := by
    simp only [Bool.and_eq_true, decide_eq_true_eq]
    rintro ⟨⟨hclosed, hon⟩, hdrained⟩
    simp [hclosed, hon, hdrained] at h
  exact if_neg hno

theorem gateDomain_due (hclosed : (pdOf s i).closed = true) (hon : (pdOf s i).st = .on) (hdrained : drained s i = true) :
    gateDomain i s = if (pdOf s i).wakeWanted then requestWake i (switchOff i s) else switchOff i s := by
  simp only [gateDomain, hclosed, hon, hdrained, decide_true, Bool.and_self, if_true]

/-- Gating, with the wake asked for meanwhile, changes but the domain what the domain loses. -/
theorem gateDomain_frame (hclosed : (pdOf s i).closed = true) (hon : (pdOf s i).st = .on) (hdrained : drained s i = true) :
    ∃ w, gateDomain i s = { switchOff i s with power := w } := by
  rw [gateDomain_due hclosed hon hdrained]
  split
  · exact requestWake_frame i (switchOff i s)
  · exact ⟨_, rfl⟩

theorem pdOf_gateDomain (hlen : i < s.power.pds.length) (hclosed : (pdOf s i).closed = true) (hon : (pdOf s i).st = .on)
    (hdrained : drained s i = true) (hwanted : (pdOf s i).wakeWanted = false) :
    pdOf (gateDomain i s) i = { pdOf s i with st := if keepsContent s i then .retain else .off, closed := false } := by
  rw [gateDomain_due hclosed hon hdrained, if_neg (by simp [hwanted]), pdOf_switchOff hlen, pdGated, hwanted.symm]

theorem pdOf_gateDomain_ne (hclosed : (pdOf s i).closed = true) (hon : (pdOf s i).st = .on) (hdrained : drained s i = true) (h : j ≠ i) :
    pdOf (gateDomain i s) j = pdOf s j := by
  rw [gateDomain_due hclosed hon hdrained]
  split
  · rw [pdOf_requestWake_ne h, pdOf_switchOff_ne h]
  · exact pdOf_switchOff_ne h

/-- A wake asked for while the domain drained starts (R440). -/
theorem st_gateDomain_wanted (hlen : i < s.power.pds.length) (hclosed : (pdOf s i).closed = true) (hon : (pdOf s i).st = .on)
    (hdrained : drained s i = true) (hwanted : (pdOf s i).wakeWanted = true) (hmay : MayWake (pdOf s i)) (hnow : 36 ≤ i ∨ s.power.wakesNow < 4) :
    (pdOf (gateDomain i s) i).st = .waking := by
  have hpower : (switchOff i s).power = (modPd s i (pdGated (keepsContent s i))).power := (contentLost_frame _ _ _).2.2.2
  have hpd := pdOf_switchOff hlen
  have hlen' : i < (switchOff i s).power.pds.length := by rw [hpower, modPd_power, List.length_set]; exact hlen
  have hgated : Gated (pdOf (switchOff i s) i) := by
    rw [hpd]
    refine ⟨rfl, ?_⟩
    cases keepsContent s i
    · exact .inl rfl
    · exact .inr rfl
  rw [gateDomain_due hclosed hon hdrained, if_pos hwanted, pdOf_requestWake hlen' (by rw [hpd]; exact hmay) hgated (by rw [hpower]; exact hnow)]

/-! Queued wakes -/

/-- A queued wake starts (R436). -/
def queuedStarted (d : Pd) : Pd :=
  if d.retired then { d with wakeQueued := false } else { d with wakeQueued := false, st := if d.st = .on then .on else .waking }

theorem queuedStarted_twice (d : Pd) : queuedStarted (queuedStarted d) = queuedStarted d := by
  unfold queuedStarted
  by_cases hr : d.retired = true
  · simp [hr]
  · by_cases hon : d.st = .on <;> simp [hr, hon]

theorem wakeQueued_queuedStarted (d : Pd) : (queuedStarted d).wakeQueued = false := by
  unfold queuedStarted
  split <;> rfl

theorem st_queuedStarted {d : Pd} (h : d.retired = false) : (queuedStarted d).st = if d.st = .on then .on else .waking := by
  rw [queuedStarted, if_neg (by simp [h])]

/-- The domains of a change of several are all that it changes. -/
theorem foldl_modPd_pds (f : Pd → Pd) (l : List Nat) (s : State) :
    ∃ ds, l.foldl (fun s j => modPd s j f) s = { s with power := { s.power with pds := ds } } := by
  induction l generalizing s with
  | nil => exact ⟨_, rfl⟩
  | cons j l ih =>
    obtain ⟨ds, h⟩ := ih (modPd s j f)
    exact ⟨ds, h⟩

/-- The wakes that have started leave the queue (R436). -/
def queueTaken (s : State) : State :=
  { s with power := { s.power with wakeQueue := s.power.wakeQueue.drop 4, wakesNow := (s.power.wakeQueue.take 4).length } }

theorem startQueued_eq (s : State) : startQueued s = (s.power.wakeQueue.take 4).foldl (fun s j => modPd s j queuedStarted) (queueTaken s) := rfl

theorem startQueued_frame (s : State) : ∃ ds, startQueued s = { queueTaken s with power := { (queueTaken s).power with pds := ds } } :=
  foldl_modPd_pds _ _ _

theorem pdOf_startQueued (h : i ∈ s.power.wakeQueue.take 4 → i < s.power.pds.length) :
    pdOf (startQueued s) i = if i ∈ s.power.wakeQueue.take 4 then queuedStarted (pdOf s i) else pdOf s i := by
  rw [startQueued_eq]
  exact pdOf_foldl_modPd_eq (s := queueTaken s) queuedStarted_twice h

/-! A held entry -/

theorem holdWake_unneeded {h : Nat} (hneed : (hamperOf s h).bind (waitingNeed s) = none) : holdWake h s = s := by simp [holdWake, hneed]

theorem holdWake_single {h : Nat} {l : List Nat} (hneed : (hamperOf s h).bind (waitingNeed s) = some [l]) : holdWake h s = wakeOne h 1 l s := by
  simp [holdWake, hneed, wakeFor]

/-- An engine of the class is awake or on its way (R441). -/
theorem wakeOne_served {h : Nat} {l : List Nat} (hany : l.any (fun i => awake (pdOf s i) || coming (pdOf s i)) = true) : wakeOne h 1 l s = s := by
  obtain ⟨i, hi, hon⟩ := List.any_eq_true.1 hany
  exact if_pos (List.length_pos_of_mem (List.mem_filter.2 ⟨hi, hon⟩))

/-- None is: the first that may wake does, if its charge fits (R441, R446). -/
theorem wakeOne_first {h : Nat} {l : List Nat} (hany : l.any (fun i => awake (pdOf s i) || coming (pdOf s i)) = false)
    (hfind : l.find? (fun i => wakeable (pdOf s i)) = some i) :
    wakeOne h 1 l s = if capFits s h (setCharge [i]) then requestWake i s else capRefuse h s := by
  have hnone : l.filter (fun i => awake (pdOf s i) || coming (pdOf s i)) = [] :=
    List.filter_eq_nil_iff.2 fun i hi => by
      have := List.any_eq_false.1 hany i hi
      simpa using this
  simp only [wakeOne, hnone, List.length_nil, hfind]
  exact if_neg (by decide)

theorem wakeable_iff (d : Pd) : wakeable d = true ↔ (d.st = .off ∨ d.closed = true) ∧ d.wakeQueued = false ∧ d.wakeWanted = false
    ∧ d.fenced = false ∧ MayWake d := by
  simp only [wakeable, MayWake, Bool.and_eq_true, Bool.or_eq_true, decide_eq_true_eq, Bool.not_eq_true']
  tauto

theorem capRefuse_first {h : Nat} (hclaim : s.power.capClaim = none) :
    capRefuse h s = { s with power := { s.power with capClaim := some h } } := by simp [capRefuse, hclaim]

/-! A bank before a poll -/

theorem bankPrewake_due {r : Nat} {g : Ring} {b : Nat} (hg : g = ringOf s r) (hb : b = bankOf (entryAddr g g.tail))
    (h : g.state = .active ∧ g.poll ≠ 0 ∧ b < 8 ∧ (pdOf s (36 + b)).st = .retain) : bankPrewake r s = requestWake (36 + b) s := by
  subst hg hb
  exact if_pos h

theorem bankPrewake_undue {r : Nat} {g : Ring} {b : Nat} (hg : g = ringOf s r) (hb : b = bankOf (entryAddr g g.tail))
    (h : ¬(g.state = .active ∧ g.poll ≠ 0 ∧ b < 8 ∧ (pdOf s (36 + b)).st = .retain)) : bankPrewake r s = s := by
  subst hg hb
  exact if_neg h

end
end Sys2Proof.Proofs
end

section
/-! PROOFS. How wakes end: a domain reaches ON, fails its test, or is overdue (R374, R436, R441, R445, R449); fenced engines (R445). -/

namespace Sys2Proof.Proofs

open Sys2Proof.Machine Sys2Proof.Safety Sys2Proof.Laws

section
variable {s t u : State} {i j : Nat}

/-! A domain reaches ON -/

/-- A domain that has reached ON (R440, R445). -/
def pdOn (d : Pd) : Pd := { d with st := .on, tested := true, fenced := false, closed := decide (d.policy = .forceOff) }

/-- A bank has missed a pass of the scrubber (R374). -/
def missedPass (s : State) (i : Nat) : Prop := 36 ≤ i ∧ i < 44 ∧ s.mem.missed.contains (i - 36) = true

/-- The memory once a bank that missed a pass has been scrubbed, no error being there to meet (R374). -/
def memOn (s : State) (i : Nat) : MemState :=
  if 36 ≤ i ∧ i < 44 ∧ s.mem.missed.contains (i - 36) = true then { s.mem with missed := s.mem.missed.filter (· != i - 36) } else s.mem

theorem reachOn_eq (hlatent : missedPass s i → s.mem.latent = []) : reachOn i s = { modPd s i pdOn with mem := memOn s i } := by
  by_cases hmissed : missedPass s i
  · have hmem : memOn s i = { s.mem with missed := s.mem.missed.filter (· != i - 36) } := if_pos hmissed
    have hnone : s.mem.latent.filter (fun c => bankOf c.1 == i - 36) = [] := by
      rw [hlatent hmissed]
      rfl
    have hreach : reachOn i s = scrubBank (i - 36) (modPd s i pdOn) := if_pos hmissed
    rw [hreach, hmem, scrubBank, modPd_mem, hnone]
    rfl
  · have hmem : memOn s i = s.mem := if_neg hmissed
    have hreach : reachOn i s = modPd s i pdOn := if_neg hmissed
    rw [hreach, hmem]
    rfl

/-- A domain that is no bank. -/
theorem reachOn_other (hbank : ¬(36 ≤ i ∧ i < 44)) (s : State) : reachOn i s = modPd s i pdOn := if_neg fun h => hbank ⟨h.1, h.2.1⟩

theorem busOnly_portAwake (p : Nat) (s : State) : BusOnly (reachOn (44 + p) s) (portAwake p s) :=
  BusOnly.trans (busOnly_modPort _ _ _) (BusOnly.foldl (fun _ _ => busOnly_modPort _ _ _) _ _)

/-- The wake of an engine, a bank, a port or `PD_48` that does not fail (R436, R445). -/
theorem wakeDone_reaches {pass : Bool} (hst : (pdOf s i).st = .waking) (hi : i < 49)
    (hpass : pass = true ∨ (36 ≤ i ∧ i < 49) ∨ wakeTests (pdOf s i) = false ∧ i < 36) : BusOnly (reachOn i s) (wakeDone i pass s) := by
  rw [wakeDone, if_neg (by simp [hst])]
  by_cases h36 : i < 36
  · have hgood : ¬((!pass && wakeTests (pdOf s i)) = true) := by
      rcases hpass with h | ⟨h, -⟩ | ⟨h, -⟩
      · simp [h]
      · omega
      · simp [h]
    rw [if_pos h36, engineAwake, if_neg hgood]
    exact .refl _
  rw [if_neg h36]
  by_cases h44 : i < 44
  · rw [if_pos h44]
    exact .refl _
  rw [if_neg h44]
  by_cases h48 : i < 48
  · have hport := busOnly_portAwake (i - 44) s
    rw [show 44 + (i - 44) = i by omega] at hport
    rwa [if_pos h48]
  · obtain rfl : i = 48 := by omega
    rw [if_neg h48, if_pos rfl]
    dsimp only
    split
    · exact .refl _
    · exact busOnly_startOps 16 _

/-- `PD_49` wakes with its start-up tests passed (R285, R441). -/
theorem wakeDone_rng (hst : (pdOf s 49).st = .waking) :
    wakeDone 49 true s = { modPd s 49 pdOn with rng := { instantiate s.rng with stopped := false, restarting := false } } := by
  rw [wakeDone, if_neg (by simp [hst])]
  change rngAwake true s = _
  rw [rngAwake, reachOn_other (by decide)]
  rfl

/-- What a domain's way to ON changes: the domain, and what its bank had missed. -/
theorem reachesOn_frame (hlen : i < s.power.pds.length) (hlatent : missedPass s i → s.mem.latent = []) (h : BusOnly (reachOn i s) t) :
    WorkStands { s with mem := memOn s i } t ∧ pdOf t i = pdOn (pdOf s i) ∧ ∀ j, j ≠ i → pdOf t j = pdOf s j := by
  have hon := reachOn_eq hlatent
  have hwork : WorkStands { s with mem := memOn s i } (reachOn i s) := by
    rw [hon]
    exact ⟨rfl, rfl, rfl, rfl, rfl, rfl, rfl⟩
  have hpower : t.power = (modPd s i pdOn).power := by
    rw [h.1, hon]
  refine ⟨WorkStands.trans hwork h.workStands, ?_, fun j hj => ?_⟩
  · rw [pdOf_congr hpower, pdOf_modPd_same _ _ _ hlen]
  · rw [pdOf_congr hpower, pdOf_modPd_ne _ _ hj.symm]

/-- The end of a wake that does not fail. -/
theorem wakeDone_frame {pass : Bool} (hlen : i < s.power.pds.length) (hi : i < 50) (hst : (pdOf s i).st = .waking)
    (hpass : pass = true ∨ (36 ≤ i ∧ i < 49) ∨ wakeTests (pdOf s i) = false ∧ i < 36) (hlatent : missedPass s i → s.mem.latent = []) :
    WorkStands { s with mem := memOn s i } (wakeDone i pass s) ∧ pdOf (wakeDone i pass s) i = pdOn (pdOf s i)
      ∧ (i = 49 → (wakeDone i pass s).rng = { instantiate s.rng with stopped := false, restarting := false })
      ∧ ∀ j, j ≠ i → pdOf (wakeDone i pass s) j = pdOf s j := by
  by_cases h49 : i = 49
  · subst h49
    obtain rfl : pass = true := by
      rcases hpass with h | h | h
      · exact h
      · omega
      · omega
    have hmem : memOn s 49 = s.mem := if_neg (by omega)
    have hpower : (wakeDone 49 true s).power = (modPd s 49 pdOn).power := by rw [wakeDone_rng hst]
    refine ⟨?_, ?_, fun _ => ?_, fun j hj => ?_⟩
    · rw [wakeDone_rng hst, hmem]
      exact ⟨rfl, rfl, rfl, rfl, rfl, rfl, rfl⟩
    · rw [pdOf_congr hpower, pdOf_modPd_same _ _ _ hlen]
    · rw [wakeDone_rng hst]
    · rw [pdOf_congr hpower, pdOf_modPd_ne _ _ (Ne.symm hj)]
  · obtain ⟨hwork, hpd, hothers⟩ := reachesOn_frame hlen hlatent (wakeDone_reaches hst (by omega) hpass)
    exact ⟨hwork, hpd, fun h => absurd h h49, hothers⟩

/-! Held work that wakes another engine -/

/-- From `s` to `t` power domains alone have changed, and none that is retired (R449). -/
def WakesOthers (s t : State) : Prop := (∃ w, t = { s with power := w }) ∧ ∀ i, (pdOf s i).retired = true → pdOf t i = pdOf s i

theorem WakesOthers.refl (s : State) : WakesOthers s s := ⟨⟨_, rfl⟩, fun _ _ => rfl⟩

theorem WakesOthers.trans (h : WakesOthers s t) (k : WakesOthers t u) : WakesOthers s u := by
  obtain ⟨⟨w, rfl⟩, hstands⟩ := h
  obtain ⟨⟨v, rfl⟩, kstands⟩ := k
  exact ⟨⟨v, rfl⟩, fun i hi => (kstands i (by rw [hstands i hi]; exact hi)).trans (hstands i hi)⟩

theorem wakesOthers_requestWake (i : Nat) (s : State) : WakesOthers s (requestWake i s) := by
  refine ⟨requestWake_frame i s, fun j hj => ?_⟩
  by_cases h : j = i
  · rw [requestWake_retired (h ▸ hj)]
  · exact pdOf_requestWake_ne h

theorem wakesOthers_capRefuse (h : Nat) (s : State) : WakesOthers s (capRefuse h s) := by
  have hclaimed : WakesOthers s { s with power := { s.power with capClaim := some h } } := ⟨⟨_, rfl⟩, fun _ _ => rfl⟩
  unfold capRefuse
  split
  · split
    · exact .refl s
    · exact hclaimed
  · exact hclaimed

theorem wakesOthers_wakeOne (h n : Nat) (l : List Nat) (s : State) : WakesOthers s (wakeOne h n l s) := by
  unfold wakeOne
  split
  · exact .refl s
  · split
    · split
      · exact wakesOthers_requestWake _ s
      · exact wakesOthers_capRefuse h s
    · exact .refl s

theorem wakesOthers_wakeFor (h : Nat) (n : Need) (s : State) : WakesOthers s (wakeFor h n s) := by
  match n with
  | [] => exact .refl s
  | [a] => exact wakesOthers_wakeOne h 1 a s
  | a :: b :: rest =>
    have htwo : wakeFor h (a :: b :: rest) s = if a = b then wakeOne h 2 a (wakeOne h 1 a s) else wakeOne h 1 b (wakeOne h 1 a s) := rfl
    rw [htwo]
    split
    · exact (wakesOthers_wakeOne h 1 a s).trans (wakesOthers_wakeOne h 2 a _)
    · exact (wakesOthers_wakeOne h 1 a s).trans (wakesOthers_wakeOne h 1 b _)

theorem wakesOthers_holdWake (h : Nat) (s : State) : WakesOthers s (holdWake h s) := by
  unfold holdWake
  split
  · exact wakesOthers_wakeFor h _ s
  · exact .refl s

theorem wakesOthers_foldl {β : Type} {f : State → β → State} (hf : ∀ t b, WakesOthers t (f t b)) (l : List β) (s : State) :
    WakesOthers s (l.foldl f s) := by
  induction l generalizing s with
  | nil => exact .refl s
  | cons b l ih => exact (hf s b).trans (ih _)

theorem wakesOthers_rewakeHeld (s : State) : WakesOthers s (rewakeHeld s) := wakesOthers_foldl (fun t (x : Hamper) => wakesOthers_holdWake x.id t) _ s

/-! A domain that is retired -/

/-- An event that is captured stands in EVENT (R415). -/
theorem raised_capture {b src detail : Nat} (hb : b < s.health.length) : Raised (capture b src detail none s) b src := by
  have hreaction : Wanes False (recordOnly b src detail (sevOf s b src) none s) (capture b src detail none s) :=
    wanes_ite (Wanes.refl _) (wanes_reactBase _ _ _ _ (Wanes.refl _))
  exact hreaction.raised b src (raised_recordOnly hb)

theorem laidAside_health (i cause : Nat) (s : State) : (laidAside i cause s).health = s.health := by
  unfold laidAside logRetirement
  split <;> rfl

theorem laidAside_pds (i cause : Nat) (s : State) : pdOf (laidAside i cause s) i = pdOf (modPd s i switchedOff) i := by
  unfold laidAside logRetirement
  split <;> rfl

/-- A domain in service that is retired is OFF for good, with its event (R449). -/
theorem retire_shelves (cause : Nat) (hlen : i < s.power.pds.length) (hhealth : 16 < s.health.length) (hin : (pdOf s i).retired = false) :
    Shelved (pdOf (retire i cause s) i) ∧ Raised (retire i cause s) 16 2 := by
  rw [retire_eq, if_neg (by simp [hin])]
  have hoff : Shelved (pdOf (laidAside i cause s) i) := by
    rw [laidAside_pds, pdOf_modPd_same _ _ _ hlen]
    exact shelved_switchedOff _
  have hraised : Raised (capture 16 2 i none (laidAside i cause s)) 16 2 := raised_capture (by rw [laidAside_health]; exact hhealth)
  have hnoted : Wanes False (capture 16 2 i none (laidAside i cause s)) (noteDegraded (capture 16 2 i none (laidAside i cause s))) :=
    wanes_noteDegraded (Wanes.refl _)
  refine ⟨(endures_retirementNoted i).shelved i hoff, ?_⟩
  split
  · exact (wanes_capture 16 5 (i - 36) none hnoted).raised 16 2 hraised
  · exact hnoted.raised 16 2 hraised

/-- The next engine that held work wakes leaves it so (R445). -/
theorem rewakeHeld_shelves (h : Shelved (pdOf s i) ∧ Raised s 16 2) : Shelved (pdOf (rewakeHeld s) i) ∧ Raised (rewakeHeld s) 16 2 := by
  obtain ⟨hoff, hraised⟩ := h
  obtain ⟨⟨w, hw⟩, hstands⟩ := wakesOthers_rewakeHeld s
  refine ⟨by rw [hstands i hoff.1]; exact hoff, ?_⟩
  rw [hw]
  exact hraised

theorem wakeTimeout_shelves (hst : (pdOf s i).st = .waking) (hi : i < 44) (hlen : i < s.power.pds.length) (hhealth : 16 < s.health.length)
    (hin : (pdOf s i).retired = false) : Shelved (pdOf (wakeTimeout i s) i) ∧ Raised (wakeTimeout i s) 16 2 := by
  have hretired := retire_shelves 3 hlen hhealth hin
  rw [wakeTimeout, if_neg (by simp [hst])]
  by_cases h36 : i < 36
  · rw [if_pos h36]
    exact rewakeHeld_shelves hretired
  · rwa [if_neg h36, if_pos hi]

theorem wakeDone_shelves (hst : (pdOf s i).st = .waking) (hi : i < 36) (htests : wakeTests (pdOf s i) = true) (hlen : i < s.power.pds.length)
    (hhealth : 16 < s.health.length) (hin : (pdOf s i).retired = false) :
    Shelved (pdOf (wakeDone i false s) i) ∧ Raised (wakeDone i false s) 16 2 := by
  have hfails : (!false && wakeTests (pdOf s i)) = true := by simp [htests]
  rw [wakeDone, if_neg (by simp [hst]), if_pos hi, engineAwake, if_pos hfails]
  exact rewakeHeld_shelves (retire_shelves 2 hlen hhealth hin)

/-- R449 knows no retirement of a port's logic or the memory port. -/
theorem wakeTimeout_untimed (hlo : 44 ≤ i) (hhi : i < 49) : wakeTimeout i s = s := by
  unfold wakeTimeout
  rw [if_neg (show ¬i < 36 by omega), if_neg (show ¬i < 44 by omega), if_neg (show ¬i = 49 by omega), ite_self]

/-- ENTROPY_FAIL is raised over a DRBG that has stopped (R285). -/
theorem rngStopped_raised (hhealth : 15 < s.health.length) {w : Power} :
    Raised (raise 15 1 0 none { s with power := w, rng := { s.rng with stopped := true, restarting := false } }) 15 1
      ∧ (raise 15 1 0 none { s with power := w, rng := { s.rng with stopped := true, restarting := false } }).rng
        = { s.rng with stopped := true, restarting := false } :=
  ⟨raised_raise none hhealth, (endures_raise _ _ _ _).rng⟩

/-- An overdue wake of `PD_49`, and one whose start-up tests fail, stop the DRBG (R285, R445). -/
theorem wakeTimeout_rng (hst : (pdOf s 49).st = .waking) : wakeTimeout 49 s = raise 15 1 0 none
    { s with power := (modPd s 49 (fun d => { d with st := .off })).power, rng := { s.rng with stopped := true, restarting := false } } := by
  rw [wakeTimeout, if_neg (by simp [hst])]
  rfl

theorem wakeDone_rngFails (hst : (pdOf s 49).st = .waking) : wakeDone 49 false s = raise 15 1 0 none
    { s with power := (modPd s 49 pdOn).power, rng := { s.rng with stopped := true, restarting := false } } := by
  rw [wakeDone, if_neg (by simp [hst])]
  change rngAwake false s = _
  rw [rngAwake, reachOn_other (by decide)]
  rfl

/-! A fenced engine -/

theorem fenceRetest_undue (h : (pdOf s i).fenced = false ∨ (pdOf s i).retired = true ∨ (pdOf s i).policy = .forceOff
    ∨ (pdOf s i).running.isSome ∨ (pdOf s i).suspended.isSome) : fenceRetest i s = s := by
  refine if_pos ?_
  rcases h with h | h | h | h | h <;> simp [h]

/-- A fenced idle engine that may wake: one that is ON is tested at once, another is woken (R445). -/
theorem fenceRetest_due (hfenced : (pdOf s i).fenced = true) (hmay : MayWake (pdOf s i)) (hrun : (pdOf s i).running = none)
    (hsus : (pdOf s i).suspended = none) :
    fenceRetest i s = if (pdOf s i).st = .on then modPd s i (fun d => { d with st := .waking, closed := false }) else requestWake i s := by
  obtain ⟨hretired, hpolicy⟩ := hmay
  simp [fenceRetest, hfenced, hretired, hpolicy, hrun, hsus]

end
end Sys2Proof.Proofs
end

section
/-! PROOFS. The junction temperature and its alarm (R427, R447), the wait for headroom (R446); and O59. -/

namespace Sys2Proof.Proofs

open Sys2Proof.Machine Sys2Proof.Safety Sys2Proof.Laws

section
variable {s : State} {i : Nat} {tj : Int}

/-! An alarm that reaches engines -/

theorem unused_eraseEngine (status detail i : Nat) (s : State) : (pdOf (eraseEngine status detail i s) i).running = none := by
  unfold eraseEngine
  dsimp only
  generalize List.foldl _ s _ = t
  by_cases hi : i < t.power.pds.length
  · rw [pdOf_modPd_same _ _ _ hi]
  · simp [pdOf, modPd, hi]

/-- Engines whose contexts are erased one after the other run nothing, and none starts meanwhile. -/
theorem unused_erased {l : List (Nat × Option Nat)} (h : (pdOf s i).running = none ∨ i ∈ l.map (·.1)) :
    (pdOf (l.foldl (fun s c => eraseEngine 0x52 0 c.1 s) s) i).running = none := by
  induction l generalizing s with
  | nil => simpa using h
  | cons c l ih =>
    refine ih ?_
    rcases h with h | h
    · exact .inl ((endures_eraseEngine _ _ _).unused i h)
    · rcases List.mem_cons.1 h with rfl | h
      · exact .inl (unused_eraseEngine _ _ _ _)
      · exact .inr h

/-- Engines that hold work, with the domains of their hampers. -/
def busyEngines (l : List Nat) (s : State) : List (Nat × Option Nat) :=
  (l.filter (fun i => (pdOf s i).running.isSome)).map (fun i => (i, occupantDomain s (pdOf s i).running))

theorem mem_busyEngines {l : List Nat} (hi : i ∈ l) (hrun : (pdOf s i).running ≠ none) : i ∈ (busyEngines l s).map (·.1) := by
  refine List.mem_map.2 ⟨(i, _), List.mem_map.2 ⟨i, List.mem_filter.2 ⟨hi, ?_⟩, rfl⟩, rfl⟩
  exact Option.isSome_iff_ne_none.2 hrun

/-- After an alarm the engines it reaches run nothing (R222, R427). -/
theorem unused_alarmOn {l : List Nat} (hi : i ∈ l) : (pdOf (alarmOn l s) i).running = none := by
  have herased : (pdOf ((busyEngines l s).foldl (fun s c => eraseEngine 0x52 0 c.1 s) s) i).running = none := by
    refine unused_erased ?_
    by_cases hrun : (pdOf s i).running = none
    · exact .inl hrun
    · exact .inr (mem_busyEngines hi hrun)
  have hfenced (t : State) : Endures t ((busyEngines l s).foldl
      (fun s c => fence c.1 (raise (engineBlock c.1).1 0 (engineBlock c.1).2 c.2 s)) t) :=
    endures_foldl (fun _ _ => (endures_raise _ _ _ _).trans (endures_fence _)) _
  exact (hfenced _).unused i herased

/-! The throttle -/

/-- A sample of the temperature (R447). -/
def sampled (tj : Int) (s : State) : State := { s with power := { s.power with tj := tj } }

theorem tjThrottle_raises (h115 : 115 ≤ tj) (hoff : s.power.throttled = false) :
    tjThrottle tj s = raise 16 0 (tjDetail tj) none { s with power := { s.power with throttled := true } } := if_pos ⟨h115, hoff⟩

/-- Where the throttle does not begin, it ends below 110 C (R447). -/
theorem tjThrottle_keeps (h : ¬(115 ≤ tj ∧ s.power.throttled = false)) :
    tjThrottle tj s = { s with power := { s.power with throttled := s.power.throttled && decide (110 ≤ tj) } } := by
  rw [tjThrottle, if_neg h]
  split
  · next hlow => simp [show ¬110 ≤ tj by omega]
  · next hhigh => simp [show 110 ≤ tj by omega]

/-- The throttle after a sample (R447). -/
theorem throttled_keeps (h : ¬(115 ≤ tj ∧ s.power.throttled = false)) :
    (decide (115 ≤ tj) || (s.power.throttled && decide (110 ≤ tj))) = (s.power.throttled && decide (110 ≤ tj)) := by
  by_cases h115 : 115 ≤ tj
  · have hon : s.power.throttled = true := by simpa [h115] using h
    simp [hon, h115, show 110 ≤ tj by omega]
  · simp [h115]

/-- The temperature is critical no more (R447). -/
def criticalOver (s : State) : State := { s with power := { s.power with tjCritical := false } }

theorem tjSample_eq (tj : Int) (s : State) : exec (.tjSample tj) s = .next (tjCritical tj (tjThrottle tj (sampled tj s))) := rfl

/-- Below 125 C, the event of the throttle at INFO or MINOR. -/
theorem tjSample_cool (hhealth : 16 < s.health.length) (hcool : tj < 125) (hsev : sevOf s 16 0 ≤ 1) :
    ∃ t, exec (.tjSample tj) s = .next t ∧ WorkStands s t ∧ (115 ≤ tj → s.power.throttled = false → Raised t 16 0)
      ∧ t.power = { s.power with tj := tj, throttled := decide (115 ≤ tj) || (s.power.throttled && decide (110 ≤ tj)), tjCritical := false } := by
  have hcalm (u : State) : tjCritical tj u = criticalOver u := if_neg (by omega)
  refine ⟨criticalOver (tjThrottle tj (sampled tj s)), congrArg Host.Outcome.next (hcalm _), ?_⟩
  by_cases h : 115 ≤ tj ∧ s.power.throttled = false
  · obtain ⟨h115, hoff⟩ := h
    rw [tjThrottle_raises (s := sampled tj s) h115 hoff, raise_minor (by exact hsev), decide_eq_true h115]
    exact ⟨⟨rfl, rfl, rfl, rfl, rfl, rfl, rfl⟩, fun _ _ => raised_recordOnly (by exact hhealth), rfl⟩
  · rw [tjThrottle_keeps (s := sampled tj s) h, throttled_keeps h]
    exact ⟨⟨rfl, rfl, rfl, rfl, rfl, rfl, rfl⟩, fun h115 hoff => absurd ⟨h115, hoff⟩ h, rfl⟩

/-- A sample above 115 C leaves the throttle on and the rest of the flags (R447). -/
theorem tjThrottle_hot (h115 : 115 ≤ tj) : (tjThrottle tj s).power.tj = s.power.tj ∧ (tjThrottle tj s).power.throttled = true
    ∧ (tjThrottle tj s).power.tjCritical = s.power.tjCritical := by
  by_cases hoff : s.power.throttled = false
  · rw [tjThrottle_raises h115 hoff]
    have hraised := endures_raise (s := { s with power := { s.power with throttled := true } }) 16 0 (tjDetail tj) none
    exact ⟨hraised.tj, hraised.throttled, hraised.critical⟩
  · have hon : s.power.throttled = true := by simpa using hoff
    rw [tjThrottle_keeps fun h => hoff h.2]
    exact ⟨rfl, by simp [hon, show 110 ≤ tj by omega], rfl⟩

/-- The temperature is critical from now on (R447). -/
def criticalNow (s : State) : State := { s with power := { s.power with tjCritical := true } }

theorem tjCritical_first (hhot : 125 ≤ tj) (hfirst : ¬s.power.tjCritical = true) :
    tjCritical tj s = raise 16 1 (tjDetail tj) none (alarmAll (criticalNow s)) := by
  rw [tjCritical, if_pos hhot, if_neg hfirst]
  rfl

/-- The first sample at or above 125 C (R427, R447). -/
theorem tjSample_critical (hshape : Shape s) (hhot : 125 ≤ tj) (hfirst : s.power.tjCritical = false) :
    ∃ t, exec (.tjSample tj) s = .next t ∧ Raised t 16 1 ∧ t.power.tj = tj ∧ t.power.throttled = true ∧ t.power.tjCritical = true
      ∧ ∀ i < 36, (pdOf t i).running = none := by
  obtain ⟨htj, hon, hcrit⟩ := tjThrottle_hot (s := sampled tj s) (tj := tj) (by omega)
  have hshape' : Shape (tjThrottle tj (sampled tj s)) := (keeps_tjThrottle tj (Keeps.refl (sampled tj s))).2.1 hshape
  refine ⟨tjCritical tj (tjThrottle tj (sampled tj s)), rfl, ?_⟩
  generalize tjThrottle tj (sampled tj s) = u at *
  have hnot : ¬u.power.tjCritical = true := by rw [hcrit]; exact Bool.eq_false_iff.1 hfirst
  have hhealth : 16 < (alarmAll (criticalNow u)).health.length := by
    obtain ⟨-, -, hhealth, -⟩ := (keeps_alarmAll (Keeps.refl (criticalNow u))).2.1 hshape'
    omega
  have hlast := endures_raise (s := alarmAll (criticalNow u)) 16 1 (tjDetail tj) none
  have hall := (endures_alarmOn (s := criticalNow u) (List.range 36)).trans hlast
  rw [tjCritical_first hhot hnot]
  exact ⟨raised_raise none hhealth, hall.tj.trans htj, hall.throttled.trans hon, hall.critical,
    fun i hi => hlast.unused i (unused_alarmOn (List.mem_range.2 hi))⟩

/-- A later sample there changes the temperature alone (R447). -/
theorem tjSample_again (hhot : 125 ≤ tj) (hon : s.power.throttled = true) (hcrit : s.power.tjCritical = true) :
    exec (.tjSample tj) s = .next { s with power := { s.power with tj := tj } } := by
  have hthrottle : tjThrottle tj (sampled tj s) = sampled tj s := by
    have hlow : ¬tj < 110 := by omega
    rw [tjThrottle, if_neg (fun h => by simp [sampled, hon] at h), if_neg hlow]
  have hsame : tjCritical tj (sampled tj s) = sampled tj s := by
    rw [tjCritical, if_pos hhot]
    exact if_pos hcrit
  rw [tjSample_eq, hthrottle, hsame]
  rfl

/-! The wait for headroom -/

theorem capWait_fits {h : Nat} (hfits : ∀ n, (hamperOf s h).bind (waitingNeed s) = some n → capFits s h (needCharge n) = true) : capWait h s = s := by
  unfold capWait
  split
  · next n hn => exact if_pos (hfits n hn)
  · rfl

theorem capWait_refused {h : Nat} {n : Need} (hn : (hamperOf s h).bind (waitingNeed s) = some n) (hno : capFits s h (needCharge n) = false)
    (hsev : sevOf s 16 4 ≤ 1) : capWait h s = recordOnly 16 4 (needClass n) (sevOf s 16 4) ((hamperOf s h).map (·.domain)) s := by
  simp only [capWait, hn, hno, Bool.false_eq_true, if_false]
  exact raise_minor hsev

end

/-- Settles O59: each command does its step where it is due; what endures meanwhile keeps a retired domain OFF and a struck engine empty. -/
theorem domainsGateWakeAndThrottle : Obligations.DomainsGateWakeAndThrottle := by
  unfold Obligations.DomainsGateWakeAndThrottle
  intro s hshape
  have hpds (i : Nat) (hi : i < 50) : i < s.power.pds.length := by
    obtain ⟨-, hpds, -⟩ := hshape
    omega
  have hhealth : s.health.length = 21 := by
    obtain ⟨-, -, hhealth, -⟩ := hshape
    exact hhealth
  refine ⟨fun i => rfl, fun i => ⟨fun hno => ?_, fun hclosed hon hdrained keeps hkeeps => ?_⟩, ?_, fun h => ⟨fun hno => ?_, fun l hneed => ⟨fun hany => ?_,
    fun i hany hfind hi => ⟨fun hfits => ?_, fun hno hclaim => ?_⟩⟩⟩, fun r g b hg hb => ⟨fun hdue hopen hret hpol => ?_, fun hno => ?_⟩,
    fun i => ⟨fun hst pass => ?_, fun hst => ⟨fun pass hpass hlatent => ?_, fun hi hin c hc => ?_, fun h49 c hc => ?_, fun hlo hhi => ?_⟩⟩,
    fun e d hd => ⟨fun hno => ?_, fun hfenced hret hpol hrun hsus => ⟨fun hon => ?_, fun hoff hopen hnow => ?_⟩⟩,
    fun h => ⟨fun hfits => ?_, fun n hn hno hsev => ?_⟩, fun tj => ⟨fun hcool hsev => ?_, fun hhot hon hcrit => ?_, fun hhot hfirst => ?_⟩⟩
  · exact congrArg Host.Outcome.next (gateDomain_undue hno)
  · subst hkeeps
    have hi := hpds i i.isLt
    obtain ⟨w, hw⟩ := gateDomain_frame hclosed hon hdrained
    obtain ⟨hrings, hhampers, hthermos, -⟩ := contentLost_frame (keepsContent s i) i (modPd s i (pdGated (keepsContent s i)))
    refine ⟨gateDomain i s, rfl, ?_, ?_, ?_, pdOf_gateDomain hi hclosed hon hdrained,
      fun hwanted hret hpol hnow => st_gateDomain_wanted hi hclosed hon hdrained hwanted ⟨hret, hpol⟩ hnow,
      fun j hj => pdOf_gateDomain_ne hclosed hon hdrained hj, fun a => ?_, ?_, ?_⟩
    · rw [hw]; exact hrings
    · rw [hw]; exact hhampers
    · rw [hw]; exact hthermos
    · rw [hw]; exact contentLost_pantry _ _ _ a
    · rw [hw]; exact contentLost_cache (keepsContent_bank s) _
    · rw [hw]; exact contentLost_keys (keepsContent_bank s) _
  · obtain ⟨ds, hds⟩ := startQueued_frame s
    refine ⟨startQueued s, rfl, by rw [hds]; rfl, by rw [hds]; exact List.length_take, ?_, fun i hi hlt => ?_, fun i hi => ?_⟩
    · rw [hds]; exact ⟨rfl, rfl, rfl, rfl, rfl, rfl, rfl⟩
    · rw [pdOf_startQueued fun _ => hpds i hlt, if_pos hi]
      exact ⟨wakeQueued_queuedStarted _, st_queuedStarted⟩
    · rw [pdOf_startQueued fun h => absurd h hi, if_neg hi]
  · exact congrArg Host.Outcome.next (holdWake_unneeded hno)
  · exact congrArg Host.Outcome.next ((holdWake_single hneed).trans (wakeOne_served hany))
  · have hwake : holdWake h s = requestWake i s := by rw [holdWake_single hneed, wakeOne_first hany hfind, if_pos hfits]
    obtain ⟨hoff, hqueued, -, -, hmay⟩ := (wakeable_iff _).1 (by simpa using List.find?_some hfind)
    have hgated (hopen : (pdOf s i).closed = false) : Gated (pdOf s i) := ⟨hopen, .inl (hoff.resolve_right (by simp [hopen]))⟩
    have hlen := hpds i (by omega)
    refine ⟨requestWake i s, congrArg Host.Outcome.next hwake, workStands_requestWake i s, fun j hj => pdOf_requestWake_ne hj,
      fun hclosed => ?_, fun hopen hnow => ⟨?_, ?_⟩, fun hopen hnow => ?_⟩
    · rw [requestWake_closed hmay hclosed, pdOf_modPd_same _ _ _ hlen]
    · rw [pdOf_requestWake hlen hmay (hgated hopen) (.inr hnow)]
    · rw [requestWake_engine hi hmay (hgated hopen) hnow]; rfl
    · rw [requestWake_queues hi hmay (hgated hopen) hnow hqueued]; rfl
  · refine congrArg Host.Outcome.next ?_
    rw [holdWake_single hneed, wakeOne_first hany hfind, if_neg (by simp [hno]), capRefuse_first hclaim]
  · refine congrArg Host.Outcome.next ((bankPrewake_due hg hb hdue).trans (requestWake_apart (by omega) ⟨hret, hpol⟩ ⟨hopen, .inr ?_⟩))
    exact hdue.2.2.2
  · exact congrArg Host.Outcome.next (bankPrewake_undue hg hb hno)
  · exact ⟨congrArg Host.Outcome.next (if_pos hst), congrArg Host.Outcome.next (if_pos hst)⟩
  · obtain ⟨hwork, hpd, hrng, hothers⟩ := wakeDone_frame (hpds i i.isLt) i.isLt hst hpass fun ⟨hlo, hhi, hmissed⟩ => hlatent hlo hhi hmissed
    exact ⟨wakeDone i pass s, rfl, hwork, hpd, hrng, hothers⟩
  · obtain rfl | ⟨rfl, h36, htests⟩ := hc
    · obtain ⟨⟨hretired, hoff⟩, hraised⟩ := wakeTimeout_shelves hst hi (hpds i i.isLt) (by omega) hin
      exact ⟨wakeTimeout i s, rfl, hretired, hoff, hraised⟩
    · obtain ⟨⟨hretired, hoff⟩, hraised⟩ := wakeDone_shelves hst h36 htests (hpds i i.isLt) (by omega) hin
      exact ⟨wakeDone i false s, rfl, hretired, hoff, hraised⟩
  · obtain rfl : i = 49 := Fin.ext h49
    obtain rfl | rfl := hc
    · exact ⟨_, congrArg Host.Outcome.next (wakeTimeout_rng hst), rngStopped_raised (by omega)⟩
    · exact ⟨_, congrArg Host.Outcome.next (wakeDone_rngFails hst), rngStopped_raised (by omega)⟩
  · exact congrArg Host.Outcome.next (wakeTimeout_untimed hlo hhi)
  · subst hd
    exact congrArg Host.Outcome.next (fenceRetest_undue hno)
  · subst hd
    exact congrArg Host.Outcome.next ((fenceRetest_due hfenced ⟨hret, hpol⟩ hrun hsus).trans (if_pos hon))
  · subst hd
    have hwake := (fenceRetest_due hfenced ⟨hret, hpol⟩ hrun hsus).trans (if_neg (by simp [hoff]))
    have hlen := hpds e (by omega)
    exact ⟨requestWake e s, congrArg Host.Outcome.next hwake, pdOf_requestWake hlen ⟨hret, hpol⟩ ⟨hopen, .inl hoff⟩ (.inr hnow),
      fun j hj => pdOf_requestWake_ne hj, workStands_requestWake e s⟩
  · exact congrArg Host.Outcome.next (capWait_fits hfits)
  · exact ⟨_, congrArg Host.Outcome.next (capWait_refused hn hno hsev), raised_recordOnly (by omega), workStands_recordOnly _ _ _ _ _ _, rfl⟩
  · exact tjSample_cool (by omega) hcool hsev
  · exact tjSample_again hhot hon hcrit
  · exact tjSample_critical hshape hhot hfirst

end Sys2Proof.Proofs
end
